-- ==== Sys2Proof/Syntax.lean ====
section
/-!
DEFINITION. The instructions and events of the Dunenar: one constructor per row of spec/opcode_table.json, in its order.

The first 261 rows are the 32-bit words of 08:R211; each field is a bit vector of the width its form gives (08:R205),
the stall count `s` first. A field an entry marks zero is no argument: the decoder checks it.
The other 116 rows have no bits: they are what the device, the host, the hypervisor or the outside does, each whole and
indivisible (spec/95). Their arguments say which unit acts and what comes from outside.
-/

namespace Sys2Proof

/-- An argument of a `.launch` line: an integer, or the address of a region by its symbol (08:R229). -/
inductive LaunchArg where
  | int (v : BitVec 64)
  | slot (sym : Nat)
  deriving DecidableEq, Repr

/-- A `.launch` line of an object, its names as indices of the symbol table (08:R229), with the virtual and physical address at which the loader
puts its descriptor. -/
structure LaunchLine where
  entry : Nat
  threads : Nat := 0
  crews : Nat := 0
  crewsz : Nat := 0
  nquad : Nat := 0
  prio : Nat := 0
  tin : List Nat := []
  tout : List Nat := []
  consume : List Nat := []
  args : List LaunchArg := []
  descVa : Nat
  descPa : Nat
  deriving DecidableEq, Repr

/-- What the loader chooses when it loads an object: nothing of spec/ fixes these (02:R47, 08:R227, 20:R457). -/
structure LoadPlace where
  /-- For each block its copies: logical quad and first word in that code store. -/
  copies : List (List (Nat × Nat))
  /-- Virtual and physical address of the object's global extent, a multiple of 64 KiB (22:R457). -/
  extVa : Nat
  extPa : Nat
  /-- Virtual and physical address of the link table (02:R44). -/
  lnkVa : Nat
  lnkPa : Nat
  /-- Page-table entries the loader writes: physical address and entry (04:R109, 04:R110). -/
  tabs : List (Nat × BitVec 64)
  /-- The `.launch` lines of the object, in source order (08:R229). -/
  launches : List LaunchLine := []
  deriving DecidableEq, Repr

/-- What system software places when it creates a context: tile headers and page-table entries (07:R184, 04:R110). -/
structure CtxPlace where
  tilb : Nat
  tilePa : Nat
  /-- Physical address of the overflow rings, 1 MiB for each quad (03:R69). -/
  rings : Nat := 0
  tabs : List (Nat × BitVec 64)
  deriving DecidableEq, Repr

/-- A register a debugger names (18:R403). -/
inductive DebugReg where
  | w (n : Nat)
  | p
  | pc
  | tlvl
  | tsa
  | tvec
  /-- The base and coefficient j of a descriptor register (09:R254). -/
  | x (n : Nat)
  | xc (n j : Nat)
  /-- A control register of the gang, its lanes or its core, by its index (08:R208, R210). -/
  | csr (i : Nat)
  deriving DecidableEq, Repr

/-- What an uncorrected error hits (24:R465): of class 13 an entry of a quad's or a cluster's TLB, or, by a number that no entry has, one of the
structures that hold nothing of the model's state; the parity of an integrator cell; or the products of as many K steps of a cluster's matrix
unit, which their checksums find (20:R431). -/
inductive ErrorSite where
  | context (cx : Nat)
  | cleanLine
  | class13 (quad entry : Nat)
  | clusTlb (clus entry : Nat)
  | cell (core k : Nat)
  | products (clus n : Nat)
  | package
  deriving DecidableEq, Repr

/-- Management registers whose write has no behaviour of its own (00:R5). -/
inductive MgmtReg where
  /-- L2 way mask of a virtual function (04:R118). -/
  | ways (vf : Nat)
  /-- Shared SRAM unit list of a slice (04:R106). -/
  | units (sl : Nat)
  /-- Time-triggered table entry: period, offset, target, ctl, slice, vf (07:R191). -/
  | table (e : Nat)
  /-- Fabric slots a virtual function owns (13:R334). -/
  | slots (vf : Nat)
  /-- Debug control word of a resident context, fields frz and bpen (18:R398). -/
  | debug (sl cx : Nat)
  /-- Aperture: peer number and base address (14:R372). -/
  | aperture (i : Nat)
  /-- Port set of a peer in the routing table of an I/O die (14:R373). -/
  | peer (die p : Nat)
  /-- The slice a virtual function is bound to (14:R357). -/
  | binding (vf : Nat)
  /-- A read-only or reserved register: the write is ignored (00:R5). -/
  | readOnly
  deriving DecidableEq, Repr

inductive Instr where
  /-- NOP, R233: Does nothing. -/
  | nop (s : BitVec 3)
  /-- END, R233: Every selected lane leaves the gang under R71 and its thread ends; unselected lanes continue. -/
  | end_ (s : BitVec 3) (g : BitVec 4)
  /-- YIELD, R233: The gang becomes ready again at once as the latest-ready gang. -/
  | yield (s : BitVec 3)
  /-- CHUNK, R233: Ends the current chunk after the instruction. -/
  | chunk (s : BitVec 3)
  /-- BRK, R233: Halts the slice for debug when breakpoints are enabled, otherwise acts as nop. -/
  | brk (s : BitVec 3)
  /-- TRAP, R234: Raises a trap at the next level with the given cause for the selected lanes. -/
  | trap (s : BitVec 3) (c : BitVec 5) (g : BitVec 4)
  /-- ERET, R391: Returns one trap level, restoring the active mask, window and held loop state, and continues at tpc. -/
  | eret (s : BitVec 3)
  /-- JOIN, R70: Runs the parked path or merges the divergence-stack top entry. -/
  | join (s : BitVec 3)
  /-- RET, R235: Returns from a local call using the return word in w7 and the window fill of R75. -/
  | ret (s : BitVec 3)
  /-- TLBINV, R113: Removes a stage-1 translation from every TLB of the slice and acts as fence.d. -/
  | tlbinv (s : BitVec 3) (a : BitVec 5)
  /-- ADD, R237: 64-bit wrapping add. -/
  | add (s : BitVec 3) (d : BitVec 5) (a : BitVec 5) (b : BitVec 5) (g : BitVec 4)
  /-- SUB, R237: 64-bit wrapping subtract. -/
  | sub (s : BitVec 3) (d : BitVec 5) (a : BitVec 5) (b : BitVec 5) (g : BitVec 4)
  /-- AND, R237: 64-bit bitwise and. -/
  | and (s : BitVec 3) (d : BitVec 5) (a : BitVec 5) (b : BitVec 5) (g : BitVec 4)
  /-- OR, R237: 64-bit bitwise or. -/
  | or (s : BitVec 3) (d : BitVec 5) (a : BitVec 5) (b : BitVec 5) (g : BitVec 4)
  /-- XOR, R237: 64-bit bitwise xor. -/
  | xor (s : BitVec 3) (d : BitVec 5) (a : BitVec 5) (b : BitVec 5) (g : BitVec 4)
  /-- ANDN, R237: 64-bit a and not b. -/
  | andn (s : BitVec 3) (d : BitVec 5) (a : BitVec 5) (b : BitVec 5) (g : BitVec 4)
  /-- SHL, R237: 64-bit shift left by b mod 64. -/
  | shl (s : BitVec 3) (d : BitVec 5) (a : BitVec 5) (b : BitVec 5) (g : BitVec 4)
  /-- SHR, R237: 64-bit logical shift right. -/
  | shr (s : BitVec 3) (d : BitVec 5) (a : BitVec 5) (b : BitVec 5) (g : BitVec 4)
  /-- SAR, R237: 64-bit arithmetic shift right. -/
  | sar (s : BitVec 3) (d : BitVec 5) (a : BitVec 5) (b : BitVec 5) (g : BitVec 4)
  /-- ROL, R237: 64-bit rotate left. -/
  | rol (s : BitVec 3) (d : BitVec 5) (a : BitVec 5) (b : BitVec 5) (g : BitVec 4)
  /-- MIN, R237: Signed 64-bit minimum. -/
  | min (s : BitVec 3) (d : BitVec 5) (a : BitVec 5) (b : BitVec 5) (g : BitVec 4)
  /-- MAX, R237: Signed 64-bit maximum. -/
  | max (s : BitVec 3) (d : BitVec 5) (a : BitVec 5) (b : BitVec 5) (g : BitVec 4)
  /-- MINU, R237: Unsigned 64-bit minimum. -/
  | minu (s : BitVec 3) (d : BitVec 5) (a : BitVec 5) (b : BitVec 5) (g : BitVec 4)
  /-- MAXU, R237: Unsigned 64-bit maximum. -/
  | maxu (s : BitVec 3) (d : BitVec 5) (a : BitVec 5) (b : BitVec 5) (g : BitVec 4)
  /-- ADDS, R237: Signed saturating 64-bit add. -/
  | adds (s : BitVec 3) (d : BitVec 5) (a : BitVec 5) (b : BitVec 5) (g : BitVec 4)
  /-- SUBS, R237: Signed saturating 64-bit subtract. -/
  | subs (s : BitVec 3) (d : BitVec 5) (a : BitVec 5) (b : BitVec 5) (g : BitVec 4)
  /-- NEG, R237: 64-bit wrapping negate. -/
  | neg (s : BitVec 3) (d : BitVec 5) (a : BitVec 5) (g : BitVec 4)
  /-- ABS, R237: 64-bit wrapping absolute value. -/
  | abs (s : BitVec 3) (d : BitVec 5) (a : BitVec 5) (g : BitVec 4)
  /-- CLZ, R237: Counts leading zero bits. -/
  | clz (s : BitVec 3) (d : BitVec 5) (a : BitVec 5) (g : BitVec 4)
  /-- CTZ, R237: Counts trailing zero bits. -/
  | ctz (s : BitVec 3) (d : BitVec 5) (a : BitVec 5) (g : BitVec 4)
  /-- POPC, R237: Counts set bits. -/
  | popc (s : BitVec 3) (d : BitVec 5) (a : BitVec 5) (g : BitVec 4)
  /-- SEXT8, R237: Sign-extends the low 8 bits. -/
  | sext8 (s : BitVec 3) (d : BitVec 5) (a : BitVec 5) (g : BitVec 4)
  /-- SEXT16, R237: Sign-extends the low 16 bits. -/
  | sext16 (s : BitVec 3) (d : BitVec 5) (a : BitVec 5) (g : BitVec 4)
  /-- SEXT32, R237: Sign-extends the low 32 bits. -/
  | sext32 (s : BitVec 3) (d : BitVec 5) (a : BitVec 5) (g : BitVec 4)
  /-- ZEXT32, R237: Zero-extends the low 32 bits. -/
  | zext32 (s : BitVec 3) (d : BitVec 5) (a : BitVec 5) (g : BitVec 4)
  /-- BREV, R237: Reverses the bit order. -/
  | brev (s : BitVec 3) (d : BitVec 5) (a : BitVec 5) (g : BitVec 4)
  /-- MOV, R237: Copies a register. -/
  | mov (s : BitVec 3) (d : BitVec 5) (a : BitVec 5) (g : BitVec 4)
  /-- SEL, R237: Every active lane writes a where its guard holds, otherwise b. -/
  | sel (s : BitVec 3) (d : BitVec 5) (a : BitVec 5) (b : BitVec 5) (g : BitVec 4)
  /-- ADD_32, R237: 32-bit wrapping add, sign-extended. -/
  | add32 (s : BitVec 3) (d : BitVec 5) (a : BitVec 5) (b : BitVec 5) (g : BitVec 4)
  /-- SUB_32, R237: 32-bit wrapping subtract, sign-extended. -/
  | sub32 (s : BitVec 3) (d : BitVec 5) (a : BitVec 5) (b : BitVec 5) (g : BitVec 4)
  /-- AND_32, R237: 32-bit and, sign-extended. -/
  | and32 (s : BitVec 3) (d : BitVec 5) (a : BitVec 5) (b : BitVec 5) (g : BitVec 4)
  /-- OR_32, R237: 32-bit or, sign-extended. -/
  | or32 (s : BitVec 3) (d : BitVec 5) (a : BitVec 5) (b : BitVec 5) (g : BitVec 4)
  /-- XOR_32, R237: 32-bit xor, sign-extended. -/
  | xor32 (s : BitVec 3) (d : BitVec 5) (a : BitVec 5) (b : BitVec 5) (g : BitVec 4)
  /-- ANDN_32, R237: 32-bit a and not b, sign-extended. -/
  | andn32 (s : BitVec 3) (d : BitVec 5) (a : BitVec 5) (b : BitVec 5) (g : BitVec 4)
  /-- SHL_32, R237: 32-bit shift left, sign-extended. -/
  | shl32 (s : BitVec 3) (d : BitVec 5) (a : BitVec 5) (b : BitVec 5) (g : BitVec 4)
  /-- SHR_32, R237: 32-bit logical shift right, sign-extended. -/
  | shr32 (s : BitVec 3) (d : BitVec 5) (a : BitVec 5) (b : BitVec 5) (g : BitVec 4)
  /-- SAR_32, R237: 32-bit arithmetic shift right, sign-extended. -/
  | sar32 (s : BitVec 3) (d : BitVec 5) (a : BitVec 5) (b : BitVec 5) (g : BitVec 4)
  /-- ROL_32, R237: 32-bit rotate left, sign-extended. -/
  | rol32 (s : BitVec 3) (d : BitVec 5) (a : BitVec 5) (b : BitVec 5) (g : BitVec 4)
  /-- MIN_32, R237: Signed 32-bit minimum. -/
  | min32 (s : BitVec 3) (d : BitVec 5) (a : BitVec 5) (b : BitVec 5) (g : BitVec 4)
  /-- MAX_32, R237: Signed 32-bit maximum. -/
  | max32 (s : BitVec 3) (d : BitVec 5) (a : BitVec 5) (b : BitVec 5) (g : BitVec 4)
  /-- MINU_32, R237: Unsigned 32-bit minimum. -/
  | minu32 (s : BitVec 3) (d : BitVec 5) (a : BitVec 5) (b : BitVec 5) (g : BitVec 4)
  /-- MAXU_32, R237: Unsigned 32-bit maximum. -/
  | maxu32 (s : BitVec 3) (d : BitVec 5) (a : BitVec 5) (b : BitVec 5) (g : BitVec 4)
  /-- ADDS_32, R237: Signed saturating 32-bit add. -/
  | adds32 (s : BitVec 3) (d : BitVec 5) (a : BitVec 5) (b : BitVec 5) (g : BitVec 4)
  /-- SUBS_32, R237: Signed saturating 32-bit subtract. -/
  | subs32 (s : BitVec 3) (d : BitVec 5) (a : BitVec 5) (b : BitVec 5) (g : BitVec 4)
  /-- NEG_32, R237: 32-bit negate, sign-extended. -/
  | neg32 (s : BitVec 3) (d : BitVec 5) (a : BitVec 5) (g : BitVec 4)
  /-- ABS_32, R237: 32-bit absolute value, sign-extended. -/
  | abs32 (s : BitVec 3) (d : BitVec 5) (a : BitVec 5) (g : BitVec 4)
  /-- CLZ_32, R237: Leading zeros of the low 32 bits. -/
  | clz32 (s : BitVec 3) (d : BitVec 5) (a : BitVec 5) (g : BitVec 4)
  /-- CTZ_32, R237: Trailing zeros of the low 32 bits. -/
  | ctz32 (s : BitVec 3) (d : BitVec 5) (a : BitVec 5) (g : BitVec 4)
  /-- POPC_32, R237: Set bits of the low 32 bits. -/
  | popc32 (s : BitVec 3) (d : BitVec 5) (a : BitVec 5) (g : BitVec 4)
  /-- BREV_32, R237: Reverses the low 32 bits, sign-extended. -/
  | brev32 (s : BitVec 3) (d : BitVec 5) (a : BitVec 5) (g : BitVec 4)
  /-- MOV_32, R237: Copies the low 32 bits, sign-extended. -/
  | mov32 (s : BitVec 3) (d : BitVec 5) (a : BitVec 5) (g : BitVec 4)
  /-- SEL_32, R237: 32-bit select by guard, sign-extended. -/
  | sel32 (s : BitVec 3) (d : BitVec 5) (a : BitVec 5) (b : BitVec 5) (g : BitVec 4)
  /-- ADDI, R238: Adds a signed 11-bit immediate. -/
  | addi (s : BitVec 3) (d : BitVec 5) (a : BitVec 5) (i : BitVec 11)
  /-- ANDI, R238: Ands a sign-extended immediate. -/
  | andi (s : BitVec 3) (d : BitVec 5) (a : BitVec 5) (i : BitVec 11)
  /-- ORI, R238: Ors a sign-extended immediate. -/
  | ori (s : BitVec 3) (d : BitVec 5) (a : BitVec 5) (i : BitVec 11)
  /-- XORI, R238: Xors a sign-extended immediate. -/
  | xori (s : BitVec 3) (d : BitVec 5) (a : BitVec 5) (i : BitVec 11)
  /-- SHLI, R238: Shifts left by an immediate amount. -/
  | shli (s : BitVec 3) (d : BitVec 5) (a : BitVec 5) (i : BitVec 6)
  /-- SHRI, R238: Logical shift right by an immediate amount. -/
  | shri (s : BitVec 3) (d : BitVec 5) (a : BitVec 5) (i : BitVec 6)
  /-- SARI, R238: Arithmetic shift right by an immediate amount. -/
  | sari (s : BitVec 3) (d : BitVec 5) (a : BitVec 5) (i : BitVec 6)
  /-- SLTI, R238: Writes 1 if a is below the signed immediate, else 0. -/
  | slti (s : BitVec 3) (d : BitVec 5) (a : BitVec 5) (i : BitVec 11)
  /-- MOVZ, R239: Writes a 16-bit immediate at a chosen position, zeroing the rest. -/
  | movz (s : BitVec 3) (d : BitVec 5) (p : BitVec 2) (i : BitVec 16)
  /-- MOVK, R239: Replaces one 16-bit field of the register, keeping the rest. -/
  | movk (s : BitVec 3) (d : BitVec 5) (p : BitVec 2) (i : BitVec 16)
  /-- MUL, R240: 64-bit wrapping multiply. -/
  | mul (s : BitVec 3) (d : BitVec 5) (a : BitVec 5) (b : BitVec 5) (g : BitVec 4)
  /-- MULH, R240: High 64 bits of the signed product. -/
  | mulh (s : BitVec 3) (d : BitVec 5) (a : BitVec 5) (b : BitVec 5) (g : BitVec 4)
  /-- MULHU, R240: High 64 bits of the unsigned product. -/
  | mulhu (s : BitVec 3) (d : BitVec 5) (a : BitVec 5) (b : BitVec 5) (g : BitVec 4)
  /-- DIV, R240: Signed 64-bit division, trapping on a zero divisor. -/
  | div (s : BitVec 3) (d : BitVec 5) (a : BitVec 5) (b : BitVec 5) (g : BitVec 4)
  /-- DIVU, R240: Unsigned 64-bit division. -/
  | divu (s : BitVec 3) (d : BitVec 5) (a : BitVec 5) (b : BitVec 5) (g : BitVec 4)
  /-- REM, R240: Signed 64-bit remainder. -/
  | rem (s : BitVec 3) (d : BitVec 5) (a : BitVec 5) (b : BitVec 5) (g : BitVec 4)
  /-- REMU, R240: Unsigned 64-bit remainder. -/
  | remu (s : BitVec 3) (d : BitVec 5) (a : BitVec 5) (b : BitVec 5) (g : BitVec 4)
  /-- MUL_32, R240: 32-bit multiply, sign-extended. -/
  | mul32 (s : BitVec 3) (d : BitVec 5) (a : BitVec 5) (b : BitVec 5) (g : BitVec 4)
  /-- DIV_32, R240: Signed 32-bit division, sign-extended. -/
  | div32 (s : BitVec 3) (d : BitVec 5) (a : BitVec 5) (b : BitVec 5) (g : BitVec 4)
  /-- DIVU_32, R240: Unsigned 32-bit division, sign-extended. -/
  | divu32 (s : BitVec 3) (d : BitVec 5) (a : BitVec 5) (b : BitVec 5) (g : BitVec 4)
  /-- REM_32, R240: Signed 32-bit remainder, sign-extended. -/
  | rem32 (s : BitVec 3) (d : BitVec 5) (a : BitVec 5) (b : BitVec 5) (g : BitVec 4)
  /-- REMU_32, R240: Unsigned 32-bit remainder, sign-extended. -/
  | remu32 (s : BitVec 3) (d : BitVec 5) (a : BitVec 5) (b : BitVec 5) (g : BitVec 4)
  /-- MULW, R240: Exact product of two sign-extended 32-bit values. -/
  | mulw (s : BitVec 3) (d : BitVec 5) (a : BitVec 5) (b : BitVec 5) (g : BitVec 4)
  /-- MULWU, R240: Exact product of two zero-extended 32-bit values. -/
  | mulwu (s : BitVec 3) (d : BitVec 5) (a : BitVec 5) (b : BitVec 5) (g : BitVec 4)
  /-- CMP_EQ, R242: Sets a predicate if a equals b. -/
  | cmpEq (s : BitVec 3) (d : BitVec 3) (a : BitVec 5) (b : BitVec 5) (g : BitVec 4)
  /-- CMP_NE, R242: Sets a predicate if a differs from b. -/
  | cmpNe (s : BitVec 3) (d : BitVec 3) (a : BitVec 5) (b : BitVec 5) (g : BitVec 4)
  /-- CMP_LT, R242: Signed less-than compare into a predicate. -/
  | cmpLt (s : BitVec 3) (d : BitVec 3) (a : BitVec 5) (b : BitVec 5) (g : BitVec 4)
  /-- CMP_LE, R242: Signed less-or-equal compare into a predicate. -/
  | cmpLe (s : BitVec 3) (d : BitVec 3) (a : BitVec 5) (b : BitVec 5) (g : BitVec 4)
  /-- CMP_LTU, R242: Unsigned less-than compare into a predicate. -/
  | cmpLtu (s : BitVec 3) (d : BitVec 3) (a : BitVec 5) (b : BitVec 5) (g : BitVec 4)
  /-- CMP_LEU, R242: Unsigned less-or-equal compare into a predicate. -/
  | cmpLeu (s : BitVec 3) (d : BitVec 3) (a : BitVec 5) (b : BitVec 5) (g : BitVec 4)
  /-- FCMP_EQ, R242: F32 equality compare into a predicate. -/
  | fcmpEq (s : BitVec 3) (d : BitVec 3) (a : BitVec 5) (b : BitVec 5) (g : BitVec 4)
  /-- FCMP_LT, R242: F32 less-than compare into a predicate. -/
  | fcmpLt (s : BitVec 3) (d : BitVec 3) (a : BitVec 5) (b : BitVec 5) (g : BitVec 4)
  /-- FCMP_LE, R242: F32 less-or-equal compare into a predicate. -/
  | fcmpLe (s : BitVec 3) (d : BitVec 3) (a : BitVec 5) (b : BitVec 5) (g : BitVec 4)
  /-- FCMP_UN, R242: Sets a predicate if either F32 operand is NaN. -/
  | fcmpUn (s : BitVec 3) (d : BitVec 3) (a : BitVec 5) (b : BitVec 5) (g : BitVec 4)
  /-- PAND, R242: Predicate and. -/
  | pand (s : BitVec 3) (d : BitVec 3) (a : BitVec 3) (b : BitVec 3) (g : BitVec 4)
  /-- POR, R242: Predicate or. -/
  | por (s : BitVec 3) (d : BitVec 3) (a : BitVec 3) (b : BitVec 3) (g : BitVec 4)
  /-- PXOR, R242: Predicate xor. -/
  | pxor (s : BitVec 3) (d : BitVec 3) (a : BitVec 3) (b : BitVec 3) (g : BitVec 4)
  /-- PANDN, R242: Predicate and-not. -/
  | pandn (s : BitVec 3) (d : BitVec 3) (a : BitVec 3) (b : BitVec 3) (g : BitVec 4)
  /-- FADD, R288: F32 add, rounded under frm. -/
  | fadd (s : BitVec 3) (d : BitVec 5) (a : BitVec 5) (b : BitVec 5) (g : BitVec 4)
  /-- FSUB, R288: F32 subtract. -/
  | fsub (s : BitVec 3) (d : BitVec 5) (a : BitVec 5) (b : BitVec 5) (g : BitVec 4)
  /-- FMUL, R288: F32 multiply. -/
  | fmul (s : BitVec 3) (d : BitVec 5) (a : BitVec 5) (b : BitVec 5) (g : BitVec 4)
  /-- FMA, R288: Fused a times b plus d with one rounding. -/
  | fma (s : BitVec 3) (d : BitVec 5) (a : BitVec 5) (b : BitVec 5) (g : BitVec 4)
  /-- FMS, R288: Fused a times b minus d. -/
  | fms (s : BitVec 3) (d : BitVec 5) (a : BitVec 5) (b : BitVec 5) (g : BitVec 4)
  /-- FNMA, R288: Fused minus a times b plus d. -/
  | fnma (s : BitVec 3) (d : BitVec 5) (a : BitVec 5) (b : BitVec 5) (g : BitVec 4)
  /-- FMIN, R288: F32 minimum. -/
  | fmin (s : BitVec 3) (d : BitVec 5) (a : BitVec 5) (b : BitVec 5) (g : BitVec 4)
  /-- FMAX, R288: F32 maximum. -/
  | fmax (s : BitVec 3) (d : BitVec 5) (a : BitVec 5) (b : BitVec 5) (g : BitVec 4)
  /-- FABS, R288: Clears the F32 sign bit. -/
  | fabs (s : BitVec 3) (d : BitVec 5) (a : BitVec 5) (g : BitVec 4)
  /-- FNEG, R288: Inverts the F32 sign bit. -/
  | fneg (s : BitVec 3) (d : BitVec 5) (a : BitVec 5) (g : BitVec 4)
  /-- FDIV, R146: Correctly rounded F32 division. -/
  | fdiv (s : BitVec 3) (d : BitVec 5) (a : BitVec 5) (b : BitVec 5) (g : BitVec 4)
  /-- FSQRT, R146: Correctly rounded square root. -/
  | fsqrt (s : BitVec 3) (d : BitVec 5) (a : BitVec 5) (g : BitVec 4)
  /-- FRCP, R146: Correctly rounded reciprocal. -/
  | frcp (s : BitVec 3) (d : BitVec 5) (a : BitVec 5) (g : BitVec 4)
  /-- FRSQ, R146: Correctly rounded reciprocal square root. -/
  | frsq (s : BitVec 3) (d : BitVec 5) (a : BitVec 5) (g : BitVec 4)
  /-- FEXP2, R146: Correctly rounded base-2 exponential. -/
  | fexp2 (s : BitVec 3) (d : BitVec 5) (a : BitVec 5) (g : BitVec 4)
  /-- FLOG2, R146: Correctly rounded base-2 logarithm. -/
  | flog2 (s : BitVec 3) (d : BitVec 5) (a : BitVec 5) (g : BitVec 4)
  /-- FSINPI, R146: Correctly rounded sin(pi x). -/
  | fsinpi (s : BitVec 3) (d : BitVec 5) (a : BitVec 5) (g : BitVec 4)
  /-- FCOSPI, R146: Correctly rounded cos(pi x). -/
  | fcospi (s : BitVec 3) (d : BitVec 5) (a : BitVec 5) (g : BitVec 4)
  /-- FCPYS, R288: Magnitude of a with the sign of b. -/
  | fcpys (s : BitVec 3) (d : BitVec 5) (a : BitVec 5) (b : BitVec 5) (g : BitVec 4)
  /-- FCLASS, R288: Writes the class mask of a. -/
  | fclass (s : BitVec 3) (d : BitVec 5) (a : BitVec 5) (g : BitVec 4)
  /-- CVT_F32_BF16, R290: Converts BF16 to F32. -/
  | cvtF32Bf16 (s : BitVec 3) (d : BitVec 5) (a : BitVec 5) (g : BitVec 4)
  /-- CVT_BF16_F32, R290: Converts F32 to BF16, optionally saturating. -/
  | cvtBf16F32 (s : BitVec 3) (d : BitVec 5) (a : BitVec 5) (t : BitVec 1) (g : BitVec 4)
  /-- CVT_F32_F16, R290: Converts F16 to F32. -/
  | cvtF32F16 (s : BitVec 3) (d : BitVec 5) (a : BitVec 5) (g : BitVec 4)
  /-- CVT_F16_F32, R290: Converts F32 to F16, optionally saturating. -/
  | cvtF16F32 (s : BitVec 3) (d : BitVec 5) (a : BitVec 5) (t : BitVec 1) (g : BitVec 4)
  /-- CVT_F32_E4M3, R290: Converts E4M3 to F32. -/
  | cvtF32E4m3 (s : BitVec 3) (d : BitVec 5) (a : BitVec 5) (g : BitVec 4)
  /-- CVT_E4M3_F32, R290: Converts F32 to E4M3, optionally saturating. -/
  | cvtE4m3F32 (s : BitVec 3) (d : BitVec 5) (a : BitVec 5) (t : BitVec 1) (g : BitVec 4)
  /-- CVT_F32_E5M2, R290: Converts E5M2 to F32. -/
  | cvtF32E5m2 (s : BitVec 3) (d : BitVec 5) (a : BitVec 5) (g : BitVec 4)
  /-- CVT_E5M2_F32, R290: Converts F32 to E5M2, optionally saturating. -/
  | cvtE5m2F32 (s : BitVec 3) (d : BitVec 5) (a : BitVec 5) (t : BitVec 1) (g : BitVec 4)
  /-- CVT_F32_I32, R290: Converts a signed 32-bit integer to F32. -/
  | cvtF32I32 (s : BitVec 3) (d : BitVec 5) (a : BitVec 5) (g : BitVec 4)
  /-- CVT_I32_F32, R290: Converts F32 to a clamped signed 32-bit integer. -/
  | cvtI32F32 (s : BitVec 3) (d : BitVec 5) (a : BitVec 5) (g : BitVec 4)
  /-- CVT_F32_I64, R290: Converts a signed 64-bit integer to F32. -/
  | cvtF32I64 (s : BitVec 3) (d : BitVec 5) (a : BitVec 5) (g : BitVec 4)
  /-- CVT_I64_F32, R290: Converts F32 to a clamped signed 64-bit integer. -/
  | cvtI64F32 (s : BitVec 3) (d : BitVec 5) (a : BitVec 5) (g : BitVec 4)
  /-- CVT_F32_U32, R290: Converts an unsigned 32-bit integer to F32. -/
  | cvtF32U32 (s : BitVec 3) (d : BitVec 5) (a : BitVec 5) (g : BitVec 4)
  /-- CVT_U32_F32, R290: Converts F32 to a clamped unsigned 32-bit integer. -/
  | cvtU32F32 (s : BitVec 3) (d : BitVec 5) (a : BitVec 5) (g : BitVec 4)
  /-- PACK_BF16, R290: Packs two F32 values as two BF16 values. -/
  | packBf16 (s : BitVec 3) (d : BitVec 5) (a : BitVec 5) (t : BitVec 1) (g : BitVec 4)
  /-- PACK_E4M3, R290: Packs two F32 values as two E4M3 values. -/
  | packE4m3 (s : BitVec 3) (d : BitVec 5) (a : BitVec 5) (t : BitVec 1) (g : BitVec 4)
  /-- LD, R264: Zero-extending load of the gang's chunk, counted on a scoreboard counter. -/
  | ld (s : BitVec 3) (d : BitVec 5) (a : BitVec 5) (o : BitVec 8) (z : BitVec 2) (c : BitVec 2)
  /-- LD_SX, R264: Sign-extending load. -/
  | ldSx (s : BitVec 3) (d : BitVec 5) (a : BitVec 5) (o : BitVec 8) (z : BitVec 2) (c : BitVec 2)
  /-- LD_NA, R267: No-allocate zero-extending load. -/
  | ldNa (s : BitVec 3) (d : BitVec 5) (a : BitVec 5) (o : BitVec 8) (z : BitVec 2) (c : BitVec 2)
  /-- LD_DESC, R264: Load addressed through a loop-nest descriptor register. -/
  | ldDesc (s : BitVec 3) (d : BitVec 5) (x : BitVec 3) (o : BitVec 8) (z : BitVec 2) (c : BitVec 2)
  /-- ST, R265: Store buffered in the gang's chunk. -/
  | st (s : BitVec 3) (d : BitVec 5) (a : BitVec 5) (o : BitVec 8) (z : BitVec 2)
  /-- ST_NA, R267: No-allocate store. -/
  | stNa (s : BitVec 3) (d : BitVec 5) (a : BitVec 5) (o : BitVec 8) (z : BitVec 2)
  /-- ST_DESC, R265: Store addressed through a loop-nest descriptor register. -/
  | stDesc (s : BitVec 3) (d : BitVec 5) (x : BitVec 3) (o : BitVec 8) (z : BitVec 2)
  /-- NATOM_ADD, R270: In-chunk atomic add returning the old value. -/
  | natomAdd (s : BitVec 3) (d : BitVec 5) (a : BitVec 5) (b : BitVec 5) (z : BitVec 2)
  /-- NATOM_AND, R270: In-chunk atomic and. -/
  | natomAnd (s : BitVec 3) (d : BitVec 5) (a : BitVec 5) (b : BitVec 5) (z : BitVec 2)
  /-- NATOM_OR, R270: In-chunk atomic or. -/
  | natomOr (s : BitVec 3) (d : BitVec 5) (a : BitVec 5) (b : BitVec 5) (z : BitVec 2)
  /-- NATOM_XOR, R270: In-chunk atomic xor. -/
  | natomXor (s : BitVec 3) (d : BitVec 5) (a : BitVec 5) (b : BitVec 5) (z : BitVec 2)
  /-- NATOM_SMIN, R270: In-chunk atomic signed minimum. -/
  | natomSmin (s : BitVec 3) (d : BitVec 5) (a : BitVec 5) (b : BitVec 5) (z : BitVec 2)
  /-- NATOM_SMAX, R270: In-chunk atomic signed maximum. -/
  | natomSmax (s : BitVec 3) (d : BitVec 5) (a : BitVec 5) (b : BitVec 5) (z : BitVec 2)
  /-- NATOM_UMIN, R270: In-chunk atomic unsigned minimum. -/
  | natomUmin (s : BitVec 3) (d : BitVec 5) (a : BitVec 5) (b : BitVec 5) (z : BitVec 2)
  /-- NATOM_UMAX, R270: In-chunk atomic unsigned maximum. -/
  | natomUmax (s : BitVec 3) (d : BitVec 5) (a : BitVec 5) (b : BitVec 5) (z : BitVec 2)
  /-- NATOM_SWAP, R270: In-chunk atomic swap. -/
  | natomSwap (s : BitVec 3) (d : BitVec 5) (a : BitVec 5) (b : BitVec 5) (z : BitVec 2)
  /-- NATOM_CAS, R270: In-chunk atomic compare-and-swap. -/
  | natomCas (s : BitVec 3) (d : BitVec 5) (a : BitVec 5) (b : BitVec 5) (z : BitVec 2)
  /-- NATOM_FADD, R270: In-chunk atomic F32 add per element. -/
  | natomFadd (s : BitVec 3) (d : BitVec 5) (a : BitVec 5) (b : BitVec 5) (z : BitVec 2)
  /-- FATOM_ADD, R271: Far atomic add performed at the unit holding the location, with a declared use. -/
  | fatomAdd (s : BitVec 3) (d : BitVec 5) (a : BitVec 5) (b : BitVec 5) (u : BitVec 3) (z : BitVec 2)
  /-- FATOM_AND, R271: Far atomic and. -/
  | fatomAnd (s : BitVec 3) (d : BitVec 5) (a : BitVec 5) (b : BitVec 5) (u : BitVec 3) (z : BitVec 2)
  /-- FATOM_OR, R271: Far atomic or. -/
  | fatomOr (s : BitVec 3) (d : BitVec 5) (a : BitVec 5) (b : BitVec 5) (u : BitVec 3) (z : BitVec 2)
  /-- FATOM_XOR, R271: Far atomic xor. -/
  | fatomXor (s : BitVec 3) (d : BitVec 5) (a : BitVec 5) (b : BitVec 5) (u : BitVec 3) (z : BitVec 2)
  /-- FATOM_SMIN, R271: Far atomic signed minimum. -/
  | fatomSmin (s : BitVec 3) (d : BitVec 5) (a : BitVec 5) (b : BitVec 5) (u : BitVec 3) (z : BitVec 2)
  /-- FATOM_SMAX, R271: Far atomic signed maximum. -/
  | fatomSmax (s : BitVec 3) (d : BitVec 5) (a : BitVec 5) (b : BitVec 5) (u : BitVec 3) (z : BitVec 2)
  /-- FATOM_UMIN, R271: Far atomic unsigned minimum. -/
  | fatomUmin (s : BitVec 3) (d : BitVec 5) (a : BitVec 5) (b : BitVec 5) (u : BitVec 3) (z : BitVec 2)
  /-- FATOM_UMAX, R271: Far atomic unsigned maximum. -/
  | fatomUmax (s : BitVec 3) (d : BitVec 5) (a : BitVec 5) (b : BitVec 5) (u : BitVec 3) (z : BitVec 2)
  /-- FATOM_SWAP, R271: Far atomic swap. -/
  | fatomSwap (s : BitVec 3) (d : BitVec 5) (a : BitVec 5) (b : BitVec 5) (u : BitVec 3) (z : BitVec 2)
  /-- FATOM_CAS, R271: Far atomic compare-and-swap. -/
  | fatomCas (s : BitVec 3) (d : BitVec 5) (a : BitVec 5) (b : BitVec 5) (u : BitVec 3) (z : BitVec 2)
  /-- FATOM_FADD, R271: Far atomic F32 add per element, rounded singly. -/
  | fatomFadd (s : BitVec 3) (d : BitVec 5) (a : BitVec 5) (b : BitVec 5) (u : BitVec 3) (z : BitVec 2)
  /-- FATOM_LOAD, R271: Far load with a declared use. -/
  | fatomLoad (s : BitVec 3) (d : BitVec 5) (a : BitVec 5) (u : BitVec 3) (z : BitVec 2)
  /-- FATOM_STORE, R271: Far store with a declared use. -/
  | fatomStore (s : BitVec 3) (a : BitVec 5) (b : BitVec 5) (u : BitVec 3) (z : BitVec 2)
  /-- FENCE, R274: Ends the chunk and waits for the events of its scope. -/
  | fence (s : BitVec 3) (c : BitVec 2)
  /-- BARJ, R276: Binds a barrier object to the issuing crew. -/
  | barj (s : BitVec 3) (k : BitVec 4) (c : BitVec 2)
  /-- BARL, R276: Removes the active lanes from barrier membership. -/
  | barl (s : BitVec 3) (k : BitVec 4) (c : BitVec 2)
  /-- BARA, R276: Records the lanes' arrival at the barrier and returns the phase. -/
  | bara (s : BitVec 3) (d : BitVec 5) (k : BitVec 4) (c : BitVec 2)
  /-- BARW, R276: Waits until the barrier phase passes a given value. -/
  | barw (s : BitVec 3) (d : BitVec 5) (k : BitVec 4) (c : BitVec 2)
  /-- BARAW, R276: Arrives at the barrier and waits for the phase to change. -/
  | baraw (s : BitVec 3) (d : BitVec 5) (k : BitVec 4) (c : BitVec 2)
  /-- BARM, R276: Returns 64 bits of members not yet arrived. -/
  | barm (s : BitVec 3) (d : BitVec 5) (k : BitVec 4) (j : BitVec 4)
  /-- ITINIT, R278: Initialises an iteration counter with limit and grain. -/
  | itinit (s : BitVec 3) (d : BitVec 4) (k : BitVec 4) (c : BitVec 2)
  /-- GETCHUNK, R278: Hands out a start and length from an iteration counter per lane. -/
  | getchunk (s : BitVec 3) (d : BitVec 4) (k : BitVec 4) (c : BitVec 2)
  /-- TWAITF, R279: Waits until a tile is full. -/
  | twaitf (s : BitVec 3) (a : BitVec 5) (c : BitVec 2)
  /-- TWAITE, R279: Waits until a tile is empty and unclaimed. -/
  | twaite (s : BitVec 3) (a : BitVec 5) (c : BitVec 2)
  /-- TSETF, R279: Marks a tile full at the launch arbiter. -/
  | tsetf (s : BitVec 3) (a : BitVec 5) (c : BitVec 2)
  /-- TSETE, R279: Marks a tile empty at the launch arbiter. -/
  | tsete (s : BitVec 3) (a : BitVec 5) (c : BitVec 2)
  /-- BR, R244: Conditional branch that may split the gang on the divergence stack. -/
  | br (s : BitVec 3) (g : BitVec 4) (o : BitVec 18)
  /-- BRU, R244: Uniform branch that faults when active lanes disagree. -/
  | bru (s : BitVec 3) (g : BitVec 4) (o : BitVec 18)
  /-- CALL, R235: Local call that slides the register window and writes the return word. -/
  | call (s : BitVec 3) (o : BitVec 18)
  /-- JMPE, R246: Selected lanes pack their live set and transfer to an entry through a link slot. -/
  | jmpe (s : BitVec 3) (e : BitVec 16) (g : BitVec 4)
  /-- CALLE, R248: Transfers to an entry, saving the link and passing a return handle. -/
  | calle (s : BitVec 3) (e : BitVec 16) (g : BitVec 4)
  /-- SPAWN, R77: Pushes a task record per lane onto the deque or sends it to a replica. -/
  | spawn (s : BitVec 3) (e : BitVec 16) (g : BitVec 4)
  /-- TSPAWN, R84: Makes a timestamped task record per lane. -/
  | tspawn (s : BitVec 3) (e : BitVec 16) (g : BitVec 4)
  /-- SENDE, R246: Sends a copy of each selected lane as a free thread while the lane continues. -/
  | sende (s : BitVec 3) (e : BitVec 16) (g : BitVec 4)
  /-- JMPI, R246: Transfers through a handle held in a register. -/
  | jmpi (s : BitVec 3) (n : BitVec 5) (g : BitVec 4)
  /-- CALLI, R248: Calls through a handle held in a register. -/
  | calli (s : BitVec 3) (n : BitVec 5) (g : BitVec 4)
  /-- RETE, R248: Returns to the link handle, popping the saved link from the backing store. -/
  | rete (s : BitVec 3) (g : BitVec 4)
  /-- LAUNCH, R250: Appends one descriptor per selected lane to the slice's device queue. -/
  | launch (s : BitVec 3) (n : BitVec 5) (g : BitVec 4)
  /-- LOOP, R252: Starts a loop level with a trip count and body length. -/
  | loop (s : BitVec 3) (l : BitVec 2) (a : BitVec 5) (n : BitVec 14)
  /-- LSTEP, R254: Sets the induction step of a loop level. -/
  | lstep (s : BitVec 3) (l : BitVec 2) (a : BitVec 5)
  /-- XBASE, R254: Sets the per-lane base of a descriptor register. -/
  | xbase (s : BitVec 3) (a : BitVec 5) (x : BitVec 3)
  /-- XCOEF, R254: Sets one coefficient of a descriptor register. -/
  | xcoef (s : BitVec 3) (j : BitVec 2) (a : BitVec 5) (x : BitVec 3)
  /-- LBRK, R253: Breaks out of a loop level when a uniform predicate holds. -/
  | lbrk (s : BitVec 3) (l : BitVec 2) (n : BitVec 1) (p : BitVec 3)
  /-- LIND, R254: Reads the induction variable of a loop level. -/
  | lind (s : BitVec 3) (l : BitVec 2) (d : BitVec 5)
  /-- PUTM, R281: Sends a value per selected lane to a mailbox of a logical core. -/
  | putm (s : BitVec 3) (d : BitVec 5) (a : BitVec 5) (b : BitVec 5) (g : BitVec 4)
  /-- GETM, R282: Waits for and consumes the core's mailbox value. -/
  | getm (s : BitVec 3) (d : BitVec 5) (b : BitVec 5)
  /-- PEEKM, R282: Reads a mailbox value regardless of presence. -/
  | peekm (s : BitVec 3) (d : BitVec 5) (b : BitVec 5)
  /-- TSTM, R282: Reads a mailbox presence bit. -/
  | tstm (s : BitVec 3) (d : BitVec 5) (b : BitVec 5)
  /-- CLRM, R282: Clears a mailbox presence bit at commit. -/
  | clrm (s : BitVec 3) (b : BitVec 5)
  /-- SHFL, R292: Reads a register from a lane given per lane. -/
  | shfl (s : BitVec 3) (d : BitVec 5) (a : BitVec 5) (b : BitVec 5) (g : BitVec 4)
  /-- SHFLX, R292: Reads a register from the lane at L xor a mask. -/
  | shflx (s : BitVec 3) (d : BitVec 5) (a : BitVec 5) (b : BitVec 5) (g : BitVec 4)
  /-- BCAST, R292: Broadcasts one lane's register to all selected lanes. -/
  | bcast (s : BitVec 3) (d : BitVec 5) (a : BitVec 5) (b : BitVec 5) (g : BitVec 4)
  /-- VOTE_ANY, R292: Sets a predicate if any active lane's predicate holds. -/
  | voteAny (s : BitVec 3) (d : BitVec 3) (a : BitVec 3) (g : BitVec 4)
  /-- VOTE_ALL, R292: Sets a predicate if every active lane's predicate holds. -/
  | voteAll (s : BitVec 3) (d : BitVec 3) (a : BitVec 3) (g : BitVec 4)
  /-- BALLOT, R292: Writes the mask of active lanes whose predicate holds. -/
  | ballot (s : BitVec 3) (d : BitVec 5) (a : BitVec 3) (g : BitVec 4)
  /-- REDADD, R292: Integer sum over active lanes. -/
  | redadd (s : BitVec 3) (d : BitVec 5) (a : BitVec 5) (g : BitVec 4)
  /-- FREDADD, R147: Exact F32 sum over active lanes, rounded once. -/
  | fredadd (s : BitVec 3) (d : BitVec 5) (a : BitVec 5) (g : BitVec 4)
  /-- SCANADD, R292: Inclusive prefix sum over active lanes. -/
  | scanadd (s : BitVec 3) (d : BitVec 5) (a : BitVec 5) (g : BitVec 4)
  /-- LANEID, R292: Writes the lane number. -/
  | laneid (s : BitVec 3) (d : BitVec 5) (g : BitVec 4)
  /-- ACTMASK, R292: Writes the active mask. -/
  | actmask (s : BitVec 3) (d : BitVec 5) (g : BitVec 4)
  /-- CLRW, R294: Clears an ACC640 slot. -/
  | clrw (s : BitVec 3) (a : BitVec 5) (g : BitVec 4)
  /-- ADDWF, R294: Adds an F32 value exactly into an ACC640 slot. -/
  | addwf (s : BitVec 3) (a : BitVec 5) (b : BitVec 5) (g : BitVec 4)
  /-- ADDWI, R294: Adds a signed integer exactly into an ACC640 slot. -/
  | addwi (s : BitVec 3) (a : BitVec 5) (b : BitVec 5) (g : BitVec 4)
  /-- MADDW, R294: Adds an exact F32 product into an ACC640 slot. -/
  | maddw (s : BitVec 3) (d : BitVec 5) (a : BitVec 5) (b : BitVec 5) (g : BitVec 4)
  /-- ADDWW, R294: Adds one ACC640 slot into another. -/
  | addww (s : BitVec 3) (a : BitVec 5) (b : BitVec 5) (g : BitVec 4)
  /-- RNDW, R145: Rounds an ACC640 slot out to F32. -/
  | rndw (s : BitVec 3) (d : BitVec 5) (a : BitVec 5) (g : BitVec 4)
  /-- RNDW2, R145: Rounds an ACC640 slot out to an F32 hi/lo pair. -/
  | rndw2 (s : BitVec 3) (d : BitVec 4) (a : BitVec 5) (g : BitVec 4)
  /-- BLOAD, R299: Pushes a command that loads a B bank from a tile and scale array. -/
  | bload (s : BitVec 3) (j : BitVec 1) (n : BitVec 4) (b : BitVec 5)
  /-- MZERO, R300: Pushes a command that zeroes an accumulator tile and sets Ez. -/
  | mzero (s : BitVec 3) (k : BitVec 3) (a : BitVec 5)
  /-- MMA, R300: Pushes a 256-K accumulate step into a z tile. -/
  | mma (s : BitVec 3) (k : BitVec 3) (n : BitVec 4) (j : BitVec 1)
  /-- MMAS, R301: Pushes a sparse accumulate step using the sparsity queue. -/
  | mmas (s : BitVec 3) (k : BitVec 3) (n : BitVec 4) (j : BitVec 1)
  /-- MRD, R303: Pushes a read-out of a z tile to memory. -/
  | mrd (s : BitVec 3) (k : BitVec 3) (n : BitVec 4)
  /-- MWT, R304: Pushes a write of memory into a z tile. -/
  | mwt (s : BitVec 3) (k : BitVec 3) (n : BitVec 4)
  /-- MFLAG, R305: Waits for earlier commands on a tile and reads its flags and Ez. -/
  | mflag (s : BitVec 3) (d : BitVec 5) (k : BitVec 3)
  /-- CPY, R311: Pushes a linear copy command onto a channel. -/
  | cpy (s : BitVec 3) (d : BitVec 5) (a : BitVec 5) (b : BitVec 4)
  /-- CPYX, R311: Pushes a tile-to-tile copy command. -/
  | cpyx (s : BitVec 3) (d : BitVec 4) (a : BitVec 4) (b : BitVec 5)
  /-- CPGAT, R311: Pushes a row gather copy command. -/
  | cpgat (s : BitVec 3) (d : BitVec 5) (a : BitVec 5) (b : BitVec 5)
  /-- CPMETA, R311: Pushes a copy of entries into the sparsity queue. -/
  | cpmeta (s : BitVec 3) (a : BitVec 5) (b : BitVec 4)
  /-- CPSTOP, R312: Stops a channel's transfer and discards its queued commands. -/
  | cpstop (s : BitVec 3) (b : BitVec 5)
  /-- CPREM, R311: Pushes a copy to a peer device's memory. -/
  | cprem (s : BitVec 3) (d : BitVec 4) (a : BitVec 5) (b : BitVec 4)
  /-- SFCALL, R352: Sends one firing to a fabric, returning the result to a mailbox. -/
  | sfcall (s : BitVec 3) (d : BitVec 3) (a : BitVec 5) (b : BitVec 5)
  /-- GLOAD, R353: Pushes a load of a graph object into a slot on a group of fabrics. -/
  | gload (s : BitVec 3) (a : BitVec 5) (b : BitVec 5)
  /-- GDROP, R353: Pushes the emptying of a slot on a group of fabrics. -/
  | gdrop (s : BitVec 3) (b : BitVec 5)
  /-- DCFG, R325: Sets the divider of a Madder step domain. -/
  | dcfg (s : BitVec 3) (a : BitVec 5) (m : BitVec 2)
  /-- DPATCH, R325: Replaces the Madder patch table from TCM. -/
  | dpatch (s : BitVec 3) (a : BitVec 5)
  /-- DSETY, R326: Sets a cell's integrand per lane. -/
  | dsety (s : BitVec 3) (a : BitVec 5) (b : BitVec 5) (g : BitVec 4)
  /-- DSETR, R326: Sets a cell's residue and clears its output count. -/
  | dsetr (s : BitVec 3) (a : BitVec 5) (b : BitVec 5) (g : BitVec 4)
  /-- DSAVE, R328: Snapshots the whole Madder array into TCM. -/
  | dsave (s : BitVec 3) (a : BitVec 5)
  /-- DREST, R328: Restores the whole Madder array from a TCM image. -/
  | drest (s : BitVec 3) (a : BitVec 5)
  /-- DSTEP, R327: Queues a count of steps for a domain. -/
  | dstep (s : BitVec 3) (a : BitVec 5) (m : BitVec 2)
  /-- DSTOP, R329: Ends every dstep of the domains in the mask. -/
  | dstop (s : BitVec 3) (m : BitVec 4)
  /-- DINJ, R326: Injects a unit increment into a cell's port latch. -/
  | dinj (s : BitVec 3) (a : BitVec 5) (n : BitVec 1) (g : BitVec 4)
  /-- DRDO, R326: Reads a cell's output count or residue. -/
  | drdo (s : BitVec 3) (d : BitVec 5) (a : BitVec 5) (k : BitVec 1) (g : BitVec 4)
  /-- DRDY, R326: Reads a cell's integrand. -/
  | drdy (s : BitVec 3) (d : BitVec 5) (a : BitVec 5) (g : BitVec 4)
  /-- EPOP, R260: Pops the oldest completion record of an engine queue, acquiring its bytes. -/
  | epop (s : BitVec 3) (d : BitVec 4) (e : BitVec 2)
  /-- EPEEK, R260: Reads the number of unpopped records of an engine queue. -/
  | epeek (s : BitVec 3) (d : BitVec 5) (e : BitVec 2)
  /-- SBWAIT, R217: Holds the gang until a scoreboard counter is at most n. -/
  | sbwait (s : BitVec 3) (n : BitVec 6) (c : BitVec 2)
  /-- SBRD, R260: Reads a scoreboard counter. -/
  | sbrd (s : BitVec 3) (d : BitVec 5) (c : BitVec 2)
  /-- REPF, R256: Replays the next words a count of times with strided register fields. -/
  | repf (s : BitVec 3) (l : BitVec 4) (c : BitVec 6) (d : BitVec 3) (a : BitVec 3) (b : BitVec 3)
  /-- CSRR, R257: Reads a control register. -/
  | csrr (s : BitVec 3) (d : BitVec 5) (i : BitVec 12)
  /-- CSRW, R257: Writes a control register. -/
  | csrw (s : BitVec 3) (a : BitVec 5) (i : BitVec 12)
  /-- CSRS, R257: Sets bits of a control register, indivisibly for cluster scope. -/
  | csrs (s : BitVec 3) (a : BitVec 5) (i : BitVec 12)
  /-- CSRC, R257: Clears bits of a control register. -/
  | csrc (s : BitVec 3) (a : BitVec 5) (i : BitVec 12)
  /-- SOPEN, R284: Takes the quad's send side, opens a stream route and sends the first flit. -/
  | sopen (s : BitVec 3) (d : BitVec 5) (a : BitVec 5)
  /-- SPUT, R284: Sends one stream data flit from a lane group. -/
  | sput (s : BitVec 3) (d : BitVec 5) (g : BitVec 2)
  /-- SGET, R285: Takes the oldest received stream flit into a lane group. -/
  | sget (s : BitVec 3) (d : BitVec 5) (p : BitVec 3) (g : BitVec 2)
  /-- SCLOSE, R284: Sends the last flit with the closing marker and frees the send side. -/
  | sclose (s : BitVec 3) (d : BitVec 5) (g : BitVec 2)
  /-- HOST_APPEND, R188: A 64-byte write into an append window appends a record at the queue tail. -/
  | hostAppend (off vf : Nat) (bytes : List (BitVec 8))
  /-- SELECTION, R196: The selector picks the highest-priority eligible head and dispatches it. -/
  | selection (sl : Nat)
  /-- REFUSAL, R396: A broken head record is refused at the slice's next selection. -/
  | refusal (sl : Nat)
  /-- LAUNCH_SLOT, R193: A launch table slot fires when dtc reaches its time and applies its overrun rule. -/
  | launchSlot (e : Nat)
  /-- SWITCH_SLOT, R194: A switch table slot stops selection and starts a context switch. -/
  | switchSlot (e : Nat)
  /-- LAUNCH_COMPLETION, R201: A finished launch reaches its completion point at the launch arbiter. -/
  | launchCompletion (sl n : Nat)
  /-- INJECTION, R198: The injector sends a launch's first packets when a replica is below its mark. -/
  | injection (sl n : Nat)
  /-- INJECTION_ACK, R198: A quad acknowledges an injected train entering its arrival queue. -/
  | injectionAck (sl n q : Nat)
  /-- CREW_PLACEMENT, R199: A crew is placed on a cluster with room and its threads injected. -/
  | crewPlacement (sl n : Nat)
  /-- PACKET_SEND, R249: A transfer's packets leave once the ended chunk has committed. -/
  | packetSend (gk : Nat)
  /-- TRAIN_ENTRY, R376: A train of packets enters a quad's arrival queue whole. `q` is the quad plus 2048 times 0 for a train of the
  injector, or one more than the number of the quad that sent it. -/
  | trainEntry (sl q : Nat)
  /-- RING_REFILL, R69: The overflow ring moves its oldest packets into the queue as space frees. -/
  | ringRefill (sl q : Nat)
  /-- RESEND, R412: Every 1,024 mesh cycles a refused packet is sent again. -/
  | resend (sl q : Nat)
  /-- RING_FULL_NOTIFICATION, R412: A ring full for 1 ms notifies the host. -/
  | ringFullNotification (sl q : Nat)
  /-- GANG_FORMATION, R82: A core fills a free gang slot from arrivals, deque, or a steal. -/
  | gangFormation (sl c : Nat)
  /-- GANGWAIT_EXPIRY, R65: A group's oldest packet reaches gangwait and the group becomes takeable. -/
  | gangwaitExpiry (sl q : Nat)
  /-- STEAL_REQUEST, R80: An idle core sends a steal request over the steal network. -/
  | stealRequest (sl c : Nat)
  /-- STEAL_ANSWER, R80: A victim answers a steal from the bottom of its deque. -/
  | stealAnswer (sl c : Nat)
  /-- ROUTE_CACHE_FILL, R30: A route-cache miss is filled from the entry route table. -/
  | routeCacheFill (sl q : Nat) (h : BitVec 64)
  /-- HOT_SAMPLE, R36: Every 1,024 cycles the scheduler samples replica occupancy. -/
  | hotSample (sl : Nat)
  /-- ADD_REPLICA, R37: A block hot for hotns is copied to a new quad. -/
  | addReplica (sl obj blk : Nat)
  /-- REPLICA_UPDATE, R39: The launch arbiter orders a replica update and sends it to every quad. -/
  | replicaUpdate (sl : Nat)
  /-- REMOVE_REPLICA, R38: A block cold for coldns loses its most recently added replica. -/
  | removeReplica (sl obj blk : Nat)
  /-- EXTENT_FREE, R38: A removed replica's extent is freed after acknowledgements and drain. -/
  | extentFree (sl q obj blk : Nat)
  /-- OBJECT_LOAD, R53: The loader checks, places and links a code object into a context. -/
  | objectLoad (sl slot : Nat) (img : List (BitVec 8)) (place : LoadPlace)
  /-- OBJECT_UNLOAD, R474: Unloading raises the slot generation and withdraws global definitions. -/
  | objectUnload (sl slot : Nat)
  /-- OBJECT_EXTENT_FREE, R52: An unloaded object's code extents are freed once no packet or gang uses them. -/
  | objectExtentFree (sl slot : Nat)
  /-- CHUNK_COMMIT, R153: A chunk takes its arbiter grants and publishes its writes at one point. -/
  | chunkCommit (gk : Nat)
  /-- TASK_COMMIT, R86: A finished task commits when it holds the lowest uncommitted timestamp. -/
  | taskCommit (gk : Nat)
  /-- FAR_OP_PERFORMED, R168: A far operation is performed once at the unit holding its location. -/
  | farOpPerformed (gk id : Nat)
  /-- FAR_RESULT_RETURN, R271: A far operation's result returns and lowers sb3. -/
  | farResultReturn (gk id : Nat)
  /-- LOAD_COMPLETE, R264: A load's data is written and its counter lowered. -/
  | loadComplete (gk id : Nat)
  /-- DIRECTORY_HANDLER_TRAP, R117: A request for a fifth sharer traps to the home's directory handler thread. -/
  | directoryHandlerTrap (sl line q : Nat)
  /-- TLB_WALK, R111: A TLB miss walks stage-1 and stage-2 tables. -/
  | tlbWalk (sl q : Nat) (va : BitVec 64) (wr : Bool)
  /-- RETRY_COMMAND, R406: The hypervisor's retry makes every access of a fault record walk again. -/
  | retryCommand (vf i : Nat)
  /-- HOST_CLEAN, R112: The host clean command clears d bits, invalidates TLBs and may reset the log. -/
  | hostClean (vf : Nat) (pages : List Nat) (rst : Bool)
  /-- TLBINV_COMPLETE, R113: Every TLB has dropped the translation and prior accesses are performed. -/
  | tlbinvComplete (gk : Nat)
  /-- HOST_DEVICE_WRITE, R157: A host write to device memory commits as a single-access chunk. -/
  | hostDeviceWrite (loc : Nat) (bytes : List (BitVec 8))
  /-- MAIL_DELIVERY, R281: A putm value enters the target mailbox or mail buffer. -/
  | mailDelivery (sl c : Nat)
  /-- GANG_WAKE, R91: A waiting gang becomes ready when its wait condition holds. -/
  | gangWake (gk : Nat)
  /-- STREAM_FLIT, R285: A stream flit reaches a receiver slot. -/
  | streamFlit (sl q : Nat)
  /-- TOKEN, R126: A returned token adds its count to the sender's credit. -/
  | token (sl q : Nat)
  /-- TOKEN_TIMER, R285: Within 64 mesh cycles of a consumption the receiver returns a token. -/
  | tokenTimer (sl q : Nat)
  /-- STREAM_AUDIT, R416: Every 4,096 mesh cycles the receiver sends an audit of consumed flits. -/
  | streamAudit (sl q : Nat)
  /-- SOPEN_TIMEOUT, R415: A sopen waiting 4,096 mesh cycles for a channel releases its reservations. -/
  | sopenTimeout (sl q : Nat)
  /-- SOPEN_RETRY, R415: After its back-off a timed-out sopen tries again. -/
  | sopenRetry (sl q : Nat)
  /-- DEADLOCK_DETECT, R413: A flit stuck 4,096 mesh cycles sends a probe to find a cycle. -/
  | deadlockDetect (bufs : List Nat)
  /-- RECOVERY_STEP, R413: Every 4 mesh cycles the cycle's head flits move into recovery slots. -/
  | recoveryStep (i : Nat)
  /-- ROUTING_LOOP, R414: A cycle taking 4,096 steps is reported as a routing loop and injection stops. -/
  | routingLoop (i : Nat)
  /-- PARTITION_DRAIN, R123: Marking a partition draining stalls its injection. -/
  | partitionDrain (p : Nat) (on : Bool)
  /-- ROUTE_TABLE_WRITE, R122: System software writes a routing-table entry. -/
  | routeTableWrite (site dest p v : Nat)
  /-- RECORD_ENTERS, R259: A held completion record enters its queue when a place frees. -/
  | recordEnters (gk e : Nat)
  /-- COPY_TRANSFER_END, R313: A channel's transfer ends and writes its record. -/
  | copyTransferEnd (sl c ch : Nat)
  /-- ENGINE_FAULT_TAKEN, R422: A gang at level 0 takes its oldest recorded engine fault at a boundary. -/
  | engineFaultTaken (gk : Nat)
  /-- MX_COMMAND_START, R297: The matrix unit starts a core's next command in its round. -/
  | mxCommandStart (sl clus : Nat)
  /-- MX_COMMAND_COMPLETE, R302: A matrix command's writes complete and any record is written. -/
  | mxCommandComplete (sl clus : Nat)
  /-- MADDER_STEP, R315: A due step domain steps every enabled cell at once. -/
  | madderStep (sl c : Nat)
  /-- MADDER_COMMAND, R321: The array performs one queued command after the cycle's steps. -/
  | madderCommand (sl c : Nat)
  /-- DSAVE_WRITTEN, R328: The dsave image finishes writing after 133 cycles and its record is written. -/
  | dsaveWritten (sl c : Nat)
  /-- FABRIC_FIRING, R336: A fabric runs one firing of a graph over its input sectors. -/
  | fabricFiring (f : Nat)
  /-- GLOAD_COMPLETE, R354: Every fabric of the group finishes a gload or gdrop and the record is written. -/
  | gloadComplete (sl c : Nat)
  /-- CONTEXT_CREATE, R359: Ochre creates a context and draws its key. -/
  | contextCreate (sl cx vf : Nat) (desc : List (BitVec 8)) (place : CtxPlace)
  /-- SOFT_REQUEST, R363: A soft pre-emption request stops selection and lets gangs reach boundaries. -/
  | softRequest (sl cx : Nat)
  /-- HARD_REQUEST, R363: A hard request halts every gang at an instruction boundary. -/
  | hardRequest (sl cx : Nat)
  /-- GRACE_EXPIRY, R363: The grace timer expires and the halt begins. -/
  | graceExpiry (sl : Nat)
  /-- HALT_COMPLETE, R363: All gangs and engines have stopped and the image save begins. -/
  | haltComplete (sl : Nat)
  /-- KILL_TIMER_EXPIRY, R440: The kill timer expires before the image is saved and the context is killed. -/
  | killTimerExpiry (sl : Nat)
  /-- KILL_COMMAND, R442: The hypervisor kills a running or resident context. -/
  | killCommand (sl cx : Nat)
  /-- IMAGE_SAVE_COMPLETE, R362: The outgoing context image has been saved. -/
  | imageSaveComplete (sl : Nat) (ok : Bool)
  /-- SCRUB_COMPLETE, R365: The scrub finishes and its readback checks are done. -/
  | scrubComplete (sl failed clus : Nat)
  /-- TOKEN_START, R365: Ochre starts signing a slice's scrub token. -/
  | tokenStart (sl : Nat)
  /-- TOKEN_WRITTEN, R367: The signed token is written to tokbuf and a waiting context may issue. -/
  | tokenWritten (sl : Nat)
  /-- RESTORE_COMPLETE, R362: The incoming context image has been restored. -/
  | restoreComplete (sl : Nat)
  /-- RESCRUB_COMMAND, R445: The hypervisor rescrubs the slice and a new token is signed. -/
  | rescrubCommand (sl : Nat)
  /-- COLLECTIVE_POST, R368: The host posts a collective to a unit. -/
  | collectivePost (u vf sl parts steps : Nat)
  /-- COLLECTIVE_RESUME, R369: A collective resumes when every participant has restored it. -/
  | collectiveResume (u : Nat) (steps : List Nat)
  /-- EXCHANGE_TIMEOUT, R451: An unfinished pause exchange stops the unit and saves it unagreed. -/
  | exchangeTimeout (u : Nat)
  /-- PARTICIPANT_TIMEOUT, R452: A participant not restored within kill time aborts the collective. -/
  | participantTimeout (u : Nat)
  /-- SESSION_KEY_AGREEMENT, R371: A tenant agrees a session key with Ochre. -/
  | sessionKeyAgreement (sl cx sess : Nat)
  /-- SESSION_RECORD, R448: A session record arrives and is checked by number and tag. -/
  | sessionRecord (sess num : Nat) (fromHost tagOk : Bool)
  /-- ATTESTATION_QUOTE, R375: Ochre produces a signed attestation quote. -/
  | attestationQuote (sl cx : Nat) (nonce : List (BitVec 8))
  /-- FLIT_CRC_FAIL, R453: A link flit failing its CRC is resent from the replay buffer. -/
  | flitCrcFail (link : Nat)
  /-- FJOAD_LANE_LOST, R453: A failing Fjoad lane is removed and the link narrows or goes down. -/
  | fjoadLaneLost (lane : Nat)
  /-- PORT_DOWN, R453: A failed scale-up port is removed from every routing set. -/
  | portDown (port : Nat)
  /-- ACCESS_TIMEOUT, R455: An unanswered host or peer access times out and faults. -/
  | accessTimeout (gk id : Nat)
  /-- TIME_SOURCE_FAIL, R456: The dtc source fails and dtc free-runs. -/
  | timeSourceFail
  /-- SOURCE_CHANGE, R456: Within 2 s dtc changes to the next preferred source or holdover. -/
  | sourceChange
  /-- DTC_STEP, R374: dtc is stepped when its error exceeds 1 ms. -/
  | dtcStep (err : Int)
  /-- QUEUE_RECORD_WRITE, R187: The hypervisor writes a work-queue record, with ring changes only when disabled and empty. -/
  | queueRecordWrite (q : Nat) (ring ldep vf ctx en : Option Nat)
  /-- HALT_REQUEST, R399: Writing hreq = 1 halts every gang of the slice. -/
  | haltRequest (sl cx : Nat)
  /-- HALT_DONE, R399: All gangs have stopped and hlt is set. -/
  | haltDone (sl cx : Nat)
  /-- RESUME, R403: Clearing hreq resumes every gang and clears hlt. -/
  | resume (sl cx : Nat)
  /-- DEBUG_REGISTER_WRITE, R403: A debugger writes a halted gang's registers, predicates or pc. -/
  | debugRegisterWrite (gk lane : Nat) (reg : DebugReg) (v : BitVec 64)
  /-- POWER_INTERVAL, R470: Every 10 us the issue gate is adjusted against the power limit. -/
  | powerInterval (mw : Nat)
  /-- PWRLIM_WRITE, R469: A write sets the package power limit if in range. -/
  | pwrlimWrite (w : Nat)
  /-- THERMAL_EVENT, R471: A junction crossing changes the thermal limit or triggers hard requests. -/
  | thermalEvent (die temp : Nat)
  /-- THERMAL_TRIP, R471: A junction at 125 C removes power at once. -/
  | thermalTrip (die : Nat)
  /-- LIFE_ESTIMATE, R467: Hourly the remaining-life estimate is made and compared with thresholds. -/
  | lifeEstimate (die p10 est : Nat)
  /-- EOLALR_WRITE, R468: A threshold write compares p10 against the new thresholds. -/
  | eolalrWrite (die warn crit : Nat)
  /-- EOLSTS_CLEAR, R468: Writing 1 clears a life-warning status bit. -/
  | eolstsClear (die : Nat) (warn crit : Bool)
  /-- CORRECTED_ERROR, R464: A corrected memory error counts in the health counters. -/
  | correctedError (die : Nat) (hbm : Bool)
  /-- UNCORRECTED_ERROR, R465: An uncorrected error kills its context or the whole package. -/
  | uncorrectedError (die sl : Nat) (site : ErrorSite)
  /-- POWER_ON, R472: Power-on or package reset runs the bring-up steps. -/
  | powerOn (fail : Nat)
  /-- MGMT_REGISTER_WRITE, R5: A write to a management register with no behaviour of its own. -/
  | mgmtRegisterWrite (reg : MgmtReg) (v : List Nat)
  /-- ACCW_UPDATE_DONE, R295: The core's wide-accumulator unit finishes one lane's queued update of an ACC640 slot after 1 + ceil(n/4) cycles. -/
  | accwUpdateDone (sl c : Nat)
  /-- FIXED_LATENCY_WRITE, R213: The result of a fixed-latency instruction lands in its register L cycles after issue. -/
  | fixedLatencyWrite (gk id : Nat)
  /-- MADDER_READ_DONE, R328: A dpatch's 32-cycle table read or a drest's 133-cycle image read ends, the array state is replaced, and the record is written. -/
  | madderReadDone (sl c : Nat)
  /-- PEER_ACKNOWLEDGEMENT, R372: The host or a peer acknowledges a performed write, which releases .s fences and advances cprem counts. -/
  | peerAcknowledgement (pa n : Nat)
  /-- PEER_ACCESS, R373: A peer load or store arrives over the scale-up ports and is performed in this device's memory. -/
  | peerAccess (port loc : Nat) (wr : Option (List (BitVec 8)))
  /-- COLLECTIVE_CONTRIBUTION, R368: A participant's contribution to a collective step arrives at a collective unit and is added exactly into ACC640. -/
  | collectiveContribution (u part step : Nat) (vals : List (BitVec 32))
  /-- TIME_SOURCE_INPUT, R374: A 1588 message, 1PPS edge or peer time transfer arrives and dtc is slewed toward it. -/
  | timeSourceInput (src : Nat) (err : Int)
  /-- TIME_SOURCE_RECOVERY, R456: A failed preferred time source returns and is adopted by slewing. -/
  | timeSourceRecovery (src : Nat) (err : Int)
  /-- REMAP_TABLE_WRITE, R357: The hypervisor rewrites the remap table to build or change slices from whole clusters. -/
  | remapTableWrite (sl : Nat) (sites : List Nat)
  /-- CONTEXT_RETIRE, R360: A context is retired, its key is discarded, its sessions close, and the key-retire count rises. -/
  | contextRetire (sl cx : Nat)
  /-- DRBG_ERROR_STATE, R447: Ochre's DRBG or entropy source enters or leaves its error state, which blocks or allows context creation and key agreement. -/
  | drbgErrorState (on : Bool)
  /-- POWER_LOSS, R472: Package power is removed externally, ending all state until the next power-on. -/
  | powerLoss
  deriving DecidableEq, Repr

end Sys2Proof
end

