-- ==== Sys2Proof/WellFormed.lean ====
section
/-!
DEFINITION. Which instructions are well formed: the values that a field of the right width may still not hold
(08:R212, 20:R419). Each refusal has a name of its own.
-/

namespace Sys2Proof

/-- Why a word is an illegal instruction (08:R212, 20:R419), or why bytes hold no word. -/
inductive Illegal where
  /-- Fewer than four bytes: no instruction word (08:R204). -/
  | shortWord
  /-- OP is 0x1c to 0x1f. -/
  | reservedMajor
  /-- The member field holds a reserved value. -/
  | reservedMember
  /-- A field marked zero is not zero. -/
  | nonzeroField
  /-- G or COND is 0b1000 (08:R206, 09:R243). -/
  | reservedGuard
  /-- `trap` with code 0 (09:R232). -/
  | trapCodeZero
  /-- `loop` with body length 0 (09:R251). -/
  | loopLengthZero
  /-- SZ2 is 3 (08:R205). -/
  | reservedSize
  /-- A 128-bit operand names an odd register (10:R268). -/
  | oddPair
  /-- `fatom` names a destination that its use or member does not write (10:R268). -/
  | unusedDest
  /-- CSRIDX is not assigned (08:R210). -/
  | unassignedCsr
  /-- `dstop` with mask 0 (12:R324). -/
  | stopMaskZero
  deriving DecidableEq, Repr

/-- The control-register indices that are assigned (08:R210, 12:R322, 13:R334). -/
def csrAssigned (i : Nat) : Bool :=
  i == 0x001 || i == 0x002 || i == 0x010 || i == 0x011 || (0x020 ≤ i && i ≤ 0x02a) || i == 0x030 ||
  (0x040 ≤ i && i ≤ 0x045) || (0x050 ≤ i && i ≤ 0x057) || i == 0x060 || i == 0x061 ||
  (0x070 ≤ i && i ≤ 0x078) || (0x080 ≤ i && i ≤ 0x088) || i == 0x0c0 || i == 0x0c1 ||
  (0x100 ≤ i && i ≤ 0x11f)

/-- The first of a list of named checks that fails. -/
def firstIll : List (Bool × Illegal) → Option Illegal
  | [] => none
  | (bad, r) :: rest => if bad then some r else firstIll rest

/-- A guard or branch condition of 0b1000 is reserved (08:R206). -/
def illGuard (g : BitVec 4) : Option Illegal := firstIll [(g == 8#4, .reservedGuard)]

/-- A 128-bit operand sits in an even and odd pair; 32 and 64 bits take any register (10:R268). -/
def illPair (z : BitVec 2) (r : BitVec 5) : Bool × Illegal := (z == 2#2 && r.getLsbD 0, .oddPair)

/-- The form of `natom` (10:R268). -/
def illNatom (z : BitVec 2) (d b : BitVec 5) : Option Illegal :=
  firstIll [(z == 3#2, .reservedSize), illPair z d, illPair z b]

/-- The form of `fatom` members that take an operand and return the old value (10:R268). -/
def illFatom (z : BitVec 2) (u : BitVec 3) (d b : BitVec 5) : Option Illegal :=
  firstIll [(z == 3#2, .reservedSize), illPair z d, illPair z b, (u == 1#3 && d != 0#5, .unusedDest)]

/-- The name of the check an instruction fails; none when it is well formed. Events carry no encoding. -/
def Instr.ill : Instr → Option Illegal
  | .nop _ => none
  | .end_ _ g => illGuard g
  | .yield _ => none
  | .chunk _ => none
  | .brk _ => none
  | .trap _ c g => firstIll [(g == 8#4, .reservedGuard), (c == 0#5, .trapCodeZero)]
  | .eret _ => none
  | .join _ => none
  | .ret _ => none
  | .tlbinv _ _ => none
  | .add _ _ _ _ g => illGuard g
  | .sub _ _ _ _ g => illGuard g
  | .and _ _ _ _ g => illGuard g
  | .or _ _ _ _ g => illGuard g
  | .xor _ _ _ _ g => illGuard g
  | .andn _ _ _ _ g => illGuard g
  | .shl _ _ _ _ g => illGuard g
  | .shr _ _ _ _ g => illGuard g
  | .sar _ _ _ _ g => illGuard g
  | .rol _ _ _ _ g => illGuard g
  | .min _ _ _ _ g => illGuard g
  | .max _ _ _ _ g => illGuard g
  | .minu _ _ _ _ g => illGuard g
  | .maxu _ _ _ _ g => illGuard g
  | .adds _ _ _ _ g => illGuard g
  | .subs _ _ _ _ g => illGuard g
  | .neg _ _ _ g => illGuard g
  | .abs _ _ _ g => illGuard g
  | .clz _ _ _ g => illGuard g
  | .ctz _ _ _ g => illGuard g
  | .popc _ _ _ g => illGuard g
  | .sext8 _ _ _ g => illGuard g
  | .sext16 _ _ _ g => illGuard g
  | .sext32 _ _ _ g => illGuard g
  | .zext32 _ _ _ g => illGuard g
  | .brev _ _ _ g => illGuard g
  | .mov _ _ _ g => illGuard g
  | .sel _ _ _ _ g => illGuard g
  | .add32 _ _ _ _ g => illGuard g
  | .sub32 _ _ _ _ g => illGuard g
  | .and32 _ _ _ _ g => illGuard g
  | .or32 _ _ _ _ g => illGuard g
  | .xor32 _ _ _ _ g => illGuard g
  | .andn32 _ _ _ _ g => illGuard g
  | .shl32 _ _ _ _ g => illGuard g
  | .shr32 _ _ _ _ g => illGuard g
  | .sar32 _ _ _ _ g => illGuard g
  | .rol32 _ _ _ _ g => illGuard g
  | .min32 _ _ _ _ g => illGuard g
  | .max32 _ _ _ _ g => illGuard g
  | .minu32 _ _ _ _ g => illGuard g
  | .maxu32 _ _ _ _ g => illGuard g
  | .adds32 _ _ _ _ g => illGuard g
  | .subs32 _ _ _ _ g => illGuard g
  | .neg32 _ _ _ g => illGuard g
  | .abs32 _ _ _ g => illGuard g
  | .clz32 _ _ _ g => illGuard g
  | .ctz32 _ _ _ g => illGuard g
  | .popc32 _ _ _ g => illGuard g
  | .brev32 _ _ _ g => illGuard g
  | .mov32 _ _ _ g => illGuard g
  | .sel32 _ _ _ _ g => illGuard g
  | .addi _ _ _ _ => none
  | .andi _ _ _ _ => none
  | .ori _ _ _ _ => none
  | .xori _ _ _ _ => none
  | .shli _ _ _ _ => none
  | .shri _ _ _ _ => none
  | .sari _ _ _ _ => none
  | .slti _ _ _ _ => none
  | .movz _ _ _ _ => none
  | .movk _ _ _ _ => none
  | .mul _ _ _ _ g => illGuard g
  | .mulh _ _ _ _ g => illGuard g
  | .mulhu _ _ _ _ g => illGuard g
  | .div _ _ _ _ g => illGuard g
  | .divu _ _ _ _ g => illGuard g
  | .rem _ _ _ _ g => illGuard g
  | .remu _ _ _ _ g => illGuard g
  | .mul32 _ _ _ _ g => illGuard g
  | .div32 _ _ _ _ g => illGuard g
  | .divu32 _ _ _ _ g => illGuard g
  | .rem32 _ _ _ _ g => illGuard g
  | .remu32 _ _ _ _ g => illGuard g
  | .mulw _ _ _ _ g => illGuard g
  | .mulwu _ _ _ _ g => illGuard g
  | .cmpEq _ _ _ _ g => illGuard g
  | .cmpNe _ _ _ _ g => illGuard g
  | .cmpLt _ _ _ _ g => illGuard g
  | .cmpLe _ _ _ _ g => illGuard g
  | .cmpLtu _ _ _ _ g => illGuard g
  | .cmpLeu _ _ _ _ g => illGuard g
  | .fcmpEq _ _ _ _ g => illGuard g
  | .fcmpLt _ _ _ _ g => illGuard g
  | .fcmpLe _ _ _ _ g => illGuard g
  | .fcmpUn _ _ _ _ g => illGuard g
  | .pand _ _ _ _ g => illGuard g
  | .por _ _ _ _ g => illGuard g
  | .pxor _ _ _ _ g => illGuard g
  | .pandn _ _ _ _ g => illGuard g
  | .fadd _ _ _ _ g => illGuard g
  | .fsub _ _ _ _ g => illGuard g
  | .fmul _ _ _ _ g => illGuard g
  | .fma _ _ _ _ g => illGuard g
  | .fms _ _ _ _ g => illGuard g
  | .fnma _ _ _ _ g => illGuard g
  | .fmin _ _ _ _ g => illGuard g
  | .fmax _ _ _ _ g => illGuard g
  | .fabs _ _ _ g => illGuard g
  | .fneg _ _ _ g => illGuard g
  | .fdiv _ _ _ _ g => illGuard g
  | .fsqrt _ _ _ g => illGuard g
  | .frcp _ _ _ g => illGuard g
  | .frsq _ _ _ g => illGuard g
  | .fexp2 _ _ _ g => illGuard g
  | .flog2 _ _ _ g => illGuard g
  | .fsinpi _ _ _ g => illGuard g
  | .fcospi _ _ _ g => illGuard g
  | .fcpys _ _ _ _ g => illGuard g
  | .fclass _ _ _ g => illGuard g
  | .cvtF32Bf16 _ _ _ g => illGuard g
  | .cvtBf16F32 _ _ _ _ g => illGuard g
  | .cvtF32F16 _ _ _ g => illGuard g
  | .cvtF16F32 _ _ _ _ g => illGuard g
  | .cvtF32E4m3 _ _ _ g => illGuard g
  | .cvtE4m3F32 _ _ _ _ g => illGuard g
  | .cvtF32E5m2 _ _ _ g => illGuard g
  | .cvtE5m2F32 _ _ _ _ g => illGuard g
  | .cvtF32I32 _ _ _ g => illGuard g
  | .cvtI32F32 _ _ _ g => illGuard g
  | .cvtF32I64 _ _ _ g => illGuard g
  | .cvtI64F32 _ _ _ g => illGuard g
  | .cvtF32U32 _ _ _ g => illGuard g
  | .cvtU32F32 _ _ _ g => illGuard g
  | .packBf16 _ _ _ _ g => illGuard g
  | .packE4m3 _ _ _ _ g => illGuard g
  | .ld _ _ _ _ _ _ => none
  | .ldSx _ _ _ _ _ _ => none
  | .ldNa _ _ _ _ _ _ => none
  | .ldDesc _ _ _ _ _ _ => none
  | .st _ _ _ _ _ => none
  | .stNa _ _ _ _ _ => none
  | .stDesc _ _ _ _ _ => none
  | .natomAdd _ d _ b z => illNatom z d b
  | .natomAnd _ d _ b z => illNatom z d b
  | .natomOr _ d _ b z => illNatom z d b
  | .natomXor _ d _ b z => illNatom z d b
  | .natomSmin _ d _ b z => illNatom z d b
  | .natomSmax _ d _ b z => illNatom z d b
  | .natomUmin _ d _ b z => illNatom z d b
  | .natomUmax _ d _ b z => illNatom z d b
  | .natomSwap _ d _ b z => illNatom z d b
  | .natomCas _ d _ b z => illNatom z d b
  | .natomFadd _ d _ b z => illNatom z d b
  | .fatomAdd _ d _ b u z => illFatom z u d b
  | .fatomAnd _ d _ b u z => illFatom z u d b
  | .fatomOr _ d _ b u z => illFatom z u d b
  | .fatomXor _ d _ b u z => illFatom z u d b
  | .fatomSmin _ d _ b u z => illFatom z u d b
  | .fatomSmax _ d _ b u z => illFatom z u d b
  | .fatomUmin _ d _ b u z => illFatom z u d b
  | .fatomUmax _ d _ b u z => illFatom z u d b
  | .fatomSwap _ d _ b u z => illFatom z u d b
  | .fatomCas _ d _ b u z => illFatom z u d b
  | .fatomFadd _ d _ b u z => illFatom z u d b
  | .fatomLoad _ d _ u z => illFatom z u d 0#5
  | .fatomStore _ _ b u z => illFatom z u 0#5 b
  | .fence _ _ => none
  | .barj _ _ _ => none
  | .barl _ _ _ => none
  | .bara _ _ _ _ => none
  | .barw _ _ _ _ => none
  | .baraw _ _ _ _ => none
  | .barm _ _ _ _ => none
  | .itinit _ _ _ _ => none
  | .getchunk _ _ _ _ => none
  | .twaitf _ _ _ => none
  | .twaite _ _ _ => none
  | .tsetf _ _ _ => none
  | .tsete _ _ _ => none
  | .br _ g _ => illGuard g
  | .bru _ g _ => illGuard g
  | .call _ _ => none
  | .jmpe _ _ g => illGuard g
  | .calle _ _ g => illGuard g
  | .spawn _ _ g => illGuard g
  | .tspawn _ _ g => illGuard g
  | .sende _ _ g => illGuard g
  | .jmpi _ _ g => illGuard g
  | .calli _ _ g => illGuard g
  | .rete _ g => illGuard g
  | .launch _ _ g => illGuard g
  | .loop _ _ _ n => firstIll [(n == 0#14, .loopLengthZero)]
  | .lstep _ _ _ => none
  | .xbase _ _ _ => none
  | .xcoef _ _ _ _ => none
  | .lbrk _ _ _ _ => none
  | .lind _ _ _ => none
  | .putm _ _ _ _ g => illGuard g
  | .getm _ _ _ => none
  | .peekm _ _ _ => none
  | .tstm _ _ _ => none
  | .clrm _ _ => none
  | .shfl _ _ _ _ g => illGuard g
  | .shflx _ _ _ _ g => illGuard g
  | .bcast _ _ _ _ g => illGuard g
  | .voteAny _ _ _ g => illGuard g
  | .voteAll _ _ _ g => illGuard g
  | .ballot _ _ _ g => illGuard g
  | .redadd _ _ _ g => illGuard g
  | .fredadd _ _ _ g => illGuard g
  | .scanadd _ _ _ g => illGuard g
  | .laneid _ _ g => illGuard g
  | .actmask _ _ g => illGuard g
  | .clrw _ _ g => illGuard g
  | .addwf _ _ _ g => illGuard g
  | .addwi _ _ _ g => illGuard g
  | .maddw _ _ _ _ g => illGuard g
  | .addww _ _ _ g => illGuard g
  | .rndw _ _ _ g => illGuard g
  | .rndw2 _ _ _ g => illGuard g
  | .bload _ _ _ _ => none
  | .mzero _ _ _ => none
  | .mma _ _ _ _ => none
  | .mmas _ _ _ _ => none
  | .mrd _ _ _ => none
  | .mwt _ _ _ => none
  | .mflag _ _ _ => none
  | .cpy _ _ _ _ => none
  | .cpyx _ _ _ _ => none
  | .cpgat _ _ _ _ => none
  | .cpmeta _ _ _ => none
  | .cpstop _ _ => none
  | .cprem _ _ _ _ => none
  | .sfcall _ _ _ _ => none
  | .gload _ _ _ => none
  | .gdrop _ _ => none
  | .dcfg _ _ _ => none
  | .dpatch _ _ => none
  | .dsety _ _ _ g => illGuard g
  | .dsetr _ _ _ g => illGuard g
  | .dsave _ _ => none
  | .drest _ _ => none
  | .dstep _ _ _ => none
  | .dstop _ m => firstIll [(m == 0#4, .stopMaskZero)]
  | .dinj _ _ _ g => illGuard g
  | .drdo _ _ _ _ g => illGuard g
  | .drdy _ _ _ g => illGuard g
  | .epop _ _ _ => none
  | .epeek _ _ _ => none
  | .sbwait _ _ _ => none
  | .sbrd _ _ _ => none
  | .repf _ _ _ _ _ _ => none
  | .csrr _ _ i => firstIll [(!csrAssigned i.toNat, .unassignedCsr)]
  | .csrw _ _ i => firstIll [(!csrAssigned i.toNat, .unassignedCsr)]
  | .csrs _ _ i => firstIll [(!csrAssigned i.toNat, .unassignedCsr)]
  | .csrc _ _ i => firstIll [(!csrAssigned i.toNat, .unassignedCsr)]
  | .sopen _ _ _ => none
  | .sput _ _ _ => none
  | .sget _ _ _ _ => none
  | .sclose _ _ _ => none
  | .hostAppend _ _ _ => none
  | .selection _ => none
  | .refusal _ => none
  | .launchSlot _ => none
  | .switchSlot _ => none
  | .launchCompletion _ _ => none
  | .injection _ _ => none
  | .injectionAck _ _ _ => none
  | .crewPlacement _ _ => none
  | .packetSend _ => none
  | .trainEntry _ _ => none
  | .ringRefill _ _ => none
  | .resend _ _ => none
  | .ringFullNotification _ _ => none
  | .gangFormation _ _ => none
  | .gangwaitExpiry _ _ => none
  | .stealRequest _ _ => none
  | .stealAnswer _ _ => none
  | .routeCacheFill _ _ _ => none
  | .hotSample _ => none
  | .addReplica _ _ _ => none
  | .replicaUpdate _ => none
  | .removeReplica _ _ _ => none
  | .extentFree _ _ _ _ => none
  | .objectLoad _ _ _ _ => none
  | .objectUnload _ _ => none
  | .objectExtentFree _ _ => none
  | .chunkCommit _ => none
  | .taskCommit _ => none
  | .farOpPerformed _ _ => none
  | .farResultReturn _ _ => none
  | .loadComplete _ _ => none
  | .directoryHandlerTrap _ _ _ => none
  | .tlbWalk _ _ _ _ => none
  | .retryCommand _ _ => none
  | .hostClean _ _ _ => none
  | .tlbinvComplete _ => none
  | .hostDeviceWrite _ _ => none
  | .mailDelivery _ _ => none
  | .gangWake _ => none
  | .streamFlit _ _ => none
  | .token _ _ => none
  | .tokenTimer _ _ => none
  | .streamAudit _ _ => none
  | .sopenTimeout _ _ => none
  | .sopenRetry _ _ => none
  | .deadlockDetect _ => none
  | .recoveryStep _ => none
  | .routingLoop _ => none
  | .partitionDrain _ _ => none
  | .routeTableWrite _ _ _ _ => none
  | .recordEnters _ _ => none
  | .copyTransferEnd _ _ _ => none
  | .engineFaultTaken _ => none
  | .mxCommandStart _ _ => none
  | .mxCommandComplete _ _ => none
  | .madderStep _ _ => none
  | .madderCommand _ _ => none
  | .dsaveWritten _ _ => none
  | .fabricFiring _ => none
  | .gloadComplete _ _ => none
  | .contextCreate _ _ _ _ _ => none
  | .softRequest _ _ => none
  | .hardRequest _ _ => none
  | .graceExpiry _ => none
  | .haltComplete _ => none
  | .killTimerExpiry _ => none
  | .killCommand _ _ => none
  | .imageSaveComplete _ _ => none
  | .scrubComplete _ _ _ => none
  | .tokenStart _ => none
  | .tokenWritten _ => none
  | .restoreComplete _ => none
  | .rescrubCommand _ => none
  | .collectivePost _ _ _ _ _ => none
  | .collectiveResume _ _ => none
  | .exchangeTimeout _ => none
  | .participantTimeout _ => none
  | .sessionKeyAgreement _ _ _ => none
  | .sessionRecord _ _ _ _ => none
  | .attestationQuote _ _ _ => none
  | .flitCrcFail _ => none
  | .fjoadLaneLost _ => none
  | .portDown _ => none
  | .accessTimeout _ _ => none
  | .timeSourceFail => none
  | .sourceChange => none
  | .dtcStep _ => none
  | .queueRecordWrite _ _ _ _ _ _ => none
  | .haltRequest _ _ => none
  | .haltDone _ _ => none
  | .resume _ _ => none
  | .debugRegisterWrite _ _ _ _ => none
  | .powerInterval _ => none
  | .pwrlimWrite _ => none
  | .thermalEvent _ _ => none
  | .thermalTrip _ => none
  | .lifeEstimate _ _ _ => none
  | .eolalrWrite _ _ _ => none
  | .eolstsClear _ _ _ => none
  | .correctedError _ _ => none
  | .uncorrectedError _ _ _ => none
  | .powerOn _ => none
  | .mgmtRegisterWrite _ _ => none
  | .accwUpdateDone _ _ => none
  | .fixedLatencyWrite _ _ => none
  | .madderReadDone _ _ => none
  | .peerAcknowledgement _ _ => none
  | .peerAccess _ _ _ => none
  | .collectiveContribution _ _ _ _ => none
  | .timeSourceInput _ _ => none
  | .timeSourceRecovery _ _ => none
  | .remapTableWrite _ _ => none
  | .contextRetire _ _ => none
  | .drbgErrorState _ => none
  | .powerLoss => none

/-- An instruction is well formed when no check refuses it. -/
def Instr.wf (i : Instr) : Bool := i.ill.isNone

end Sys2Proof
end

