-- ==== Sys2Proof/Word.lean ====
section
/-!
DEFINITION. The word types of the Dunenar: 64-bit registers, 32-bit instruction words and operands, bytes.
-/

namespace Sys2Proof

/-- A 64-bit register (08:R207). -/
abbrev Word := BitVec 64

/-- A 32-bit instruction word or 32-bit operand (08:R204, 08:R207). -/
abbrev W32 := BitVec 32

/-- The smallest addressable unit (00:R4). -/
abbrev Byte := BitVec 8

end Sys2Proof
end

