-- ==== Sys2Proof/Decode.lean ====
section
/-!
DEFINITION. The decoder and the encoder of the 261 instruction words (08:R204, 08:R205, 08:R211, 08:R212 and the
encoding tables of 09 to 13). Decoding is total: it gives an instruction or the name of what makes the word illegal.

`noncomputable` below means only that Lean's code generator is not asked: its runtime has no tag for more than 245
constructors, and Instr has 377. The kernel evaluates every definition here.
-/

namespace Sys2Proof

/-- Bits lo to lo + n - 1 of a word (00:R4). -/
def fld (w : W32) (lo n : Nat) : BitVec n := BitVec.ofNat n (w.toNat / 2 ^ lo)

/-- Every listed field, written (hi, lo), of a word is zero. -/
def zeroFields (w : W32) : List (Nat × Nat) → Bool
  | [] => true
  | (hi, lo) :: rest => (w.toNat / 2 ^ lo) % 2 ^ (hi + 1 - lo) == 0 && zeroFields w rest

/-- An instruction whose fields marked zero are zero. -/
def zeros (w : W32) (fs : List (Nat × Nat)) (i : Instr) : Except Illegal Instr :=
  if zeroFields w fs then .ok i else .error .nonzeroField

/-- Major opcode 0x00 (08:R211). -/
def decodeSys (w : W32) : Except Illegal Instr :=
  match w.toNat / 2 ^ 4 % 32 with
  | 0 => zeros w [(23, 9), (3, 0)] (.nop (fld w 29 3))
  | 1 => zeros w [(23, 9)] (.end_ (fld w 29 3) (fld w 0 4))
  | 2 => zeros w [(23, 9), (3, 0)] (.yield (fld w 29 3))
  | 3 => zeros w [(23, 9), (3, 0)] (.chunk (fld w 29 3))
  | 4 => zeros w [(23, 9), (3, 0)] (.brk (fld w 29 3))
  | 5 => zeros w [(23, 14)] (.trap (fld w 29 3) (fld w 9 5) (fld w 0 4))
  | 6 => zeros w [(23, 9), (3, 0)] (.eret (fld w 29 3))
  | 7 => zeros w [(23, 9), (3, 0)] (.join (fld w 29 3))
  | 8 => zeros w [(23, 9), (3, 0)] (.ret (fld w 29 3))
  | 9 => zeros w [(23, 19), (13, 9), (3, 0)] (.tlbinv (fld w 29 3) (fld w 14 5))
  | _ => .error .reservedMember

/-- Major opcode 0x01 (08:R211). -/
def decodeIalu (w : W32) : Except Illegal Instr :=
  match w.toNat / 2 ^ 4 % 32 with
  | 0 => .ok (.add (fld w 29 3) (fld w 19 5) (fld w 14 5) (fld w 9 5) (fld w 0 4))
  | 1 => .ok (.sub (fld w 29 3) (fld w 19 5) (fld w 14 5) (fld w 9 5) (fld w 0 4))
  | 2 => .ok (.and (fld w 29 3) (fld w 19 5) (fld w 14 5) (fld w 9 5) (fld w 0 4))
  | 3 => .ok (.or (fld w 29 3) (fld w 19 5) (fld w 14 5) (fld w 9 5) (fld w 0 4))
  | 4 => .ok (.xor (fld w 29 3) (fld w 19 5) (fld w 14 5) (fld w 9 5) (fld w 0 4))
  | 5 => .ok (.andn (fld w 29 3) (fld w 19 5) (fld w 14 5) (fld w 9 5) (fld w 0 4))
  | 6 => .ok (.shl (fld w 29 3) (fld w 19 5) (fld w 14 5) (fld w 9 5) (fld w 0 4))
  | 7 => .ok (.shr (fld w 29 3) (fld w 19 5) (fld w 14 5) (fld w 9 5) (fld w 0 4))
  | 8 => .ok (.sar (fld w 29 3) (fld w 19 5) (fld w 14 5) (fld w 9 5) (fld w 0 4))
  | 9 => .ok (.rol (fld w 29 3) (fld w 19 5) (fld w 14 5) (fld w 9 5) (fld w 0 4))
  | 10 => .ok (.min (fld w 29 3) (fld w 19 5) (fld w 14 5) (fld w 9 5) (fld w 0 4))
  | 11 => .ok (.max (fld w 29 3) (fld w 19 5) (fld w 14 5) (fld w 9 5) (fld w 0 4))
  | 12 => .ok (.minu (fld w 29 3) (fld w 19 5) (fld w 14 5) (fld w 9 5) (fld w 0 4))
  | 13 => .ok (.maxu (fld w 29 3) (fld w 19 5) (fld w 14 5) (fld w 9 5) (fld w 0 4))
  | 14 => .ok (.adds (fld w 29 3) (fld w 19 5) (fld w 14 5) (fld w 9 5) (fld w 0 4))
  | 15 => .ok (.subs (fld w 29 3) (fld w 19 5) (fld w 14 5) (fld w 9 5) (fld w 0 4))
  | 16 => zeros w [(13, 9)] (.neg (fld w 29 3) (fld w 19 5) (fld w 14 5) (fld w 0 4))
  | 17 => zeros w [(13, 9)] (.abs (fld w 29 3) (fld w 19 5) (fld w 14 5) (fld w 0 4))
  | 18 => zeros w [(13, 9)] (.clz (fld w 29 3) (fld w 19 5) (fld w 14 5) (fld w 0 4))
  | 19 => zeros w [(13, 9)] (.ctz (fld w 29 3) (fld w 19 5) (fld w 14 5) (fld w 0 4))
  | 20 => zeros w [(13, 9)] (.popc (fld w 29 3) (fld w 19 5) (fld w 14 5) (fld w 0 4))
  | 21 => zeros w [(13, 9)] (.sext8 (fld w 29 3) (fld w 19 5) (fld w 14 5) (fld w 0 4))
  | 22 => zeros w [(13, 9)] (.sext16 (fld w 29 3) (fld w 19 5) (fld w 14 5) (fld w 0 4))
  | 23 => zeros w [(13, 9)] (.sext32 (fld w 29 3) (fld w 19 5) (fld w 14 5) (fld w 0 4))
  | 24 => zeros w [(13, 9)] (.zext32 (fld w 29 3) (fld w 19 5) (fld w 14 5) (fld w 0 4))
  | 25 => zeros w [(13, 9)] (.brev (fld w 29 3) (fld w 19 5) (fld w 14 5) (fld w 0 4))
  | 26 => zeros w [(13, 9)] (.mov (fld w 29 3) (fld w 19 5) (fld w 14 5) (fld w 0 4))
  | 27 => .ok (.sel (fld w 29 3) (fld w 19 5) (fld w 14 5) (fld w 9 5) (fld w 0 4))
  | _ => .error .reservedMember

/-- Major opcode 0x02 (08:R211). -/
def decodeIalu32 (w : W32) : Except Illegal Instr :=
  match w.toNat / 2 ^ 4 % 32 with
  | 0 => .ok (.add32 (fld w 29 3) (fld w 19 5) (fld w 14 5) (fld w 9 5) (fld w 0 4))
  | 1 => .ok (.sub32 (fld w 29 3) (fld w 19 5) (fld w 14 5) (fld w 9 5) (fld w 0 4))
  | 2 => .ok (.and32 (fld w 29 3) (fld w 19 5) (fld w 14 5) (fld w 9 5) (fld w 0 4))
  | 3 => .ok (.or32 (fld w 29 3) (fld w 19 5) (fld w 14 5) (fld w 9 5) (fld w 0 4))
  | 4 => .ok (.xor32 (fld w 29 3) (fld w 19 5) (fld w 14 5) (fld w 9 5) (fld w 0 4))
  | 5 => .ok (.andn32 (fld w 29 3) (fld w 19 5) (fld w 14 5) (fld w 9 5) (fld w 0 4))
  | 6 => .ok (.shl32 (fld w 29 3) (fld w 19 5) (fld w 14 5) (fld w 9 5) (fld w 0 4))
  | 7 => .ok (.shr32 (fld w 29 3) (fld w 19 5) (fld w 14 5) (fld w 9 5) (fld w 0 4))
  | 8 => .ok (.sar32 (fld w 29 3) (fld w 19 5) (fld w 14 5) (fld w 9 5) (fld w 0 4))
  | 9 => .ok (.rol32 (fld w 29 3) (fld w 19 5) (fld w 14 5) (fld w 9 5) (fld w 0 4))
  | 10 => .ok (.min32 (fld w 29 3) (fld w 19 5) (fld w 14 5) (fld w 9 5) (fld w 0 4))
  | 11 => .ok (.max32 (fld w 29 3) (fld w 19 5) (fld w 14 5) (fld w 9 5) (fld w 0 4))
  | 12 => .ok (.minu32 (fld w 29 3) (fld w 19 5) (fld w 14 5) (fld w 9 5) (fld w 0 4))
  | 13 => .ok (.maxu32 (fld w 29 3) (fld w 19 5) (fld w 14 5) (fld w 9 5) (fld w 0 4))
  | 14 => .ok (.adds32 (fld w 29 3) (fld w 19 5) (fld w 14 5) (fld w 9 5) (fld w 0 4))
  | 15 => .ok (.subs32 (fld w 29 3) (fld w 19 5) (fld w 14 5) (fld w 9 5) (fld w 0 4))
  | 16 => zeros w [(13, 9)] (.neg32 (fld w 29 3) (fld w 19 5) (fld w 14 5) (fld w 0 4))
  | 17 => zeros w [(13, 9)] (.abs32 (fld w 29 3) (fld w 19 5) (fld w 14 5) (fld w 0 4))
  | 18 => zeros w [(13, 9)] (.clz32 (fld w 29 3) (fld w 19 5) (fld w 14 5) (fld w 0 4))
  | 19 => zeros w [(13, 9)] (.ctz32 (fld w 29 3) (fld w 19 5) (fld w 14 5) (fld w 0 4))
  | 20 => zeros w [(13, 9)] (.popc32 (fld w 29 3) (fld w 19 5) (fld w 14 5) (fld w 0 4))
  | 25 => zeros w [(13, 9)] (.brev32 (fld w 29 3) (fld w 19 5) (fld w 14 5) (fld w 0 4))
  | 26 => zeros w [(13, 9)] (.mov32 (fld w 29 3) (fld w 19 5) (fld w 14 5) (fld w 0 4))
  | 27 => .ok (.sel32 (fld w 29 3) (fld w 19 5) (fld w 14 5) (fld w 9 5) (fld w 0 4))
  | _ => .error .reservedMember

/-- Major opcode 0x03 (08:R211). -/
def decodeIalui (w : W32) : Except Illegal Instr :=
  match w.toNat / 2 ^ 11 % 8 with
  | 0 => .ok (.addi (fld w 29 3) (fld w 19 5) (fld w 14 5) (fld w 0 11))
  | 1 => .ok (.andi (fld w 29 3) (fld w 19 5) (fld w 14 5) (fld w 0 11))
  | 2 => .ok (.ori (fld w 29 3) (fld w 19 5) (fld w 14 5) (fld w 0 11))
  | 3 => .ok (.xori (fld w 29 3) (fld w 19 5) (fld w 14 5) (fld w 0 11))
  | 4 => zeros w [(10, 6)] (.shli (fld w 29 3) (fld w 19 5) (fld w 14 5) (fld w 0 6))
  | 5 => zeros w [(10, 6)] (.shri (fld w 29 3) (fld w 19 5) (fld w 14 5) (fld w 0 6))
  | 6 => zeros w [(10, 6)] (.sari (fld w 29 3) (fld w 19 5) (fld w 14 5) (fld w 0 6))
  | 7 => .ok (.slti (fld w 29 3) (fld w 19 5) (fld w 14 5) (fld w 0 11))
  | _ => .error .reservedMember

/-- Major opcode 0x04 (08:R211). -/
def decodeMovw (w : W32) : Except Illegal Instr :=
  match w.toNat / 2 ^ 18 % 2 with
  | 0 => .ok (.movz (fld w 29 3) (fld w 19 5) (fld w 16 2) (fld w 0 16))
  | 1 => .ok (.movk (fld w 29 3) (fld w 19 5) (fld w 16 2) (fld w 0 16))
  | _ => .error .reservedMember

/-- Major opcode 0x05 (08:R211). -/
def decodeImul (w : W32) : Except Illegal Instr :=
  match w.toNat / 2 ^ 4 % 32 with
  | 0 => .ok (.mul (fld w 29 3) (fld w 19 5) (fld w 14 5) (fld w 9 5) (fld w 0 4))
  | 1 => .ok (.mulh (fld w 29 3) (fld w 19 5) (fld w 14 5) (fld w 9 5) (fld w 0 4))
  | 2 => .ok (.mulhu (fld w 29 3) (fld w 19 5) (fld w 14 5) (fld w 9 5) (fld w 0 4))
  | 3 => .ok (.div (fld w 29 3) (fld w 19 5) (fld w 14 5) (fld w 9 5) (fld w 0 4))
  | 4 => .ok (.divu (fld w 29 3) (fld w 19 5) (fld w 14 5) (fld w 9 5) (fld w 0 4))
  | 5 => .ok (.rem (fld w 29 3) (fld w 19 5) (fld w 14 5) (fld w 9 5) (fld w 0 4))
  | 6 => .ok (.remu (fld w 29 3) (fld w 19 5) (fld w 14 5) (fld w 9 5) (fld w 0 4))
  | 7 => .ok (.mul32 (fld w 29 3) (fld w 19 5) (fld w 14 5) (fld w 9 5) (fld w 0 4))
  | 8 => .ok (.div32 (fld w 29 3) (fld w 19 5) (fld w 14 5) (fld w 9 5) (fld w 0 4))
  | 9 => .ok (.divu32 (fld w 29 3) (fld w 19 5) (fld w 14 5) (fld w 9 5) (fld w 0 4))
  | 10 => .ok (.rem32 (fld w 29 3) (fld w 19 5) (fld w 14 5) (fld w 9 5) (fld w 0 4))
  | 11 => .ok (.remu32 (fld w 29 3) (fld w 19 5) (fld w 14 5) (fld w 9 5) (fld w 0 4))
  | 12 => .ok (.mulw (fld w 29 3) (fld w 19 5) (fld w 14 5) (fld w 9 5) (fld w 0 4))
  | 13 => .ok (.mulwu (fld w 29 3) (fld w 19 5) (fld w 14 5) (fld w 9 5) (fld w 0 4))
  | _ => .error .reservedMember

/-- Major opcode 0x06 (08:R211). -/
def decodeCmp (w : W32) : Except Illegal Instr :=
  match w.toNat / 2 ^ 4 % 32 with
  | 0 => zeros w [(23, 22)] (.cmpEq (fld w 29 3) (fld w 19 3) (fld w 14 5) (fld w 9 5) (fld w 0 4))
  | 1 => zeros w [(23, 22)] (.cmpNe (fld w 29 3) (fld w 19 3) (fld w 14 5) (fld w 9 5) (fld w 0 4))
  | 2 => zeros w [(23, 22)] (.cmpLt (fld w 29 3) (fld w 19 3) (fld w 14 5) (fld w 9 5) (fld w 0 4))
  | 3 => zeros w [(23, 22)] (.cmpLe (fld w 29 3) (fld w 19 3) (fld w 14 5) (fld w 9 5) (fld w 0 4))
  | 4 => zeros w [(23, 22)] (.cmpLtu (fld w 29 3) (fld w 19 3) (fld w 14 5) (fld w 9 5) (fld w 0 4))
  | 5 => zeros w [(23, 22)] (.cmpLeu (fld w 29 3) (fld w 19 3) (fld w 14 5) (fld w 9 5) (fld w 0 4))
  | 6 => zeros w [(23, 22)] (.fcmpEq (fld w 29 3) (fld w 19 3) (fld w 14 5) (fld w 9 5) (fld w 0 4))
  | 7 => zeros w [(23, 22)] (.fcmpLt (fld w 29 3) (fld w 19 3) (fld w 14 5) (fld w 9 5) (fld w 0 4))
  | 8 => zeros w [(23, 22)] (.fcmpLe (fld w 29 3) (fld w 19 3) (fld w 14 5) (fld w 9 5) (fld w 0 4))
  | 9 => zeros w [(23, 22)] (.fcmpUn (fld w 29 3) (fld w 19 3) (fld w 14 5) (fld w 9 5) (fld w 0 4))
  | 10 => zeros w [(23, 22), (18, 17), (13, 12)] (.pand (fld w 29 3) (fld w 19 3) (fld w 14 3) (fld w 9 3) (fld w 0 4))
  | 11 => zeros w [(23, 22), (18, 17), (13, 12)] (.por (fld w 29 3) (fld w 19 3) (fld w 14 3) (fld w 9 3) (fld w 0 4))
  | 12 => zeros w [(23, 22), (18, 17), (13, 12)] (.pxor (fld w 29 3) (fld w 19 3) (fld w 14 3) (fld w 9 3) (fld w 0 4))
  | 13 => zeros w [(23, 22), (18, 17), (13, 12)] (.pandn (fld w 29 3) (fld w 19 3) (fld w 14 3) (fld w 9 3) (fld w 0 4))
  | _ => .error .reservedMember

/-- Major opcode 0x07 (08:R211). -/
def decodeFp (w : W32) : Except Illegal Instr :=
  match w.toNat / 2 ^ 4 % 32 with
  | 0 => .ok (.fadd (fld w 29 3) (fld w 19 5) (fld w 14 5) (fld w 9 5) (fld w 0 4))
  | 1 => .ok (.fsub (fld w 29 3) (fld w 19 5) (fld w 14 5) (fld w 9 5) (fld w 0 4))
  | 2 => .ok (.fmul (fld w 29 3) (fld w 19 5) (fld w 14 5) (fld w 9 5) (fld w 0 4))
  | 3 => .ok (.fma (fld w 29 3) (fld w 19 5) (fld w 14 5) (fld w 9 5) (fld w 0 4))
  | 4 => .ok (.fms (fld w 29 3) (fld w 19 5) (fld w 14 5) (fld w 9 5) (fld w 0 4))
  | 5 => .ok (.fnma (fld w 29 3) (fld w 19 5) (fld w 14 5) (fld w 9 5) (fld w 0 4))
  | 6 => .ok (.fmin (fld w 29 3) (fld w 19 5) (fld w 14 5) (fld w 9 5) (fld w 0 4))
  | 7 => .ok (.fmax (fld w 29 3) (fld w 19 5) (fld w 14 5) (fld w 9 5) (fld w 0 4))
  | 8 => zeros w [(13, 9)] (.fabs (fld w 29 3) (fld w 19 5) (fld w 14 5) (fld w 0 4))
  | 9 => zeros w [(13, 9)] (.fneg (fld w 29 3) (fld w 19 5) (fld w 14 5) (fld w 0 4))
  | 10 => .ok (.fdiv (fld w 29 3) (fld w 19 5) (fld w 14 5) (fld w 9 5) (fld w 0 4))
  | 11 => zeros w [(13, 9)] (.fsqrt (fld w 29 3) (fld w 19 5) (fld w 14 5) (fld w 0 4))
  | 12 => zeros w [(13, 9)] (.frcp (fld w 29 3) (fld w 19 5) (fld w 14 5) (fld w 0 4))
  | 13 => zeros w [(13, 9)] (.frsq (fld w 29 3) (fld w 19 5) (fld w 14 5) (fld w 0 4))
  | 14 => zeros w [(13, 9)] (.fexp2 (fld w 29 3) (fld w 19 5) (fld w 14 5) (fld w 0 4))
  | 15 => zeros w [(13, 9)] (.flog2 (fld w 29 3) (fld w 19 5) (fld w 14 5) (fld w 0 4))
  | 16 => zeros w [(13, 9)] (.fsinpi (fld w 29 3) (fld w 19 5) (fld w 14 5) (fld w 0 4))
  | 17 => zeros w [(13, 9)] (.fcospi (fld w 29 3) (fld w 19 5) (fld w 14 5) (fld w 0 4))
  | 18 => .ok (.fcpys (fld w 29 3) (fld w 19 5) (fld w 14 5) (fld w 9 5) (fld w 0 4))
  | 19 => zeros w [(13, 9)] (.fclass (fld w 29 3) (fld w 19 5) (fld w 14 5) (fld w 0 4))
  | _ => .error .reservedMember

/-- Major opcode 0x08 (08:R211). -/
def decodeFcvt (w : W32) : Except Illegal Instr :=
  match w.toNat / 2 ^ 4 % 32 with
  | 0 => zeros w [(13, 9)] (.cvtF32Bf16 (fld w 29 3) (fld w 19 5) (fld w 14 5) (fld w 0 4))
  | 1 => zeros w [(12, 9)] (.cvtBf16F32 (fld w 29 3) (fld w 19 5) (fld w 14 5) (fld w 13 1) (fld w 0 4))
  | 2 => zeros w [(13, 9)] (.cvtF32F16 (fld w 29 3) (fld w 19 5) (fld w 14 5) (fld w 0 4))
  | 3 => zeros w [(12, 9)] (.cvtF16F32 (fld w 29 3) (fld w 19 5) (fld w 14 5) (fld w 13 1) (fld w 0 4))
  | 4 => zeros w [(13, 9)] (.cvtF32E4m3 (fld w 29 3) (fld w 19 5) (fld w 14 5) (fld w 0 4))
  | 5 => zeros w [(12, 9)] (.cvtE4m3F32 (fld w 29 3) (fld w 19 5) (fld w 14 5) (fld w 13 1) (fld w 0 4))
  | 6 => zeros w [(13, 9)] (.cvtF32E5m2 (fld w 29 3) (fld w 19 5) (fld w 14 5) (fld w 0 4))
  | 7 => zeros w [(12, 9)] (.cvtE5m2F32 (fld w 29 3) (fld w 19 5) (fld w 14 5) (fld w 13 1) (fld w 0 4))
  | 8 => zeros w [(13, 9)] (.cvtF32I32 (fld w 29 3) (fld w 19 5) (fld w 14 5) (fld w 0 4))
  | 9 => zeros w [(13, 9)] (.cvtI32F32 (fld w 29 3) (fld w 19 5) (fld w 14 5) (fld w 0 4))
  | 10 => zeros w [(13, 9)] (.cvtF32I64 (fld w 29 3) (fld w 19 5) (fld w 14 5) (fld w 0 4))
  | 11 => zeros w [(13, 9)] (.cvtI64F32 (fld w 29 3) (fld w 19 5) (fld w 14 5) (fld w 0 4))
  | 12 => zeros w [(13, 9)] (.cvtF32U32 (fld w 29 3) (fld w 19 5) (fld w 14 5) (fld w 0 4))
  | 13 => zeros w [(13, 9)] (.cvtU32F32 (fld w 29 3) (fld w 19 5) (fld w 14 5) (fld w 0 4))
  | 14 => zeros w [(12, 9)] (.packBf16 (fld w 29 3) (fld w 19 5) (fld w 14 5) (fld w 13 1) (fld w 0 4))
  | 15 => zeros w [(12, 9)] (.packE4m3 (fld w 29 3) (fld w 19 5) (fld w 14 5) (fld w 13 1) (fld w 0 4))
  | _ => .error .reservedMember

/-- Major opcode 0x09 (08:R211). -/
def decodeLd (w : W32) : Except Illegal Instr :=
  match w.toNat / 2 ^ 0 % 4 with
  | 0 => .ok (.ld (fld w 29 3) (fld w 19 5) (fld w 14 5) (fld w 6 8) (fld w 4 2) (fld w 2 2))
  | 1 => .ok (.ldSx (fld w 29 3) (fld w 19 5) (fld w 14 5) (fld w 6 8) (fld w 4 2) (fld w 2 2))
  | 2 => .ok (.ldNa (fld w 29 3) (fld w 19 5) (fld w 14 5) (fld w 6 8) (fld w 4 2) (fld w 2 2))
  | 3 => zeros w [(18, 17)] (.ldDesc (fld w 29 3) (fld w 19 5) (fld w 14 3) (fld w 6 8) (fld w 4 2) (fld w 2 2))
  | _ => .error .reservedMember

/-- Major opcode 0x0a (08:R211). -/
def decodeSt (w : W32) : Except Illegal Instr :=
  match w.toNat / 2 ^ 0 % 4 with
  | 0 => zeros w [(3, 2)] (.st (fld w 29 3) (fld w 19 5) (fld w 14 5) (fld w 6 8) (fld w 4 2))
  | 1 => zeros w [(3, 2)] (.stNa (fld w 29 3) (fld w 19 5) (fld w 14 5) (fld w 6 8) (fld w 4 2))
  | 2 => zeros w [(18, 17), (3, 2)] (.stDesc (fld w 29 3) (fld w 19 5) (fld w 14 3) (fld w 6 8) (fld w 4 2))
  | _ => .error .reservedMember

/-- Major opcode 0x0b (08:R211). -/
def decodeNatom (w : W32) : Except Illegal Instr :=
  match w.toNat / 2 ^ 2 % 16 with
  | 0 => zeros w [(8, 6)] (.natomAdd (fld w 29 3) (fld w 19 5) (fld w 14 5) (fld w 9 5) (fld w 0 2))
  | 1 => zeros w [(8, 6)] (.natomAnd (fld w 29 3) (fld w 19 5) (fld w 14 5) (fld w 9 5) (fld w 0 2))
  | 2 => zeros w [(8, 6)] (.natomOr (fld w 29 3) (fld w 19 5) (fld w 14 5) (fld w 9 5) (fld w 0 2))
  | 3 => zeros w [(8, 6)] (.natomXor (fld w 29 3) (fld w 19 5) (fld w 14 5) (fld w 9 5) (fld w 0 2))
  | 4 => zeros w [(8, 6)] (.natomSmin (fld w 29 3) (fld w 19 5) (fld w 14 5) (fld w 9 5) (fld w 0 2))
  | 5 => zeros w [(8, 6)] (.natomSmax (fld w 29 3) (fld w 19 5) (fld w 14 5) (fld w 9 5) (fld w 0 2))
  | 6 => zeros w [(8, 6)] (.natomUmin (fld w 29 3) (fld w 19 5) (fld w 14 5) (fld w 9 5) (fld w 0 2))
  | 7 => zeros w [(8, 6)] (.natomUmax (fld w 29 3) (fld w 19 5) (fld w 14 5) (fld w 9 5) (fld w 0 2))
  | 8 => zeros w [(8, 6)] (.natomSwap (fld w 29 3) (fld w 19 5) (fld w 14 5) (fld w 9 5) (fld w 0 2))
  | 9 => zeros w [(8, 6)] (.natomCas (fld w 29 3) (fld w 19 5) (fld w 14 5) (fld w 9 5) (fld w 0 2))
  | 10 => zeros w [(8, 6)] (.natomFadd (fld w 29 3) (fld w 19 5) (fld w 14 5) (fld w 9 5) (fld w 0 2))
  | _ => .error .reservedMember

/-- Major opcode 0x0c (08:R211). -/
def decodeFatom (w : W32) : Except Illegal Instr :=
  match w.toNat / 2 ^ 2 % 16 with
  | 0 => .ok (.fatomAdd (fld w 29 3) (fld w 19 5) (fld w 14 5) (fld w 9 5) (fld w 6 3) (fld w 0 2))
  | 1 => .ok (.fatomAnd (fld w 29 3) (fld w 19 5) (fld w 14 5) (fld w 9 5) (fld w 6 3) (fld w 0 2))
  | 2 => .ok (.fatomOr (fld w 29 3) (fld w 19 5) (fld w 14 5) (fld w 9 5) (fld w 6 3) (fld w 0 2))
  | 3 => .ok (.fatomXor (fld w 29 3) (fld w 19 5) (fld w 14 5) (fld w 9 5) (fld w 6 3) (fld w 0 2))
  | 4 => .ok (.fatomSmin (fld w 29 3) (fld w 19 5) (fld w 14 5) (fld w 9 5) (fld w 6 3) (fld w 0 2))
  | 5 => .ok (.fatomSmax (fld w 29 3) (fld w 19 5) (fld w 14 5) (fld w 9 5) (fld w 6 3) (fld w 0 2))
  | 6 => .ok (.fatomUmin (fld w 29 3) (fld w 19 5) (fld w 14 5) (fld w 9 5) (fld w 6 3) (fld w 0 2))
  | 7 => .ok (.fatomUmax (fld w 29 3) (fld w 19 5) (fld w 14 5) (fld w 9 5) (fld w 6 3) (fld w 0 2))
  | 8 => .ok (.fatomSwap (fld w 29 3) (fld w 19 5) (fld w 14 5) (fld w 9 5) (fld w 6 3) (fld w 0 2))
  | 9 => .ok (.fatomCas (fld w 29 3) (fld w 19 5) (fld w 14 5) (fld w 9 5) (fld w 6 3) (fld w 0 2))
  | 10 => .ok (.fatomFadd (fld w 29 3) (fld w 19 5) (fld w 14 5) (fld w 9 5) (fld w 6 3) (fld w 0 2))
  | 11 => zeros w [(13, 9)] (.fatomLoad (fld w 29 3) (fld w 19 5) (fld w 14 5) (fld w 6 3) (fld w 0 2))
  | 12 => zeros w [(23, 19)] (.fatomStore (fld w 29 3) (fld w 14 5) (fld w 9 5) (fld w 6 3) (fld w 0 2))
  | _ => .error .reservedMember

/-- Major opcode 0x0d (08:R211). -/
def decodeSync (w : W32) : Except Illegal Instr :=
  match w.toNat / 2 ^ 4 % 32 with
  | 0 => zeros w [(23, 11), (3, 0)] (.fence (fld w 29 3) (fld w 9 2))
  | 1 => zeros w [(23, 18), (13, 11), (3, 0)] (.barj (fld w 29 3) (fld w 14 4) (fld w 9 2))
  | 2 => zeros w [(23, 18), (13, 11), (3, 0)] (.barl (fld w 29 3) (fld w 14 4) (fld w 9 2))
  | 3 => zeros w [(18, 18), (13, 11), (3, 0)] (.bara (fld w 29 3) (fld w 19 5) (fld w 14 4) (fld w 9 2))
  | 4 => zeros w [(18, 18), (13, 11), (3, 0)] (.barw (fld w 29 3) (fld w 19 5) (fld w 14 4) (fld w 9 2))
  | 5 => zeros w [(18, 18), (13, 11), (3, 0)] (.baraw (fld w 29 3) (fld w 19 5) (fld w 14 4) (fld w 9 2))
  | 6 => zeros w [(18, 18), (13, 13), (3, 0)] (.barm (fld w 29 3) (fld w 19 5) (fld w 14 4) (fld w 9 4))
  | 7 => zeros w [(19, 18), (13, 11), (3, 0)] (.itinit (fld w 29 3) (fld w 20 4) (fld w 14 4) (fld w 9 2))
  | 8 => zeros w [(19, 18), (13, 11), (3, 0)] (.getchunk (fld w 29 3) (fld w 20 4) (fld w 14 4) (fld w 9 2))
  | 9 => zeros w [(23, 19), (13, 11), (3, 0)] (.twaitf (fld w 29 3) (fld w 14 5) (fld w 9 2))
  | 10 => zeros w [(23, 19), (13, 11), (3, 0)] (.twaite (fld w 29 3) (fld w 14 5) (fld w 9 2))
  | 11 => zeros w [(23, 19), (13, 11), (3, 0)] (.tsetf (fld w 29 3) (fld w 14 5) (fld w 9 2))
  | 12 => zeros w [(23, 19), (13, 11), (3, 0)] (.tsete (fld w 29 3) (fld w 14 5) (fld w 9 2))
  | _ => .error .reservedMember

/-- Major opcode 0x0e (08:R211). -/
def decodeBr (w : W32) : Except Illegal Instr :=
  match w.toNat / 2 ^ 18 % 4 with
  | 0 => .ok (.br (fld w 29 3) (fld w 20 4) (fld w 0 18))
  | 1 => .ok (.bru (fld w 29 3) (fld w 20 4) (fld w 0 18))
  | 2 => zeros w [(23, 20)] (.call (fld w 29 3) (fld w 0 18))
  | _ => .error .reservedMember

/-- Major opcode 0x0f (08:R211). -/
def decodeXfer (w : W32) : Except Illegal Instr :=
  match w.toNat / 2 ^ 4 % 16 with
  | 0 => .ok (.jmpe (fld w 29 3) (fld w 8 16) (fld w 0 4))
  | 1 => .ok (.calle (fld w 29 3) (fld w 8 16) (fld w 0 4))
  | 2 => .ok (.spawn (fld w 29 3) (fld w 8 16) (fld w 0 4))
  | 3 => .ok (.tspawn (fld w 29 3) (fld w 8 16) (fld w 0 4))
  | 4 => .ok (.sende (fld w 29 3) (fld w 8 16) (fld w 0 4))
  | 5 => zeros w [(23, 13)] (.jmpi (fld w 29 3) (fld w 8 5) (fld w 0 4))
  | 6 => zeros w [(23, 13)] (.calli (fld w 29 3) (fld w 8 5) (fld w 0 4))
  | 7 => zeros w [(23, 8)] (.rete (fld w 29 3) (fld w 0 4))
  | 8 => zeros w [(23, 13)] (.launch (fld w 29 3) (fld w 8 5) (fld w 0 4))
  | _ => .error .reservedMember

/-- Major opcode 0x10 (08:R211). -/
def decodeLoop (w : W32) : Except Illegal Instr :=
  match w.toNat / 2 ^ 14 % 8 with
  | 0 => .ok (.loop (fld w 29 3) (fld w 22 2) (fld w 17 5) (fld w 0 14))
  | 1 => zeros w [(13, 0)] (.lstep (fld w 29 3) (fld w 22 2) (fld w 17 5))
  | 2 => zeros w [(23, 22), (13, 3)] (.xbase (fld w 29 3) (fld w 17 5) (fld w 0 3))
  | 3 => zeros w [(13, 3)] (.xcoef (fld w 29 3) (fld w 22 2) (fld w 17 5) (fld w 0 3))
  | 4 => zeros w [(21, 17), (13, 4)] (.lbrk (fld w 29 3) (fld w 22 2) (fld w 3 1) (fld w 0 3))
  | 5 => zeros w [(13, 0)] (.lind (fld w 29 3) (fld w 22 2) (fld w 17 5))
  | _ => .error .reservedMember

/-- Major opcode 0x11 (08:R211). -/
def decodeMail (w : W32) : Except Illegal Instr :=
  match w.toNat / 2 ^ 4 % 32 with
  | 0 => .ok (.putm (fld w 29 3) (fld w 19 5) (fld w 14 5) (fld w 9 5) (fld w 0 4))
  | 1 => zeros w [(18, 14), (3, 0)] (.getm (fld w 29 3) (fld w 19 5) (fld w 9 5))
  | 2 => zeros w [(18, 14), (3, 0)] (.peekm (fld w 29 3) (fld w 19 5) (fld w 9 5))
  | 3 => zeros w [(18, 14), (3, 0)] (.tstm (fld w 29 3) (fld w 19 5) (fld w 9 5))
  | 4 => zeros w [(23, 14), (3, 0)] (.clrm (fld w 29 3) (fld w 9 5))
  | _ => .error .reservedMember

/-- Major opcode 0x12 (08:R211). -/
def decodeLane (w : W32) : Except Illegal Instr :=
  match w.toNat / 2 ^ 4 % 32 with
  | 0 => .ok (.shfl (fld w 29 3) (fld w 19 5) (fld w 14 5) (fld w 9 5) (fld w 0 4))
  | 1 => .ok (.shflx (fld w 29 3) (fld w 19 5) (fld w 14 5) (fld w 9 5) (fld w 0 4))
  | 2 => .ok (.bcast (fld w 29 3) (fld w 19 5) (fld w 14 5) (fld w 9 5) (fld w 0 4))
  | 3 => zeros w [(23, 22), (18, 17), (13, 9)] (.voteAny (fld w 29 3) (fld w 19 3) (fld w 14 3) (fld w 0 4))
  | 4 => zeros w [(23, 22), (18, 17), (13, 9)] (.voteAll (fld w 29 3) (fld w 19 3) (fld w 14 3) (fld w 0 4))
  | 5 => zeros w [(18, 17), (13, 9)] (.ballot (fld w 29 3) (fld w 19 5) (fld w 14 3) (fld w 0 4))
  | 6 => zeros w [(13, 9)] (.redadd (fld w 29 3) (fld w 19 5) (fld w 14 5) (fld w 0 4))
  | 7 => zeros w [(13, 9)] (.fredadd (fld w 29 3) (fld w 19 5) (fld w 14 5) (fld w 0 4))
  | 8 => zeros w [(13, 9)] (.scanadd (fld w 29 3) (fld w 19 5) (fld w 14 5) (fld w 0 4))
  | 9 => zeros w [(18, 9)] (.laneid (fld w 29 3) (fld w 19 5) (fld w 0 4))
  | 10 => zeros w [(18, 9)] (.actmask (fld w 29 3) (fld w 19 5) (fld w 0 4))
  | _ => .error .reservedMember

/-- Major opcode 0x13 (08:R211). -/
def decodeAccw (w : W32) : Except Illegal Instr :=
  match w.toNat / 2 ^ 4 % 32 with
  | 0 => zeros w [(23, 19), (13, 9)] (.clrw (fld w 29 3) (fld w 14 5) (fld w 0 4))
  | 1 => zeros w [(23, 19)] (.addwf (fld w 29 3) (fld w 14 5) (fld w 9 5) (fld w 0 4))
  | 2 => zeros w [(23, 19)] (.addwi (fld w 29 3) (fld w 14 5) (fld w 9 5) (fld w 0 4))
  | 3 => .ok (.maddw (fld w 29 3) (fld w 19 5) (fld w 14 5) (fld w 9 5) (fld w 0 4))
  | 4 => zeros w [(23, 19)] (.addww (fld w 29 3) (fld w 14 5) (fld w 9 5) (fld w 0 4))
  | 5 => zeros w [(13, 9)] (.rndw (fld w 29 3) (fld w 19 5) (fld w 14 5) (fld w 0 4))
  | 6 => zeros w [(19, 19), (13, 9)] (.rndw2 (fld w 29 3) (fld w 20 4) (fld w 14 5) (fld w 0 4))
  | _ => .error .reservedMember

/-- Major opcode 0x14 (08:R211). -/
def decodeMx (w : W32) : Except Illegal Instr :=
  match w.toNat / 2 ^ 4 % 32 with
  | 0 => zeros w [(23, 20), (18, 18), (3, 0)] (.bload (fld w 29 3) (fld w 19 1) (fld w 14 4) (fld w 9 5))
  | 1 => zeros w [(23, 22), (13, 9), (3, 0)] (.mzero (fld w 29 3) (fld w 19 3) (fld w 14 5))
  | 2 => zeros w [(23, 22), (18, 18), (13, 10), (3, 0)] (.mma (fld w 29 3) (fld w 19 3) (fld w 14 4) (fld w 9 1))
  | 3 => zeros w [(23, 22), (18, 18), (13, 10), (3, 0)] (.mmas (fld w 29 3) (fld w 19 3) (fld w 14 4) (fld w 9 1))
  | 4 => zeros w [(23, 22), (18, 18), (13, 9), (3, 0)] (.mrd (fld w 29 3) (fld w 19 3) (fld w 14 4))
  | 5 => zeros w [(23, 22), (18, 18), (13, 9), (3, 0)] (.mwt (fld w 29 3) (fld w 19 3) (fld w 14 4))
  | 6 => zeros w [(18, 17), (13, 9), (3, 0)] (.mflag (fld w 29 3) (fld w 19 5) (fld w 14 3))
  | _ => .error .reservedMember

/-- Major opcode 0x15 (08:R211). -/
def decodeCp (w : W32) : Except Illegal Instr :=
  match w.toNat / 2 ^ 4 % 32 with
  | 0 => zeros w [(9, 9), (3, 0)] (.cpy (fld w 29 3) (fld w 19 5) (fld w 14 5) (fld w 10 4))
  | 1 => zeros w [(23, 23), (18, 18), (3, 0)] (.cpyx (fld w 29 3) (fld w 19 4) (fld w 14 4) (fld w 9 5))
  | 2 => zeros w [(3, 0)] (.cpgat (fld w 29 3) (fld w 19 5) (fld w 14 5) (fld w 9 5))
  | 3 => zeros w [(23, 19), (9, 9), (3, 0)] (.cpmeta (fld w 29 3) (fld w 14 5) (fld w 10 4))
  | 4 => zeros w [(23, 14), (3, 0)] (.cpstop (fld w 29 3) (fld w 9 5))
  | 5 => zeros w [(19, 19), (9, 9), (3, 0)] (.cprem (fld w 29 3) (fld w 20 4) (fld w 14 5) (fld w 10 4))
  | _ => .error .reservedMember

/-- Major opcode 0x16 (08:R211). -/
def decodeSf (w : W32) : Except Illegal Instr :=
  match w.toNat / 2 ^ 4 % 32 with
  | 0 => zeros w [(20, 19), (3, 0)] (.sfcall (fld w 29 3) (fld w 21 3) (fld w 14 5) (fld w 9 5))
  | 1 => zeros w [(23, 19), (3, 0)] (.gload (fld w 29 3) (fld w 14 5) (fld w 9 5))
  | 2 => zeros w [(23, 14), (3, 0)] (.gdrop (fld w 29 3) (fld w 9 5))
  | _ => .error .reservedMember

/-- Major opcode 0x17 (08:R211). -/
noncomputable def decodeMa (w : W32) : Except Illegal Instr :=
  match w.toNat / 2 ^ 4 % 32 with
  | 0 => zeros w [(23, 19), (13, 11), (3, 0)] (.dcfg (fld w 29 3) (fld w 14 5) (fld w 9 2))
  | 1 => zeros w [(23, 19), (13, 9), (3, 0)] (.dpatch (fld w 29 3) (fld w 14 5))
  | 2 => zeros w [(23, 19)] (.dsety (fld w 29 3) (fld w 14 5) (fld w 9 5) (fld w 0 4))
  | 3 => zeros w [(23, 19)] (.dsetr (fld w 29 3) (fld w 14 5) (fld w 9 5) (fld w 0 4))
  | 4 => zeros w [(23, 19), (13, 9), (3, 0)] (.dsave (fld w 29 3) (fld w 14 5))
  | 5 => zeros w [(23, 19), (13, 9), (3, 0)] (.drest (fld w 29 3) (fld w 14 5))
  | 6 => zeros w [(23, 19), (13, 11), (3, 0)] (.dstep (fld w 29 3) (fld w 14 5) (fld w 9 2))
  | 7 => zeros w [(23, 13), (3, 0)] (.dstop (fld w 29 3) (fld w 9 4))
  | 8 => zeros w [(23, 19), (13, 10)] (.dinj (fld w 29 3) (fld w 14 5) (fld w 9 1) (fld w 0 4))
  | 9 => zeros w [(13, 10)] (.drdo (fld w 29 3) (fld w 19 5) (fld w 14 5) (fld w 9 1) (fld w 0 4))
  | 10 => zeros w [(13, 9)] (.drdy (fld w 29 3) (fld w 19 5) (fld w 14 5) (fld w 0 4))
  | _ => .error .reservedMember

/-- Major opcode 0x18 (08:R211). -/
noncomputable def decodeEng (w : W32) : Except Illegal Instr :=
  match w.toNat / 2 ^ 4 % 32 with
  | 0 => zeros w [(19, 11), (3, 0)] (.epop (fld w 29 3) (fld w 20 4) (fld w 9 2))
  | 1 => zeros w [(18, 11), (3, 0)] (.epeek (fld w 29 3) (fld w 19 5) (fld w 9 2))
  | 2 => zeros w [(23, 20), (18, 16), (3, 0)] (.sbwait (fld w 29 3) (fld w 19 1 ++ fld w 9 5 : BitVec 6) (fld w 14 2))
  | 3 => zeros w [(18, 16), (13, 9), (3, 0)] (.sbrd (fld w 29 3) (fld w 19 5) (fld w 14 2))
  | _ => .error .reservedMember

/-- Major opcode 0x19 (08:R211). -/
noncomputable def decodeRepf (w : W32) : Except Illegal Instr :=
  zeros w [(4, 0)] (.repf (fld w 29 3) (fld w 20 4) (fld w 14 6) (fld w 11 3) (fld w 8 3) (fld w 5 3))

/-- Major opcode 0x1a (08:R211). -/
noncomputable def decodeCsr (w : W32) : Except Illegal Instr :=
  match w.toNat / 2 ^ 12 % 4 with
  | 0 => zeros w [(18, 14)] (.csrr (fld w 29 3) (fld w 19 5) (fld w 0 12))
  | 1 => zeros w [(23, 19)] (.csrw (fld w 29 3) (fld w 14 5) (fld w 0 12))
  | 2 => zeros w [(23, 19)] (.csrs (fld w 29 3) (fld w 14 5) (fld w 0 12))
  | 3 => zeros w [(23, 19)] (.csrc (fld w 29 3) (fld w 14 5) (fld w 0 12))
  | _ => .error .reservedMember

/-- Major opcode 0x1b (08:R211). -/
noncomputable def decodeStrm (w : W32) : Except Illegal Instr :=
  match w.toNat / 2 ^ 4 % 32 with
  | 0 => zeros w [(13, 9), (3, 0)] (.sopen (fld w 29 3) (fld w 19 5) (fld w 14 5))
  | 1 => zeros w [(18, 11), (3, 0)] (.sput (fld w 29 3) (fld w 19 5) (fld w 9 2))
  | 2 => zeros w [(18, 14), (3, 0)] (.sget (fld w 29 3) (fld w 19 5) (fld w 11 3) (fld w 9 2))
  | 3 => zeros w [(18, 11), (3, 0)] (.sclose (fld w 29 3) (fld w 19 5) (fld w 9 2))
  | _ => .error .reservedMember

/-- The instruction that the fields of a word spell, by its major opcode (08:R211). -/
noncomputable def decodeForm (w : W32) : Except Illegal Instr :=
  match w.toNat / 2 ^ 24 % 32 with
  | 0 => decodeSys w
  | 1 => decodeIalu w
  | 2 => decodeIalu32 w
  | 3 => decodeIalui w
  | 4 => decodeMovw w
  | 5 => decodeImul w
  | 6 => decodeCmp w
  | 7 => decodeFp w
  | 8 => decodeFcvt w
  | 9 => decodeLd w
  | 10 => decodeSt w
  | 11 => decodeNatom w
  | 12 => decodeFatom w
  | 13 => decodeSync w
  | 14 => decodeBr w
  | 15 => decodeXfer w
  | 16 => decodeLoop w
  | 17 => decodeMail w
  | 18 => decodeLane w
  | 19 => decodeAccw w
  | 20 => decodeMx w
  | 21 => decodeCp w
  | 22 => decodeSf w
  | 23 => decodeMa w
  | 24 => decodeEng w
  | 25 => decodeRepf w
  | 26 => decodeCsr w
  | 27 => decodeStrm w
  | _ => .error .reservedMajor

/-- One word: its fields, then the checks of well-formedness. -/
noncomputable def decodeWord (w : W32) : Except Illegal Instr :=
  match decodeForm w with
  | .error r => .error r
  | .ok i =>
    match i.ill with
    | some r => .error r
    | none => .ok i

/-- The word that four little-endian bytes hold (00:R4). -/
def wordOfBytes (b0 b1 b2 b3 : Byte) : W32 :=
  BitVec.ofNat 32 (b0.toNat + b1.toNat * 2 ^ 8 + b2.toNat * 2 ^ 16 + b3.toNat * 2 ^ 24)

/-- The four bytes of a word, the lowest address first (00:R4). -/
def bytesOfWord (w : W32) : List Byte := [fld w 0 8, fld w 8 8, fld w 16 8, fld w 24 8]

/-- Decode the instruction at the head of a list of bytes and give the bytes after it. -/
noncomputable def decode : List Byte → Except Illegal (Instr × List Byte)
  | b0 :: b1 :: b2 :: b3 :: rest =>
    match decodeWord (wordOfBytes b0 b1 b2 b3) with
    | .ok i => .ok (i, rest)
    | .error r => .error r
  | _ => .error .shortWord

/-- A word from the fixed bits of its row and its fields, each with the place of its lowest bit. -/
def packWord (fixed : Nat) : List (Nat × Nat) → Nat
  | [] => fixed
  | (v, lo) :: rest => v * 2 ^ lo + packWord fixed rest

/-- The word of an instruction (08:R205 and the encoding tables); an event has none. -/
def encodeNat : Instr → Option Nat
  | .nop s => some (packWord 0x00000000 [(s.toNat, 29)])
  | .end_ s g => some (packWord 0x00000010 [(s.toNat, 29), (g.toNat, 0)])
  | .yield s => some (packWord 0x00000020 [(s.toNat, 29)])
  | .chunk s => some (packWord 0x00000030 [(s.toNat, 29)])
  | .brk s => some (packWord 0x00000040 [(s.toNat, 29)])
  | .trap s c g => some (packWord 0x00000050 [(s.toNat, 29), (c.toNat, 9), (g.toNat, 0)])
  | .eret s => some (packWord 0x00000060 [(s.toNat, 29)])
  | .join s => some (packWord 0x00000070 [(s.toNat, 29)])
  | .ret s => some (packWord 0x00000080 [(s.toNat, 29)])
  | .tlbinv s a => some (packWord 0x00000090 [(s.toNat, 29), (a.toNat, 14)])
  | .add s d a b g => some (packWord 0x01000000 [(s.toNat, 29), (d.toNat, 19), (a.toNat, 14), (b.toNat, 9), (g.toNat, 0)])
  | .sub s d a b g => some (packWord 0x01000010 [(s.toNat, 29), (d.toNat, 19), (a.toNat, 14), (b.toNat, 9), (g.toNat, 0)])
  | .and s d a b g => some (packWord 0x01000020 [(s.toNat, 29), (d.toNat, 19), (a.toNat, 14), (b.toNat, 9), (g.toNat, 0)])
  | .or s d a b g => some (packWord 0x01000030 [(s.toNat, 29), (d.toNat, 19), (a.toNat, 14), (b.toNat, 9), (g.toNat, 0)])
  | .xor s d a b g => some (packWord 0x01000040 [(s.toNat, 29), (d.toNat, 19), (a.toNat, 14), (b.toNat, 9), (g.toNat, 0)])
  | .andn s d a b g => some (packWord 0x01000050 [(s.toNat, 29), (d.toNat, 19), (a.toNat, 14), (b.toNat, 9), (g.toNat, 0)])
  | .shl s d a b g => some (packWord 0x01000060 [(s.toNat, 29), (d.toNat, 19), (a.toNat, 14), (b.toNat, 9), (g.toNat, 0)])
  | .shr s d a b g => some (packWord 0x01000070 [(s.toNat, 29), (d.toNat, 19), (a.toNat, 14), (b.toNat, 9), (g.toNat, 0)])
  | .sar s d a b g => some (packWord 0x01000080 [(s.toNat, 29), (d.toNat, 19), (a.toNat, 14), (b.toNat, 9), (g.toNat, 0)])
  | .rol s d a b g => some (packWord 0x01000090 [(s.toNat, 29), (d.toNat, 19), (a.toNat, 14), (b.toNat, 9), (g.toNat, 0)])
  | .min s d a b g => some (packWord 0x010000a0 [(s.toNat, 29), (d.toNat, 19), (a.toNat, 14), (b.toNat, 9), (g.toNat, 0)])
  | .max s d a b g => some (packWord 0x010000b0 [(s.toNat, 29), (d.toNat, 19), (a.toNat, 14), (b.toNat, 9), (g.toNat, 0)])
  | .minu s d a b g => some (packWord 0x010000c0 [(s.toNat, 29), (d.toNat, 19), (a.toNat, 14), (b.toNat, 9), (g.toNat, 0)])
  | .maxu s d a b g => some (packWord 0x010000d0 [(s.toNat, 29), (d.toNat, 19), (a.toNat, 14), (b.toNat, 9), (g.toNat, 0)])
  | .adds s d a b g => some (packWord 0x010000e0 [(s.toNat, 29), (d.toNat, 19), (a.toNat, 14), (b.toNat, 9), (g.toNat, 0)])
  | .subs s d a b g => some (packWord 0x010000f0 [(s.toNat, 29), (d.toNat, 19), (a.toNat, 14), (b.toNat, 9), (g.toNat, 0)])
  | .neg s d a g => some (packWord 0x01000100 [(s.toNat, 29), (d.toNat, 19), (a.toNat, 14), (g.toNat, 0)])
  | .abs s d a g => some (packWord 0x01000110 [(s.toNat, 29), (d.toNat, 19), (a.toNat, 14), (g.toNat, 0)])
  | .clz s d a g => some (packWord 0x01000120 [(s.toNat, 29), (d.toNat, 19), (a.toNat, 14), (g.toNat, 0)])
  | .ctz s d a g => some (packWord 0x01000130 [(s.toNat, 29), (d.toNat, 19), (a.toNat, 14), (g.toNat, 0)])
  | .popc s d a g => some (packWord 0x01000140 [(s.toNat, 29), (d.toNat, 19), (a.toNat, 14), (g.toNat, 0)])
  | .sext8 s d a g => some (packWord 0x01000150 [(s.toNat, 29), (d.toNat, 19), (a.toNat, 14), (g.toNat, 0)])
  | .sext16 s d a g => some (packWord 0x01000160 [(s.toNat, 29), (d.toNat, 19), (a.toNat, 14), (g.toNat, 0)])
  | .sext32 s d a g => some (packWord 0x01000170 [(s.toNat, 29), (d.toNat, 19), (a.toNat, 14), (g.toNat, 0)])
  | .zext32 s d a g => some (packWord 0x01000180 [(s.toNat, 29), (d.toNat, 19), (a.toNat, 14), (g.toNat, 0)])
  | .brev s d a g => some (packWord 0x01000190 [(s.toNat, 29), (d.toNat, 19), (a.toNat, 14), (g.toNat, 0)])
  | .mov s d a g => some (packWord 0x010001a0 [(s.toNat, 29), (d.toNat, 19), (a.toNat, 14), (g.toNat, 0)])
  | .sel s d a b g => some (packWord 0x010001b0 [(s.toNat, 29), (d.toNat, 19), (a.toNat, 14), (b.toNat, 9), (g.toNat, 0)])
  | .add32 s d a b g => some (packWord 0x02000000 [(s.toNat, 29), (d.toNat, 19), (a.toNat, 14), (b.toNat, 9), (g.toNat, 0)])
  | .sub32 s d a b g => some (packWord 0x02000010 [(s.toNat, 29), (d.toNat, 19), (a.toNat, 14), (b.toNat, 9), (g.toNat, 0)])
  | .and32 s d a b g => some (packWord 0x02000020 [(s.toNat, 29), (d.toNat, 19), (a.toNat, 14), (b.toNat, 9), (g.toNat, 0)])
  | .or32 s d a b g => some (packWord 0x02000030 [(s.toNat, 29), (d.toNat, 19), (a.toNat, 14), (b.toNat, 9), (g.toNat, 0)])
  | .xor32 s d a b g => some (packWord 0x02000040 [(s.toNat, 29), (d.toNat, 19), (a.toNat, 14), (b.toNat, 9), (g.toNat, 0)])
  | .andn32 s d a b g => some (packWord 0x02000050 [(s.toNat, 29), (d.toNat, 19), (a.toNat, 14), (b.toNat, 9), (g.toNat, 0)])
  | .shl32 s d a b g => some (packWord 0x02000060 [(s.toNat, 29), (d.toNat, 19), (a.toNat, 14), (b.toNat, 9), (g.toNat, 0)])
  | .shr32 s d a b g => some (packWord 0x02000070 [(s.toNat, 29), (d.toNat, 19), (a.toNat, 14), (b.toNat, 9), (g.toNat, 0)])
  | .sar32 s d a b g => some (packWord 0x02000080 [(s.toNat, 29), (d.toNat, 19), (a.toNat, 14), (b.toNat, 9), (g.toNat, 0)])
  | .rol32 s d a b g => some (packWord 0x02000090 [(s.toNat, 29), (d.toNat, 19), (a.toNat, 14), (b.toNat, 9), (g.toNat, 0)])
  | .min32 s d a b g => some (packWord 0x020000a0 [(s.toNat, 29), (d.toNat, 19), (a.toNat, 14), (b.toNat, 9), (g.toNat, 0)])
  | .max32 s d a b g => some (packWord 0x020000b0 [(s.toNat, 29), (d.toNat, 19), (a.toNat, 14), (b.toNat, 9), (g.toNat, 0)])
  | .minu32 s d a b g => some (packWord 0x020000c0 [(s.toNat, 29), (d.toNat, 19), (a.toNat, 14), (b.toNat, 9), (g.toNat, 0)])
  | .maxu32 s d a b g => some (packWord 0x020000d0 [(s.toNat, 29), (d.toNat, 19), (a.toNat, 14), (b.toNat, 9), (g.toNat, 0)])
  | .adds32 s d a b g => some (packWord 0x020000e0 [(s.toNat, 29), (d.toNat, 19), (a.toNat, 14), (b.toNat, 9), (g.toNat, 0)])
  | .subs32 s d a b g => some (packWord 0x020000f0 [(s.toNat, 29), (d.toNat, 19), (a.toNat, 14), (b.toNat, 9), (g.toNat, 0)])
  | .neg32 s d a g => some (packWord 0x02000100 [(s.toNat, 29), (d.toNat, 19), (a.toNat, 14), (g.toNat, 0)])
  | .abs32 s d a g => some (packWord 0x02000110 [(s.toNat, 29), (d.toNat, 19), (a.toNat, 14), (g.toNat, 0)])
  | .clz32 s d a g => some (packWord 0x02000120 [(s.toNat, 29), (d.toNat, 19), (a.toNat, 14), (g.toNat, 0)])
  | .ctz32 s d a g => some (packWord 0x02000130 [(s.toNat, 29), (d.toNat, 19), (a.toNat, 14), (g.toNat, 0)])
  | .popc32 s d a g => some (packWord 0x02000140 [(s.toNat, 29), (d.toNat, 19), (a.toNat, 14), (g.toNat, 0)])
  | .brev32 s d a g => some (packWord 0x02000190 [(s.toNat, 29), (d.toNat, 19), (a.toNat, 14), (g.toNat, 0)])
  | .mov32 s d a g => some (packWord 0x020001a0 [(s.toNat, 29), (d.toNat, 19), (a.toNat, 14), (g.toNat, 0)])
  | .sel32 s d a b g => some (packWord 0x020001b0 [(s.toNat, 29), (d.toNat, 19), (a.toNat, 14), (b.toNat, 9), (g.toNat, 0)])
  | .addi s d a i => some (packWord 0x03000000 [(s.toNat, 29), (d.toNat, 19), (a.toNat, 14), (i.toNat, 0)])
  | .andi s d a i => some (packWord 0x03000800 [(s.toNat, 29), (d.toNat, 19), (a.toNat, 14), (i.toNat, 0)])
  | .ori s d a i => some (packWord 0x03001000 [(s.toNat, 29), (d.toNat, 19), (a.toNat, 14), (i.toNat, 0)])
  | .xori s d a i => some (packWord 0x03001800 [(s.toNat, 29), (d.toNat, 19), (a.toNat, 14), (i.toNat, 0)])
  | .shli s d a i => some (packWord 0x03002000 [(s.toNat, 29), (d.toNat, 19), (a.toNat, 14), (i.toNat, 0)])
  | .shri s d a i => some (packWord 0x03002800 [(s.toNat, 29), (d.toNat, 19), (a.toNat, 14), (i.toNat, 0)])
  | .sari s d a i => some (packWord 0x03003000 [(s.toNat, 29), (d.toNat, 19), (a.toNat, 14), (i.toNat, 0)])
  | .slti s d a i => some (packWord 0x03003800 [(s.toNat, 29), (d.toNat, 19), (a.toNat, 14), (i.toNat, 0)])
  | .movz s d p i => some (packWord 0x04000000 [(s.toNat, 29), (d.toNat, 19), (p.toNat, 16), (i.toNat, 0)])
  | .movk s d p i => some (packWord 0x04040000 [(s.toNat, 29), (d.toNat, 19), (p.toNat, 16), (i.toNat, 0)])
  | .mul s d a b g => some (packWord 0x05000000 [(s.toNat, 29), (d.toNat, 19), (a.toNat, 14), (b.toNat, 9), (g.toNat, 0)])
  | .mulh s d a b g => some (packWord 0x05000010 [(s.toNat, 29), (d.toNat, 19), (a.toNat, 14), (b.toNat, 9), (g.toNat, 0)])
  | .mulhu s d a b g => some (packWord 0x05000020 [(s.toNat, 29), (d.toNat, 19), (a.toNat, 14), (b.toNat, 9), (g.toNat, 0)])
  | .div s d a b g => some (packWord 0x05000030 [(s.toNat, 29), (d.toNat, 19), (a.toNat, 14), (b.toNat, 9), (g.toNat, 0)])
  | .divu s d a b g => some (packWord 0x05000040 [(s.toNat, 29), (d.toNat, 19), (a.toNat, 14), (b.toNat, 9), (g.toNat, 0)])
  | .rem s d a b g => some (packWord 0x05000050 [(s.toNat, 29), (d.toNat, 19), (a.toNat, 14), (b.toNat, 9), (g.toNat, 0)])
  | .remu s d a b g => some (packWord 0x05000060 [(s.toNat, 29), (d.toNat, 19), (a.toNat, 14), (b.toNat, 9), (g.toNat, 0)])
  | .mul32 s d a b g => some (packWord 0x05000070 [(s.toNat, 29), (d.toNat, 19), (a.toNat, 14), (b.toNat, 9), (g.toNat, 0)])
  | .div32 s d a b g => some (packWord 0x05000080 [(s.toNat, 29), (d.toNat, 19), (a.toNat, 14), (b.toNat, 9), (g.toNat, 0)])
  | .divu32 s d a b g => some (packWord 0x05000090 [(s.toNat, 29), (d.toNat, 19), (a.toNat, 14), (b.toNat, 9), (g.toNat, 0)])
  | .rem32 s d a b g => some (packWord 0x050000a0 [(s.toNat, 29), (d.toNat, 19), (a.toNat, 14), (b.toNat, 9), (g.toNat, 0)])
  | .remu32 s d a b g => some (packWord 0x050000b0 [(s.toNat, 29), (d.toNat, 19), (a.toNat, 14), (b.toNat, 9), (g.toNat, 0)])
  | .mulw s d a b g => some (packWord 0x050000c0 [(s.toNat, 29), (d.toNat, 19), (a.toNat, 14), (b.toNat, 9), (g.toNat, 0)])
  | .mulwu s d a b g => some (packWord 0x050000d0 [(s.toNat, 29), (d.toNat, 19), (a.toNat, 14), (b.toNat, 9), (g.toNat, 0)])
  | .cmpEq s d a b g => some (packWord 0x06000000 [(s.toNat, 29), (d.toNat, 19), (a.toNat, 14), (b.toNat, 9), (g.toNat, 0)])
  | .cmpNe s d a b g => some (packWord 0x06000010 [(s.toNat, 29), (d.toNat, 19), (a.toNat, 14), (b.toNat, 9), (g.toNat, 0)])
  | .cmpLt s d a b g => some (packWord 0x06000020 [(s.toNat, 29), (d.toNat, 19), (a.toNat, 14), (b.toNat, 9), (g.toNat, 0)])
  | .cmpLe s d a b g => some (packWord 0x06000030 [(s.toNat, 29), (d.toNat, 19), (a.toNat, 14), (b.toNat, 9), (g.toNat, 0)])
  | .cmpLtu s d a b g => some (packWord 0x06000040 [(s.toNat, 29), (d.toNat, 19), (a.toNat, 14), (b.toNat, 9), (g.toNat, 0)])
  | .cmpLeu s d a b g => some (packWord 0x06000050 [(s.toNat, 29), (d.toNat, 19), (a.toNat, 14), (b.toNat, 9), (g.toNat, 0)])
  | .fcmpEq s d a b g => some (packWord 0x06000060 [(s.toNat, 29), (d.toNat, 19), (a.toNat, 14), (b.toNat, 9), (g.toNat, 0)])
  | .fcmpLt s d a b g => some (packWord 0x06000070 [(s.toNat, 29), (d.toNat, 19), (a.toNat, 14), (b.toNat, 9), (g.toNat, 0)])
  | .fcmpLe s d a b g => some (packWord 0x06000080 [(s.toNat, 29), (d.toNat, 19), (a.toNat, 14), (b.toNat, 9), (g.toNat, 0)])
  | .fcmpUn s d a b g => some (packWord 0x06000090 [(s.toNat, 29), (d.toNat, 19), (a.toNat, 14), (b.toNat, 9), (g.toNat, 0)])
  | .pand s d a b g => some (packWord 0x060000a0 [(s.toNat, 29), (d.toNat, 19), (a.toNat, 14), (b.toNat, 9), (g.toNat, 0)])
  | .por s d a b g => some (packWord 0x060000b0 [(s.toNat, 29), (d.toNat, 19), (a.toNat, 14), (b.toNat, 9), (g.toNat, 0)])
  | .pxor s d a b g => some (packWord 0x060000c0 [(s.toNat, 29), (d.toNat, 19), (a.toNat, 14), (b.toNat, 9), (g.toNat, 0)])
  | .pandn s d a b g => some (packWord 0x060000d0 [(s.toNat, 29), (d.toNat, 19), (a.toNat, 14), (b.toNat, 9), (g.toNat, 0)])
  | .fadd s d a b g => some (packWord 0x07000000 [(s.toNat, 29), (d.toNat, 19), (a.toNat, 14), (b.toNat, 9), (g.toNat, 0)])
  | .fsub s d a b g => some (packWord 0x07000010 [(s.toNat, 29), (d.toNat, 19), (a.toNat, 14), (b.toNat, 9), (g.toNat, 0)])
  | .fmul s d a b g => some (packWord 0x07000020 [(s.toNat, 29), (d.toNat, 19), (a.toNat, 14), (b.toNat, 9), (g.toNat, 0)])
  | .fma s d a b g => some (packWord 0x07000030 [(s.toNat, 29), (d.toNat, 19), (a.toNat, 14), (b.toNat, 9), (g.toNat, 0)])
  | .fms s d a b g => some (packWord 0x07000040 [(s.toNat, 29), (d.toNat, 19), (a.toNat, 14), (b.toNat, 9), (g.toNat, 0)])
  | .fnma s d a b g => some (packWord 0x07000050 [(s.toNat, 29), (d.toNat, 19), (a.toNat, 14), (b.toNat, 9), (g.toNat, 0)])
  | .fmin s d a b g => some (packWord 0x07000060 [(s.toNat, 29), (d.toNat, 19), (a.toNat, 14), (b.toNat, 9), (g.toNat, 0)])
  | .fmax s d a b g => some (packWord 0x07000070 [(s.toNat, 29), (d.toNat, 19), (a.toNat, 14), (b.toNat, 9), (g.toNat, 0)])
  | .fabs s d a g => some (packWord 0x07000080 [(s.toNat, 29), (d.toNat, 19), (a.toNat, 14), (g.toNat, 0)])
  | .fneg s d a g => some (packWord 0x07000090 [(s.toNat, 29), (d.toNat, 19), (a.toNat, 14), (g.toNat, 0)])
  | .fdiv s d a b g => some (packWord 0x070000a0 [(s.toNat, 29), (d.toNat, 19), (a.toNat, 14), (b.toNat, 9), (g.toNat, 0)])
  | .fsqrt s d a g => some (packWord 0x070000b0 [(s.toNat, 29), (d.toNat, 19), (a.toNat, 14), (g.toNat, 0)])
  | .frcp s d a g => some (packWord 0x070000c0 [(s.toNat, 29), (d.toNat, 19), (a.toNat, 14), (g.toNat, 0)])
  | .frsq s d a g => some (packWord 0x070000d0 [(s.toNat, 29), (d.toNat, 19), (a.toNat, 14), (g.toNat, 0)])
  | .fexp2 s d a g => some (packWord 0x070000e0 [(s.toNat, 29), (d.toNat, 19), (a.toNat, 14), (g.toNat, 0)])
  | .flog2 s d a g => some (packWord 0x070000f0 [(s.toNat, 29), (d.toNat, 19), (a.toNat, 14), (g.toNat, 0)])
  | .fsinpi s d a g => some (packWord 0x07000100 [(s.toNat, 29), (d.toNat, 19), (a.toNat, 14), (g.toNat, 0)])
  | .fcospi s d a g => some (packWord 0x07000110 [(s.toNat, 29), (d.toNat, 19), (a.toNat, 14), (g.toNat, 0)])
  | .fcpys s d a b g => some (packWord 0x07000120 [(s.toNat, 29), (d.toNat, 19), (a.toNat, 14), (b.toNat, 9), (g.toNat, 0)])
  | .fclass s d a g => some (packWord 0x07000130 [(s.toNat, 29), (d.toNat, 19), (a.toNat, 14), (g.toNat, 0)])
  | .cvtF32Bf16 s d a g => some (packWord 0x08000000 [(s.toNat, 29), (d.toNat, 19), (a.toNat, 14), (g.toNat, 0)])
  | .cvtBf16F32 s d a t g => some (packWord 0x08000010 [(s.toNat, 29), (d.toNat, 19), (a.toNat, 14), (t.toNat, 13), (g.toNat, 0)])
  | .cvtF32F16 s d a g => some (packWord 0x08000020 [(s.toNat, 29), (d.toNat, 19), (a.toNat, 14), (g.toNat, 0)])
  | .cvtF16F32 s d a t g => some (packWord 0x08000030 [(s.toNat, 29), (d.toNat, 19), (a.toNat, 14), (t.toNat, 13), (g.toNat, 0)])
  | .cvtF32E4m3 s d a g => some (packWord 0x08000040 [(s.toNat, 29), (d.toNat, 19), (a.toNat, 14), (g.toNat, 0)])
  | .cvtE4m3F32 s d a t g => some (packWord 0x08000050 [(s.toNat, 29), (d.toNat, 19), (a.toNat, 14), (t.toNat, 13), (g.toNat, 0)])
  | .cvtF32E5m2 s d a g => some (packWord 0x08000060 [(s.toNat, 29), (d.toNat, 19), (a.toNat, 14), (g.toNat, 0)])
  | .cvtE5m2F32 s d a t g => some (packWord 0x08000070 [(s.toNat, 29), (d.toNat, 19), (a.toNat, 14), (t.toNat, 13), (g.toNat, 0)])
  | .cvtF32I32 s d a g => some (packWord 0x08000080 [(s.toNat, 29), (d.toNat, 19), (a.toNat, 14), (g.toNat, 0)])
  | .cvtI32F32 s d a g => some (packWord 0x08000090 [(s.toNat, 29), (d.toNat, 19), (a.toNat, 14), (g.toNat, 0)])
  | .cvtF32I64 s d a g => some (packWord 0x080000a0 [(s.toNat, 29), (d.toNat, 19), (a.toNat, 14), (g.toNat, 0)])
  | .cvtI64F32 s d a g => some (packWord 0x080000b0 [(s.toNat, 29), (d.toNat, 19), (a.toNat, 14), (g.toNat, 0)])
  | .cvtF32U32 s d a g => some (packWord 0x080000c0 [(s.toNat, 29), (d.toNat, 19), (a.toNat, 14), (g.toNat, 0)])
  | .cvtU32F32 s d a g => some (packWord 0x080000d0 [(s.toNat, 29), (d.toNat, 19), (a.toNat, 14), (g.toNat, 0)])
  | .packBf16 s d a t g => some (packWord 0x080000e0 [(s.toNat, 29), (d.toNat, 19), (a.toNat, 14), (t.toNat, 13), (g.toNat, 0)])
  | .packE4m3 s d a t g => some (packWord 0x080000f0 [(s.toNat, 29), (d.toNat, 19), (a.toNat, 14), (t.toNat, 13), (g.toNat, 0)])
  | .ld s d a o z c => some (packWord 0x09000000 [(s.toNat, 29), (d.toNat, 19), (a.toNat, 14), (o.toNat, 6), (z.toNat, 4), (c.toNat, 2)])
  | .ldSx s d a o z c => some (packWord 0x09000001 [(s.toNat, 29), (d.toNat, 19), (a.toNat, 14), (o.toNat, 6), (z.toNat, 4), (c.toNat, 2)])
  | .ldNa s d a o z c => some (packWord 0x09000002 [(s.toNat, 29), (d.toNat, 19), (a.toNat, 14), (o.toNat, 6), (z.toNat, 4), (c.toNat, 2)])
  | .ldDesc s d x o z c => some (packWord 0x09000003 [(s.toNat, 29), (d.toNat, 19), (x.toNat, 14), (o.toNat, 6), (z.toNat, 4), (c.toNat, 2)])
  | .st s d a o z => some (packWord 0x0a000000 [(s.toNat, 29), (d.toNat, 19), (a.toNat, 14), (o.toNat, 6), (z.toNat, 4)])
  | .stNa s d a o z => some (packWord 0x0a000001 [(s.toNat, 29), (d.toNat, 19), (a.toNat, 14), (o.toNat, 6), (z.toNat, 4)])
  | .stDesc s d x o z => some (packWord 0x0a000002 [(s.toNat, 29), (d.toNat, 19), (x.toNat, 14), (o.toNat, 6), (z.toNat, 4)])
  | .natomAdd s d a b z => some (packWord 0x0b000000 [(s.toNat, 29), (d.toNat, 19), (a.toNat, 14), (b.toNat, 9), (z.toNat, 0)])
  | .natomAnd s d a b z => some (packWord 0x0b000004 [(s.toNat, 29), (d.toNat, 19), (a.toNat, 14), (b.toNat, 9), (z.toNat, 0)])
  | .natomOr s d a b z => some (packWord 0x0b000008 [(s.toNat, 29), (d.toNat, 19), (a.toNat, 14), (b.toNat, 9), (z.toNat, 0)])
  | .natomXor s d a b z => some (packWord 0x0b00000c [(s.toNat, 29), (d.toNat, 19), (a.toNat, 14), (b.toNat, 9), (z.toNat, 0)])
  | .natomSmin s d a b z => some (packWord 0x0b000010 [(s.toNat, 29), (d.toNat, 19), (a.toNat, 14), (b.toNat, 9), (z.toNat, 0)])
  | .natomSmax s d a b z => some (packWord 0x0b000014 [(s.toNat, 29), (d.toNat, 19), (a.toNat, 14), (b.toNat, 9), (z.toNat, 0)])
  | .natomUmin s d a b z => some (packWord 0x0b000018 [(s.toNat, 29), (d.toNat, 19), (a.toNat, 14), (b.toNat, 9), (z.toNat, 0)])
  | .natomUmax s d a b z => some (packWord 0x0b00001c [(s.toNat, 29), (d.toNat, 19), (a.toNat, 14), (b.toNat, 9), (z.toNat, 0)])
  | .natomSwap s d a b z => some (packWord 0x0b000020 [(s.toNat, 29), (d.toNat, 19), (a.toNat, 14), (b.toNat, 9), (z.toNat, 0)])
  | .natomCas s d a b z => some (packWord 0x0b000024 [(s.toNat, 29), (d.toNat, 19), (a.toNat, 14), (b.toNat, 9), (z.toNat, 0)])
  | .natomFadd s d a b z => some (packWord 0x0b000028 [(s.toNat, 29), (d.toNat, 19), (a.toNat, 14), (b.toNat, 9), (z.toNat, 0)])
  | .fatomAdd s d a b u z => some (packWord 0x0c000000 [(s.toNat, 29), (d.toNat, 19), (a.toNat, 14), (b.toNat, 9), (u.toNat, 6), (z.toNat, 0)])
  | .fatomAnd s d a b u z => some (packWord 0x0c000004 [(s.toNat, 29), (d.toNat, 19), (a.toNat, 14), (b.toNat, 9), (u.toNat, 6), (z.toNat, 0)])
  | .fatomOr s d a b u z => some (packWord 0x0c000008 [(s.toNat, 29), (d.toNat, 19), (a.toNat, 14), (b.toNat, 9), (u.toNat, 6), (z.toNat, 0)])
  | .fatomXor s d a b u z => some (packWord 0x0c00000c [(s.toNat, 29), (d.toNat, 19), (a.toNat, 14), (b.toNat, 9), (u.toNat, 6), (z.toNat, 0)])
  | .fatomSmin s d a b u z => some (packWord 0x0c000010 [(s.toNat, 29), (d.toNat, 19), (a.toNat, 14), (b.toNat, 9), (u.toNat, 6), (z.toNat, 0)])
  | .fatomSmax s d a b u z => some (packWord 0x0c000014 [(s.toNat, 29), (d.toNat, 19), (a.toNat, 14), (b.toNat, 9), (u.toNat, 6), (z.toNat, 0)])
  | .fatomUmin s d a b u z => some (packWord 0x0c000018 [(s.toNat, 29), (d.toNat, 19), (a.toNat, 14), (b.toNat, 9), (u.toNat, 6), (z.toNat, 0)])
  | .fatomUmax s d a b u z => some (packWord 0x0c00001c [(s.toNat, 29), (d.toNat, 19), (a.toNat, 14), (b.toNat, 9), (u.toNat, 6), (z.toNat, 0)])
  | .fatomSwap s d a b u z => some (packWord 0x0c000020 [(s.toNat, 29), (d.toNat, 19), (a.toNat, 14), (b.toNat, 9), (u.toNat, 6), (z.toNat, 0)])
  | .fatomCas s d a b u z => some (packWord 0x0c000024 [(s.toNat, 29), (d.toNat, 19), (a.toNat, 14), (b.toNat, 9), (u.toNat, 6), (z.toNat, 0)])
  | .fatomFadd s d a b u z => some (packWord 0x0c000028 [(s.toNat, 29), (d.toNat, 19), (a.toNat, 14), (b.toNat, 9), (u.toNat, 6), (z.toNat, 0)])
  | .fatomLoad s d a u z => some (packWord 0x0c00002c [(s.toNat, 29), (d.toNat, 19), (a.toNat, 14), (u.toNat, 6), (z.toNat, 0)])
  | .fatomStore s a b u z => some (packWord 0x0c000030 [(s.toNat, 29), (a.toNat, 14), (b.toNat, 9), (u.toNat, 6), (z.toNat, 0)])
  | .fence s c => some (packWord 0x0d000000 [(s.toNat, 29), (c.toNat, 9)])
  | .barj s k c => some (packWord 0x0d000010 [(s.toNat, 29), (k.toNat, 14), (c.toNat, 9)])
  | .barl s k c => some (packWord 0x0d000020 [(s.toNat, 29), (k.toNat, 14), (c.toNat, 9)])
  | .bara s d k c => some (packWord 0x0d000030 [(s.toNat, 29), (d.toNat, 19), (k.toNat, 14), (c.toNat, 9)])
  | .barw s d k c => some (packWord 0x0d000040 [(s.toNat, 29), (d.toNat, 19), (k.toNat, 14), (c.toNat, 9)])
  | .baraw s d k c => some (packWord 0x0d000050 [(s.toNat, 29), (d.toNat, 19), (k.toNat, 14), (c.toNat, 9)])
  | .barm s d k j => some (packWord 0x0d000060 [(s.toNat, 29), (d.toNat, 19), (k.toNat, 14), (j.toNat, 9)])
  | .itinit s d k c => some (packWord 0x0d000070 [(s.toNat, 29), (d.toNat, 20), (k.toNat, 14), (c.toNat, 9)])
  | .getchunk s d k c => some (packWord 0x0d000080 [(s.toNat, 29), (d.toNat, 20), (k.toNat, 14), (c.toNat, 9)])
  | .twaitf s a c => some (packWord 0x0d000090 [(s.toNat, 29), (a.toNat, 14), (c.toNat, 9)])
  | .twaite s a c => some (packWord 0x0d0000a0 [(s.toNat, 29), (a.toNat, 14), (c.toNat, 9)])
  | .tsetf s a c => some (packWord 0x0d0000b0 [(s.toNat, 29), (a.toNat, 14), (c.toNat, 9)])
  | .tsete s a c => some (packWord 0x0d0000c0 [(s.toNat, 29), (a.toNat, 14), (c.toNat, 9)])
  | .br s g o => some (packWord 0x0e000000 [(s.toNat, 29), (g.toNat, 20), (o.toNat, 0)])
  | .bru s g o => some (packWord 0x0e040000 [(s.toNat, 29), (g.toNat, 20), (o.toNat, 0)])
  | .call s o => some (packWord 0x0e080000 [(s.toNat, 29), (o.toNat, 0)])
  | .jmpe s e g => some (packWord 0x0f000000 [(s.toNat, 29), (e.toNat, 8), (g.toNat, 0)])
  | .calle s e g => some (packWord 0x0f000010 [(s.toNat, 29), (e.toNat, 8), (g.toNat, 0)])
  | .spawn s e g => some (packWord 0x0f000020 [(s.toNat, 29), (e.toNat, 8), (g.toNat, 0)])
  | .tspawn s e g => some (packWord 0x0f000030 [(s.toNat, 29), (e.toNat, 8), (g.toNat, 0)])
  | .sende s e g => some (packWord 0x0f000040 [(s.toNat, 29), (e.toNat, 8), (g.toNat, 0)])
  | .jmpi s n g => some (packWord 0x0f000050 [(s.toNat, 29), (n.toNat, 8), (g.toNat, 0)])
  | .calli s n g => some (packWord 0x0f000060 [(s.toNat, 29), (n.toNat, 8), (g.toNat, 0)])
  | .rete s g => some (packWord 0x0f000070 [(s.toNat, 29), (g.toNat, 0)])
  | .launch s n g => some (packWord 0x0f000080 [(s.toNat, 29), (n.toNat, 8), (g.toNat, 0)])
  | .loop s l a n => some (packWord 0x10000000 [(s.toNat, 29), (l.toNat, 22), (a.toNat, 17), (n.toNat, 0)])
  | .lstep s l a => some (packWord 0x10004000 [(s.toNat, 29), (l.toNat, 22), (a.toNat, 17)])
  | .xbase s a x => some (packWord 0x10008000 [(s.toNat, 29), (a.toNat, 17), (x.toNat, 0)])
  | .xcoef s j a x => some (packWord 0x1000c000 [(s.toNat, 29), (j.toNat, 22), (a.toNat, 17), (x.toNat, 0)])
  | .lbrk s l n p => some (packWord 0x10010000 [(s.toNat, 29), (l.toNat, 22), (n.toNat, 3), (p.toNat, 0)])
  | .lind s l d => some (packWord 0x10014000 [(s.toNat, 29), (l.toNat, 22), (d.toNat, 17)])
  | .putm s d a b g => some (packWord 0x11000000 [(s.toNat, 29), (d.toNat, 19), (a.toNat, 14), (b.toNat, 9), (g.toNat, 0)])
  | .getm s d b => some (packWord 0x11000010 [(s.toNat, 29), (d.toNat, 19), (b.toNat, 9)])
  | .peekm s d b => some (packWord 0x11000020 [(s.toNat, 29), (d.toNat, 19), (b.toNat, 9)])
  | .tstm s d b => some (packWord 0x11000030 [(s.toNat, 29), (d.toNat, 19), (b.toNat, 9)])
  | .clrm s b => some (packWord 0x11000040 [(s.toNat, 29), (b.toNat, 9)])
  | .shfl s d a b g => some (packWord 0x12000000 [(s.toNat, 29), (d.toNat, 19), (a.toNat, 14), (b.toNat, 9), (g.toNat, 0)])
  | .shflx s d a b g => some (packWord 0x12000010 [(s.toNat, 29), (d.toNat, 19), (a.toNat, 14), (b.toNat, 9), (g.toNat, 0)])
  | .bcast s d a b g => some (packWord 0x12000020 [(s.toNat, 29), (d.toNat, 19), (a.toNat, 14), (b.toNat, 9), (g.toNat, 0)])
  | .voteAny s d a g => some (packWord 0x12000030 [(s.toNat, 29), (d.toNat, 19), (a.toNat, 14), (g.toNat, 0)])
  | .voteAll s d a g => some (packWord 0x12000040 [(s.toNat, 29), (d.toNat, 19), (a.toNat, 14), (g.toNat, 0)])
  | .ballot s d a g => some (packWord 0x12000050 [(s.toNat, 29), (d.toNat, 19), (a.toNat, 14), (g.toNat, 0)])
  | .redadd s d a g => some (packWord 0x12000060 [(s.toNat, 29), (d.toNat, 19), (a.toNat, 14), (g.toNat, 0)])
  | .fredadd s d a g => some (packWord 0x12000070 [(s.toNat, 29), (d.toNat, 19), (a.toNat, 14), (g.toNat, 0)])
  | .scanadd s d a g => some (packWord 0x12000080 [(s.toNat, 29), (d.toNat, 19), (a.toNat, 14), (g.toNat, 0)])
  | .laneid s d g => some (packWord 0x12000090 [(s.toNat, 29), (d.toNat, 19), (g.toNat, 0)])
  | .actmask s d g => some (packWord 0x120000a0 [(s.toNat, 29), (d.toNat, 19), (g.toNat, 0)])
  | .clrw s a g => some (packWord 0x13000000 [(s.toNat, 29), (a.toNat, 14), (g.toNat, 0)])
  | .addwf s a b g => some (packWord 0x13000010 [(s.toNat, 29), (a.toNat, 14), (b.toNat, 9), (g.toNat, 0)])
  | .addwi s a b g => some (packWord 0x13000020 [(s.toNat, 29), (a.toNat, 14), (b.toNat, 9), (g.toNat, 0)])
  | .maddw s d a b g => some (packWord 0x13000030 [(s.toNat, 29), (d.toNat, 19), (a.toNat, 14), (b.toNat, 9), (g.toNat, 0)])
  | .addww s a b g => some (packWord 0x13000040 [(s.toNat, 29), (a.toNat, 14), (b.toNat, 9), (g.toNat, 0)])
  | .rndw s d a g => some (packWord 0x13000050 [(s.toNat, 29), (d.toNat, 19), (a.toNat, 14), (g.toNat, 0)])
  | .rndw2 s d a g => some (packWord 0x13000060 [(s.toNat, 29), (d.toNat, 20), (a.toNat, 14), (g.toNat, 0)])
  | .bload s j n b => some (packWord 0x14000000 [(s.toNat, 29), (j.toNat, 19), (n.toNat, 14), (b.toNat, 9)])
  | .mzero s k a => some (packWord 0x14000010 [(s.toNat, 29), (k.toNat, 19), (a.toNat, 14)])
  | .mma s k n j => some (packWord 0x14000020 [(s.toNat, 29), (k.toNat, 19), (n.toNat, 14), (j.toNat, 9)])
  | .mmas s k n j => some (packWord 0x14000030 [(s.toNat, 29), (k.toNat, 19), (n.toNat, 14), (j.toNat, 9)])
  | .mrd s k n => some (packWord 0x14000040 [(s.toNat, 29), (k.toNat, 19), (n.toNat, 14)])
  | .mwt s k n => some (packWord 0x14000050 [(s.toNat, 29), (k.toNat, 19), (n.toNat, 14)])
  | .mflag s d k => some (packWord 0x14000060 [(s.toNat, 29), (d.toNat, 19), (k.toNat, 14)])
  | .cpy s d a b => some (packWord 0x15000000 [(s.toNat, 29), (d.toNat, 19), (a.toNat, 14), (b.toNat, 10)])
  | .cpyx s d a b => some (packWord 0x15000010 [(s.toNat, 29), (d.toNat, 19), (a.toNat, 14), (b.toNat, 9)])
  | .cpgat s d a b => some (packWord 0x15000020 [(s.toNat, 29), (d.toNat, 19), (a.toNat, 14), (b.toNat, 9)])
  | .cpmeta s a b => some (packWord 0x15000030 [(s.toNat, 29), (a.toNat, 14), (b.toNat, 10)])
  | .cpstop s b => some (packWord 0x15000040 [(s.toNat, 29), (b.toNat, 9)])
  | .cprem s d a b => some (packWord 0x15000050 [(s.toNat, 29), (d.toNat, 20), (a.toNat, 14), (b.toNat, 10)])
  | .sfcall s d a b => some (packWord 0x16000000 [(s.toNat, 29), (d.toNat, 21), (a.toNat, 14), (b.toNat, 9)])
  | .gload s a b => some (packWord 0x16000010 [(s.toNat, 29), (a.toNat, 14), (b.toNat, 9)])
  | .gdrop s b => some (packWord 0x16000020 [(s.toNat, 29), (b.toNat, 9)])
  | .dcfg s a m => some (packWord 0x17000000 [(s.toNat, 29), (a.toNat, 14), (m.toNat, 9)])
  | .dpatch s a => some (packWord 0x17000010 [(s.toNat, 29), (a.toNat, 14)])
  | .dsety s a b g => some (packWord 0x17000020 [(s.toNat, 29), (a.toNat, 14), (b.toNat, 9), (g.toNat, 0)])
  | .dsetr s a b g => some (packWord 0x17000030 [(s.toNat, 29), (a.toNat, 14), (b.toNat, 9), (g.toNat, 0)])
  | .dsave s a => some (packWord 0x17000040 [(s.toNat, 29), (a.toNat, 14)])
  | .drest s a => some (packWord 0x17000050 [(s.toNat, 29), (a.toNat, 14)])
  | .dstep s a m => some (packWord 0x17000060 [(s.toNat, 29), (a.toNat, 14), (m.toNat, 9)])
  | .dstop s m => some (packWord 0x17000070 [(s.toNat, 29), (m.toNat, 9)])
  | .dinj s a n g => some (packWord 0x17000080 [(s.toNat, 29), (a.toNat, 14), (n.toNat, 9), (g.toNat, 0)])
  | .drdo s d a k g => some (packWord 0x17000090 [(s.toNat, 29), (d.toNat, 19), (a.toNat, 14), (k.toNat, 9), (g.toNat, 0)])
  | .drdy s d a g => some (packWord 0x170000a0 [(s.toNat, 29), (d.toNat, 19), (a.toNat, 14), (g.toNat, 0)])
  | .epop s d e => some (packWord 0x18000000 [(s.toNat, 29), (d.toNat, 20), (e.toNat, 9)])
  | .epeek s d e => some (packWord 0x18000010 [(s.toNat, 29), (d.toNat, 19), (e.toNat, 9)])
  | .sbwait s n c => some (packWord 0x18000020 [(s.toNat, 29), (n.toNat / 32 % 2, 19), (n.toNat / 1 % 32, 9), (c.toNat, 14)])
  | .sbrd s d c => some (packWord 0x18000030 [(s.toNat, 29), (d.toNat, 19), (c.toNat, 14)])
  | .repf s l c d a b => some (packWord 0x19000000 [(s.toNat, 29), (l.toNat, 20), (c.toNat, 14), (d.toNat, 11), (a.toNat, 8), (b.toNat, 5)])
  | .csrr s d i => some (packWord 0x1a000000 [(s.toNat, 29), (d.toNat, 19), (i.toNat, 0)])
  | .csrw s a i => some (packWord 0x1a001000 [(s.toNat, 29), (a.toNat, 14), (i.toNat, 0)])
  | .csrs s a i => some (packWord 0x1a002000 [(s.toNat, 29), (a.toNat, 14), (i.toNat, 0)])
  | .csrc s a i => some (packWord 0x1a003000 [(s.toNat, 29), (a.toNat, 14), (i.toNat, 0)])
  | .sopen s d a => some (packWord 0x1b000000 [(s.toNat, 29), (d.toNat, 19), (a.toNat, 14)])
  | .sput s d g => some (packWord 0x1b000010 [(s.toNat, 29), (d.toNat, 19), (g.toNat, 9)])
  | .sget s d p g => some (packWord 0x1b000020 [(s.toNat, 29), (d.toNat, 19), (p.toNat, 11), (g.toNat, 9)])
  | .sclose s d g => some (packWord 0x1b000030 [(s.toNat, 29), (d.toNat, 19), (g.toNat, 9)])
  | .hostAppend _ _ _ => none
  | .selection _ => none
  | .refusal _ => none
  | .launchSlot _ => none
  | .switchSlot _ => none
  | .launchCompletion _ _ => none
  | .injection _ _ => none
  | .injectionAck _ _ _ => none
  | .crewPlacement _ _ => none
  | .packetSend _ => none
  | .trainEntry _ _ => none
  | .ringRefill _ _ => none
  | .resend _ _ => none
  | .ringFullNotification _ _ => none
  | .gangFormation _ _ => none
  | .gangwaitExpiry _ _ => none
  | .stealRequest _ _ => none
  | .stealAnswer _ _ => none
  | .routeCacheFill _ _ _ => none
  | .hotSample _ => none
  | .addReplica _ _ _ => none
  | .replicaUpdate _ => none
  | .removeReplica _ _ _ => none
  | .extentFree _ _ _ _ => none
  | .objectLoad _ _ _ _ => none
  | .objectUnload _ _ => none
  | .objectExtentFree _ _ => none
  | .chunkCommit _ => none
  | .taskCommit _ => none
  | .farOpPerformed _ _ => none
  | .farResultReturn _ _ => none
  | .loadComplete _ _ => none
  | .directoryHandlerTrap _ _ _ => none
  | .tlbWalk _ _ _ _ => none
  | .retryCommand _ _ => none
  | .hostClean _ _ _ => none
  | .tlbinvComplete _ => none
  | .hostDeviceWrite _ _ => none
  | .mailDelivery _ _ => none
  | .gangWake _ => none
  | .streamFlit _ _ => none
  | .token _ _ => none
  | .tokenTimer _ _ => none
  | .streamAudit _ _ => none
  | .sopenTimeout _ _ => none
  | .sopenRetry _ _ => none
  | .deadlockDetect _ => none
  | .recoveryStep _ => none
  | .routingLoop _ => none
  | .partitionDrain _ _ => none
  | .routeTableWrite _ _ _ _ => none
  | .recordEnters _ _ => none
  | .copyTransferEnd _ _ _ => none
  | .engineFaultTaken _ => none
  | .mxCommandStart _ _ => none
  | .mxCommandComplete _ _ => none
  | .madderStep _ _ => none
  | .madderCommand _ _ => none
  | .dsaveWritten _ _ => none
  | .fabricFiring _ => none
  | .gloadComplete _ _ => none
  | .contextCreate _ _ _ _ _ => none
  | .softRequest _ _ => none
  | .hardRequest _ _ => none
  | .graceExpiry _ => none
  | .haltComplete _ => none
  | .killTimerExpiry _ => none
  | .killCommand _ _ => none
  | .imageSaveComplete _ _ => none
  | .scrubComplete _ _ _ => none
  | .tokenStart _ => none
  | .tokenWritten _ => none
  | .restoreComplete _ => none
  | .rescrubCommand _ => none
  | .collectivePost _ _ _ _ _ => none
  | .collectiveResume _ _ => none
  | .exchangeTimeout _ => none
  | .participantTimeout _ => none
  | .sessionKeyAgreement _ _ _ => none
  | .sessionRecord _ _ _ _ => none
  | .attestationQuote _ _ _ => none
  | .flitCrcFail _ => none
  | .fjoadLaneLost _ => none
  | .portDown _ => none
  | .accessTimeout _ _ => none
  | .timeSourceFail => none
  | .sourceChange => none
  | .dtcStep _ => none
  | .queueRecordWrite _ _ _ _ _ _ => none
  | .haltRequest _ _ => none
  | .haltDone _ _ => none
  | .resume _ _ => none
  | .debugRegisterWrite _ _ _ _ => none
  | .powerInterval _ => none
  | .pwrlimWrite _ => none
  | .thermalEvent _ _ => none
  | .thermalTrip _ => none
  | .lifeEstimate _ _ _ => none
  | .eolalrWrite _ _ _ => none
  | .eolstsClear _ _ _ => none
  | .correctedError _ _ => none
  | .uncorrectedError _ _ _ => none
  | .powerOn _ => none
  | .mgmtRegisterWrite _ _ => none
  | .accwUpdateDone _ _ => none
  | .fixedLatencyWrite _ _ => none
  | .madderReadDone _ _ => none
  | .peerAcknowledgement _ _ => none
  | .peerAccess _ _ _ => none
  | .collectiveContribution _ _ _ _ => none
  | .timeSourceInput _ _ => none
  | .timeSourceRecovery _ _ => none
  | .remapTableWrite _ _ => none
  | .contextRetire _ _ => none
  | .drbgErrorState _ => none
  | .powerLoss => none

/-- The word of an instruction as 32 bits. -/
def encode (i : Instr) : Option W32 := (encodeNat i).map (BitVec.ofNat 32)

/-- What the decoder reads from an instruction whose bits are `w`, numbered as spec/opcode_table.json numbers them;
bits at and above `nbits` are zero, and the word is stored in its byte order, the first byte lowest (00:R4). -/
noncomputable def decodeTableWord (nbits w : Nat) : Option Instr :=
  match decode (bytesOfWord (BitVec.ofNat 32 (w % 2 ^ nbits))) with
  | .ok (i, _) => some i
  | .error _ => none

end Sys2Proof
end

