-- ==== Sys2Proof/Config.lean ====
section
/-!
DEFINITION. What the spec leaves open, as opaque constants: no proof can see a value of them (log 5).
-/

namespace Sys2Proof.Config

/-- A value the spec leaves open, by the counter of free values and a place within it. -/
opaque freeNat : Nat → Nat → Nat

/-- The bits of a key that Ochre draws from its DRBG, by its number (14:R359). No software ever reads a key. -/
opaque keyBits : Nat → BitVec 512

/-- Signatures over a byte string under the device's keys (14:R366, 14:R375): RSASSA-PSS and SLH-DSA. -/
opaque rsaSign : List Byte → List Byte
opaque slhSign : List Byte → List Byte

/-- The SLH-DSA signature of the identity key, on the certificate of the token key (14:R375). -/
opaque slhIdSign : List Byte → List Byte

/-- The three public keys of the device, concatenated (14:R366). -/
opaque publicKeys : List Byte

/-- The firmware (14:R375), its two signatures, and whether a signature verifies under Shoirsy's keys in Ochre's ROM. -/
opaque firmware : List Byte
opaque firmwareSigs : List Byte × List Byte
opaque rsaVerify : List Byte → List Byte → Bool
opaque slhVerify : List Byte → List Byte → Bool

/-- The value that a far operation of use quantum returns is one of those its window holds (06:R168): counter of free
values and number of values in the window. -/
opaque quantumPick : Nat → Nat → Nat

/-- What the fuses of a package say: die and place among the eight that are chosen (01:R8). -/
opaque fuse : Nat → Nat → Nat

/-- The sites that the firmware gives each slice at boot, before those that are fused off or given already are left out (01:R19). -/
opaque bootSites : Nat → List Nat

/-- The arbiter that a domain's hash gives: space and number of the unit (06:R155). -/
opaque arbiter : Nat → Nat → Nat

/-- The 16-byte header of an extended record of the directory, by its line (04:R117). -/
opaque dirHeader : Nat → BitVec 128

/-- Which of several locations an operation of the gang is performed at next (10:R271): counter of free values and their number. -/
opaque farPick : Nat → Nat → Nat

/-- The home cluster of a line among those of a slice (04:R115): cluster count and line. -/
opaque homeHash : Nat → Nat → Nat

end Sys2Proof.Config
end

