-- ==== Sys2Proof/Machine/State.lean ====
section
/-!
DEFINITION. The state of the Dunenar as plain data, the reasons a step can stop, and the machine right after reset.

Tables keyed by a number are lists of (key, value) pairs; a key that is not listed stands for the default value of its
type. Keys (log 4): core key `slice * 8192 + core`, gang key `core key * 4 + slot`, quad key `core key / 4`,
cluster key `quad key / 2`, context key `slice * 8 + context`.
-/

namespace Sys2Proof.Machine

/-- A table keyed by a number; unlisted keys hold the type's default. -/
abbrev Tab (α : Type) := List (Nat × α)

/-! ## Registers of lanes and gangs -/

/-- Where a pending register write lands in a lane, resolved at issue: a stack entry of the window, a fixed register
or a predicate (03:R74, 08:R207). -/
inductive Dest where
  | ent (k : Nat)
  | hi (n : Nat)
  | pr (n : Nat)
  deriving DecidableEq, Repr

/-- The registers private to one lane (08:R207, 05:R130, 05:R131). -/
structure Lane where
  /-- Physical stack entries: logical entry e lies at e modulo 64 (03:R74). -/
  ent : Tab Word := []
  /-- Window base and resident floor, logical entry numbers (03:R74). -/
  base : Int := 0
  floor : Int := 0
  /-- w24, w26 to w30; w25 and w31 need no storage (08:R207). -/
  tidx : Word := 0#64
  hi : Tab Word := []
  /-- p7 to p0; bit 0 reads 1 whatever is stored (08:R207). -/
  p : BitVec 8 := 1#8
  /-- Bases of x0 to x7 (09:R254). -/
  xb : Tab Word := []
  frm : BitVec 3 := 0#3
  fflags : BitVec 5 := 0#5
  deriving DecidableEq, Repr

/-- One entry of the divergence stack (03:R70). -/
structure DivEntry where
  all : W32
  park : W32
  merging : Bool
  jset : Bool
  join : Nat
  tgt : Nat
  deriving DecidableEq, Repr

/-- One loop level (09:R252). `since` orders the levels by their start; `held` is the trap level that holds it (18:R390). -/
structure LoopLevel where
  active : Bool := false
  first : Nat := 0
  last : Nat := 0
  left : Nat := 0
  i : W32 := 0#32
  step : W32 := 1#32
  since : Nat := 0
  held : Nat := 0
  deriving DecidableEq, Repr

/-- The repeat frame: the `repf` word, its fields, and the pass and captured word reached (09:R256). -/
structure RepFrame where
  start : Nat
  len : Nat
  count : Nat
  ds : Nat
  as : Nat
  bs : Nat
  pass : Nat
  word : Nat
  deriving DecidableEq, Repr

/-- The block a gang runs: its first word and length in the quad's code store, its object slot and index (02:R25). -/
structure BlkRef where
  start : Nat := 0
  len : Nat := 0
  obj : Nat := 0
  idx : Nat := 0
  deriving DecidableEq, Repr

/-- What a trap level holds aside (18:R390, 18:R391). -/
structure Held where
  /-- Depth of the divergence stack at the entry. -/
  mark : Nat := 0
  rep : Option RepFrame := none
  /-- Window base of each lane at the entry. -/
  bases : Tab Int := []
  blk : BlkRef := {}
  deriving DecidableEq, Repr

/-- The trap registers (18:R386, 18:R387). -/
structure TrapRegs where
  tlvl : Nat := 0
  tc1 : Word := 0#64
  tc2 : Word := 0#64
  tpc1 : Word := 0#64
  tpc2 : Word := 0#64
  tmk1 : Word := 0#64
  tmk2 : Word := 0#64
  tva1 : Word := 0#64
  tva2 : Word := 0#64
  held1 : Held := {}
  held2 : Held := {}
  deriving DecidableEq, Repr

/-- The register state of a gang: what a squash restores (06:R151). -/
structure Regs where
  /-- Lanes that hold a thread, and the active mask (03:R67, 03:R70). -/
  thr : W32 := 0#32
  act : W32 := 0#32
  pc : Nat := 0
  blk : BlkRef := {}
  lanes : Tab Lane := []
  /-- Coefficient j of xN at key 4 N + j (09:R254). -/
  xc : Tab W32 := []
  /-- The newest entry first (03:R70). Those beyond the newest 8 lie in the TCM system area as well (03:R72). -/
  div : List DivEntry := []
  loops : Tab LoopLevel := []
  loopSeq : Nat := 0
  rep : Option RepFrame := none
  sbchk : Bool := false
  tr : TrapRegs := {}
  deriving DecidableEq, Repr

/-! ## Outstanding effects of a gang -/

/-- A register write that has not landed. `land` is the cycle of a fixed-latency write; a variable one has none and
lands by its own event. `ready` says that `vals`, one for each place of `dst`, are known (08:R213 to R217). -/
structure PendWrite where
  id : Nat
  land : Option Nat
  ctr : Option Nat
  /-- A load from TCM: these complete in issue order (08:R217). -/
  tcm : Bool
  ready : Bool
  dst : List (Nat × Dest)
  vals : List Word
  /-- A pop: the gang's later memory accesses wait for it (09:R260). -/
  acq : Bool := false
  /-- The first cycle it may land in: TCM accesses of a gang queue behind its wide-accumulator updates (11:R295). -/
  after : Nat := 0
  deriving DecidableEq, Repr

/-- One lane of a far operation: lane, location, operand, compare value and virtual address. -/
structure FarLane where
  lane : Nat
  loc : Nat
  v : Nat
  c : Nat
  va : Nat := 0
  deriving DecidableEq, Repr

/-- Members 0 to 12 of FATOM (08:R211), and a plain access to a memory-side page or to host memory (10:R266). -/
structure FarOp where
  id : Nat
  op : Nat
  use : Nat
  size : Nat
  lanes : List FarLane
  /-- Old values of the lanes performed so far, by their place in `lanes`, which holds equal locations together. -/
  got : Tab Nat
  perf : Bool
  /-- Entry of the chunk's far-operation log that records it. -/
  logAt : Option Nat
  /-- The rounding modes of the lanes, for `fadd` (10:R269). -/
  frms : List (BitVec 3)
  /-- Values a speculative operation must restore on an abort (06:R171). -/
  prior : List (Nat × Nat)
  /-- Result form: 0 as 10:R269, 1 zero-extended load, 2 sign-extended load. -/
  ext : Nat
  word : W32
  /-- Activation and launch that issued it, and the pending register write that takes its result. -/
  actId : Nat
  launch : Nat
  pid : Option Nat
  /-- Which values of that write it supplies: place in `vals`, place in `lanes`, and 1 for the upper half of 128 bits. -/
  slots : List (Nat × Nat × Nat)
  /-- When it was issued, in ns of `Clock.run` (07:R190, 21:R455). -/
  at_ : Nat := 0
  deriving DecidableEq, Repr

/-- One entry of the far-operation log (06:R152): the word, the active lanes, every lane's address and operands, results. -/
structure FarLog where
  word : W32
  act : W32
  ops : List FarLane
  done : Bool
  res : List Nat
  /-- An abort took its operation back (06:R171), so a re-execution sends it again. -/
  undone : Bool := false
  deriving DecidableEq, Repr

/-- The old values of a far operation that has been performed, in the order of `lanes`. -/
def FarOp.res (o : FarOp) : List Nat := (List.range o.lanes.length).map (fun i =>
  match o.got.find? (fun e => e.1 == i) with
  | some e => e.2
  | none => 0)

/-- A 16-byte completion record (09:R259). -/
structure Rec where
  lo : Word
  hi : Word
  deriving DecidableEq, Repr

/-- An engine fault recorded against a gang slot (20:R422). -/
structure EngFault where
  word : W32
  cause : Nat
  detail : Nat
  flt : W32
  va : Word
  deriving DecidableEq, Repr

/-- An open chunk (06:R148 to R152, 06:R177, 09:R259). -/
structure Chunk where
  /-- Instructions issued in it. -/
  count : Nat := 0
  /-- Buffered bytes: location and value, the newest first (06:R150). -/
  wbuf : List (Nat × Byte) := []
  /-- Sectors read and written, and the virtual pages of 64 KiB that its buffered writes were translated by (04:R113). -/
  rsec : List Nat := []
  wsec : List Nat := []
  wva : List Nat := []
  /-- Those that no-allocate stores wrote: they leave the quad's cache at the commit (10:R267). -/
  nasec : List Nat := []
  log : List FarLog := []
  /-- Far operations issued in this attempt. -/
  pos : Nat := 0
  /-- Register state at the chunk's start; none when the chunk is not open. -/
  snap : Option Regs := none
  /-- Records that `epop` removed, with their engines, the oldest first. -/
  pops : List (Nat × Rec) := []
  /-- Mailboxes read, and mailboxes whose presence bit the chunk consumes or clears (06:R177). -/
  mread : List Nat := []
  mcons : List Nat := []
  /-- Stores to host or peer memory, performed at commit in order (10:R266): physical and virtual address, value. -/
  exts : List (Nat × Nat × Byte) := []
  /-- Squashes in a row, and the cycle it asked for its grants in: arbiters serve in arrival order (06:R156). -/
  squashes : Nat := 0
  asked : Option Nat := none
  /-- The first number a register write issued in this chunk can have (08:R220). -/
  firstId : Nat := 0
  deriving DecidableEq, Repr

/-- Why a gang waits (03:R91, 20:R422). -/
inductive WaitKind where
  | mailbox
  | stream
  | barrier
  | tile
  | record
  | counter
  | queue
  | mailBuffer
  | grant
  | stage2
  | farDrain
  | sendSide
  | deviceQueue
  | tlbinv
  | resend
  | task
  /-- Until every outstanding register write has landed (08:R220, 18:R388). -/
  | drain
  deriving DecidableEq, Repr

/-- A thread packet or task record (03:R60, 03:R61) with the time it reached its quad and its order of entry (03:R66). -/
structure Packet where
  entry : Word := 0#64
  tidx : W32 := 0#32
  launch : Nat := 0
  task : Bool := false
  ts : Bool := false
  crew : Bool := false
  pred : BitVec 8 := 1#8
  bsp : Word := 0#64
  link : Word := 0#64
  live : List Word := []
  /-- Timestamp of a timestamped record (03:R84). -/
  stamp : Word := 0#64
  /-- Crew number and context of the launch, which the device keeps with the packet (03:R89). -/
  crewNo : Nat := 0
  at_ : Nat := 0
  seq : Nat := 0
  /-- It has reached its quad, so its age runs (03:R66); when it entered the arrival queue, or its crew's area (03:R68, R89); and when a
  refused one is sent again, and that it is on its way again (19:R412). -/
  came : Bool := false
  qAt : Nat := 0
  due : Nat := 0
  away : Bool := false
  deriving DecidableEq, Repr

/-- A timestamped task run by a gang (03:R84 to R86). -/
structure Task where
  stamp : Word
  /-- Runs as one speculative chunk; otherwise it holds the lowest uncommitted timestamp. -/
  spec : Bool
  aborts : Nat
  /-- Packets held back until the commit, by the instruction that made them: true for the deque, with the quad or core they go to. -/
  held : List (List (Bool × Nat × Packet))
  /-- The packets that formed the gang, for a restart from the entry. -/
  carried : List Packet
  /-- All lanes have ended; the chunk is kept open. -/
  finished : Bool
  /-- The task has yet to reach the lowest timestamp before it restarts without speculation (03:R85, 18:R389). -/
  waitLow : Bool
  deriving DecidableEq, Repr

/-- What a gang that the arbiter or the CNI has accepted at a wait waits for (03:R91, 10:R276, 10:R279): a tile or a barrier object; the
phases waited on, or 1 for a full tile and 0 for an empty one; and that a change has met it. -/
structure Awaited where
  tile : Bool
  obj : Nat
  vs : List Nat
  met : Bool := false
  deriving DecidableEq, Repr

/-- Where a trap comes from: the word itself, an engine fault recorded against the slot, or a stream audit (18:R388, 20:R422, 19:R416). -/
inductive TrapSrc where
  | word
  | engine
  | audit
  deriving DecidableEq, Repr

/-- A fault or `trap` that has been found and is taken once the gang's register writes have landed (18:R388). -/
structure TrapDue where
  src : TrapSrc := .word
  word : W32
  ret : Nat
  cause : Nat
  flt : W32
  va : Word
  deriving DecidableEq, Repr

/-- A gang slot (03:R58, 14:R361 classes 0 and 1). -/
structure Gang where
  live : Bool := false
  /-- Number of the activation: records of an earlier one are dropped (09:R259). -/
  actId : Nat := 0
  launch : Nat := 0
  crew : Option Nat := none
  task : Option Task := none
  r : Regs := {}
  sb : Tab Nat := []
  pend : List PendWrite := []
  far : List FarOp := []
  ch : Chunk := {}
  wait : Option WaitKind := none
  /-- Lanes of the waiting instruction already served, and what an accepted wait waits for (10:R276, R279). -/
  prog : Nat := 0
  aw : Option Awaited := none
  /-- A waiting instruction that was sent before a trap level was entered, at key 1 or 2: its log entry, `prog` and
  `aw`, for its reissue after `eret` (20:R422, 10:R275). -/
  sent : Tab (FarLog × Nat × Option Awaited) := []
  trapDue : Option TrapDue := none
  /-- What the loads, pops and far operations that landed in the cycle `lateAt` replaced: lane, place, old value (08:R219). -/
  lateAt : Nat := 0
  late : List (Nat × Dest × Word) := []
  /-- Completion queues and held records by engine, and commands that will still write a record (09:R259, 20:R426). -/
  cq : Tab (List Rec) := []
  cqHeld : Tab (List Rec) := []
  owed : Tab Nat := []
  efaults : List EngFault := []
  /-- First cycle its next issue may fall in; after a `yield` it stands behind gangs ready in the same cycle (08:R213,
  03:R83). -/
  readyAt : Nat := 0
  yielded : Bool := false
  /-- Bytes observed by far operations, and the last acquire: places in the history of memory (06:R168). -/
  obs : Tab Nat := []
  obsAcq : Nat := 0
  /-- Stopped at an activation or instruction boundary by a pre-emption or a debug halt (14:R363, 18:R399). -/
  stopped : Bool := false
  deriving DecidableEq, Repr

/-! ## Core -/

/-- A mailbox register and its presence bit (08:R207). -/
structure Mailbox where
  val : Word := 0#64
  pres : Bool := false
  deriving DecidableEq, Repr

/-- A value on its way to a mailbox: the mailbox, the value, the quad that sent it and its number among what that quad sent (04:R124). -/
structure Mail where
  mb : Nat
  v : Word
  src : Nat := 0
  no : Nat := 0
  deriving DecidableEq, Repr

/-- Who pushed an engine command: gang key, activation, word and lanes active at the push (20:R422). -/
structure Pusher where
  gk : Nat := 0
  actId : Nat := 0
  word : W32 := 0#32
  act : W32 := 0#32
  launch : Nat := 0
  deriving DecidableEq, Repr

/-- A `cpgat` descriptor once it has been read, and the row whose index has been read with that index (11:R311). -/
structure CpGat where
  base : Nat
  idx : Nat
  count : Nat
  rowb : Nat
  row : Option (Nat × Nat)
  /-- The indices read ahead, for a graph whose firings start in ascending address (13:R336). -/
  rows : List Nat := []
  deriving DecidableEq, Repr

/-- A copy command as captured at its push (11:R310, 11:R311). `kind` is the FN of the member. -/
structure CpCmd where
  who : Pusher
  kind : Nat
  dst : Word
  src : Word
  len : Nat
  ctl : Word
  peer : Nat
  td : BitVec 128
  ta : BitVec 128
  /-- Source bytes taken; destination bytes written so far (for `cpmeta` source bytes taken, for `cprem` bytes that the
  peer has acknowledged); and that the transfer has begun. -/
  taken : Nat
  moved : Nat
  started : Bool
  gat : Option CpGat
  /-- Destination bytes that a `cprem` has sent, or that a `cpyx` has written of the row it stands in. -/
  sent : Nat := 0
  /-- When a `cprem` last sent a piece, in ns of `Clock.run` (21:R455). -/
  at_ : Nat := 0
  /-- Firings started in ascending graph-side address, and the outputs that are still to be written: the place in the transfer, the source bytes
  taken and the output (13:R336, 11:R310). -/
  fired : Nat := 0
  outs : List (Nat × Nat × List Byte) := []
  deriving DecidableEq, Repr

/-- A matrix command as captured at its push (11:R297). -/
structure MxCmd where
  who : Pusher
  kind : Nat
  /-- Bank J or tile K (11:R307). -/
  reg : Nat
  bank : Nat
  desc : BitVec 128
  /-- Scale address for `bload`, Ez for `mzero`. -/
  opnd : Word
  frm : BitVec 3
  seq : Nat
  deriving DecidableEq, Repr

/-- A fabric command as captured at its push (13:R351). -/
structure SfCmd where
  who : Pusher
  kind : Nat
  mbox : Nat
  ctl : Word
  addr : Word
  ops : List Word
  deriving DecidableEq, Repr

/-- A Madder command as captured at its push (12:R323). `lanes` holds lane, cell and value of each selected lane. -/
structure MaCmd where
  who : Pusher
  kind : Nat
  dom : Nat
  opnd : Word
  sel : Nat
  lanes : List (Nat × Nat × Word)
  /-- The cycle it entered the queue in (12:R329). -/
  at_ : Nat := 0
  deriving DecidableEq, Repr

/-- An integrator cell (12:R314). Latches hold 0 for empty, or +1 or -1. -/
structure MadCell where
  y : Int := 0
  r : Nat := 0
  o : W32 := 0#32
  dx : Int := 0
  dy1 : Int := 0
  dy2 : Int := 0
  port : Int := 0
  /-- Its parity is wrong, which the next step that reads it finds (24:R465). -/
  bad : Bool := false
  deriving DecidableEq, Repr

/-- A `dstep` in a run or pending slot: steps asked and made, and the cycle of its next step (12:R321, 12:R327). -/
structure DStep where
  who : Pusher
  n : Nat
  done : Nat
  next : Nat
  /-- The cycle the last step, or the start, falls in. -/
  prev : Nat
  deriving DecidableEq, Repr

/-- One step domain (12:R320). -/
structure MadDom where
  div : Nat := 0
  dcnt : Word := 0#64
  run : Option DStep := none
  pend : Option DStep := none
  deriving DecidableEq, Repr

/-- The Madder array of a core (12:R314 to R330). -/
structure Madder where
  cells : Tab MadCell := []
  patch : Tab Word := []
  doms : Tab MadDom := []
  q : List MaCmd := []
  /-- A `dpatch` or `drest` that reads its table or image until the cycle given, with the bytes it has read. -/
  reading : Option (MaCmd × Nat × List Byte) := none
  /-- The `dsave` commands that write their snapshots until the cycle given, with the bytes that are still to be written. -/
  saving : List (MaCmd × Nat × List Byte) := []
  /-- First cycle the next command may be performed in (12:R321). -/
  free : Nat := 0
  deriving DecidableEq, Repr

/-- A core (01:R9). -/
structure Core where
  mail : Tab Mailbox := []
  mbuf : List (Nat × Word) := []
  /-- Values sent to this core and not yet delivered, in arrival order (10:R281). -/
  inbox : List Mail := []
  t : Tab (BitVec 128) := []
  wp : Tab Word := []
  chans : Tab (List CpCmd) := []
  mxq : List MxCmd := []
  spq : List (BitVec 16) := []
  mxwt : Nat := 1
  mxseq : W32 := 0#32
  mad : Madder := {}
  fabq : List SfCmd := []
  /-- What the wide-accumulator unit has queued, the oldest first: the gang slot, and the cycle it ends in (11:R295). -/
  accq : List (Nat × Nat) := []
  /-- The newest record first (03:R77). Those beyond the newest 64 lie in the TCM system area as well (03:R78). -/
  deque : List Packet := []
  /-- Steal network: announced as empty, the last core asked, the thieves that wait here, and a request sent (03:R80). -/
  annEmpty : Bool := true
  /-- The cycle after the last operation that the deque served (03:R81). -/
  dqBy : Nat := 0
  lastAsked : Option Nat := none
  thieves : List Nat := []
  asked : Option Nat := none
  nextIssue : Nat := 0
  lastIssued : Nat := 0
  deriving DecidableEq, Repr

/-! ## Quad -/

/-- A block placed in a code store (02:R23, 02:R38). -/
structure Extent where
  start : Nat
  len : Nat
  obj : Nat
  blk : Nat
  /-- Added by hot-code replication. -/
  hot : Bool
  /-- A removed replica whose extent is not freed yet. -/
  dying : Bool
  deriving DecidableEq, Repr

/-- An entry of the route cache, or of the entry route table: object slot, entry, live mask, members (02:R29, 02:R30). -/
structure Route where
  obj : Nat
  entry : Nat
  live : W32
  quads : List Nat
  deriving DecidableEq, Repr

/-- A TLB entry: virtual page of 64 KiB, physical page, writable at each stage, trap-level bit, memory-side bit, the
dirty bit as recorded, and the context (04:R111, 04:R112). -/
structure TlbEnt where
  ctx : Nat
  vpage : Nat
  ipage : Nat
  ppage : Nat
  w1 : Bool
  tl : Bool
  ms : Bool
  w2 : Bool
  d : Bool
  /-- Pages of 64 KiB of the stage-1 page that it is a piece of (04:R113). -/
  sz1 : Nat := 1
  deriving DecidableEq, Repr

/-- A stream flit: eight words and the marker (10:R284). -/
structure Flit where
  words : List Word
  mark : Bool
  /-- Its number among what its quad sent (04:R124). -/
  no : Nat := 0
  deriving DecidableEq, Repr

/-- A token on its way back to a send side: its stream and count, the quad that sent it and its number among what that quad sent (04:R124,
R126). -/
structure Token where
  st : Nat
  count : Nat
  src : Nat := 0
  no : Nat := 0
  deriving DecidableEq, Repr

/-- The stream port of a quad (04:R125, 04:R126, 10:R284, 10:R285, 19:R416). -/
structure StreamPort where
  /-- Gang key that holds the send side, and its target quad. -/
  holder : Option Nat := none
  dst : Nat := 0
  /-- Number of the stream among those of this quad: a stream is named 2048 times its number plus its source quad. -/
  no : Nat := 0
  /-- Route open; while not, the first flit holds the channels of so many links of its route and waits for the next one, since `waitFrom`
  (04:R125, 19:R415). -/
  opened : Bool := false
  links : Nat := 0
  backoff : Option Nat := none
  waitFrom : Nat := 0
  credit : Nat := 0
  /-- The holder's activation has ended, and its marker waits for credit (10:R284, 04:R126). -/
  closing : Bool := false
  sent : Nat := 0
  credited : Nat := 0
  copies : List Flit := []
  /-- An audit mismatch to report: the audit count (19:R416). -/
  audit : Option Nat := none
  /-- The cycle the receiver last sent an audit, or its stream began (19:R416); and the gangs that wait at `sget`, in issue order
  (10:R285). -/
  auditAt : Nat := 0
  getters : List Nat := []
  /-- The cycle after the last `sget` that was served (10:R285). -/
  getBy : Nat := 0
  /-- Flits on their way to this quad's receiver, with their stream. -/
  inflight : List (Nat × Flit) := []
  /-- The stream being received, streams that wait, received flits, and consumption counts. -/
  src : Option Nat := none
  waiting : List Nat := []
  slots : List Flit := []
  consumed : Nat := 0
  unreturned : Nat := 0
  since : Nat := 0
  /-- Tokens on their way back to this quad's send side. -/
  tokens : List Token := []
  deriving DecidableEq, Repr

/-- Packets that one instruction or injection sends to one quad: injected, sending quad, packets in order (15:R376). -/
structure Train where
  injected : Bool
  src : Nat
  launch : Nat
  packets : List Packet
  /-- Its number among what its quad sent (04:R124); and that it is a refused packet on its way again (19:R412). -/
  no : Nat := 0
  again : Bool := false
  deriving DecidableEq, Repr

/-- A quad (01:R9). -/
structure Quad where
  code : Tab W32 := []
  exts : List Extent := []
  /-- Oldest first. -/
  aq : List Packet := []
  /-- The overflow ring, the oldest first; it lies in memory from slot `ringHead` of its 8,192 on (03:R69). -/
  ring : List Packet := []
  ringHead : Nat := 0
  /-- Since when the ring has been full, and that the host has been told of it (19:R412). -/
  ringFull : Option Nat := none
  ringTold : Bool := false
  /-- Refused packets and the quad each goes to (19:R412). -/
  resend : List (Nat × Packet) := []
  routes : List Route := []
  /-- The quad has announced that it is above its mark (02:R32). -/
  annAbove : Bool := false
  /-- Trains on their way here, in arrival order. -/
  trains : List Train := []
  /-- Trains of this quad's transfers that have not left yet: the gang, the target quad, the train (09:R249). -/
  outs : List (Nat × Nat × Train) := []
  /-- The last cycle in which a train entered, and the key of the one that entered last in it (15:R376). -/
  entered : Option (Nat × Nat) := none
  /-- Core of the last take, and the cycle after it: one take is served in a cycle (03:R66). The spec does not say which core comes first
  before any has taken; the model starts with core 0 (log 43). -/
  lastTaker : Nat := 3
  tookBy : Nat := 0
  entrySeq : Nat := 0
  /-- The number of its next packet train, mail or flit (04:R124). -/
  sendNo : Nat := 0
  tlb : List TlbEnt := []
  port : StreamPort := {}
  deriving DecidableEq, Repr

/-! ## Cluster -/

/-- An ACC96 tile (05:R140): its rows of 256 elements; rows and elements not listed are 0. -/
structure ZTile where
  rows : List (List (BitVec 96)) := []
  ez : Int := 0
  nan : Bool := false
  ovf : Bool := false
  deriving DecidableEq, Repr

/-- One column of a B bank: for each of its eight 32-K groups the integers, their weight and the scale; and the NaN mark of
the column (05:R138). -/
structure BankCol where
  q : List (List Int) := []
  eb : List Int := []
  scale : List (BitVec 16) := []
  nan : Bool := false
  deriving DecidableEq, Repr

/-- A B bank (05:R138, 11:R298, R299). -/
structure Bank where
  fmt : Nat := 7
  cols : List BankCol := []
  deriving DecidableEq, Repr

/-- A matrix command that has started: its core, array cycles, end of its array time, outcome, and the bytes that an
`mrd` will write (11:R302, 11:R303). -/
structure MxRun where
  core : Nat
  cmd : MxCmd
  cycles : Nat
  free : Nat
  done : Nat
  status : Nat
  bytes : List (Nat × Byte)
  /-- The flags of its tile as the command left them, and what `mflag` reads, as it started (11:R305, R307). -/
  flags : Nat := 0
  seen : Word := 0#64
  deriving DecidableEq, Repr

/-- A barrier object (10:R276). `crew` is launch number and crew number. -/
structure Barrier where
  bound : Option (Nat × Nat) := none
  member : BitVec 1024 := 0#1024
  arrived : BitVec 1024 := 0#1024
  phase : W32 := 0#32
  deriving DecidableEq, Repr

/-- An iteration counter (10:R278). -/
structure IterCtr where
  next : Word := 0#64
  limit : Word := 0#64
  grain : W32 := 0#32
  deriving DecidableEq, Repr

/-- A crew reservation and its waiting packets (03:R88, 03:R89): destination quad and packet. -/
structure CrewRes where
  launch : Nat
  crew : Nat
  size : Nat
  /-- The packet slots of the scratchpad's crew arrival area that it holds, that of crew thread i in place i (03:R89, 04:R98). -/
  slots : List Nat := []
  /-- Threads of the crew that have not ended. -/
  alive : Nat
  packets : List (Nat × Packet)
  deriving DecidableEq, Repr

/-- A directory line (04:R116, 04:R117): uncached with no sharer, exclusive or shared otherwise. One with an extended record has the
number of that record. -/
structure DirLine where
  line : Nat
  exclusive : Bool
  sharers : List Nat
  ext : Bool
  broadcast : Bool
  rec_ : Nat := 0
  deriving DecidableEq, Repr

/-- A cluster (01:R9). -/
structure Cluster where
  wincfg : Tab Word := []
  z : Tab ZTile := []
  banks : Tab Bank := []
  /-- Four-entry queue of each core within the cluster (07:R203). -/
  mxqs : Tab (List MxCmd) := []
  runs : List MxRun := []
  arrayFree : Nat := 0
  /-- The core of the unit's round that is visited, and the commands its turn may still start (07:R203). -/
  rr : Nat := 7
  turn : Nat := 0
  /-- Checksum mismatches that the next `mma` or `mmas` meets (20:R431), as errors of the hardware raise them (24:R465). -/
  mxErr : Nat := 0
  zalloc : Word := 0#64
  bars : Tab Barrier := []
  its : Tab IterCtr := []
  crews : List CrewRes := []
  tlb : List TlbEnt := []
  dir : List DirLine := []
  /-- Internal traps to the directory handler in the system gang slot of core 0: the line and its fifth sharer (04:R117). -/
  dirTraps : List (Nat × Nat) := []
  deriving DecidableEq, Repr

/-! ## Launches, slices and contexts -/

/-- A launch descriptor as read once at selection (07:R182, 07:R183), with the quad lists of its placement map. -/
structure Desc where
  entry : Word := 0#64
  count : Nat := 0
  crewsz : Nat := 0
  nquad : Nat := 0
  pmap : Nat := 0
  prio : Nat := 0
  tin : List Nat := []
  tout : List Nat := []
  consume : Nat := 0
  done : Nat := 0
  args : List Word := []
  maps : List (List Nat) := []
  mapObj : Nat := 0
  deriving DecidableEq, Repr

/-- A record as read when it became head (07:R183): its descriptor, or why it is broken (18:R396, 18:R397). -/
structure HeadRec where
  src : Nat
  desc : Desc
  tag : Word
  tabEnt : Option Nat
  /-- 0 sound; 2 refused; 3 crew cannot be placed. -/
  broken : Nat
  unread : Bool
  since : Option Nat
  deriving DecidableEq, Repr

/-- A dispatched launch (07:R196 to R201). -/
structure Launch where
  num : Nat
  ctx : Nat
  desc : Desc
  tag : Word
  tabEnt : Option Nat
  /-- Threads, or crews, injected or placed so far. -/
  injected : Nat
  lastClus : Nat
  /-- Packets sent to a quad and not acknowledged (07:R198). -/
  unack : Tab Nat
  /-- Packets whose train has entered a quad and whose acknowledgement is on its way. -/
  entered : Tab Nat
  prio : Nat
  /-- The quads and the live mask of the entry, as they stood at dispatch (07:R198, R183). -/
  set : List Nat
  live : W32
  deriving DecidableEq, Repr

/-- Hot or cold timing of a block (02:R36, 02:R37). -/
structure HotBlk where
  obj : Nat
  blk : Nat
  hotSince : Option Nat
  coldSince : Option Nat
  deriving DecidableEq, Repr

/-- The pre-emption ladder (14:R363, 21:R441). -/
inductive LadderStep where
  | idle
  | soft
  | halting
  | saving
  | scrubbing
  | restoring
  deriving DecidableEq, Repr

/-- A holder of, or waiter for, a sole grant with its cover (06:R156). -/
structure SoleReq where
  gk : Nat
  cover : List Nat
  /-- The mailboxes that its attempts have read. -/
  mails : List Nat := []
  deriving DecidableEq, Repr

/-- Pre-emption, scrub and token state of a slice (14:R363 to R367, 21:R441 to R445). -/
structure Switch where
  step : LadderStep := .idle
  out : Option Nat := none
  inn : Option Nat := none
  since : Nat := 0
  graceEnd : Bool := false
  outTenant : List Byte := []
  scrubbed : Bool := false
  bitmap : Nat := 0x1ffff
  scrubDtc : Word := 0#64
  /-- The incoming context waits for its token; it is held for a rescrub. -/
  tokenWait : Bool := false
  rescrub : Bool := false
  deriving DecidableEq, Repr

/-- The eight event counters of a slice (19:R417). -/
structure Counters where
  squash : Nat := 0
  sole : Nat := 0
  tabort : Nat := 0
  s2flt : Nat := 0
  refuse : Nat := 0
  meshrec : Nat := 0
  loop : Nat := 0
  audit : Nat := 0
  deriving DecidableEq, Repr

/-- A slice (14:R357). -/
structure Slice where
  nclus : Nat := 0
  sites : List Nat := []
  units : List Nat := []
  running : Option Nat := none
  devq : List Word := []
  heads : List HeadRec := []
  launches : List Launch := []
  nextLaunch : Nat := 0
  /-- Queue served last at each priority (07:R196), and the cluster of the last crew placed (07:R199). -/
  lastServed : Tab Nat := []
  lastCrewClus : Option Nat := none
  selStop : Bool := false
  /-- The cycle after the slice's last selection or refusal: one falls in a cycle (07:R196). -/
  selBy : Nat := 0
  /-- Completion records that wait at a stage-2 fault: address, bytes, and that a failed check of it counts (07:R201, 18:R396). -/
  dones : List (Nat × List Byte × Bool) := []
  hot : List HotBlk := []
  /-- The cycle the occupancies were sampled last (02:R36). -/
  sampledAt : Nat := 0
  /-- Replica updates submitted to the launch arbiter: object, block, quad, and whether it is added (02:R37 to R39). -/
  hotPending : List (Nat × Nat × Nat × Bool) := []
  ctrs : Counters := {}
  sw : Switch := {}
  draining : Bool := false
  injStopped : Bool := false
  deriving DecidableEq, Repr

/-- An entry of a code object (02:R43). -/
structure EntryRec where
  sym : Nat
  live : W32
  flags : Nat
  block : Nat
  word : Nat
  deriving DecidableEq, Repr

/-- A symbol of a code object (02:R45). -/
structure SymRec where
  name : List Byte
  kind : Nat
  flags : Nat
  index : Nat
  deriving DecidableEq, Repr

/-- A region or tile declaration as placed (02:R46, 08:R227, 08:R228). -/
structure RegionRec where
  sym : Nat
  space : Nat
  flags : Nat
  size : Nat
  addr : Nat
  deriving DecidableEq, Repr

/-- A loaded code object (02:R41 to R47). -/
structure Obj where
  entries : List EntryRec := []
  /-- The words of each block, kept for hot-code replication (02:R37). -/
  blocks : List (List W32) := []
  /-- The initial replica set of each block, ascending (02:R28), and quads added by hardware, the newest first. -/
  reps : List (List Nat) := []
  hots : List (List Nat) := []
  syms : List SymRec := []
  regions : List RegionRec := []
  /-- Symbol that each link slot refers to (02:R44). -/
  slots : List Nat := []
  trapEntry : Nat := 0
  lnkVa : Nat := 0
  lnkPa : Nat := 0
  loadNo : Nat := 0
  /-- The digest in its header (02:R41), which quotes carry (14:R375). -/
  digest : List Byte := []
  deriving DecidableEq, Repr

/-- A slot of the object table (02:R50). -/
structure ObjSlot where
  gen : Nat := 1
  /-- The function that loaded the object (02:R50; log 44). -/
  owner : Nat := 0
  obj : Option Obj := none
  retired : Bool := false
  /-- Unloaded, with code extents not freed yet (02:R52). -/
  dying : Bool := false
  deriving DecidableEq, Repr

/-- The debug control word of a context (18:R398). -/
structure DebugCtl where
  frz : Bool := false
  hreq : Bool := false
  hlt : Bool := false
  bpen : Bool := false
  deriving DecidableEq, Repr

/-- A graph of a fabric slot (13:R337, 13:R355). -/
structure Graph where
  nodes : List Word
  consts : Tab W32
  ratio : Nat
  wide : Bool
  banks : Nat
  deriving DecidableEq, Repr

/-- A call that waits at a fabric (13:R352). -/
structure FabCall where
  ck : Nat
  who : Pusher
  slot : Nat
  mbox : Nat
  ops : List Word
  deriving DecidableEq, Repr

/-- A fabric (13:R333). Bank word w of bank b at key 16384 b + w. -/
structure Fabric where
  bank : Tab W32 := []
  slots : Tab Graph := []
  /-- Calls in arrival order, and results that wait for a mail buffer: core key, mailbox and value. -/
  calls : List FabCall := []
  held : List (Nat × Nat × Word) := []
  deriving DecidableEq, Repr

/-- A collective of a unit (14:R368, 14:R369, 21:R451, 21:R452). -/
structure Collective where
  vf : Nat := 0
  sl : Nat := 0
  parts : Nat := 0
  steps : Nat := 0
  step : Nat := 0
  begun : Nat := 0
  /-- ACC640 sums of the current step, and participants that have contributed to it. -/
  acc : Tab (BitVec 640) := []
  stat : Tab (BitVec 4) := []
  got : List Nat := []
  /-- Contributions to later steps: participant, step and values. -/
  early : List (Nat × Nat × List W32) := []
  /-- The highest begun step that each participant has told of, once a pause asks for it (14:R369). -/
  told : Tab Nat := []
  results : List (List W32) := []
  state : Nat := 0
  paused : Bool := false
  /-- Saved with the image of its context and not resumed since; agreed at its pause; in use; and since when its context runs again. -/
  saved : Bool := false
  agreed : Bool := true
  posted : Bool := false
  restoredAt : Option Nat := none
  deriving DecidableEq, Repr

/-- A byte written to host or peer memory whose acknowledgement is outstanding: the gang, its physical and virtual address, what it
replaced, and that a far operation wrote it, which has its result (14:R372, 21:R455). -/
structure ExtWrite where
  gk : Nat
  pa : Nat
  va : Nat
  old : Byte
  far : Bool
  /-- When it was sent, in ns of `Clock.run` (07:R190, 21:R455). -/
  at_ : Nat := 0
  deriving DecidableEq, Repr

/-- What a context image saves of a slice (14:R361), with the save count and the cycle and time of the save. `slice` holds the launch
state; `fabs` the function's graphs and their banks, and the slice's calls. -/
structure Image where
  gangs : Tab Gang
  cores : Tab Core
  quads : Tab Quad
  clus : Tab Cluster
  local_ : List Host.Cell
  slice : Slice
  fabs : Tab Fabric
  /-- The collectives of the slice, at their units; and the writes of its gangs to host or peer memory that are not acknowledged. -/
  colls : Tab Collective
  unacked : List ExtWrite
  seq : Nat
  at_ : Nat
  /-- `Clock.run` at the save. -/
  run : Nat
  deriving DecidableEq, Repr

/-- A 32-byte record of the engine-fault log (20:R423). -/
structure EngLog where
  dtc : Word
  word : W32
  status : Nat
  lost : Nat
  gslot : Nat
  core : Nat
  launch : Nat
  va : Word
  deriving DecidableEq, Repr

/-- A resident context (14:R358). -/
structure Ctx where
  live : Bool := false
  vf : Nat := 0
  tenant : List Byte := []
  flags : Nat := 0
  nonce : List Byte := []
  tokbuf : Nat := 0
  grace : Nat := 2000
  kill : Nat := 1000
  hotcfg : Word := 0x0010_c020_e000_0000#64
  hotwin : Word := 0x0000_c350_000f_4240#64
  gangwait : Nat := 64
  agestep : Nat := 100
  shmib : Nat := 0
  s1root : Word := 0#64
  s1pool : Word := 0#64
  s2root : Nat := 0
  imageAt : Nat := 0
  tilb : Nat := 0
  tilePa : Nat := 0
  /-- Intermediate physical address of the overflow rings of the slice's quads, 1 MiB each (03:R69). -/
  ringAt : Nat := 0
  ntiles : Nat := 0
  /-- Format of each tile is in its header; storage allocated so far by the loader. -/
  objs : Tab ObjSlot := []
  /-- Heads of its queues and table submissions that were read while it did not run (07:R183), and descriptors that the loader has yet to
  submit, in order (08:R229). -/
  heads : List HeadRec := []
  submits : List Nat := []
  loads : Nat := 0
  dbg : DebugCtl := {}
  image : Option Image := none
  saves : Nat := 0
  key : Option Nat := none
  englog : List EngLog := []
  englogLost : Nat := 0
  created : Bool := false
  /-- The descriptor as the hypervisor gave it, for quotes (14:R375). -/
  desc : List Byte := []
  deriving DecidableEq, Repr

/-- What holds at a stage-2 fault: a gang, a copy channel, a core's head command at the matrix unit or at the fabrics, the selector's reading
of a source of a context, a completion record, or a walk that no access of the model makes (19:R406, 07:R201, 18:R396; log 57). -/
inductive S2User where
  | gang (gk : Nat)
  | chan (ck ch : Nat)
  | matrix (ck : Nat)
  | fabric (ck : Nat)
  | head (cx src : Nat)
  | done (cx a : Nat)
  | walk
  deriving DecidableEq, Repr

/-- A stage-2 fault record (19:R406) and the accesses that joined it. -/
structure S2Rec where
  ipa : Nat
  va : Word
  dtc : Word
  ctx : Nat
  kind : Nat
  core : Nat
  gslot : Nat
  joined : List S2User
  deriving DecidableEq, Repr

/-- A virtual function (14:R357). -/
structure Vf where
  /-- The slice it is bound to (log 41). -/
  slice : Nat := 0
  ways : Nat := 0xffff
  slots : Nat := 0
  refused : Nat := 0
  doneFail : Nat := 0
  full : Nat := 0
  dis : Nat := 0
  frgn : Nat := 0
  part : Nat := 0
  s2q : List (Nat × S2Rec) := []
  s2next : Nat := 0
  /-- Faults that wait without a record while the queue is full, in their order, with their slice (19:R406). -/
  s2over : List (Nat × S2Rec) := []
  /-- The dirty-address log, whether it has overflowed, and its length at the last clean (14:R370). -/
  dlog : List Nat := []
  dovf : Bool := false
  cleanAt : Nat := 0
  deriving DecidableEq, Repr

/-! ## Management space, fabrics, links, Ochre, health -/

/-- A work-queue record (07:R187). -/
structure WorkQueue where
  ring : Nat := 0
  ldep : Nat := 0
  vf : Nat := 0
  ctx : Nat := 0
  en : Bool := false
  head : Nat := 0
  tail : Nat := 0
  deriving DecidableEq, Repr

/-- A time-triggered entry (07:R191) with its next slot, running instances and pending instance (07:R193). -/
structure TabEntry where
  period : Nat := 0
  offset : Nat := 0
  target : Nat := 0
  ctl : Nat := 0
  slice : Nat := 0
  vf : Nat := 0
  skips : W32 := 0#32
  fired : Option Nat := none
  /-- When slots fired that a step of `dtc` left behind and that have yet to reach the arbiter, in ns of `Clock.run` (07:R192). -/
  late : List Nat := []
  running : Nat := 0
  /-- Instances that wait for the running ones to end (07:R193). -/
  pending : Nat := 0
  /-- Submissions whose descriptor could not be read yet. -/
  unread : Nat := 0
  deriving DecidableEq, Repr

/-- A kill record (18:R394). -/
structure KillRec where
  dtc : Word
  slice : Nat
  ctx : Nat
  cause : Nat
  last : Nat
  core : Nat
  gslot : Nat
  tc : Word
  tpc : Word
  tmk : Word
  tva : Word
  deriving DecidableEq, Repr

/-- A record of the device event log (21:R437). -/
structure EventRec where
  dtc : Word
  kind : Nat
  slice : Nat
  ctx : Nat
  vf : Nat
  detail : Nat
  value : Nat
  deriving DecidableEq, Repr

/-- The device time counter and its source (07:R190, 14:R374, 21:R456). -/
structure Clock where
  ns : Word := 0#64
  /-- Fraction of a nanosecond in 1/235,000: a cycle is 50/47 ns (00:R3), and a slew of 200 ppm adds or takes 50 of them. -/
  frac : Nat := 0
  /-- Nanoseconds counted at the rate of `dtc`, which no step changes: what times the intervals of 07:R190. -/
  run : Nat := 0
  /-- Error still to be slewed out, in 1/235,000 ns. The source in use and those present: 1 PTP, 2 pins, 3 peer transfer,
  4 holdover; 0 while there has been no source (24:R472). -/
  slew : Int := 0
  source : Nat := 0
  present : List Nat := []
  failedAt : Option Nat := none
  deriving DecidableEq, Repr

/-- A blocked mesh cycle under recovery: its buffers, steps taken, reported as a loop (19:R413, 19:R414). -/
structure Recovery where
  bufs : List Nat
  steps : Nat
  looped : Bool
  /-- The cycle of its last step. -/
  at_ : Nat := 0
  deriving DecidableEq, Repr

/-- Router tables where they differ from X-then-Y routing, at key (site * 608 + dest) * 16 + partition (04:R122). -/
structure Mesh where
  table : Tab Nat := []
  recs : List Recovery := []
  /-- The cycle the head flit of a buffer last moved in by a recovery (19:R413). -/
  moved : Tab Nat := []
  deriving DecidableEq, Repr

/-- Fjoad link, scale-up ports and peers (14:R371 to R373, 21:R453). -/
structure Links where
  lanesLost : List Nat := []
  portsDown : List Nat := []
  /-- The port routing tables of both I/O dies: peer p at key p of die 0 and 65536 + p of die 1 (14:R373). -/
  peers : Tab (List Nat) := []
  apertures : Tab (Nat × Nat) := []
  /-- Replayed flits of each link, and writes to host or peer memory not acknowledged. -/
  replays : Tab Nat := []
  unacked : List ExtWrite := []
  deriving DecidableEq, Repr

/-- A tenant session (21:R448). -/
structure Session where
  ck : Nat := 0
  opened : Bool := false
  keyed : Bool := false
  /-- Next record number in each direction, and records since the last key agreement. -/
  inNo : Nat := 0
  outNo : Nat := 0
  inKey : Nat := 0
  outKey : Nat := 0
  fails : Nat := 0
  dropped : Nat := 0
  deriving DecidableEq, Repr

/-- A scrub token to be signed (14:R365, R366): what it holds as its scrub ended, and where it goes. -/
structure TokReq where
  sl : Nat
  /-- The incoming context, its tenant, nonce and buffer, and whether it demands the token. -/
  inn : Nat
  inTenant : List Byte
  nonce : List Byte
  tokbuf : Nat
  demand : Bool
  outTenant : List Byte
  bitmap : Nat
  dtc : Word
  deriving DecidableEq, Repr

/-- Ochre (14:R359, 14:R360, 14:R365, 14:R375, 21:R447). -/
structure Ochre where
  /-- The number of the next key to be drawn, and of the device key of this boot, 0 before it is drawn (14:R359). -/
  nextKey : Nat := 1
  devKey : Nat := 0
  retires : Nat := 0
  tokens : Nat := 0
  /-- Tokens whose scrub has ended, in that order, and the token being signed. -/
  waiting : List TokReq := []
  signing : Option TokReq := none
  drbgBad : Bool := false
  keysUsed : Nat := 0
  sessions : Tab Session := []
  quotes : List (List Byte) := []
  deriving DecidableEq, Repr

/-- Health of one die, compute die 0 to 3 or I/O die 4 or 5 (24:R466 to R468, 01:R7). -/
structure Die where
  sramce : Nat := 0
  hbmce : Nat := 0
  ue : Nat := 0
  mxrx : Nat := 0
  p10 : Nat := 0xffff_ffff
  est : Nat := 0xffff_ffff
  warnAt : Nat := 8760
  critAt : Nat := 720
  warn : Bool := false
  crit : Bool := false
  valid : Bool := false
  /-- When the last estimate was made, in ns of `Clock.run`; and the hottest junction in degrees Celsius. -/
  at_ : Nat := 0
  temp : Nat := 0
  /-- An estimate or a write of thresholds in this cycle asks for a comparison (24:R468). -/
  cmp : Bool := false
  deriving DecidableEq, Repr

/-- Power, cooling and bring-up of the package (24:R469 to R472). -/
structure Power where
  on : Bool := true
  limit : Nat := 2300
  gate : Nat := 16
  watts : Nat := 0
  /-- Power over the last intervals of 10 us, the newest first and at most 100, in mW; and when the last one ended. -/
  past : List Nat := []
  last : Nat := 0
  thermal : Nat := 2300
  trip : Bool := false
  /-- `bootst`: the step that failed, and the last step completed (24:R472). -/
  err : Nat := 0
  step : Nat := 0
  /-- No context is restored until every junction is below 95 degrees. -/
  hot : Bool := false
  deriving DecidableEq, Repr

/-- The management space (14:R371): queue records, table, logs, counters and notifications. -/
structure Mgmt where
  queues : Tab WorkQueue := []
  table : Tab TabEntry := []
  kills : List KillRec := []
  events : List EventRec := []
  /-- Arbiter events taken in the cycle `arbAt`: two at most, one in a mesh cycle (07:R195). -/
  arbAt : Nat := 0
  arbN : Nat := 0
  wraps : Nat := 0
  notes : List (Nat × Nat) := []
  deriving DecidableEq, Repr

/-- Which agent acts next: an event, one issue of a gang, one unit of a copy channel's transfer, or idle cycles (log 1). -/
inductive Choice where
  | event (i : Instr)
  | issue (gk : Nat)
  | sector (ck ch : Nat)
  | tick (n : Nat)
  deriving DecidableEq, Repr

/-- Why a step stops. -/
inductive Fault where
  /-- Raised by `step` when the package has no power and no power-on stands next (24:R471, 24:R472). Safe: the hardware
  does nothing either. -/
  | noPower
  deriving DecidableEq, Repr

/-- Why the model gives an instruction no meaning. -/
inductive Refusal where
  /-- Answered only by an arm of `exec` that has no meaning yet. Safe: nothing is claimed of it. -/
  | notModelled (mnemonic : String)
  deriving DecidableEq, Repr

/-- The state of the package. -/
structure State where
  /-- Cycles since reset (00:R3). -/
  now : Nat
  /-- The gang in focus and the agents that act before it issues (log 1). -/
  cur : Nat
  agenda : List Choice
  /-- Counter of free values (log 5). -/
  fresh : Nat
  gangs : Tab Gang
  cores : Tab Core
  quads : Tab Quad
  clus : Tab Cluster
  slices : Tab Slice
  ctxs : Tab Ctx
  vfs : Tab Vf
  /-- Memory of every space by location, in canonical form (log 2, log 4). -/
  mem : List Host.Cell
  /-- Key that each 256-byte sector was last written under (14:R359). -/
  keyOf : Tab Nat
  /-- Every change of memory, the newest first: the locations it wrote and the bytes it replaced (06:R168). -/
  farHist : List (List (Nat × Byte))
  /-- The holder of the sole grant, and the requests behind it in their order: the arbiters give one at a time (06:R156). -/
  sole : List SoleReq
  fabs : Tab Fabric
  mgmt : Mgmt
  clock : Clock
  mesh : Mesh
  colls : Tab Collective
  links : Links
  ochre : Ochre
  dies : Tab Die
  /-- Contexts in which an uncorrected error has been found in this cycle (24:R465). -/
  errs : List Nat
  power : Power
  /-- The sites that are fused off, eight of each die (01:R8). -/
  fused : List Nat
  deriving DecidableEq, Repr

/-- The sites of a die, ascending: its eight columns, 19 rows (01:R10). -/
def dieSites (d : Nat) : List Nat := (List.range 152).map (fun i => 32 * (i / 8) + 8 * d + i % 8)

/-- Picks n of the sites of a die, one after another among those that are left. -/
def pickSites (d : Nat) : Nat → List Nat → List Nat
  | 0, _ => []
  | n + 1, l =>
    let x := l.getD (Config.fuse d n % l.length) 0
    x :: pickSites d n (l.filter (fun y => y != x))

/-- The disabled sites that the fuses of the package choose: eight of the 152 of each die (01:R8). -/
def fusedSites : List Nat := (List.range 4).flatMap (fun d => pickSites d 8 (dieSites d))

/-- The machine right after package reset, before its bring-up (24:R472): every table at its default, no slice built. -/
def State.reset : State where
  now := 0
  cur := 0
  agenda := []
  fresh := 0
  gangs := []
  cores := []
  quads := []
  clus := []
  slices := []
  ctxs := []
  vfs := []
  mem := []
  keyOf := []
  farHist := []
  sole := []
  fabs := []
  mgmt := {}
  clock := {}
  mesh := {}
  colls := []
  links := {}
  ochre := {}
  dies := []
  errs := []
  power := {}
  fused := fusedSites

end Sys2Proof.Machine
end

