-- ==== Sys2Proof/Machine/Bits.lean ====
section
/-!
DEFINITION. Bits, bytes, tables and the memory list: the helpers every other file of the machine uses.
-/

namespace Sys2Proof.Machine

/-! ## Tables -/

/-- The entry of a table at a key, or the default. -/
def tget {α : Type} (d : α) : Tab α → Nat → α
  | [], _ => d
  | (j, v) :: t, k => if j = k then v else tget d t k

/-- Sets the entry of a table at a key. -/
def tput {α : Type} : Tab α → Nat → α → Tab α
  | [], k, v => [(k, v)]
  | (j, w) :: t, k, v => if j = k then (k, v) :: t else (j, w) :: tput t k v

/-- Removes the entry of a table at a key. -/
def tdel {α : Type} (t : Tab α) (k : Nat) : Tab α :=
  t.filter (fun e => e.1 != k)

/-- Replaces element n of a list. -/
def lput {α : Type} : List α → Nat → α → List α
  | [], _, _ => []
  | _ :: t, 0, v => v :: t
  | h :: t, n + 1, v => h :: lput t n v

/-! ## The memory list -/

/-- What a byte that nothing has written reads as (log 2). -/
def unlistedByte (_ : Nat) : Byte := 0#8

/-- The byte at a location of the memory list. -/
def Memory.get : List Host.Cell → Nat → Byte
  | [], k => unlistedByte k
  | (a, v) :: t, k => if a = k then v else Memory.get t k

/-- Writes one byte and keeps the canonical form: writing what an unlisted location reads as removes the entry. -/
def Memory.set : List Host.Cell → Nat → Byte → List Host.Cell
  | [], k, v => if v = unlistedByte k then [] else [(k, v)]
  | (a, w) :: t, k, v =>
    if k < a then (if v = unlistedByte k then (a, w) :: t else (k, v) :: (a, w) :: t)
    else if k = a then (if v = unlistedByte k then t else (k, v) :: t)
    else (a, w) :: Memory.set t k v

/-- Every location of the list is above a bound and the list rises strictly, with no entry that reads as unlisted. -/
def Memory.above (b : Option Nat) : List Host.Cell → Bool
  | [] => true
  | (a, v) :: t =>
    (match b with
     | none => true
     | some x => decide (x < a)) && decide (v ≠ unlistedByte a) && Memory.above (some a) t

/-- The canonical form of the memory list. -/
def Memory.wf (m : List Host.Cell) : Bool := Memory.above none m

/-- Writes consecutive bytes. -/
def Memory.setBytes (m : List Host.Cell) (loc : Nat) : List Byte → List Host.Cell
  | [] => m
  | b :: t => Memory.setBytes (Memory.set m loc b) (loc + 1) t

/-- Writes a list of single bytes, the first one first. -/
def Memory.setAll (m : List Host.Cell) : List (Nat × Byte) → List Host.Cell
  | [] => m
  | (a, b) :: t => Memory.setAll (Memory.set m a b) t

/-! ## Bytes and numbers -/

/-- The little-endian value of a byte string (00:R4). -/
def leNat : List Byte → Nat
  | [] => 0
  | b :: t => b.toNat + 256 * leNat t

/-- The n bytes of a value, little-endian (00:R4). -/
def leBytes : Nat → Nat → List Byte
  | 0, _ => []
  | n + 1, v => BitVec.ofNat 8 v :: leBytes n (v / 256)

/-- Bits [hi:lo] of a number, `w` bits from `lo` up. -/
def nbits (v lo w : Nat) : Nat := (v / 2 ^ lo) % 2 ^ w

/-- Bits of a 64-bit word as a number. -/
def wbits (v : Word) (lo w : Nat) : Nat := nbits v.toNat lo w

/-- The low n bits of a number as a signed integer. -/
def sintN (v n : Nat) : Int :=
  let u := v % 2 ^ n
  if 2 * u < 2 ^ n then (u : Int) else (u : Int) - (2 ^ n : Nat)

/-- The n-bit pattern of an integer. -/
def patN (v : Int) (n : Nat) : Nat := (v.emod (2 ^ n : Nat)).toNat

/-- The low n bits of x, sign-extended to 64 bits (05:R134). -/
def sext (x : Nat) (n : Nat) : Word := BitVec.ofNat 64 (patN (sintN x n) 64)

/-- The low n bits of x, zero-extended to 64 bits (05:R134). -/
def zext (x : Nat) (n : Nat) : Word := BitVec.ofNat 64 (x % 2 ^ n)

/-- Places x of `w` bits at bit `lo` of v. -/
def insBits (v x lo w : Nat) : Nat :=
  v - 2 ^ lo * nbits v lo w + 2 ^ lo * (x % 2 ^ w)

/-- floor(log2 n) for n > 0, and 0 for 0. -/
def log2N (n : Nat) : Nat := n.log2

/-- The numbers of the set bits of a mask of 32 lanes, ascending. -/
def lanesOf (m : W32) : List Nat := (List.range 32).filter (fun l => m.getLsbD l)

/-- The mask of a list of lanes. -/
def maskOf : List Nat → W32
  | [] => 0#32
  | l :: t => BitVec.ofNat 32 (2 ^ l) ||| maskOf t

/-- The lowest set lane of a mask, or 0. -/
def lowLane (m : W32) : Nat := (lanesOf m).headD 0

/-- The union of two lists of numbers, as a list without repeats. -/
def addSet (s : List Nat) : List Nat → List Nat
  | [] => s
  | x :: t => addSet (if s.contains x then s else s ++ [x]) t

/-- Whether two lists of numbers share an element. -/
def meets (a b : List Nat) : Bool := a.any (fun x => b.contains x)

/-- The 256-byte sectors of n bytes at a location (06:R148). -/
def sectorsOf (loc n : Nat) : List Nat :=
  (List.range ((loc + n - 1) / 256 + 1 - loc / 256)).map (fun i => loc / 256 + i)

/-- Rounds x up to a multiple of n. -/
def roundUp (x n : Nat) : Nat := (x + n - 1) / n * n

/-- Inserts into a list sorted by a key, after the elements of equal key. -/
def insertBy {α : Type} (key : α → Nat) (x : α) : List α → List α
  | [] => [x]
  | y :: t => if key x < key y then x :: y :: t else y :: insertBy key x t

/-- A stable sort by a key. -/
def sortBy {α : Type} (key : α → Nat) : List α → List α
  | [] => []
  | x :: t =>
    let s := sortBy key t
    -- the head goes before the elements of equal key
    s.takeWhile (fun y => key y < key x) ++ x :: s.dropWhile (fun y => key y < key x)

/-- The element of least key, the first of several. -/
def minBy {α : Type} (key : α → Nat) : List α → Option α
  | [] => none
  | x :: t =>
    match minBy key t with
    | none => some x
    | some y => if key y < key x then some y else some x

/-! ## Keys and locations (log 4) -/

def ckOf (sl core : Nat) : Nat := sl * 8192 + core
def slOfCk (ck : Nat) : Nat := ck / 8192
def coreOfCk (ck : Nat) : Nat := ck % 8192
def gkOf (ck slot : Nat) : Nat := ck * 4 + slot
def ckOfGk (gk : Nat) : Nat := gk / 4
def slotOfGk (gk : Nat) : Nat := gk % 4
def slOfGk (gk : Nat) : Nat := gk / 32768
def qkOfGk (gk : Nat) : Nat := gk / 16
def qkOfCk (ck : Nat) : Nat := ck / 4
def clkOfGk (gk : Nat) : Nat := gk / 32
def clkOfCk (ck : Nat) : Nat := ck / 8
def clkOfQk (qk : Nat) : Nat := qk / 2
def slOfQk (qk : Nat) : Nat := qk / 2048
def quadOfQk (qk : Nat) : Nat := qk % 2048
def qkOf (sl q : Nat) : Nat := sl * 2048 + q
def slOfClk (clk : Nat) : Nat := clk / 1024
def clusOfClk (clk : Nat) : Nat := clk % 1024
def clkOf (sl c : Nat) : Nat := sl * 1024 + c
def cxOf (sl cx : Nat) : Nat := sl * 8 + cx

/-- Location of a byte of a core's TCM. -/
def tcmLoc (ck off : Nat) : Nat := 2 ^ 52 + ck * 2 ^ 15 + off

/-- Location of a storage byte of a cluster's scratchpad. -/
def scrLoc (clk b : Nat) : Nat := 2 ^ 50 + clk * 2 ^ 19 + b

/-- The cluster of a location of a scratchpad, or the core of one of TCM. -/
def unitOfLoc (loc : Nat) : Nat := if loc < 2 ^ 52 then (loc - 2 ^ 50) / 2 ^ 19 else (loc - 2 ^ 52) / 2 ^ 15

/-- Location of a byte of the shared SRAM by its physical offset. -/
def shrLoc (o : Nat) : Nat := 2 ^ 48 + o

/-- Location of a byte of a peer's memory by the peer's number and its address there (14:R372, R373). -/
def peerLoc (peer addr : Nat) : Nat := 2 ^ 80 + peer * 2 ^ 64 + addr % 2 ^ 64

/-- The space of a location: 0 global, 1 host or peer, 2 shared SRAM, 3 scratchpad, 4 TCM. -/
def spaceOfLoc (loc : Nat) : Nat :=
  if 2 ^ 80 ≤ loc then 1
  else if loc < 2 ^ 47 then 0
  else if loc < 2 ^ 48 then 1
  else if loc < 2 ^ 50 then 2
  else if loc < 2 ^ 52 then 3
  else 4

end Sys2Proof.Machine
end

