-- ==== Sys2Proof/Machine/Crypto.lean ====
section
/-!
DEFINITION. The ciphers and digests that the spec names: SHA-384 (02:R41, 14:R366, R375) and AES-256 in XTS mode (14:R359, R360).
-/

namespace Sys2Proof.Machine

/-! ## SHA-384 (02:R41) -/

def shaKA : List Word :=
  [0x428a2f98d728ae22#64, 0x7137449123ef65cd#64, 0xb5c0fbcfec4d3b2f#64, 0xe9b5dba58189dbbc#64] ++
  [0x3956c25bf348b538#64, 0x59f111f1b605d019#64, 0x923f82a4af194f9b#64, 0xab1c5ed5da6d8118#64] ++
  [0xd807aa98a3030242#64, 0x12835b0145706fbe#64, 0x243185be4ee4b28c#64, 0x550c7dc3d5ffb4e2#64] ++
  [0x72be5d74f27b896f#64, 0x80deb1fe3b1696b1#64, 0x9bdc06a725c71235#64, 0xc19bf174cf692694#64] ++
  [0xe49b69c19ef14ad2#64, 0xefbe4786384f25e3#64, 0x0fc19dc68b8cd5b5#64, 0x240ca1cc77ac9c65#64] ++
  [0x2de92c6f592b0275#64, 0x4a7484aa6ea6e483#64, 0x5cb0a9dcbd41fbd4#64, 0x76f988da831153b5#64] ++
  [0x983e5152ee66dfab#64, 0xa831c66d2db43210#64, 0xb00327c898fb213f#64, 0xbf597fc7beef0ee4#64]

def shaKB : List Word :=
  [0xc6e00bf33da88fc2#64, 0xd5a79147930aa725#64, 0x06ca6351e003826f#64, 0x142929670a0e6e70#64] ++
  [0x27b70a8546d22ffc#64, 0x2e1b21385c26c926#64, 0x4d2c6dfc5ac42aed#64, 0x53380d139d95b3df#64] ++
  [0x650a73548baf63de#64, 0x766a0abb3c77b2a8#64, 0x81c2c92e47edaee6#64, 0x92722c851482353b#64] ++
  [0xa2bfe8a14cf10364#64, 0xa81a664bbc423001#64, 0xc24b8b70d0f89791#64, 0xc76c51a30654be30#64] ++
  [0xd192e819d6ef5218#64, 0xd69906245565a910#64, 0xf40e35855771202a#64, 0x106aa07032bbd1b8#64] ++
  [0x19a4c116b8d2d0c8#64, 0x1e376c085141ab53#64, 0x2748774cdf8eeb99#64, 0x34b0bcb5e19b48a8#64] ++
  [0x391c0cb3c5c95a63#64, 0x4ed8aa4ae3418acb#64, 0x5b9cca4f7763e373#64, 0x682e6ff3d6b2b8a3#64]

def shaKC : List Word :=
  [0x748f82ee5defb2fc#64, 0x78a5636f43172f60#64, 0x84c87814a1f0ab72#64, 0x8cc702081a6439ec#64] ++
  [0x90befffa23631e28#64, 0xa4506cebde82bde9#64, 0xbef9a3f7b2c67915#64, 0xc67178f2e372532b#64] ++
  [0xca273eceea26619c#64, 0xd186b8c721c0c207#64, 0xeada7dd6cde0eb1e#64, 0xf57d4f7fee6ed178#64] ++
  [0x06f067aa72176fba#64, 0x0a637dc5a2c898a6#64, 0x113f9804bef90dae#64, 0x1b710b35131c471b#64] ++
  [0x28db77f523047d84#64, 0x32caab7b40c72493#64, 0x3c9ebe0a15c9bebc#64, 0x431d67c49c100d4c#64] ++
  [0x4cc5d4becb3e42b6#64, 0x597f299cfc657e2a#64, 0x5fcb6fab3ad6faec#64, 0x6c44198c4a475817#64]

/-- The 80 round constants. -/
def shaK : List Word := shaKA ++ shaKB ++ shaKC

/-- The state that SHA-384 starts from. -/
def shaInit : List Word :=
  [0xcbbb9d5dc1059ed8#64, 0x629a292a367cd507#64, 0x9159015a3070dd17#64, 0x152fecd8f70e5939#64] ++
  [0x67332667ffc00b31#64, 0x8eb44a8768581511#64, 0xdb0c2e0d64f98fa7#64, 0x47b5481dbefa4fa4#64]

/-- The big-endian value of a byte string. -/
def beNat (bs : List Byte) : Nat := bs.foldl (fun n b => 256 * n + b.toNat) 0

/-- The n bytes of a value, big-endian. -/
def beBytes (n v : Nat) : List Byte := (leBytes n v).reverse

/-- The message padded to whole blocks of 128 bytes. -/
def shaPad (bs : List Byte) : List Byte :=
  let z := (239 - bs.length % 128) % 128
  bs ++ 0x80#8 :: List.replicate z 0#8 ++ beBytes 16 (8 * bs.length)

/-- The message schedule beyond its first 16 words: `w` holds the last 16, the oldest first. -/
def shaWords : Nat → List Word → List Word
  | 0, _ => []
  | n + 1, w =>
    let at_ (i : Nat) : Word := w.getD i 0#64
    let s0 (x : Word) : Word := x.rotateRight 1 ^^^ x.rotateRight 8 ^^^ (x >>> 7)
    let s1 (x : Word) : Word := x.rotateRight 19 ^^^ x.rotateRight 61 ^^^ (x >>> 6)
    let v := s1 (at_ 14) + at_ 9 + s0 (at_ 1) + at_ 0
    v :: shaWords n (w.drop 1 ++ [v])

/-- One round: the eight working words after a round constant and a schedule word. -/
def shaRound (h : List Word) (kw : Word × Word) : List Word :=
  let at_ (i : Nat) : Word := h.getD i 0#64
  let (a, b, c, e, f, g) := (at_ 0, at_ 1, at_ 2, at_ 4, at_ 5, at_ 6)
  let t1 := at_ 7 + (e.rotateRight 14 ^^^ e.rotateRight 18 ^^^ e.rotateRight 41) + ((e &&& f) ^^^ (~~~e &&& g)) + kw.1 + kw.2
  let t2 := (a.rotateRight 28 ^^^ a.rotateRight 34 ^^^ a.rotateRight 39) + ((a &&& b) ^^^ (a &&& c) ^^^ (b &&& c))
  [t1 + t2, a, b, c, at_ 3 + t1, e, f, g]

/-- Takes one block in. -/
def shaBlock (h : List Word) (blk : List Byte) : List Word :=
  let w := (List.range 16).map (fun i => BitVec.ofNat 64 (beNat ((blk.drop (8 * i)).take 8)))
  let r := (shaK.zip (w ++ shaWords 64 w)).foldl shaRound h
  List.zipWith (· + ·) h r

/-- Takes n blocks in. -/
def shaGo : Nat → List Word → List Byte → List Word
  | 0, h, _ => h
  | n + 1, h, bs => shaGo n (shaBlock h (bs.take 128)) (bs.drop 128)

/-- SHA-384 of a byte string. -/
def sha384 (bs : List Byte) : List Byte :=
  let m := shaPad bs
  ((shaGo (m.length / 128) shaInit m).take 6).flatMap (fun w => beBytes 8 w.toNat)

/-! ## AES-256 (14:R359) -/

/-- Multiplication by x in the field of AES. -/
def gfX (b : Byte) : Byte := (b <<< 1) ^^^ (if b.getLsbD 7 then 0x1b#8 else 0#8)

/-- Multiplication in the field of AES, bit by bit of the second factor. -/
def gfMul (a b : Byte) : Byte :=
  ((List.range 8).foldl (fun (acc : Byte × Byte) i => (if b.getLsbD i then acc.1 ^^^ acc.2 else acc.1, gfX acc.2)) (0#8, a)).1

/-- The inverse in the field: the power 254; 0 for 0. -/
def gfInv (a : Byte) : Byte :=
  let a2 := gfMul a a
  let a4 := gfMul a2 a2
  let a8 := gfMul a4 a4
  let a16 := gfMul a8 a8
  let a32 := gfMul a16 a16
  let a64 := gfMul a32 a32
  gfMul (gfMul (gfMul a2 a4) (gfMul a8 a16)) (gfMul (gfMul a32 a64) (gfMul a64 a64))

/-- The substitution of one byte, and its inverse. -/
def sBox (a : Byte) : Byte :=
  let b := gfInv a
  b ^^^ b.rotateLeft 1 ^^^ b.rotateLeft 2 ^^^ b.rotateLeft 3 ^^^ b.rotateLeft 4 ^^^ 0x63#8
def sBoxInv (a : Byte) : Byte := gfInv (a.rotateLeft 1 ^^^ a.rotateLeft 3 ^^^ a.rotateLeft 6 ^^^ 0x05#8)

/-- The 60 words of the key schedule, four bytes each, from the last eight words made so far. -/
def aesKeys : Nat → Nat → List (List Byte) → List (List Byte)
  | 0, _, _ => []
  | n + 1, i, w =>
    let t := w.getD 7 []
    let t := if i % 8 = 0 then
        match (t.drop 1 ++ t.take 1).map sBox with
        | a :: r => (a ^^^ ((List.range (i / 8 - 1)).foldl (fun x _ => gfX x) 1#8)) :: r
        | [] => []
      else if i % 8 = 4 then t.map sBox else t
    let v := List.zipWith (· ^^^ ·) (w.getD 0 []) t
    v :: aesKeys n (i + 1) (w.drop 1 ++ [v])

/-- The 15 round keys of a 32-byte key. -/
def aesRoundKeys (key : List Byte) : List (List Byte) :=
  let w := (List.range 8).map (fun i => (key.drop (4 * i)).take 4)
  let ws := w ++ aesKeys 52 8 w
  (List.range 15).map (fun i => ((ws.drop (4 * i)).take 4).flatten)

/-- Rotates row r of the state by r columns, left, or right for the inverse. -/
def aesShift (inv : Bool) (s : List Byte) : List Byte :=
  (List.range 16).map (fun i =>
    let r := i % 4
    let c := if inv then (i / 4 + 4 - r) % 4 else (i / 4 + r) % 4
    s.getD (4 * c + r) 0#8)

/-- Multiplies each column by the circulant matrix of a row. -/
def aesMix (row : List Byte) (s : List Byte) : List Byte :=
  (List.range 16).map (fun i =>
    (List.range 4).foldl (fun acc j => acc ^^^ gfMul (s.getD (4 * (i / 4) + j) 0#8) (row.getD ((j + 4 - i % 4) % 4) 0#8)) 0#8)

def xorBytes (a b : List Byte) : List Byte := List.zipWith (· ^^^ ·) a b

/-- Encrypts a block of 16 bytes. -/
def aesEnc (key blk : List Byte) : List Byte :=
  let ks := aesRoundKeys key
  let k (i : Nat) : List Byte := ks.getD i []
  let s := (List.range 13).foldl (fun s i => xorBytes (aesMix [2#8, 3#8, 1#8, 1#8] (aesShift false (s.map sBox))) (k (i + 1))) (xorBytes blk (k 0))
  xorBytes (aesShift false (s.map sBox)) (k 14)

/-- Decrypts a block of 16 bytes. -/
def aesDec (key blk : List Byte) : List Byte :=
  let ks := aesRoundKeys key
  let k (i : Nat) : List Byte := ks.getD i []
  let s := (List.range 13).foldl (fun s i => aesMix [14#8, 11#8, 13#8, 9#8] (xorBytes ((aesShift true s).map sBoxInv) (k (13 - i)))) (xorBytes blk (k 14))
  xorBytes ((aesShift true s).map sBoxInv) (k 0)

/-! ## XTS (14:R359, R360) -/

/-- A tweak times x in the field of XTS. -/
def xtsNext (t : List Byte) : List Byte :=
  let v := 2 * leNat t
  leBytes 16 (if v < 2 ^ 128 then v else Nat.xor (v % 2 ^ 128) 0x87)

/-- What block j of a sector is masked with: the tweak encrypted under the second half of the key, times x to the j. -/
def xtsMask (key : List Byte) (tweak j : Nat) : List Byte :=
  (List.range j).foldl (fun t _ => xtsNext t) (aesEnc (key.drop 32) (leBytes 16 tweak))

/-- Block j of a sector of a tweak, encrypted and decrypted under a key of 64 bytes. -/
def xtsEnc (key : List Byte) (tweak j : Nat) (blk : List Byte) : List Byte :=
  let m := xtsMask key tweak j
  xorBytes (aesEnc (key.take 32) (xorBytes blk m)) m
def xtsDec (key : List Byte) (tweak j : Nat) (blk : List Byte) : List Byte :=
  let m := xtsMask key tweak j
  xorBytes (aesDec (key.take 32) (xorBytes blk m)) m

/-- The 64 bytes of a key that Ochre has drawn, by its number (log 5). -/
def keyBytes (k : Nat) : List Byte := leBytes 64 (Config.keyBits k).toNat

/-- How a block that was written under one key reads under another (14:R360). -/
def xtsGarble (written read tweak j : Nat) (blk : List Byte) : List Byte :=
  xtsDec (keyBytes read) tweak j (xtsEnc (keyBytes written) tweak j blk)

end Sys2Proof.Machine
end

