-- ==== Sys2Proof/Machine/Num.lean ====
section
/-!
DEFINITION. Number formats, rounding, conversions and exact accumulation (05:R127 to R147).

An exact non-negative real is a fraction `num / den` of naturals, its sign beside it. A set of flags is a 5-bit vector
laid out as `fflags` (05:R131).
-/

namespace Sys2Proof.Machine

/-- A set of `fflags` bits: [4] invalid, [3] divzero, [2] overflow, [1] underflow, [0] inexact. -/
abbrev Flags5 := BitVec 5

def flInvalid : Flags5 := 16#5
def flDivzero : Flags5 := 8#5
def flOverflow : Flags5 := 4#5
def flUnderflow : Flags5 := 2#5
def flInexact : Flags5 := 1#5

/-- Parameters of a floating format (05:R127, 05:R128): width, mantissa bits, bias, exponents, the significand of maxfin
as a p-bit integer, the canonical NaN and +Inf (none for E4M3). -/
structure FmtP where
  w : Nat
  mb : Nat
  bias : Nat
  emin : Int
  emax : Int
  maxm : Nat
  nan : Nat
  inf : Option Nat

/-- Format codes 0 to 4: F32, BF16, F16, E4M3, E5M2 (05:R127, 05:R128). -/
def fmtP : Nat → FmtP
  | 0 => ⟨32, 23, 127, -126, 127, 0xff_ffff, 0x7fc0_0000, some 0x7f80_0000⟩
  | 1 => ⟨16, 7, 127, -126, 127, 0xff, 0x7fc0, some 0x7f80⟩
  | 2 => ⟨16, 10, 15, -14, 15, 0x7ff, 0x7e00, some 0x7c00⟩
  | 3 => ⟨8, 3, 7, -6, 8, 14, 0x7f, none⟩
  | _ => ⟨8, 2, 15, -14, 15, 7, 0x7e, some 0x7c⟩

/-- Element width in bits of a format code (05:R127). -/
def fmtBits : Nat → Nat
  | 0 => 32 | 1 => 16 | 2 => 16 | 3 => 8 | 4 => 8 | 5 => 4 | 6 => 3 | 7 => 8 | 8 => 16 | 9 => 32 | 10 => 64 | 11 => 96
  | _ => 640

/-- A floating value taken apart: `m * 2 ^ e` with a sign, an infinity, or a NaN that is signalling or not. -/
inductive FVal where
  | fin (neg : Bool) (m : Nat) (e : Int)
  | inf (neg : Bool)
  | nan (sig : Bool)
  deriving DecidableEq, Repr

/-- Takes apart a bit pattern of format f (05:R127, 05:R129). -/
def unpack (f x : Nat) : FVal :=
  let p := fmtP f
  let neg := nbits x (p.w - 1) 1 == 1
  let ew := p.w - 1 - p.mb
  let e := nbits x p.mb ew
  let m := nbits x 0 p.mb
  let top := 2 ^ ew - 1
  if f == 3 then
    if e == top && m == 7 then .nan false
    else if e == 0 then .fin neg m (p.emin - p.mb)
    else .fin neg (m + 2 ^ p.mb) ((e : Int) - p.bias - p.mb)
  else if e == top then
    if m == 0 then .inf neg
    else .nan (f != 4 && m < 2 ^ (p.mb - 1))
  else if e == 0 then .fin neg m (p.emin - p.mb)
  else .fin neg (m + 2 ^ p.mb) ((e : Int) - p.bias - p.mb)

def FVal.isNan : FVal → Bool
  | .nan _ => true
  | _ => false

def FVal.isSnan : FVal → Bool
  | .nan s => s
  | _ => false

def FVal.isInf : FVal → Bool
  | .inf _ => true
  | _ => false

def FVal.isZero : FVal → Bool
  | .fin _ m _ => m == 0
  | _ => false

def FVal.sign : FVal → Bool
  | .fin s _ _ => s
  | .inf s => s
  | .nan _ => false

def FVal.neg : FVal → FVal
  | .fin s m e => .fin (!s) m e
  | .inf s => .inf (!s)
  | .nan s => .nan s

/-- `m * 2 ^ e` as a fraction. -/
def scaleNum (m : Nat) (e : Int) : Nat := m * 2 ^ e.toNat
def scaleDen (e : Int) : Nat := 2 ^ (-e).toNat

/-- `round_int` of `num / den` under mode m, `neg` the sign of x (05:R132). -/
def roundInt (m : Nat) (neg : Bool) (num den : Nat) : Nat :=
  let q := num / den
  let r := num % den
  if r = 0 then q
  else
    let up : Bool :=
      match m with
      | 0 => decide (2 * r > den) || (2 * r == den && q % 2 == 1)
      | 1 => false
      | 2 => !neg
      | 3 => neg
      | _ => decide (2 * r ≥ den)
    if up then q + 1 else q

/-- floor(log2(num / den)) of a positive fraction. -/
def floorLog2 (num den : Nat) : Int :=
  let e : Int := (log2N num : Int) - (log2N den : Int)
  if num * scaleDen e < den * 2 ^ e.toNat then e - 1 else e

/-- `n * 2 ^ (e - p + 1)` in format f, n at most `2 ^ p` and a normal or subnormal significand at exponent e. -/
def encodeF (f : Nat) (neg : Bool) (n : Nat) (e : Int) : Nat :=
  let p := fmtP f
  let s := if neg then 2 ^ (p.w - 1) else 0
  if n < 2 ^ p.mb then s + n
  else s + ((e + p.bias).toNat * 2 ^ p.mb + (n - 2 ^ p.mb))

/-- The largest finite value of format f, signed. -/
def maxfinF (f : Nat) (neg : Bool) : Nat := encodeF f neg (fmtP f).maxm (fmtP f).emax

/-- Infinity of format f. -/
def infF (f : Nat) (neg : Bool) : Nat :=
  (if neg then 2 ^ ((fmtP f).w - 1) else 0) + (fmtP f).inf.getD 0

def nanF (f : Nat) : Nat := (fmtP f).nan

/-- `round_frm` of the exact real `num / den` (05:R132): the bit pattern and the flags. -/
def roundFrm (f m : Nat) (sat neg : Bool) (num den : Nat) : Nat × Flags5 :=
  let p := fmtP f
  if num = 0 then (if neg then 2 ^ (p.w - 1) else 0, 0#5)
  else
    let lg := floorLog2 num den
    let e := if lg < p.emin then p.emin else lg
    let sh : Int := (p.mb : Int) - e
    let n := roundInt m neg (num * 2 ^ sh.toNat) (den * 2 ^ (-sh).toNat)
    let exact := n * (den * 2 ^ (-sh).toNat) == num * 2 ^ sh.toNat
    let fl : Flags5 := if exact then 0#5 else flInexact
    let fl := if lg < p.emin && !exact then fl ||| flUnderflow else fl
    if e > p.emax || (e == p.emax && n > p.maxm) then
      let fl := fl ||| flOverflow ||| flInexact
      if sat || m == 1 || (m == 2 && neg) || (m == 3 && !neg) then (maxfinF f neg, fl)
      else if f == 3 then (nanF f, fl ||| flInvalid)
      else (infF f neg, fl)
    else (encodeF f neg n e, fl)

/-- `round_frm` of an infinity (05:R132). -/
def roundFrmInf (f : Nat) (sat neg : Bool) : Nat × Flags5 :=
  if sat then (maxfinF f neg, 0#5)
  else if f == 3 then (nanF f, flInvalid)
  else (infF f neg, 0#5)

/-- `round_frm` of `m2 * 2 ^ e`. -/
def roundScaled (f m : Nat) (sat neg : Bool) (m2 : Nat) (e : Int) : Nat × Flags5 :=
  roundFrm f m sat neg (scaleNum m2 e) (scaleDen e)

/-- `round_frm` of the integer v times `2 ^ e`; 0 gives +0. -/
def roundIntScaled (f m : Nat) (v : Int) (e : Int) : Nat × Flags5 :=
  roundScaled f m false (decide (v < 0)) v.natAbs e

def nan32 : Nat := 0x7fc0_0000

/-! ## Conversions (05:R133) -/

/-- An element of a narrower floating format as F32. -/
def widen (f x : Nat) : Nat × Flags5 :=
  match unpack f x with
  | .nan sig => (nan32, if sig then flInvalid else 0#5)
  | .inf s => (infF 0 s, 0#5)
  | .fin s m e => ((roundScaled 0 0 false s m e).1, 0#5)

/-- F32 to a narrower floating format. -/
def narrow (f m : Nat) (sat : Bool) (x : Nat) : Nat × Flags5 :=
  match unpack 0 x with
  | .nan sig => (nanF f, if sig then flInvalid else 0#5)
  | .inf s => roundFrmInf f sat s
  | .fin s a e => roundScaled f m sat s a e

/-- An integer to F32. -/
def intToF32 (m : Nat) (v : Int) : Nat × Flags5 := roundIntScaled 0 m v 0

/-- F32 to an integer between bounds. -/
def f32ToInt (m : Nat) (lo hi : Int) (x : Nat) : Int × Flags5 :=
  match unpack 0 x with
  | .nan _ => (0, flInvalid)
  | .inf s => (if s then lo else hi, flInvalid)
  | .fin s a e =>
    let n := roundInt m s (scaleNum a e) (scaleDen e)
    let v : Int := if s then -(n : Int) else n
    if v < lo then (lo, flInvalid)
    else if v > hi then (hi, flInvalid)
    else (v, if n * scaleDen e == scaleNum a e then 0#5 else flInexact)

/-! ## Arithmetic of F32 (11:R288) -/

/-- The sum of two non-NaN values rounded once (11:R288). -/
def sumF (m : Nat) (x y : FVal) : Nat × Flags5 :=
  match x, y with
  | .inf s, .inf t => if s == t then (infF 0 s, 0#5) else (nan32, flInvalid)
  | .inf s, _ => (infF 0 s, 0#5)
  | _, .inf t => (infF 0 t, 0#5)
  | .fin s a e, .fin t b g =>
    let lo := if e < g then e else g
    let va : Int := (a * 2 ^ (e - lo).toNat : Nat)
    let vb : Int := (b * 2 ^ (g - lo).toNat : Nat)
    let v := (if s then -va else va) + (if t then -vb else vb)
    if v = 0 then
      let neg := if a == 0 && b == 0 && s == t then s else m == 3
      (if neg then 0x8000_0000 else 0, 0#5)
    else roundIntScaled 0 m v lo
  | _, _ => (nan32, 0#5)

/-- The exact product of two non-NaN values; none for 0 times infinity. -/
def prodF (x y : FVal) : Option FVal :=
  match x, y with
  | .fin s a e, .fin t b g => some (.fin (s != t) (a * b) (e + g))
  | .inf s, .fin t b _ => if b = 0 then none else some (.inf (s != t))
  | .fin s a _, .inf t => if a = 0 then none else some (.inf (s != t))
  | .inf s, .inf t => some (.inf (s != t))
  | _, _ => none

def invIf (b : Bool) : Flags5 := if b then flInvalid else 0#5

/-- `fadd` (11:R288). -/
def fAdd (m a b : Nat) : Nat × Flags5 :=
  let x := unpack 0 a
  let y := unpack 0 b
  if x.isNan || y.isNan then (nan32, invIf (x.isSnan || y.isSnan)) else sumF m x y

def fNegBits (a : Nat) : Nat := if nbits a 31 1 = 1 then a - 2 ^ 31 else a + 2 ^ 31

/-- `fsub`. -/
def fSub (m a b : Nat) : Nat × Flags5 :=
  let x := unpack 0 a
  let y := unpack 0 b
  if x.isNan || y.isNan then (nan32, invIf (x.isSnan || y.isSnan)) else sumF m x y.neg

/-- `fmul`. -/
def fMul (m a b : Nat) : Nat × Flags5 :=
  let x := unpack 0 a
  let y := unpack 0 b
  if x.isNan || y.isNan then (nan32, invIf (x.isSnan || y.isSnan))
  else
    match prodF x y with
    | none => (nan32, flInvalid)
    | some (.inf s) => (infF 0 s, 0#5)
    | some (.fin s p e) => roundScaled 0 m false s p e
    | some (.nan _) => (nan32, 0#5)

/-- The fused members: `(-1)^np * a * b + (-1)^nd * d`, one rounding. -/
def fFused (np nd : Bool) (m a b d : Nat) : Nat × Flags5 :=
  let x := unpack 0 a
  let y := unpack 0 b
  let z := unpack 0 d
  let sig := x.isSnan || y.isSnan || z.isSnan
  if x.isNan || y.isNan then (nan32, invIf sig)
  else
    match prodF x y with
    | none => (nan32, flInvalid)
    | some p =>
      if z.isNan then (nan32, invIf sig)
      else sumF m (if np then p.neg else p) (if nd then z.neg else z)

/-- Order of two finite or infinite values, -0 below +0: a is at most b. -/
def leF (x y : FVal) : Bool :=
  match x, y with
  | .inf s, .inf t => s || !t
  | .inf s, _ => s
  | _, .inf t => !t
  | .fin s a e, .fin t b g =>
    let lo := if e < g then e else g
    let va : Int := (a * 2 ^ (e - lo).toNat : Nat)
    let vb : Int := (b * 2 ^ (g - lo).toNat : Nat)
    let u := if s then -va else va
    let v := if t then -vb else vb
    if u = v then s || !t else decide (u < v)
  | _, _ => false

/-- Numeric equality of two non-NaN values: +0 and -0 are equal. -/
def eqF (x y : FVal) : Bool :=
  (leF x y && leF y x) || (x.isZero && y.isZero)

/-- `fmin` (mx = false) and `fmax`. -/
def fMinMax (mx : Bool) (a b : Nat) : Nat × Flags5 :=
  let x := unpack 0 a
  let y := unpack 0 b
  let fl := invIf (x.isSnan || y.isSnan)
  if x.isNan && y.isNan then (nan32, fl)
  else if x.isNan then (b, fl)
  else if y.isNan then (a, fl)
  else if mx then (if leF y x then a else b, 0#5)
  else (if leF x y then a else b, 0#5)

def fAbs (a : Nat) : Nat × Flags5 :=
  let x := unpack 0 a
  if x.isNan then (nan32, invIf x.isSnan) else (nbits a 0 31, 0#5)

def fNeg (a : Nat) : Nat × Flags5 :=
  let x := unpack 0 a
  if x.isNan then (nan32, invIf x.isSnan) else (fNegBits a, 0#5)

/-- `fcpys`: the magnitude of a with the sign bit of b. -/
def fCpys (a b : Nat) : Nat × Flags5 :=
  let x := unpack 0 a
  let y := unpack 0 b
  if x.isNan then (nan32, invIf x.isSnan)
  else (nbits a 0 31 + 2 ^ 31 * nbits b 31 1, invIf y.isSnan)

/-- `fclass`: exactly one bit. -/
def fClass (a : Nat) : Nat :=
  match unpack 0 a with
  | .nan true => 256
  | .nan false => 512
  | .inf true => 1
  | .inf false => 128
  | .fin s m _ =>
    if m = 0 then (if s then 8 else 16)
    else if m < 2 ^ 23 then (if s then 4 else 32)
    else (if s then 2 else 64)

/-- `fdiv` (05:R146). -/
def fDiv (m a b : Nat) : Nat × Flags5 :=
  let x := unpack 0 a
  let y := unpack 0 b
  if x.isNan || y.isNan then (nan32, invIf (x.isSnan || y.isSnan))
  else
    let s := x.sign != y.sign
    if (x.isZero && y.isZero) || (x.isInf && y.isInf) then (nan32, flInvalid)
    else if x.isInf then (infF 0 s, 0#5)
    else if y.isZero then (infF 0 s, flDivzero)
    else if x.isZero || y.isInf then (if s then 2 ^ 31 else 0, 0#5)
    else
      match x, y with
      | .fin _ p e, .fin _ q g => roundFrm 0 m false s (scaleNum p (e - g)) (scaleDen (e - g) * q)
      | _, _ => (nan32, 0#5)

/-- The value of one F32 compare: equal, less, less or equal, unordered (09:R242). -/
def fCmpEq (a b : Nat) : Bool × Flags5 :=
  let x := unpack 0 a
  let y := unpack 0 b
  if x.isNan || y.isNan then (false, invIf (x.isSnan || y.isSnan)) else (eqF x y, 0#5)

def fCmpLt (a b : Nat) : Bool × Flags5 :=
  let x := unpack 0 a
  let y := unpack 0 b
  if x.isNan || y.isNan then (false, flInvalid) else (leF x y && !eqF x y, 0#5)

def fCmpLe (a b : Nat) : Bool × Flags5 :=
  let x := unpack 0 a
  let y := unpack 0 b
  if x.isNan || y.isNan then (false, flInvalid) else (leF x y || eqF x y, 0#5)

def fCmpUn (a b : Nat) : Bool × Flags5 :=
  let x := unpack 0 a
  let y := unpack 0 b
  (x.isNan || y.isNan, invIf (x.isSnan || y.isSnan))

/-! ## Exact accumulation -/

/-- `acc_add`: adds v to the N-bit value a with symmetric saturation (05:R134). -/
def accAdd (n : Nat) (a : BitVec n) (v : Int) : BitVec n × Bool :=
  let s := a.toInt + v
  let lim : Int := 2 ^ (n - 1) - 1
  if s > lim then (BitVec.ofInt n lim, true)
  else if s < -lim then (BitVec.ofInt n (-lim), true)
  else (BitVec.ofInt n s, false)

/-- A finite value as an exact multiple of `2 ^ -320` (05:R143). -/
def acc640Of (neg : Bool) (m : Nat) (e : Int) : Int :=
  let v : Int := (m * 2 ^ (e + 320).toNat : Nat)
  if neg then -v else v

/-- Rounds an ACC640 value and status out to hi and lo (05:R145). -/
def rnd640 (m : Nat) (value : BitVec 640) (st : BitVec 4) : Nat × Nat × Flags5 :=
  if st.getLsbD 0 || (st.getLsbD 1 && st.getLsbD 2) then (nan32, 0, flInvalid)
  else if st.getLsbD 1 then (infF 0 false, 0, 0#5)
  else if st.getLsbD 2 then (infF 0 true, 0, 0#5)
  else
    let v := value.toInt
    let (hi, f1) := roundIntScaled 0 m v (-320)
    let f1 := if st.getLsbD 3 then f1 ||| flOverflow else f1
    match unpack 0 hi with
    | .fin s a e =>
      let (lo, f2) := roundIntScaled 0 m (v - acc640Of s a e) (-320)
      (hi, lo, f1 ||| f2)
    | _ => (hi, 0, f1)

/-- The flags that rounding hi alone sets (05:R145). -/
def rnd640Hi (m : Nat) (value : BitVec 640) (st : BitVec 4) : Nat × Flags5 :=
  if st.getLsbD 0 || (st.getLsbD 1 && st.getLsbD 2) then (nan32, flInvalid)
  else if st.getLsbD 1 then (infF 0 false, 0#5)
  else if st.getLsbD 2 then (infF 0 true, 0#5)
  else
    let (hi, f1) := roundIntScaled 0 m value.toInt (-320)
    (hi, if st.getLsbD 3 then f1 ||| flOverflow else f1)

/-- `fredadd`: the exact sum of F32 values, rounded once (05:R147). -/
def fRedAdd (m : Nat) (xs : List Nat) : Nat × Flags5 :=
  let vs := xs.map (unpack 0)
  let sig := vs.any FVal.isSnan
  let pinf := vs.any (fun v => v == .inf false)
  let minf := vs.any (fun v => v == .inf true)
  if vs.any FVal.isNan then (nan32, invIf (sig || (pinf && minf)))
  else if pinf && minf then (nan32, flInvalid)
  else if pinf then (infF 0 false, 0#5)
  else if minf then (infF 0 true, 0#5)
  else
    let sum : Int := vs.foldl (fun acc v =>
      match v with
      | .fin s a e => acc + acc640Of s a e
      | _ => acc) 0
    if sum = 0 then
      let allNeg := vs.all (fun v => v.isZero && v.sign)
      (if allNeg || m == 3 then 2 ^ 31 else 0, 0#5)
    else roundIntScaled 0 m sum (-320)

/-- The integer nearest `num / den`, ties to even, with a sign (05:R134 `rne`). -/
def rneInt (neg : Bool) (num den : Nat) : Int :=
  let n := roundInt 0 neg num den
  if neg then -(n : Int) else n

/-- `rne` of an integer times `2 ^ e`. -/
def rneScaled (v : Int) (e : Int) : Int :=
  rneInt (decide (v < 0)) (scaleNum v.natAbs e) (scaleDen e)

/-! ## Group scales (05:R136, 04:R103) -/

/-- A G4 or G3 element times its BF16 scale, as F32 rounded by RNE. The spec gives a zero product no sign; the model gives it the exclusive or
of the signs (log 49). -/
def groupToF32 (q : Int) (scale : Nat) : Nat :=
  match unpack 1 scale with
  | .nan _ => nan32
  | .inf s => if q = 0 then nan32 else infF 0 (s != decide (q < 0))
  | .fin s m e => (roundScaled 0 0 false (s != decide (q < 0)) (m * q.natAbs) e).1

/-- The quantization of an F32 value under a scale of format sf, between bounds (04:R103). -/
def groupOf (sf v scale : Nat) (lo hi : Int) : Int × Flags5 :=
  match unpack 0 v, unpack sf scale with
  | .nan _, _ => (0, flInvalid)
  | _, .nan _ => (0, flInvalid)
  | _, .inf _ => (0, flInvalid)
  | .inf s, .fin _ m _ => if m = 0 then (0, flInvalid) else (if s then lo else hi, flOverflow)
  | .fin s a e, .fin t m g =>
    if m = 0 then (0, flInvalid)
    else
      let num := scaleNum a (e - g)
      let den := scaleDen (e - g) * m
      let q := rneInt (s != t) num den
      let fl : Flags5 := if q.natAbs * den == num then 0#5 else flInexact
      if q > hi then (hi, fl ||| flOverflow)
      else if q < lo then (lo, fl ||| flOverflow)
      else (q, fl)

/-- The store of an F32 value into a G4 or G3 element between bounds (04:R103). -/
def groupOfF32 (v scale : Nat) (lo hi : Int) : Int × Flags5 := groupOf 1 v scale lo hi

end Sys2Proof.Machine
end

