-- ==== Sys2Proof/Machine/Flags.lean ====
section
/-!
DEFINITION. The rounding mode and the sticky flags of a lane (05:R130, 05:R131).
-/

namespace Sys2Proof.Machine

/-- The lane's rounding mode as a number (05:R130). -/
def Lane.mode (l : Lane) : Nat := l.frm.toNat

/-- Sets sticky flags of a lane (05:R131). -/
def Lane.orFlags (l : Lane) (f : Flags5) : Lane := { l with fflags := l.fflags ||| f }

/-- A write of `frm` that would leave 5 to 7 is ignored as a whole (05:R130). -/
def Lane.writeFrm (l : Lane) (v : Word) : Lane :=
  if wbits v 0 3 ≤ 4 then { l with frm := v.setWidth 3 } else l

/-- A write of `fflags` (05:R131). -/
def Lane.writeFflags (l : Lane) (v : Word) : Lane := { l with fflags := v.setWidth 5 }

end Sys2Proof.Machine
end

