-- ==== Sys2Proof/Machine/Access.lean ====
section
/-!
DEFINITION. Accessors of the units, register files, memory under its keys, translation and the access checks of 10:R262.
-/

namespace Sys2Proof.Machine

/-! ## Units -/

def State.gang (s : State) (gk : Nat) : Gang := tget {} s.gangs gk
def State.core (s : State) (ck : Nat) : Core := tget {} s.cores ck
def State.quad (s : State) (qk : Nat) : Quad := tget {} s.quads qk
def State.cluster (s : State) (clk : Nat) : Cluster := tget {} s.clus clk
def State.slice (s : State) (sl : Nat) : Slice := tget {} s.slices sl
def State.ctx (s : State) (cx : Nat) : Ctx := tget {} s.ctxs cx
def State.vf (s : State) (v : Nat) : Vf := tget {} s.vfs v

def State.setGang (s : State) (gk : Nat) (g : Gang) : State := { s with gangs := tput s.gangs gk g }
def State.setCore (s : State) (ck : Nat) (c : Core) : State := { s with cores := tput s.cores ck c }
def State.setQuad (s : State) (qk : Nat) (q : Quad) : State := { s with quads := tput s.quads qk q }
def State.setCluster (s : State) (clk : Nat) (c : Cluster) : State := { s with clus := tput s.clus clk c }
def State.setSlice (s : State) (sl : Nat) (c : Slice) : State := { s with slices := tput s.slices sl c }
def State.setCtx (s : State) (cx : Nat) (c : Ctx) : State := { s with ctxs := tput s.ctxs cx c }
def State.setVf (s : State) (v : Nat) (c : Vf) : State := { s with vfs := tput s.vfs v c }

def State.modGang (s : State) (gk : Nat) (f : Gang → Gang) : State := s.setGang gk (f (s.gang gk))
def State.modCore (s : State) (ck : Nat) (f : Core → Core) : State := s.setCore ck (f (s.core ck))
def State.modQuad (s : State) (qk : Nat) (f : Quad → Quad) : State := s.setQuad qk (f (s.quad qk))
def State.modCluster (s : State) (clk : Nat) (f : Cluster → Cluster) : State := s.setCluster clk (f (s.cluster clk))
def State.modSlice (s : State) (sl : Nat) (f : Slice → Slice) : State := s.setSlice sl (f (s.slice sl))
def State.modCtx (s : State) (cx : Nat) (f : Ctx → Ctx) : State := s.setCtx cx (f (s.ctx cx))
def State.modVf (s : State) (v : Nat) (f : Vf → Vf) : State := s.setVf v (f (s.vf v))

/-- A function is bound to another slice (14:R357). -/
def State.foreignFn (s : State) (sl vf : Nat) : Bool := (s.vf vf).slice != sl

/-- The context key of the context that runs on a slice, 0 of the slice when none runs. -/
def State.runCx (s : State) (sl : Nat) : Nat := cxOf sl ((s.slice sl).running.getD 0)

/-- The context a gang belongs to: the running context of its slice. -/
def State.gangCx (s : State) (gk : Nat) : Nat := s.runCx (slOfGk gk)

/-- The device time counter (07:R190). -/
def State.dtc (s : State) : Word := s.clock.ns

/-- Advances time by n cycles of 50/47 ns each, with slewing by at most 200 ppm (00:R3, 07:R190, 14:R374). -/
def State.advance (s : State) (n : Nat) : State :=
  let c := s.clock
  let lim : Int := ((50 * n : Nat) : Int)
  let k : Int := if c.slew < -lim then -lim else if lim < c.slew then lim else c.slew
  let f := c.frac + (((250000 * n : Nat) : Int) + k).toNat
  { s with now := s.now + n
           clock := { c with ns := c.ns + BitVec.ofNat 64 (f / 235000), frac := f % 235000, run := c.run + f / 235000
                             slew := c.slew - k } }

/-- The die of a logical cluster: its site lies in one of 32 columns, eight to a die (01:R19). -/
def State.clusDie (s : State) (sl clus : Nat) : Nat := (s.slice sl).sites.getD clus 0 % 32 / 8

def State.modDie (s : State) (d : Nat) (f : Die → Die) : State := { s with dies := tput s.dies d (f (tget {} s.dies d)) }

/-- Bring-up is complete: until then management commands are refused (24:R472). -/
def State.booted (s : State) : Bool := s.power.on && s.power.step == 6

/-- The first cycle from c on that the issue gate lets a core issue in (24:R470). -/
def State.gated (s : State) (c : Nat) : Nat := if c % 16 < s.power.gate then c else (c / 16 + 1) * 16

/-- The issue gate is open in this cycle. -/
def State.gateOpen (s : State) : Bool := decide (s.now % 16 < s.power.gate)

/-- The launch arbiter handles one event in a mesh cycle, two in a cycle (07:R195, 00:R3). -/
def State.arbFree (s : State) : Bool := s.mgmt.arbAt != s.now || s.mgmt.arbN < 2
def State.arbTake (s : State) : State :=
  { s with mgmt := { s.mgmt with arbAt := s.now, arbN := if s.mgmt.arbAt = s.now then s.mgmt.arbN + 1 else 1 } }

/-- An event of the launch arbiter happens in a cycle in which the arbiter can still handle one. -/
def State.atArbiter (s : State) (k : State → State) : State := if s.arbFree then k s.arbTake else s

/-- A value the spec leaves open; each call reads another one (log 5). -/
def State.free (s : State) (k : Nat) : Nat := Config.freeNat s.fresh k
def State.bump (s : State) : State := { s with fresh := s.fresh + 1 }

/-- A slice's partition injects nothing: it drains, or a routing loop has stopped it (04:R123, 19:R414). -/
def State.injOff (s : State) (sl : Nat) : Bool := (s.slice sl).draining || (s.slice sl).injStopped

/-- A routing loop has stopped the injection of a slice's partition, which system software has yet to drain: until then its open streams
send no flit (19:R414, 04:R123; log 48). -/
def State.loopStop (s : State) (sl : Nat) : Bool := (s.slice sl).injStopped && !(s.slice sl).draining

/-- Number of quads and cores of a slice (01:R19, 01:R21). -/
def Slice.nquads (x : Slice) : Nat := 2 * x.nclus
def Slice.ncores (x : Slice) : Nat := 8 * x.nclus

/-! ## Lane registers (08:R207) -/

def Regs.lane (r : Regs) (l : Nat) : Lane := tget {} r.lanes l
def Regs.setLane (r : Regs) (l : Nat) (v : Lane) : Regs := { r with lanes := tput r.lanes l v }
def Regs.modLane (r : Regs) (l : Nat) (f : Lane → Lane) : Regs := r.setLane l (f (r.lane l))

/-- Physical stack entry of window register n (03:R74). -/
def Lane.entOf (l : Lane) (n : Nat) : Nat := ((l.base + (n : Int)).emod 64).toNat

/-- The value of register `wn` in lane number `k` (08:R207, 03:R74). -/
def Lane.rdW (l : Lane) (k n : Nat) : Word :=
  if n < 24 then tget 0#64 l.ent (l.entOf n)
  else if n = 24 then l.tidx
  else if n = 25 then BitVec.ofNat 64 k
  else if n = 31 then 0#64
  else tget 0#64 l.hi n

/-- Where a write of `wn` lands, or none where it is ignored: w24, w25 and w31 (08:R207). -/
def Lane.destW (l : Lane) (n : Nat) : Option Dest :=
  if n < 24 then some (.ent (l.entOf n))
  else if n = 24 ∨ n = 25 ∨ n = 31 then none
  else some (.hi n)

/-- The value of predicate `pn`: `p0` reads 1 (08:R207). -/
def Lane.rdP (l : Lane) (n : Nat) : Bool := n == 0 || l.p.getLsbD n

/-- Where a write of `pn` lands: a write of `p0` is ignored (08:R207). -/
def destP (n : Nat) : Option Dest := if n = 0 then none else some (.pr n)

/-- The value of the place of a register write. -/
def Lane.get (l : Lane) : Dest → Word
  | .ent k => tget 0#64 l.ent k
  | .hi n => tget 0#64 l.hi n
  | .pr n => if l.p.getLsbD n then 1#64 else 0#64

/-- Performs a resolved register write. -/
def Lane.put (l : Lane) (d : Dest) (v : Word) : Lane :=
  match d with
  | .ent k => { l with ent := tput l.ent k v }
  | .hi n => { l with hi := tput l.hi n v }
  | .pr n =>
    let m := BitVec.ofNat 8 (2 ^ n)
    { l with p := if v.getLsbD 0 then l.p ||| m else l.p &&& ~~~m }

/-- Writes `wn` of a lane at once. -/
def Lane.wrW (l : Lane) (n : Nat) (v : Word) : Lane :=
  match l.destW n with
  | none => l
  | some d => l.put d v

def Regs.rdW (r : Regs) (l n : Nat) : Word := (r.lane l).rdW l n
def Regs.rdP (r : Regs) (l n : Nat) : Bool := (r.lane l).rdP n
def Regs.put (r : Regs) (l : Nat) (d : Dest) (v : Word) : Regs := r.modLane l (fun x => x.put d v)
def Regs.wrW (r : Regs) (l n : Nat) (v : Word) : Regs := r.modLane l (fun x => x.wrW n v)
def Regs.wrP (r : Regs) (l n : Nat) (b : Bool) : Regs :=
  match destP n with
  | none => r
  | some d => r.put l d (if b then 1#64 else 0#64)

/-- Active lanes in ascending order, and the lowest one (08:R221, 09:R231). -/
def Regs.active (r : Regs) : List Nat := lanesOf r.act
def Regs.l0 (r : Regs) : Nat := lowLane r.act

/-- `sel(L)`: the guard of 08:R206 in one lane. -/
def Regs.sel (r : Regs) (g : BitVec 4) (l : Nat) : Bool :=
  if g = 0#4 then true else (r.rdP l (g.setWidth 3).toNat) != g.getLsbD 3

/-- The active lanes that a guard selects. -/
def Regs.selected (r : Regs) (g : BitVec 4) : List Nat := r.active.filter (r.sel g)

/-- A gang operand: the register in the lowest active lane (09:R231). -/
def Regs.gangOp (r : Regs) (n : Nat) : Word := r.rdW r.l0 n

/-- The address a descriptor register stands for in a lane (09:R254). -/
def Regs.xaddr (r : Regs) (n l : Nat) : Word :=
  (List.range 4).foldl (fun acc j =>
    acc + BitVec.ofInt 64 ((tget 0#32 r.xc (4 * n + j)).toInt * (tget {} r.loops j).i.toInt))
    (tget 0#64 (r.lane l).xb n)

/-! ## Memory under its keys (14:R359, 14:R360; log 5, log 39) -/

/-- Whether a location is encrypted: global memory of the package and shared SRAM (14:R359). -/
def encrypted (loc : Nat) : Bool := spaceOfLoc loc == 0 || spaceOfLoc loc == 2

/-- Where a location is kept: one in an aperture is the byte of a peer's memory that system software has mapped there (14:R372). -/
def Links.home (l : Links) (loc : Nat) : Nat :=
  if 2 ^ 47 + 2 ^ 46 ≤ loc ∧ loc < 2 ^ 48 then
    let e := tget (0, 0) l.apertures (nbits loc 36 10)
    peerLoc e.1 (e.2 + loc % 2 ^ 36)
  else loc

/-- The tweak of the sector of a location: its physical address, or its offset in shared SRAM, divided by 256 (14:R359). -/
def tweakOf (loc : Nat) : Nat := (if spaceOfLoc loc = 2 then loc - 2 ^ 48 else loc) / 256

/-- One byte as seen under a key. A sector that nothing has written since power-on has no key, 0, and reads as memory does (log 2); one
of another key reads as the XTS decryption of its ciphertext, 16 bytes at a time. -/
def State.rdByte (s : State) (key loc : Nat) : Byte :=
  let k := tget 0 s.keyOf (loc / 256)
  if encrypted loc = false ∨ k = 0 ∨ k = key then Memory.get s.mem (s.links.home loc)
  else
    let blk := (List.range 16).map (fun i => Memory.get s.mem (loc / 16 * 16 + i))
    (xtsGarble k key (tweakOf loc) (loc % 256 / 16) blk).getD (loc % 16) 0#8

/-- n bytes as seen under a key. -/
def State.rdBytes (s : State) (key loc n : Nat) : List Byte := (List.range n).map (fun i => s.rdByte key (loc + i))

/-- The little-endian value of n bytes as seen under a key. -/
def State.rdNat (s : State) (key loc n : Nat) : Nat := leNat (s.rdBytes key loc n)

/-- Makes a sector one written under a key: what another key wrote there stays as that key's ciphertext decrypts. -/
def State.rekey (s : State) (key sec : Nat) : State :=
  let k := tget 0 s.keyOf sec
  if k = key then s
  else if k = 0 then { s with keyOf := tput s.keyOf sec key }
  else { s with mem := Memory.setBytes s.mem (sec * 256) (s.rdBytes key (sec * 256) 256)
                keyOf := tput s.keyOf sec key }

/-- Writes one byte under a key. -/
def State.wrByte (s : State) (key loc : Nat) (b : Byte) : State :=
  let s := if encrypted loc then s.rekey key (loc / 256) else s
  { s with mem := Memory.set s.mem (s.links.home loc) b }

/-- Writes single bytes, the first one first. -/
def State.putAll (s : State) (key : Nat) : List (Nat × Byte) → State
  | [] => s
  | (a, b) :: t => State.putAll (s.wrByte key a b) key t

/-- The history of memory takes what some locations hold before one change of them (06:R168). -/
def State.remember (s : State) (key : Nat) (locs : List Nat) : State :=
  { s with farHist := locs.map (fun l => (l, s.rdByte key l)) :: s.farHist }

/-- One change of memory: single bytes, the first one first. -/
def State.wrAll (s : State) (key : Nat) (ws : List (Nat × Byte)) : State :=
  (s.remember key (ws.map (fun e => e.1))).putAll key ws

/-- One change of memory: bytes at consecutive locations. -/
def State.wrBytes (s : State) (key loc : Nat) (bs : List Byte) : State :=
  s.wrAll key ((List.range bs.length).zip bs |>.map (fun e => (loc + e.1, e.2)))

/-- The key a context writes under. -/
def State.keyNo (s : State) (cx : Nat) : Nat := (s.ctx cx).key.getD 0

/-! ## Translation (04:R108 to R113) -/

/-- The outcome of a walk: a combined entry, a stage-1 fault, or a stage-2 fault on an IPA: whether it is one of a stage-1 table, and
whether the stage-1 leaf sets `ms`. -/
inductive Walk where
  | ok (e : TlbEnt)
  | s1
  | s2 (ipa : Nat) (table ms : Bool)
  deriving DecidableEq, Repr

/-- Bit position of the index and width of the index at a level (04:R108). -/
def lvlShift : Nat → Nat
  | 0 => 39 | 1 => 30 | 2 => 21 | _ => 16
def lvlBits : Nat → Nat
  | 3 => 5 | _ => 9

/-- Whether an entry is a translation fault at a level; `zf` is the mask of zero fields of its stage (04:R109). -/
def badPte (zf e lvl : Nat) : Bool :=
  e % 2 == 0 || e.land zf != 0 || (lvl == 0 && nbits e 1 1 == 0) || (lvl == 3 && nbits e 1 1 == 1)

def zeroFields1 : Nat := 0xffff_0000_0000_00e0
def zeroFields2 : Nat := 0xffff_0000_0000_00f0

/-- The address field of an entry aligned to n (04:R109). -/
def pteAddr (e n : Nat) : Nat := nbits e 8 40 * 256 / n * n

/-- The stage-2 walk: physical address, leaf entry and the leaf's own physical address. The tables lie under the device key (14:R359).
Where the walk gives a physical address that is unmapped (04:R107) the spec does not say what the access does, and the model makes it
a stage-2 translation fault (log 40). -/
def State.s2Go (s : State) (ipa tab : Nat) : List Nat → Option (Nat × Nat × Nat)
  | [] => none
  | lvl :: t =>
    let ea := tab + 8 * nbits ipa (lvlShift lvl) (lvlBits lvl)
    let e := s.rdNat s.ochre.devKey ea 8
    if badPte zeroFields2 e lvl then none
    else if nbits e 1 1 = 1 then State.s2Go s ipa (pteAddr e (if lvl = 2 then 256 else 4096)) t
    else
      let sz := 2 ^ lvlShift lvl
      let pa := pteAddr e sz + ipa % sz
      -- physical addresses outside HBM4 and the host and peer half are unmapped (04:R107)
      if pa < 2 ^ 39 ∨ 2 ^ 47 ≤ pa then some (pa, e, ea) else none

/-- The size of the stage-2 leaf that translates an IPA (04:R108, R109). -/
def State.s2Size (s : State) (ipa tab : Nat) : List Nat → Nat
  | [] => 0
  | lvl :: t =>
    let e := s.rdNat s.ochre.devKey (tab + 8 * nbits ipa (lvlShift lvl) (lvlBits lvl)) 8
    if badPte zeroFields2 e lvl then 0
    else if nbits e 1 1 = 1 then State.s2Size s ipa (pteAddr e (if lvl = 2 then 256 else 4096)) t
    else 2 ^ lvlShift lvl

/-- Stage 2 of an IPA of a context. -/
def State.s2Walk (s : State) (cx ipa : Nat) : Option (Nat × Nat × Nat) :=
  State.s2Go s ipa ((s.ctx cx).s2root / 4096 * 4096) [0, 1, 2, 3]

/-- The stage-1 walk of a virtual address; every table address is an IPA, translated by stage 2 (04:R108). -/
def State.s1Go (s : State) (cx va tab : Nat) : List Nat → Walk
  | [] => .s1
  | lvl :: t =>
    let ea := tab + 8 * nbits va (lvlShift lvl) (lvlBits lvl)
    match s.s2Walk cx ea with
    | none => .s2 ea true false
    | some (pa, _, _) =>
      let e := s.rdNat (s.keyNo cx) pa 8
      if badPte zeroFields1 e lvl then .s1
      else if nbits e 1 1 = 1 then State.s1Go s cx va (pteAddr e (if lvl = 2 then 256 else 4096)) t
      else
        let sz := 2 ^ lvlShift lvl
        let ipa := pteAddr e sz + va % sz
        match s.s2Walk cx ipa with
        | none => .s2 ipa false (nbits e 3 1 == 1)
        | some (p, l2, _) =>
          .ok { ctx := cx, vpage := va / 65536, ipage := ipa / 65536, ppage := p / 65536,
                w1 := nbits e 2 1 == 1, tl := nbits e 4 1 == 1, ms := nbits e 3 1 == 1,
                w2 := nbits l2 2 1 == 1, d := nbits l2 3 1 == 1, sz1 := sz / 65536 }

/-- Both stages of a virtual address of a context (04:R108). -/
def State.walk (s : State) (cx va : Nat) : Walk :=
  State.s1Go s cx va (wbits (s.ctx cx).s1root 12 36 * 4096) [0, 1, 2, 3]

/-- A hit in the quad's TLB, then in its cluster's (04:R111). -/
def State.tlbHit (s : State) (qk cx va : Nat) : Option TlbEnt :=
  let p (e : TlbEnt) : Bool := e.ctx == cx && e.vpage == va / 65536
  match (s.quad qk).tlb.find? p with
  | some e => some e
  | none => (s.cluster (clkOfQk qk)).tlb.find? p

/-- Translates through the TLBs; a write through an entry that recorded d = 0 walks again (04:R112). -/
def State.translate (s : State) (qk cx va : Nat) (wr : Bool) : Walk :=
  match s.tlbHit qk cx va with
  | some e => if wr && !e.d then s.walk cx va else .ok e
  | none => s.walk cx va

/-- Puts an entry at the head of a TLB of n entries; the oldest leaves (log 11). -/
def tlbPut (n : Nat) (t : List TlbEnt) (e : TlbEnt) : List TlbEnt :=
  (e :: t.filter (fun x => !(x.ctx == e.ctx && x.vpage == e.vpage))).take n

/-- Appends a record to the device event log of 1,024 records (21:R437). `0xff` stands for no slice, context, function. -/
def State.event (s : State) (kind sl cx vf detail value : Nat) : State :=
  let r : EventRec := { dtc := s.dtc, kind := kind, slice := sl, ctx := cx, vf := vf, detail := detail, value := value }
  let m := s.mgmt
  if m.events.length < 1024 then { s with mgmt := { m with events := m.events ++ [r] } }
  else { s with mgmt := { m with events := m.events.drop 1 ++ [r], wraps := m.wraps + 1 } }

/-- Records a page whose `d` is set in the function's dirty log, before the write: once between two cleans. A full log overflows once, with its
record of kind 7 (21:R438, R449, 14:R370). -/
def State.dirtyLog (s : State) (cx ipage : Nat) : State :=
  let n := (s.ctx cx).vf
  let v := s.vf n
  if (v.dlog.drop v.cleanAt).contains ipage || v.dovf then s
  else if v.dlog.length < 4096 then s.setVf n { v with dlog := v.dlog ++ [ipage] }
  else (s.setVf n { v with dovf := true }).event 7 (cx / 8) (cx % 8) n 0 4096

/-- Sets `d` of the stage-2 leaf of an IPA before a write, and logs its page (04:R112). -/
def State.setD (s : State) (cx ipa : Nat) : State :=
  match s.s2Walk cx ipa with
  | some (_, l2, ea) =>
    if nbits l2 3 1 = 0 then
      (s.dirtyLog cx (ipa / 65536)).wrByte s.ochre.devKey ea (BitVec.ofNat 8 (insBits (l2 % 256) 1 3 1))
    else s
  | none => s

/-- The page of a virtual address of a context is dirty: what writes there is no program's access (14:R370). -/
def State.dirtyVa (s : State) (cx va : Nat) : State :=
  match s.walk cx va with
  | .ok e => s.setD cx (e.ipage * 65536 + va % 65536)
  | _ => s

/-- The effects of a translation on the way to its access: the TLB fill, and `d` of the stage-2 leaf on a write (04:R111,
04:R112). -/
def State.noteAccess (s : State) (qk cx va : Nat) (wr : Bool) : State :=
  match s.translate qk cx va wr with
  | .ok e =>
    let set := wr && !e.d
    let s := if set then s.setD cx (e.ipage * 65536 + va % 65536) else s
    let e' := if set then { e with d := true } else e
    let s := s.modQuad qk (fun q => { q with tlb := tlbPut 64 q.tlb e' })
    s.modCluster (clkOfQk qk) (fun c => { c with tlb := tlbPut 1024 c.tlb e' })
  | _ => s

/-! ## The access checks (10:R262) -/

/-- What makes an access: a plain load or store, `natom`, `fatom`, the wide-accumulator unit, or an engine; `eng` says
whether the engine reaches decoding windows (04:R96). -/
inductive AccKind where
  | plain
  | natom
  | fatom
  | accw
  | eng (win : Bool)
  deriving DecidableEq, Repr

/-- Spaces of 04:R94 and 04:R96. -/
inductive Space where
  | tcm
  | scr
  | win
  | shr
  | glob
  | ms
  | host
  deriving DecidableEq, Repr

/-- Where an access goes. In a decoding window `fmt` is the format, `elem` the first element, `ext` the location of the
window's first storage byte and `scale` that of the scale array (04:R101, 04:R102). -/
structure Place where
  space : Space
  loc : Nat
  fmt : Nat := 0
  elem : Nat := 0
  ext : Nat := 0
  scale : Nat := 0
  deriving DecidableEq, Repr

/-- An access to a place leaves its quad over the mesh: global memory, shared SRAM, host or peer memory (04:R123). -/
def Place.beyond (p : Place) : Bool := p.space == .glob || p.space == .ms || p.space == .host || p.space == .shr

/-- The outcome of the checks for one lane: a place; the row and cause of 10:R262; or a stage-2 fault of row 6 or 8. -/
inductive Chk where
  | ok (p : Place)
  | bad (row cause : Nat)
  | stage2 (ipa : Nat) (table perm : Bool)
  deriving DecidableEq, Repr

/-- The range of 04:R94 that holds a byte: 0 unmapped, 1 TCM, 2 system area, 3 shared SRAM, 4 global, 10 + n window n. -/
def rangeOf (a : Nat) : Nat :=
  if 0x1_0000 ≤ a ∧ a < 0x1_7000 then 1
  else if 0x1_7000 ≤ a ∧ a < 0x1_8000 then 2
  else if 0x400_0000 ≤ a ∧ a < 0x600_0000 then 10 + (a - 0x400_0000) / 0x40_0000
  else if 0x8000_0000 ≤ a ∧ a < 0x8800_0000 then 3
  else if 0x1_0000_0000 ≤ a ∧ a < 0x1_0000_0000_0000 then 4
  else 0

/-- The value of `wincfgN`; window 0 is fixed (04:R100). -/
def Cluster.win (c : Cluster) (n : Nat) : Word := if n = 0 then 0x0000_2c00_0000_0000#64 else tget 0#64 c.wincfg n

/-- The check of an access through an alias window at view offset o (04:R100 to R103, 19:R404). -/
def checkWin (clk : Nat) (cfg : Word) (o size span : Nat) (kind : AccKind) : Chk :=
  let fmt := wbits cfg 60 4
  let sbase := wbits cfg 47 13
  let slen := wbits cfg 33 14
  let scbase := wbits cfg 20 13
  let ext0 := sbase * 64
  let ext1 := if sbase < 5632 ∧ slen ≠ 0 then (if sbase + slen < 5632 then sbase + slen else 5632) * 64 else ext0
  if fmt = 0 then
    if ext0 + o + span ≤ ext1 then
      (match kind with
       | .accw => .bad 4 0x09
       | _ => .ok { space := .scr, loc := scrLoc clk (ext0 + o) })
    else .bad 3 0x09
  else
    let engine := match kind with
      | .eng _ => true
      | _ => false
    if engine && (o % 4 != 0 || size % 4 != 0) then .bad 2 0x05
    else
      let b := fmtBits fmt
      let n := if size < 4 then 1 else size / 4
      let last := o / 4 + n - 1
      let grp := fmt == 5 || fmt == 6
      if last ≥ 1048576 ∨ b * (last + 1) > (ext1 - ext0) * 8 then .bad 3 0x09
      else if grp && scbase * 64 + 2 * (last / 32) + 2 > 5632 * 64 then .bad 3 0x09
      else
        let okKind := match kind with
          | .plain => size == 4 || size == 8
          | .eng w => w
          | _ => false
        if okKind then
          .ok { space := .win, loc := scrLoc clk (ext0 + b * (o / 4) / 8), fmt := fmt, elem := o / 4,
                ext := scrLoc clk ext0, scale := scrLoc clk (scbase * 64) }
        else .bad 4 0x09

/-- The spaces that what makes an access may reach, beyond what its own rows say (04:R96). -/
def AccKind.reaches : AccKind → Space → Bool
  | .natom, .ms => false
  | .natom, .host => false
  | _, _ => true

/-- The checks of 10:R262 for one access of a core that may reach some spaces: `wr` says it may modify its location (04:R109), `tl` the
trap level. A page that the access may not reach fails row 4 before the rows of its stage 2. An access below `shsz.mib` to a MiB that the
slice's unit list does not hold fails row 3: the spec does not say what it does (log 46). -/
def State.checkIn (s : State) (ck va size : Nat) (wr : Bool) (kind : AccKind) (tl : Nat) (allow : Space → Bool) : Chk :=
  let ok (p : Place) : Chk := if allow p.space then .ok p else .bad 4 0x09
  let span := match kind with
    | .accw => 96
    | _ => size
  let align := match kind with
    | .accw => 128
    | .eng _ => 1
    | _ => size
  let r := rangeOf va
  let sl := slOfCk ck
  let cx := s.runCx sl
  if r != rangeOf ((va + span - 1) % 2 ^ 64) then .bad 1 0x06
  else if va % align != 0 then .bad 2 0x05
  else if r = 0 ∨ r = 2 then .bad 3 0x09
  else if r = 1 then
    (match kind with
     | .fatom => .bad 4 0x09
     | _ => ok { space := .tcm, loc := tcmLoc ck (va - 0x1_0000) })
  else if 10 ≤ r then
    match checkWin (clkOfCk ck) ((s.cluster (clkOfCk ck)).win (r - 10)) ((va - 0x400_0000) % 0x40_0000) size span kind with
    | .ok p => ok p
    | c => c
  else if r = 3 then
    let rel := va - 0x8000_0000
    if rel + span > (s.ctx cx).shmib * 2 ^ 20 then .bad 3 0x09
    else
      match (s.slice sl).units[rel / 2 ^ 20]? with
      | none => .bad 3 0x09
      | some u =>
        (match kind with
         | .accw => .bad 4 0x09
         | _ => ok { space := .shr, loc := shrLoc (u * 2 ^ 20 + rel % 2 ^ 20) })
  else if kind = .accw ∨ !(allow .glob || allow .ms || allow .host) then .bad 4 0x09
  else
    match s.translate (qkOfCk ck) cx va wr with
    | .s1 => .bad 5 0x07
    | .s2 ipa t ms => if ms && !allow .ms then .bad 4 0x09 else .stage2 ipa t false
    | .ok e =>
      let pa := e.ppage * 65536 + va % 65536
      let sp : Space := if 2 ^ 47 ≤ pa then .host else if e.ms then .ms else .glob
      if !allow sp then .bad 4 0x09
      else if (wr && !e.w1) || (e.tl && tl == 0) then .bad 7 0x09
      else if wr && !e.w2 then .stage2 (e.ipage * 65536 + va % 65536) false true
      else .ok { space := sp, loc := pa }

/-- The checks of an instruction's access. -/
def State.check (s : State) (ck va size : Nat) (wr : Bool) (kind : AccKind) (tl : Nat) : Chk :=
  s.checkIn ck va size wr kind tl kind.reaches

/-- One access of one lane: lane, virtual address and the outcome of its checks. -/
structure LaneChk where
  lane : Nat
  va : Nat
  chk : Chk
  deriving DecidableEq, Repr

/-- Row of a failed check; a stage-2 fault is row 6 or 8; 9 when the check passes. -/
def Chk.row : Chk → Nat
  | .ok _ => 9
  | .bad r _ => r
  | .stage2 _ _ p => if p then 8 else 6

def Chk.cause : Chk → Nat
  | .bad _ c => c
  | _ => 0x08

/-- What an instruction's checks decide: all lanes pass; a trap with cause, faulting lanes and fault address; or a wait at
a stage-2 fault (10:R262). -/
inductive Verdict where
  | pass
  | trap (cause : Nat) (flt : W32) (va : Nat)
  | stage2 (va ipa : Nat) (table perm : Bool)
  deriving DecidableEq, Repr

/-- The earliest row met decides: its cause, every faulting lane, and the address of the lowest lane that met it. -/
def verdict (cs : List LaneChk) : Verdict :=
  match minBy (fun c : LaneChk => c.chk.row) cs with
  | none => .pass
  | some c =>
    match c.chk with
    | .ok _ => .pass
    | .bad _ cause => .trap cause (maskOf ((cs.filter (fun x => x.chk.row != 9)).map LaneChk.lane)) c.va
    | .stage2 ipa t p => .stage2 c.va ipa t p

end Sys2Proof.Machine
end

