-- ==== Sys2Proof/Machine/Kill.lean ====
section
/-!
DEFINITION. Reports to the management space, the retirement of a key, and the kill of a context (18:R393, 21:R437 to R442).
-/

namespace Sys2Proof.Machine

/-- Tells the host through the management space: a kind of the model's own and a number (log 9). -/
def State.note (s : State) (kind value : Nat) : State :=
  { s with mgmt := { s.mgmt with notes := s.mgmt.notes ++ [(kind, value)] } }

/-- Closes one session with its record of kind 6 (21:R448). -/
def State.closeSession (s : State) (id detail : Nat) : State :=
  let x := tget {} s.ochre.sessions id
  if x.opened then
    let s := { s with ochre := { s.ochre with sessions := tput s.ochre.sessions id { x with opened := false } } }
    s.event 6 (x.ck / 8) (x.ck % 8) (s.ctx x.ck).vf detail id
  else s

/-- Discards a context's key: the retire count rises and its sessions close (14:R360, 21:R448). -/
def State.retireKey (s : State) (cx : Nat) : State :=
  let s := (s.ochre.sessions.filter (fun e => e.2.ck == cx && e.2.opened)).foldl (fun t e => t.closeSession e.1 3) s
  match (s.ctx cx).key with
  | none => s
  | some _ =>
    let s := s.modCtx cx (fun c => { c with key := none })
    { s with ochre := { s.ochre with retires := s.ochre.retires + 1, keysUsed := s.ochre.keysUsed - 1 } }

/-- An entry whose context is killed is disabled; some of its running instances are gone with it. With none running, those pending are submitted
where another context of the function is resident (07:R193, 21:R442; log 28). -/
def TabEntry.killed (t : TabEntry) (lost : Nat) (left : Bool) : TabEntry :=
  let t := { t with ctl := insBits t.ctl 0 0 1, running := t.running - lost }
  if left = false then { t with running := 0, pending := 0, unread := 0 }
  else if t.running = 0 then { t with running := t.pending, unread := t.unread + t.pending, pending := 0 }
  else t

/-- Clears `en` of every queue bound to a context and disables the table entries whose target it is (21:R442); `mine` are the entries of the
launches and heads that end with it. -/
def State.disableWork (s : State) (cx : Nat) (mine : List (Option Nat)) : State :=
  let vf := (s.ctx cx).vf
  let qs := s.mgmt.queues.map (fun e =>
    if e.2.vf == vf && e.2.ctx == cx % 8 then (e.1, { e.2 with en := false }) else e)
  let ts := s.mgmt.table.map (fun e =>
    let kind := nbits e.2.ctl 1 2
    if e.2.slice == cx / 8 && ((kind == 1 && e.2.target % 8 == cx % 8) || (kind == 0 && e.2.vf == vf)) then
      let left := (List.range 8).any (fun c => let x := s.ctx (cxOf (cx / 8) c); c != cx % 8 && x.live && x.vf == vf)
      (e.1, e.2.killed (mine.filter (fun m => m == some e.1)).length left)
    else e)
  { s with mgmt := { s.mgmt with queues := qs, table := ts } }

/-! ## The link and the ports (14:R372, R373, 21:R453 to R455) -/

/-- The Fjoad link carries nothing with fewer than 8 lanes (21:R453). -/
def Links.fjoadDown (l : Links) : Bool := 32 < l.lanesLost.length + 8

/-- The ports that carry traffic to a peer: those of both I/O dies' tables (14:R373). -/
def Links.portsOf (l : Links) (peer : Nat) : List Nat := tget [] l.peers peer ++ tget [] l.peers (65536 + peer)

/-- Whether a physical address of host or peer memory is reached: the link, or a port of the peer's sets (14:R372, R373). -/
def Links.reaches (l : Links) (pa : Nat) : Bool :=
  if nbits pa 46 1 = 0 then !l.fjoadDown
  else (l.portsOf (tget (0, 0) l.apertures (nbits pa 36 10)).1).any (fun p => !l.portsDown.contains p)

/-- Peers that a set of failed ports leaves unreachable. -/
def Links.cut (l : Links) : List Nat :=
  (addSet [] (l.peers.map (fun e => e.1 % 65536))).filter (fun p =>
    !(l.portsOf p).isEmpty && (l.portsOf p).all (fun n => l.portsDown.contains n))

/-- Whom a physical address of host or peer memory belongs to: a peer number, or the host. -/
def Links.owner (l : Links) (pa : Nat) : Nat :=
  if nbits pa 46 1 = 0 then 0xffff_ffff else (tget (0, 0) l.apertures (nbits pa 36 10)).1

/-- Time transfer over the scale-up ports reaches no peer: every port is down, or every peer of the routing tables is cut off (14:R374,
21:R454). -/
def Links.noTransfer (l : Links) : Bool :=
  (List.range 96).all (fun p => l.portsDown.contains p) ||
    (!l.peers.isEmpty && l.peers.all (fun e => l.cut.contains (e.1 % 65536)))

/-- An access to host or peer memory that is not answered writes its record of kind 12 (21:R438, R455). -/
def State.lostAt (s : State) (sl cx vf pa : Nat) : State := s.event 12 sl cx vf (s.links.owner pa) pa

/-- The 16 bytes of a completion record (07:R201). -/
def doneBytes (tag dtc : Word) (launch status : Nat) : List Byte :=
  leBytes 8 tag.toNat ++ leBytes 4 dtc.toNat ++ leBytes 2 launch ++ leBytes 2 status

/-- Where eight bytes of a record of a context go in host or peer memory: intermediate and physical address, none where a check fails or it
lies elsewhere (18:R395, 10:R262). -/
def State.killPlace (s : State) (cx a : Nat) : Option (Nat × Nat) :=
  if rangeOf a ≠ 4 ∨ a % 8 ≠ 0 then none
  else
    match s.walk cx a with
    | .ok e =>
      if 2 ^ 47 ≤ e.ppage * 65536 ∧ e.w1 ∧ e.w2 ∧ e.tl = false then some (e.ipage * 65536 + a % 65536, e.ppage * 65536 + a % 65536)
      else none
    | _ => none

/-- Eight bytes of that record: the page is dirty (14:R370), and a write that is not reached is dropped (21:R455). -/
def State.killPart (s : State) (cx : Nat) (p : Nat × Nat) (bs : List Byte) : State :=
  let s := s.setD cx p.1
  if s.links.reaches p.2 then s.wrBytes 0 p.2 bs else s.lostAt (cx / 8) (cx % 8) (s.ctx cx).vf p.2

/-- The `done` records of a killed context: status 1 where `done` lies in host or peer memory, as two 8-byte writes that are both checked
before either is made (18:R395, 07:R201). -/
def State.killDone (s : State) (cx : Nat) (l : Launch) : State :=
  let bs := doneBytes l.tag s.dtc l.num 1
  if l.desc.done = 0 then s
  else
    match s.killPlace cx l.desc.done, s.killPlace cx (l.desc.done + 8) with
    | some p, some q => (s.killPart cx p (bs.take 8)).killPart cx q (bs.drop 8)
    | _, _ => s

/-- Stops the engines of a core: queued and in-flight commands are gone (18:R393). -/
def Core.stopEngines (c : Core) : Core :=
  { c with chans := [], mxq := [], fabq := [], accq := []
           mad := { c.mad with q := [], reading := none, saving := []
                               doms := c.mad.doms.map (fun e => (e.1, { e.2 with run := none, pend := none })) } }

/-- Counts a sole grant for the slice of its holder (19:R417). -/
def State.countSole (s : State) (gk : Nat) : State :=
  s.modSlice (slOfGk gk) (fun x => { x with ctrs := { x.ctrs with sole := x.ctrs.sole + 1 } })

/-- Takes the sole requests of some gangs back; when the holder's is among them, the next in line becomes the holder (06:R156). -/
def State.dropSole (s : State) (p : Nat → Bool) : State :=
  let rest := s.sole.filter (fun q => !p q.gk)
  let t : State := { s with sole := rest }
  match rest.head? with
  | some q => if s.sole.head?.any (fun q => p q.gk) then t.countSole q.gk else t
  | none => t

/-- Takes every gang, launch and engine command of a slice away. -/
def State.stopSlice (s : State) (sl : Nat) : State :=
  { s with gangs := s.gangs.filter (fun e => slOfGk e.1 != sl)
           cores := s.cores.map (fun e => if slOfCk e.1 == sl then (e.1, e.2.stopEngines) else e)
           clus := s.clus.map (fun e => if slOfClk e.1 == sl then (e.1, { e.2 with mxqs := [], runs := [] }) else e)
           fabs := s.fabs.map (fun e =>
             (e.1, { e.2 with calls := e.2.calls.filter (fun c => slOfCk c.ck != sl), held := e.2.held.filter (fun h => slOfCk h.1 != sl) }))
           links := { s.links with unacked := s.links.unacked.filter (fun e => slOfGk e.gk != sl) }
           slices := tput s.slices sl
             (let x := s.slice sl
              { x with running := none, launches := [], devq := [], heads := [], dones := [] }) }

/-- Appends the kill record and its event record (18:R394, 21:R438 kind 2). -/
def State.killRecord (s : State) (sl cx cause last core gslot : Nat) (tc tpc tmk tva : Word) : State :=
  let r : KillRec := { dtc := s.dtc, slice := sl, ctx := cx % 8, cause := cause, last := last, core := core
                       gslot := gslot, tc := tc, tpc := tpc, tmk := tmk, tva := tva }
  let n := (s.mgmt.kills.filter (fun k => k.slice == sl)).length
  let s := { s with mgmt := { s.mgmt with kills := s.mgmt.kills ++ [r] } }
  s.event 2 sl (cx % 8) (s.ctx cx).vf cause n

/-- The tokens of a context of a slice that have not been written yet are not written any more (21:R445). -/
def State.dropTokens (s : State) (sl c : Nat) : State :=
  let keep (r : TokReq) : Bool := !(r.sl == sl && r.inn == c)
  { s with ochre := { s.ochre with waiting := s.ochre.waiting.filter keep, signing := s.ochre.signing.filter keep } }

/-! ## Who holds at a stage-2 fault (19:R406) -/

/-- A fault that has been reported, or waits to be, holds a user. -/
def Vf.holds (v : Vf) (u : S2User) : Bool :=
  v.s2q.any (fun e => e.2.joined.contains u) || v.s2over.any (fun e => e.2.joined.contains u)

/-- Users of a context that satisfy a test hold no more; a fault of theirs that has no record yet leaves none. -/
def Vf.letGo (v : Vf) (c : Nat) (p : S2User → Bool) : Vf :=
  { v with s2q := v.s2q.map (fun e => if e.2.ctx == c then (e.1, { e.2 with joined := e.2.joined.filter (fun u => !p u) }) else e)
           s2over := v.s2over.filter (fun e => !(e.2.ctx == c && e.2.joined.all p)) }

/-- A user of a slice's running context holds at a stage-2 fault. -/
def State.s2Held (s : State) (sl : Nat) (u : S2User) : Bool := (s.vf (s.ctx (s.runCx sl)).vf).holds u

/-- Users of a context hold no more. -/
def State.s2Leave (s : State) (cx : Nat) (p : S2User → Bool) : State :=
  s.modVf (s.ctx cx).vf (fun v => v.letGo (cx % 8) p)

/-- What a slice itself holds: its gangs and engines, which walk again after a restore (19:R406). -/
def S2User.onSlice : S2User → Bool
  | .head .. => false
  | .done .. => false
  | _ => true

/-- Kills a resident context (18:R393, 21:R442): when it runs, issue stops, nothing more of it commits, and the slice
goes to its scrub; when it does not, its image is discarded. -/
def State.kill (s : State) (cx cause last core gslot : Nat) (tc tpc tmk tva : Word) : State :=
  let sl := cx / 8
  let running := (s.slice sl).running == some (cx % 8)
  let s := s.killRecord sl cx cause last core gslot tc tpc tmk tva
  let away := ((s.ctx cx).image.map (fun im => im.slice)).getD {}
  let ls := if running then (s.slice sl).launches else away.launches
  let hs := if running then (s.slice sl).heads else (s.ctx cx).heads ++ away.heads
  let s := ls.foldl (fun t l => t.killDone cx l) s
  let tenant := (s.ctx cx).tenant
  let s := s.disableWork cx (ls.map (fun l => l.tabEnt) ++ hs.map (fun h => h.tabEnt))
  let s := (s.retireKey cx).s2Leave cx (fun _ => true)
  let s := (s.modCtx cx (fun c => { c with live := false, image := none, created := false, heads := [], submits := [] })).dropTokens sl (cx % 8)
  if running then
    let s := (s.stopSlice sl).dropSole (fun gk => slOfGk gk == sl)
    s.modSlice sl (fun x =>
      { x with selStop := true
               sw := { x.sw with step := .scrubbing, out := some (cx % 8), outTenant := tenant, scrubbed := false } })
  else s

/-- Kills a context for a cause that no gang has raised. -/
def State.killPlain (s : State) (cx cause : Nat) : State := s.kill cx cause 0 0 0 0#64 0#64 0#64 0#64

end Sys2Proof.Machine
end

