-- ==== Sys2Proof/Machine/Ops.lean ====
section
/-!
DEFINITION. The shared operations of every instruction: landing register writes, chunks and their commits and squashes,
waiting, going on to the next word, window slides, taking a trap and returning from one, and the end of a gang.
-/

namespace Sys2Proof.Machine

/-! ## Register writes that land later (08:R213 to R217) -/

/-- Lands the values of a pending write. -/
def Regs.landAll (r : Regs) : List (Nat × Dest) → List Word → Regs
  | (l, d) :: ds, v :: vs => Regs.landAll (r.put l d v) ds vs
  | _, _ => r

/-- Lands one pending write: registers, the snapshot of an open chunk that began after it was issued, and its counter
(08:R217, 08:R220; log 7). -/
def Gang.land (g : Gang) (w : PendWrite) : Gang :=
  let g := { g with r := g.r.landAll w.dst w.vals, pend := g.pend.filter (fun x => x.id != w.id) }
  let g := if w.id < g.ch.firstId then
      { g with ch := { g.ch with snap := g.ch.snap.map (fun r => r.landAll w.dst w.vals) } }
    else g
  match w.ctr with
  | none => g
  | some k => { g with sb := tput g.sb k (tget 0 g.sb k - 1) }

/-- Lands a write of variable latency in a cycle, and keeps what it replaced for that cycle (08:R217, R219). -/
def Gang.landVar (g : Gang) (now : Nat) (w : PendWrite) : Gang :=
  let old := w.dst.map (fun d => (d.1, d.2, (g.r.lane d.1).get d.2))
  { g.land w with lateAt := now, late := if g.lateAt = now then g.late ++ old else old }

/-- The value a register had before the writes that landed in this cycle, for the words that read it so (08:R219). -/
def Gang.early (g : Gang) (now l n : Nat) : Word :=
  match (g.r.lane l).destW n with
  | none => g.r.rdW l n
  | some d =>
    match (if g.lateAt = now then g.late else []).find? (fun e => e.1 == l && e.2.1 == d) with
    | some e => e.2.2
    | none => g.r.rdW l n

/-- Lands every fixed-latency write due by a cycle, in issue order. -/
def Gang.landDue (g : Gang) (c : Nat) : Gang :=
  (g.pend.filter (fun w => match w.land with
    | some t => decide (t ≤ c)
    | none => false)).foldl (fun g w => g.land w) g

/-- The latest cycle a fixed-latency write of the gang lands in, at least c. -/
def Gang.lastLand (g : Gang) (c : Nat) : Nat :=
  g.pend.foldl (fun m w => match w.land with
    | some t => if m < t then t else m
    | none => m) c

/-- A variable-latency write is outstanding. -/
def Gang.varPend (g : Gang) : Bool := g.pend.any (fun w => w.land == none)

/-- Writes registers now when the latency is 1, otherwise L cycles after issue (08:R213). -/
def State.writeRegs (s : State) (lat : Nat) (dst : List (Nat × Dest)) (vals : List Word) : State :=
  if lat ≤ 1 then s.modGang s.cur (fun g => { g with r := g.r.landAll dst vals })
  else
    let w : PendWrite := { id := s.fresh, land := some (s.now + lat), ctr := none, tcm := false, ready := true
                           dst := dst, vals := vals }
    (s.modGang s.cur (fun g => { g with pend := g.pend ++ [w] })).bump

/-- Adds a variable-latency write of the current gang, counted on a counter (08:R216, 08:R217). -/
def State.pendVar (s : State) (ctr : Option Nat) (tcm ready : Bool) (dst : List (Nat × Dest)) (vals : List Word) (after : Nat := 0) :
    State :=
  let w : PendWrite :=
    { id := s.fresh, land := none, ctr := ctr, tcm := tcm, ready := ready, dst := dst, vals := vals, after := after }
  (s.modGang s.cur (fun g =>
    { g with pend := g.pend ++ [w]
             sb := match ctr with
               | none => g.sb
               | some k => tput g.sb k (tget 0 g.sb k + 1) })).bump

/-- The cycle in which the wide-accumulator unit ends what a gang slot of a core has queued (11:R295). -/
def Core.accEnd (c : Core) (mine : Nat → Bool) (now : Nat) : Nat :=
  (c.accq.filter (fun e => mine e.1)).foldl (fun m e => max m e.2) now

/-- The first cycle a TCM access of the current gang may complete in: behind its wide-accumulator updates (11:R295). -/
def State.tcmAfter (s : State) : Nat := (s.core (ckOfGk s.cur)).accEnd (fun k => k == slotOfGk s.cur) 0

/-- Destinations `wn` of some lanes with their values, without the ignored ones. -/
def Regs.destsW (r : Regs) (n : Nat) (vs : List (Nat × Word)) : List (Nat × Dest) × List Word :=
  let xs := vs.filterMap (fun e => (Lane.destW (r.lane e.1) n).map (fun d => (e.1, d, e.2)))
  (xs.map (fun x => (x.1, x.2.1)), xs.map (fun x => x.2.2))

/-- Destinations `pn` of some lanes with their values. -/
def Regs.destsP (n : Nat) (vs : List (Nat × Bool)) : List (Nat × Dest) × List Word :=
  match destP n with
  | none => ([], [])
  | some d => (vs.map (fun e => (e.1, d)), vs.map (fun e => if e.2 then 1#64 else 0#64))

/-! ## The open chunk (06:R148 to R152) -/

/-- Opens a chunk at the current word when none is open: its snapshot is what a squash restores. -/
def Gang.openChunk (g : Gang) (fresh : Nat) : Gang :=
  match g.ch.snap with
  | some _ => g
  | none => { g with ch := { g.ch with snap := some g.r, firstId := fresh } }

/-- The chunk's own latest write of a byte. -/
def Chunk.byte (ch : Chunk) (loc : Nat) : Option Byte := (ch.wbuf.find? (fun e => e.1 == loc)).map (fun e => e.2)

/-- A byte as a chunk of a gang reads it: its own latest write, otherwise the committed value (06:R149). -/
def State.chByte (s : State) (gk loc : Nat) : Byte :=
  match (s.gang gk).ch.byte loc with
  | some b => b
  | none => s.rdByte (s.keyNo (s.gangCx gk)) loc

/-- The little-endian value of n bytes as the chunk reads them. -/
def State.chNat (s : State) (gk loc n : Nat) : Nat := leNat ((List.range n).map (fun i => s.chByte gk (loc + i)))

def Gang.noteRead (g : Gang) (secs : List Nat) : Gang := { g with ch := { g.ch with rsec := addSet g.ch.rsec secs } }

/-- Buffers writes in program order, and their sectors (06:R150). -/
def Gang.buffer (g : Gang) (ws : List (Nat × Byte)) : Gang :=
  { g with ch := { g.ch with wbuf := ws.reverse ++ g.ch.wbuf
                             wsec := addSet g.ch.wsec (ws.map (fun e => e.1 / 256)) } }

/-- Notes the virtual page that a buffered write was translated by (04:R113). -/
def Gang.noteVa (g : Gang) (va : Nat) : Gang := { g with ch := { g.ch with wva := addSet g.ch.wva [va / 65536] } }

/-- The sectors that a chunk has written, of every space (06:R148). -/
def Chunk.written (ch : Chunk) : List Nat := addSet ch.wsec (ch.exts.map (fun e => e.1 / 256))

/-- Whether a write of these sectors stays within 64 distinct ones (06:R148). -/
def Chunk.room (ch : Chunk) (secs : List Nat) : Bool := (addSet ch.written secs).length ≤ 64

/-- The chunk has begun at this very word and done nothing yet. -/
def Chunk.fresh (ch : Chunk) : Bool :=
  ch.count == 0 && ch.rsec.isEmpty && ch.wbuf.isEmpty && ch.mread.isEmpty && ch.mcons.isEmpty && ch.exts.isEmpty
    && ch.pops.isEmpty && ch.pos == 0

/-! ## Squashes (06:R150, R151, R156, 19:R408 to R410, 03:R86) -/

/-- Returns the records a chunk popped to the front of their queues (09:R259). -/
def returnPops (cq : Tab (List Rec)) : List (Nat × Rec) → Tab (List Rec)
  | [] => cq
  | (e, x) :: t =>
    let cq := returnPops cq t
    tput cq e (x :: tget [] cq e)

/-- Returns a gang to the start of its open chunk (06:R151). Results that are still on their way are discarded as they
land, and the gang waits for its counters (08:R220). -/
def Gang.squash (g : Gang) : Gang :=
  match g.ch.snap with
  | none => g
  | some r =>
    let pend := (g.pend.filter (fun w => w.id < g.ch.firstId || w.land == none)).map (fun w =>
      if w.id < g.ch.firstId then w else { w with dst := [], vals := [] })
    { g with r := r, pend := pend
             ch := { snap := some r, firstId := g.ch.firstId, log := g.ch.log, squashes := g.ch.squashes + 1 }
             cq := returnPops g.cq g.ch.pops
             wait := if pend.any (fun w => w.land == none) then some .drain else none
             prog := 0, aw := none, trapDue := none }

/-- The signature sectors of a gang's open chunk. -/
def Gang.sig (g : Gang) : List Nat := addSet g.ch.rsec g.ch.wsec

/-- Takes the newest change of some locations out of the history of memory (06:R171). -/
def forget (locs : List Nat) : List (List (Nat × Byte)) → List (List (Nat × Byte))
  | [] => []
  | e :: t => if e.map (fun x => x.1) = locs then [] :: t else e :: forget locs t

/-- Puts back what one performed lane of a speculative far operation replaced, and takes the operation out of `fa` (06:R171). An open chunk that
has read the value is not squashed for it, which the spec leaves open (log 56). -/
def State.undoOne (s : State) (key size loc old : Nat) : State :=
  let locs := (List.range size).map (fun i => loc + i)
  { s.putAll key (locs.zip (leBytes size old)) with farHist := forget locs s.farHist }

/-- A speculative far operation that is taken back no longer writes its registers; its count ends (06:R171). -/
def Gang.dropFar (g : Gang) (o : FarOp) : Gang :=
  match o.pid with
  | none => g
  | some i =>
    match g.pend.find? (fun w => w.id == i) with
    | none => g
    | some w => g.land { w with dst := [], vals := [] }

/-- Takes back a task's speculative far operations, performed in whole or in part, the last first: the values that they replaced return,
and what was logged of them is to be sent again (06:R171). -/
def State.undoSpec (s : State) (gk : Nat) : State :=
  let key := s.keyNo (s.gangCx gk)
  let ops := (s.gang gk).far.filter (fun o => o.use == 4)
  let s := ops.reverse.foldl (fun t o => o.prior.reverse.foldl (fun t p => t.undoOne key o.size p.1 p.2) t) s
  s.modGang gk (fun g =>
    let g := ops.foldl Gang.dropFar g
    { g with far := g.far.filter (fun o => o.use != 4)
             ch := { g.ch with log := g.ch.log.map (fun e =>
               if nbits e.word.toNat 24 5 == 0x0c && nbits e.word.toNat 6 3 == 4 then { e with undone := true } else e) } })

/-- Aborts a timestamped task: its chunk and held-back records are discarded and it starts again from its entry; after
eight aborts in a row it waits for the lowest timestamp (03:R86, 19:R410). -/
def State.abortTask (s : State) (gk : Nat) (t : Task) : State :=
  let s := s.undoSpec gk
  let n := t.aborts + 1
  let t' : Task := { t with aborts := n, held := [], finished := false
                            spec := t.spec && n < 8, waitLow := t.waitLow || 8 ≤ n }
  let s := s.modGang gk (fun g =>
    let g := g.squash
    { g with task := some t'
             wait := if t'.waitLow && g.wait == none then some .task else g.wait })
  s.modSlice (slOfGk gk) (fun x => { x with ctrs := { x.ctrs with tabort := x.ctrs.tabort + 1 } })

/-- The open chunk of a gang is squashed; the eighth squash in a row asks for a sole grant, whose cover grows with every attempt. The spec does
not say whether the attempt squashed last before the request counts: the model's cover begins with its sectors (06:R156; log 56). -/
def State.squashChunk (s : State) (gk : Nat) : State :=
  let g := s.gang gk
  let sig := g.sig
  let s := s.modGang gk Gang.squash
  let s := s.modSlice (slOfGk gk) (fun x => { x with ctrs := { x.ctrs with squash := x.ctrs.squash + 1 } })
  if s.sole.any (fun q => q.gk == gk) then
    { s with sole := s.sole.map (fun q =>
        if q.gk == gk then { q with cover := addSet q.cover sig, mails := addSet q.mails g.ch.mread } else q) }
  else if 8 ≤ g.ch.squashes + 1 then
    let t : State := { s with sole := s.sole ++ [{ gk := gk, cover := sig, mails := g.ch.mread }] }
    if s.sole.isEmpty then t.countSole gk else t
  else s

/-- Squashes the open chunk of one gang: a speculative task aborts (03:R86, R93). -/
def State.squashGang (s : State) (gk : Nat) : State :=
  let g := s.gang gk
  match g.ch.snap, g.task with
  | none, _ => s
  | some _, some t => if t.spec then s.abortTask gk t else s.squashChunk gk
  | some _, none => s.squashChunk gk

/-- Squashes every open chunk of a list of gangs. -/
def State.squashList (s : State) : List Nat → State
  | [] => s
  | gk :: t => State.squashList (s.squashGang gk) t

/-- Squashes the open chunks, other than a gang's own, that have read one of the sectors: what a commit does. 06:R150 speaks of the open chunks
in the slice and 06:R160 of any other gang: the model squashes in every slice (log 56). -/
def State.squashReaders (s : State) (except_ : Option Nat) (secs : List Nat) : State :=
  s.squashList ((s.gangs.filter (fun e => e.2.live && some e.1 != except_ && meets e.2.ch.rsec secs)).map (fun e => e.1))

/-- Squashes the open chunks that have read or written one of the sectors: what a far or engine write does (19:R408). -/
def State.squashUsers (s : State) (secs : List Nat) : State :=
  s.squashList ((s.gangs.filter (fun e => e.2.live && (meets e.2.ch.rsec secs || meets e.2.ch.wsec secs))).map
    (fun e => e.1))

/-- Squashes the open chunks, other than a gang's own, that have read a mailbox: a write of the register (10:R281). -/
def State.squashMail (s : State) (except_ : Option Nat) (mb : Nat) : State :=
  s.squashList ((s.gangs.filter (fun e => e.2.live && some e.1 != except_ && e.2.ch.mread.contains mb)).map
    (fun e => e.1))

/-- What the holder of the sole grant covers now: its cover and its current attempt (06:R156). -/
def State.soleCover (s : State) : List Nat :=
  match s.sole with
  | [] => []
  | q :: _ => addSet q.cover (s.gang q.gk).sig

/-- Whether a gang other than the holder, or none, touches a covered sector. -/
def State.covered (s : State) (gk : Option Nat) (secs : List Nat) : Bool :=
  match s.sole with
  | [] => false
  | q :: _ => some q.gk != gk && meets s.soleCover secs

/-- The mailboxes that the holder of the sole grant covers (06:R156). -/
def State.soleMails (s : State) : List Nat :=
  match s.sole with
  | [] => []
  | q :: _ => addSet q.mails (s.gang q.gk).ch.mread

/-! ## Mailboxes (06:R177, 10:R281, 10:R282) -/

/-- Number of mailbox m of a core. -/
def mbOf (ck m : Nat) : Nat := ck * 32 + m

/-- Removes the first buffered value for a mailbox. -/
def takeMail (m : Nat) : List (Nat × Word) → Option (Word × List (Nat × Word))
  | [] => none
  | (k, v) :: t =>
    if k = m then some (v, t)
    else
      match takeMail m t with
      | none => none
      | some (w, t') => some (w, (k, v) :: t')

/-- Clears a presence bit at commit; the first buffered value for the mailbox then enters it. -/
def State.consumeMail (s : State) (gk ck m : Nat) : State :=
  let c := s.core ck
  let b := tget {} c.mail m
  if b.pres then
    match takeMail m c.mbuf with
    | some (v, t) =>
      (s.setCore ck { c with mail := tput c.mail m { val := v, pres := true }, mbuf := t }).squashMail (some gk) (mbOf ck m)
    | none => (s.setCore ck { c with mail := tput c.mail m { b with pres := false } }).squashMail (some gk) (mbOf ck m)
  else s

/-! ## Commits (06:R153 to R156) -/

/-- Records an engine fault, or one taken under the same rule, against a gang slot; one that cannot be goes to the context's log, and the host
is told (20:R422, R423). -/
def State.recordFault (s : State) (who : Pusher) (cause detail : Nat) (flt : W32) (va : Word) : State :=
  let g := s.gang who.gk
  let mine := g.live && g.actId == who.actId
  if mine && g.efaults.length < 4 then
    s.modGang who.gk (fun g => { g with efaults := g.efaults ++
      [{ word := who.word, cause := cause, detail := detail, flt := flt, va := va }] })
  else
    let cx := s.gangCx who.gk
    let e : EngLog := { dtc := s.dtc, word := who.word, status := detail * 256 + cause, lost := if mine then 1 else 0
                        gslot := slotOfGk who.gk, core := coreOfCk (ckOfGk who.gk), launch := who.launch, va := va }
    (s.modCtx cx (fun c =>
      if c.englog.length < 256 then { c with englog := c.englog ++ [e] }
      else { c with englogLost := c.englogLost + 1 })).note 5 cx

/-- The gang as the pusher of a command issued now (20:R422). -/
def State.pusher (s : State) (word : W32) : Pusher :=
  let g := s.gang s.cur
  { gk := s.cur, actId := g.actId, word := word, act := g.r.act, launch := g.launch }

/-- Performs the chunk's stores to host or peer memory in order; those that reach nothing are dropped and recorded
(10:R266, 21:R455). -/
def State.doExts (s : State) (gk : Nat) (exts : List (Nat × Nat × Byte)) : State :=
  let good := exts.filter (fun e => s.links.reaches e.1)
  let un := good.map (fun e => ({ gk := gk, pa := e.1, va := e.2.1, old := s.rdByte 0 e.1, far := false, at_ := s.clock.run } : ExtWrite))
  let s := s.wrAll 0 (good.map (fun e => (e.1, e.2.2)))
  let s := { s with links := { s.links with unacked := s.links.unacked ++ un } }
  match exts.find? (fun e => !s.links.reaches e.1) with
  | none => s
  | some e =>
    let g := s.gang gk
    (s.lostAt (slOfGk gk) 0xff 0xff e.1).recordFault { gk := gk, actId := g.actId, word := 0#32, act := g.r.act, launch := g.launch } 0x09 0
      g.r.act (BitVec.ofNat 64 e.2.1)

/-- The arbiter domain of a location: global memory by its MiB, shared SRAM by that of its offset, a scratchpad by its cluster. The hash
that picks the arbiter is fixed and open (log 5). TCM belongs to none: its core is its arbiter, under the same rules (06:R155). -/
def domainOf (loc : Nat) : Nat :=
  match spaceOfLoc loc with
  | 0 => Config.arbiter 0 (nbits loc 20 28) % 64
  | 2 => Config.arbiter 2 (nbits loc 20 7) % 64
  | 3 => Config.arbiter 3 (unitOfLoc loc) % 64
  | _ => 64 + unitOfLoc loc

/-- The domains whose grants the open chunk of a gang takes, ascending: those that its signatures touch (06:R153, R155). -/
def Gang.domains (g : Gang) : List Nat := sortBy id (addSet [] (g.sig.map (fun c => domainOf (256 * c))))

/-- The holder of a sole grant covers what the chunk of another gang touched (06:R156). -/
def State.soleBlocks (s : State) (gk : Nat) : Bool :=
  let g := s.gang gk
  s.covered (some gk) g.sig ||
    (s.sole.head?.any (fun q => q.gk != gk) && meets s.soleMails (addSet g.ch.mread g.ch.mcons))

/-- A request for grants came before another one, those of one cycle by gang (06:R156). -/
def askedBefore (x y : Nat × Gang) : Bool :=
  match x.2.ch.asked, y.2.ch.asked with
  | some a, some b => decide (a < b) || (a == b && decide (x.1 < y.1))
  | some _, none => true
  | none, _ => false

/-- The commit of a gang's chunk would send packets over the mesh, and its slice's partition injects none (04:R123, 19:R414). -/
def State.keepsIn (s : State) (gk : Nat) : Bool :=
  let ch := (s.gang gk).ch
  s.injOff (slOfGk gk) && (!ch.exts.isEmpty || ch.wsec.any (fun c => spaceOfLoc (256 * c) == 0 || spaceOfLoc (256 * c) == 2))

/-- Another chunk asked earlier for the grant of one of the chunk's domains, and may have it; the holder of the sole grant stands behind none
(06:R156). A slice that is halted commits nothing (18:R399). -/
def State.behind (s : State) (gk : Nat) : Bool :=
  let g := s.gang gk
  !s.sole.head?.any (fun q => q.gk == gk) &&
    s.gangs.any (fun e => e.1 != gk && e.2.live && !e.2.stopped && !(s.ctx (s.gangCx e.1)).dbg.hreq && !s.soleBlocks e.1 &&
      !s.keepsIn e.1 && askedBefore e (gk, g) && meets e.2.domains g.domains)

/-- A commit is held while another gang's sole grant covers what the chunk touched, an arbiter serves an earlier request, or the slice's
partition injects nothing and the commit would (06:R156, 04:R123). -/
def State.commitBlocked (s : State) (gk : Nat) : Bool := s.soleBlocks gk || s.behind gk || s.keepsIn gk

/-! ## The directory (04:R115 to R117) -/

/-- The home cluster of a line of global memory. -/
def State.homeOf (s : State) (sl line : Nat) : Nat := clkOf sl (Config.homeHash (s.slice sl).nclus line % (s.slice sl).nclus)

/-- The directory without a line: it is uncached, and its record is free. -/
def dirDrop (line : Nat) (d : List DirLine) : List DirLine := d.filter (fun e => e.line != line)

/-- A quad caches a line to read it: it becomes a sharer, and a line that another quad holds exclusive becomes shared. A fifth sharer
raises an internal trap to the directory handler (04:R116, R117). -/
def Cluster.share (c : Cluster) (line q : Nat) : Cluster :=
  match c.dir.find? (fun e => e.line == line) with
  | none => { c with dir := { line := line, exclusive := false, sharers := [q], ext := false, broadcast := false } :: c.dir }
  | some d =>
    if d.sharers.contains q || d.broadcast then c
    else if d.sharers.length < 4 then { c with dir := { d with exclusive := false, sharers := d.sharers ++ [q] } :: dirDrop line c.dir }
    else if c.dirTraps.contains (line, q) then c
    else { c with dirTraps := c.dirTraps ++ [(line, q)] }

/-- A quad holds a line exclusive to write it: every other copy is invalidated (04:R116). -/
def Cluster.own (c : Cluster) (line q : Nat) : Cluster :=
  { c with dir := { line := line, exclusive := true, sharers := [q], ext := false, broadcast := false } :: dirDrop line c.dir
           dirTraps := c.dirTraps.filter (fun e => e.1 != line) }

/-- Every copy of a line is invalidated: it stays uncached (04:R121). -/
def Cluster.uncache (c : Cluster) (line : Nat) : Cluster :=
  { c with dir := dirDrop line c.dir, dirTraps := c.dirTraps.filter (fun e => e.1 != line) }

/-- What some accesses to global memory do to the directories of a slice: the lines of 1,024 bytes of the sectors (04:R114). -/
def State.dirAll (s : State) (sl : Nat) (f : Cluster → Nat → Cluster) (secs : List Nat) : State :=
  (addSet [] ((secs.filter (fun c => spaceOfLoc (256 * c) == 0)).map (fun c => c / 4))).foldl (fun t line =>
    t.modCluster (t.homeOf sl line) (fun c => f c line)) s

/-- Every cached copy of some sectors is invalidated, whatever slice caches it (04:R121, 13:R348). -/
def State.uncacheAll (s : State) (secs : List Nat) : State := s.slices.foldl (fun t e => t.dirAll e.1 Cluster.uncache secs) s

/-- The gang's quad reads, or writes, lines of ordinary pages. -/
def State.dirRead (s : State) (gk : Nat) (secs : List Nat) : State :=
  s.dirAll (slOfGk gk) (fun c l => c.share l (quadOfQk (qkOfGk gk))) secs
def State.dirWrite (s : State) (gk : Nat) (secs : List Nat) : State :=
  s.dirAll (slOfGk gk) (fun c l => c.own l (quadOfQk (qkOfGk gk))) secs

/-- Releases a gang's sole request. -/
def State.releaseSole (s : State) (gk : Nat) : State := s.dropSole (fun k => k == gk)

/-- Commits the open chunk of a gang at one point: buffered writes are published, readers of them are squashed, mailbox
consumptions take effect, stores to host memory are performed (06:R153, 06:R177). -/
def State.commitNow (s : State) (gk : Nat) : State :=
  let g := s.gang gk
  let ch := g.ch
  let s := s.wrAll (s.keyNo (s.gangCx gk)) ch.wbuf.reverse
  let s := s.dirWrite gk ch.wsec
  -- a quad caches a line while it holds a sector of it
  let s := s.dirAll (slOfGk gk) Cluster.uncache (ch.nasec.filter (fun c => ch.wsec.all (fun w => ch.nasec.contains w || w / 4 != c / 4)))
  let s := s.doExts gk ch.exts
  let s := s.modGang gk (fun g => { g with ch := {}, far := g.far.map (fun o => { o with logAt := none }) })
  let s := s.releaseSole gk
  let s := s.squashReaders (some gk) ch.wsec
  ch.mcons.foldl (fun t mb => t.consumeMail gk (mb / 32) (mb % 32)) s

/-- Sets a reason to wait: the gang keeps its slot and its word (03:R91). -/
def State.waitFor (s : State) (k : WaitKind) : State := s.modGang s.cur (fun g => { g with
  wait := some k, ch := if k == .grant then { g.ch with asked := some (g.ch.asked.getD s.now) } else g.ch })

/-- The word is held at issue until a cycle in which writes of fixed latency have landed (08:R213, R215). -/
def State.holdTill (s : State) (t : Nat) : State := s.modGang s.cur (fun g => { g with readyAt := max g.readyAt t })

/-- The gang observes some bytes by a far operation (06:R168). -/
def Gang.observe (g : Gang) (loc n at_ : Nat) : Gang :=
  { g with obs := (List.range n).foldl (fun m i => tput m (loc + i) at_) g.obs }

/-- The gang acquires: what its later reads may return begins here (06:R168, R173, R179). -/
def State.acquired (s : State) : State := s.modGang s.cur (fun g => { g with obsAcq := s.farHist.length })

/-- A speculative task that may not go on waits for the lowest timestamp and restarts without speculation (03:R85,
18:R389). -/
def State.taskToLow (s : State) (gk : Nat) : State :=
  let s := s.undoSpec gk
  s.modGang gk (fun g =>
    let g := g.squash
    { g with task := g.task.map (fun t => { t with spec := false, waitLow := true, held := [], finished := false })
             ch := { g.ch with squashes := 0 }
             wait := if g.wait == none then some .task else g.wait })

/-- The gang runs a speculative task. -/
def Gang.spec (g : Gang) : Bool :=
  match g.task with
  | some t => t.spec
  | none => false

/-- Ends the chunk before the current word, then goes on; the gang waits while the commit is held, and a speculative task
restarts without speculation (06:R148, 03:R85). -/
def State.before (s : State) (k : State → State) : State :=
  let g := s.gang s.cur
  if g.spec then s.taskToLow s.cur
  else if g.ch.fresh then k (s.modGang s.cur (fun g => g.openChunk s.fresh))
  else if s.commitBlocked s.cur then s.waitFor .grant
  else
    let s := s.commitNow s.cur
    k (s.modGang s.cur (fun g => g.openChunk s.fresh))

/-! ## Going on to the next word -/

/-- The active level, not held for a trap level, that ends on a word: the most recently started (09:R252). -/
def Regs.dueLevel (r : Regs) (pc : Nat) : Option (Nat × LoopLevel) :=
  let c := (r.loops.filter (fun e => e.2.active && e.2.held == 0 && e.2.last == pc))
  c.foldl (fun m e => match m with
    | none => some e
    | some x => if x.2.since < e.2.since then some e else m) none

/-- The loop-nest unit after a word that transfers nowhere (09:R252). -/
def Regs.loopBack : Nat → Regs → Regs
  | 0, r => { r with pc := r.pc + 1 }
  | n + 1, r =>
    match r.dueLevel r.pc with
    | none => { r with pc := r.pc + 1 }
    | some (k, lv) =>
      if lv.left = 0 then Regs.loopBack n { r with loops := tput r.loops k { lv with active := false } }
      else { r with loops := tput r.loops k { lv with left := lv.left - 1, i := lv.i + lv.step }, pc := lv.first }

/-- The next word after one that transfers nowhere: the repeat frame, then the loop levels (09:R256, 09:R252). -/
def Regs.next (r : Regs) : Regs :=
  match r.rep with
  | none => r.loopBack 4
  | some f =>
    if f.word + 1 < f.len then { r with rep := some { f with word := f.word + 1 }, pc := f.start + 2 + f.word }
    else if f.pass + 1 < f.count then { r with rep := some { f with word := 0, pass := f.pass + 1 }, pc := f.start + 1 }
    else Regs.loopBack 4 { r with rep := none }

/-- A taken branch to a word outside an active level's body ends it and every level started after it (09:R253). -/
def Regs.endOutside (r : Regs) (target : Nat) : Regs :=
  let live (lv : LoopLevel) : Bool := lv.active && lv.held == 0
  let out := r.loops.filter (fun e => live e.2 && (decide (target < e.2.first) || decide (e.2.last < target)))
  match minBy (fun e : Nat × LoopLevel => e.2.since) out with
  | none => r
  | some x =>
    { r with loops := r.loops.map (fun e =>
        if live e.2 && decide (x.2.since ≤ e.2.since) then (e.1, { e.2 with active := false }) else e) }

/-- The word has issued and is done: count it, note the timing of 08:R213 and the order of 03:R83, and continue with the
register state r. The 512th word ends the chunk (06:R148). -/
def State.retire (s : State) (st : BitVec 3) (r : Regs) : State :=
  let gk := s.cur
  let s := s.modCore (ckOfGk gk) (fun c => { c with nextIssue := s.now + 1, lastIssued := slotOfGk gk })
  let s := s.modGang gk (fun g =>
    { g with r := r, ch := { g.ch with count := g.ch.count + 1 }, readyAt := s.now + 1 + st.toNat, yielded := false
             wait := none, prog := 0, aw := none, sent := tdel g.sent (g.r.tr.tlvl + 1) })
  let g := s.gang gk
  if 512 ≤ g.ch.count && !g.spec && !s.commitBlocked gk then s.commitNow gk else s

/-- The word is done and transfers nowhere. -/
def State.finish (s : State) (st : BitVec 3) : State := s.retire st (s.gang s.cur).r.next

/-- The word is done and the gang continues at a target. -/
def State.finishAt (s : State) (st : BitVec 3) (target : Nat) : State :=
  s.retire st { (s.gang s.cur).r with pc := target }

/-- The word is done and ends the chunk after it: a chunk of 512 words commits at once or before the next word. -/
def State.retireEnd (s : State) (st : BitVec 3) (r : Regs) : State :=
  (s.modGang s.cur (fun g => { g with ch := { g.ch with count := 511 } })).retire st r

def State.finishEnd (s : State) (st : BitVec 3) : State := s.retireEnd st (s.gang s.cur).r.next

/-! ## Plain data through an access (10:R264, 10:R265, 04:R101 to R104) -/

/-- Bytes of an element of a decoding window: first location, bit shift and width (04:R101). -/
def Place.elemAt (p : Place) (k : Nat) : Nat × Nat × Nat :=
  let b := fmtBits p.fmt
  let bit := b * (p.elem + k)
  (p.ext + bit / 8, bit % 8, b)

/-- Location of the scale of element k of an access (04:R102). -/
def Place.scaleAt (p : Place) (k : Nat) : Nat := p.scale + 2 * ((p.elem + k) / 32)

/-- The little-endian value of n bytes read by a byte reader. -/
def readLe (rd : Nat → Byte) (loc n : Nat) : Nat := leNat ((List.range n).map (fun i => rd (loc + i)))

/-- The stored bits of element k. -/
def Place.rawElem (p : Place) (rd : Nat → Byte) (k : Nat) : Nat :=
  let (loc, sh, b) := p.elemAt k
  nbits (readLe rd loc ((sh + b + 7) / 8)) sh b

/-- The 32-bit view value of element k (04:R103). -/
def Place.viewElem (p : Place) (rd : Nat → Byte) (k : Nat) : Nat :=
  let q := p.rawElem rd k
  if p.fmt ≤ 4 then (widen p.fmt q).1
  else if p.fmt = 7 then patN (sintN q 8) 32
  else groupToF32 (sintN q (fmtBits p.fmt)) (readLe rd (p.scaleAt k) 2)

/-- What a load of `size` bytes reads, zero-extended. -/
def Place.load (p : Place) (rd : Nat → Byte) (size : Nat) : Nat :=
  if p.space = .win then
    if size = 8 then p.viewElem rd 0 + 2 ^ 32 * p.viewElem rd 1 else p.viewElem rd 0
  else readLe rd p.loc size

/-- The stored bits of element k after a store of a 32-bit view value, and the flags it sets (04:R103). -/
def Place.encElem (p : Place) (rd : Nat → Byte) (k v : Nat) : Nat × Flags5 :=
  if p.fmt ≤ 4 then narrow p.fmt 0 true (v % 2 ^ 32)
  else if p.fmt = 7 then
    let x := sintN v 32
    if x > 127 then (127, flOverflow) else if x < -128 then (0x80, flOverflow) else (patN x 8, 0#5)
  else
    let (lo, hi) : Int × Int := if p.fmt = 5 then (-8, 7) else (-4, 3)
    let (q, fl) := groupOfF32 (v % 2 ^ 32) (readLe rd (p.scaleAt k) 2) lo hi
    (patN q (fmtBits p.fmt), fl)

/-- One element store as one read-modify-write of its bytes (04:R104). -/
def Place.storeElem (p : Place) (rd : Nat → Byte) (k v : Nat) : List (Nat × Byte) × Flags5 :=
  let (loc, sh, b) := p.elemAt k
  let n := (sh + b + 7) / 8
  let (q, fl) := p.encElem rd k v
  let new := leBytes n (insBits (readLe rd loc n) q sh b)
  ((List.range n).zip new |>.map (fun e => (loc + e.1, e.2)), fl)

/-- The bytes a plain store of `size` bytes writes, in order, and the flags it sets. -/
def Place.store (p : Place) (rd : Nat → Byte) (size v : Nat) : List (Nat × Byte) × Flags5 :=
  if p.space = .win then
    let (w0, f0) := p.storeElem rd 0 (v % 2 ^ 32)
    if size = 8 then
      let rd1 (a : Nat) : Byte := match w0.reverse.find? (fun e => e.1 == a) with
        | some e => e.2
        | none => rd a
      let (w1, f1) := p.storeElem rd1 1 (v / 2 ^ 32)
      (w0 ++ w1, f0 ||| f1)
    else (w0, f0)
  else ((List.range size).zip (leBytes size v) |>.map (fun e => (p.loc + e.1, e.2)), 0#5)

/-- The sectors a load touches; those of a window access include its scale. -/
def Place.secs (p : Place) (size : Nat) : List Nat :=
  if p.space = .win then
    let n := if size = 8 then 2 else 1
    (List.range n).foldl (fun acc k =>
      let (loc, sh, b) := p.elemAt k
      let acc := addSet acc (sectorsOf loc ((sh + b + 7) / 8))
      if p.fmt = 5 ∨ p.fmt = 6 then addSet acc (sectorsOf (p.scaleAt k) 2) else acc) []
  else sectorsOf p.loc size

/-! ## Stage-2 faults (19:R406) -/

/-- A record for the page of a fault is outstanding. -/
def Vf.hasRec (v : Vf) (r : S2Rec) : Bool := v.s2q.any (fun e => e.2.ipa == r.ipa && e.2.ctx == r.ctx)

/-- A fault joins the record of its page. -/
def Vf.join (v : Vf) (r : S2Rec) : Vf :=
  { v with s2q := v.s2q.map (fun e =>
      if e.2.ipa == r.ipa && e.2.ctx == r.ctx then (e.1, { e.2 with joined := e.2.joined ++ r.joined }) else e) }

/-- Appends a record to a function's queue and counts it for its slice (19:R417). -/
def State.s2Append (s : State) (v sl : Nat) (r : S2Rec) : State :=
  (s.modVf v (fun f => { f with s2q := f.s2q ++ [(f.s2next, r)], s2next := f.s2next + 1 })).modSlice sl
    (fun x => { x with ctrs := { x.ctrs with s2flt := x.ctrs.s2flt + 1 } })

/-- A fault joins the record of its page, takes a record of its own, or waits for one. -/
def State.s2Enter (s : State) (v sl : Nat) (r : S2Rec) : State :=
  if (s.vf v).hasRec r then s.modVf v (fun f => f.join r)
  else if 256 ≤ (s.vf v).s2q.length ∨ (s.vf v).s2over ≠ [] then s.modVf v (fun f => { f with s2over := f.s2over ++ [(sl, r)] })
  else s.s2Append v sl r

/-- Reports a stage-2 fault of what stands at a core, which holds there and nowhere else; accesses to a page already reported join its
record. With a full queue it waits for an entry. -/
def State.stage2Record (s : State) (u : S2User) (gk va ipa : Nat) (wr table perm eng : Bool) : State :=
  let cx := s.gangCx gk
  let s := s.s2Leave cx (fun w => w == u)
  let r : S2Rec := { ipa := ipa / 65536 * 65536, va := BitVec.ofNat 64 va, dtc := s.dtc, ctx := cx % 8
                     kind := (if wr then 1 else 0) + (if table then 2 else 0) + (if eng then 4 else 0)
                       + (if perm then 8 else 0)
                     core := coreOfCk (ckOfGk gk), gslot := if eng then 7 else slotOfGk gk, joined := [u] }
  s.s2Enter (s.ctx cx).vf (slOfGk gk) r

/-- The current gang holds at a stage-2 fault. -/
def State.stage2Wait (s : State) (va ipa : Nat) (wr table perm : Bool) : State :=
  (s.stage2Record (.gang s.cur) s.cur va ipa wr table perm false).waitFor .stage2

/-! ## The word of a gang -/

/-- The word at an index of the gang's code store. -/
def State.wordAt (s : State) (gk pc : Nat) : W32 := tget 0#32 (s.quad (qkOfGk gk)).code pc

/-- A captured word uses its B field as a register: not in form I, in FCVT, nor in the unary members (09:R255). -/
def strideB (w : W32) : Bool :=
  let op := nbits w.toNat 24 5
  let fn := nbits w.toNat 4 5
  match op with
  | 0x01 | 0x02 => fn < 16 || fn == 27
  | 0x05 => true
  | 0x07 => !(fn == 8 || fn == 9 || (11 ≤ fn && fn ≤ 17) || fn == 19)
  | _ => false

/-- A captured word of a major that a repeat frame may hold, with its strided fields in pass k (09:R255, R256). -/
def RepFrame.strided (f : RepFrame) (w : W32) : W32 :=
  let op := nbits w.toNat 24 5
  let add (x lo stride : Nat) : Nat := insBits x (nbits x lo 5 + f.pass * stride) lo 5
  if [0x01, 0x02, 0x03, 0x05, 0x07, 0x08].contains op then
    let x := add (add w.toNat 19 f.ds) 14 f.as
    BitVec.ofNat 32 (if strideB w then add x 9 f.bs else x)
  else w

/-- The word that a gang issues next: the one at its pc, with the strides of its repeat frame. -/
def State.issueWord (s : State) (gk : Nat) : W32 :=
  let r := (s.gang gk).r
  let w := s.wordAt gk r.pc
  match r.rep with
  | none => w
  | some f => f.strided w


/-! ## Stores into the chunk, and the log of far operations (10:R265, 06:R151, R152) -/

/-- Whether an access to a place is a far operation: memory-side pages and host or peer memory (10:R266). -/
def Place.far (p : Place) : Bool := p.space == .ms || p.space == .host

/-- Whether a place is reached by translation. -/
def Place.global (p : Place) : Bool := p.space == .glob || p.space == .ms || p.space == .host

/-- The word being issued. -/
def State.word (s : State) : W32 := s.issueWord s.cur

/-- The sectors a plain store to a place writes. The spec counts the address written and does not say which one a store through a decoding
window has; the model counts the sectors of its storage bytes (log 47). -/
def Place.wsecs (p : Place) (size : Nat) : List Nat :=
  if p.space = .win then
    (List.range (if size = 8 then 2 else 1)).foldl (fun acc k =>
      let (loc, sh, b) := p.elemAt k
      addSet acc (sectorsOf loc ((sh + b + 7) / 8))) []
  else sectorsOf p.loc size

/-- A chunk whose writes would pass 64 sectors ends before the instruction (06:R148). -/
def State.sectorRoom (s : State) (secs : List Nat) (k : State → State) : State :=
  if (s.gang s.cur).ch.room secs then k s else s.before k

/-- One lane's store into the chunk: an element narrower than a byte is a read-modify-write of its bytes, and its scale is
read (04:R103, R104). -/
def State.storeLane (s : State) (size : Nat) (e : Nat × Nat × Place) (v : Word) : State :=
  let p := e.2.2
  if p.space = .host then
    let bs := (List.range size).zip (leBytes size v.toNat)
    s.modGang s.cur (fun g =>
      { g with ch := { g.ch with exts := g.ch.exts ++ bs.map (fun b => (p.loc + b.1, e.2.1 + b.1, b.2)) } })
  else
    let (ws, fl) := p.store (s.chByte s.cur) size v.toNat
    s.modGang s.cur (fun g =>
      let g := if p.global then (g.buffer ws).noteVa e.2.1 else g.buffer ws
      let g := if p.space = .win ∧ (p.fmt = 5 ∨ p.fmt = 6) then g.noteRead (p.secs size) else g
      { g with r := g.r.modLane e.1 (fun l => l.orFlags fl) })

/-- A logged operation needs one of the 16 places of the chunk's log; the 17th ends the chunk before it (06:R151). -/
def State.logRoom (s : State) (k : State → State) : State :=
  if 16 ≤ (s.gang s.cur).ch.pos then s.before k else k s

/-- The log entry at the chunk's position when it matches: word, active lanes, addresses and operands (06:R152). One whose operation an
abort took back does not (06:R171). -/
def Gang.logHit (g : Gang) (word : W32) (ops : List FarLane) : Option FarLog :=
  match g.ch.log[g.ch.pos]? with
  | none => none
  | some e => if e.word = word ∧ e.act = g.r.act ∧ e.ops = ops ∧ e.undone = false then some e else none

/-- An entry at the chunk's position is that of an operation an abort took back, sent again now. -/
def Gang.logAgain (g : Gang) (word : W32) (ops : List FarLane) : Bool :=
  g.ch.log[g.ch.pos]?.any (fun e => e.undone && e.word == word && e.act == g.r.act && e.ops == ops)

/-- Drops the entries at and after the position and logs a new operation there (06:R152). One that an abort took back and that is sent
again keeps the entries after it. -/
def Gang.logNew (g : Gang) (word : W32) (ops : List FarLane) (done : Bool) (res : List Nat) : Gang :=
  let n := g.ch.pos
  let e : FarLog := { word := word, act := g.r.act, ops := ops, done := done, res := res }
  if g.logAgain word ops then { g with ch := { g.ch with log := g.ch.log.set n e } }
  else { g with
    ch := { g.ch with log := g.ch.log.take n ++ [e] }
    far := g.far.map (fun o => match o.logAt with
      | some k => if n ≤ k then { o with logAt := none, pid := none } else o
      | none => o) }

/-- Moves the chunk's position past a logged operation. -/
def Gang.logStep (g : Gang) : Gang := { g with ch := { g.ch with pos := g.ch.pos + 1 } }

/-! ## Window slides (03:R75, R76, 19:R407) -/

/-- A planned slide of one lane: frames to spill and a frame to fill (first entry and address), and the lane's new base,
floor and `w26`. -/
structure Slide where
  lane : Nat
  spills : List (Int × Nat)
  fill : Option (Int × Nat)
  base : Int
  floor : Int
  w26 : Word

/-- Frames of 16 entries from the floor up, with their addresses. -/
def framesFrom (floor : Int) (w26 : Word) (n : Nat) : List (Int × Nat) :=
  (List.range n).map (fun (i : Nat) => (floor + 16 * (i : Int), (w26 + BitVec.ofNat 64 (128 * i)).toNat))

/-- The slide of `call` in one lane (03:R75). -/
def Lane.callSlide (l : Lane) (k : Nat) : Slide :=
  let b := l.base + 16
  let n := ((b + 24 - l.floor - 64 + 15) / 16).toNat
  let w26 := tget 0#64 l.hi 26
  { lane := k, spills := framesFrom l.floor w26 n, fill := none, base := b, floor := l.floor + 16 * (n : Int)
    w26 := w26 + BitVec.ofNat 64 (128 * n) }

/-- The slide of `ret` in one lane (03:R75). -/
def Lane.retSlide (l : Lane) (k : Nat) : Slide :=
  let b := l.base - 16
  let w26 := tget 0#64 l.hi 26
  if b < l.floor then
    let a := w26 - 128#64
    { lane := k, spills := [], fill := some (b, a.toNat), base := b, floor := b, w26 := a }
  else { lane := k, spills := [], fill := none, base := b, floor := l.floor, w26 := w26 }

/-- The spill of every resident entry below the base (03:R76). -/
def Lane.belowSlide (l : Lane) (k : Nat) : Slide :=
  let n := ((l.base - l.floor + 15) / 16).toNat
  let w26 := tget 0#64 l.hi 26
  { lane := k, spills := framesFrom l.floor w26 n, fill := none, base := l.base, floor := l.floor + 16 * (n : Int)
    w26 := w26 + BitVec.ofNat 64 (128 * n) }

/-- The sixteen 8-byte accesses of a frame. -/
def frameAddrs (a : Nat) : List Nat := (List.range 16).map (fun k => (a + 8 * k) % 2 ^ 64)

/-- The checks of every access of some slides, in lane order. -/
def State.slideChecks (s : State) (tl : Nat) (ps : List Slide) : List LaneChk :=
  ps.flatMap (fun p =>
    (p.spills.flatMap (fun f => (frameAddrs f.2).map (fun a =>
      ({ lane := p.lane, va := a, chk := s.check (ckOfGk s.cur) a 8 true .plain tl } : LaneChk)))) ++
    (match p.fill with
     | none => []
     | some f => (frameAddrs f.2).map (fun a =>
      ({ lane := p.lane, va := a, chk := s.check (ckOfGk s.cur) a 8 false .plain tl } : LaneChk))))

/-- What the checks of a slide decide: any row but 6 and 8 is a backing-store fault of cause 0x0c (19:R407). -/
def slideVerdict (cs : List LaneChk) : Verdict :=
  let bad := cs.filter (fun c => c.chk.row != 9 && c.chk.row != 6 && c.chk.row != 8)
  match bad with
  | c :: _ => .trap 0x0c (maskOf (bad.map LaneChk.lane)) c.va
  | [] =>
    match cs.find? (fun c => c.chk.row != 9) with
    | some c =>
      (match c.chk with
       | .stage2 ipa t p => .stage2 c.va ipa t p
       | _ => .pass)
    | none => .pass

/-- The sectors the spills of some slides write in the chunk. -/
def State.spillSecs (s : State) (tl : Nat) (ps : List Slide) : List Nat :=
  (s.slideChecks tl (ps.map (fun p => { p with fill := none }))).foldl (fun acc c =>
    match c.chk with
    | .ok p => if p.space = .ms then acc else addSet acc (p.wsecs 8)
    | _ => acc) []

/-- One 8-byte access of a slide: lane, address, whether it writes, and the value. -/
structure SlideAcc where
  lane : Nat
  va : Nat
  wr : Bool
  v : Nat

/-- Stack entry e of a lane. -/
def Lane.entAt (l : Lane) (e : Int) : Word := tget 0#64 l.ent (e.emod 64).toNat

/-- The accesses of some slides in order: of each lane the spills, the lowest entry at the lowest address, then the fill. -/
def Regs.slideAccs (r : Regs) (ps : List Slide) : List SlideAcc :=
  ps.flatMap (fun p =>
    p.spills.flatMap (fun f => (List.range 16).map (fun k =>
      ({ lane := p.lane, va := (f.2 + 8 * k) % 2 ^ 64, wr := true, v := ((r.lane p.lane).entAt (f.1 + (k : Int))).toNat } : SlideAcc))) ++
    (match p.fill with
     | none => []
     | some f => (List.range 16).map (fun k => ({ lane := p.lane, va := (f.2 + 8 * k) % 2 ^ 64, wr := false, v := 0 } : SlideAcc))))

/-- The accesses that are far operations: those to memory-side pages, and reads of host or peer memory (04:R120, 10:R266). -/
def State.farAccs (s : State) (tl : Nat) (as : List SlideAcc) : List FarLane :=
  as.filterMap (fun a =>
    match s.check (ckOfGk s.cur) a.va 8 a.wr .plain tl with
    | .ok p =>
      if p.space = .ms ∨ (p.space = .host ∧ !a.wr) then
        some { lane := a.lane, loc := p.loc, v := a.v, c := if a.wr then 1 else 0, va := a.va }
      else none
    | _ => none)

/-- Two ranges of bytes share one. -/
def overlaps (a n b m : Nat) : Bool := decide (a < b + m) && decide (b < a + n)

/-- The records of a launch that wait in queues or are on their way in a slice. -/
def State.waitingPackets (s : State) (sl launch : Nat) : List Packet :=
  let qs := s.quads.flatMap (fun e =>
    if slOfQk e.1 == sl then
      e.2.aq ++ e.2.ring ++ e.2.resend.map (fun r => r.2) ++ e.2.trains.flatMap Train.packets
        ++ e.2.outs.flatMap (fun o => o.2.2.packets)
    else [])
  let ds := s.cores.flatMap (fun e => if slOfCk e.1 == sl then e.2.deque else [])
  (qs ++ ds).filter (fun p => p.launch == launch && p.task && p.ts)

/-- A timestamp is the lowest uncommitted one of its launch (03:R85, R86). -/
def State.lowestStamp (s : State) (sl launch : Nat) (stamp : Word) : Bool :=
  s.gangs.all (fun e =>
    match e.2.task with
    | some t => !(e.2.live && slOfGk e.1 == sl && e.2.launch == launch) || decide (stamp.toNat ≤ t.stamp.toNat)
    | none => true) &&
  (s.waitingPackets sl launch).all (fun p => decide (stamp.toNat ≤ p.stamp.toNat))

/-- The task of a gang holds the lowest uncommitted timestamp of its launch. -/
def State.holdsLowest (s : State) (gk : Nat) : Bool :=
  let g := s.gang gk
  match g.task with
  | some t => s.lowestStamp (slOfGk gk) g.launch t.stamp
  | none => false

/-- A location whose prior value the unit keeps for another gang's speculative operation: that gang (06:R171). -/
def State.specHolder (s : State) (gk loc size : Nat) : Option Nat :=
  (s.gangs.find? (fun e => e.1 != gk && e.2.live &&
    e.2.far.any (fun o => o.use == 4 && o.prior.any (fun p => overlaps p.1 o.size loc size)))).map (fun e => e.1)

/-- What a held record does to an access of a gang: none when it waits, else the state in which it is performed, the holder aborted where its
task comes later. The timestamps of tasks of two launches are compared as those of one, and of two equal ones the later access waits, which the
spec leaves open (06:R171; log 56). -/
def State.specGate (s : State) (gk loc size : Nat) : Option State :=
  match s.specHolder gk loc size with
  | none => some s
  | some h =>
    let lower := match (s.gang gk).task, (s.gang h).task with
      | some t, some u => decide (t.stamp.toNat < u.stamp.toNat)
      | none, _ => true
      | _, none => false
    if lower && (s.gang h).spec && !s.holdsLowest h then
      match (s.gang h).task with
      | some u => some (s.abortTask h u)
      | none => none
    else none

/-- Far accesses of a slide that may not be performed yet: an earlier far operation of the gang to a location has not been performed, a
sole grant covers what they would modify, a task's record holds a location, or the slice's partition injects nothing (06:R156, R169,
R171, 04:R123). -/
def State.farBusy (s : State) (fs : List FarLane) : Bool :=
  let g := s.gang s.cur
  fs.any (fun x =>
    s.injOff (slOfGk s.cur) || g.far.any (fun o => !o.perf && o.lanes.any (fun y => overlaps x.loc 8 y.loc o.size)) ||
    (x.c == 1 && s.covered (some s.cur) (sectorsOf x.loc 8)) || (s.specGate s.cur x.loc 8).isNone)

/-- Performs far accesses of a slide at their unit: the values read, 0 for a write. They are performed as the word issues, in lane order, which
their use, non-ordering, leaves open (06:R163; log 56). -/
def State.farNow (s : State) : List FarLane → List Nat × State
  | [] => ([], s)
  | x :: t =>
    let s := (s.specGate s.cur x.loc 8).getD s
    let key := s.keyNo (s.gangCx s.cur)
    let v := if x.c = 1 then 0 else s.rdNat key x.loc 8
    let s := if x.c = 1 then (s.wrBytes key x.loc (leBytes 8 x.v)).squashUsers (sectorsOf x.loc 8)
      else s.modGang s.cur (fun g => g.observe x.loc 8 s.farHist.length)
    let (vs, s) := s.farNow t
    (v :: vs, s)

/-- One write of a spill in the gang's chunk (03:R75); the checks have passed. -/
def State.spillOne (s : State) (tl lane a : Nat) (v : Word) : State :=
  match s.check (ckOfGk s.cur) a 8 true .plain tl with
  | .ok p =>
    let s := if p.global then s.noteAccess (qkOfGk s.cur) (s.gangCx s.cur) a true else s
    if p.space = .ms then s else s.storeLane 8 (lane, a, p) v
  | _ => s

/-- One read of a fill; `res` holds the values that far accesses have read, by their address. -/
def State.fillOne (s : State) (tl a : Nat) (res : Tab Nat) : Word × State :=
  match s.check (ckOfGk s.cur) a 8 false .plain tl with
  | .ok p =>
    let s' := if p.global then s.noteAccess (qkOfGk s.cur) (s.gangCx s.cur) a false else s
    if p.far then (BitVec.ofNat 64 (tget 0 res a), s')
    else
      let s' := s'.modGang s.cur (fun g => g.noteRead (p.secs 8))
      (BitVec.ofNat 64 (p.load (s.chByte s.cur) 8), s'.dirRead s.cur (p.secs 8))
  | _ => (0#64, s)

/-- Spills one frame, the lowest entry at the lowest address. -/
def State.spillFrame (s : State) (tl lane : Nat) (f : Int × Nat) : State :=
  (List.range 16).foldl (fun t k =>
    t.spillOne tl lane ((f.2 + 8 * k) % 2 ^ 64) (((t.gang t.cur).r.lane lane).entAt (f.1 + (k : Int)))) s

/-- Fills one frame. -/
def State.fillFrame (s : State) (tl lane : Nat) (res : Tab Nat) (f : Int × Nat) : State :=
  (List.range 16).foldl (fun t k =>
    let (v, t) := t.fillOne tl ((f.2 + 8 * k) % 2 ^ 64) res
    t.modGang t.cur (fun g => { g with r := g.r.modLane lane (fun l =>
      { l with ent := tput l.ent ((f.1 + (k : Int)).emod 64).toNat v }) })) s

/-- Performs a checked slide; `zero` clears the callee's `w8` to `w23` (03:R75). -/
def State.doSlide (s : State) (tl : Nat) (zero : Bool) (res : Tab Nat) (p : Slide) : State :=
  let s := p.spills.foldl (fun t f => t.spillFrame tl p.lane f) s
  let s := match p.fill with
    | none => s
    | some f => s.fillFrame tl p.lane res f
  s.modGang s.cur (fun g => { g with r := g.r.modLane p.lane (fun l =>
    let l := { l with base := p.base, floor := p.floor, hi := tput l.hi 26 p.w26 }
    if zero then
      { l with ent := (List.range 16).foldl (fun e k => tput e ((p.base + 8 + (k : Int)).emod 64).toNat 0#64) l.ent }
    else l) })

/-- The far accesses of some slides as one logged far operation of the word: performed, or taken from the log, and what they read by
address (06:R151, R152). Nothing happens when there are none. -/
def State.slideFar (s : State) (tl : Nat) (as : List SlideAcc) : Tab Nat × State :=
  let fs := s.farAccs tl as
  if fs.isEmpty then ([], s)
  else
    match (s.gang s.cur).logHit s.word fs with
    | some e => ((fs.map (fun x => x.va)).zip e.res, s.modGang s.cur Gang.logStep)
    | none =>
      let w := s.word
      let (res, t) := s.farNow fs
      ((fs.map (fun x => x.va)).zip res, t.modGang s.cur (fun g => (g.logNew w fs true res).logStep))

/-- Performs some checked slides. -/
def State.slides (s : State) (tl : Nat) (zero : Bool) (ps : List Slide) : State :=
  let (res, s) := s.slideFar tl ((s.gang s.cur).r.slideAccs ps)
  ps.foldl (fun t p => t.doSlide tl zero res p) s

/-- Reads of some slide accesses would leave the quad while the slice's partition injects nothing (04:R123, 19:R414). -/
def State.fillsKept (s : State) (tl : Nat) (as : List SlideAcc) : Bool :=
  s.injOff (slOfGk s.cur) && as.any (fun a => !a.wr &&
    (match s.check (ckOfGk s.cur) a.va 8 false .plain tl with
     | .ok p => p.beyond
     | _ => false))

/-- Goes on unless accesses of some slides have to wait (06:R151, R156, R169, 04:R123). -/
def State.slideWait (s : State) (tl : Nat) (ps : List Slide) (k : State → State) : State :=
  let fs := s.farAccs tl ((s.gang s.cur).r.slideAccs ps)
  if s.fillsKept tl ((s.gang s.cur).r.slideAccs ps) then s.waitFor .farDrain
  else if fs.isEmpty then k s
  else if ((s.gang s.cur).logHit s.word fs).isNone && s.farBusy fs then s.waitFor .farDrain
  else s.logRoom k

/-! ## Taking a trap (18:R384 to R390) -/

/-- The place of a block of an object in a quad's code store. -/
def Quad.findBlk (q : Quad) (obj blk : Nat) : Option BlkRef :=
  (q.exts.find? (fun e => e.obj == obj && e.blk == blk && !e.dying)).map (fun e =>
    { start := e.start, len := e.len, obj := obj, idx := blk })

/-- The same for code that runs already: a removed copy serves until its extent is freed (02:R38, R39). -/
def Quad.findAny (q : Quad) (obj blk : Nat) : Option BlkRef :=
  (q.exts.find? (fun e => e.obj == obj && e.blk == blk)).map (fun e => { start := e.start, len := e.len, obj := obj, idx := blk })

/-- The object in a slot of a context. -/
def State.obj (s : State) (cx slot : Nat) : Option Obj := (tget {} (s.ctx cx).objs slot).obj

/-- The block and word of the trap entry of an object on a quad (02:R27); with none loaded the gang stands outside every
block and faults again (log 15). -/
def State.trapPoint (s : State) (gk slot : Nat) : BlkRef × Nat :=
  match s.obj (s.gangCx gk) slot with
  | none => ({}, 0)
  | some o =>
    match o.entries[o.trapEntry]? with
    | none => ({}, 0)
    | some e =>
      match (s.quad (qkOfGk gk)).findAny slot e.block with
      | none => ({}, 0)
      | some b => (b, b.start + e.word)

def TrapRegs.held (t : TrapRegs) (k : Nat) : Held := if k = 1 then t.held1 else t.held2
def TrapRegs.tpc (t : TrapRegs) (k : Nat) : Word := if k = 1 then t.tpc1 else t.tpc2
def TrapRegs.tmk (t : TrapRegs) (k : Nat) : Word := if k = 1 then t.tmk1 else t.tmk2

/-- The values of the registers of a level at a trap (18:R386). -/
structure TrapVals where
  tc : Word
  tpc : Word
  tmk : Word
  tva : Word

/-- Writes the registers of level j and sets the level (18:R388). -/
def TrapRegs.enter (t : TrapRegs) (j : Nat) (v : TrapVals) (h : Held) : TrapRegs :=
  if j = 1 then { t with tlvl := 1, tc1 := v.tc, tpc1 := v.tpc, tmk1 := v.tmk, tva1 := v.tva, held1 := h }
  else { t with tlvl := 2, tc2 := v.tc, tpc2 := v.tpc, tmk2 := v.tmk, tva2 := v.tva, held2 := h }

/-- The register values a trap gives. -/
def Regs.trapVals (r : Regs) (word : W32) (cause : Nat) (flt : W32) (va : Word) (ret : Nat) : TrapVals :=
  { tc := BitVec.ofNat 64 (word.toNat * 2 ^ 32 + cause % 256), tpc := BitVec.ofNat 64 (ret % 2 ^ 14)
    tmk := BitVec.ofNat 64 (r.act.toNat * 2 ^ 32 + flt.toNat), tva := va }

/-- Register state at a trap entry of level j: the level's registers, what it sets aside, and the handler's word; the
windows have slid already (18:R388, 18:R390). -/
def Regs.enterTrap (r : Regs) (j : Nat) (v : TrapVals) (h : Held) (blk : BlkRef) (pc : Nat) : Regs :=
  { r with tr := r.tr.enter j v h, rep := none, blk := blk, pc := pc
           loops := r.loops.map (fun e =>
             if e.2.active && e.2.held == 0 then (e.1, { e.2 with held := j }) else e) }

/-- What level j sets aside (18:R390). -/
def Regs.toHold (r : Regs) : Held :=
  { mark := r.div.length, rep := r.rep, bases := (List.range 32).map (fun l => (l, (r.lane l).base)), blk := r.blk }

/-- The window bases differ from that of the lowest lane (03:R75, 20:R420). -/
def Regs.baseMix (r : Regs) (m : W32) : W32 :=
  let b := (r.lane (lowLane m)).base
  maskOf ((lanesOf m).filter (fun l => (r.lane l).base != b))

/-- Kills the context of a gang for a fault of it (18:R393, 18:R394). -/
def State.killFor (s : State) (gk cause last : Nat) (v : TrapVals) : State :=
  s.kill (s.gangCx gk) cause last (coreOfCk (ckOfGk gk)) (slotOfGk gk) v.tc v.tpc v.tmk v.tva

/-- A gang that leaves its wait at `sget` leaves the line of its quad (10:R285). -/
def State.leaveLine (s : State) (gk : Nat) : State :=
  let qk := qkOfGk gk
  if (s.quad qk).port.getters.contains gk then
    s.modQuad qk (fun q => { q with port := { q.port with getters := q.port.getters.filter (fun k => k != gk) } })
  else s

/-- What a trap that is entered came from is dealt with: the recorded fault, or the audit to report (20:R422, 19:R416). -/
def State.dueDone (s : State) (gk : Nat) : State :=
  match (s.gang gk).trapDue.map TrapDue.src with
  | some .engine => s.modGang gk (fun g => { g with efaults := g.efaults.drop 1 })
  | some .audit => s.modQuad (qkOfGk gk) (fun q => { q with port := { q.port with audit := none } })
  | _ => s

/-- The entry proper, once the prefix has committed and the writes have landed: slide, registers, handler (18:R388). -/
def State.enterTrap (s : State) (cause : Nat) (v : TrapVals) : State :=
  let gk := s.cur
  let g := s.gang gk
  let j := g.r.tr.tlvl + 1
  let ps := g.r.active.map (fun l => (g.r.lane l).callSlide l)
  match slideVerdict (s.slideChecks j ps) with
  | .trap _ _ _ => s.killFor gk 0x0c cause v
  | .stage2 va ipa t p => s.stage2Wait va ipa true t p
  | .pass =>
    if s.farBusy (s.farAccs j (g.r.slideAccs ps)) then s.waitFor .farDrain
    else
    let h := g.r.toHold
    let s1 := s.modGang gk (fun g => { g with
      sent := match g.ch.log with
        | e :: _ => if g.prog != 0 && !e.done then tput g.sent j (e, g.prog, g.aw) else tdel g.sent j
        | [] => tdel g.sent j })
    let s1 := (s1.modGang gk (fun g => { g with ch := {} })).slides j true ps
    if s1.commitBlocked gk then s.waitFor .grant
    else
      let s2 := ((s1.commitNow gk).leaveLine gk).dueDone gk
      let (blk, pc) := s2.trapPoint gk g.r.blk.obj
      s2.modGang gk (fun g =>
        { g with r := g.r.enterTrap j v h blk pc, sb := [], wait := none, prog := 0, aw := none, trapDue := none
                 readyAt := max g.readyAt (s2.now + 1) })

/-- Takes the fault or `trap` that has been found, as far as it may: a fault at level 2 kills the context; the prefix of the chunk
commits; every outstanding register write lands; then the handler is entered (18:R384, R388). The word is not decided again. -/
def State.takeDue (s : State) : State :=
  let gk := s.cur
  let g := s.gang gk
  match g.trapDue with
  | none => s
  | some d =>
    let v := g.r.trapVals d.word d.cause d.flt d.va d.ret
    if 2 ≤ g.r.tr.tlvl then s.killFor gk 0x15 d.cause v
    else if !g.ch.fresh && s.commitBlocked gk then s.waitFor .grant
    else
      -- the prefix of the chunk commits; what a waiting word has sent stays logged
      let s := if g.ch.fresh then s else s.commitNow gk
      if (s.gang gk).varPend then s.waitFor .drain
      else
        let t := (s.gang gk).lastLand s.now
        if s.now < t then s.modGang gk (fun g => { g with wait := none, readyAt := max g.readyAt t })
        else (s.modGang gk (fun g => g.landDue s.now)).enterTrap d.cause v

/-- Finds a fault or a `trap` at the current word (18:R388): the return point, the word reported, cause, faulting lanes and fault
address. A speculative task restarts instead (18:R389). -/
def State.trapWith (s : State) (word : W32) (ret cause : Nat) (flt : W32) (va : Word) (src : TrapSrc := .word) : State :=
  if (s.gang s.cur).spec then s.taskToLow s.cur
  else (s.modGang s.cur (fun g => { g with
    trapDue := some { src := src, word := word, ret := ret, cause := cause, flt := flt, va := va } })).takeDue

/-- A fault of the current word: the handler returns to it (18:R388). -/
def State.trap (s : State) (cause : Nat) (flt : W32) (va : Word) (src : TrapSrc := .word) : State :=
  let pc := (s.gang s.cur).r.pc
  s.trapWith (s.wordAt s.cur pc) pc cause flt va src

/-- A fault of every active lane with no address. -/
def State.trapAll (s : State) (cause : Nat) : State := s.trap cause (s.gang s.cur).r.act 0#64

/-! ## Giving a level up and returning from one (18:R391, 18:R475) -/

/-- Releases what level k held and goes to level k - 1 (18:R391, 18:R475). -/
def Regs.release (r : Regs) (k : Nat) : Regs :=
  { r with tr := { r.tr with tlvl := k - 1 }
           rep := (r.tr.held k).rep, blk := (r.tr.held k).blk
           loops := r.loops.map (fun e => if e.2.held == k then (e.1, { e.2 with held := 0 }) else e) }

/-- The depth of the divergence stack that belongs to interrupted code (18:R390). -/
def Regs.markDepth (r : Regs) : Nat := if r.tr.tlvl = 0 then 0 else (r.tr.held r.tr.tlvl).mark

/-- Where 03:R71 leads: the register state; the gang has ended; or a merge whose bases differ (20:R421). -/
structure Settle where
  r : Regs
  ended : Bool
  bad : Option W32

/-- The loop of 03:R71 with the steps of 18:R475. -/
def Regs.settleGo : Nat → Regs → Settle
  | 0, r => { r := r, ended := true, bad := none }
  | n + 1, r =>
    if r.act ≠ 0#32 then { r := r, ended := false, bad := none }
    else if r.div.length ≤ r.markDepth then
      if r.tr.tlvl = 0 then { r := r, ended := true, bad := none }
      else Regs.settleGo n (r.release r.tr.tlvl)
    else
      match r.div with
      | [] => { r := r, ended := true, bad := none }
      | top :: rest =>
        if top.merging = false then
          Regs.settleGo n { r with div := { top with merging := true } :: rest, act := top.park, pc := top.tgt }
        else
          let bad := r.baseMix top.all
          if bad ≠ 0#32 then { r := { r with act := top.all, pc := top.join }, ended := false, bad := some bad }
          else Regs.settleGo n { r with act := top.all, pc := top.join + 1, div := rest }

/-- Lanes leave the gang (03:R71, 18:R391). -/
def Regs.leave (r : Regs) (m : W32) : Regs :=
  let keep := ~~~m
  let k64 (v : Word) : Word := v &&& BitVec.ofNat 64 (keep.toNat * 2 ^ 32 + 0xffff_ffff)
  { r with act := r.act &&& keep, thr := r.thr &&& keep
           div := r.div.map (fun e => { e with park := e.park &&& keep, all := e.all &&& keep })
           tr := { r.tr with tmk1 := k64 r.tr.tmk1, tmk2 := k64 r.tr.tmk2 } }

/-- The 16-byte form of an entry of the divergence stack (03:R70). -/
def DivEntry.word (e : DivEntry) : BitVec 128 :=
  BitVec.ofNat 128 (e.all.toNat * 2 ^ 96 + e.park.toNat * 2 ^ 32 + (if e.merging then 2 ^ 31 else 0) + (if e.jset then 2 ^ 30 else 0)
    + e.join % 2 ^ 14 * 2 ^ 16 + e.tgt % 2 ^ 14)

/-- The entries of a gang's divergence stack beyond its newest 8 lie in the slot's area of the TCM system area, the oldest first (03:R72,
R73; log 42). -/
def State.spillDiv (s : State) (gk : Nat) (div : List DivEntry) : State :=
  ((div.drop 8).reverse.zipIdx).foldl (fun t e =>
    t.wrBytes 0 (tcmLoc (ckOfGk gk) (0x7000 + 256 * slotOfGk gk + 16 * e.2)) (leBytes 16 e.1.word.toNat)) s

/-- A flit leaves a quad's send side: one credit, a copy kept for the audit, and the flit under way (10:R284, 19:R416). -/
def State.sendFlit (s : State) (qk : Nat) (f : Flit) : State :=
  let p := (s.quad qk).port
  let f := { f with no := (s.quad qk).sendNo }
  let s := s.modQuad qk (fun q => { q with sendNo := q.sendNo + 1, port := { q.port with
    credit := q.port.credit - 1, sent := q.port.sent + 1, copies := q.port.copies ++ [f] } })
  s.modQuad (qkOf (slOfQk qk) p.dst) (fun q => { q with port := { q.port with
    inflight := q.port.inflight ++ [(p.no * 2048 + quadOfQk qk, f)] } })

/-- A stream whose gang has ended is closed with a marker flit of zeros once there is credit for it, which frees the send side (10:R284,
04:R126). -/
def State.closeStream (s : State) (qk : Nat) : State :=
  let p := (s.quad qk).port
  if p.closing && decide (0 < p.credit) && !s.loopStop (slOfQk qk) then
    (s.sendFlit qk { words := List.replicate 8 0#64, mark := true }).modQuad qk (fun q => { q with port := { q.port with
      closing := false, opened := false } })
  else s

/-- The gang that holds a quad's send side gives it up: an open stream is to be closed; one that has sent nothing has none to close, and
gives up its channels (10:R284; log 48). -/
def StreamPort.leave (p : StreamPort) (gk : Nat) : StreamPort :=
  if p.holder = some gk then { p with holder := none, closing := p.opened, links := 0, backoff := none } else p

/-- A gang's activation ends: a stream it still sends is closed, its unpopped records are discarded, its slot is free; far operations it
sent go on (10:R284, 09:R259, 09:R249). -/
def State.endGang (s : State) (gk : Nat) : State :=
  let qk := qkOfGk gk
  let s := if (s.quad qk).port.holder == some gk then (s.modQuad qk (fun q => { q with port := q.port.leave gk })).closeStream qk else s
  let s := (s.releaseSole gk).leaveLine gk
  let g := s.gang gk
  -- what has been performed is done, and a task that has ended keeps no prior value (06:R171)
  let left := (g.far.filter (fun o => !o.perf)).map (fun o => { o with logAt := none, pid := none, prior := [], use := if o.use = 4 then 2 else o.use })
  s.setGang gk { actId := g.actId, launch := g.launch, far := left
                 readyAt := g.readyAt }

/-- Ends threads of a crew: a crew with no thread left gives up its reservation and its barrier objects (03:R88, 10:R276). -/
def State.crewEnd (s : State) (clk launch crew n : Nat) : State :=
  s.modCluster clk (fun c =>
    let mine (x : CrewRes) : Bool := x.launch == launch && x.crew == crew
    let crews := c.crews.map (fun x => if mine x then { x with alive := x.alive - n } else x)
    if crews.any (fun x => mine x && x.alive == 0) then
      { c with crews := crews.filter (fun x => !(mine x && x.alive == 0))
               bars := c.bars.map (fun e => if e.2.bound == some (launch, crew) then (e.1, {}) else e) }
    else { c with crews := crews })

/-- After lanes have left: the gang goes on by 03:R71, ends, or traps at a merge (20:R421). The word counts as issued. -/
def State.settle (s : State) (st : BitVec 3) (r : Regs) : State :=
  let x := r.settleGo 64
  if x.ended then
    let g := s.gang s.cur
    if g.spec then
      -- a finished task keeps its chunk open until it may commit (03:R86)
      s.modGang s.cur (fun g => { g with r := x.r, wait := some .task
                                         task := g.task.map (fun t => { t with finished := true }) })
    else (s.retire st x.r).endGang s.cur
  else
    match x.bad with
    | none => s.retire st x.r
    | some m =>
      (s.retire st x.r).trap 0x02 m 0#64

/-- `eret` at level k (18:R391). The code after it begins a new chunk (19:R409). -/
def State.eretAt (s : State) (st : BitVec 3) (k : Nat) : State :=
  let g := s.gang s.cur
  let r := g.r
  let h := r.tr.held k
  let act := BitVec.ofNat 32 ((r.tr.tmk k).toNat / 2 ^ 32)
  let tpc := wbits (r.tr.tpc k) 0 14
  if (lanesOf act).any (fun l => (r.lane l).base != tget 0 h.bases l + 16) then s.trapAll 0x02
  else if tpc < h.blk.start ∨ h.blk.start + h.blk.len ≤ tpc then s.trapAll 0x02
  else
    let a := act &&& r.thr
    let ps := (lanesOf a).map (fun l => (r.lane l).retSlide l)
    match slideVerdict (s.slideChecks k ps) with
    | .trap c m va => s.trap c m (BitVec.ofNat 64 va)
    | .stage2 va ipa t p => s.stage2Wait va ipa false t p
    | .pass =>
      s.slideWait k ps (fun s =>
        let s := s.slides k false ps
        let r := (s.gang s.cur).r
        s.retireEnd st { r.release k with act := a, div := r.div.drop (r.div.length - h.mark), pc := tpc })

/-- What a meaning answers. -/
abbrev Outcome := Host.Outcome State Fault Refusal

end Sys2Proof.Machine
end

