-- ==== Sys2Proof/Machine/Operands.lean ====
section
/-!
DEFINITION. The registers a word reads and writes, for the checking scoreboard (08:R218) and the interlock of 08:R215.
-/

namespace Sys2Proof.Machine

/-- The lanes an operand belongs to: every active lane, the selected ones, the lowest active one, the active ones of group g, or some lanes
(08:R206, 09:R231, 10:R284). -/
inductive Who where
  | act
  | sel
  | low
  | grp (g : Nat)
  | these (ls : List Nat)
  deriving DecidableEq, Repr

/-- A named register: `w` or `p`, with its lanes. -/
structure Operand where
  pred : Bool
  n : Nat
  who : Who
  deriving DecidableEq, Repr

/-- The registers of one word: those it reads and those it writes. -/
structure Operands where
  rd : List Operand
  wr : List Operand
  deriving DecidableEq, Repr

def opW (who : Who) (n : Nat) : Operand := { pred := false, n := n % 32, who := who }
def opP (who : Who) (n : Nat) : Operand := { pred := true, n := n % 8, who := who }

/-- Register pairs and longer runs. -/
def opRun (who : Who) (n k : Nat) : List Operand := (List.range k).map (fun i => opW who (n + i))

/-- A guard or branch condition reads its predicate in every active lane (08:R206). -/
def opGuard (g : Nat) : List Operand := if g % 8 = 0 then [] else [opP .act g]

/-- Fields of the forms (08:R205). -/
def fOp (w : W32) : Nat := nbits w.toNat 24 5
def fS (w : W32) : Nat := nbits w.toNat 29 3
def fD (w : W32) : Nat := nbits w.toNat 19 5
def fA (w : W32) : Nat := nbits w.toNat 14 5
def fB (w : W32) : Nat := nbits w.toNat 9 5
def fFn (w : W32) : Nat := nbits w.toNat 4 5
def fG (w : W32) : Nat := nbits w.toNat 0 4

/-- The unary members of FP (11:R287). -/
def fpUnary (fn : Nat) : Bool := fn == 8 || fn == 9 || (11 ≤ fn && fn ≤ 17) || fn == 19

/-- Operands of the arithmetic majors `0x01` to `0x08`. -/
def opsArith (w : W32) : Operands :=
  let (d, a, b, fn) := (fD w, fA w, fB w, fFn w)
  match fOp w with
  | 0x03 => { rd := [opW .act a], wr := [opW .act d] }
  | 0x04 => { rd := if nbits w.toNat 18 1 = 1 then [opW .act d] else [], wr := [opW .act d] }
  | 0x05 => { rd := opGuard (fG w) ++ [opW .sel a, opW .sel b], wr := [opW .sel d] }
  | 0x06 =>
    { rd := opGuard (fG w) ++ (if fn < 10 then [opW .sel a, opW .sel b] else [opP .sel a, opP .sel b])
      wr := [opP .sel d] }
  | 0x07 =>
    { rd := opGuard (fG w) ++ [opW .sel a] ++ (if fpUnary fn then [] else [opW .sel b]) ++
        (if 3 ≤ fn ∧ fn ≤ 5 then [opW .sel d] else [])
      wr := [opW .sel d] }
  | 0x08 => { rd := opGuard (fG w) ++ [opW .sel a], wr := [opW .sel d] }
  | _ =>
    -- `sel` reads both operands and writes in every active lane (09:R237)
    let who := if fn = 27 then Who.act else Who.sel
    { rd := opGuard (fG w) ++ [opW who a] ++ (if fn < 16 ∨ fn = 27 then [opW who b] else []), wr := [opW who d] }

/-- Operands of the memory majors `0x09` to `0x0c`. -/
def opsMem (w : W32) : Operands :=
  let (d, a, b) := (fD w, fA w, fB w)
  let n := if nbits w.toNat 0 2 = 2 then 2 else 1
  let m := nbits w.toNat 2 4
  let far := fOp w == 0x0c
  match fOp w with
  | 0x09 => { rd := if nbits w.toNat 0 2 = 3 then [] else [opW .act a], wr := [opW .act d] }
  | 0x0a => { rd := opW .act d :: (if nbits w.toNat 0 2 = 2 then [] else [opW .act a]), wr := [] }
  | _ =>
    { rd := opW .act a :: ((if far && m == 11 then [] else opRun .act b n) ++ (if m = 9 then opRun .act d n else []))
      wr := if far && (m == 12 || nbits w.toNat 6 3 == 1) then [] else opRun .act d n }

/-- Operands of the members of the other majors (09, 10, 11, 12 and 13). -/
def opsOther (w : W32) : Operands :=
  let (d, a, b, fn) := (fD w, fA w, fB w, fFn w)
  let g := opGuard (fG w)
  match fOp w with
  | 0x00 =>
    { rd := g ++ (if fn = 9 then [opW .low a] else if fn = 8 then [opW .act 7] else []), wr := [] }
  | 0x0d =>
    { rd := if fn = 4 then [opW .act d] else if fn = 7 then opRun .low d 2 else if 9 ≤ fn then [opW .low a] else []
      wr := if fn = 3 ∨ fn = 5 ∨ fn = 6 then [opW .act d] else if fn = 8 then opRun .act d 2 else [] }
  | 0x0e => { rd := opGuard (nbits w.toNat 20 4), wr := [] }
  | 0x0f =>
    { rd := g ++ (if fn = 5 ∨ fn = 6 ∨ fn = 8 then [opW .sel (nbits w.toNat 8 5)]
        else if fn = 7 then [opW .sel 27] else [])
      wr := if fn = 1 ∨ fn = 6 ∨ fn = 7 then [opW .sel 26] else [] }
  | 0x10 =>
    let r := nbits w.toNat 17 5
    let m := nbits w.toNat 14 3
    { rd := if m = 2 then [opW .act r] else if m < 4 then [opW .low r]
        else if m = 4 then [opP .act (nbits w.toNat 0 3)] else []
      wr := if m = 5 then [opW .act r] else [] }
  | 0x11 =>
    { rd := g ++ (if fn = 0 then [opW .sel d, opW .sel a] else [])
      wr := if 1 ≤ fn ∧ fn ≤ 3 then [opW .act d] else [] }
  | 0x12 =>
    { rd := g ++ (if fn < 2 then [opW .act a, opW .act b] else if fn = 2 then [opW .act a, opW .low b]
        else if fn ≤ 5 then [opP .act a] else if fn ≤ 8 then [opW .act a] else [])
      wr := if fn = 3 ∨ fn = 4 then [opP .sel d] else [opW .sel d] }
  | 0x13 =>
    { rd := g ++ [opW .sel a] ++ (if 1 ≤ fn ∧ fn ≤ 4 then [opW .sel b] else []) ++
        (if fn = 3 then [opW .sel d] else [])
      wr := if fn = 5 then [opW .sel d] else if fn = 6 then opRun .sel d 2 else [] }
  | 0x14 =>
    { rd := if fn = 0 then [opW .low b] else if fn = 1 then [opW .low a] else []
      wr := if fn = 6 then [opW .act d] else [] }
  | 0x15 =>
    { rd := match fn with
        | 0 => [opW .low d, opW .low a] ++ opRun .low b 2
        | 1 => [opW .low b]
        | 2 => [opW .low d, opW .low a, opW .low b]
        | 3 => opW .low a :: opRun .low b 2
        | 4 => [opW .low b]
        | _ => opRun .low d 2 ++ [opW .low a] ++ opRun .low b 2
      wr := [] }
  | 0x16 =>
    { rd := if fn = 0 then opW .low a :: opRun .low d 4 else if fn = 1 then [opW .low a, opW .low b] else [opW .low b]
      wr := [] }
  | 0x17 =>
    -- `dsety`, `dsetr`, `dinj`, `drdo` and `drdy` act per selected lane; the others are gang commands (12:R324)
    { rd := g ++ (if fn = 2 ∨ fn = 3 then [opW .sel a, opW .sel b] else if 8 ≤ fn then [opW .sel a]
        else if fn = 7 then [] else [opW .low a])
      wr := if 9 ≤ fn then [opW .sel d] else [] }
  | 0x18 =>
    { rd := [], wr := if fn = 0 then opRun .act d 2 else if fn = 1 ∨ fn = 3 then [opW .act d] else [] }
  | 0x1a =>
    let m := nbits w.toNat 12 2
    let lane := nbits w.toNat 0 12 == 0x010 || nbits w.toNat 0 12 == 0x011
    { rd := if m = 0 then [] else [opW (if lane then .act else .low) a], wr := if m = 0 then [opW .act d] else [] }
  | 0x1b =>
    let k := if fn = 0 then 0 else nbits w.toNat 9 2
    { rd := if fn = 2 then [] else opW (.grp k) d :: (if fn = 0 then [opW .low a] else [])
      wr := if fn = 2 then [opW .act d, opP .act (nbits w.toNat 11 3)] else [] }
  | _ => { rd := [], wr := [] }

/-- The registers a legal word reads and writes. -/
def operandsOf (w : W32) : Operands :=
  let op := fOp w
  if 0x01 ≤ op ∧ op ≤ 0x08 then opsArith w
  else if 0x09 ≤ op ∧ op ≤ 0x0c then opsMem w
  else opsOther w

/-- The lanes of an operand. -/
def Regs.whoLanes (r : Regs) (g : BitVec 4) : Who → List Nat
  | .act => r.active
  | .sel => r.selected g
  | .low => if r.act = 0#32 then [] else [r.l0]
  | .grp k => r.active.filter (fun l => l / 8 == k)
  | .these ls => ls

/-- The place of a register in a lane, none where a write of it is ignored. -/
def Regs.placeOf (r : Regs) (o : Operand) (l : Nat) : Option Dest :=
  if o.pred then destP o.n else (r.lane l).destW o.n

/-- The outstanding writes to one of some registers, in whatever lanes: what holds a word that writes them (08:R215). -/
def Gang.writing (g : Gang) (os : List Operand) : List PendWrite :=
  g.pend.filter (fun p => p.dst.any (fun e => os.any (fun o => g.r.placeOf o e.1 == some e.2)))

/-- The outstanding writes of a gang that name one of some registers in its lanes (08:R218; log 22). -/
def Gang.outstanding (g : Gang) (w : W32) (os : List Operand) : List PendWrite :=
  let gd := BitVec.ofNat 4 (fG w)
  let places := os.flatMap (fun o => (g.r.whoLanes gd o.who).filterMap (fun l =>
    (g.r.placeOf o l).map (fun d => (l, d))))
  g.pend.filter (fun p => p.dst.any (fun e => places.contains e))

end Sys2Proof.Machine
end

