-- ==== Sys2Proof/Machine/Alu.lean ====
section
/-!
DEFINITION. Integer operations: IALU and its 32-bit members, IALUI, MOVW and IMUL (09:R236 to R240).
-/

namespace Sys2Proof.Machine

/-! ## Shapes -/

/-- Writes `wd` of some lanes after a latency and goes on to the next word: what a register-only word does. -/
def State.put (s : State) (st : BitVec 3) (lat d : Nat) (vs : List (Nat × Word)) : State :=
  let x := (s.gang s.cur).r.destsW d vs
  (s.writeRegs lat x.1 x.2).finish st

/-- Writes `wd` of each selected lane with a value of that lane (09:R237). -/
def State.alu (s : State) (st : BitVec 3) (lat : Nat) (d : BitVec 5) (g : BitVec 4) (f : Nat → Word) : State :=
  s.put st lat d.toNat (((s.gang s.cur).r.selected g).map (fun l => (l, f l)))

/-- The register state of the gang that issues. -/
def State.regs (s : State) : Regs := (s.gang s.cur).r

/-- A binary member at its full width (09:R237). -/
def State.alu2 (s : State) (st : BitVec 3) (lat : Nat) (d a b : BitVec 5) (g : BitVec 4) (f : Word → Word → Word) : State :=
  s.alu st lat d g (fun l => f (s.regs.rdW l a.toNat) (s.regs.rdW l b.toNat))

/-- A unary member (09:R237). -/
def State.alu1 (s : State) (st : BitVec 3) (lat : Nat) (d a : BitVec 5) (g : BitVec 4) (f : Word → Word) : State :=
  s.alu st lat d g (fun l => f (s.regs.rdW l a.toNat))

/-- A 32-bit operation: low 32 bits in, sign-extended out (08:R207, 09:R237). -/
def low2 (f : W32 → W32 → W32) (a b : Word) : Word := (f (a.setWidth 32) (b.setWidth 32)).signExtend 64
def low1 (f : W32 → W32) (a : Word) : Word := (f (a.setWidth 32)).signExtend 64

/-! ## Operations at width n (09:R237) -/

def opAndn {n : Nat} (a b : BitVec n) : BitVec n := a &&& ~~~b
def opShl {n : Nat} (a b : BitVec n) : BitVec n := a <<< (b.toNat % n)
def opShr {n : Nat} (a b : BitVec n) : BitVec n := a >>> (b.toNat % n)
def opSar {n : Nat} (a b : BitVec n) : BitVec n := a.sshiftRight (b.toNat % n)
def opRol {n : Nat} (a b : BitVec n) : BitVec n := (a <<< (b.toNat % n)) ||| (a >>> (n - b.toNat % n))
def opMin {n : Nat} (a b : BitVec n) : BitVec n := if a.toInt ≤ b.toInt then a else b
def opMax {n : Nat} (a b : BitVec n) : BitVec n := if a.toInt ≤ b.toInt then b else a
def opMinu {n : Nat} (a b : BitVec n) : BitVec n := if a.toNat ≤ b.toNat then a else b
def opMaxu {n : Nat} (a b : BitVec n) : BitVec n := if a.toNat ≤ b.toNat then b else a

/-- An integer saturated to the signed range of n bits. -/
def saturate (n : Nat) (x : Int) : BitVec n :=
  let hi : Int := 2 ^ (n - 1) - 1
  let lo : Int := -(2 ^ (n - 1))
  BitVec.ofInt n (if x > hi then hi else if x < lo then lo else x)

def opAdds {n : Nat} (a b : BitVec n) : BitVec n := saturate n (a.toInt + b.toInt)
def opSubs {n : Nat} (a b : BitVec n) : BitVec n := saturate n (a.toInt - b.toInt)
def opAbs {n : Nat} (a : BitVec n) : BitVec n := if a.msb then -a else a
def opClz {n : Nat} (a : BitVec n) : BitVec n := BitVec.ofNat n (if a.toNat = 0 then n else n - 1 - log2N a.toNat)

/-- The number of the lowest set bit at or above i, looking at k bits. -/
def lowBit {n : Nat} (a : BitVec n) : Nat → Nat → Nat
  | i, 0 => i
  | i, k + 1 => if a.getLsbD i then i else lowBit a (i + 1) k

def opCtz {n : Nat} (a : BitVec n) : BitVec n := BitVec.ofNat n (lowBit a 0 n)
def opPopc {n : Nat} (a : BitVec n) : BitVec n := BitVec.ofNat n ((List.range n).filter (fun i => a.getLsbD i)).length
def opBrev {n : Nat} (a : BitVec n) : BitVec n :=
  BitVec.ofNat n ((List.range n).foldl (fun acc i => if a.getLsbD i then acc + 2 ^ (n - 1 - i) else acc) 0)

/-! ## IALU, 64-bit -/

/-- ADD, 09:R237: 64-bit wrapping add. -/
def execAdd (st : BitVec 3) (d : BitVec 5) (a : BitVec 5) (b : BitVec 5) (g : BitVec 4) (s : State) : Outcome :=
  .next (s.alu2 st 1 d a b g (fun x y => x + y))

/-- SUB, 09:R237: 64-bit wrapping subtract. -/
def execSub (st : BitVec 3) (d : BitVec 5) (a : BitVec 5) (b : BitVec 5) (g : BitVec 4) (s : State) : Outcome :=
  .next (s.alu2 st 1 d a b g (fun x y => x - y))

/-- AND, 09:R237: 64-bit bitwise and. -/
def execAnd (st : BitVec 3) (d : BitVec 5) (a : BitVec 5) (b : BitVec 5) (g : BitVec 4) (s : State) : Outcome :=
  .next (s.alu2 st 1 d a b g (fun x y => x &&& y))

/-- OR, 09:R237: 64-bit bitwise or. -/
def execOr (st : BitVec 3) (d : BitVec 5) (a : BitVec 5) (b : BitVec 5) (g : BitVec 4) (s : State) : Outcome :=
  .next (s.alu2 st 1 d a b g (fun x y => x ||| y))

/-- XOR, 09:R237: 64-bit bitwise xor. -/
def execXor (st : BitVec 3) (d : BitVec 5) (a : BitVec 5) (b : BitVec 5) (g : BitVec 4) (s : State) : Outcome :=
  .next (s.alu2 st 1 d a b g (fun x y => x ^^^ y))

/-- ANDN, 09:R237: 64-bit a and not b. -/
def execAndn (st : BitVec 3) (d : BitVec 5) (a : BitVec 5) (b : BitVec 5) (g : BitVec 4) (s : State) : Outcome :=
  .next (s.alu2 st 1 d a b g opAndn)

/-- SHL, 09:R237: 64-bit shift left by b mod 64. -/
def execShl (st : BitVec 3) (d : BitVec 5) (a : BitVec 5) (b : BitVec 5) (g : BitVec 4) (s : State) : Outcome :=
  .next (s.alu2 st 1 d a b g opShl)

/-- SHR, 09:R237: 64-bit logical shift right. -/
def execShr (st : BitVec 3) (d : BitVec 5) (a : BitVec 5) (b : BitVec 5) (g : BitVec 4) (s : State) : Outcome :=
  .next (s.alu2 st 1 d a b g opShr)

/-- SAR, 09:R237: 64-bit arithmetic shift right. -/
def execSar (st : BitVec 3) (d : BitVec 5) (a : BitVec 5) (b : BitVec 5) (g : BitVec 4) (s : State) : Outcome :=
  .next (s.alu2 st 1 d a b g opSar)

/-- ROL, 09:R237: 64-bit rotate left. -/
def execRol (st : BitVec 3) (d : BitVec 5) (a : BitVec 5) (b : BitVec 5) (g : BitVec 4) (s : State) : Outcome :=
  .next (s.alu2 st 1 d a b g opRol)

/-- MIN, 09:R237: Signed 64-bit minimum. -/
def execMin (st : BitVec 3) (d : BitVec 5) (a : BitVec 5) (b : BitVec 5) (g : BitVec 4) (s : State) : Outcome :=
  .next (s.alu2 st 1 d a b g opMin)

/-- MAX, 09:R237: Signed 64-bit maximum. -/
def execMax (st : BitVec 3) (d : BitVec 5) (a : BitVec 5) (b : BitVec 5) (g : BitVec 4) (s : State) : Outcome :=
  .next (s.alu2 st 1 d a b g opMax)

/-- MINU, 09:R237: Unsigned 64-bit minimum. -/
def execMinu (st : BitVec 3) (d : BitVec 5) (a : BitVec 5) (b : BitVec 5) (g : BitVec 4) (s : State) : Outcome :=
  .next (s.alu2 st 1 d a b g opMinu)

/-- MAXU, 09:R237: Unsigned 64-bit maximum. -/
def execMaxu (st : BitVec 3) (d : BitVec 5) (a : BitVec 5) (b : BitVec 5) (g : BitVec 4) (s : State) : Outcome :=
  .next (s.alu2 st 1 d a b g opMaxu)

/-- ADDS, 09:R237: Signed saturating 64-bit add. -/
def execAdds (st : BitVec 3) (d : BitVec 5) (a : BitVec 5) (b : BitVec 5) (g : BitVec 4) (s : State) : Outcome :=
  .next (s.alu2 st 1 d a b g opAdds)

/-- SUBS, 09:R237: Signed saturating 64-bit subtract. -/
def execSubs (st : BitVec 3) (d : BitVec 5) (a : BitVec 5) (b : BitVec 5) (g : BitVec 4) (s : State) : Outcome :=
  .next (s.alu2 st 1 d a b g opSubs)

/-- NEG, 09:R237: 64-bit wrapping negate. -/
def execNeg (st : BitVec 3) (d : BitVec 5) (a : BitVec 5) (g : BitVec 4) (s : State) : Outcome :=
  .next (s.alu1 st 1 d a g (fun x => -x))

/-- ABS, 09:R237: 64-bit wrapping absolute value. -/
def execAbs (st : BitVec 3) (d : BitVec 5) (a : BitVec 5) (g : BitVec 4) (s : State) : Outcome :=
  .next (s.alu1 st 1 d a g opAbs)

/-- CLZ, 09:R237: Counts leading zero bits. -/
def execClz (st : BitVec 3) (d : BitVec 5) (a : BitVec 5) (g : BitVec 4) (s : State) : Outcome :=
  .next (s.alu1 st 1 d a g opClz)

/-- CTZ, 09:R237: Counts trailing zero bits. -/
def execCtz (st : BitVec 3) (d : BitVec 5) (a : BitVec 5) (g : BitVec 4) (s : State) : Outcome :=
  .next (s.alu1 st 1 d a g opCtz)

/-- POPC, 09:R237: Counts set bits. -/
def execPopc (st : BitVec 3) (d : BitVec 5) (a : BitVec 5) (g : BitVec 4) (s : State) : Outcome :=
  .next (s.alu1 st 1 d a g opPopc)

/-- SEXT8, 09:R237: Sign-extends the low 8 bits. -/
def execSext8 (st : BitVec 3) (d : BitVec 5) (a : BitVec 5) (g : BitVec 4) (s : State) : Outcome :=
  .next (s.alu1 st 1 d a g (fun x => sext x.toNat 8))

/-- SEXT16, 09:R237: Sign-extends the low 16 bits. -/
def execSext16 (st : BitVec 3) (d : BitVec 5) (a : BitVec 5) (g : BitVec 4) (s : State) : Outcome :=
  .next (s.alu1 st 1 d a g (fun x => sext x.toNat 16))

/-- SEXT32, 09:R237: Sign-extends the low 32 bits. -/
def execSext32 (st : BitVec 3) (d : BitVec 5) (a : BitVec 5) (g : BitVec 4) (s : State) : Outcome :=
  .next (s.alu1 st 1 d a g (fun x => sext x.toNat 32))

/-- ZEXT32, 09:R237: Zero-extends the low 32 bits. -/
def execZext32 (st : BitVec 3) (d : BitVec 5) (a : BitVec 5) (g : BitVec 4) (s : State) : Outcome :=
  .next (s.alu1 st 1 d a g (fun x => zext x.toNat 32))

/-- BREV, 09:R237: Reverses the bit order. -/
def execBrev (st : BitVec 3) (d : BitVec 5) (a : BitVec 5) (g : BitVec 4) (s : State) : Outcome :=
  .next (s.alu1 st 1 d a g opBrev)

/-- MOV, 09:R237: Copies a register. -/
def execMov (st : BitVec 3) (d : BitVec 5) (a : BitVec 5) (g : BitVec 4) (s : State) : Outcome :=
  .next (s.alu1 st 1 d a g (fun x => x))

/-- `sel` writes in every active lane: a where the guard selects, otherwise b (09:R237). -/
def State.aluSel (s : State) (st : BitVec 3) (d a b : BitVec 5) (g : BitVec 4) (f : Word → Word) : State :=
  s.put st 1 d.toNat (s.regs.active.map (fun l =>
    (l, f (if s.regs.sel g l then s.regs.rdW l a.toNat else s.regs.rdW l b.toNat))))

/-- SEL, 09:R237: Every active lane writes a where its guard holds, otherwise b. -/
def execSel (st : BitVec 3) (d : BitVec 5) (a : BitVec 5) (b : BitVec 5) (g : BitVec 4) (s : State) : Outcome :=
  .next (s.aluSel st d a b g (fun x => x))

/-! ## IALU, 32-bit -/

/-- ADD_32, 09:R237: 32-bit wrapping add, sign-extended. -/
def execAdd32 (st : BitVec 3) (d : BitVec 5) (a : BitVec 5) (b : BitVec 5) (g : BitVec 4) (s : State) : Outcome :=
  .next (s.alu2 st 1 d a b g (low2 (fun x y => x + y)))

/-- SUB_32, 09:R237: 32-bit wrapping subtract, sign-extended. -/
def execSub32 (st : BitVec 3) (d : BitVec 5) (a : BitVec 5) (b : BitVec 5) (g : BitVec 4) (s : State) : Outcome :=
  .next (s.alu2 st 1 d a b g (low2 (fun x y => x - y)))

/-- AND_32, 09:R237: 32-bit and, sign-extended. -/
def execAnd32 (st : BitVec 3) (d : BitVec 5) (a : BitVec 5) (b : BitVec 5) (g : BitVec 4) (s : State) : Outcome :=
  .next (s.alu2 st 1 d a b g (low2 (fun x y => x &&& y)))

/-- OR_32, 09:R237: 32-bit or, sign-extended. -/
def execOr32 (st : BitVec 3) (d : BitVec 5) (a : BitVec 5) (b : BitVec 5) (g : BitVec 4) (s : State) : Outcome :=
  .next (s.alu2 st 1 d a b g (low2 (fun x y => x ||| y)))

/-- XOR_32, 09:R237: 32-bit xor, sign-extended. -/
def execXor32 (st : BitVec 3) (d : BitVec 5) (a : BitVec 5) (b : BitVec 5) (g : BitVec 4) (s : State) : Outcome :=
  .next (s.alu2 st 1 d a b g (low2 (fun x y => x ^^^ y)))

/-- ANDN_32, 09:R237: 32-bit a and not b, sign-extended. -/
def execAndn32 (st : BitVec 3) (d : BitVec 5) (a : BitVec 5) (b : BitVec 5) (g : BitVec 4) (s : State) : Outcome :=
  .next (s.alu2 st 1 d a b g (low2 opAndn))

/-- SHL_32, 09:R237: 32-bit shift left, sign-extended. -/
def execShl32 (st : BitVec 3) (d : BitVec 5) (a : BitVec 5) (b : BitVec 5) (g : BitVec 4) (s : State) : Outcome :=
  .next (s.alu2 st 1 d a b g (low2 opShl))

/-- SHR_32, 09:R237: 32-bit logical shift right, sign-extended. -/
def execShr32 (st : BitVec 3) (d : BitVec 5) (a : BitVec 5) (b : BitVec 5) (g : BitVec 4) (s : State) : Outcome :=
  .next (s.alu2 st 1 d a b g (low2 opShr))

/-- SAR_32, 09:R237: 32-bit arithmetic shift right, sign-extended. -/
def execSar32 (st : BitVec 3) (d : BitVec 5) (a : BitVec 5) (b : BitVec 5) (g : BitVec 4) (s : State) : Outcome :=
  .next (s.alu2 st 1 d a b g (low2 opSar))

/-- ROL_32, 09:R237: 32-bit rotate left, sign-extended. -/
def execRol32 (st : BitVec 3) (d : BitVec 5) (a : BitVec 5) (b : BitVec 5) (g : BitVec 4) (s : State) : Outcome :=
  .next (s.alu2 st 1 d a b g (low2 opRol))

/-- MIN_32, 09:R237: Signed 32-bit minimum. -/
def execMin32 (st : BitVec 3) (d : BitVec 5) (a : BitVec 5) (b : BitVec 5) (g : BitVec 4) (s : State) : Outcome :=
  .next (s.alu2 st 1 d a b g (low2 opMin))

/-- MAX_32, 09:R237: Signed 32-bit maximum. -/
def execMax32 (st : BitVec 3) (d : BitVec 5) (a : BitVec 5) (b : BitVec 5) (g : BitVec 4) (s : State) : Outcome :=
  .next (s.alu2 st 1 d a b g (low2 opMax))

/-- MINU_32, 09:R237: Unsigned 32-bit minimum. -/
def execMinu32 (st : BitVec 3) (d : BitVec 5) (a : BitVec 5) (b : BitVec 5) (g : BitVec 4) (s : State) : Outcome :=
  .next (s.alu2 st 1 d a b g (low2 opMinu))

/-- MAXU_32, 09:R237: Unsigned 32-bit maximum. -/
def execMaxu32 (st : BitVec 3) (d : BitVec 5) (a : BitVec 5) (b : BitVec 5) (g : BitVec 4) (s : State) : Outcome :=
  .next (s.alu2 st 1 d a b g (low2 opMaxu))

/-- ADDS_32, 09:R237: Signed saturating 32-bit add. -/
def execAdds32 (st : BitVec 3) (d : BitVec 5) (a : BitVec 5) (b : BitVec 5) (g : BitVec 4) (s : State) : Outcome :=
  .next (s.alu2 st 1 d a b g (low2 opAdds))

/-- SUBS_32, 09:R237: Signed saturating 32-bit subtract. -/
def execSubs32 (st : BitVec 3) (d : BitVec 5) (a : BitVec 5) (b : BitVec 5) (g : BitVec 4) (s : State) : Outcome :=
  .next (s.alu2 st 1 d a b g (low2 opSubs))

/-- NEG_32, 09:R237: 32-bit negate, sign-extended. -/
def execNeg32 (st : BitVec 3) (d : BitVec 5) (a : BitVec 5) (g : BitVec 4) (s : State) : Outcome :=
  .next (s.alu1 st 1 d a g (low1 (fun x => -x)))

/-- ABS_32, 09:R237: 32-bit absolute value, sign-extended. -/
def execAbs32 (st : BitVec 3) (d : BitVec 5) (a : BitVec 5) (g : BitVec 4) (s : State) : Outcome :=
  .next (s.alu1 st 1 d a g (low1 opAbs))

/-- CLZ_32, 09:R237: Leading zeros of the low 32 bits. -/
def execClz32 (st : BitVec 3) (d : BitVec 5) (a : BitVec 5) (g : BitVec 4) (s : State) : Outcome :=
  .next (s.alu1 st 1 d a g (low1 opClz))

/-- CTZ_32, 09:R237: Trailing zeros of the low 32 bits. -/
def execCtz32 (st : BitVec 3) (d : BitVec 5) (a : BitVec 5) (g : BitVec 4) (s : State) : Outcome :=
  .next (s.alu1 st 1 d a g (low1 opCtz))

/-- POPC_32, 09:R237: Set bits of the low 32 bits. -/
def execPopc32 (st : BitVec 3) (d : BitVec 5) (a : BitVec 5) (g : BitVec 4) (s : State) : Outcome :=
  .next (s.alu1 st 1 d a g (low1 opPopc))

/-- BREV_32, 09:R237: Reverses the low 32 bits, sign-extended. -/
def execBrev32 (st : BitVec 3) (d : BitVec 5) (a : BitVec 5) (g : BitVec 4) (s : State) : Outcome :=
  .next (s.alu1 st 1 d a g (low1 opBrev))

/-- MOV_32, 09:R237: Copies the low 32 bits, sign-extended. -/
def execMov32 (st : BitVec 3) (d : BitVec 5) (a : BitVec 5) (g : BitVec 4) (s : State) : Outcome :=
  .next (s.alu1 st 1 d a g (low1 (fun x => x)))

/-- SEL_32, 09:R237: 32-bit select by guard, sign-extended. -/
def execSel32 (st : BitVec 3) (d : BitVec 5) (a : BitVec 5) (b : BitVec 5) (g : BitVec 4) (s : State) : Outcome :=
  .next (s.aluSel st d a b g (low1 (fun x => x)))

/-! ## IALUI (09:R238) and MOVW (09:R239) -/

/-- A form-I word writes in every active lane. -/
def State.aluI (s : State) (st : BitVec 3) (d a : BitVec 5) (f : Word → Word) : State :=
  s.put st 1 d.toNat (s.regs.active.map (fun l => (l, f (s.regs.rdW l a.toNat))))

/-- ADDI, 09:R238: Adds a signed 11-bit immediate. -/
def execAddi (st : BitVec 3) (d : BitVec 5) (a : BitVec 5) (i : BitVec 11) (s : State) : Outcome :=
  .next (s.aluI st d a (fun x => x + i.signExtend 64))

/-- ANDI, 09:R238: Ands a sign-extended immediate. -/
def execAndi (st : BitVec 3) (d : BitVec 5) (a : BitVec 5) (i : BitVec 11) (s : State) : Outcome :=
  .next (s.aluI st d a (fun x => x &&& i.signExtend 64))

/-- ORI, 09:R238: Ors a sign-extended immediate. -/
def execOri (st : BitVec 3) (d : BitVec 5) (a : BitVec 5) (i : BitVec 11) (s : State) : Outcome :=
  .next (s.aluI st d a (fun x => x ||| i.signExtend 64))

/-- XORI, 09:R238: Xors a sign-extended immediate. -/
def execXori (st : BitVec 3) (d : BitVec 5) (a : BitVec 5) (i : BitVec 11) (s : State) : Outcome :=
  .next (s.aluI st d a (fun x => x ^^^ i.signExtend 64))

/-- SHLI, 09:R238: Shifts left by an immediate amount. -/
def execShli (st : BitVec 3) (d : BitVec 5) (a : BitVec 5) (i : BitVec 6) (s : State) : Outcome :=
  .next (s.aluI st d a (fun x => opShl x (i.setWidth 64)))

/-- SHRI, 09:R238: Logical shift right by an immediate amount. -/
def execShri (st : BitVec 3) (d : BitVec 5) (a : BitVec 5) (i : BitVec 6) (s : State) : Outcome :=
  .next (s.aluI st d a (fun x => opShr x (i.setWidth 64)))

/-- SARI, 09:R238: Arithmetic shift right by an immediate amount. -/
def execSari (st : BitVec 3) (d : BitVec 5) (a : BitVec 5) (i : BitVec 6) (s : State) : Outcome :=
  .next (s.aluI st d a (fun x => opSar x (i.setWidth 64)))

/-- SLTI, 09:R238: Writes 1 if a is below the signed immediate, else 0. -/
def execSlti (st : BitVec 3) (d : BitVec 5) (a : BitVec 5) (i : BitVec 11) (s : State) : Outcome :=
  .next (s.aluI st d a (fun x => if x.toInt < i.toInt then 1#64 else 0#64))

/-- MOVZ, 09:R239: Writes a 16-bit immediate at a chosen position, zeroing the rest. -/
def execMovz (st : BitVec 3) (d : BitVec 5) (p : BitVec 2) (i : BitVec 16) (s : State) : Outcome :=
  .next (s.aluI st d 0#5 (fun _ => BitVec.ofNat 64 (i.toNat * 2 ^ (16 * p.toNat))))

/-- MOVK, 09:R239: Replaces one 16-bit field of the register, keeping the rest. -/
def execMovk (st : BitVec 3) (d : BitVec 5) (p : BitVec 2) (i : BitVec 16) (s : State) : Outcome :=
  .next (s.aluI st d d (fun x => BitVec.ofNat 64 (insBits x.toNat i.toNat (16 * p.toNat) 16)))

/-! ## IMUL (09:R240, 05:R135) -/

def opMulh (a b : Word) : Word := BitVec.ofInt 64 ((a.toInt * b.toInt) / 2 ^ 64)
def opMulhu (a b : Word) : Word := BitVec.ofNat 64 (a.toNat * b.toNat / 2 ^ 64)
def opMulw (a b : Word) : Word := BitVec.ofInt 64 ((a.setWidth 32).toInt * (b.setWidth 32).toInt)
def opMulwu (a b : Word) : Word := BitVec.ofNat 64 ((a.setWidth 32).toNat * (b.setWidth 32).toNat)

/-- Division truncates toward zero; the most negative value by -1 wraps (05:R135). -/
def opDiv {n : Nat} (a b : BitVec n) : BitVec n := BitVec.ofInt n (a.toInt.tdiv b.toInt)
def opRem {n : Nat} (a b : BitVec n) : BitVec n := BitVec.ofInt n (a.toInt.tmod b.toInt)
def opDivu {n : Nat} (a b : BitVec n) : BitVec n := BitVec.ofNat n (a.toNat / b.toNat)
def opRemu {n : Nat} (a b : BitVec n) : BitVec n := BitVec.ofNat n (a.toNat % b.toNat)

/-- A divide or remainder: a divisor of zero in any selected lane traps, with those lanes, and nothing is written
(09:R240, 20:R419). `w` is the width of the divisor. -/
def State.divide (s : State) (st : BitVec 3) (d a b : BitVec 5) (g : BitVec 4) (w : Nat) (f : Word → Word → Word) :
    State :=
  let bad := (s.regs.selected g).filter (fun l => (s.regs.rdW l b.toNat).toNat % 2 ^ w = 0)
  if bad.isEmpty then s.alu2 st 24 d a b g f else s.trap 0x04 (maskOf bad) 0#64

/-- MUL, 09:R240: 64-bit wrapping multiply. -/
def execMul (st : BitVec 3) (d : BitVec 5) (a : BitVec 5) (b : BitVec 5) (g : BitVec 4) (s : State) : Outcome :=
  .next (s.alu2 st 3 d a b g (fun x y => x * y))

/-- MULH, 09:R240: High 64 bits of the signed product. -/
def execMulh (st : BitVec 3) (d : BitVec 5) (a : BitVec 5) (b : BitVec 5) (g : BitVec 4) (s : State) : Outcome :=
  .next (s.alu2 st 3 d a b g opMulh)

/-- MULHU, 09:R240: High 64 bits of the unsigned product. -/
def execMulhu (st : BitVec 3) (d : BitVec 5) (a : BitVec 5) (b : BitVec 5) (g : BitVec 4) (s : State) : Outcome :=
  .next (s.alu2 st 3 d a b g opMulhu)

/-- DIV, 09:R240: Signed 64-bit division, trapping on a zero divisor. -/
def execDiv (st : BitVec 3) (d : BitVec 5) (a : BitVec 5) (b : BitVec 5) (g : BitVec 4) (s : State) : Outcome :=
  .next (s.divide st d a b g 64 opDiv)

/-- DIVU, 09:R240: Unsigned 64-bit division. -/
def execDivu (st : BitVec 3) (d : BitVec 5) (a : BitVec 5) (b : BitVec 5) (g : BitVec 4) (s : State) : Outcome :=
  .next (s.divide st d a b g 64 opDivu)

/-- REM, 09:R240: Signed 64-bit remainder. -/
def execRem (st : BitVec 3) (d : BitVec 5) (a : BitVec 5) (b : BitVec 5) (g : BitVec 4) (s : State) : Outcome :=
  .next (s.divide st d a b g 64 opRem)

/-- REMU, 09:R240: Unsigned 64-bit remainder. -/
def execRemu (st : BitVec 3) (d : BitVec 5) (a : BitVec 5) (b : BitVec 5) (g : BitVec 4) (s : State) : Outcome :=
  .next (s.divide st d a b g 64 opRemu)

/-- MUL_32, 09:R240: 32-bit multiply, sign-extended. -/
def execMul32 (st : BitVec 3) (d : BitVec 5) (a : BitVec 5) (b : BitVec 5) (g : BitVec 4) (s : State) : Outcome :=
  .next (s.alu2 st 3 d a b g (low2 (fun x y => x * y)))

/-- DIV_32, 09:R240: Signed 32-bit division, sign-extended. -/
def execDiv32 (st : BitVec 3) (d : BitVec 5) (a : BitVec 5) (b : BitVec 5) (g : BitVec 4) (s : State) : Outcome :=
  .next (s.divide st d a b g 32 (low2 opDiv))

/-- DIVU_32, 09:R240: Unsigned 32-bit division, sign-extended. -/
def execDivu32 (st : BitVec 3) (d : BitVec 5) (a : BitVec 5) (b : BitVec 5) (g : BitVec 4) (s : State) : Outcome :=
  .next (s.divide st d a b g 32 (low2 opDivu))

/-- REM_32, 09:R240: Signed 32-bit remainder, sign-extended. -/
def execRem32 (st : BitVec 3) (d : BitVec 5) (a : BitVec 5) (b : BitVec 5) (g : BitVec 4) (s : State) : Outcome :=
  .next (s.divide st d a b g 32 (low2 opRem))

/-- REMU_32, 09:R240: Unsigned 32-bit remainder, sign-extended. -/
def execRemu32 (st : BitVec 3) (d : BitVec 5) (a : BitVec 5) (b : BitVec 5) (g : BitVec 4) (s : State) : Outcome :=
  .next (s.divide st d a b g 32 (low2 opRemu))

/-- MULW, 09:R240: Exact product of two sign-extended 32-bit values. -/
def execMulw (st : BitVec 3) (d : BitVec 5) (a : BitVec 5) (b : BitVec 5) (g : BitVec 4) (s : State) : Outcome :=
  .next (s.alu2 st 3 d a b g opMulw)

/-- MULWU, 09:R240: Exact product of two zero-extended 32-bit values. -/
def execMulwu (st : BitVec 3) (d : BitVec 5) (a : BitVec 5) (b : BitVec 5) (g : BitVec 4) (s : State) : Outcome :=
  .next (s.alu2 st 3 d a b g opMulwu)

end Sys2Proof.Machine
end

