-- ==== Sys2Proof/Machine/Cmp.lean ====
section
/-!
DEFINITION. Compares and predicate logic (09:R241, R242).
-/

namespace Sys2Proof.Machine

/-- Writes `pd` of some lanes and goes on. -/
def State.putP (s : State) (st : BitVec 3) (lat d : Nat) (vs : List (Nat × Bool)) : State :=
  let x := Regs.destsP d vs
  (s.writeRegs lat x.1 x.2).finish st

/-- A compare of two `w` registers in each selected lane. -/
def State.cmp (s : State) (st : BitVec 3) (d : BitVec 3) (a b : BitVec 5) (g : BitVec 4) (f : Word → Word → Bool) : State :=
  s.putP st 1 d.toNat ((s.regs.selected g).map (fun l => (l, f (s.regs.rdW l a.toNat) (s.regs.rdW l b.toNat))))

/-- Sets the flags that an operation gives in each of some lanes, at issue (05:R131). -/
def State.flagLanes (s : State) (fs : List (Nat × Flags5)) : State :=
  s.modGang s.cur (fun g => { g with r := fs.foldl (fun r e => r.modLane e.1 (fun x => x.orFlags e.2)) g.r })

/-- A floating compare of the low 32 bits in each selected lane (09:R242). -/
def State.fcmp (s : State) (st : BitVec 3) (d : BitVec 3) (a b : BitVec 5) (g : BitVec 4) (f : Nat → Nat → Bool × Flags5) :
    State :=
  let xs := (s.regs.selected g).map (fun l =>
    (l, f ((s.regs.rdW l a.toNat).toNat % 2 ^ 32) ((s.regs.rdW l b.toNat).toNat % 2 ^ 32)))
  (s.flagLanes (xs.map (fun e => (e.1, e.2.2)))).putP st 1 d.toNat (xs.map (fun e => (e.1, e.2.1)))

/-- Predicate logic in each selected lane (09:R242). -/
def State.plogic (s : State) (st : BitVec 3) (d a b : BitVec 3) (g : BitVec 4) (f : Bool → Bool → Bool) : State :=
  s.putP st 1 d.toNat ((s.regs.selected g).map (fun l => (l, f (s.regs.rdP l a.toNat) (s.regs.rdP l b.toNat))))

/-- CMP_EQ, 09:R242: Sets a predicate if a equals b. -/
def execCmpEq (st : BitVec 3) (d : BitVec 3) (a : BitVec 5) (b : BitVec 5) (g : BitVec 4) (s : State) : Outcome :=
  .next (s.cmp st d a b g (fun x y => x == y))

/-- CMP_NE, 09:R242: Sets a predicate if a differs from b. -/
def execCmpNe (st : BitVec 3) (d : BitVec 3) (a : BitVec 5) (b : BitVec 5) (g : BitVec 4) (s : State) : Outcome :=
  .next (s.cmp st d a b g (fun x y => x != y))

/-- CMP_LT, 09:R242: Signed less-than compare into a predicate. -/
def execCmpLt (st : BitVec 3) (d : BitVec 3) (a : BitVec 5) (b : BitVec 5) (g : BitVec 4) (s : State) : Outcome :=
  .next (s.cmp st d a b g (fun x y => decide (x.toInt < y.toInt)))

/-- CMP_LE, 09:R242: Signed less-or-equal compare into a predicate. -/
def execCmpLe (st : BitVec 3) (d : BitVec 3) (a : BitVec 5) (b : BitVec 5) (g : BitVec 4) (s : State) : Outcome :=
  .next (s.cmp st d a b g (fun x y => decide (x.toInt ≤ y.toInt)))

/-- CMP_LTU, 09:R242: Unsigned less-than compare into a predicate. -/
def execCmpLtu (st : BitVec 3) (d : BitVec 3) (a : BitVec 5) (b : BitVec 5) (g : BitVec 4) (s : State) : Outcome :=
  .next (s.cmp st d a b g (fun x y => decide (x.toNat < y.toNat)))

/-- CMP_LEU, 09:R242: Unsigned less-or-equal compare into a predicate. -/
def execCmpLeu (st : BitVec 3) (d : BitVec 3) (a : BitVec 5) (b : BitVec 5) (g : BitVec 4) (s : State) : Outcome :=
  .next (s.cmp st d a b g (fun x y => decide (x.toNat ≤ y.toNat)))

/-- FCMP_EQ, 09:R242: F32 equality compare into a predicate. -/
def execFcmpEq (st : BitVec 3) (d : BitVec 3) (a : BitVec 5) (b : BitVec 5) (g : BitVec 4) (s : State) : Outcome :=
  .next (s.fcmp st d a b g fCmpEq)

/-- FCMP_LT, 09:R242: F32 less-than compare into a predicate. -/
def execFcmpLt (st : BitVec 3) (d : BitVec 3) (a : BitVec 5) (b : BitVec 5) (g : BitVec 4) (s : State) : Outcome :=
  .next (s.fcmp st d a b g fCmpLt)

/-- FCMP_LE, 09:R242: F32 less-or-equal compare into a predicate. -/
def execFcmpLe (st : BitVec 3) (d : BitVec 3) (a : BitVec 5) (b : BitVec 5) (g : BitVec 4) (s : State) : Outcome :=
  .next (s.fcmp st d a b g fCmpLe)

/-- FCMP_UN, 09:R242: Sets a predicate if either F32 operand is NaN. -/
def execFcmpUn (st : BitVec 3) (d : BitVec 3) (a : BitVec 5) (b : BitVec 5) (g : BitVec 4) (s : State) : Outcome :=
  .next (s.fcmp st d a b g fCmpUn)

/-- PAND, 09:R242: Predicate and. -/
def execPand (st : BitVec 3) (d : BitVec 3) (a : BitVec 3) (b : BitVec 3) (g : BitVec 4) (s : State) : Outcome :=
  .next (s.plogic st d a b g (fun x y => x && y))

/-- POR, 09:R242: Predicate or. -/
def execPor (st : BitVec 3) (d : BitVec 3) (a : BitVec 3) (b : BitVec 3) (g : BitVec 4) (s : State) : Outcome :=
  .next (s.plogic st d a b g (fun x y => x || y))

/-- PXOR, 09:R242: Predicate xor. -/
def execPxor (st : BitVec 3) (d : BitVec 3) (a : BitVec 3) (b : BitVec 3) (g : BitVec 4) (s : State) : Outcome :=
  .next (s.plogic st d a b g (fun x y => x != y))

/-- PANDN, 09:R242: Predicate and-not. -/
def execPandn (st : BitVec 3) (d : BitVec 3) (a : BitVec 3) (b : BitVec 3) (g : BitVec 4) (s : State) : Outcome :=
  .next (s.plogic st d a b g (fun x y => x && !y))

end Sys2Proof.Machine
end

