-- ==== Sys2Proof/Machine/Transc.lean ====
section
/-!
DEFINITION. The correctly rounded functions of 05:R146 other than division.

A result that is exact is decided exactly. Any other is computed in fixed point with 320 fraction bits and rounded as a
value strictly between two neighbours of that grid: enough to decide every rounding of a 24-bit result (log 8).
-/

namespace Sys2Proof.Machine

/-- Fraction bits of the fixed-point computations. -/
def fxP : Nat := 320

/-- pi and ln 2 with 320 fraction bits, rounded down. -/
def fxPi : Nat := 0x3243f6a8885a308d313198a2e03707344a4093822299f31d0082efa98ec4e6c89452821e638d01377
def fxLn2 : Nat := 0xb17217f7d1cf79abc9e3b39803f2f6af40f343267298b62d8a0d175b8baafa2be7b876206debac98

/-- Integer square root from the top bit down: `n` bits of the root remain. -/
def isqrtGo (v : Nat) : Nat → Nat → Nat
  | 0, r => r
  | n + 1, r =>
    let c := r + 2 ^ n
    isqrtGo v n (if c * c ≤ v then c else r)

/-- floor of the square root of v, for v below `2 ^ 1024`. -/
def isqrt (v : Nat) : Nat := isqrtGo v 512 0

/-- Rounds an inexact positive value that lies just above `v / 2 ^ k`. -/
def roundSticky (m : Nat) (neg : Bool) (v : Nat) (k : Int) : Nat × Flags5 :=
  roundScaled 0 m false neg (2 * v + 1) (-k - 1)

/-- The exponential series: sum of t^n / n! with 320 fraction bits; `fuel` terms remain. -/
def expSeries (t : Nat) : Nat → Nat → Nat → Nat
  | 0, _, _ => 0
  | fuel + 1, n, term => term + expSeries t fuel (n + 1) (term * t / 2 ^ fxP / (n + 1))

/-- 2 to a power in [0, 1) given with 320 fraction bits. -/
def fxExp2 (frac : Nat) : Nat := expSeries (frac * fxLn2 / 2 ^ fxP) 90 0 (2 ^ fxP)

/-- The fraction bits of the base-2 logarithm of v in [1, 2), by repeated squaring; v with 320 fraction bits. -/
def fxLog2Go : Nat → Nat → Nat → Nat
  | 0, _, acc => acc
  | fuel + 1, v, acc =>
    let w := v * v / 2 ^ fxP
    if w ≥ 2 ^ (fxP + 1) then fxLog2Go fuel (w / 2) (2 * acc + 1) else fxLog2Go fuel w (2 * acc)

/-- The sine series for t in [0, pi/2] with 320 fraction bits. -/
def sinSeries (t2 : Nat) : Nat → Nat → Nat → Int
  | 0, _, _ => 0
  | fuel + 1, k, term =>
    (if k % 2 = 0 then (term : Int) else -(term : Int)) +
      sinSeries t2 fuel (k + 1) (term * t2 / 2 ^ fxP / ((2 * k + 2) * (2 * k + 3)))

/-- sin(pi r) for r in (0, 1/2] with 320 fraction bits. -/
def fxSinPi (r : Nat) : Nat :=
  let t := fxPi * r / 2 ^ fxP
  (sinSeries (t * t / 2 ^ fxP) 50 0 t).toNat

/-- Strips factors of two: odd part and exponent. -/
def oddPart : Nat → Nat → Int → Nat × Int
  | 0, m, e => (m, e)
  | fuel + 1, m, e => if m % 2 = 0 then oddPart fuel (m / 2) (e + 1) else (m, e)

/-- Square root of a positive value. -/
def sqrtPos (m a : Nat) (e : Int) : Nat × Flags5 :=
  let (a, e) := if e.emod 2 = 1 then (2 * a, e - 1) else (a, e)
  let v := a * 2 ^ 256
  let r := isqrt v
  if r * r = v then roundScaled 0 m false false r (e / 2 - 128)
  else roundSticky m false r (128 - e / 2)

/-- Reciprocal square root of a positive value. -/
def rsqrtPos (m a : Nat) (e : Int) : Nat × Flags5 :=
  let (a, e) := oddPart 32 a e
  if a = 1 && e.emod 2 = 0 then roundScaled 0 m false false 1 (-(e / 2))
  else
    let (a, e) := if e.emod 2 = 1 then (2 * a, e - 1) else (a, e)
    let r := isqrt (2 ^ 400 / a)
    roundSticky m false r (200 + e / 2)

/-- `fsqrt`, `frcp`, `frsq` (05:R146). -/
def fSqrt (m a : Nat) : Nat × Flags5 :=
  match unpack 0 a with
  | .nan sig => (nan32, invIf sig)
  | .inf s => if s then (nan32, flInvalid) else (infF 0 false, 0#5)
  | .fin s p e =>
    if p = 0 then (if s then 2 ^ 31 else 0, 0#5)
    else if s then (nan32, flInvalid)
    else sqrtPos m p e

def fRcp (m a : Nat) : Nat × Flags5 :=
  match unpack 0 a with
  | .nan sig => (nan32, invIf sig)
  | .inf s => (if s then 2 ^ 31 else 0, 0#5)
  | .fin s p e =>
    if p = 0 then (infF 0 s, flDivzero)
    else roundFrm 0 m false s (scaleNum 1 (-e)) (scaleDen (-e) * p)

def fRsq (m a : Nat) : Nat × Flags5 :=
  match unpack 0 a with
  | .nan sig => (nan32, invIf sig)
  | .inf s => if s then (nan32, flInvalid) else (0, 0#5)
  | .fin s p e =>
    if p = 0 then (infF 0 s, flDivzero)
    else if s then (nan32, flInvalid)
    else rsqrtPos m p e

/-- `fexp2`. A magnitude above 200 rounds as 200 does. -/
def fExp2 (m a : Nat) : Nat × Flags5 :=
  match unpack 0 a with
  | .nan sig => (nan32, invIf sig)
  | .inf s => (if s then 0 else infF 0 false, 0#5)
  | .fin s p e =>
    if p = 0 then (0x3f80_0000, 0#5)
    else if scaleNum p e > 200 * scaleDen e then roundScaled 0 m false false 1 (if s then -200 else 200)
    else
      -- x as a fixed-point integer with 320 fraction bits, exact since e is at least -149
      let mag : Int := (p * 2 ^ (e + fxP).toNat : Nat)
      let x := if s then -mag else mag
      let n := x / 2 ^ fxP
      let frac := (x.emod (2 ^ fxP : Nat)).toNat
      if frac = 0 then roundScaled 0 m false false 1 n
      else roundSticky m false (fxExp2 frac) (fxP - n)

/-- `flog2`. -/
def fLog2 (m a : Nat) : Nat × Flags5 :=
  match unpack 0 a with
  | .nan sig => (nan32, invIf sig)
  | .inf s => if s then (nan32, flInvalid) else (infF 0 false, 0#5)
  | .fin s p e =>
    if p = 0 then (infF 0 true, flDivzero)
    else if s then (nan32, flInvalid)
    else
      let lg := log2N p
      let k : Int := e + lg
      if p = 2 ^ lg then roundIntScaled 0 m k 0
      else
        let v := p * 2 ^ (fxP - lg)
        let f := fxLog2Go 200 v 0
        -- the logarithm lies strictly between k + f / 2^200 and k + (f + 1) / 2^200
        roundIntScaled 0 m (2 * (k * 2 ^ 200 + (f : Int)) + 1) (-201)

/-- sin(pi x) of an exact dyadic x that is no multiple of 1/2, in units of `2 ^ -320`. -/
def sinPiDyadic (m : Nat) (x : Int) : Nat × Flags5 :=
  let r := (x.emod (2 ^ (fxP + 1) : Nat)).toNat
  let neg := r ≥ 2 ^ fxP
  let r := if neg then r - 2 ^ fxP else r
  let r := if r > 2 ^ (fxP - 1) then 2 ^ fxP - r else r
  roundSticky m neg (fxSinPi r) fxP

/-- `fsinpi` and `fcospi`. -/
def fSinPi (m a : Nat) : Nat × Flags5 :=
  match unpack 0 a with
  | .nan sig => (nan32, invIf sig)
  | .inf _ => (nan32, flInvalid)
  | .fin s p e =>
    let mag : Int := (p * 2 ^ (e + fxP).toNat : Nat)
    let x := if s then -mag else mag
    let half : Nat := 2 ^ (fxP - 1)
    if x.emod half = 0 then
      let h := (x / half).emod 4
      if h = 1 then (0x3f80_0000, 0#5)
      else if h = 3 then (0xbf80_0000, 0#5)
      else (if s then 2 ^ 31 else 0, 0#5)
    else sinPiDyadic m x

def fCosPi (m a : Nat) : Nat × Flags5 :=
  match unpack 0 a with
  | .nan sig => (nan32, invIf sig)
  | .inf _ => (nan32, flInvalid)
  | .fin s p e =>
    let mag : Int := (p * 2 ^ (e + fxP).toNat : Nat)
    let x := if s then -mag else mag
    let half : Nat := 2 ^ (fxP - 1)
    if x.emod half = 0 then
      let h := (x / half).emod 4
      if h = 0 then (0x3f80_0000, 0#5)
      else if h = 2 then (0xbf80_0000, 0#5)
      else (0, 0#5)
    else sinPiDyadic m (x + half)

end Sys2Proof.Machine
end

