-- ==== Sys2Proof/Machine/Fp.lean ====
section
/-!
DEFINITION. Single-precision arithmetic (11:R287, R288, 05:R146) and conversions (11:R289, R290, 05:R133).
-/

namespace Sys2Proof.Machine

/-- A floating operation of each selected lane under its rounding mode: a result word and flags, set at issue; the
result lands after the latency (11:R286, 05:R131). -/
def State.fp (s : State) (st : BitVec 3) (lat : Nat) (d : BitVec 5) (g : BitVec 4)
    (f : Nat → Nat → Word × Flags5) : State :=
  let xs := (s.regs.selected g).map (fun l => (l, f (s.regs.lane l).mode l))
  (s.flagLanes (xs.map (fun e => (e.1, e.2.2)))).put st lat d.toNat (xs.map (fun e => (e.1, e.2.1)))

/-- Low 32 bits of a register as a number. -/
def Regs.lo (r : Regs) (l : Nat) (n : BitVec 5) : Nat := (r.rdW l n.toNat).toNat % 2 ^ 32

/-- An F32 result, written sign-extended (11:R286). -/
def f32Word (x : Nat × Flags5) : Word × Flags5 := (sext x.1 32, x.2)

/-- A result in a narrower format, written zero-extended (11:R286). -/
def narrowWord (x : Nat × Flags5) : Word × Flags5 := (BitVec.ofNat 64 x.1, x.2)

def State.fp2 (s : State) (st : BitVec 3) (lat : Nat) (d a b : BitVec 5) (g : BitVec 4)
    (f : Nat → Nat → Nat → Nat × Flags5) : State :=
  s.fp st lat d g (fun m l => f32Word (f m (s.regs.lo l a) (s.regs.lo l b)))

def State.fp1 (s : State) (st : BitVec 3) (lat : Nat) (d a : BitVec 5) (g : BitVec 4)
    (f : Nat → Nat → Nat × Flags5) : State :=
  s.fp st lat d g (fun m l => f32Word (f m (s.regs.lo l a)))

/-- A fused member, with `wd` also the addend; `np` and `nd` negate the product and the addend (11:R288). -/
def State.fp3 (s : State) (st : BitVec 3) (d a b : BitVec 5) (g : BitVec 4) (np nd : Bool) : State :=
  s.fp st 4 d g (fun m l => f32Word (fFused np nd m (s.regs.lo l a) (s.regs.lo l b) (s.regs.lo l d)))

/-- FADD, 11:R288: F32 add, rounded under frm. -/
def execFadd (st : BitVec 3) (d : BitVec 5) (a : BitVec 5) (b : BitVec 5) (g : BitVec 4) (s : State) : Outcome :=
  .next (s.fp2 st 4 d a b g fAdd)

/-- FSUB, 11:R288: F32 subtract. -/
def execFsub (st : BitVec 3) (d : BitVec 5) (a : BitVec 5) (b : BitVec 5) (g : BitVec 4) (s : State) : Outcome :=
  .next (s.fp2 st 4 d a b g fSub)

/-- FMUL, 11:R288: F32 multiply. -/
def execFmul (st : BitVec 3) (d : BitVec 5) (a : BitVec 5) (b : BitVec 5) (g : BitVec 4) (s : State) : Outcome :=
  .next (s.fp2 st 4 d a b g fMul)

/-- FMA, 11:R288: Fused a times b plus d with one rounding. -/
def execFma (st : BitVec 3) (d : BitVec 5) (a : BitVec 5) (b : BitVec 5) (g : BitVec 4) (s : State) : Outcome :=
  .next (s.fp3 st d a b g false false)

/-- FMS, 11:R288: Fused a times b minus d. -/
def execFms (st : BitVec 3) (d : BitVec 5) (a : BitVec 5) (b : BitVec 5) (g : BitVec 4) (s : State) : Outcome :=
  .next (s.fp3 st d a b g false true)

/-- FNMA, 11:R288: Fused minus a times b plus d. -/
def execFnma (st : BitVec 3) (d : BitVec 5) (a : BitVec 5) (b : BitVec 5) (g : BitVec 4) (s : State) : Outcome :=
  .next (s.fp3 st d a b g true false)

/-- FMIN, 11:R288: F32 minimum. -/
def execFmin (st : BitVec 3) (d : BitVec 5) (a : BitVec 5) (b : BitVec 5) (g : BitVec 4) (s : State) : Outcome :=
  .next (s.fp2 st 4 d a b g (fun _ x y => fMinMax false x y))

/-- FMAX, 11:R288: F32 maximum. -/
def execFmax (st : BitVec 3) (d : BitVec 5) (a : BitVec 5) (b : BitVec 5) (g : BitVec 4) (s : State) : Outcome :=
  .next (s.fp2 st 4 d a b g (fun _ x y => fMinMax true x y))

/-- FABS, 11:R288: Clears the F32 sign bit. -/
def execFabs (st : BitVec 3) (d : BitVec 5) (a : BitVec 5) (g : BitVec 4) (s : State) : Outcome :=
  .next (s.fp1 st 4 d a g (fun _ x => fAbs x))

/-- FNEG, 11:R288: Inverts the F32 sign bit. -/
def execFneg (st : BitVec 3) (d : BitVec 5) (a : BitVec 5) (g : BitVec 4) (s : State) : Outcome :=
  .next (s.fp1 st 4 d a g (fun _ x => fNeg x))

/-- FDIV, 05:R146: Correctly rounded F32 division. -/
def execFdiv (st : BitVec 3) (d : BitVec 5) (a : BitVec 5) (b : BitVec 5) (g : BitVec 4) (s : State) : Outcome :=
  .next (s.fp2 st 14 d a b g fDiv)

/-- FSQRT, 05:R146: Correctly rounded square root. -/
def execFsqrt (st : BitVec 3) (d : BitVec 5) (a : BitVec 5) (g : BitVec 4) (s : State) : Outcome :=
  .next (s.fp1 st 14 d a g fSqrt)

/-- FRCP, 05:R146: Correctly rounded reciprocal. -/
def execFrcp (st : BitVec 3) (d : BitVec 5) (a : BitVec 5) (g : BitVec 4) (s : State) : Outcome :=
  .next (s.fp1 st 18 d a g fRcp)

/-- FRSQ, 05:R146: Correctly rounded reciprocal square root. -/
def execFrsq (st : BitVec 3) (d : BitVec 5) (a : BitVec 5) (g : BitVec 4) (s : State) : Outcome :=
  .next (s.fp1 st 18 d a g fRsq)

/-- FEXP2, 05:R146: Correctly rounded base-2 exponential. -/
def execFexp2 (st : BitVec 3) (d : BitVec 5) (a : BitVec 5) (g : BitVec 4) (s : State) : Outcome :=
  .next (s.fp1 st 18 d a g fExp2)

/-- FLOG2, 05:R146: Correctly rounded base-2 logarithm. -/
def execFlog2 (st : BitVec 3) (d : BitVec 5) (a : BitVec 5) (g : BitVec 4) (s : State) : Outcome :=
  .next (s.fp1 st 18 d a g fLog2)

/-- FSINPI, 05:R146: Correctly rounded sin(pi x). -/
def execFsinpi (st : BitVec 3) (d : BitVec 5) (a : BitVec 5) (g : BitVec 4) (s : State) : Outcome :=
  .next (s.fp1 st 18 d a g fSinPi)

/-- FCOSPI, 05:R146: Correctly rounded cos(pi x). -/
def execFcospi (st : BitVec 3) (d : BitVec 5) (a : BitVec 5) (g : BitVec 4) (s : State) : Outcome :=
  .next (s.fp1 st 18 d a g fCosPi)

/-- FCPYS, 11:R288: Magnitude of a with the sign of b. -/
def execFcpys (st : BitVec 3) (d : BitVec 5) (a : BitVec 5) (b : BitVec 5) (g : BitVec 4) (s : State) : Outcome :=
  .next (s.fp2 st 4 d a b g (fun _ x y => fCpys x y))

/-- FCLASS, 11:R288: Writes the class mask of a. -/
def execFclass (st : BitVec 3) (d : BitVec 5) (a : BitVec 5) (g : BitVec 4) (s : State) : Outcome :=
  .next (s.fp1 st 4 d a g (fun _ x => (fClass x, 0#5)))

/-! ## Conversions (11:R290) -/

/-- A widening conversion of the low n bits to F32. -/
def State.cvtWide (s : State) (st : BitVec 3) (d a : BitVec 5) (g : BitVec 4) (fmt n : Nat) : State :=
  s.fp st 2 d g (fun _ l => f32Word (widen fmt ((s.regs.rdW l a.toNat).toNat % 2 ^ n)))

/-- A narrowing conversion of F32 with the saturate bit. -/
def State.cvtNarrow (s : State) (st : BitVec 3) (d a : BitVec 5) (t : BitVec 1) (g : BitVec 4) (fmt : Nat) : State :=
  s.fp st 2 d g (fun m l => narrowWord (narrow fmt m (t == 1#1) (s.regs.lo l a)))

/-- An integer of the operand to F32. -/
def State.cvtFromInt (s : State) (st : BitVec 3) (d a : BitVec 5) (g : BitVec 4) (f : Word → Int) : State :=
  s.fp st 2 d g (fun m l => f32Word (intToF32 m (f (s.regs.rdW l a.toNat))))

/-- F32 to an integer of w bits between bounds. -/
def State.cvtToInt (s : State) (st : BitVec 3) (d a : BitVec 5) (g : BitVec 4) (w : Nat) (lo hi : Int) : State :=
  s.fp st 2 d g (fun m l =>
    let x := f32ToInt m lo hi (s.regs.lo l a)
    (sext (patN x.1 w) w, x.2))

/-- Two elements packed, their flags merged. -/
def State.cvtPack (s : State) (st : BitVec 3) (d a : BitVec 5) (t : BitVec 1) (g : BitVec 4) (fmt n : Nat) : State :=
  s.fp st 2 d g (fun m l =>
    let x := narrow fmt m (t == 1#1) (s.regs.lo l a)
    let y := narrow fmt m (t == 1#1) ((s.regs.rdW l a.toNat).toNat / 2 ^ 32)
    (BitVec.ofNat 64 (x.1 + 2 ^ n * y.1), x.2 ||| y.2))

/-- CVT_F32_BF16, 11:R290: Converts BF16 to F32. -/
def execCvtF32Bf16 (st : BitVec 3) (d : BitVec 5) (a : BitVec 5) (g : BitVec 4) (s : State) : Outcome :=
  .next (s.cvtWide st d a g 1 16)

/-- CVT_BF16_F32, 11:R290: Converts F32 to BF16, optionally saturating. -/
def execCvtBf16F32 (st : BitVec 3) (d : BitVec 5) (a : BitVec 5) (t : BitVec 1) (g : BitVec 4) (s : State) : Outcome :=
  .next (s.cvtNarrow st d a t g 1)

/-- CVT_F32_F16, 11:R290: Converts F16 to F32. -/
def execCvtF32F16 (st : BitVec 3) (d : BitVec 5) (a : BitVec 5) (g : BitVec 4) (s : State) : Outcome :=
  .next (s.cvtWide st d a g 2 16)

/-- CVT_F16_F32, 11:R290: Converts F32 to F16, optionally saturating. -/
def execCvtF16F32 (st : BitVec 3) (d : BitVec 5) (a : BitVec 5) (t : BitVec 1) (g : BitVec 4) (s : State) : Outcome :=
  .next (s.cvtNarrow st d a t g 2)

/-- CVT_F32_E4M3, 11:R290: Converts E4M3 to F32. -/
def execCvtF32E4m3 (st : BitVec 3) (d : BitVec 5) (a : BitVec 5) (g : BitVec 4) (s : State) : Outcome :=
  .next (s.cvtWide st d a g 3 8)

/-- CVT_E4M3_F32, 11:R290: Converts F32 to E4M3, optionally saturating. -/
def execCvtE4m3F32 (st : BitVec 3) (d : BitVec 5) (a : BitVec 5) (t : BitVec 1) (g : BitVec 4) (s : State) : Outcome :=
  .next (s.cvtNarrow st d a t g 3)

/-- CVT_F32_E5M2, 11:R290: Converts E5M2 to F32. -/
def execCvtF32E5m2 (st : BitVec 3) (d : BitVec 5) (a : BitVec 5) (g : BitVec 4) (s : State) : Outcome :=
  .next (s.cvtWide st d a g 4 8)

/-- CVT_E5M2_F32, 11:R290: Converts F32 to E5M2, optionally saturating. -/
def execCvtE5m2F32 (st : BitVec 3) (d : BitVec 5) (a : BitVec 5) (t : BitVec 1) (g : BitVec 4) (s : State) : Outcome :=
  .next (s.cvtNarrow st d a t g 4)

/-- CVT_F32_I32, 11:R290: Converts a signed 32-bit integer to F32. -/
def execCvtF32I32 (st : BitVec 3) (d : BitVec 5) (a : BitVec 5) (g : BitVec 4) (s : State) : Outcome :=
  .next (s.cvtFromInt st d a g (fun x => (x.setWidth 32).toInt))

/-- CVT_I32_F32, 11:R290: Converts F32 to a clamped signed 32-bit integer. -/
def execCvtI32F32 (st : BitVec 3) (d : BitVec 5) (a : BitVec 5) (g : BitVec 4) (s : State) : Outcome :=
  .next (s.cvtToInt st d a g 32 (-(2 ^ 31)) (2 ^ 31 - 1))

/-- CVT_F32_I64, 11:R290: Converts a signed 64-bit integer to F32. -/
def execCvtF32I64 (st : BitVec 3) (d : BitVec 5) (a : BitVec 5) (g : BitVec 4) (s : State) : Outcome :=
  .next (s.cvtFromInt st d a g (fun x => x.toInt))

/-- CVT_I64_F32, 11:R290: Converts F32 to a clamped signed 64-bit integer. -/
def execCvtI64F32 (st : BitVec 3) (d : BitVec 5) (a : BitVec 5) (g : BitVec 4) (s : State) : Outcome :=
  .next (s.cvtToInt st d a g 64 (-(2 ^ 63)) (2 ^ 63 - 1))

/-- CVT_F32_U32, 11:R290: Converts an unsigned 32-bit integer to F32. -/
def execCvtF32U32 (st : BitVec 3) (d : BitVec 5) (a : BitVec 5) (g : BitVec 4) (s : State) : Outcome :=
  .next (s.cvtFromInt st d a g (fun x => ((x.setWidth 32).toNat : Int)))

/-- CVT_U32_F32, 11:R290: Converts F32 to a clamped unsigned 32-bit integer. -/
def execCvtU32F32 (st : BitVec 3) (d : BitVec 5) (a : BitVec 5) (g : BitVec 4) (s : State) : Outcome :=
  .next (s.cvtToInt st d a g 32 0 (2 ^ 32 - 1))

/-- PACK_BF16, 11:R290: Packs two F32 values as two BF16 values. -/
def execPackBf16 (st : BitVec 3) (d : BitVec 5) (a : BitVec 5) (t : BitVec 1) (g : BitVec 4) (s : State) : Outcome :=
  .next (s.cvtPack st d a t g 1 16)

/-- PACK_E4M3, 11:R290: Packs two F32 values as two E4M3 values. -/
def execPackE4m3 (st : BitVec 3) (d : BitVec 5) (a : BitVec 5) (t : BitVec 1) (g : BitVec 4) (s : State) : Outcome :=
  .next (s.cvtPack st d a t g 3 8)

end Sys2Proof.Machine
end

