-- ==== Sys2Proof/Machine/Mem.lean ====
section
/-!
DEFINITION. Loads, stores, in-chunk atomics and far atomics (10:R262 to R272).
-/

namespace Sys2Proof.Machine

/-! ## Checked accesses -/

/-- The checks of one access of each of some lanes. -/
def State.laneChks (s : State) (lanes : List Nat) (va : Nat → Nat) (size : Nat) (wr : Bool) (kind : AccKind) :
    List LaneChk :=
  lanes.map (fun l =>
    { lane := l, va := va l, chk := s.check (ckOfGk s.cur) (va l) size wr kind s.regs.tr.tlvl })

/-- Goes on where every check passes; otherwise traps or waits, and nothing is performed (10:R261, R262). -/
def State.checked (s : State) (cs : List LaneChk) (wr : Bool) (k : State → State) : State :=
  match verdict cs with
  | .pass => k s
  | .trap cause flt va => s.trap cause flt (BitVec.ofNat 64 va)
  | .stage2 va ipa t p => s.stage2Wait va ipa wr t p

/-- The places of checked accesses: lane, virtual address, place. -/
def placesOf (cs : List LaneChk) : List (Nat × Nat × Place) :=
  cs.filterMap (fun c =>
    match c.chk with
    | .ok p => some (c.lane, c.va, p)
    | _ => none)

/-- Translations made on the way to some accesses (04:R111, R112). -/
def State.noteAll (s : State) (wr : Bool) (ps : List (Nat × Nat × Place)) : State :=
  ps.foldl (fun t e => if e.2.2.global then t.noteAccess (qkOfGk t.cur) (t.gangCx t.cur) e.2.1 wr else t) s

/-- A counter that would pass 63 holds its instruction at issue (08:R217). -/
def State.counted (s : State) (ctr : Option Nat) (k : State → State) : State :=
  match ctr with
  | none => k s
  | some c => if 63 ≤ tget 0 (s.gang s.cur).sb c then s.waitFor .counter else k s

/-! ## Far operations (06:R151, R152) -/

/-- Groups the lanes that name one location, keeping lane order (10:R271). -/
def groupLanes : List FarLane → List FarLane
  | [] => []
  | x :: t =>
    let r := groupLanes t
    -- the lanes of r at the location of x stand together; x goes before them
    if r.any (fun y => y.loc == x.loc) then
      r.takeWhile (fun y => y.loc != x.loc) ++ x :: r.dropWhile (fun y => y.loc != x.loc)
    else x :: r

/-- The word that a result gives a register: 10:R269, or a load's extension (10:R264). -/
def farWord (ext size half v : Nat) : Word :=
  if ext = 1 then zext v (8 * size)
  else if ext = 2 then sext v (8 * size)
  else if size = 4 then sext v 32
  else BitVec.ofNat 64 (v / 2 ^ (64 * half))

/-- The values of a pending write with the results of a far operation filled in. -/
def fillVals (ext size : Nat) (slots : List (Nat × Nat × Nat)) (res : List Nat) (vals : List Word) : List Word :=
  slots.foldl (fun vs e => lput vs e.1 (farWord ext size e.2.2 (res.getD e.2.1 0))) vals

/-- Sends a far operation, or takes its results from the log, and counts it (06:R151, R152, 10:R271). `dst` and `vals` are
the destinations with the values already known; `slots` says which values the operation gives; `tcm` and `after` are those of a load
whose other lanes read TCM (08:R217, 11:R295). -/
def State.farIssue (s : State) (op use size ext : Nat) (lanes : List FarLane) (ctr : Option Nat)
    (dst : List (Nat × Dest)) (vals : List Word) (slots : List (Nat × Nat × Nat)) (tcm : Bool := false) (after : Nat := 0) : State :=
  let g := s.gang s.cur
  match g.logHit s.word lanes with
  | some e =>
    let s := s.modGang s.cur Gang.logStep
    if ctr = none then s else s.pendVar ctr tcm true dst (fillVals ext size slots e.res vals) after
  | none =>
    let pid := if ctr = none then none else some s.fresh
    let word := s.word
    let at_ := g.ch.pos
    let s := if ctr = none then s else s.pendVar ctr tcm false dst vals after
    let o : FarOp :=
      { id := s.fresh, op := op, use := use, size := size, lanes := lanes, got := [], perf := false, logAt := some at_
        frms := lanes.map (fun x => (g.r.lane x.lane).frm), prior := [], ext := ext, word := word, actId := g.actId
        launch := g.launch, pid := pid, slots := slots, at_ := s.clock.run }
    (s.modGang s.cur (fun g =>
      let g := g.logNew word lanes false []
      let g := g.logStep
      { g with far := g.far ++ [o] })).bump

/-- Every far operation the gang has sent has been performed. -/
def Gang.farDone (g : Gang) : Bool := g.far.all (fun o => o.perf)

/-- Destinations of some lanes for `n` registers from `d` up: lane, half and place, without the ignored ones. -/
def Regs.destPairs (r : Regs) (d n : Nat) (lanes : List Nat) : List (Nat × Nat × Dest) :=
  lanes.flatMap (fun l => (List.range n).filterMap (fun h =>
    ((r.lane l).destW (d + h)).map (fun x => (l, h, x))))

/-- Positions in a list that a lane takes. -/
def laneIdx (lanes : List FarLane) (l : Nat) : Option Nat := lanes.findIdx? (fun x => x.lane == l)

/-- The slots of a far operation among some destinations. -/
def farSlots (lanes : List FarLane) (dst : List (Nat × Nat × Dest)) : List (Nat × Nat × Nat) :=
  ((List.range dst.length).zip dst).filterMap (fun e =>
    (laneIdx lanes e.2.1).map (fun i => (e.1, i, e.2.2.1)))

/-- Packets are injected while the slice's partition neither drains nor is stopped (04:R123, 19:R414). -/
def State.injecting (s : State) (k : State → State) : State :=
  if s.injOff (slOfGk s.cur) then s.waitFor .farDrain else k s

/-- Accesses that leave the quad are packets of the slice's partition; the others go on (04:R123). -/
def State.sending (s : State) (ps : List (Nat × Nat × Place)) (k : State → State) : State :=
  if ps.any (fun e => e.2.2.beyond) then s.injecting k else k s

/-! ## LD and ST (10:R263 to R267) -/

/-- The address of a form-M access in a lane: base plus the scaled offset, mod 2^64 (10:R264). -/
def memAddr (base : Word) (o : BitVec 8) (size : Nat) : Nat :=
  (base + BitVec.ofInt 64 (o.toInt * (size : Int))).toNat

/-- A load of each active lane (10:R264, R266); one with `na` allocates in no quad cache, so its quad becomes no sharer (10:R267). -/
def State.load (s : State) (st : BitVec 3) (d : BitVec 5) (va : Nat → Nat) (size ctr : Nat) (sx : Bool) (na : Bool := false) : State :=
  s.counted (some ctr) (fun s =>
    let cs := s.laneChks s.regs.active va size false .plain
    s.checked cs false (fun s =>
      let ps := placesOf cs
      let near := ps.filter (fun e => !e.2.2.far)
      let far := ps.filter (fun e => e.2.2.far)
      let go (s : State) : State :=
        let s := s.noteAll false ps
        let secs := near.foldl (fun acc e => addSet acc (e.2.2.secs size)) []
        let s := s.modGang s.cur (fun g => g.noteRead secs)
        let s := if na then s else s.dirRead s.cur secs
        let val (e : Nat × Nat × Place) : Word := farWord (if sx then 2 else 1) size 0 (e.2.2.load (s.chByte s.cur) size)
        let dst := s.regs.destPairs d.toNat 1 (ps.map (fun e => e.1))
        let vals := dst.map (fun x => match near.find? (fun e => e.1 == x.1) with
          | some e => val e
          | none => 0#64)
        let ds := dst.map (fun x => (x.1, x.2.2))
        let tcm := ps.any (fun e => e.2.2.space == .tcm)
        let after := if tcm then s.tcmAfter else 0
        let s :=
          if far.isEmpty then s.pendVar (some ctr) tcm true ds vals after
          else
            let lanes := groupLanes (far.map (fun e => { lane := e.1, loc := e.2.2.loc, v := 0, c := 0, va := e.2.1 }))
            s.farIssue 11 2 size (if sx then 2 else 1) lanes (some ctr) ds vals (farSlots lanes dst) tcm after
        s.finish st
      s.sending ps (fun s => if far.isEmpty then go s else s.logRoom go)))

/-- A store of each active lane, the lanes in ascending order (10:R261, R265, R266); the sectors of one with `na` leave the quad's cache at
the commit (10:R267). -/
def State.store (s : State) (st : BitVec 3) (d : BitVec 5) (va : Nat → Nat) (size : Nat) (na : Bool := false) : State :=
  let cs := s.laneChks s.regs.active va size true .plain
  s.checked cs true (fun s =>
    let ps := placesOf cs
    let far := ps.filter (fun e => e.2.2.space == .ms)
    let near := ps.filter (fun e => e.2.2.space != .ms)
    let secs := near.foldl (fun acc e => addSet acc (e.2.2.wsecs size)) []
    let go (s : State) : State :=
      let s := s.noteAll true ps
      let r := s.regs
      let s := near.foldl (fun t e => t.storeLane size e (r.rdW e.1 d.toNat)) s
      let s := if na then s.modGang s.cur (fun g => { g with ch := { g.ch with nasec := addSet g.ch.nasec secs } }) else s
      let s :=
        if far.isEmpty then s
        else s.farIssue 12 2 size 0 (groupLanes (far.map (fun e =>
          { lane := e.1, loc := e.2.2.loc, v := (r.rdW e.1 d.toNat).toNat % 2 ^ (8 * size), c := 0, va := e.2.1 }))) none [] [] []
      s.finish st
    s.sectorRoom secs (fun s => if far.isEmpty then go s else s.injecting (fun s => s.logRoom go)))

/-- Access size of SZ (08:R205). -/
def szBytes (z : BitVec 2) : Nat := 2 ^ z.toNat

/-- LD, 10:R264: loads and zero-extends. -/
def execLd (st : BitVec 3) (d a : BitVec 5) (o : BitVec 8) (z c : BitVec 2) (s : State) : Outcome :=
  .next (s.load st d (fun l => memAddr (s.regs.rdW l a.toNat) o (szBytes z)) (szBytes z) c.toNat false)

/-- LD_SX, 10:R264: loads and sign-extends. -/
def execLdSx (st : BitVec 3) (d a : BitVec 5) (o : BitVec 8) (z c : BitVec 2) (s : State) : Outcome :=
  .next (s.load st d (fun l => memAddr (s.regs.rdW l a.toNat) o (szBytes z)) (szBytes z) c.toNat true)

/-- LD_NA, 10:R264, R267: loads and zero-extends; no-allocate changes only where data is kept. -/
def execLdNa (st : BitVec 3) (d a : BitVec 5) (o : BitVec 8) (z c : BitVec 2) (s : State) : Outcome :=
  .next (s.load st d (fun l => memAddr (s.regs.rdW l a.toNat) o (szBytes z)) (szBytes z) c.toNat false true)

/-- LD_DESC, 10:R264, 09:R254: loads at a descriptor address and zero-extends. -/
def execLdDesc (st : BitVec 3) (d : BitVec 5) (x : BitVec 3) (o : BitVec 8) (z c : BitVec 2) (s : State) : Outcome :=
  .next (s.load st d (fun l => memAddr (s.regs.xaddr x.toNat l) o (szBytes z)) (szBytes z) c.toNat false)

/-- ST, 10:R265: stores the low bytes of the register. -/
def execSt (st : BitVec 3) (d a : BitVec 5) (o : BitVec 8) (z : BitVec 2) (s : State) : Outcome :=
  .next (s.store st d (fun l => memAddr (s.regs.rdW l a.toNat) o (szBytes z)) (szBytes z))

/-- ST_NA, 10:R265, R267: stores; no-allocate changes only where data is kept. -/
def execStNa (st : BitVec 3) (d a : BitVec 5) (o : BitVec 8) (z : BitVec 2) (s : State) : Outcome :=
  .next (s.store st d (fun l => memAddr (s.regs.rdW l a.toNat) o (szBytes z)) (szBytes z) true)

/-- ST_DESC, 10:R265, 09:R254: stores at a descriptor address. -/
def execStDesc (st : BitVec 3) (d : BitVec 5) (x : BitVec 3) (o : BitVec 8) (z : BitVec 2) (s : State) : Outcome :=
  .next (s.store st d (fun l => memAddr (s.regs.xaddr x.toNat l) o (szBytes z)) (szBytes z))

/-! ## Atomics (10:R268 to R272) -/

/-- The 32-bit elements of `fadd`, each rounded under a mode (10:R269). -/
def faddElems (m n : Nat) (old v : Nat) : Nat × Flags5 :=
  (List.range n).foldl (fun acc e =>
    let (r, f) := fAdd m (nbits old (32 * e) 32) (nbits v (32 * e) 32)
    (acc.1 + r * 2 ^ (32 * e), acc.2 ||| f)) (0, 0#5)

/-- The new value that member `op` gives a location of n bits, and the flags of `fadd` (10:R269). -/
def atomNew (op size m old v c : Nat) : Nat × Flags5 :=
  let n := 8 * size
  let v := v % 2 ^ n
  match op with
  | 0 => ((old + v) % 2 ^ n, 0#5)
  | 1 => (old.land v, 0#5)
  | 2 => (old.lor v, 0#5)
  | 3 => (old.xor v, 0#5)
  | 4 => (if sintN old n ≤ sintN v n then old else v, 0#5)
  | 5 => (if sintN old n ≤ sintN v n then v else old, 0#5)
  | 6 => (if old ≤ v then old else v, 0#5)
  | 7 => (if old ≤ v then v else old, 0#5)
  | 8 => (v, 0#5)
  | 9 => (if old = c % 2 ^ n then v else old, 0#5)
  | 10 => faddElems m (size / 4) old v
  | 11 => (old, 0#5)
  | _ => (v, 0#5)

/-- Bytes of SZ2, and registers it takes (08:R205, 10:R268). -/
def sz2Bytes (z : BitVec 2) : Nat := 4 * 2 ^ z.toNat
def sz2Regs (z : BitVec 2) : Nat := if z = 2#2 then 2 else 1

/-- A register or an even-odd pair as one number, of `size` bytes (10:R268). -/
def Regs.operand (r : Regs) (l n : Nat) (z : BitVec 2) : Nat :=
  if z = 2#2 then (r.rdW l n).toNat + 2 ^ 64 * (r.rdW l (n + 1)).toNat
  else (r.rdW l n).toNat % 2 ^ (8 * sz2Bytes z)

/-- One lane of `natom` in the chunk: its old value, read after the earlier lanes' writes (10:R270). -/
def State.natomLane (s : State) (op size : Nat) (e : Nat × Nat × Place) (v c : Nat) : Nat × State :=
  let p := e.2.2
  let old := s.chNat s.cur p.loc size
  let (new, fl) := atomNew op size (s.regs.lane e.1).mode old v c
  let ws := (List.range size).zip (leBytes size new)
  (old, s.modGang s.cur (fun g =>
    let g := (g.noteRead (sectorsOf p.loc size)).buffer (ws.map (fun b => (p.loc + b.1, b.2)))
    let g := if p.global then g.noteVa e.2.1 else g
    { g with r := g.r.modLane e.1 (fun l => l.orFlags fl) }))

/-- `natom`: an atomic inside the gang's chunk (10:R270). -/
def State.natom (s : State) (st : BitVec 3) (op : Nat) (d a b : BitVec 5) (z : BitVec 2) : State :=
  let size := sz2Bytes z
  s.counted (some 3) (fun s =>
    let cs := s.laneChks s.regs.active (fun l => (s.regs.rdW l a.toNat).toNat) size true .natom
    s.checked cs true (fun s =>
      let ps := placesOf cs
      let secs := ps.foldl (fun acc e => addSet acc (sectorsOf e.2.2.loc size)) []
      s.sectorRoom secs (fun s => s.sending ps (fun s =>
        let s := (s.noteAll true ps).dirRead s.cur secs
        let r := s.regs
        let (olds, s) := ps.foldl (fun (acc : List (Nat × Nat) × State) e =>
          let (old, t) := acc.2.natomLane op size e (r.operand e.1 b.toNat z) (r.operand e.1 d.toNat z)
          (acc.1 ++ [(e.1, old)], t)) ([], s)
        let dst := r.destPairs d.toNat (sz2Regs z) r.active
        let vals := dst.map (fun x => farWord 0 size x.2.1 (tget 0 olds x.1))
        let after := if ps.any (fun e => e.2.2.space == .tcm) then s.tcmAfter else 0
        (s.pendVar (some 3) false true (dst.map (fun x => (x.1, x.2.2))) vals after).finish st))))

/-- `fatom`: far atomics with their declared use (10:R271, R272, 06:R169 to R172). `b` and `d` are none where the member
takes no operand or returns nothing. -/
def State.fatom (s : State) (st : BitVec 3) (op : Nat) (d : Option (BitVec 5)) (a : BitVec 5) (b : Option (BitVec 5))
    (u : BitVec 3) (z : BitVec 2) : State :=
  let size := sz2Bytes z
  if u = 1#3 ∧ (op = 8 ∨ op = 9 ∨ op = 11 ∨ op = 12) then s.trapAll 0x02
  else
    let ctr := if u = 1#3 then none else some 3
    s.counted ctr (fun s =>
      let cs := s.laneChks s.regs.active (fun l => (s.regs.rdW l a.toNat).toNat) size (op != 11) .fatom
      s.checked cs (op != 11) (fun s =>
        let ps := placesOf cs
        let go (s : State) : State :=
          let g := s.gang s.cur
          let host := ps.any (fun e => e.2.2.space == .host)
          -- a release waits for the gang's earlier far operations, at `.s` also for acknowledgements
          if 6 ≤ u.toNat ∧ (!g.farDone || (host && s.links.unacked.any (fun e => e.gk == s.cur))) then
            s.waitFor .farDrain
          else
            let s := s.noteAll (op != 11) ps
            let r := s.regs
            let lanes := groupLanes (ps.map (fun e =>
              { lane := e.1, loc := e.2.2.loc, va := e.2.1
                v := match b with
                  | some b => r.operand e.1 b.toNat z
                  | none => 0
                c := match d with
                  | some d => if op = 9 then r.operand e.1 d.toNat z else 0
                  | none => 0 }))
            let dst := match d with
              | some d => if u = 1#3 then [] else r.destPairs d.toNat (sz2Regs z) r.active
              | none => []
            -- use speculative acts as non-ordering outside a timestamped task (06:R171)
            let use := if u = 4#3 ∧ g.task.isNone then 2 else u.toNat
            (s.farIssue op use size 0 lanes ctr (dst.map (fun x => (x.1, x.2.2))) (dst.map (fun _ => 0#64))
              (farSlots lanes dst)).finish st
        s.injecting (fun s => if 5 ≤ u.toNat then s.before go else s.logRoom go)))

/-- NATOM_ADD, 10:R270: In-chunk atomic add returning the old value. -/
def execNatomAdd (st : BitVec 3) (d : BitVec 5) (a : BitVec 5) (b : BitVec 5) (z : BitVec 2) (s : State) : Outcome :=
  .next (s.natom st 0 d a b z)

/-- NATOM_AND, 10:R270: In-chunk atomic and. -/
def execNatomAnd (st : BitVec 3) (d : BitVec 5) (a : BitVec 5) (b : BitVec 5) (z : BitVec 2) (s : State) : Outcome :=
  .next (s.natom st 1 d a b z)

/-- NATOM_OR, 10:R270: In-chunk atomic or. -/
def execNatomOr (st : BitVec 3) (d : BitVec 5) (a : BitVec 5) (b : BitVec 5) (z : BitVec 2) (s : State) : Outcome :=
  .next (s.natom st 2 d a b z)

/-- NATOM_XOR, 10:R270: In-chunk atomic xor. -/
def execNatomXor (st : BitVec 3) (d : BitVec 5) (a : BitVec 5) (b : BitVec 5) (z : BitVec 2) (s : State) : Outcome :=
  .next (s.natom st 3 d a b z)

/-- NATOM_SMIN, 10:R270: In-chunk atomic signed minimum. -/
def execNatomSmin (st : BitVec 3) (d : BitVec 5) (a : BitVec 5) (b : BitVec 5) (z : BitVec 2) (s : State) : Outcome :=
  .next (s.natom st 4 d a b z)

/-- NATOM_SMAX, 10:R270: In-chunk atomic signed maximum. -/
def execNatomSmax (st : BitVec 3) (d : BitVec 5) (a : BitVec 5) (b : BitVec 5) (z : BitVec 2) (s : State) : Outcome :=
  .next (s.natom st 5 d a b z)

/-- NATOM_UMIN, 10:R270: In-chunk atomic unsigned minimum. -/
def execNatomUmin (st : BitVec 3) (d : BitVec 5) (a : BitVec 5) (b : BitVec 5) (z : BitVec 2) (s : State) : Outcome :=
  .next (s.natom st 6 d a b z)

/-- NATOM_UMAX, 10:R270: In-chunk atomic unsigned maximum. -/
def execNatomUmax (st : BitVec 3) (d : BitVec 5) (a : BitVec 5) (b : BitVec 5) (z : BitVec 2) (s : State) : Outcome :=
  .next (s.natom st 7 d a b z)

/-- NATOM_SWAP, 10:R270: In-chunk atomic swap. -/
def execNatomSwap (st : BitVec 3) (d : BitVec 5) (a : BitVec 5) (b : BitVec 5) (z : BitVec 2) (s : State) : Outcome :=
  .next (s.natom st 8 d a b z)

/-- NATOM_CAS, 10:R270: In-chunk atomic compare-and-swap. -/
def execNatomCas (st : BitVec 3) (d : BitVec 5) (a : BitVec 5) (b : BitVec 5) (z : BitVec 2) (s : State) : Outcome :=
  .next (s.natom st 9 d a b z)

/-- NATOM_FADD, 10:R270: In-chunk atomic F32 add per element. -/
def execNatomFadd (st : BitVec 3) (d : BitVec 5) (a : BitVec 5) (b : BitVec 5) (z : BitVec 2) (s : State) : Outcome :=
  .next (s.natom st 10 d a b z)

/-- FATOM_ADD, 10:R271: Far atomic add performed at the unit holding the location, with a declared use. -/
def execFatomAdd (st : BitVec 3) (d : BitVec 5) (a : BitVec 5) (b : BitVec 5) (u : BitVec 3) (z : BitVec 2) (s : State) : Outcome :=
  .next (s.fatom st 0 (some d) a (some b) u z)

/-- FATOM_AND, 10:R271: Far atomic and. -/
def execFatomAnd (st : BitVec 3) (d : BitVec 5) (a : BitVec 5) (b : BitVec 5) (u : BitVec 3) (z : BitVec 2) (s : State) : Outcome :=
  .next (s.fatom st 1 (some d) a (some b) u z)

/-- FATOM_OR, 10:R271: Far atomic or. -/
def execFatomOr (st : BitVec 3) (d : BitVec 5) (a : BitVec 5) (b : BitVec 5) (u : BitVec 3) (z : BitVec 2) (s : State) : Outcome :=
  .next (s.fatom st 2 (some d) a (some b) u z)

/-- FATOM_XOR, 10:R271: Far atomic xor. -/
def execFatomXor (st : BitVec 3) (d : BitVec 5) (a : BitVec 5) (b : BitVec 5) (u : BitVec 3) (z : BitVec 2) (s : State) : Outcome :=
  .next (s.fatom st 3 (some d) a (some b) u z)

/-- FATOM_SMIN, 10:R271: Far atomic signed minimum. -/
def execFatomSmin (st : BitVec 3) (d : BitVec 5) (a : BitVec 5) (b : BitVec 5) (u : BitVec 3) (z : BitVec 2) (s : State) : Outcome :=
  .next (s.fatom st 4 (some d) a (some b) u z)

/-- FATOM_SMAX, 10:R271: Far atomic signed maximum. -/
def execFatomSmax (st : BitVec 3) (d : BitVec 5) (a : BitVec 5) (b : BitVec 5) (u : BitVec 3) (z : BitVec 2) (s : State) : Outcome :=
  .next (s.fatom st 5 (some d) a (some b) u z)

/-- FATOM_UMIN, 10:R271: Far atomic unsigned minimum. -/
def execFatomUmin (st : BitVec 3) (d : BitVec 5) (a : BitVec 5) (b : BitVec 5) (u : BitVec 3) (z : BitVec 2) (s : State) : Outcome :=
  .next (s.fatom st 6 (some d) a (some b) u z)

/-- FATOM_UMAX, 10:R271: Far atomic unsigned maximum. -/
def execFatomUmax (st : BitVec 3) (d : BitVec 5) (a : BitVec 5) (b : BitVec 5) (u : BitVec 3) (z : BitVec 2) (s : State) : Outcome :=
  .next (s.fatom st 7 (some d) a (some b) u z)

/-- FATOM_SWAP, 10:R271: Far atomic swap. -/
def execFatomSwap (st : BitVec 3) (d : BitVec 5) (a : BitVec 5) (b : BitVec 5) (u : BitVec 3) (z : BitVec 2) (s : State) : Outcome :=
  .next (s.fatom st 8 (some d) a (some b) u z)

/-- FATOM_CAS, 10:R271: Far atomic compare-and-swap. -/
def execFatomCas (st : BitVec 3) (d : BitVec 5) (a : BitVec 5) (b : BitVec 5) (u : BitVec 3) (z : BitVec 2) (s : State) : Outcome :=
  .next (s.fatom st 9 (some d) a (some b) u z)

/-- FATOM_FADD, 10:R271: Far atomic F32 add per element, rounded singly. -/
def execFatomFadd (st : BitVec 3) (d : BitVec 5) (a : BitVec 5) (b : BitVec 5) (u : BitVec 3) (z : BitVec 2) (s : State) : Outcome :=
  .next (s.fatom st 10 (some d) a (some b) u z)

/-- FATOM_LOAD, 10:R271: Far load with a declared use. -/
def execFatomLoad (st : BitVec 3) (d : BitVec 5) (a : BitVec 5) (u : BitVec 3) (z : BitVec 2) (s : State) : Outcome :=
  .next (s.fatom st 11 (some d) a none u z)

/-- FATOM_STORE, 10:R271: Far store with a declared use. -/
def execFatomStore (st : BitVec 3) (a : BitVec 5) (b : BitVec 5) (u : BitVec 3) (z : BitVec 2) (s : State) : Outcome :=
  .next (s.fatom st 12 none a (some b) u z)

end Sys2Proof.Machine
end

