-- ==== Sys2Proof/Machine/Sync.lean ====
section
/-!
DEFINITION. Fences, barriers, iteration counters and the tile members of SYNC (10:R273 to R279).
-/

namespace Sys2Proof.Machine

/-! ## Sent once (10:R275) -/

/-- What a scope waits for beyond the chunk's commit (06:R173): 0 and 1 far operations to the scratchpad (none goes to
TCM); 2 every far operation; 3 also acknowledgement of writes to host or peer memory. -/
def State.drained (s : State) (scope : Nat) : Bool :=
  let g := s.gang s.cur
  if scope ≤ 1 then g.far.all (fun o => o.perf || o.lanes.all (fun l => spaceOfLoc l.loc != 3))
  else g.farDone && (scope == 2 || s.links.unacked.all (fun e => e.gk != s.cur))

/-- A waiting word that was sent before a trap only waits when it is issued again after the handler's return (10:R275, 20:R422). -/
def Gang.recall (g : Gang) : Gang :=
  match g.sent.find? (fun e => e.1 == g.r.tr.tlvl + 1) with
  | none => g
  | some (k, e, n, aw) => { g with sent := tdel g.sent k, prog := n, aw := aw, ch := { g.ch with log := [e], pos := 0 } }

/-- A word that is a logged far operation and ends the chunk before it. `release` is the scope it waits for, if any. When
the log holds its completed entry the results are taken from there and nothing is sent again; otherwise `k` serves it
(10:R275, 06:R152, R179). -/
def State.sentOnce (s : State) (ops : List FarLane) (release : Option Nat) (replay : List Nat → State → State)
    (k : State → State) : State :=
  s.before (fun s =>
    let s := s.modGang s.cur Gang.recall
    let g := s.gang s.cur
    match g.logHit s.word ops with
    | some e => if e.done then replay e.res (s.modGang s.cur Gang.logStep) else k s
    | none =>
      let s := s.modGang s.cur (fun g => { g with prog := 0, aw := none })
      match release with
      | none => k s
      | some sc => if s.drained sc then k s else s.waitFor .farDrain)

/-- The operation is complete: its results are logged (06:R152). -/
def State.sentDone (s : State) (ops : List FarLane) (res : List Nat) : State :=
  let w := s.word
  s.modGang s.cur (fun g => (g.logNew w ops true res).logStep)

/-- The operation has been sent and waits; `n` says how far it got (10:R275, 03:R91). -/
def State.sentWait (s : State) (ops : List FarLane) (n : Nat) (kind : WaitKind) : State :=
  let w := s.word
  (s.modGang s.cur (fun g =>
    match g.logHit w ops with
    | some _ => { g with prog := n }
    | none => { g.logNew w ops false [] with prog := n })).waitFor kind

/-- The operation has been accepted and its gang waits until a change meets what it waits for (03:R91, 10:R276, R279). -/
def State.awaits (s : State) (ops : List FarLane) (a : Awaited) (kind : WaitKind) : State :=
  (s.modGang s.cur (fun g => { g with aw := some a })).sentWait ops 1 kind

/-- Marks what the gangs of some units wait for as met. -/
def Gang.meet (p : Awaited → Bool) (g : Gang) : Gang :=
  let f (a : Awaited) : Awaited := if p a then { a with met := true } else a
  { g with aw := g.aw.map f, sent := g.sent.map (fun e => (e.1, e.2.1, e.2.2.1, e.2.2.2.map f)) }

/-- What some gangs wait for has come about (10:R276, R279). -/
def State.meetAll (s : State) (mine : Nat → Bool) (p : Awaited → Bool) : State :=
  { s with gangs := s.gangs.map (fun e => if mine e.1 then (e.1, e.2.meet p) else e) }

/-- Writes `wd` of some lanes at once, for the words that hold the gang until their values are present (08:R214). -/
def State.holdW (s : State) (d : Nat) (vs : List (Nat × Word)) : State :=
  let x := s.regs.destsW d vs
  s.modGang s.cur (fun g => { g with r := g.r.landAll x.1 x.2 })

/-! ## Fences (10:R274) -/

/-- FENCE, 10:R274: the chunk ends, then the gang holds until what its scope waits for has been performed. -/
def execFence (st : BitVec 3) (c : BitVec 2) (s : State) : Outcome :=
  .next (s.before (fun s => if s.drained c.toNat then s.acquired.finishEnd st else s.waitFor .farDrain))

/-! ## Barriers (10:R276, R277) -/

/-- The reservation of the gang's crew in its cluster (03:R88). -/
def State.crewOf (s : State) : Option CrewRes :=
  let g := s.gang s.cur
  match g.crew with
  | none => none
  | some c => (s.cluster (clkOfGk s.cur)).crews.find? (fun x => x.launch == g.launch && x.crew == c)

/-- Crew-thread index of a lane (03:R87). -/
def State.crewIdx (s : State) (x : CrewRes) (l : Nat) : Nat :=
  (s.regs.lane l).tidx.toNat - x.crew * x.size

/-- Runs after every change of an object (10:R276). -/
def Barrier.complete (b : Barrier) : Barrier :=
  let b := if b.member ≠ 0#1024 ∧ b.arrived = b.member then { b with arrived := 0#1024, phase := b.phase + 1#32 } else b
  if b.member = 0#1024 then { b with bound := none, phase := 0#32 } else b

def bit1024 (i : Nat) : BitVec 1024 := BitVec.ofNat 1024 (2 ^ i)
def Barrier.has (b : Barrier) (i : Nat) : Bool := b.member.getLsbD i
def Barrier.leave (b : Barrier) (i : Nat) : Barrier :=
  { b with member := b.member &&& ~~~(bit1024 i), arrived := b.arrived &&& ~~~(bit1024 i) }
def Barrier.arrive (b : Barrier) (i : Nat) : Barrier := { b with arrived := b.arrived ||| bit1024 i }

/-- Object k of the issuing core's cluster. -/
def State.bar (s : State) (k : Nat) : Barrier := tget {} (s.cluster (clkOfGk s.cur)).bars k

/-- The phase has passed every value waited on. -/
def Barrier.passed (b : Barrier) (vs : List Nat) : Bool := vs.all (fun v => b.phase.toNat != v % 2 ^ 32)

/-- Changes an object; the gangs whose wait the new phase meets go on (10:R276). -/
def State.setBar (s : State) (k : Nat) (b : Barrier) : State :=
  let clk := clkOfGk s.cur
  (s.modCluster clk (fun c => { c with bars := tput c.bars k b })).meetAll (fun gk => clkOfGk gk == clk)
    (fun a => !a.tile && a.obj == k && b.passed a.vs)

/-- A member that needs its object bound to the issuing crew; misuse traps with cause `0x0d` and changes nothing (10:R276,
03:R90). -/
def State.barrier (s : State) (k : Nat) (free_ : Bool) (f : CrewRes → Barrier → State → State) : State :=
  match s.crewOf with
  | none => s.trapAll 0x0d
  | some x =>
    let b := s.bar k
    if b.bound = some (x.launch, x.crew) ∨ (free_ ∧ b.bound = none) then f x b s else s.trapAll 0x0d

/-- The operands a barrier word logs: its lanes and object. -/
def State.barOps (s : State) (k : BitVec 4) : List FarLane :=
  s.regs.active.map (fun l => { lane := l, loc := k.toNat, v := 0, c := 0 })

/-- BARJ, 10:R276: binds a free object to the crew with every thread a member. -/
def execBarj (st : BitVec 3) (k : BitVec 4) (_c : BitVec 2) (s : State) : Outcome :=
  let ops := s.barOps k
  .next (s.sentOnce ops none (fun _ s => s.finish st) (fun s =>
    s.barrier k.toNat true (fun x b s =>
      let s := if b.bound = none then
          s.setBar k.toNat { bound := some (x.launch, x.crew), member := BitVec.ofNat 1024 (2 ^ x.size - 1)
                             arrived := 0#1024, phase := 0#32 }
        else s
      (s.sentDone ops []).finish st)))

/-- BARL, 10:R276: the lanes leave the object. -/
def execBarl (st : BitVec 3) (k : BitVec 4) (_c : BitVec 2) (s : State) : Outcome :=
  let ops := s.barOps k
  .next (s.sentOnce ops none (fun _ s => s.finish st) (fun s =>
    s.barrier k.toNat false (fun x b s =>
      let b := (s.regs.active.foldl (fun b l => b.leave (s.crewIdx x l)) b).complete
      ((s.setBar k.toNat b).sentDone ops []).finish st)))

/-- The arrival of every active lane: the phase they arrive in, or misuse (10:R276). -/
def State.arrive (s : State) (k : Nat) (x : CrewRes) (b : Barrier) (f : W32 → State → State) : State :=
  let is := s.regs.active.map (s.crewIdx x)
  if is.any (fun i => !b.has i || b.arrived.getLsbD i) then s.trapAll 0x0d
  else f b.phase (s.setBar k ((is.foldl Barrier.arrive b).complete))

/-- The values of `wd` for a phase in every active lane. -/
def Regs.phaseVals (r : Regs) (p : Nat) : List (Nat × Word) := r.active.map (fun l => (l, BitVec.ofNat 64 p))

/-- BARA, 10:R276, R277: a release; records the arrivals and writes the arrival phase. -/
def execBara (st : BitVec 3) (d : BitVec 5) (k : BitVec 4) (c : BitVec 2) (s : State) : Outcome :=
  let ops := s.barOps k
  let out (p : Nat) (s : State) : State := (s.holdW d.toNat (s.regs.phaseVals p)).finish st
  .next (s.sentOnce ops (some c.toNat) (fun res s => out (res.getD 0 0) s) (fun s =>
    s.barrier k.toNat false (fun x b s => s.arrive k.toNat x b (fun p s =>
      out p.toNat (s.sentDone ops [p.toNat])))))

/-- Serves an accepted wait again: it goes on once it has been met. None when the word has not been accepted yet. -/
def State.waiting (s : State) (ops : List FarLane) (kind : WaitKind) (done : State → State) (k : State → State) : State :=
  match (s.gang s.cur).aw with
  | some a => if a.met then done s else s.sentWait ops 1 kind
  | none => k s

/-- BARW, 10:R276: waits until the phase differs from the register in every active lane. -/
def execBarw (st : BitVec 3) (d : BitVec 5) (k : BitVec 4) (_c : BitVec 2) (s : State) : Outcome :=
  let ops := s.regs.active.map (fun l =>
    ({ lane := l, loc := k.toNat, v := (s.regs.rdW l d.toNat).toNat, c := 0 } : FarLane))
  let done (s : State) : State := (s.sentDone ops []).acquired.finish st
  .next (s.sentOnce ops none (fun _ s => s.acquired.finish st) (fun s =>
    s.waiting ops .barrier done (fun s =>
      s.barrier k.toNat false (fun _ b s =>
        let vs := ops.map FarLane.v
        if b.passed vs then done s else s.awaits ops { tile := false, obj := k.toNat, vs := vs } .barrier))))

/-- BARAW, 10:R276: arrives as `bara`, then waits on the values it wrote. -/
def execBaraw (st : BitVec 3) (d : BitVec 5) (k : BitVec 4) (c : BitVec 2) (s : State) : Outcome :=
  let ops := s.barOps k
  let done (p : Nat) (s : State) : State :=
    ((s.sentDone ops [p]).holdW d.toNat (s.regs.phaseVals p)).acquired.finish st
  .next (s.sentOnce ops (some c.toNat)
    (fun res s => (s.holdW d.toNat (s.regs.phaseVals (res.getD 0 0))).acquired.finish st)
    (fun s => s.waiting ops .barrier (fun s => done (((s.gang s.cur).aw.map Awaited.vs).getD [] |>.headD 0) s) (fun s =>
      s.barrier k.toNat false (fun x b s => s.arrive k.toNat x b (fun p s =>
        if (s.bar k.toNat).passed [p.toNat] then done p.toNat s
        else (s.holdW d.toNat (s.regs.phaseVals p.toNat)).awaits ops { tile := false, obj := k.toNat, vs := [p.toNat] } .barrier)))))

/-- BARM, 10:R276: reads 64 bits of the members that have not arrived; an unbound object gives 0. -/
def execBarm (st : BitVec 3) (d : BitVec 5) (k j : BitVec 4) (s : State) : Outcome :=
  let ops := s.barOps k
  let out (v : Nat) (s : State) : State := (s.holdW d.toNat (s.regs.phaseVals v)).finish st
  .next (s.sentOnce ops none (fun res s => out (res.getD 0 0) s) (fun s =>
    s.barrier k.toNat true (fun _ b s =>
      let v := if b.bound = none then 0 else nbits (b.member &&& ~~~b.arrived).toNat (64 * j.toNat) 64
      out v (s.sentDone ops [v]))))

/-! ## Iteration counters (10:R278) -/

def State.iter (s : State) (k : Nat) : IterCtr := tget {} (s.cluster (clkOfGk s.cur)).its k
def State.setIter (s : State) (k : Nat) (x : IterCtr) : State :=
  s.modCluster (clkOfGk s.cur) (fun c => { c with its := tput c.its k x })

/-- ITINIT, 10:R278: sets a counter's limit and grain and starts it at 0. -/
def execItinit (st : BitVec 3) (d k : BitVec 4) (c : BitVec 2) (s : State) : Outcome :=
  let lim := s.regs.gangOp (2 * d.toNat)
  let grain := (s.regs.gangOp (2 * d.toNat + 1)).setWidth 32
  let ops : List FarLane := [{ lane := s.regs.l0, loc := k.toNat, v := lim.toNat, c := grain.toNat }]
  .next (s.sentOnce ops (some c.toNat) (fun _ s => s.finish st) (fun s =>
    ((s.setIter k.toNat { next := 0#64, limit := lim, grain := grain }).sentDone ops []).finish st))

/-- One lane's range, and the counter after it. -/
def IterCtr.take (x : IterCtr) : Nat × Nat × IterCtr :=
  let st := x.next.toNat
  let grain := if x.grain = 0#32 then 1 else x.grain.toNat
  let len := if st < x.limit.toNat then (if grain < x.limit.toNat - st then grain else x.limit.toNat - st) else 0
  (st, len, { x with next := BitVec.ofNat 64 (st + len) })

/-- Start and length of each lane, one after the other, and the counter after the last lane. -/
def IterCtr.takeAll : IterCtr → List Nat → List Nat × IterCtr
  | x, [] => ([], x)
  | x, _ :: t =>
    let (st, len, x') := x.take
    let (rest, x'') := x'.takeAll t
    (st :: len :: rest, x'')

/-- GETCHUNK, 10:R278: hands out the next range to each active lane; it is a release and an acquire. -/
def execGetchunk (st : BitVec 3) (d k : BitVec 4) (c : BitVec 2) (s : State) : Outcome :=
  let ops := s.barOps k
  let out (res : List Nat) (s : State) : State :=
    let ls := (List.range s.regs.active.length).zip s.regs.active
    let s := s.holdW (2 * d.toNat) (ls.map (fun e => (e.2, BitVec.ofNat 64 (res.getD (2 * e.1) 0))))
    (s.holdW (2 * d.toNat + 1) (ls.map (fun e => (e.2, BitVec.ofNat 64 (res.getD (2 * e.1 + 1) 0))))).acquired.finish st
  .next (s.sentOnce ops (some c.toNat) out (fun s =>
    let (res, x) := (s.iter k.toNat).takeAll s.regs.active
    out res ((s.setIter k.toNat x).sentDone ops res)))

/-! ## Tile headers (07:R184, 10:R279) -/

/-- A tile's `state` word. -/
structure TileSt where
  full : Bool
  wclaim : Bool
  cclaim : Bool
  rd : Nat
  seq : Nat
  deriving DecidableEq, Repr

/-- Reads the header of tile i of a context. -/
def State.tile (s : State) (cx i : Nat) : TileSt :=
  let a := (s.ctx cx).tilePa + 64 * i
  let v := s.rdNat (s.keyNo cx) a 4
  { full := nbits v 0 1 == 1, wclaim := nbits v 1 1 == 1, cclaim := nbits v 2 1 == 1, rd := nbits v 8 8
    seq := s.rdNat (s.keyNo cx) (a + 4) 4 }

/-- A launch is eligible when its tiles allow it (07:R185). -/
def State.eligible (s : State) (cx : Nat) (d : Desc) : Bool :=
  (List.range d.tin.length).all (fun i =>
    let t := s.tile cx (d.tin.getD i 0)
    t.full && decide (t.rd < 255) && !(nbits d.consume i 1 == 1 && t.cclaim)) &&
  d.tout.all (fun i =>
    let t := s.tile cx i
    !t.full && !t.wclaim)

/-- The time since each sound head of a slice became eligible last (07:R197). -/
def State.refreshHeads (s : State) (sl : Nat) : State :=
  s.modSlice sl (fun x => { x with heads := x.heads.map (fun h =>
    { h with since := if h.broken == 0 && s.eligible (s.runCx sl) h.desc then some (h.since.getD s.clock.run) else none }) })

/-- The launch arbiter changes a header: the page is dirty, open chunks that read it are squashed, gangs whose wait it meets go on, and
heads may become eligible or cease to (07:R184, 10:R279, 14:R370). -/
def State.setTile (s : State) (cx i : Nat) (t : TileSt) : State :=
  let a := (s.ctx cx).tilePa + 64 * i
  let b (x : Bool) : Nat := if x then 1 else 0
  let s := s.wrBytes (s.keyNo cx) a
    (leBytes 4 (b t.full + 2 * b t.wclaim + 4 * b t.cclaim + 256 * (t.rd % 256)) ++ leBytes 4 (t.seq % 2 ^ 32))
  let s := s.dirtyVa cx ((s.ctx cx).tilb + 64 * i)
  let s := s.squashUsers (sectorsOf a 8)
  let s := s.meetAll (fun gk => s.gangCx gk == cx) (fun x => x.tile && x.obj == i &&
    (if x.vs == [1] then t.full else !t.full && !t.wclaim))
  if (s.slice (cx / 8)).running = some (cx % 8) then s.refreshHeads (cx / 8) else s

/-- A word that holds until the launch arbiter has handled it (10:R279, 07:R195). -/
def State.arbitrate (s : State) (k : State → State) : State :=
  if s.arbFree then k s.arbTake else s.modGang s.cur (fun g => { g with wait := none, readyAt := max g.readyAt (s.now + 1) })

/-- A tile word: its index is a gang operand; an index at or above the tile count is misuse, cause `0x14` (10:R279). -/
def State.tileOp (s : State) (st : BitVec 3) (a : BitVec 5) (release : Option Nat) (out : State → State)
    (k : List FarLane → Nat → TileSt → State → State) : State :=
  let i := (s.regs.gangOp a.toNat).toNat
  let cx := s.gangCx s.cur
  let ops : List FarLane := [{ lane := s.regs.l0, loc := i, v := 0, c := 0 }]
  s.sentOnce ops release (fun _ s => (out s).finish st) (fun s =>
    s.waiting ops .tile (fun s => (out (s.sentDone ops [])).finish st) (fun s =>
      if (s.ctx cx).ntiles ≤ i then s.trapAll 0x14 else k ops i (s.tile cx i) s))

/-- A tile wait goes on once an event of the arbiter has left the header as it asks (10:R279). -/
def State.tileWait (s : State) (st : BitVec 3) (a : BitVec 5) (full : Bool) : State :=
  s.tileOp st a none State.acquired (fun ops i t s =>
    if (if full then t.full else !t.full && !t.wclaim) then (s.sentDone ops []).acquired.finish st
    else s.awaits ops { tile := true, obj := i, vs := [if full then 1 else 0] } .tile)

/-- A change of a header by the gang is one event of the arbiter: misuse changes nothing (10:R279, 07:R195). -/
def State.tileSet (s : State) (st : BitVec 3) (a : BitVec 5) (c : BitVec 2) (f : TileSt → Option TileSt) : State :=
  s.tileOp st a (some c.toNat) id (fun ops i t s =>
    s.arbitrate (fun s =>
      match f t with
      | none => s.trapAll 0x14
      | some t' => ((s.setTile (s.gangCx s.cur) i t').sentDone ops []).finish st))

/-- TWAITF, 10:R279: waits until the tile is full. -/
def execTwaitf (st : BitVec 3) (a : BitVec 5) (_c : BitVec 2) (s : State) : Outcome :=
  .next (s.tileWait st a true)

/-- TWAITE, 10:R279: waits until the tile is empty and not claimed. -/
def execTwaite (st : BitVec 3) (a : BitVec 5) (_c : BitVec 2) (s : State) : Outcome :=
  .next (s.tileWait st a false)

/-- TSETF, 10:R279: sets the tile full; misuse when it is full or claimed. -/
def execTsetf (st : BitVec 3) (a : BitVec 5) (c : BitVec 2) (s : State) : Outcome :=
  .next (s.tileSet st a c (fun t =>
    if t.full || t.wclaim then none else some { t with full := true, seq := (t.seq + 1) % 2 ^ 32 }))

/-- TSETE, 10:R279: empties the tile; misuse when it is empty, read or claimed. -/
def execTsete (st : BitVec 3) (a : BitVec 5) (c : BitVec 2) (s : State) : Outcome :=
  .next (s.tileSet st a c (fun t =>
    if !t.full || t.rd != 0 || t.cclaim then none else some { t with full := false }))

end Sys2Proof.Machine
end

