-- ==== Sys2Proof/Machine/Mail.lean ====
section
/-!
DEFINITION. Mailboxes (10:R280 to R282, 06:R177).
-/

namespace Sys2Proof.Machine

/-- Values on their way to a core and buffered there; 16 fill its mail buffer (10:R281). -/
def Core.mailLoad (c : Core) : Nat := c.mbuf.length + c.inbox.length

/-- A value for a mailbox may be sent: the mail buffer has room, or the register's presence bit is clear and no value is on its way to
the register (10:R281). -/
def Core.takesMail (c : Core) (b : Nat) : Bool :=
  c.mailLoad < 16 || (!(tget {} c.mail b).pres && c.inbox.all (fun m => m.mb != b) && c.mbuf.all (fun m => m.1 != b))

/-- A quad sends a value to a mailbox of a core (04:R124, 10:R281). -/
def State.sendMail (s : State) (qk ck b : Nat) (v : Word) : State :=
  let n := (s.quad qk).sendNo
  (s.modQuad qk (fun q => { q with sendNo := n + 1 })).modCore ck (fun c => { c with inbox := c.inbox ++ [{ mb := b, v := v, src := quadOfQk qk, no := n }] })

/-- A quad has a message of another one on its way that was sent before one with a number: a train, a mailbox value, a flit or a token.
Messages from one source to one destination arrive in the order in which they were sent (04:R124). -/
def State.sentBefore (s : State) (qk src no : Nat) : Bool :=
  let q := s.quad qk
  q.trains.any (fun t => !t.injected && t.src == src && decide (t.no < no)) ||
    [0, 1, 2, 3].any (fun j => (s.core (4 * qk + j)).inbox.any (fun m => m.src == src && decide (m.no < no))) ||
    q.port.inflight.any (fun f => f.1 % 2048 == src && decide (f.2.no < no)) ||
    q.port.tokens.any (fun t => t.src == src && decide (t.no < no))

/-- A value enters its mailbox, or the core's mail buffer; none while the buffer is full, or while the holder of the sole grant has read the
register (10:R281, 06:R156). -/
def State.enterMail (s : State) (ck m : Nat) (v : Word) : Option State :=
  let x := s.core ck
  if !(tget {} x.mail m).pres then
    if s.soleMails.contains (mbOf ck m) then none
    else some ((s.setCore ck { x with mail := tput x.mail m { val := v, pres := true } }).squashMail none (mbOf ck m))
  else if 16 ≤ x.mbuf.length then none
  else some (s.setCore ck { x with mbuf := x.mbuf ++ [(m, v)] })

/-- The value of a sender that a full buffer has held enters at the target, behind what its quad sent there before (10:R281, 04:R124). -/
def State.enterHeld (s : State) (qk ck b : Nat) (v : Word) : Option State :=
  if s.sentBefore (qkOfCk ck) (quadOfQk qk) (s.quad qk).sendNo then none else s.enterMail ck b v

/-- Sends the values of lanes in order while their target takes them; answers how many are served (10:R281). The first one of a gang that
has been held enters at once. Nothing is sent while the slice's partition injects nothing (04:R123, 19:R414). -/
def State.putmGo (s : State) (b : Nat) (held : Bool) : List (Nat × Word) → Nat → Nat × State
  | [], n => (n, s)
  | (ck, v) :: t, n =>
    if !(s.core ck).takesMail b || s.injOff (slOfGk s.cur) then (n, s)
    else if held then
      match s.enterHeld (qkOfGk s.cur) ck b v with
      | none => (n, s)
      | some s => State.putmGo s b false t (n + 1)
    else State.putmGo (s.sendMail (qkOfGk s.cur) ck b v) b false t (n + 1)

/-- PUTM, 10:R281: sends a value of each selected lane to a mailbox of a core; a core outside the slice is a fault with
cause `0x09` and that number (18:R388); a full mail buffer holds the gang until its value has entered. `prog` counts the
lanes served, and one more once the gang has been held. -/
def execPutm (st : BitVec 3) (d a b : BitVec 5) (g : BitVec 4) (s : State) : Outcome :=
  let r := s.regs
  let sl := slOfGk s.cur
  let ls := r.selected g
  let core (l : Nat) : Nat := (r.rdW l a.toNat).toNat
  let bad := ls.filter (fun l => (s.slice sl).ncores ≤ core l)
  let ops := ls.map (fun l =>
    ({ lane := l, loc := core l, v := (r.rdW l d.toNat).toNat, c := b.toNat } : FarLane))
  .next (match bad with
    | l :: _ => s.trap 0x09 (maskOf bad) (r.rdW l a.toNat)
    | [] =>
      s.sentOnce ops (some 2) (fun _ s => s.finish st) (fun s =>
        let n := (s.gang s.cur).prog
        let todo := (ls.drop (n - 1)).map (fun l => (ckOf sl (core l), r.rdW l d.toNat))
        let (m, s) := s.putmGo b.toNat (n != 0) todo (n - 1)
        if m = ls.length then (s.sentDone ops []).finish st else s.sentWait ops (m + 1) .mailBuffer))

/-- Mailbox b of the issuing core as the chunk sees it: a consumption or a `clrm` of the chunk has cleared its bit
(06:R177). -/
def State.mailView (s : State) (b : Nat) : Mailbox :=
  let ck := ckOfGk s.cur
  let m := tget {} (s.core ck).mail b
  { m with pres := m.pres && !(s.gang s.cur).ch.mcons.contains (mbOf ck b) }

/-- The chunk reads a mailbox. -/
def State.mailRead (s : State) (b : Nat) : State :=
  s.modGang s.cur (fun g => { g with ch := { g.ch with mread := addSet g.ch.mread [mbOf (ckOfGk s.cur) b] } })

/-- The chunk consumes or clears a mailbox; it takes effect at its commit. -/
def State.mailClear (s : State) (b : Nat) : State :=
  s.modGang s.cur (fun g => { g with ch := { g.ch with mcons := addSet g.ch.mcons [mbOf (ckOfGk s.cur) b] } })

/-- GETM, 10:R282: takes the value of a mailbox; with its bit clear the chunk ends and the gang waits. -/
def execGetm (st : BitVec 3) (d b : BitVec 5) (s : State) : Outcome :=
  let take (s : State) : State :=
    let v := (s.mailView b.toNat).val
    let s := (s.mailRead b.toNat).mailClear b.toNat
    (s.holdW d.toNat (s.regs.active.map (fun l => (l, v)))).acquired.finish st
  .next (
    if (s.mailView b.toNat).pres then take s
    else s.before (fun s => if (s.mailView b.toNat).pres then take s else s.waitFor .mailbox))

/-- PEEKM, 10:R282: the value a mailbox holds, whatever its bit. -/
def execPeekm (st : BitVec 3) (d b : BitVec 5) (s : State) : Outcome :=
  let v := (s.mailView b.toNat).val
  .next ((s.mailRead b.toNat).put st 2 d.toNat (s.regs.active.map (fun l => (l, v))))

/-- TSTM, 10:R282: 1 if the presence bit is set. -/
def execTstm (st : BitVec 3) (d b : BitVec 5) (s : State) : Outcome :=
  let v := if (s.mailView b.toNat).pres then 1#64 else 0#64
  .next ((s.mailRead b.toNat).put st 2 d.toNat (s.regs.active.map (fun l => (l, v))))

/-- CLRM, 10:R282: clears the presence bit at the chunk's commit. -/
def execClrm (st : BitVec 3) (b : BitVec 5) (s : State) : Outcome :=
  .next ((s.mailClear b.toNat).finish st)

end Sys2Proof.Machine
end

