-- ==== Sys2Proof/Machine/LaneOps.lean ====
section
/-!
DEFINITION. Operations across the gang (11:R291, R292).
-/

namespace Sys2Proof.Machine

/-- The word that lane k holds when it is active, otherwise 0. -/
def Regs.fromLane (r : Regs) (n k : Nat) : Word := if r.act.getLsbD k then r.rdW k n else 0#64

/-- The sum of some lanes' registers, mod 2^64. -/
def Regs.sumW (r : Regs) (n : Nat) (ls : List Nat) : Word := ls.foldl (fun acc j => acc + r.rdW j n) 0#64

/-- The active lanes in which a predicate holds. -/
def Regs.voters (r : Regs) (n : Nat) : List Nat := r.active.filter (fun j => r.rdP j n)

/-- SHFL, 11:R292: each selected lane takes the source of the lane it names. -/
def execShfl (st : BitVec 3) (d a b : BitVec 5) (g : BitVec 4) (s : State) : Outcome :=
  .next (s.alu st 3 d g (fun l => s.regs.fromLane a.toNat (wbits (s.regs.rdW l b.toNat) 0 5)))

/-- SHFLX, 11:R292: as `shfl`, of the lane number xor the mask. -/
def execShflx (st : BitVec 3) (d a b : BitVec 5) (g : BitVec 4) (s : State) : Outcome :=
  .next (s.alu st 3 d g (fun l => s.regs.fromLane a.toNat (l.xor (wbits (s.regs.rdW l b.toNat) 0 5))))

/-- BCAST, 11:R292: every selected lane takes the source of one lane, named by a gang operand. -/
def execBcast (st : BitVec 3) (d a b : BitVec 5) (g : BitVec 4) (s : State) : Outcome :=
  .next (s.alu st 3 d g (fun _ => s.regs.fromLane a.toNat (wbits (s.regs.gangOp b.toNat) 0 5)))

/-- VOTE_ANY, 11:R292: 1 if the predicate holds in some active lane. -/
def execVoteAny (st : BitVec 3) (d a : BitVec 3) (g : BitVec 4) (s : State) : Outcome :=
  .next (s.putP st 3 d.toNat ((s.regs.selected g).map (fun l => (l, !(s.regs.voters a.toNat).isEmpty))))

/-- VOTE_ALL, 11:R292: 1 if the predicate holds in every active lane. -/
def execVoteAll (st : BitVec 3) (d a : BitVec 3) (g : BitVec 4) (s : State) : Outcome :=
  .next (s.putP st 3 d.toNat ((s.regs.selected g).map (fun l =>
    (l, (s.regs.voters a.toNat).length == s.regs.active.length))))

/-- BALLOT, 11:R292: the mask of the active lanes in which the predicate holds. -/
def execBallot (st : BitVec 3) (d : BitVec 5) (a : BitVec 3) (g : BitVec 4) (s : State) : Outcome :=
  .next (s.alu st 3 d g (fun _ => (maskOf (s.regs.voters a.toNat)).setWidth 64))

/-- REDADD, 11:R292: the sum over the active lanes. -/
def execRedadd (st : BitVec 3) (d a : BitVec 5) (g : BitVec 4) (s : State) : Outcome :=
  .next (s.alu st 3 d g (fun _ => s.regs.sumW a.toNat s.regs.active))

/-- FREDADD, 11:R292, 05:R147: the exact sum of the active lanes' F32 values, rounded once under each lane's mode. -/
def execFredadd (st : BitVec 3) (d a : BitVec 5) (g : BitVec 4) (s : State) : Outcome :=
  .next (s.fp st 6 d g (fun m _ => f32Word (fRedAdd m (s.regs.active.map (fun j => s.regs.lo j a)))))

/-- SCANADD, 11:R292: the sum over the active lanes up to each lane. -/
def execScanadd (st : BitVec 3) (d a : BitVec 5) (g : BitVec 4) (s : State) : Outcome :=
  .next (s.alu st 3 d g (fun l => s.regs.sumW a.toNat (s.regs.active.filter (fun j => j ≤ l))))

/-- LANEID, 11:R292: the lane number. -/
def execLaneid (st : BitVec 3) (d : BitVec 5) (g : BitVec 4) (s : State) : Outcome :=
  .next (s.alu st 1 d g (fun l => BitVec.ofNat 64 l))

/-- ACTMASK, 11:R292: the active mask. -/
def execActmask (st : BitVec 3) (d : BitVec 5) (g : BitVec 4) (s : State) : Outcome :=
  .next (s.alu st 1 d g (fun _ => s.regs.act.setWidth 64))

end Sys2Proof.Machine
end

