-- ==== Sys2Proof/Machine/Accw.lean ====
section
/-!
DEFINITION. Wide accumulators: ACC640 slots in TCM (11:R293 to R295, 05:R143 to R145).
-/

namespace Sys2Proof.Machine

/-- A slot's value and status (05:R143). -/
structure Acc where
  v : BitVec 640 := 0#640
  st : BitVec 4 := 0#4
  deriving DecidableEq, Repr

/-- A slot as the chunk reads it. -/
def State.accRead (s : State) (loc : Nat) : Acc :=
  { v := BitVec.ofNat 640 (s.chNat s.cur loc 80), st := BitVec.ofNat 4 (s.chNat s.cur (loc + 80) 16) }

def Acc.bytes (a : Acc) : List Byte := leBytes 80 a.v.toNat ++ leBytes 16 a.st.toNat

/-- Adds an exact integer multiple of `2 ^ -320`; a carry out sets the overflow bit (05:R144). -/
def Acc.add (a : Acc) (x : Int) : Acc :=
  let (v, c) := accAdd 640 a.v x
  { v := v, st := if c then a.st ||| 8#4 else a.st }

/-- What a floating value adds, in units of `2 ^ -320`: 0 for one that changes the status only (05:R144). -/
def FVal.addend : FVal → Int
  | .fin s m e => acc640Of s m e
  | _ => 0

/-- Adds a floating value (05:R144). -/
def Acc.addF (a : Acc) (x : FVal) : Acc :=
  match x with
  | .fin s m e => a.add (FVal.fin s m e).addend
  | .inf s => { a with st := a.st ||| (if s then 4#4 else 2#4) }
  | .nan _ => { a with st := a.st ||| 1#4 }

/-- What a member does to the slot of a lane: the slot after it, the addend, and the flags it sets. -/
abbrev AccOp := Regs → Nat → Acc → Acc × Int × Flags5

def opClrw : AccOp := fun _ _ _ => ({}, 0, 0#5)

def opAddwf (b : BitVec 5) : AccOp := fun r l a =>
  let x := unpack 0 (r.lo l b)
  (a.addF x, x.addend, invIf x.isSnan)

def opAddwi (b : BitVec 5) : AccOp := fun r l a =>
  let x := (r.rdW l b.toNat).toInt * 2 ^ 320
  (a.add x, x, 0#5)

/-- The exact product of two F32 factors; a NaN factor or 0 times an infinity sets the NaN bit (11:R294). -/
def opMaddw (d b : BitVec 5) : AccOp := fun r l a =>
  let x := unpack 0 (r.lo l d)
  let y := unpack 0 (r.lo l b)
  let sig := x.isSnan || y.isSnan
  if x.isNan || y.isNan then ({ a with st := a.st ||| 1#4 }, 0, invIf sig)
  else
    match prodF x y with
    | none => ({ a with st := a.st ||| 1#4 }, 0, flInvalid)
    | some p => (a.addF p, p.addend, 0#5)

/-- The words of a 640-bit number that meet a condition, ascending. -/
def wordsWhere (p : Nat → Bool) : List Nat := (List.range 20).filter p

/-- Words from the lowest non-zero word of an addend to the highest word that its carry or borrow reaches in a value, 1 to 20; an addend of
zero takes 1 (11:R295). -/
def accWords (old : BitVec 640) (x : Int) : Nat :=
  let own := wordsWhere (fun i => nbits x.natAbs (32 * i) 32 != 0)
  let new := (old + BitVec.ofInt 640 x).toNat
  let reach := wordsWhere (fun i => nbits old.toNat (32 * i) 32 != nbits new (32 * i) 32)
  match own with
  | [] => 1
  | lo :: _ => (own ++ reach).foldl Nat.max 0 - lo + 1

/-- Cycles of one update (11:R295). -/
def accCycles (n : Nat) : Nat := 1 + (n + 3) / 4

/-- The unit of the issuing core takes on an update or a read of n words, behind everything issued before it (11:R295). -/
def State.accBusy (s : State) (n : Nat) : State :=
  s.modCore (ckOfGk s.cur) (fun c =>
    { c with accq := c.accq ++ [(slotOfGk s.cur, c.accEnd (fun _ => true) s.now + accCycles n)] })

/-- One lane's indivisible update: its slot is read and written in the gang's chunk (11:R294, 05:R144). -/
def State.accLane (s : State) (clr : Bool) (f : AccOp) (e : Nat × Nat × Place) : State :=
  let loc := e.2.2.loc
  let old := s.accRead loc
  let (new, x, fl) := f s.regs e.1 old
  let ws := (List.range 96).zip new.bytes
  let s := s.modGang s.cur (fun g =>
    let g := (g.noteRead (sectorsOf loc 96)).buffer (ws.map (fun b => (loc + b.1, b.2)))
    { g with r := g.r.modLane e.1 (fun l => l.orFlags fl) })
  s.accBusy (if clr then 20 else accWords old.v x)

/-- The checks of the slot each selected lane names (11:R294). -/
def State.accChks (s : State) (a : BitVec 5) (ls : List Nat) (wr : Bool) : List LaneChk :=
  s.laneChks ls (fun l => (s.regs.rdW l a.toNat).toNat) 128 wr .accw

/-- An update of the slot of each selected lane, in ascending lane order (11:R294). -/
def State.accUpdate (s : State) (st : BitVec 3) (a : BitVec 5) (g : BitVec 4) (clr : Bool) (f : AccOp) : State :=
  let cs := s.accChks a (s.regs.selected g) true
  s.checked cs true (fun s =>
    let ps := placesOf cs
    s.sectorRoom (ps.foldl (fun acc e => addSet acc (sectorsOf e.2.2.loc 96)) []) (fun s =>
      (ps.foldl (fun t e => t.accLane clr f e) s).finish st))

/-- CLRW, 11:R294: clears value and status. -/
def execClrw (st : BitVec 3) (a : BitVec 5) (g : BitVec 4) (s : State) : Outcome :=
  .next (s.accUpdate st a g true opClrw)

/-- ADDWF, 11:R294: adds an F32 value. -/
def execAddwf (st : BitVec 3) (a b : BitVec 5) (g : BitVec 4) (s : State) : Outcome :=
  .next (s.accUpdate st a g false (opAddwf b))

/-- ADDWI, 11:R294: adds a signed integer. -/
def execAddwi (st : BitVec 3) (a b : BitVec 5) (g : BitVec 4) (s : State) : Outcome :=
  .next (s.accUpdate st a g false (opAddwi b))

/-- MADDW, 11:R294: adds the exact product of two F32 values. -/
def execMaddw (st : BitVec 3) (d a b : BitVec 5) (g : BitVec 4) (s : State) : Outcome :=
  .next (s.accUpdate st a g false (opMaddw d b))

/-- ADDWW, 11:R294: adds another slot's value and joins its status; both slots of every selected lane are checked. -/
def execAddww (st : BitVec 3) (a b : BitVec 5) (g : BitVec 4) (s : State) : Outcome :=
  let ls := s.regs.selected g
  let ca := s.accChks a ls true
  let cb := s.accChks b ls false
  .next (s.checked ((ca.zip cb).flatMap (fun e => [e.1, e.2])) true (fun s =>
    let ps := (placesOf ca).zip (placesOf cb)
    s.sectorRoom ((placesOf ca).foldl (fun acc e => addSet acc (sectorsOf e.2.2.loc 96)) []) (fun s =>
      (ps.foldl (fun t e =>
        let src := t.accRead e.2.2.2.loc
        let t := t.modGang t.cur (fun g => g.noteRead (sectorsOf e.2.2.2.loc 96))
        t.accLane false (fun _ _ x =>
          let y := x.add src.v.toInt
          ({ y with st := y.st ||| src.st }, src.v.toInt, 0#5)) e.1) s).finish st)))

/-- A rounding read holds the gang until the unit has served it, 6 cycles for each lane, behind what came before it; one of no lane asks
nothing of the unit (11:R295). -/
def State.accHold (s : State) (n : Nat) : State :=
  if n = 0 then s
  else
  let s := (List.range n).foldl (fun t _ => t.accBusy 20) s
  s.modGang s.cur (fun g => { g with readyAt := max g.readyAt ((s.core (ckOfGk s.cur)).accEnd (fun _ => true) s.now) })

/-- A rounding read of the slot of each selected lane: registers and flags (11:R294, 05:R145). -/
def State.accRound (s : State) (st : BitVec 3) (a : BitVec 5) (g : BitVec 4)
    (f : Nat → Acc → List (Nat × Word) × Flags5) : State :=
  let cs := s.accChks a (s.regs.selected g) false
  s.checked cs false (fun s =>
    let ps := placesOf cs
    let xs := ps.map (fun e => (e.1, f (s.regs.lane e.1).mode (s.accRead e.2.2.loc)))
    let s := s.modGang s.cur (fun g => g.noteRead (ps.foldl (fun acc e => addSet acc (sectorsOf e.2.2.loc 96)) []))
    let s := s.flagLanes (xs.map (fun x => (x.1, x.2.2)))
    let s := xs.foldl (fun t x => x.2.1.foldl (fun t v => t.holdW v.1 [(x.1, v.2)]) t) s
    (s.finish st).accHold ps.length)

/-- RNDW, 11:R294: writes the slot rounded to F32. -/
def execRndw (st : BitVec 3) (d a : BitVec 5) (g : BitVec 4) (s : State) : Outcome :=
  .next (s.accRound st a g (fun m x =>
    let (hi, f) := rnd640Hi m x.v x.st
    ([(d.toNat, sext hi 32)], f)))

/-- RNDW2, 11:R294: writes the rounded value and the rounded remainder. -/
def execRndw2 (st : BitVec 3) (d : BitVec 4) (a : BitVec 5) (g : BitVec 4) (s : State) : Outcome :=
  .next (s.accRound st a g (fun m x =>
    let (hi, lo, f) := rnd640 m x.v x.st
    ([(2 * d.toNat, sext hi 32), (2 * d.toNat + 1, sext lo 32)], f)))

end Sys2Proof.Machine
end

