-- ==== Sys2Proof/Machine/Control.lean ====
section
/-!
DEFINITION. Control flow: SYS, BR, LOOP and REPF (09:R232 to R235, R243, R244, R251 to R256, 03:R70, R71, 20:R420, R425).
-/

namespace Sys2Proof.Machine

/-- Whether a word lies in the running block (02:R25). -/
def Regs.inBlock (r : Regs) (w : Int) : Bool :=
  decide ((r.blk.start : Int) ≤ w) && decide (w < (r.blk.start + r.blk.len : Nat))

/-- Goes on once some outstanding writes have landed: the word issues no earlier than the fixed-latency ones, and the gang waits for
the variable ones (08:R215). -/
def State.landed (s : State) (ps : List PendWrite) (k : State → State) : State :=
  if ps.any (fun p => p.land == none) then s.waitFor .counter
  else
    let t := ps.foldl (fun m p => match p.land with
      | some t => if m < t then t else m
      | none => m) s.now
    if s.now < t then s.modGang s.cur (fun g => { g with wait := none, readyAt := max g.readyAt t })
    else k (s.modGang s.cur (fun g => g.landDue s.now))

/-- The outstanding writes of `w26`: words that slide windows write it (08:R215). -/
def Gang.w26Pending (g : Gang) : List PendWrite := g.pend.filter (fun p => p.dst.any (fun e => e.2 == .hi 26))

/-- The outstanding writes that would land in stack entries `lo` to `lo + n - 1` above the base of an active lane. -/
def Gang.entPending (g : Gang) (lo : Int) (n : Nat) : List PendWrite :=
  g.pend.filter (fun p => p.dst.any (fun e => g.r.act.getLsbD e.1 && (match e.2 with
    | .ent k => (List.range n).any (fun i => ((g.r.lane e.1).base + lo + (i : Int)).emod 64 == (k : Int))
    | _ => false)))

/-! ## SYS -/

/-- NOP, 09:R233: nothing. -/
def execNop (st : BitVec 3) (s : State) : Outcome := .next (s.finish st)

/-- Selected lanes end; the others go on. Threads of a crew that end leave its count (03:R71, R88). -/
def State.endLanes (s : State) (st : BitVec 3) (m : W32) : State :=
  let g := s.gang s.cur
  let s := match g.crew with
    | none => s
    | some c => s.crewEnd (clkOfGk s.cur) g.launch c (lanesOf m).length
  let r := g.r.leave m
  let s := s.spillDiv s.cur r.div
  if r.act = 0#32 then s.settle st r else s.retire st r.next

/-- END, 09:R233, 03:R71: every selected lane leaves and its thread ends. A speculative task keeps its one chunk (03:R85). -/
def execEnd (st : BitVec 3) (g : BitVec 4) (s : State) : Outcome :=
  let m := maskOf (s.regs.selected g)
  .next (if (s.gang s.cur).spec then s.endLanes st m else s.before (fun s => s.endLanes st m))

/-- YIELD, 09:R233, 03:R83: the gang is ready again at once, behind the gangs ready in the same cycle. -/
def execYield (st : BitVec 3) (s : State) : Outcome :=
  .next ((s.finish st).modGang s.cur (fun g => { g with yielded := true }))

/-- CHUNK, 09:R233: ends the chunk after it. -/
def execChunk (st : BitVec 3) (s : State) : Outcome :=
  .next (if (s.gang s.cur).spec then s.taskToLow s.cur else s.finishEnd st)

/-- BRK, 09:R233, 18:R399: with breakpoints enabled it asks for a halt, and the gang stops before the next word. -/
def execBrk (st : BitVec 3) (s : State) : Outcome :=
  let cx := s.gangCx s.cur
  let s := s.finish st
  .next (if (s.ctx cx).dbg.bpen then s.modCtx cx (fun c => { c with dbg := { c.dbg with hreq := true } }) else s)

/-- TRAP, 09:R234: raises its code for the selected lanes, to return to the next word; with none it is a `nop`. -/
def execTrap (st : BitVec 3) (c : BitVec 5) (g : BitVec 4) (s : State) : Outcome :=
  let r := s.regs
  let m := maskOf (r.selected g)
  .next (
    if m = 0#32 then s.finish st
    else
      -- the handler's first word issues behind the stall count of the `trap` too (08:R213)
      let s := s.holdTill (s.now + 1 + st.toNat)
      s.trapWith (s.wordAt s.cur r.pc) (r.pc + 1) c.toNat m 0#64)

/-- ERET, 18:R391: returns one trap level; at level 0 it faults. -/
def execEret (st : BitVec 3) (s : State) : Outcome :=
  let k := s.regs.tr.tlvl
  .next (
    if k = 0 then s.trapAll 0x02
    else
      let a := BitVec.ofNat 32 ((s.regs.tr.tmk k).toNat / 2 ^ 32) &&& s.regs.thr
      let g := { s.gang s.cur with r := { s.regs with act := a } }
      let fills := (lanesOf a).any (fun l => ((g.r.lane l).retSlide l).fill.isSome)
      s.landed (if fills then g.entPending (-16) 16 ++ g.w26Pending else []) (fun s => s.eretAt st k))

/-- JOIN, 03:R70, 20:R420, R421: runs the parked path of the top entry, or merges it. -/
def execJoin (st : BitVec 3) (s : State) : Outcome :=
  let r := s.regs
  .next (
    if r.div.length ≤ r.markDepth then s.finish st
    else
      match r.div with
      | [] => s.finish st
      | top :: rest =>
        if top.merging = false then
          s.settle st { r with div := { top with merging := true, jset := true, join := r.pc } :: rest, act := top.park
                               pc := top.tgt }
        else if top.jset = false ∨ top.join = r.pc then
          let bad := r.baseMix top.all
          if bad ≠ 0#32 then s.trap 0x02 bad 0#64
          else s.retire st { r with act := top.all, div := rest }.next
        else s.trapAll 0x02)

/-- Performs some slides once every access has passed and the chunk has room for their spills, then goes on (03:R75,
19:R407, 06:R148). -/
def State.slideThen (s : State) (ps : List Slide) (zero : Bool) (k : State → State) : State :=
  let tl := s.regs.tr.tlvl
  match slideVerdict (s.slideChecks tl ps) with
  | .trap c m va => s.trap c m (BitVec.ofNat 64 va)
  | .stage2 va ipa t p => s.stage2Wait va ipa (ps.all (fun p => p.fill.isNone)) t p
  | .pass => s.sectorRoom (s.spillSecs tl ps) (fun s => s.slideWait tl ps (fun s => k (s.slides tl zero ps)))

/-- RET, 09:R235: returns to the word in `w7` and slides every active lane's window back. -/
def execRet (st : BitVec 3) (s : State) : Outcome :=
  let r := s.regs
  let w := r.gangOp 7
  let bad := r.active.filter (fun l => r.rdW l 7 != w)
  .next (
    if wbits w 14 50 ≠ 0 ∨ !r.inBlock (w.toNat : Int) then s.trapAll 0x02
    else if !bad.isEmpty then s.trap 0x02 (maskOf bad) 0#64
    else
      let ps := r.active.map (fun l => (r.lane l).retSlide l)
      -- a fill writes its frame (08:R215)
      s.landed (if ps.any (fun p => p.fill.isSome) then (s.gang s.cur).entPending (-16) 16 ++ (s.gang s.cur).w26Pending else []) (fun s =>
        s.slideThen ps false (fun s => s.finishAt st w.toNat)))

/-- TLBINV, 09:R233, 04:R113: at trap level 0 a permission fault; else the chunk ends, and the gang holds until the
translation is gone everywhere. -/
def execTlbinv (st : BitVec 3) (_a : BitVec 5) (s : State) : Outcome :=
  .next (
    if s.regs.tr.tlvl = 0 then s.trapAll 0x09
    else s.before (fun s =>
      if (s.gang s.cur).prog = 2 then s.finishEnd st
      else if s.drained 2 then (s.modGang s.cur (fun g => { g with prog := 1 })).waitFor .tlbinv
      else s.waitFor .farDrain))

/-! ## BR (09:R243, R244) -/

/-- The branch target, checked against the block whatever the lanes decide (20:R420). -/
def State.target (s : State) (o : BitVec 18) (k : Nat → State) : State :=
  let t := (s.regs.pc : Int) + o.toInt
  if s.regs.inBlock t then k t.toNat else s.trapAll 0x02

/-- A taken branch of the whole gang (09:R253). -/
def State.jump (s : State) (st : BitVec 3) (t : Nat) : State :=
  s.retire st { (s.regs.endOutside t) with pc := t }

/-- BR, 09:R244, 03:R70: jumps, falls through, or splits on the divergence stack. -/
def execBr (st : BitVec 3) (g : BitVec 4) (o : BitVec 18) (s : State) : Outcome :=
  .next (s.target o (fun t =>
    let r := s.regs
    let taken := maskOf (r.selected g)
    if taken = r.act then s.jump st t
    else if taken = 0#32 then s.finish st
    else if 24 ≤ r.div.length then s.trap 0x02 taken 0#64
    else
      let e : DivEntry := { all := r.act, park := taken, merging := false, jset := false, join := 0, tgt := t }
      (s.spillDiv s.cur (e :: r.div)).retire st { r with div := e :: r.div, act := r.act &&& ~~~taken }.next))

/-- BRU, 09:R244: jumps or falls through together; disagreement is a fault. -/
def execBru (st : BitVec 3) (g : BitVec 4) (o : BitVec 18) (s : State) : Outcome :=
  .next (s.target o (fun t =>
    let r := s.regs
    let c0 := r.sel g r.l0
    let bad := r.active.filter (fun l => r.sel g l != c0)
    if !bad.isEmpty then s.trap 0x02 (maskOf bad) 0#64
    else if c0 then s.jump st t
    else s.finish st))

/-- CALL, 09:R235, 03:R75: slides every active lane's window, writes the return word, and goes to the target. -/
def execCall (st : BitVec 3) (o : BitVec 18) (s : State) : Outcome :=
  .next (s.target o (fun t =>
    -- the callee's w7 to w23 are written, and w26 where a frame is spilled (08:R215)
    let ps := s.regs.active.map (fun l => (s.regs.lane l).callSlide l)
    s.landed ((s.gang s.cur).entPending 23 17 ++ (if ps.any (fun p => !p.spills.isEmpty) then (s.gang s.cur).w26Pending else [])) (fun s =>
      let r := s.regs
      s.slideThen ps true (fun s =>
        (s.holdW 7 (r.active.map (fun l => (l, BitVec.ofNat 64 (r.pc + 1))))).finishAt st t))))

/-! ## LOOP (09:R251 to R254) -/

def Regs.level (r : Regs) (l : Nat) : LoopLevel := tget {} r.loops l

/-- LOOP, 09:R252, 20:R425: starts a level, or skips the body when the trip count is 0. -/
def execLoop (st : BitVec 3) (l : BitVec 2) (a : BitVec 5) (n : BitVec 14) (s : State) : Outcome :=
  let r := s.regs
  let lv := r.level l.toNat
  .next (
    if lv.active then s.trapAll 0x02
    else if !r.inBlock ((r.pc + n.toNat : Nat) : Int) then s.trapAll 0x02
    else
      let trip := wbits (r.gangOp a.toNat) 0 32
      if trip = 0 then
        s.retire st { r with loops := tput r.loops l.toNat { lv with i := 0#32 }, pc := r.pc + 1 + n.toNat }
      else
        let lv' : LoopLevel := { lv with active := true, first := r.pc + 1, last := r.pc + n.toNat, left := trip - 1
                                         i := 0#32, since := r.loopSeq, held := 0 }
        s.retire st { r with loops := tput r.loops l.toNat lv', loopSeq := r.loopSeq + 1, pc := r.pc + 1 })

/-- Changes the gang's registers in place and goes on. -/
def State.regOp (s : State) (st : BitVec 3) (f : Regs → Regs) : State :=
  (s.modGang s.cur (fun g => { g with r := f g.r })).finish st

/-- LSTEP, 09:R254: sets a level's step from a gang operand. -/
def execLstep (st : BitVec 3) (l : BitVec 2) (a : BitVec 5) (s : State) : Outcome :=
  .next (s.regOp st (fun r =>
    { r with loops := tput r.loops l.toNat { r.level l.toNat with step := (r.gangOp a.toNat).setWidth 32 } }))

/-- XBASE, 09:R254: every active lane sets the base of a descriptor register. -/
def execXbase (st : BitVec 3) (a : BitVec 5) (x : BitVec 3) (s : State) : Outcome :=
  .next (s.regOp st (fun r => r.active.foldl (fun q l =>
    q.modLane l (fun v => { v with xb := tput v.xb x.toNat (r.rdW l a.toNat) })) r))

/-- XCOEF, 09:R254: sets a coefficient of a descriptor register from a gang operand. -/
def execXcoef (st : BitVec 3) (j : BitVec 2) (a : BitVec 5) (x : BitVec 3) (s : State) : Outcome :=
  .next (s.regOp st (fun r =>
    { r with xc := tput r.xc (4 * x.toNat + j.toNat) ((r.gangOp a.toNat).setWidth 32) }))

/-- LBRK, 09:R253: ends a level and those started after it when its predicate holds in every active lane. -/
def execLbrk (st : BitVec 3) (l : BitVec 2) (n : BitVec 1) (p : BitVec 3) (s : State) : Outcome :=
  let r := s.regs
  let lv := r.level l.toNat
  let c (k : Nat) : Bool := r.rdP k p.toNat != (n == 1#1)
  let bad := r.active.filter (fun k => c k != c r.l0)
  .next (
    if !lv.active || lv.held != 0 then s.finish st
    else if !bad.isEmpty then s.trap 0x02 (maskOf bad) 0#64
    else if c r.l0 then
      s.retire st { r with pc := lv.last + 1
                           loops := r.loops.map (fun e =>
                             if e.2.active && e.2.held == 0 && decide (lv.since ≤ e.2.since) then
                               (e.1, { e.2 with active := false })
                             else e) }
    else s.finish st)

/-- LIND, 09:R254: every active lane takes the induction variable. -/
def execLind (st : BitVec 3) (l : BitVec 2) (d : BitVec 5) (s : State) : Outcome :=
  .next (s.put st 1 d.toNat (s.regs.active.map (fun k => (k, (s.regs.level l.toNat).i.signExtend 64))))

/-! ## REPF (09:R255, R256) -/

/-- REPF, 09:R256: replays the next words; the frame advances as they issue. -/
def execRepf (st : BitVec 3) (l : BitVec 4) (c : BitVec 6) (d a b : BitVec 3) (s : State) : Outcome :=
  let r := s.regs
  .next (
    if !r.inBlock ((r.pc + l.toNat + 1 : Nat) : Int) then s.trapAll 0x02
    else s.retire st { r with
      pc := r.pc + 1
      rep := some { start := r.pc, len := l.toNat + 1, count := c.toNat + 1, ds := d.toNat, as := a.toNat, bs := b.toNat
                    pass := 0, word := 0 } })

end Sys2Proof.Machine
end

