-- ==== Sys2Proof/Machine/Head.lean ====
section
/-!
DEFINITION. Handles and replica sets (02:R29, R48 to R51) and the one reading of a launch descriptor and its placement map
when its record becomes head (07:R182, R183, 18:R396, R397).
-/

namespace Sys2Proof.Machine

/-! ## Handles (02:R49 to R51) -/

/-- What a valid handle names: slot, entry index, object and entry record. -/
structure Target where
  slot : Nat
  entry : Nat
  obj : Obj
  rec_ : EntryRec

/-- The target of a handle in a context, none when it is invalid (02:R51). -/
def State.resolve (s : State) (cx : Nat) (h : Word) : Option Target :=
  let x := tget {} (s.ctx cx).objs (wbits h 0 12)
  if wbits h 48 16 ≠ 0 ∨ wbits h 28 20 ≠ x.gen ∨ x.dying then none
  else
    match x.obj with
    | none => none
    | some o =>
      match o.entries[wbits h 12 16]? with
      | none => none
      | some e => some { slot := wbits h 0 12, entry := wbits h 12 16, obj := o, rec_ := e }

/-- The handle of an entry of a slot (02:R49). -/
def State.handleOf (s : State) (cx slot entry : Nat) : Word :=
  BitVec.ofNat 64 ((tget {} (s.ctx cx).objs slot).gen * 2 ^ 28 + entry * 2 ^ 12 + slot)

/-- The replica set of a block, ascending: the initial set with the quads hardware has added (02:R28, R29). -/
def Obj.replicas (o : Obj) (blk : Nat) : List Nat :=
  sortBy id (addSet (o.reps.getD blk []) (o.hots.getD blk []))

/-- The set that a launch uses for a block, without hot replicas when `hot` is false: the placement map's list for blocks of
the object it applies to, otherwise the replica set (02:R48). -/
def Desc.setFor (d : Desc) (slot : Nat) (o : Obj) (blk : Nat) (hot : Bool) : List Nat :=
  if d.pmap ≠ 0 ∧ d.mapObj = slot then d.maps.getD blk []
  else if hot then o.replicas blk
  else o.reps.getD blk []

/-! ## Reading the context's memory for the launch arbiter -/

/-- What a reading gives: bytes; a failed check; or a stage-2 fault that holds it. -/
inductive ArbRead where
  | ok (bs : List Byte)
  | bad
  | held (va ipa : Nat) (table perm : Bool)
  deriving DecidableEq, Repr

/-- 64 aligned bytes of one of some address ranges, read as trap level 0 (18:R396): a descriptor lies in global memory, a placement map there
or in shared SRAM (07:R182, 02:R48). -/
def State.arbPiece (s : State) (sl : Nat) (ranges : List Nat) (a : Nat) : ArbRead :=
  if ranges.contains (rangeOf a) = false then .bad
  else
    match s.check (ckOf sl 0) a 8 false .plain 0 with
    | .ok p => .ok (s.rdBytes (s.keyNo (s.runCx sl)) p.loc 64)
    | .bad _ _ => .bad
    | .stage2 ipa t p => .held a ipa t p

/-- Some aligned pieces in order; the first that fails decides. -/
def State.arbPieces (s : State) (sl : Nat) (ranges : List Nat) (a : Nat) : Nat → ArbRead
  | 0 => .ok []
  | n + 1 =>
    match s.arbPiece sl ranges a with
    | .ok bs =>
      (match s.arbPieces sl ranges (a + 64) n with
       | .ok t => .ok (bs ++ t)
       | x => x)
    | x => x

/-- n bytes at an address. -/
def State.arbRead (s : State) (sl : Nat) (ranges : List Nat) (a n : Nat) : ArbRead :=
  if n = 0 then .ok []
  else
    match s.arbPieces sl ranges (a / 64 * 64) ((a + n - 1) / 64 + 1 - a / 64) with
    | .ok bs => .ok ((bs.drop (a % 64)).take n)
    | x => x

/-- The little-endian number of n bytes at an offset of a byte string. -/
def bytesAt (bs : List Byte) (o n : Nat) : Nat := leNat ((bs.drop o).take n)

/-! ## Placement maps (02:R48) -/

/-- Where a placement map may lie: the parts of the context's memory that are not a core's or a cluster's own. -/
def mapRanges : List Nat := [3, 4]

/-- What the reading of a map gives: the quad lists; a map that breaks its rules; one that fails a check of 10:R262; or a held reading. -/
inductive MapRead where
  | ok (ls : List (List Nat))
  | bad
  | unread
  | held (va ipa : Nat) (table perm : Bool)
  deriving DecidableEq, Repr

/-- A list rises strictly. -/
def rising : List Nat → Bool
  | a :: b :: t => decide (a < b) && rising (b :: t)
  | _ => true

/-- Reads the quad lists of the blocks from block i on. -/
def State.mapLists (s : State) (sl base slot : Nat) (bs : List Byte) (i : Nat) : Nat → MapRead
  | 0 => .ok []
  | n + 1 =>
    let cnt := bytesAt bs (8 * i) 2
    let off := bytesAt bs (8 * i + 4) 4
    if bytesAt bs (8 * i + 2) 2 ≠ 0 ∨ cnt = 0 ∨ 1152 < cnt ∨ off % 2 ≠ 0 then .bad
    else
      match s.arbRead sl mapRanges (base + off) (2 * cnt) with
      | .bad => .unread
      | .held a b c d => .held a b c d
      | .ok qs =>
        let l := (List.range cnt).map (fun k => bytesAt qs (2 * k) 2)
        if !rising l then .bad
        else if l.any (fun q => (s.slice sl).nquads ≤ q || ((s.quad (qkOf sl q)).findBlk slot i).isNone) then .bad
        else
          match s.mapLists sl base slot bs (i + 1) n with
          | .ok ls => .ok (l :: ls)
          | x => x

/-- Reads a placement map: its object slot and lists. -/
def State.readMap (s : State) (sl a : Nat) : Nat × MapRead :=
  if a % 64 ≠ 0 then (0, .bad)
  else
    match s.arbRead sl mapRanges a 16 with
    | .bad => (0, .unread)
    | .held x ipa t p => (0, .held x ipa t p)
    | .ok h =>
      let slot := bytesAt h 4 2
      let n := bytesAt h 6 2
      match s.obj (s.runCx sl) slot with
      | none => (slot, .bad)
      | some o =>
        if bytesAt h 0 4 ≠ 0x5041_4d50 ∨ bytesAt h 8 8 ≠ 0 ∨ n ≠ o.blocks.length then (slot, .bad)
        else
          match s.arbRead sl mapRanges (a + 16) (8 * n) with
          | .bad => (slot, .unread)
          | .held x ipa t p => (slot, .held x ipa t p)
          | .ok bs => (slot, s.mapLists sl a slot bs 0 n)

/-! ## Descriptors (07:R182, R183) -/

/-- The fields of a descriptor. -/
def parseDesc (bs : List Byte) : Desc :=
  let nin := bytesAt bs 25 1
  let nout := bytesAt bs 26 1
  { entry := BitVec.ofNat 64 (bytesAt bs 0 8), count := bytesAt bs 8 4, crewsz := bytesAt bs 12 2
    nquad := bytesAt bs 14 2, pmap := bytesAt bs 16 8, prio := bytesAt bs 24 1 % 8
    tin := (List.range (min nin 8)).map (fun i => bytesAt bs (32 + 2 * i) 2)
    tout := (List.range (min nout 8)).map (fun i => bytesAt bs (48 + 2 * i) 2)
    consume := bytesAt bs 27 1, done := bytesAt bs 64 8
    args := (List.range 7).map (fun i => BitVec.ofNat 64 (bytesAt bs (72 + 8 * i) 8)) }

/-- No number stands twice in a list. -/
def distinct : List Nat → Bool
  | [] => true
  | x :: t => !t.contains x && distinct t

/-- What in a descriptor's own bytes breaks 07:R183. -/
def descBad (bs : List Byte) (d : Desc) (ntiles : Nat) : Bool :=
  let nin := bytesAt bs 25 1
  let nout := bytesAt bs 26 1
  8 ≤ bytesAt bs 24 1 || 8 < nin || 8 < nout || 2 ^ nin ≤ d.consume || bytesAt bs 28 4 != 0
    || (List.range 8).any (fun i => (nin ≤ i && bytesAt bs (32 + 2 * i) 2 != 0) ||
      (nout ≤ i && bytesAt bs (48 + 2 * i) 2 != 0))
    || (d.crewsz != 0 && d.nquad != 0) || 1024 < d.crewsz || (d.crewsz != 0 && d.count == 0)
    || !distinct (d.tin ++ d.tout) || (d.tin ++ d.tout).any (fun i => ntiles ≤ i)

/-- The clusters of a slice that hold a member of the set a launch uses for every block of an object (18:R397). -/
def State.crewClusters (s : State) (sl : Nat) (d : Desc) (slot : Nat) (o : Obj) : List Nat :=
  (List.range (s.slice sl).nclus).filter (fun c =>
    (List.range o.blocks.length).all (fun b => (d.setFor slot o b false).any (fun q => q / 2 == c)))

/-- The reading of a record when it becomes head: its descriptor with `broken` as in `HeadRec`, or none while a stage-2
fault holds it, with that fault. -/
inductive HeadRead where
  | ok (d : Desc) (broken : Nat) (unread : Bool)
  | held (va ipa : Nat) (table perm : Bool)
  deriving DecidableEq, Repr

/-- Reads and checks a descriptor (07:R183, 18:R396, R397). -/
def State.readDesc (s : State) (sl va : Nat) (recArgs : List Word) (flagsBad : Bool) : HeadRead :=
  if va % 64 ≠ 0 then .ok {} 2 true
  else
    match s.arbRead sl [4] va 128 with
    | .bad => .ok {} 2 true
    | .held a ipa t p => .held a ipa t p
    | .ok bs =>
      let cx := s.runCx sl
      let d := parseDesc bs
      let d := { d with args := recArgs ++ d.args.drop recArgs.length }
      let own := flagsBad || descBad bs d (s.ctx cx).ntiles
      match (if d.pmap = 0 then (0, MapRead.ok []) else s.readMap sl d.pmap) with
      | (_, .held a ipa t p) => .held a ipa t p
      | (_, .bad) => .ok d 2 false
      | (_, .unread) => .ok d 2 true
      | (slot, .ok ls) =>
        let d := { d with maps := ls, mapObj := slot }
        match s.resolve cx d.entry with
        | none => .ok d 2 false
        | some t =>
          if own || (d.setFor t.slot t.obj t.rec_.block true).length < d.nquad then .ok d 2 false
          else if d.crewsz ≠ 0 ∧ (s.crewClusters sl d t.slot t.obj).isEmpty then .ok d 3 false
          else .ok d 0 false

/-! ## Heads of a slice -/

/-- Number of the device queue among the sources of 07:R196; the submission of table entry e is source 65,537 + e. -/
def devSrc : Nat := 65536

/-- A stage-2 fault of the selector, which stands as an engine of logical core 0 in its record (19:R406; log 16). -/
def State.selFault (s : State) (u : S2User) (sl va ipa : Nat) (wr table perm : Bool) : State :=
  s.stage2Record u (gkOf (ckOf sl 0) 0) va ipa wr table perm true

/-- The slice as the selector sees it for a context that does not run: its memory, and the code stores of its image. -/
def State.viewOf (s : State) (sl c : Nat) : State :=
  if (s.slice sl).running = some c then s
  else
    let t := s.modSlice sl (fun x => { x with running := some c })
    match (s.ctx (cxOf sl c)).image with
    | some im => { t with quads := im.quads ++ t.quads }
    | none => t

/-- The heads of a context that have been read: those of its slice when it runs, else those kept with it and those of its image. -/
def State.headsOf (s : State) (sl c : Nat) : List HeadRec :=
  if (s.slice sl).running = some c then (s.slice sl).heads
  else
    let x := s.ctx (cxOf sl c)
    x.heads ++ (x.image.map (fun im => im.slice.heads)).getD []

/-- Keeps a head that has been read. -/
def State.addHead (s : State) (sl c : Nat) (h : HeadRec) : State :=
  if (s.slice sl).running = some c then (s.modSlice sl (fun x => { x with heads := x.heads ++ [h] })).refreshHeads sl
  else s.modCtx (cxOf sl c) (fun x => { x with heads := x.heads ++ [h] })

/-- Reads a record of a context that has become head, in that cycle, whether the context runs or not (07:R183). A stage-2 fault holds the
head until the retry command (18:R396, 19:R406). -/
def State.readHead (s : State) (sl c src desc : Nat) (tag : Word) (args : List Word) (flagsBad : Bool)
    (tabEnt : Option Nat) : State :=
  let v := s.viewOf sl c
  let me : S2User := .head (cxOf sl c) src
  if (s.vf (s.ctx (cxOf sl c)).vf).holds me then s
  else
  match v.readDesc sl desc args flagsBad with
  | .held va ipa t p =>
    let u := v.selFault me sl va ipa false t p
    ({ s with vfs := u.vfs }).modSlice sl (fun x => { x with ctrs := (u.slice sl).ctrs })
  | .ok d b u =>
    s.addHead sl c { src := src, desc := d, tag := tag, tabEnt := tabEnt, broken := b, unread := u, since := none }

/-- The 64 bytes of a record of a work queue (07:R188). -/
def State.ringRec (s : State) (q : WorkQueue) : List Byte := s.rdBytes s.ochre.devKey (q.ring + 64 * q.head) 64

/-- Reads the head of a work queue of a context when it has a record and no reading yet. -/
def State.queueHead (s : State) (sl c n : Nat) (q : WorkQueue) : State :=
  if q.head = q.tail ∨ (s.headsOf sl c).any (fun h => h.src == n) then s
  else
    let b := s.ringRec q
    let fl := bytesAt b 56 8
    let args := if fl % 2 = 1 then (List.range 5).map (fun i => BitVec.ofNat 64 (bytesAt b (16 + 8 * i) 8)) else []
    s.readHead sl c n (bytesAt b 0 8) (BitVec.ofNat 64 (bytesAt b 8 8)) args (2 ≤ fl) none

/-- Reads the head of the device queue when it has a record and no reading yet (07:R189). -/
def State.devHead (s : State) (sl : Nat) : State :=
  match (s.slice sl).devq with
  | [] => s
  | d :: _ =>
    if (s.slice sl).heads.any (fun h => h.src == devSrc) then s
    else s.readHead sl ((s.slice sl).running.getD 0) devSrc d.toNat 0#64 [] false none

/-- The context that a table entry's submissions belong to: of the live ones of its function on its slice the one that runs, else the
lowest (log 28). -/
def State.tabCtx (s : State) (t : TabEntry) : Option Nat :=
  let mine (c : Nat) : Bool := let x := s.ctx (cxOf t.slice c); x.live && x.vf == t.vf
  match (s.slice t.slice).running with
  | some c => if mine c then some c else (List.range 8).find? mine
  | none => (List.range 8).find? mine

/-- Reads submissions of a table entry that have not been read, in the cycle of submission unless a fault holds the reading (07:R183,
R193). -/
def State.tabHead (s : State) (sl e : Nat) : State :=
  let t := tget {} s.mgmt.table e
  match s.tabCtx t with
  | none => s
  | some c =>
  if t.unread = 0 ∨ t.slice ≠ sl then s
  else
    let n := (s.headsOf sl c).length
    let s' := s.readHead sl c (devSrc + 1 + e) t.target 0#64 [] false (some e)
    let k := (s'.headsOf sl c).length - n
    { s' with mgmt := { s'.mgmt with table := tput s'.mgmt.table e { t with unread := t.unread - k } } }

/-- Every queue bound to the running context of a slice, the device queue, and the table's submissions. -/
def State.allHeads (s : State) (sl : Nat) : State :=
  match (s.slice sl).running with
  | none => s
  | some c =>
    let vf := (s.ctx (cxOf sl c)).vf
    let s := s.mgmt.queues.foldl (fun t e =>
      if e.2.vf == vf && e.2.ctx == c then t.queueHead sl c e.1 e.2 else t) s
    let s := s.devHead sl
    s.mgmt.table.foldl (fun t e => (List.range e.2.unread).foldl (fun t _ => t.tabHead sl e.1) t) s

end Sys2Proof.Machine
end

