-- ==== Sys2Proof/Machine/Xfer.lean ====
section
/-!
DEFINITION. XFER: transfers to entries, task records and `launch` (09:R245 to R250, 18:R392, 02:R29 to R34, 03:R76 to R78,
R84, R85).
-/

namespace Sys2Proof.Machine

/-! ## Handles and checks -/

/-- The eight bytes of a link slot of the issuing object, read once at issue; a slot beyond the table holds no handle
(02:R44, R54; log 17). -/
def State.linkSlot (s : State) (n : Nat) : Word :=
  let cx := s.gangCx s.cur
  match s.obj cx s.regs.blk.obj with
  | none => 0#64
  | some o => if n < o.slots.length then BitVec.ofNat 64 (s.rdNat (s.keyNo cx) (o.lnkPa + 8 * n) 8) else 0#64

/-- Index of the return entry that `calle` and `calli` need at the next word of the issuing block (09:R248). -/
def State.returnEntry (s : State) : Option Nat :=
  let r := s.regs
  match s.obj (s.gangCx s.cur) r.blk.obj with
  | none => none
  | some o => o.entries.findIdx? (fun e => e.block == r.blk.idx && r.blk.start + e.word == r.pc + 1)

/-- The six kinds of packet-sending member (09:R246). -/
inductive XKind where
  | jmp
  | call
  | ret
  | copy
  | spawn
  | tspawn
  deriving DecidableEq, Repr

/-- The lane leaves after the transfer. -/
def XKind.leaves : XKind → Bool
  | .jmp | .call | .ret => true
  | _ => false

/-- A lane's failed check: row of 18:R392, cause, handle. -/
structure XferBad where
  lane : Nat
  row : Nat
  cause : Nat
  h : Word
  deriving DecidableEq, Repr

/-- The descriptor of an unfinished launch of a slice. -/
def State.launchDesc (s : State) (sl n : Nat) : Option Desc :=
  ((s.slice sl).launches.find? (fun l => l.num == n)).map (fun l => l.desc)

/-- The quads among which a packet of the current gang may choose: the launch's placement map, otherwise what the route
cache holds; a crew thread keeps to its cluster (02:R32, R33, R48). -/
def State.choices (s : State) (kind : XKind) (t : Target) (cached : List Nat) : List Nat :=
  let g := s.gang s.cur
  let set := match s.launchDesc (slOfGk s.cur) g.launch with
    | some d => if d.pmap ≠ 0 ∧ d.mapObj = t.slot then d.maps.getD t.rec_.block [] else cached
    | none => cached
  if g.crew.isSome && kind.leaves then set.filter (fun q => q / 2 == clusOfClk (clkOfGk s.cur)) else set

/-- The quads that the route cache of a quad gives for an entry, or would be filled with (02:R29, R30). -/
def Quad.routeQuads (q : Quad) (t : Target) : List Nat :=
  match q.routes.find? (fun x => x.obj == t.slot && x.entry == t.entry) with
  | some x => x.quads
  | none => t.obj.replicas t.rec_.block

/-- The choice of 02:R32 among the members of a set by the sender's knowledge of marks. -/
def pickQuad (above set : List Nat) (tidx : Nat) : Nat :=
  let n := set.length
  let k0 := tidx % n
  let at_ (j : Nat) : Nat := set.getD ((k0 + j) % n) 0
  match (List.range (min n 4)).find? (fun j => !above.contains (at_ j)) with
  | some j => at_ j
  | none => set.getD k0 0

/-- Where a lane's packet goes: none for the issuing core's deque (03:R77), else the chosen quad. -/
def State.destOf (s : State) (kind : XKind) (t : Target) (tidx : Nat) : Option Nat :=
  let qk := qkOfGk s.cur
  let q := s.quad qk
  if (kind = .spawn ∨ kind = .tspawn) ∧ (q.findBlk t.slot t.rec_.block).isSome then none
  else
    let set := s.choices kind t (q.routeQuads t)
    some (pickQuad (set.filter (fun x => (s.quad (qkOf (slOfGk s.cur) x)).annAbove)) set tidx)

/-- The checks of 18:R388 and R392 for one lane: the first row it fails. A quad at or above the slice's count comes first (20:R419). -/
def State.xferBad (s : State) (kind : XKind) (l : Nat) (h : Word) : Option XferBad :=
  match s.resolve (s.gangCx s.cur) h with
  | none => some { lane := l, row := if kind = .ret then 2 else 1, cause := 0x0a, h := h }
  | some t =>
    let q := (s.destOf kind t (s.regs.lane l).tidx.toNat).getD 0
    if (s.slice (slOfGk s.cur)).nquads ≤ q then some { lane := l, row := 0, cause := 0x09, h := BitVec.ofNat 64 q }
    else if t.rec_.flags % 2 = 1 then some { lane := l, row := 3, cause := 0x0b, h := h }
    else if kind = .call ∧ s.returnEntry = none then some { lane := l, row := 4, cause := 0x0b, h := h }
    else if kind.leaves && (s.gang s.cur).crew.isSome &&
        (s.choices kind t ((s.quad (qkOfGk s.cur)).routeQuads t)).isEmpty then
      some { lane := l, row := 5, cause := 0x02, h := h }
    else none

/-! ## Packets (03:R60 to R63, 09:R247) -/

/-- The registers of a live mask, ascending (03:R62). -/
def liveRegs (m : W32) : List Nat := (List.range 24 ++ [28, 29, 30]).filter (fun i => m.getLsbD i)

/-- The fields a lane gives its packet. -/
def State.packetOf (s : State) (l : Nat) (h : Word) (live : W32) (link : Word) : Packet :=
  let g := s.gang s.cur
  let r := g.r
  { entry := h, tidx := (r.lane l).tidx.setWidth 32, launch := g.launch, pred := (r.lane l).p ||| 1#8
    bsp := r.rdW l 26, link := link, live := (liveRegs live).map (fun n => r.rdW l n) }

/-- Replaces the carried `w28` of a packet (03:R84). -/
def stampLive (live : W32) (ws : List Word) (stamp : Word) : List Word :=
  ((liveRegs live).zip ws).map (fun e => if e.1 = 28 then stamp else e.2)

/-- The timestamp of a record of `tspawn`: the lane's `w28`, or the sender's own when that is above it (03:R84). -/
def State.stampOf (s : State) (l : Nat) : Word :=
  let w := s.regs.rdW l 28
  match (s.gang s.cur).task with
  | some t => if w.toNat < t.stamp.toNat then t.stamp else w
  | none => w

/-- The packet or record of one lane (09:R246). -/
def State.makePacket (s : State) (kind : XKind) (l : Nat) (h : Word) (live : W32) (link : Word) : Packet :=
  let g := s.gang s.cur
  let p := s.packetOf l h live link
  match kind with
  | .spawn => { p with task := true }
  | .tspawn =>
    let w := s.stampOf l
    { p with task := true, ts := true, stamp := w, live := stampLive live p.live w }
  | .copy => p
  | _ => { p with crew := g.crew.isSome, crewNo := g.crew.getD 0 }

/-- Looks an entry up in a quad's route cache of 256, filling it on a miss (02:R30, log 11). -/
def State.routeFill (s : State) (qk : Nat) (t : Target) : State :=
  let q := s.quad qk
  if q.routes.any (fun x => x.obj == t.slot && x.entry == t.entry) then s
  else s.setQuad qk { q with routes :=
    ({ obj := t.slot, entry := t.entry, live := t.rec_.live, quads := t.obj.replicas t.rec_.block } :: q.routes).take 256 }

/-- Groups packets by their target quad, the targets in the order they first appear (15:R376). -/
def groupDest : List (Nat × Packet) → List (Nat × List Packet)
  | [] => []
  | (q, p) :: t =>
    let r := groupDest t
    (q, p :: ((r.find? (fun e => e.1 == q)).map (fun e => e.2)).getD []) :: r.filter (fun e => e.1 != q)

/-- The packets of one instruction wait to leave, as one train for each quad (09:R249, 15:R376). -/
def State.depart (s : State) (ps : List (Nat × Packet)) : State :=
  let gk := s.cur
  let qk := qkOfGk gk
  let launch := (s.gang gk).launch
  s.modQuad qk (fun q => { q with outs := q.outs ++ (groupDest ps).map (fun e =>
    (gk, qkOf (slOfGk gk) e.1, { injected := false, src := quadOfQk qk, launch := launch, packets := e.2 })) })

/-- The 128 bytes of a packet or record as memory holds it (03:R60, R61). -/
def Packet.bytes (p : Packet) : List Byte :=
  let b (x : Bool) (n : Nat) : Nat := if x then 2 ^ n else 0
  let flags := p.live.length % 16 * 2 ^ 12 + b p.task 11 + b p.ts 10 + b p.crew 9 + (p.pred ||| 1#8).toNat
  let body := leBytes 8 p.entry.toNat ++ leBytes 4 p.tidx.toNat ++ leBytes 2 p.launch ++ leBytes 2 flags ++ leBytes 8 p.bsp.toNat
    ++ leBytes 8 p.link.toNat ++ p.live.flatMap (fun v => leBytes 8 v.toNat)
  body.take 128 ++ List.replicate (128 - body.length) 0#8

/-- The records of a deque beyond its newest 64 lie in the TCM system area, the oldest first (03:R73, R78; log 42). -/
def State.spillDeque (s : State) (ck : Nat) : State :=
  let d := (s.core ck).deque
  ((d.drop 64).reverse.zipIdx).foldl (fun t e => t.wrBytes 0 (tcmLoc ck (0x7400 + 128 * e.2)) e.1.bytes) s

/-- Pushes records on a core's deque of 88, the newest first; answers those that found it full (03:R78). -/
def State.pushDeque (s : State) (ck : Nat) : List Packet → List Packet × State
  | [] => ([], s)
  | p :: t =>
    let c := s.core ck
    if 88 ≤ c.deque.length then
      let (o, s) := s.pushDeque ck t
      (p :: o, s)
    else State.pushDeque ((s.setCore ck { c with deque := p :: c.deque, annEmpty := false }).spillDeque ck) ck t

/-- A record that runs as a free thread when it meets an arrival queue, unless it is timestamped (03:R77, R78). -/
def Packet.freed (p : Packet) : Packet := if p.ts then p else { p with task := false }

/-- Sends packets made by the current gang: those for its own deque, which serves them as its one operation of the cycle (03:R81), and
those for quads, in lane order. -/
def State.release (s : State) (qk ck : Nat) (dq : List Packet) (far : List (Nat × Packet)) : State :=
  let (rest, s) := s.pushDeque ck dq
  let s := if dq.isEmpty then s else s.modCore ck (fun c => { c with dqBy := s.now + 1 })
  s.depart (rest.map (fun p => (quadOfQk qk, p.freed)) ++ far)

/-- Builds the packets of the selected lanes: lane, target on the way, packet. -/
def State.buildAll (s : State) (kind : XKind) (lanes : List Nat) (h link : Nat → Word) : List (Option Nat × Packet) :=
  lanes.filterMap (fun l =>
    (s.resolve (s.gangCx s.cur) (h l)).map (fun t =>
      (s.destOf kind t (s.regs.lane l).tidx.toNat, s.makePacket kind l (h l) t.rec_.live (link l))))

/-- Fills the route cache for every lane's entry. -/
def State.fillAll (s : State) (lanes : List Nat) (h : Nat → Word) : State :=
  lanes.foldl (fun t l =>
    match t.resolve (t.gangCx t.cur) (h l) with
    | some x => t.routeFill (qkOfGk t.cur) x
    | none => t) s

/-- Sends the packets, or holds them back in a speculative task (03:R85). -/
def State.sendAll (s : State) (kind : XKind) (lanes : List Nat) (h link : Nat → Word) : State :=
  let s := s.fillAll lanes h
  let ps := s.buildAll kind lanes h link
  let ck := ckOfGk s.cur
  let qk := qkOfGk s.cur
  if (s.gang s.cur).spec then
    s.modGang s.cur (fun g => { g with task := g.task.map (fun t => { t with held := t.held ++ [ps.map (fun e =>
      match e.1 with
      | none => (true, ck, e.2)
      | some q => (false, q, e.2.freed))] }) })
  else
    s.release qk ck (ps.filterMap (fun e => if e.1.isNone then some e.2 else none))
      (ps.filterMap (fun e => e.1.map (fun q => (q, e.2.freed))))

/-! ## The backing store of `calle`, `calli` and `rete` (09:R248, 03:R76, 19:R407) -/

/-- Address of the link that a lane saves after its spills, or restores. -/
def State.linkAddr (s : State) (kind : XKind) (l : Nat) : Nat :=
  if kind = .call then ((s.regs.lane l).belowSlide l).w26.toNat else (s.regs.rdW l 26 - 8#64).toNat

/-- Every access of the lanes, lane by lane. -/
def State.backChecks (s : State) (kind : XKind) (lanes : List Nat) : List LaneChk :=
  let tl := s.regs.tr.tlvl
  lanes.flatMap (fun l =>
    (if kind = .call then s.slideChecks tl [(s.regs.lane l).belowSlide l] else []) ++
    [{ lane := l, va := s.linkAddr kind l
       chk := s.check (ckOfGk s.cur) (s.linkAddr kind l) 8 (kind = .call) .plain tl }])

/-- The accesses of some lanes, lane by lane: the frames, then the link. -/
def State.backAccs (s : State) (kind : XKind) (lanes : List Nat) : List SlideAcc :=
  lanes.flatMap (fun l =>
    (if kind = .call then s.regs.slideAccs [(s.regs.lane l).belowSlide l] else []) ++
    [{ lane := l, va := s.linkAddr kind l, wr := kind = .call, v := (s.regs.rdW l 27).toNat }])

/-- Performs the accesses of one lane and moves its `w26`; for `rete` it answers the link. `res` holds what far accesses have read. -/
def State.backLane (s : State) (kind : XKind) (res : Tab Nat) (l : Nat) : Word × State :=
  let tl := s.regs.tr.tlvl
  if kind = .call then
    let s := s.doSlide tl false res ((s.regs.lane l).belowSlide l)
    let a := s.regs.rdW l 26
    let s := s.spillOne tl l a.toNat (s.regs.rdW l 27)
    (0#64, s.modGang s.cur (fun g => { g with r := g.r.wrW l 26 (a + 8#64) }))
  else
    let a := s.regs.rdW l 26 - 8#64
    let (v, s) := s.fillOne tl a.toNat res
    (v, s.modGang s.cur (fun g => { g with r := g.r.wrW l 26 a }))

/-- The links that the lanes' packets carry, after a chunk of its own has made the accesses and committed. -/
def State.backing (s : State) (kind : XKind) (lanes : List Nat) (k : (Nat → Word) → State → State) : State :=
  match kind with
  | .call | .ret =>
    (match slideVerdict (s.backChecks kind lanes) with
     | .trap c m va => s.trap c m (BitVec.ofNat 64 va)
     | .stage2 va ipa t p => s.stage2Wait va ipa (kind = .call) t p
     | .pass =>
       let as := s.backAccs kind lanes
       let fs := s.farAccs s.regs.tr.tlvl as
       if s.fillsKept s.regs.tr.tlvl as || !fs.isEmpty && s.farBusy fs then s.waitFor .farDrain
       else
       let (res, s1) := s.slideFar s.regs.tr.tlvl as
       let (links, s2) := lanes.foldl (fun (acc : Tab Word × State) l =>
         let (v, t) := acc.2.backLane kind res l
         (acc.1 ++ [(l, v)], t)) ([], s1)
       if s2.commitBlocked s2.cur then s.waitFor .grant
       else
         let s3 := (s2.commitNow s2.cur).modGang s.cur (fun g => g.openChunk s2.fresh)
         let back := s3.handleOf (s3.gangCx s3.cur) s3.regs.blk.obj (s3.returnEntry.getD 0)
         k (fun l => if kind = .call then back else tget 0#64 links l) s3)
  | _ => k (fun l => s.regs.rdW l 27) s

/-! ## The members -/

/-- The records go to the core's deque now, and it has served its operation of this cycle (03:R81). -/
def State.dequeLate (s : State) (kind : XKind) (lanes : List Nat) (h : Nat → Word) : Bool :=
  !(s.gang s.cur).spec && decide (s.now < (s.core (ckOfGk s.cur)).dqBy) && lanes.any (fun l =>
    (s.resolve (s.gangCx s.cur) (h l)).any (fun t => (s.destOf kind t (s.regs.lane l).tidx.toNat).isNone))

/-- A packet-sending member: the checks before any packet leaves, the accesses, the packets, and the lanes that leave
(09:R246, R247, 18:R392). -/
def State.transfer (s : State) (st : BitVec 3) (g : BitVec 4) (kind : XKind) (h : Nat → Word) : State :=
  let lanes := s.regs.selected g
  let bad := lanes.filterMap (fun l => s.xferBad kind l (h l))
  match minBy (fun b : XferBad => b.row) bad with
  | some b => s.trap b.cause (maskOf (bad.map (fun x => x.lane))) b.h
  | none =>
    if 32 ≤ (s.quad (qkOfGk s.cur)).resend.length then s.waitFor .resend
    else if s.dequeLate kind lanes h then s.holdTill (s.core (ckOfGk s.cur)).dqBy
    else
      s.backing kind lanes (fun link s =>
        let s := s.sendAll kind lanes h link
        if kind.leaves then
          let r := s.regs.leave (maskOf lanes)
          let s := s.spillDiv s.cur r.div
          if r.act = 0#32 then s.settle st r else s.retire st r.next
        else s.finish st)

/-- At a trap level every member faults; otherwise the chunk ends before it, but for the members that a speculative task
holds back (20:R419, 06:R148, 03:R85). -/
def State.xfer (s : State) (st : BitVec 3) (g : BitVec 4) (kind : XKind) (h : State → Nat → Word) : State :=
  if 1 ≤ s.regs.tr.tlvl then s.trapAll 0x02
  else if (s.gang s.cur).spec && !kind.leaves then s.transfer st g kind (h s)
  else s.before (fun s => s.transfer st g kind (h s))

/-- The handle is that of a link slot, for every lane. -/
def slotHandle (e : BitVec 16) (s : State) : Nat → Word :=
  let h := s.linkSlot e.toNat
  fun _ => h

/-- The handle is each lane's register, as it stood before the writes of this cycle (08:R219). -/
def regHandle (n : Nat) (s : State) (l : Nat) : Word := (s.gang s.cur).early s.now l n

/-- JMPE, 09:R246: the selected lanes go on at the entry of a link slot. -/
def execJmpe (st : BitVec 3) (e : BitVec 16) (g : BitVec 4) (s : State) : Outcome :=
  .next (s.xfer st g .jmp (slotHandle e))

/-- CALLE, 09:R246, R248: saves the frames and the link, and calls the entry of a link slot. -/
def execCalle (st : BitVec 3) (e : BitVec 16) (g : BitVec 4) (s : State) : Outcome :=
  .next (s.xfer st g .call (slotHandle e))

/-- SPAWN, 09:R246, 03:R77: a task record for each selected lane. -/
def execSpawn (st : BitVec 3) (e : BitVec 16) (g : BitVec 4) (s : State) : Outcome :=
  .next (s.xfer st g .spawn (slotHandle e))

/-- TSPAWN, 09:R246, 03:R84: a timestamped record for each selected lane. -/
def execTspawn (st : BitVec 3) (e : BitVec 16) (g : BitVec 4) (s : State) : Outcome :=
  .next (s.xfer st g .tspawn (slotHandle e))

/-- SENDE, 09:R246: a free-thread copy of each selected lane goes to the entry; the lane continues. -/
def execSende (st : BitVec 3) (e : BitVec 16) (g : BitVec 4) (s : State) : Outcome :=
  .next (s.xfer st g .copy (slotHandle e))

/-- JMPI, 09:R246: the selected lanes go on at the entries of their handles. -/
def execJmpi (st : BitVec 3) (n : BitVec 5) (g : BitVec 4) (s : State) : Outcome :=
  .next (s.xfer st g .jmp (regHandle n.toNat))

/-- CALLI, 09:R246, R248: calls the entries of the lanes' handles. -/
def execCalli (st : BitVec 3) (n : BitVec 5) (g : BitVec 4) (s : State) : Outcome :=
  .next (s.xfer st g .call (regHandle n.toNat))

/-- RETE, 09:R246, R248: the selected lanes return to the entry of their link, with the link below it restored. -/
def execRete (st : BitVec 3) (g : BitVec 4) (s : State) : Outcome :=
  .next (s.xfer st g .ret (fun s l => s.regs.rdW l 27))

/-- Appends launch records while the device queue of 256 has room, each an event of the launch arbiter; answers how many went (07:R189,
R195). -/
def State.devAppend (s : State) (sl : Nat) : List Word → Nat → Nat × State
  | [], n => (n, s)
  | d :: t, n =>
    if 256 ≤ (s.slice sl).devq.length ∨ s.arbFree = false then (n, s)
    else State.devAppend ((s.arbTake.modSlice sl (fun x => { x with devq := x.devq ++ [d] })).devHead sl) sl t (n + 1)

/-- LAUNCH, 09:R250, 07:R189, R195: appends a record for each selected lane, each an event of the arbiter; a full device queue, or an arbiter
that has handled its events of the cycle, holds the gang. -/
def execLaunch (st : BitVec 3) (n : BitVec 5) (g : BitVec 4) (s : State) : Outcome :=
  .next (
    if 1 ≤ s.regs.tr.tlvl then s.trapAll 0x02
    else s.before (fun s =>
      let lanes := s.regs.selected g
      let done := (s.gang s.cur).prog
      let (m, s) := s.devAppend (slOfGk s.cur) ((lanes.drop done).map (fun l => regHandle n.toNat s l)) done
      if m = lanes.length then s.finish st
      else (s.modGang s.cur (fun g => { g with prog := m })).waitFor .deviceQueue))

/-- The registers a transfer packs, for the checking scoreboard: the live registers of its entries, `w26`, `w27` and the
predicates of the selected lanes (08:R218, 09:R247). -/
def State.xferReads (s : State) (w : W32) : List Operand :=
  let fn := fFn w
  if fOp w ≠ 0x0f ∨ fn = 8 then []
  else
    let cx := s.gangCx s.cur
    let lanes := s.regs.selected (BitVec.ofNat 4 (fG w))
    let h (l : Nat) : Word :=
      if fn = 5 ∨ fn = 6 then regHandle (nbits w.toNat 8 5) s l else if fn = 7 then s.regs.rdW l 27
      else s.linkSlot (nbits w.toNat 8 16)
    let live := lanes.foldl (fun acc l => match s.resolve cx (h l) with
      | some t => addSet acc (liveRegs t.rec_.live)
      | none => acc) []
    (live ++ [26, 27] ++ (if fn = 3 then [28] else [])).map (opW .sel) ++ (List.range 7).map (fun i => opP .sel (i + 1))

end Sys2Proof.Machine
end

