-- ==== Sys2Proof/Machine/Strm.lean ====
section
/-!
DEFINITION. STRM: stream ports (10:R283 to R285, 04:R122 to R126, 19:R415, R416), and the routes of the mesh that they hold.
-/

namespace Sys2Proof.Machine

/-! ## Routes (01:R10, 04:R122) -/

/-- Port toward a destination site by the tables of a partition; X first then Y where no entry has been written. -/
def Mesh.port (m : Mesh) (site dest part : Nat) : Nat :=
  match m.table.find? (fun e => e.1 == (site * 608 + dest) * 16 + part) with
  | some e => e.2
  | none =>
    if site % 32 < dest % 32 then 2
    else if dest % 32 < site % 32 then 4
    else if site / 32 < dest / 32 then 3
    else if dest / 32 < site / 32 then 1
    else 0

/-- The neighbour of a site through a port: 1 north, 2 east, 3 south, 4 west. -/
def neighbour (site port : Nat) : Option Nat :=
  match port with
  | 1 => if 32 ≤ site then some (site - 32) else none
  | 2 => if site % 32 < 31 then some (site + 1) else none
  | 3 => if site / 32 < 18 then some (site + 32) else none
  | 4 => if 1 ≤ site % 32 then some (site - 1) else none
  | _ => none

/-- The links from a site to a destination, each as 8 * site + port; none when the tables do not lead there. -/
def Mesh.route (m : Mesh) (dest part : Nat) : Nat → Nat → Option (List Nat)
  | 0, _ => none
  | n + 1, site =>
    if site = dest then some []
    else
      let p := m.port site dest part
      match neighbour site p with
      | none => none
      | some t => (m.route dest part n t).map (fun l => (8 * site + p) :: l)

/-- The site of a quad's cluster. -/
def State.siteOf (s : State) (qk : Nat) : Nat := (s.slice (slOfQk qk)).sites.getD (quadOfQk qk / 2) 0

/-- The links of the stream that a quad sends. -/
def State.streamLinks (s : State) (qk : Nat) : Option (List Nat) :=
  let sl := slOfQk qk
  s.mesh.route (s.siteOf (qkOf sl (s.quad qk).port.dst)) sl 608 (s.siteOf qk)

/-- The links from one quad to another of its slice. -/
def State.linksTo (s : State) (qk dst : Nat) : Option (List Nat) := s.mesh.route (s.siteOf dst) (slOfQk qk) 608 (s.siteOf qk)

/-- The links on which streams hold channels: the route of one that is open, or whose closing marker has not passed, and the links that the
first flit of a `sopen` has passed (04:R125). -/
def State.heldRoutes (s : State) : List (List Nat) :=
  s.quads.flatMap (fun e =>
    (if e.2.port.opened then [(s.streamLinks e.1).getD []]
     else if e.2.port.holder.isSome then [((s.streamLinks e.1).getD []).take e.2.port.links] else []) ++
    (e.2.port.inflight.filter (fun f => f.2.mark)).map (fun f => (s.linksTo (qkOf (slOfQk e.1) (f.1 % 2048)) e.1).getD []))

/-- One of the four stream channels of a link is free (04:R125). -/
def State.linkFree (s : State) (l : Nat) : Bool := (s.heldRoutes.filter (fun h => h.contains l)).length < 4

/-- The links of a quad's route whose channels its `sopen` has yet to take. The spec does not say what a `sopen` does whose routing tables do
not lead to its destination; in the model it waits without end (log 48). -/
def State.linksLeft (s : State) (qk : Nat) : Option (List Nat) := (s.streamLinks qk).map (fun ls => ls.drop (s.quad qk).port.links)

/-- The next channel that a `sopen` waits for is free, or it has them all. -/
def State.channelFree (s : State) (qk : Nat) : Bool :=
  match s.linksLeft qk with
  | none => false
  | some [] => true
  | some (l :: _) => s.linkFree l

/-- The stream that a quad sends. -/
def State.streamOf (s : State) (qk : Nat) : Nat := (s.quad qk).port.no * 2048 + quadOfQk qk

/-- A receiver receives no stream, or the one named: then it takes that one; else the stream waits there, in arrival order (04:R125). -/
def StreamPort.reach (p : StreamPort) (st now : Nat) : StreamPort :=
  match p.src with
  | none => if p.waiting.isEmpty then { p with src := some st, auditAt := now } else { p with waiting := addSet p.waiting [st] }
  | some k => if k = st then p else { p with waiting := addSet p.waiting [st] }

/-! ## The members -/

/-- The eight words of a lane group; a lane that is not active gives 0 (10:R284). -/
def Regs.group (r : Regs) (d g : Nat) : List Word :=
  (List.range 8).map (fun k => if r.act.getLsbD (8 * g + k) then r.rdW (8 * g + k) d else 0#64)

/-- What a sending word logs: the words of its group under a number. -/
def flitOps (n : Nat) (ws : List Word) : List FarLane := ws.map (fun w => { lane := 0, loc := n, v := w.toNat, c := 0 })

/-- A mismatch of the audit traps the gang that holds the send side at its next STRM word (19:R416). -/
def State.audited (s : State) (k : State → State) : State :=
  let p := (s.quad (qkOfGk s.cur)).port
  match p.audit with
  | some n => if p.holder = some s.cur then s.trap 0x13 s.regs.act (BitVec.ofNat 64 n) .audit else k s
  | none => k s

/-- Takes a free send side for the current gang: a stream of its own to quad q (10:R284). -/
def State.takeSide (s : State) (q : Nat) : State :=
  s.modQuad (qkOfGk s.cur) (fun x => { x with port := { x.port with
    holder := some s.cur, dst := q, no := x.port.no + 1, opened := false, links := 0, backoff := none, waitFrom := s.now
    credit := 16, sent := 0, credited := 0, copies := [], audit := none } })

/-- The first flit takes a channel of one link of its route after another while they are free; with all of them its route reaches the
receiver (04:R125, 19:R415). -/
def State.takeLinks (s : State) (qk : Nat) : List Nat → State
  | [] =>
    let p := (s.quad qk).port
    (s.modQuad qk (fun x => { x with port := { x.port with opened := true, links := 0 } })).modQuad (qkOf (slOfQk qk) p.dst) (fun x =>
      { x with port := x.port.reach (s.streamOf qk) s.now })
  | l :: t =>
    if s.linkFree l then
      State.takeLinks (s.modQuad qk (fun x => { x with port := { x.port with links := x.port.links + 1, waitFrom := s.now } })) qk t
    else s

/-- A `sopen` that holds the side takes the channels that are free. None is taken while the partition injects nothing; a stream whose route
is open goes on to its end while it drains (04:R123, R125, 19:R414; log 48). -/
def State.openRoute (s : State) : State :=
  let qk := qkOfGk s.cur
  let p := (s.quad qk).port
  if s.injOff (slOfGk s.cur) || p.opened || p.backoff.isSome then s
  else
    match s.linksLeft qk with
    | none => s
    | some ls => s.takeLinks qk ls

/-- The route of the quad's stream is open, and its receiver takes it (04:R125). -/
def State.routeOpen (s : State) (qk : Nat) : Bool :=
  let p := (s.quad qk).port
  p.opened && (s.quad (qkOf (slOfQk qk) p.dst)).port.src == some (s.streamOf qk)

/-- SOPEN, 10:R284: takes the quad's send side, opens the route to a quad and sends the first flit; it waits for the side, for its
channels, and for the receiver to be free (04:R125). -/
def execSopen (st : BitVec 3) (d a : BitVec 5) (s : State) : Outcome :=
  let qk := qkOfGk s.cur
  let q := s.regs.gangOp a.toNat
  let ws := s.regs.group d.toNat 0
  let ops := flitOps q.toNat ws
  let openIt (s : State) : State :=
    let s := s.openRoute
    if s.routeOpen qk then
      ((s.sendFlit qk { words := ws, mark := false }).sentDone ops []).finish st
    else s.sentWait ops 1 .sendSide
  .next (s.sentOnce ops none (fun _ s => s.finish st) (fun s =>
    let p := (s.quad qk).port
    if (s.gang s.cur).prog ≠ 0 then s.audited openIt
    else if p.holder = some s.cur then s.audited (fun s => s.trapAll 0x02)
    else if (s.slice (slOfGk s.cur)).nquads ≤ q.toNat then s.trap 0x09 s.regs.act q
    else if p.holder.isSome || p.closing || s.injOff (slOfGk s.cur) then s.waitFor .sendSide
    else openIt (s.takeSide q.toNat)))

/-- A send on the open stream: `last` closes it (10:R284). -/
def State.streamSend (s : State) (st : BitVec 3) (d : BitVec 5) (g : BitVec 2) (last : Bool) : State :=
  let qk := qkOfGk s.cur
  let ws := s.regs.group d.toNat g.toNat
  let ops := flitOps g.toNat ws
  s.sentOnce ops none (fun _ s => s.finish st) (fun s =>
    if (s.quad qk).port.holder ≠ some s.cur then s.trapAll 0x02
    else s.audited (fun s =>
    if (s.quad qk).port.credit = 0 ∨ s.loopStop (slOfGk s.cur) then s.waitFor .stream
    else
      let s := s.sendFlit qk { words := ws, mark := last }
      let s := if last then
          s.modQuad qk (fun x => { x with port := { x.port with holder := none, opened := false } })
        else s
      (s.sentDone ops []).finish st))

/-- SPUT, 10:R284: sends a lane group. -/
def execSput (st : BitVec 3) (d : BitVec 5) (g : BitVec 2) (s : State) : Outcome :=
  .next (s.streamSend st d g false)

/-- SCLOSE, 10:R284: sends a lane group with the marker and frees the send side. -/
def execSclose (st : BitVec 3) (d : BitVec 5) (g : BitVec 2) (s : State) : Outcome :=
  .next (s.streamSend st d g true)

/-- Consumes the oldest flit of a quad's receiver; a marker frees the receiving side for the next stream (10:R285). -/
def StreamPort.take (p : StreamPort) (now : Nat) (f : Flit) (rest : List Flit) : StreamPort :=
  let p := { p with getBy := now + 1 }
  if f.mark then
    { p with slots := rest, src := p.waiting.head?, waiting := p.waiting.drop 1, consumed := 0, unreturned := 0, auditAt := now }
  else
    { p with slots := rest, consumed := (p.consumed + 1) % 2 ^ 32, unreturned := p.unreturned + 1
             since := if p.unreturned = 0 then now else p.since }

/-- Whether the port serves a gang's `sget` now: a slot holds a flit, no `sget` issued earlier waits, and none has been served in the
cycle (10:R285). -/
def StreamPort.serves (p : StreamPort) (gk now : Nat) : Bool :=
  !p.slots.isEmpty && decide (p.getBy ≤ now) && (p.getters.head?.getD gk == gk)

/-- The current gang waits in the line of its quad's receiver (10:R285). -/
def State.inLine (s : State) : State :=
  (s.modQuad (qkOfGk s.cur) (fun x => { x with port := { x.port with getters := addSet x.port.getters [s.cur] } })).waitFor .stream

/-- SGET, 10:R285: takes the oldest flit into a lane group and its marker into a predicate. -/
def execSget (st : BitVec 3) (d : BitVec 5) (p : BitVec 3) (g : BitVec 2) (s : State) : Outcome :=
  let qk := qkOfGk s.cur
  let r := s.regs
  let ops := flitOps g.toNat []
  let grp := r.active.filter (fun l => l / 8 == g.toNat)
  let out (res : List Nat) (s : State) : State :=
    let s := s.holdW d.toNat (grp.map (fun l => (l, BitVec.ofNat 64 (res.getD (l % 8) 0))))
    let x := Regs.destsP p.toNat (r.active.map (fun l => (l, res.getD 8 0 == 1)))
    (s.modGang s.cur (fun g => { g with r := g.r.landAll x.1 x.2 })).finish st
  .next (s.sentOnce ops none out (fun s => s.audited (fun s =>
    let p := (s.quad qk).port
    if p.serves s.cur s.now then
      match p.slots with
      | [] => s.inLine
      | f :: rest =>
        let res := f.words.map BitVec.toNat ++ [if f.mark then 1 else 0]
        let s := (s.leaveLine s.cur).modQuad qk (fun x => { x with port := x.port.take s.now f rest })
        out res (s.sentDone ops res).acquired
    else s.inLine)))

end Sys2Proof.Machine
end

