-- ==== Sys2Proof/Machine/Csr.lean ====
section
/-!
DEFINITION. CSR: control registers (08:R208 to R210, 09:R257, and the rule of each register).
-/

namespace Sys2Proof.Machine

/-! ## Reading -/

/-- The low or high half of a tile descriptor (08:R208). -/
def descHalf (t : BitVec 128) (h : Nat) : Word := BitVec.ofNat 64 (t.toNat / 2 ^ (64 * h))

/-- `lid` and `lsz` (01:R21). -/
def State.lid (s : State) : Word :=
  let ck := ckOfGk s.cur
  let c := coreOfCk ck
  BitVec.ofNat 64 (slOfCk ck * 2 ^ 60 + c / 8 * 2 ^ 36 + c / 4 * 2 ^ 24 + c)
def State.lsz (s : State) : Word := BitVec.ofNat 64 (s.slice (slOfGk s.cur)).nclus

/-- `tsa` (18:R387). -/
def State.tsa (s : State) : Word :=
  BitVec.ofNat 64 (0xffe0_0000_0000 + 512 * (4 * coreOfCk (ckOfGk s.cur) + slotOfGk s.cur))

/-- `tvec`: the handle of the trap entry of the object that holds the running block (18:R387). -/
def State.tvec (s : State) : Word :=
  let cx := s.gangCx s.cur
  let slot := s.regs.blk.obj
  match s.obj cx slot with
  | none => 0#64
  | some o => s.handleOf cx slot o.trapEntry

/-- The trap registers of a gang, by index (18:R386, R387). -/
def TrapRegs.read (t : TrapRegs) : Nat → Word
  | 0x020 => BitVec.ofNat 64 t.tlvl
  | 0x021 => t.tc1
  | 0x022 => t.tc2
  | 0x023 => t.tpc1
  | 0x024 => t.tpc2
  | 0x025 => t.tmk1
  | 0x026 => t.tmk2
  | 0x027 => t.tva1
  | _ => t.tva2

/-- Context and slice registers, by index. -/
def State.readCtx (s : State) (i : Nat) : Word :=
  let x := s.ctx (s.gangCx s.cur)
  match i with
  | 0x040 => x.hotcfg
  | 0x041 => x.hotwin
  | 0x042 =>
    (match s.obj (s.gangCx s.cur) s.regs.blk.obj with
     | none => 0#64
     | some o => BitVec.ofNat 64 o.lnkVa)
  | 0x043 => BitVec.ofNat 64 x.gangwait
  | 0x044 => BitVec.ofNat 64 (s.vf x.vf).ways
  | 0x045 => BitVec.ofNat 64 x.shmib
  | 0x060 => x.s1root
  | 0x061 => x.s1pool
  | 0x072 => BitVec.ofNat 64 x.agestep
  | _ => BitVec.ofNat 64 x.tilb

/-- The Madder registers (12:R322). -/
def Madder.read (m : Madder) (i : Nat) : Word :=
  let dom (d : Nat) : MadDom := tget {} m.doms d
  if i < 0x084 then (dom (i - 0x080)).dcnt
  else if i < 0x088 then BitVec.ofNat 64 (dom (i - 0x084)).div
  else
    let bits (f : MadDom → Bool) : Nat := (List.range 4).foldl (fun acc d => acc + (if f (dom d) then 2 ^ d else 0)) 0
    BitVec.ofNat 64 (m.q.length * 256 + bits (fun d => d.pend.isSome) * 16 + bits (fun d => d.run.isSome))

/-- `sfload` (13:R334): bit 4 (s - 1) + d is set when slot s holds a graph on all 16 fabrics of die d. -/
def State.sfload (s : State) : Word :=
  BitVec.ofNat 64 ((List.range 32).foldl (fun acc i =>
    let all := (List.range 16).all (fun k =>
      (tget {} s.fabs (16 * (i % 4) + k)).slots.any (fun e => e.1 == i / 4 + 1))
    acc + (if all then 2 ^ i else 0)) 0)

/-- The value of a control register in a lane (08:R210). -/
def State.csrRead (s : State) (l i : Nat) : Word :=
  let r := s.regs
  let c := s.core (ckOfGk s.cur)
  if i = 0x001 then s.lid
  else if i = 0x002 then s.lsz
  else if i = 0x010 then (r.lane l).frm.setWidth 64
  else if i = 0x011 then (r.lane l).fflags.setWidth 64
  else if i = 0x029 then s.tsa
  else if i = 0x02a then s.tvec
  else if i < 0x029 then r.tr.read i
  else if i = 0x030 then (if r.sbchk then 1#64 else 0#64)
  else if 0x050 ≤ i ∧ i < 0x058 then (s.cluster (clkOfGk s.cur)).win (i - 0x050)
  else if i = 0x070 then s.dtc
  else if i = 0x071 then BitVec.ofNat 64 c.mxwt
  else if 0x074 ≤ i ∧ i < 0x078 then tget 0#64 c.wp (i - 0x074)
  else if i = 0x078 then (s.cluster (clkOfGk s.cur)).zalloc
  else if 0x080 ≤ i ∧ i < 0x089 then c.mad.read i
  else if i = 0x0c0 then BitVec.ofNat 64 (s.vf (s.ctx (s.gangCx s.cur)).vf).slots
  else if i = 0x0c1 then s.sfload
  else if 0x100 ≤ i then descHalf (tget 0#128 c.t ((i - 0x100) / 2)) (i % 2)
  else s.readCtx i

/-! ## Writing -/

/-- Registers private to the lane (08:R210). -/
def laneCsr (i : Nat) : Bool := i == 0x010 || i == 0x011

/-- Writes a lane-scope register of one lane; a `frm` above 4 is ignored (05:R130). -/
def Lane.csrWrite (l : Lane) (i : Nat) (v : Word) : Lane :=
  if i = 0x010 then (if 5 ≤ wbits v 0 3 then l else { l with frm := v.setWidth 3 })
  else { l with fflags := v.setWidth 5 }

/-- Writes a trap register at a trap level (18:R386). -/
def TrapRegs.write (t : TrapRegs) (i : Nat) (v : Word) : TrapRegs :=
  let tc := v &&& 0xffff_ffff_0000_00ff#64
  let tp := v &&& 0x3fff#64
  match i with
  | 0x021 => { t with tc1 := tc }
  | 0x022 => { t with tc2 := tc }
  | 0x023 => { t with tpc1 := tp }
  | 0x024 => { t with tpc2 := tp }
  | 0x025 => { t with tmk1 := v }
  | 0x026 => { t with tmk2 := v }
  | 0x027 => { t with tva1 := v }
  | 0x028 => { t with tva2 := v }
  | _ => t

/-- Writes half of a tile descriptor; a low half with a reserved format is ignored as a whole (08:R208). -/
def writeHalf (t : BitVec 128) (h : Nat) (v : Word) : BitVec 128 :=
  if h = 0 then
    (if 13 ≤ wbits v 48 4 then t
     else BitVec.ofNat 128 (t.toNat / 2 ^ 64 * 2 ^ 64 + v.toNat % 2 ^ 52))
  else BitVec.ofNat 128 (v.toNat * 2 ^ 64 + t.toNat % 2 ^ 64)

/-- Writes a register of wider scope; a read-only one is unchanged (09:R257). -/
def State.csrWrite (s : State) (i : Nat) (v : Word) : State :=
  let lvl := s.regs.tr.tlvl
  let ck := ckOfGk s.cur
  if 0x021 ≤ i ∧ i ≤ 0x028 then
    (if lvl = 0 then s else s.modGang s.cur (fun g => { g with r := { g.r with tr := g.r.tr.write i v } }))
  else if i = 0x030 then s.modGang s.cur (fun g => { g with r := { g.r with sbchk := v.getLsbD 0 } })
  else if 0x051 ≤ i ∧ i < 0x058 then
    (if 8 ≤ wbits v 60 4 then s
     else s.modCluster (clkOfGk s.cur) (fun c =>
       { c with wincfg := tput c.wincfg (i - 0x050) (v &&& 0xffff_ffff_fff0_0000#64) }))
  else if i = 0x060 then
    (if lvl = 0 then s else s.modCtx (s.gangCx s.cur) (fun c => { c with s1root := v &&& 0xffff_ffff_f000#64 }))
  else if i = 0x071 then (if wbits v 0 4 = 0 then s else s.modCore ck (fun c => { c with mxwt := wbits v 0 4 }))
  else if i = 0x078 then
    s.modCluster (clkOfGk s.cur) (fun c => { c with zalloc := v &&& 0xffff_ffff#64 })
  else if 0x100 ≤ i then
    s.modCore ck (fun c => { c with t := tput c.t ((i - 0x100) / 2)
                                             (writeHalf (tget 0#128 c.t ((i - 0x100) / 2)) (i % 2) v) })
  else s

/-- A member naming `fflags` issues once the lane's flag-setting operations have completed: the outstanding atomics on
`sb3`, and the fixed-latency writes (05:R131). -/
def State.flagsDone (s : State) (i : Nat) (k : State → State) : State :=
  if i = 0x011 then
    if (s.gang s.cur).pend.any (fun p => p.ctr == some 3) then s.waitFor .counter
    else if s.now < (s.gang s.cur).lastLand s.now then s.holdTill ((s.gang s.cur).lastLand s.now)
    else k (s.modGang s.cur (fun g => g.landDue s.now))
  else k s

/-- A member that writes: `f` gives the new value from the old one and the operand (09:R257). -/
def State.csrMod (s : State) (st : BitVec 3) (a : BitVec 5) (i : BitVec 12) (f : Word → Word → Word) : State :=
  let n := i.toNat
  if laneCsr n then
    s.flagsDone n (fun s =>
      let r := s.regs
      let r' := r.active.foldl (fun q l =>
        q.modLane l (fun x => x.csrWrite n (f (s.csrRead l n) (r.rdW l a.toNat)))) r
      (s.modGang s.cur (fun g => { g with r := r' })).finish st)
  else
    s.before (fun s => (s.csrWrite n (f (s.csrRead s.regs.l0 n) (s.regs.gangOp a.toNat))).finish st)

/-- CSRR, 09:R257: every active lane reads the register. -/
def execCsrr (st : BitVec 3) (d : BitVec 5) (i : BitVec 12) (s : State) : Outcome :=
  .next (s.flagsDone i.toNat (fun s =>
    s.put st 1 d.toNat (s.regs.active.map (fun l => (l, s.csrRead l i.toNat)))))

/-- CSRW, 09:R257: the register takes the operand. -/
def execCsrw (st : BitVec 3) (a : BitVec 5) (i : BitVec 12) (s : State) : Outcome :=
  .next (s.csrMod st a i (fun _ v => v))

/-- CSRS, 09:R257: the register or the operand. -/
def execCsrs (st : BitVec 3) (a : BitVec 5) (i : BitVec 12) (s : State) : Outcome :=
  .next (s.csrMod st a i (fun old v => old ||| v))

/-- CSRC, 09:R257: the register and not the operand. -/
def execCsrc (st : BitVec 3) (a : BitVec 5) (i : BitVec 12) (s : State) : Outcome :=
  .next (s.csrMod st a i (fun old v => old &&& ~~~v))

end Sys2Proof.Machine
end

