-- ==== Sys2Proof/Machine/Eng.lean ====
section
/-!
DEFINITION. ENG (09:R258 to R260, 20:R426) and what the engines share: pushes, completion records, recorded faults, and reads
and writes of memory outside chunks (06:R164, R175, R176, 09:R259, 19:R408, 20:R422).
-/

namespace Sys2Proof.Machine

/-! ## Completion records (09:R259) -/

/-- Places that an engine's completion queue holds taken: unpopped records and those whose pop has not committed. -/
def Gang.cqUsed (g : Gang) (e : Nat) : Nat := (tget [] g.cq e).length + (g.ch.pops.filter (fun x => x.1 == e)).length

/-- A command ends with its record: it enters the queue of the activation that pushed it, is held while the queue is full,
and is dropped after the activation (09:R259). -/
def State.writeRec (s : State) (who : Pusher) (e : Nat) (r : Rec) : State :=
  s.modGang who.gk (fun g =>
    if !(g.live && g.actId == who.actId) then g
    else
      let g := { g with owed := tput g.owed e (tget 0 g.owed e - 1) }
      if g.cqUsed e < 8 ∧ (tget [] g.cqHeld e).isEmpty then { g with cq := tput g.cq e (tget [] g.cq e ++ [r]) }
      else { g with cqHeld := tput g.cqHeld e (tget [] g.cqHeld e ++ [r]) })

/-- RECORD_ENTERS, 09:R259: the first held record enters its queue when a place is free. -/
def execRecordEnters (gk e : Nat) (s : State) : Outcome :=
  .next (s.modGang gk (fun g =>
    match tget [] g.cqHeld e with
    | [] => g
    | r :: t =>
      if g.cqUsed e < 8 then
        { g with cq := tput g.cq e (tget [] g.cq e ++ [r]), cqHeld := tput g.cqHeld e t }
      else g))

/-- EPOP, 09:R260, 20:R426: takes the oldest record into a register pair; without one the chunk ends and the gang holds, or
faults when no command can write one. -/
def execEpop (st : BitVec 3) (d : BitVec 4) (e : BitVec 2) (s : State) : Outcome :=
  let n := e.toNat
  let g := s.gang s.cur
  let pop (s : State) : State :=
    s.counted (some 2) (fun s =>
      match tget [] (s.gang s.cur).cq n with
      | [] => s.waitFor .record
      | r :: t =>
        let s := s.modGang s.cur (fun g => { g with cq := tput g.cq n t, ch := { g.ch with pops := g.ch.pops ++ [(n, r)] } })
        let lo := s.regs.destsW (2 * d.toNat) (s.regs.active.map (fun l => (l, r.lo)))
        let hi := s.regs.destsW (2 * d.toNat + 1) (s.regs.active.map (fun l => (l, r.hi)))
        let s := s.pendVar (some 2) false true (lo.1 ++ hi.1) (lo.2 ++ hi.2)
        (s.modGang s.cur (fun g => { g with pend := g.pend.map (fun p =>
          if p.id + 1 = s.fresh then { p with acq := true } else p) })).finish st)
  .next (
    if !(tget [] g.cq n).isEmpty then pop s
    else if (tget [] g.cqHeld n).isEmpty ∧ tget 0 g.owed n = 0 then s.trapAll 0x02
    else s.before pop)

/-- EPEEK, 09:R260: the number of unpopped records. -/
def execEpeek (st : BitVec 3) (d : BitVec 5) (e : BitVec 2) (s : State) : Outcome :=
  .next (s.counted (some 2) (fun s =>
    let v := BitVec.ofNat 64 (tget [] (s.gang s.cur).cq e.toNat).length
    let x := s.regs.destsW d.toNat (s.regs.active.map (fun l => (l, v)))
    (s.pendVar (some 2) false true x.1 x.2).finish st))

/-- SBWAIT, 08:R217, 09:R260: holds the gang until a counter is at most n. -/
def execSbwait (st : BitVec 3) (n : BitVec 6) (c : BitVec 2) (s : State) : Outcome :=
  .next (if tget 0 (s.gang s.cur).sb c.toNat ≤ n.toNat then s.finish st else s.waitFor .counter)

/-- SBRD, 09:R260: reads a counter. -/
def execSbrd (st : BitVec 3) (d : BitVec 5) (c : BitVec 2) (s : State) : Outcome :=
  .next (s.put st 1 d.toNat (s.regs.active.map (fun l => (l, BitVec.ofNat 64 (tget 0 (s.gang s.cur).sb c.toNat)))))

/-! ## Pushes (06:R164, 10:R275) -/

/-- A gang operand as a logged operand. -/
def pushOps (ws : List Nat) : List FarLane := ws.map (fun w => { lane := 0, loc := 0, v := w, c := 0 })

/-- A command push: the chunk ends before it, the gang's earlier far operations are waited for, the checks are made, and a
full queue holds the gang; it is sent once. `chk` gives cause, faulting lanes and fault address (06:R148, R164, 10:R275). -/
def State.push (s : State) (st : BitVec 3) (ops : List FarLane) (chk : State → Option (Nat × W32 × Word))
    (room : State → Bool) (go : State → State) : State :=
  s.sentOnce ops (some 2) (fun _ s => s.finish st) (fun s =>
    match chk s with
    | some (c, m, va) => s.trap c m va
    | none => if room s then ((go s).sentDone ops []).finish st else s.waitFor .queue)

/-- A push that holds the gang until the command answers: its values come from the log entry (08:R214, 12:R323). -/
def State.pushAsk (s : State) (st : BitVec 3) (ops : List FarLane) (chk : State → Option (Nat × W32 × Word))
    (room : State → Bool) (go : State → State) (out : List Nat → State → State) : State :=
  s.sentOnce ops (some 2) (fun res s => (out res s).finish st) (fun s =>
    if (s.gang s.cur).prog ≠ 0 then s.waitFor .queue
    else
      match chk s with
      | some (c, m, va) => s.trap c m va
      | none => if room s then (go s).sentWait ops 1 .queue else s.waitFor .queue)

/-- The pushing gang owes itself one more record of an engine. -/
def State.owe (s : State) (e : Nat) : State := s.modGang s.cur (fun g => { g with owed := tput g.owed e (tget 0 g.owed e + 1) })

/-- Answers the first unanswered log entry of a list that a command's word made. -/
def answerIn (who : Pusher) (res : List Nat) : List FarLog → List FarLog
  | [] => []
  | e :: t =>
    if e.done = false ∧ e.word = who.word ∧ e.act = who.act then { e with done := true, res := res } :: t
    else e :: answerIn who res t

/-- A command answers the gang that holds for it, whether it stands at the word or in a trap handler (10:R275). -/
def State.answer (s : State) (who : Pusher) (res : List Nat) : State :=
  s.modGang who.gk (fun g =>
    if !(g.live && g.actId == who.actId) then g
    else { g with ch := { g.ch with log := answerIn who res g.ch.log }
                  sent := g.sent.map (fun e => (e.1, (answerIn who res [e.2.1]).headD e.2.1, e.2.2)) })

/-- The slice's context is being taken off it or put back: engines stop at a sector, command or step boundary (14:R363). -/
def State.preempted (s : State) (sl : Nat) : Bool :=
  match (s.slice sl).sw.step with
  | .idle | .soft => false
  | _ => true

/-- The engines of a slice start nothing new: its halted context has `frz` set, or it is pre-empted (18:R400, 14:R363). -/
def State.frozen (s : State) (sl : Nat) : Bool :=
  let d := (s.ctx (s.runCx sl)).dbg
  (d.hlt && d.frz) || s.preempted sl

/-- Gangs of a slice may issue: it is not halted, not pre-empted, and its context does not wait for its token (18:R399,
14:R363, R367, 21:R445). -/
def State.mayRun (s : State) (sl : Nat) : Bool :=
  let w := (s.slice sl).sw
  !(s.ctx (s.runCx sl)).dbg.hreq && !s.preempted sl && !w.tokenWait && !w.rescrub

/-- A wait of a gang is an activation boundary: `getm`, `sget`, and waits at barriers and tiles (03:R91). -/
def State.boundary (s : State) (gk : Nat) (k : WaitKind) : Bool :=
  k == .mailbox || k == .barrier || k == .tile || (k == .stream && (s.quad (qkOfGk gk)).port.getters.contains gk)

/-- A wait at which a gang stays: the slice is halted, or it is pre-empted and the wait is an activation boundary (18:R399,
14:R363). -/
def State.held (s : State) (gk : Nat) (k : WaitKind) : Bool :=
  (s.ctx (s.gangCx gk)).dbg.hreq ||
  match (s.slice (slOfGk gk)).sw.step with
  | .idle => false
  | .soft => s.boundary gk k
  | _ => true

/-! ## Memory as an engine reaches it (06:R175, R176, 10:R262, 19:R408) -/

/-- Pieces of a range that stay within aligned 64 bytes: address and length. -/
def pieces64 (va n : Nat) : List (Nat × Nat) :=
  if n = 0 then []
  else (List.range ((va + n - 1) / 64 + 1 - va / 64)).map (fun i =>
    let a := if i = 0 then va else (va / 64 + i) * 64
    let b := min (va + n) ((va / 64 + i + 1) * 64)
    (a % 2 ^ 64, b - a))

/-- What the checks of an engine's range decide: the places of its pieces; the first failing address with its row and cause;
or a stage-2 fault. -/
inductive EngChk where
  | ok (ps : List (Nat × Nat × Place))
  | bad (va row cause : Nat)
  | stage2 (va ipa : Nat) (table perm : Bool)
  deriving DecidableEq, Repr

/-- The check of one piece. A unit that does not reach decoding windows fails row 4 there; so does a space not allowed. An
engine acts as trap level 0 (log 18). -/
def State.engPiece (s : State) (ck va n : Nat) (wr win : Bool) (allow : Space → Bool) : Chk :=
  let c :=
    s.checkIn ck va n wr (.eng win) 0 allow
  match c with
  | .bad 2 _ => if !win && 10 ≤ rangeOf va then s.checkIn ck (va / 4 * 4) (roundUp (va % 4 + n) 4) wr (.eng false) 0 allow else c
  | c => c

/-- The checks of some pieces, the first failure deciding. -/
def State.engPieces (s : State) (ck : Nat) (wr win : Bool) (allow : Space → Bool) : List (Nat × Nat) → EngChk
  | [] => .ok []
  | (a, n) :: t =>
    match s.engPiece ck a n wr win allow with
    | .bad r c => .bad a r c
    | .stage2 ipa x y => .stage2 a ipa x y
    | .ok p =>
      match s.engPieces ck wr win allow t with
      | .ok ps => .ok ((a, n, p) :: ps)
      | e => e

/-- The checks of a range. -/
def State.engRange (s : State) (ck va n : Nat) (wr win : Bool) (allow : Space → Bool) : EngChk :=
  s.engPieces ck wr win allow (pieces64 va n)

/-- The committed bytes of checked pieces that are not in a decoding window. -/
def State.engBytes (s : State) (cx : Nat) (ps : List (Nat × Nat × Place)) : List Byte :=
  ps.flatMap (fun e => s.rdBytes (s.keyNo cx) e.2.2.loc e.2.1)

/-- Translations made on the way (04:R111, R112), and the record of an access that reaches nothing (21:R455). -/
def State.engNote (s : State) (ck : Nat) (wr : Bool) (ps : List (Nat × Nat × Place)) : State :=
  ps.foldl (fun t e =>
    let t := if e.2.2.global then t.noteAccess (qkOfCk ck) (t.runCx (slOfCk ck)) e.1 wr else t
    if e.2.2.space = .host ∧ t.links.reaches e.2.2.loc = false then t.lostAt (slOfCk ck) 0xff 0xff e.2.2.loc else t) s

/-- The sectors of some single-byte writes. -/
def secsOf (ws : List (Nat × Byte)) : List Nat := addSet [] (ws.map (fun e => e.1 / 256))

/-- An engine write to a sector that another gang's sole grant covers is held (06:R156). -/
def State.engHeld (s : State) (who : Pusher) (secs : List Nat) : Bool := s.covered (some who.gk) secs

/-- An engine's writes are events outside chunks; open chunks that used their sectors are squashed (06:R175, 19:R408). -/
def State.engWrite (s : State) (sl : Nat) (ws : List (Nat × Byte)) : State :=
  (s.wrAll (s.keyNo (s.runCx sl)) ws).squashUsers (secsOf (ws.filter (fun e => spaceOfLoc e.1 != 1)))

/-- Spaces that the matrix unit reaches for banks and accumulators (11:R299, R303, R304). -/
def plainSpace : Space → Bool
  | .tcm | .scr | .shr | .glob => true
  | _ => false

/-! ## Engine faults at a boundary (20:R422) -/

/-- The gang in focus takes its oldest recorded fault at trap level 0; the record goes once the trap is taken. -/
def State.takeFault (s : State) : State :=
  let g := s.gang s.cur
  match g.efaults with
  | [] => s
  | f :: _ =>
    if g.r.tr.tlvl ≠ 0 then s
    else s.trapWith f.word g.r.pc f.cause f.flt f.va .engine

/-- ENGINE_FAULT_TAKEN, 20:R422: at a wait the gang takes the fault and the wait is abandoned; a gang that does not wait
takes it before its next word issues. A gang that is halted or pre-empted stays where it stands (18:R399, 14:R363). -/
def execEngineFaultTaken (gk : Nat) (s : State) : Outcome :=
  let g := s.gang gk
  .next (
    if g.live && !g.stopped && g.trapDue.isNone && !g.efaults.isEmpty && g.r.tr.tlvl == 0
        && s.mayRun (slOfGk gk) && g.wait.all (fun k => !s.held gk k) then
      let c := s.cur
      let t := ({ s with cur := gk }).takeFault
      { t with cur := c }
    else s)

end Sys2Proof.Machine
end

