-- ==== Sys2Proof/Machine/Mx.lean ====
section
/-!
DEFINITION. The matrix unit (11:R296 to R307, 05:R136 to R142, 07:R202, R203, 20:R429 to R431, 16:R379, R380).
-/

namespace Sys2Proof.Machine

/-! ## Tile descriptors (08:R208) -/

def tdAddr (t : BitVec 128) : Nat := nbits t.toNat 0 48
def tdFmt (t : BitVec 128) : Nat := nbits t.toNat 48 4
def tdRows (t : BitVec 128) : Nat := nbits t.toNat 64 16
def tdCols (t : BitVec 128) : Nat := nbits t.toNat 80 16
def tdStride (t : BitVec 128) : Nat := nbits t.toNat 96 32

/-- Bytes of `c` elements of width b (05:R127). -/
def rowBytes (c b : Nat) : Nat := (c * b + 7) / 8

/-- Elements of width b packed in a row of bytes, the least significant bit first (04:R101). -/
def rowElems (bs : List Byte) (b c : Nat) : List Nat :=
  let v := leNat bs
  (List.range c).map (fun k => nbits v (k * b) b)

/-! ## Pushes (11:R297, 20:R429) -/

/-- Who names tile K: it must be allocated to the issuing core (08:R209). -/
def State.ownsTile (s : State) (k : Nat) : Bool :=
  let z := (s.cluster (clkOfGk s.cur)).zalloc
  wbits z (4 * k + 3) 1 == 1 && wbits z (4 * k) 3 == coreOfCk (ckOfGk s.cur) % 8

/-- Element size in bytes of the alignment check (20:R429). -/
def mxAlign (fmt : Nat) : Nat := if fmt = 1 then 2 else if fmt = 0 ∨ fmt = 11 then 4 else 1

/-- The checks of a push in their order: the tile, the value of Ez, the format, the alignment (20:R429). -/
def State.mxChk (s : State) (tile : Option Nat) (ez : Option Word) (desc : Option (BitVec 128)) (fmts : List Nat) :
    Option (Nat × W32 × Word) :=
  let act := s.regs.act
  let badTile := match tile with
    | some k => !s.ownsTile k
    | none => false
  let badEz := match ez with
    | some v => decide (v.toInt < -512) || decide (511 < v.toInt)
    | none => false
  if badTile then some (0x02, act, BitVec.ofNat 64 (tile.getD 0))
  else if badEz then some (0x02, act, ez.getD 0#64)
  else
    match desc with
    | none => none
    | some t =>
      let f := tdFmt t
      if !fmts.contains f then some (0x02, act, BitVec.ofNat 64 f)
      else if tdAddr t % mxAlign f ≠ 0 ∨ tdStride t % mxAlign f ≠ 0 then some (0x05, act, BitVec.ofNat 64 (tdAddr t))
      else none

/-- Commands pass from a core's queue of two into the unit's queue of four, unless they are frozen (07:R203, 18:R400). -/
def State.mxMove (s : State) (ck : Nat) : Nat → State
  | 0 => s
  | n + 1 =>
    let c := s.core ck
    let u := s.cluster (clkOfCk ck)
    let q := tget [] u.mxqs (ck % 8)
    match c.mxq with
    | [] => s
    | x :: t =>
      if 4 ≤ q.length ∨ s.frozen (slOfCk ck) then s
      else
        State.mxMove ((s.setCore ck { c with mxq := t }).setCluster (clkOfCk ck)
          { u with mxqs := tput u.mxqs (ck % 8) (q ++ [x]) }) ck n

/-- Room in the core's queue. -/
def State.mxRoom (s : State) : Bool := (s.core (ckOfGk s.cur)).mxq.length < 2

/-- Puts a command into the core's queue; one that writes a record is owed (11:R297, R307). -/
def State.mxPut (s : State) (kind reg bank : Nat) (desc : BitVec 128) (opnd : Word) : State :=
  let ck := ckOfGk s.cur
  let c := s.core ck
  let cmd : MxCmd := { who := s.pusher s.word, kind := kind, reg := reg, bank := bank, desc := desc, opnd := opnd
                       frm := (s.regs.lane s.regs.l0).frm, seq := c.mxseq.toNat }
  let s := s.setCore ck { c with mxq := c.mxq ++ [cmd], mxseq := c.mxseq + 1#32 }
  let s := if kind = 0 ∨ kind = 4 ∨ kind = 5 then s.owe 1 else s
  s.mxMove ck 2

/-- Descriptor register N of the issuing core. -/
def State.tdesc (s : State) (n : Nat) : BitVec 128 := tget 0#128 (s.core (ckOfGk s.cur)).t n

/-- A matrix push. -/
def State.mxPush (s : State) (st : BitVec 3) (kind reg bank : Nat) (desc : BitVec 128) (opnd : Word)
    (chk : State → Option (Nat × W32 × Word)) : State :=
  s.push st (pushOps [reg, bank, desc.toNat, opnd.toNat]) chk State.mxRoom (fun s => s.mxPut kind reg bank desc opnd)

def bankFmts : List Nat := [1, 3, 4, 5, 6, 7]
def aFmts : List Nat := [1, 3, 4, 7]
def outFmts : List Nat := [0, 1, 11]

/-- BLOAD, 11:R299: pushes the load of a bank. -/
def execBload (st : BitVec 3) (j : BitVec 1) (n : BitVec 4) (b : BitVec 5) (s : State) : Outcome :=
  let t := s.tdesc n.toNat
  .next (s.mxPush st 0 j.toNat j.toNat t (s.regs.gangOp b.toNat) (fun s => s.mxChk none none (some t) bankFmts))

/-- MZERO, 11:R300: pushes the clearing of a tile with a new Ez. -/
def execMzero (st : BitVec 3) (k : BitVec 3) (a : BitVec 5) (s : State) : Outcome :=
  let v := s.regs.gangOp a.toNat
  .next (s.mxPush st 1 k.toNat 0 0#128 v (fun s => s.mxChk (some k.toNat) (some v) none []))

/-- MMA, 11:R300: pushes one 256-K step. -/
def execMma (st : BitVec 3) (k : BitVec 3) (n : BitVec 4) (j : BitVec 1) (s : State) : Outcome :=
  let t := s.tdesc n.toNat
  .next (s.mxPush st 2 k.toNat j.toNat t 0#64 (fun s => s.mxChk (some k.toNat) none (some t) aFmts))

/-- MMAS, 11:R301: pushes a step whose present blocks the sparsity queue gives. -/
def execMmas (st : BitVec 3) (k : BitVec 3) (n : BitVec 4) (j : BitVec 1) (s : State) : Outcome :=
  let t := s.tdesc n.toNat
  .next (s.mxPush st 3 k.toNat j.toNat t 0#64 (fun s => s.mxChk (some k.toNat) none (some t) aFmts))

/-- MRD, 11:R303: pushes the reading out of a tile. -/
def execMrd (st : BitVec 3) (k : BitVec 3) (n : BitVec 4) (s : State) : Outcome :=
  let t := s.tdesc n.toNat
  .next (s.mxPush st 4 k.toNat 0 t 0#64 (fun s => s.mxChk (some k.toNat) none (some t) outFmts))

/-- MWT, 11:R304: pushes the writing back of a tile. -/
def execMwt (st : BitVec 3) (k : BitVec 3) (n : BitVec 4) (s : State) : Outcome :=
  let t := s.tdesc n.toNat
  .next (s.mxPush st 5 k.toNat 0 t 0#64 (fun s => s.mxChk (some k.toNat) none (some t) outFmts))

/-- MFLAG, 11:R305: holds the gang until the tile's earlier commands have completed and writes its flags. -/
def execMflag (st : BitVec 3) (d : BitVec 5) (k : BitVec 3) (s : State) : Outcome :=
  .next (s.pushAsk st (pushOps [k.toNat]) (fun s => s.mxChk (some k.toNat) none none []) State.mxRoom
    (fun s => s.mxPut 6 k.toNat 0 0#128 0#64)
    (fun res s => s.holdW d.toNat (s.regs.active.map (fun l => (l, BitVec.ofNat 64 (res.getD 0 0))))))

/-! ## Block fixed point (05:R137, R138) -/

/-- The exponent that an element of a format gives its block: none for zero. -/
def elemExp (f : Nat) : FVal → Option Int
  | .fin _ m e => if m = 0 then none else some (max (floorLog2 (scaleNum m e) (scaleDen e)) (fmtP f).emin)
  | _ => none

/-- One 32-element block in block fixed point: its integers, its weight, and whether it holds an Inf or NaN. -/
def blockFix (f w : Nat) (xs : List Nat) : List Int × Int × Bool :=
  if f = 7 then (xs.map (fun x => sintN x 8), 0, false)
  else
    let vs := xs.map (unpack f)
    let bad := vs.any (fun v => v.isNan || v.isInf)
    let eb := vs.foldl (fun m v => match elemExp f v with
      | some e => max m e
      | none => m) (fmtP f).emin
    let sh : Int := (w : Int) - 2 - eb
    (vs.map (fun v => match v with
      | .fin s m e => rneScaled (if s then -(m : Int) else m) (e + sh)
      | _ => 0), eb - ((w : Int) - 2), bad)

/-- Width of an A format, and of a B format held by R137. -/
def fixW (f : Nat) : Nat := if f = 1 then 16 else if f = 7 then 8 else 12

/-- Eight 32-element groups of a row of 256. -/
def groups8 (xs : List Nat) : List (List Nat) := (List.range 8).map (fun g => (xs.drop (32 * g)).take 32)

/-- A row padded with zeros to 256 elements. -/
def pad256 (xs : List Nat) : List Nat := (xs ++ List.replicate 256 0).take 256

/-- A column of a bank (05:R138). -/
def bankCol (fmt : Nat) (xs : List Nat) (scales : List (BitVec 16)) : BankCol :=
  let gs := groups8 (pad256 xs)
  if fmt = 5 ∨ fmt = 6 then
    { q := gs.map (fun g => g.map (fun x => sintN x (fmtBits fmt))), eb := List.replicate 8 0, scale := scales
      nan := scales.any (fun v => (unpack 1 v.toNat).isNan || (unpack 1 v.toNat).isInf) }
  else
    let bs := gs.map (blockFix fmt (fixW fmt))
    { q := bs.map (fun b => b.1), eb := bs.map (fun b => b.2.1), scale := List.replicate 8 0x3f80#16
      nan := bs.any (fun b => b.2.2) }

/-! ## Accumulating (05:R139, R140) -/

/-- `ACC96_NAN` (05:R140). -/
def acc96Nan : BitVec 96 := BitVec.ofNat 96 (2 ^ 95)

/-- The integer that one contribution adds: `rne(P * 2^(EA + EB) * s * 2^-Ez)`. -/
def contribution (p : Int) (e : Int) (scale : BitVec 16) (ez : Int) : Int :=
  match unpack 1 scale.toNat with
  | .fin s m g => rneScaled (if s then -(p * m) else p * m) (e + g - ez)
  | _ => 0

/-- One element after the contributions of some groups: element, NaN flag, overflow flag. `blks` holds for each present
group its number, the integers and the weight of A. -/
def contribute (ez : Int) (nan : Bool) (col : BankCol) (blks : List (Nat × List Int × Int)) (z : BitVec 96) :
    BitVec 96 × Bool × Bool :=
  blks.foldl (fun acc b =>
    if nan then (acc96Nan, true, acc.2.2)
    else if acc.1 = acc96Nan then acc
    else
      let p := ((b.2.1.zip (col.q.getD b.1 [])).map (fun e => e.1 * e.2)).foldl (· + ·) 0
      let r := accAdd 96 acc.1 (contribution p (b.2.2 + col.eb.getD b.1 0) (col.scale.getD b.1 0x3f80#16) ez)
      (r.1, acc.2.1, acc.2.2 || r.2)) (z, false, false)

/-- Element n of row m of a tile. -/
def ZTile.get (z : ZTile) (m n : Nat) : BitVec 96 := (z.rows.getD m []).getD n 0#96

/-- A tile with the first rows replaced. -/
def ZTile.setRows (z : ZTile) (f : Nat → Option (List (BitVec 96))) : ZTile :=
  { z with rows := (List.range 16).map (fun m => (f m).getD ((List.range 256).map (fun n => z.get m n))) }

/-- One K step of a tile: `arow` gives the present blocks of a row and whether the row is NaN (11:R300, R301, 05:R139). -/
def ZTile.step (z : ZTile) (bank : Bank) (rows : Nat) (arow : Nat → List (Nat × List Int × Int) × Bool) : ZTile :=
  let new := (List.range 16).map (fun m =>
    if m < rows then
      let a := arow m
      (List.range 256).map (fun n =>
        let col := bank.cols.getD n {}
        contribute z.ez (a.2 || col.nan) col a.1 (z.get m n))
    else (List.range 256).map (fun n => (z.get m n, false, false)))
  { z with rows := new.map (fun r => r.map (fun x => x.1))
           nan := z.nan || new.any (fun r => r.any (fun x => x.2.1))
           ovf := z.ovf || new.any (fun r => r.any (fun x => x.2.2)) }

/-! ## Starting a command (11:R297 to R304) -/

/-- Core key of core i of a cluster. -/
def ckOfClk (clk i : Nat) : Nat := clk * 8 + i

/-- The rows of a tile as ranges: address and bytes of each of the first `n` rows of `c` elements. -/
def tileRanges (t : BitVec 128) (n c : Nat) : List (Nat × Nat) :=
  if c = 0 then []
  else (List.range n).map (fun r => (tdAddr t + r * tdStride t, rowBytes c (fmtBits (tdFmt t))))

/-- The checks of several ranges in order, each with its own places. -/
def State.engRanges (s : State) (ck : Nat) (wr win : Bool) (allow : Space → Bool) :
    List (Nat × Nat) → Except EngChk (List (List (Nat × Nat × Place)))
  | [] => .ok []
  | (a, n) :: t =>
    match s.engRange ck a n wr win allow with
    | .ok ps =>
      (match s.engRanges ck wr win allow t with
       | .ok l => .ok (ps :: l)
       | e => e)
    | e => .error e

/-- What starting a command leads to: it starts with new state, array cycles, latency to its completion and bytes to write;
it fails its checks with detail, cause and address; or it waits at a stage-2 fault. -/
inductive MxStart where
  | run (s : State) (cycles : Nat) (bytes : List (Nat × Byte))
  | fail (detail cause va : Nat)
  | held (va ipa : Nat) (wr table perm : Bool)

/-- A failed range as the outcome of a start. -/
def mxFail (detail : Nat) (wr : Bool) : EngChk → MxStart
  | .bad va _ c => .fail detail c va
  | .stage2 va ipa t p => .held va ipa wr t p
  | .ok _ => .fail detail 0 0

/-- Ceiling division by 256, at least m (11:R302; log 19). -/
def arrayCycles (m n : Nat) : Nat := max m ((n + 255) / 256)

/-- `bload` (11:R299). -/
def State.startBload (s : State) (ck : Nat) (c : MxCmd) : MxStart :=
  let t := c.desc
  let f := tdFmt t
  let rows := min 256 (tdRows t)
  let cols := min 256 (tdCols t)
  let cx := s.runCx (slOfCk ck)
  let scaled := f = 5 ∨ f = 6
  let groups := (cols + 31) / 32
  let sRanges := if scaled then
      (List.range rows).flatMap (fun n => (List.range groups).map (fun g => ((c.opnd.toNat + 2 * (8 * n + g)) % 2 ^ 64, 2)))
    else []
  match s.engRanges ck false false plainSpace (tileRanges t rows cols) with
  | .error e => mxFail 1 false e
  | .ok ps =>
    match s.engRanges ck false false plainSpace sRanges with
    | .error e => mxFail 2 false e
    | .ok ss =>
      let rowsB := ps.map (fun p => s.engBytes cx p)
      let sc := ss.map (fun p => BitVec.ofNat 16 (leNat (s.engBytes cx p)))
      let col (n : Nat) : BankCol :=
        let xs := rowElems (rowsB.getD n []) (fmtBits f) (if n < rows then cols else 0)
        bankCol f xs ((List.range 8).map (fun g =>
          if scaled ∧ n < rows ∧ g < groups then sc.getD (n * groups + g) 0x3f80#16 else 0x3f80#16))
      let s := s.engNote ck false (ps.flatten ++ ss.flatten)
      let s := s.modCluster (clkOfCk ck) (fun u =>
        { u with banks := tput u.banks c.bank { fmt := f, cols := (List.range 256).map col } })
      .run s (arrayCycles 256 ((rowsB.map List.length).foldl (· + ·) 0 + 2 * sRanges.length)) []

/-- A planes and B factors (11:R302, 01:R17). -/
def aPlanes (f : Nat) : Nat := if f = 1 then 16 else if f = 7 then 8 else 12
def bFactor (f : Nat) : Nat := if f = 5 ∨ f = 6 then 1 else if f = 7 then 2 else if f = 1 then 4 else 3

/-- Numbers of the set bits of a sparsity entry. -/
def presentBlocks (m : Nat) : List Nat := (List.range 8).filter (fun g => nbits m g 1 = 1)

/-- `mma` with every block, or `mmas` with the present ones: `mask` says which (11:R300, R301). -/
def State.startMma (s : State) (ck : Nat) (c : MxCmd) (mask : Nat) : MxStart :=
  let t := c.desc
  let f := tdFmt t
  let pres := presentBlocks mask
  let rows := min 16 (tdRows t)
  let cols := min (32 * pres.length) (tdCols t)
  let cx := s.runCx (slOfCk ck)
  let u := s.cluster (clkOfCk ck)
  let bank := tget {} u.banks c.bank
  let full := 4 * aPlanes f * bFactor bank.fmt
  let cycles := if c.kind = 2 then full else if pres.isEmpty then 1 else (full * pres.length + 7) / 8
  match s.engRanges ck false false (fun sp => sp == .tcm || sp == .scr) (tileRanges t rows cols) with
  | .error e => mxFail 1 false e
  | .ok ps =>
    let rowsB := ps.map (fun p => s.engBytes cx p)
    let arow (m : Nat) : List (Nat × List Int × Int) × Bool :=
      let gs := groups8 (pad256 (rowElems (rowsB.getD m []) (fmtBits f) cols))
      let bs := (List.range pres.length).map (fun i => (pres.getD i 0, blockFix f (fixW f) (gs.getD i [])))
      (bs.map (fun b => (b.1, b.2.1, b.2.2.1)), bs.any (fun b => b.2.2.2))
    let z := (tget {} u.z c.reg).step bank rows arow
    .run ((s.engNote ck false ps.flatten).modCluster (clkOfCk ck) (fun u => { u with z := tput u.z c.reg z })) cycles []

/-- The bytes of one element read out (11:R303, 05:R142). -/
def zBytes (f m : Nat) (ez : Int) (v : BitVec 96) : List Byte :=
  if f = 11 then leBytes 12 v.toNat
  else leBytes (fmtBits f / 8) (if v = acc96Nan then nanF f else (roundIntScaled f m v.toInt ez).1)

/-- `mrd` (11:R303). -/
def State.startMrd (s : State) (ck : Nat) (c : MxCmd) : MxStart :=
  let t := c.desc
  let rows := min 16 (tdRows t)
  let cols := min 256 (tdCols t)
  let z := tget {} (s.cluster (clkOfCk ck)).z c.reg
  match s.engRanges ck true false plainSpace (tileRanges t rows cols) with
  | .error e => mxFail 3 true e
  | .ok ps =>
    let bytes := ((List.range rows).zip ps).flatMap (fun e =>
      let bs := (List.range cols).flatMap (fun n => zBytes (tdFmt t) c.frm.toNat z.ez (z.get e.1 n))
      let locs := e.2.flatMap (fun p => (List.range p.2.1).map (fun i => p.2.2.loc + i))
      locs.zip bs)
    .run (s.engNote ck true ps.flatten) (arrayCycles 16 bytes.length) bytes

/-- One element written back: element, NaN flag, overflow flag (11:R304). -/
def mwtElem (f : Nat) (ez : Int) (x : Nat) : BitVec 96 × Bool × Bool :=
  if f = 11 then (BitVec.ofNat 96 x, BitVec.ofNat 96 x == acc96Nan, false)
  else
    match unpack f x with
    | .nan _ => (acc96Nan, true, false)
    | .inf s => (BitVec.ofInt 96 (if s then -(2 ^ 95 - 1) else 2 ^ 95 - 1), false, true)
    | .fin s m e =>
      let r := accAdd 96 0#96 (rneScaled (if s then -(m : Int) else m) (e - ez))
      (r.1, false, r.2)

/-- `mwt` (11:R304). The spec says that an element which holds `ACC96_NAN` keeps it until `mzero` (05:R140), and that `mwt` replaces the elements
it reads; the model lets it replace those too (log 50). -/
def State.startMwt (s : State) (ck : Nat) (c : MxCmd) : MxStart :=
  let t := c.desc
  let f := tdFmt t
  let rows := min 16 (tdRows t)
  let cols := min 256 (tdCols t)
  let cx := s.runCx (slOfCk ck)
  let u := s.cluster (clkOfCk ck)
  let z := tget {} u.z c.reg
  match s.engRanges ck false false plainSpace (tileRanges t rows cols) with
  | .error e => mxFail 1 false e
  | .ok ps =>
    let new := ps.map (fun p => (rowElems (s.engBytes cx p) (fmtBits f) cols).map (mwtElem f z.ez))
    let z' := z.setRows (fun m =>
      if m < new.length then
        some ((List.range 256).map (fun n => if n < cols then ((new.getD m []).getD n (0#96, false, false)).1 else z.get m n))
      else none)
    let z' := { z' with nan := z.nan || new.any (fun r => r.any (fun x => x.2.1))
                        ovf := z.ovf || new.any (fun r => r.any (fun x => x.2.2)) }
    .run ((s.engNote ck false ps.flatten).modCluster (clkOfCk ck) (fun u => { u with z := tput u.z c.reg z' }))
      (arrayCycles 16 (rows * rowBytes cols (fmtBits f))) []

/-- The commands that name a tile. -/
def MxCmd.namesTile (c : MxCmd) (k : Nat) : Bool := c.kind != 0 && c.reg == k

/-- The head of a core's queue may start: `mmas` needs a sparsity entry, `mrd` and `mflag` a completed tile, and a bank is
loaded or used whole (11:R297, R298, R303, 16:R379). -/
def State.mxReady (s : State) (ck : Nat) (c : MxCmd) : Bool :=
  let u := s.cluster (clkOfCk ck)
  let usesBank (x : MxCmd) : Bool := (x.kind == 2 || x.kind == 3) && x.bank == c.bank
  let loads (x : MxCmd) : Bool := x.kind == 0 && x.bank == c.bank
  (match c.kind with
   | 0 => u.runs.all (fun r => !usesBank r.cmd && !loads r.cmd)
   | 2 => u.runs.all (fun r => !loads r.cmd)
   | 3 => u.runs.all (fun r => !loads r.cmd) && !(s.core ck).spq.isEmpty
   | 1 | 5 => true
   | _ => u.runs.all (fun r => !(r.core == ck % 8 && r.cmd.namesTile c.reg)))

/-- A command names global memory or shared SRAM, which its unit reaches over the mesh (04:R123). -/
def MxCmd.beyond (c : MxCmd) : Bool :=
  let out (a : Nat) : Bool := rangeOf a == 3 || rangeOf a == 4
  match c.kind with
  | 0 => out (tdAddr c.desc) || out c.opnd.toNat
  | 1 | 6 => false
  | _ => out (tdAddr c.desc)

/-- Starts one command on the state whose queue it has left. -/
def State.mxStartCmd (s : State) (ck : Nat) (c : MxCmd) : MxStart :=
  match c.kind with
  | 0 => s.startBload ck c
  | 1 =>
    .run (s.modCluster (clkOfCk ck) (fun u =>
      { u with z := tput u.z c.reg { ez := c.opnd.toInt } })) 16 []
  | 2 => s.startMma ck c 255
  | 3 => s.startMma ck c ((s.core ck).spq.headD 0#16).toNat
  | 4 => s.startMrd ck c
  | 5 => s.startMwt ck c
  | _ => .run s 1 []

/-- The value of `mflag` (11:R305). -/
def ZTile.flags (z : ZTile) : Nat :=
  (if z.nan then 1 else 0) + (if z.ovf then 2 else 0) + patN z.ez 10 * 2 ^ 16

/-- Records that a command runs: its array time and its completion 24 cycles after it, with what its record or answer says of its tile as the
command leaves it (11:R302, R305, R307). -/
def State.mxRun (s : State) (ck : Nat) (c : MxCmd) (cycles status : Nat) (bytes : List (Nat × Byte)) : State :=
  s.modCluster (clkOfCk ck) (fun u =>
    let fl := (tget {} u.z c.reg).flags
    { u with arrayFree := s.now + cycles
             runs := u.runs ++ [{ core := ck % 8, cmd := c, cycles := cycles, free := s.now + cycles
                                  done := s.now + cycles + 24, status := status, bytes := bytes
                                  flags := fl % 4, seen := BitVec.ofNat 64 fl }] })

/-- Takes the head of a core's unit queue, and for `mmas` its sparsity entry. -/
def State.mxTake (s : State) (ck : Nat) (c : MxCmd) : State :=
  let s := s.modCluster (clkOfCk ck) (fun u =>
    { u with mxqs := tput u.mxqs (ck % 8) ((tget [] u.mxqs (ck % 8)).drop 1), turn := u.turn - 1 })
  let s := if c.kind = 3 then s.modCore ck (fun x => { x with spq := x.spq.drop 1 }) else s
  let s := s.mxMove ck 2
  -- a turn ends early when its queue empties
  if (tget [] (s.cluster (clkOfCk ck)).mxqs (ck % 8)).isEmpty then
    s.modCluster (clkOfCk ck) (fun u => { u with turn := 0 })
  else s

/-- Counts recomputed steps of a core's matrix unit in the health counter of its die (24:R466). -/
def State.countMx (s : State) (ck n : Nat) : State :=
  if n = 0 then s
  else s.modDie (s.clusDie (slOfCk ck) (clkOfCk ck % 1024)) (fun d => { d with mxrx := (d.mxrx + n) % 2 ^ 64 })

/-- Starts the head command of the core visited: none where a stage-2 fault holds it, with the fault recorded (11:R297,
20:R430, R431). -/
def State.mxGo (s : State) (ck : Nat) (c : MxCmd) : Option State × State :=
  let err := (s.cluster (clkOfCk ck)).mxErr
  match s.mxStartCmd ck c with
  | .held va ipa wr t p => (none, s.stage2Record (.matrix ck) c.who.gk va ipa wr t p true)
  | .fail d cause va =>
    let s := (s.mxTake ck c).recordFault c.who cause d c.who.act (BitVec.ofNat 64 va)
    (some (s.mxRun ck c 1 (d * 256 + cause) []), s)
  | .run t cycles bytes =>
    if (c.kind = 2 ∨ c.kind = 3) ∧ 3 ≤ err then
      -- the third mismatch of a command ends it with no contribution (20:R431)
      let s := (s.mxTake ck c).modCluster (clkOfCk ck) (fun u => { u with mxErr := err - 3 })
      let s := (s.recordFault c.who 0x12 c.bank c.who.act (BitVec.ofNat 64 c.reg)).countMx ck 2
      (some (s.mxRun ck c cycles (c.bank * 256 + 0x12) []), s)
    else
      let t := if c.kind = 2 ∨ c.kind = 3 then (t.modCluster (clkOfCk ck) (fun u => { u with mxErr := 0 })).countMx ck err else t
      (some ((t.mxTake ck c).mxRun ck c cycles 0 bytes), s)

/-- One visit of the unit's round (07:R203): a core with a startable head and a command left in its turn starts it;
otherwise the turn ends and the next core is visited. -/
def State.mxVisit (s : State) (clk : Nat) : Nat → State
  | 0 => s
  | n + 1 =>
    let u := s.cluster clk
    let ck := ckOfClk clk u.rr
    let skip (s : State) : State :=
      let i := (u.rr + 1) % 8
      State.mxVisit (s.modCluster clk (fun u => { u with rr := i, turn := (s.core (ckOfClk clk i)).mxwt })) clk n
    match tget [] u.mxqs u.rr with
    | [] => skip s
    | c :: _ =>
      if u.turn = 0 ∨ s.mxReady ck c = false ∨ s.s2Held (slOfCk ck) (.matrix ck) = true ∨ (s.injOff (slOfCk ck) && c.beyond) = true then skip s
      else
        match s.mxGo ck c with
        | (some t, _) => t
        | (none, t) => skip t

/-- Moves what the queues of a cluster's cores hold for its unit. -/
def State.mxMoveAll (s : State) (clk : Nat) : State := (List.range 8).foldl (fun t j => t.mxMove (ckOfClk clk j) 2) s

/-- MX_COMMAND_START, 24:R470, 11:R297: with the array free, the unit starts a core's next command in its round. -/
def execMxCommandStart (sl clus : Nat) (s : State) : Outcome :=
  let clk := clkOf sl clus
  let s := s.mxMoveAll clk
  let u := s.cluster clk
  .next (if u.arrayFree ≤ s.now ∧ u.mxqs.any (fun e => !e.2.isEmpty) ∧ s.preempted sl = false ∧ s.gateOpen = true then
      s.mxVisit clk 9 else s)

/-- The record of a matrix command (11:R307). -/
def mxRec (r : MxRun) (flags : Nat) : Rec :=
  { lo := BitVec.ofNat 64 (r.cmd.seq % 2 ^ 32 + r.cmd.kind * 2 ^ 32 + r.cmd.reg * 2 ^ 40 + flags * 2 ^ 48)
    hi := BitVec.ofNat 64 (r.cycles % 2 ^ 32 + r.status * 2 ^ 48) }

/-- MX_COMMAND_COMPLETE, 11:R302: the oldest started command whose time has come completes: its bytes are written, and a
record or the values of `mflag` are given. Its bytes do not leave the cluster while the partition injects nothing (04:R123). -/
def execMxCommandComplete (sl clus : Nat) (s : State) : Outcome :=
  let clk := clkOf sl clus
  let u := s.cluster clk
  .next (match u.runs with
    | [] => s
    | r :: rest =>
      if s.now < r.done ∨ s.engHeld r.cmd.who (secsOf r.bytes) ∨ (s.injOff sl && r.cmd.beyond) = true then s
      else
        let s := s.setCluster clk { u with runs := rest }
        let s := s.engWrite sl r.bytes
        if r.cmd.kind = 0 then s.writeRec r.cmd.who 1 (mxRec r 0)
        else if r.cmd.kind = 4 ∨ r.cmd.kind = 5 then s.writeRec r.cmd.who 1 (mxRec r r.flags)
        else if r.cmd.kind = 6 then s.answer r.cmd.who [r.seen.toNat]
        else s)

end Sys2Proof.Machine
end

