-- ==== Sys2Proof/Machine/Sf.lean ====
section
/-!
DEFINITION. Stream fabrics: graphs, firings, SF instructions, loads and calls (13:R333 to R355, 20:R435, R436).
-/

namespace Sys2Proof.Machine

/-! ## Graphs (13:R335 to R338, R355) -/

def State.fab (s : State) (f : Nat) : Fabric := tget {} s.fabs f
def State.setFab (s : State) (f : Nat) (x : Fabric) : State := { s with fabs := tput s.fabs f x }

/-- The graph in a slot of a fabric. -/
def Fabric.graph (x : Fabric) (slot : Nat) : Option Graph := (x.slots.find? (fun e => e.1 == slot)).map (fun e => e.2)

/-- Input and output sectors of a firing (13:R335). -/
def ratioIn : Nat → Nat
  | 1 => 2
  | 2 => 4
  | _ => 1
def ratioOut : Nat → Nat
  | 3 => 2
  | 4 => 4
  | _ => 1

/-- Fields of a node word (13:R337). -/
def ndOp (w : Word) : Nat := wbits w 59 5
def ndIn (w : Word) (i : Nat) : Nat := wbits w (50 - 9 * i) 9
def ndBank (w : Word) : Nat := wbits w 29 3
def ndFmt (w : Word) : Nat := wbits w 25 4
def ndCidx (w : Word) : Nat := wbits w 19 6
def ndImm (w : Word) : Nat := wbits w 11 8
def ndOut (w : Word) : Bool := wbits w 0 1 == 1
def ndPort (w : Word) : Nat := wbits w 1 2
def ndSat (w : Word) : Bool := wbits w 3 1 == 1
def ndPred (w : Word) : Bool := wbits w 4 1 == 1

/-- What the nodes of a firing see: fabric, graph, input sectors as lanes, sector position, and whether it is a call. -/
structure Firing where
  f : Nat
  graph : Graph
  ports : List (List Nat)
  pos : Nat
  call : Bool

/-- Lane l of a selected input (13:R338). -/
def Firing.input (x : Firing) (res : List (List Nat)) (sel l : Nat) : Nat :=
  let i := sel % 128
  match sel / 128 with
  | 0 => (res.getD i []).getD l 0
  | 1 => (x.ports.getD i []).getD l 0
  | 2 => (tget 0#32 x.graph.consts i).toNat
  | _ =>
    match i with
    | 0 => l
    | 1 => x.pos % 2 ^ 32
    | 2 => if x.call then 0xffff_ffff else 0
    | _ => x.f

/-- An I32 result: it wraps, or saturates with `sat` (13:R339). -/
def i32res (sat : Bool) (v : Int) : Nat :=
  if sat then patN (if v < -(2 ^ 31) then -(2 ^ 31) else if 2 ^ 31 - 1 < v then 2 ^ 31 - 1 else v) 32 else patN v 32

/-- A mask lane. -/
def laneMask (b : Bool) : Nat := if b then 0xffff_ffff else 0

/-- The lane operations of 13:R340 that touch no bank and no other lane. -/
def laneOp (op fmt : Nat) (sat : Bool) (a b c : Nat) : Nat :=
  let (x, y, z) := (sintN a 32, sintN b 32, sintN c 32)
  let int := fmt == 9
  match op with
  | 1 => if int then i32res sat (x + y) else (fAdd 0 a b).1
  | 2 => if int then i32res sat (x - y) else (fSub 0 a b).1
  | 3 => if int then i32res sat (x * y) else (fMul 0 a b).1
  | 4 => if int then i32res sat (x * y + z) else (fFused false false 0 a b c).1
  | 5 => if int then patN (min x y) 32 else (fMinMax false a b).1
  | 6 => if int then patN (max x y) 32 else (fMinMax true a b).1
  | 7 => if int then i32res sat x.natAbs else (fAbs a).1
  | 8 => a.land b
  | 9 => a.lor b
  | 10 => a.xor b
  | 11 => a * 2 ^ (b % 32) % 2 ^ 32
  | 12 => a / 2 ^ (b % 32)
  | 13 => patN (x / (2 ^ (b % 32) : Nat)) 32
  | 14 => laneMask (if int then decide (x < y) else (fCmpLt a b).1)
  | 15 => laneMask (if int then decide (x = y) else (fCmpEq a b).1)
  | 16 => if c ≠ 0 then a else b
  | _ => a

/-- Width of a format that CVT names, none for the others (13:R341). -/
def cvtWidth : Nat → Option Nat
  | 0 | 9 => some 32
  | 1 | 2 => some 16
  | 3 | 4 => some 8
  | _ => none

/-- A source field as F32 (05:R133). -/
def cvtToF32 (sf x : Nat) : Nat :=
  if sf = 9 then (intToF32 0 (sintN x 32)).1 else if sf = 0 then (if (unpack 0 x).isNan then nan32 else x) else (widen sf x).1

/-- One conversion under RNE: through F32, the one format that 05:R133 converts every other from and to (DEDUCED, log 23). -/
def cvtVal (sf tf : Nat) (sat : Bool) (x : Nat) : Nat :=
  if sf = 9 ∧ tf = 9 then x
  else
    let v := cvtToF32 sf x
    if tf = 9 then patN (f32ToInt 0 (-(2 ^ 31)) (2 ^ 31 - 1) v).1 32
    else if tf = 0 then v
    else (narrow tf 0 sat v).1

/-- CVT of one lane (13:R341). -/
def cvtLane (imm tf : Nat) (sat : Bool) (a b : Nat) : Nat :=
  let sf := nbits imm 0 4
  let k := nbits imm 4 2
  let sw := (cvtWidth sf).getD 32
  let tw := (cvtWidth tf).getD 32
  let v := cvtVal sf tf sat (if sw = 32 then a else nbits a (sw * k) sw)
  if tw = 32 then v else insBits b v (tw * k) tw

/-- Bytes of the input sectors, in order. -/
def Firing.bytes (x : Firing) : List Byte := x.ports.flatMap (fun p => p.flatMap (leBytes 4))

/-- Key of word i of a bank, addressed modulo 16,384 (13:R340). -/
def bankKey (bank i : Nat) : Nat := 16384 * bank + i % 16384

/-- The BF16 scale at element E of DQG4 (13:R342). -/
def dqScale (bk : Tab W32) (bank e : Nat) : Nat :=
  let j := e / 32 % 32768
  nbits (tget 0#32 bk (bankKey bank (j / 2))).toNat (16 * (j % 2)) 16

/-- One lane of DQG4 (g3 = false) or DQG3 (13:R342). -/
def Firing.dq (x : Firing) (g3 : Bool) (bs : List Byte) (bk : Tab W32) (bank imm l : Nat) : Nat :=
  let e := 128 * nbits imm 1 6 + 2 * l + nbits imm 0 1
  if 512 * x.ports.length ≤ e then 0
  else if g3 then
    let sec := (bs.drop (256 * (e / 512))).take 256
    let b := 3 * (e % 512)
    let q := nbits (leNat ((sec.drop (b / 8)).take 2)) (b % 8) 3
    groupToF32 (sintN q 3) (leNat ((sec.drop (192 + 2 * (e % 512 / 32))).take 2))
  else
    let q := nbits (bs.getD (e / 2) 0#8).toNat (4 * (e % 2)) 4
    groupToF32 (sintN q 4) (dqScale bk bank (512 * x.pos + e))

/-- CRC-32C of bytes, continued from a value (13:R340). -/
def crcBit (c : Nat) : Nat := if c % 2 = 1 then (c / 2).xor 0x82f6_3b78 else c / 2
def crcByte (c : Nat) (b : Byte) : Nat := (List.range 8).foldl (fun c _ => crcBit c) (c.xor b.toNat)
def crc32c (seed : Nat) (bs : List Byte) : Nat := (bs.foldl crcByte (seed.xor 0xffff_ffff)).xor 0xffff_ffff

/-- One node over its 64 lanes: its result and the banks after it (13:R340). -/
def Firing.node (x : Firing) (res : List (List Nat)) (bk : Tab W32) (w : Word) : List Nat × Tab W32 :=
  let ls := List.range 64
  let a (l : Nat) : Nat := x.input res (ndIn w 0) l
  let b (l : Nat) : Nat := x.input res (ndIn w 1) l
  let c (l : Nat) : Nat := x.input res (ndIn w 2) l
  let const := (tget 0#32 x.graph.consts (ndCidx w)).toNat
  let k := const % 2 ^ 14
  let on (l : Nat) : Bool := !ndPred w || c l != 0
  -- the lanes in ascending order, each on the bank that the ones before it left
  let each (f : Nat → Nat → Option Nat) (r : Nat → Nat → Nat) : List Nat × Tab W32 :=
    ls.foldl (fun acc l =>
      let key := bankKey (ndBank w) (k + a l)
      let old := (tget 0#32 acc.2 key).toNat
      match f l old with
      | none => (acc.1 ++ [r l old], acc.2)
      | some v => (acc.1 ++ [r l v], tput acc.2 key (BitVec.ofNat 32 v))) ([], bk)
  match ndOp w with
  | 17 => (ls.map (fun l => cvtLane (ndImm w) (ndFmt w) (ndSat w) (a l) (b l)), bk)
  | 18 =>
    let bs := x.bytes
    (ls.map (x.dq false bs bk (ndBank w) (ndImm w)), bk)
  | 19 =>
    let bs := x.bytes
    (ls.map (x.dq true bs bk (ndBank w) (ndImm w)), bk)
  | 20 => (ls.map (fun l =>
      insBits (b l) (patN (groupOf 0 (a l) (c l) (-8) 7).1 4) (4 * nbits (ndImm w) 0 3) 4), bk)
  | 21 => each (fun l old => if on l then some (laneOp 1 (ndFmt w) false old (b l) 0) else none) (fun _ v => v)
  | 22 =>
    let v := if ndFmt w = 9 then ls.foldl (fun acc l => (acc + a l) % 2 ^ 32) 0 else (fRedAdd 0 (ls.map a)).1
    (ls.map (fun _ => v), bk)
  | 23 => (ls.map (fun l => (tget 0#32 bk (bankKey (ndBank w) (k + a l % 2 ^ nbits (ndImm w) 0 4))).toNat), bk)
  | 24 =>
    let v := crc32c const (ls.flatMap (fun l => leBytes 4 (a l)))
    (ls.map (fun _ => v), bk)
  | 26 => (ls.map (fun l => (tget 0#32 bk (bankKey (ndBank w) (k + a l))).toNat), bk)
  | 27 => each (fun l _ => if on l then some (b l) else none) (fun l _ => b l)
  | op => (ls.map (fun l => laneOp op (ndFmt w) (ndSat w) (a l) (b l) (c l)), bk)

/-- The nodes in ascending order (13:R336, R344, R345). -/
def Firing.nodes (x : Firing) : List Word → List (List Nat) → Tab W32 → List (List Nat) × Tab W32
  | [], res, bk => (res, bk)
  | w :: t, res, bk =>
    let (r, bk) := x.node res bk w
    x.nodes t (res ++ [r]) bk

/-- The result of the node that drives a port. -/
def drives (ns : List Word) (res : List (List Nat)) (p : Nat) : List Nat :=
  match (ns.zip res).find? (fun e => ndOut e.1 && ndPort e.1 == p) with
  | some e => e.2
  | none => []

/-- One firing: its output sectors as lanes, and the banks after it (13:R336). -/
def Firing.run (x : Firing) (bk : Tab W32) : List (List Nat) × Tab W32 :=
  let (res, bk) := x.nodes x.graph.nodes [] bk
  ((List.range (ratioOut x.graph.ratio)).map (drives x.graph.nodes res), bk)

/-- The 64 lanes of each sector of some bytes (13:R333). -/
def sectorLanes (bs : List Byte) : Nat → List (List Nat)
  | 0 => []
  | n + 1 => (List.range 64).map (fun l => leNat ((bs.drop (4 * l)).take 4)) :: sectorLanes (bs.drop 256) n

/-! ## SF instructions (13:R350 to R352, 20:R435) -/

/-- The check of a control word: zero fields, slot, group, operand count and ownership (20:R435). -/
def State.sfChk (s : State) (kind : Nat) (ctl : Word) : Option (Nat × W32 × Word) :=
  let c := ctl.toNat
  let slot := if kind = 0 then nbits c 8 4 else nbits c 0 4
  let own := (s.vf (s.ctx (s.gangCx s.cur)).vf).slots
  let bad :=
    (if kind = 0 then nbits c 15 49 ≠ 0 ∨ nbits c 6 2 ≠ 0 ∨ 4 < nbits c 12 3 else nbits c 7 57 ≠ 0 ∨ 4 < nbits c 4 3)
      ∨ slot = 0 ∨ 8 < slot ∨ nbits own (slot - 1) 1 = 0
  if bad then some (0x10, s.regs.act, ctl) else none

/-- Calls at the head of a core's fabric queue go on to their fabrics; a frozen context starts none (13:R351, R352, 18:R400). -/
def State.sfMove (s : State) (ck : Nat) : Nat → State
  | 0 => s
  | n + 1 =>
    let c := s.core ck
    match c.fabq with
    | [] => s
    | x :: t =>
      if x.kind ≠ 0 ∨ s.frozen (slOfCk ck) ∨ s.injOff (slOfCk ck) = true then s
      else
        let f := wbits x.ctl 0 6
        let call : FabCall := { ck := ck, who := x.who, slot := wbits x.ctl 8 4, mbox := x.mbox
                                ops := x.ops.take (wbits x.ctl 12 3) }
        let fb := s.fab f
        State.sfMove ((s.setCore ck { c with fabq := t }).setFab f { fb with calls := fb.calls ++ [call] }) ck n

/-- A push into the core's fabric queue of four (13:R351). -/
def State.sfPush (s : State) (st : BitVec 3) (cmd : SfCmd) : State :=
  let ck := ckOfGk s.cur
  s.push st (pushOps ([cmd.mbox, cmd.ctl.toNat, cmd.addr.toNat] ++ cmd.ops.map BitVec.toNat))
    (fun s => s.sfChk cmd.kind cmd.ctl) (fun s => (s.core ck).fabq.length < 4)
    (fun s =>
      let s := s.modCore ck (fun c => { c with fabq := c.fabq ++ [{ cmd with who := s.pusher s.word }] })
      let s := if cmd.kind = 0 then s else s.owe 3
      s.sfMove ck 5)

/-- SFCALL, 13:R352: sends one firing with up to four operands to a fabric. -/
def execSfcall (st : BitVec 3) (d : BitVec 3) (a b : BitVec 5) (s : State) : Outcome :=
  let ops := (List.range 4).map (fun k => s.regs.gangOp (4 * d.toNat + k))
  .next (s.sfPush st { who := {}, kind := 0, mbox := b.toNat, ctl := s.regs.gangOp a.toNat, addr := 0#64, ops := ops })

/-- GLOAD, 13:R353: pushes the load of a graph object. -/
def execGload (st : BitVec 3) (a b : BitVec 5) (s : State) : Outcome :=
  .next (s.sfPush st
    { who := {}, kind := 1, mbox := 0, ctl := s.regs.gangOp b.toNat, addr := s.regs.gangOp a.toNat, ops := [] })

/-- GDROP, 13:R353: pushes the emptying of a slot. -/
def execGdrop (st : BitVec 3) (b : BitVec 5) (s : State) : Outcome :=
  .next (s.sfPush st { who := {}, kind := 2, mbox := 0, ctl := s.regs.gangOp b.toNat, addr := 0#64, ops := [] })

/-! ## Calls (13:R346, R352, 20:R436) -/

/-- The held results in order: those whose target takes them leave; the others stay. They come from no quad, so their source is the
number 2048, and their order is that of leaving (10:R281). -/
def State.sendHeld (s : State) : List (Nat × Nat × Word) → List (Nat × Nat × Word) → State × List (Nat × Nat × Word)
  | [], keep => (s, keep)
  | (ck, m, v) :: t, keep =>
    if !(s.core ck).takesMail m || keep.any (fun e => e.1 == ck) then s.sendHeld t (keep ++ [(ck, m, v)])
    else (s.modCore ck (fun c => { c with inbox := c.inbox ++ [{ mb := m, v := v, src := 2048 }] })).sendHeld t keep

/-- The input sectors of a call: operand k in lanes 2k and 2k + 1 of port 0, zeros elsewhere (13:R352). -/
def callPorts (n : Nat) (ops : List Word) : List (List Nat) :=
  let p := ops.flatMap (fun v => [wbits v 0 32, wbits v 32 32])
  (p ++ List.replicate (64 - p.length) 0) :: List.replicate (n - 1) (List.replicate 64 0)

/-- FABRIC_FIRING, 13:R336, R346, R352: the fabric's oldest call fires; its value goes to the mailbox, or is held while the
mail buffer is full. -/
def execFabricFiring (f : Nat) (s : State) : Outcome :=
  let x := s.fab f
  let (s, keep) := s.sendHeld x.held []
  let x := { x with held := keep }
  .next (match x.calls with
    | [] => s.setFab f x
    | c :: t =>
      match x.graph c.slot with
      | none => (s.setFab f { x with calls := t }).recordFault c.who 0x10 3 c.who.act (BitVec.ofNat 64 f)
      | some g =>
        let (out, bk) := ({ f := f, graph := g, ports := callPorts (ratioIn g.ratio) c.ops, pos := 0, call := true } :
          Firing).run x.bank
        let o := out.getD 0 []
        let v := BitVec.ofNat 64 (o.getD 0 0 + 2 ^ 32 * o.getD 1 0)
        let (s, keep) := s.sendHeld (x.held ++ [(c.ck, c.mbox, v)]) []
        s.setFab f { x with calls := t, bank := bk, held := keep })

/-! ## Graph objects (13:R343, R355) -/

/-- Whether an op reads input i. -/
def ndReads (w : Word) (i : Nat) : Bool :=
  match ndOp w with
  | 0 | 7 | 22 | 23 | 24 | 26 => i == 0
  | 4 | 16 | 20 => true
  | 17 => i == 0 || (i == 1 && cvtWidth (ndFmt w) != some 32)
  | 18 | 19 => false
  | 21 | 27 => i != 2 || ndPred w
  | _ => i != 2

/-- A selector that node n may read (13:R338). -/
def selOk (n inputs sel : Nat) : Bool :=
  let i := sel % 128
  match sel / 128 with
  | 0 => decide (i < n)
  | 1 => decide (i < inputs)
  | 2 => decide (i < 64)
  | _ => decide (i < 4)

/-- The format that an op allows (13:R340). -/
def ndFmtOk (op fmt : Nat) : Bool :=
  match op with
  | 1 | 2 | 3 | 4 | 5 | 6 | 7 | 14 | 15 | 21 | 22 => fmt == 0 || fmt == 9
  | 17 => (cvtWidth fmt).isSome
  | _ => fmt == 0

/-- The parameter that an op allows (13:R340 to R342). -/
def ndImmOk (op fmt imm : Nat) : Bool :=
  match op with
  | 17 =>
    let k := nbits imm 4 2
    let narrow (f : Nat) : Bool := match cvtWidth f with
      | some w => w == 32 || decide (k < 32 / w)
      | none => false
    nbits imm 6 2 == 0 && narrow (nbits imm 0 4) && narrow fmt
  | 18 | 19 => imm < 128
  | 20 => imm < 8
  | 23 => imm ≤ 14
  | _ => imm == 0

/-- A node that `gload` accepts as node n of a graph with some inputs and outputs and a bank mask (13:R343). `earlier` holds the
nodes below it. -/
def ndOk (n inputs outputs mask : Nat) (earlier : List Word) (w : Word) : Bool :=
  let op := ndOp w
  let bankOp := op == 18 || op == 21 || op == 23 || op == 26 || op == 27
  let cOp := op == 21 || op == 23 || op == 24 || op == 26 || op == 27
  let satOk := (decide (1 ≤ op) && decide (op ≤ 4) && ndFmt w == 9) || (op == 7 && ndFmt w == 9) || op == 17 || op == 20
  op < 28 && wbits w 8 3 == 0 && wbits w 5 3 == 0 && ndFmtOk op (ndFmt w) && ndImmOk op (ndFmt w) (ndImm w)
    && (if bankOp then nbits mask (ndBank w) 1 == 1 else ndBank w == 0) && (cOp || ndCidx w == 0)
    && (!ndSat w || satOk)
    && [0, 1, 2].all (fun i => if ndReads w i then selOk n inputs (ndIn w i) else ndIn w i == 0)
    && (op != 25 || ndIn w 1 / 128 == 0)
    && (!ndOut w || (decide (ndPort w < outputs) && earlier.all (fun v => !ndOut v || ndPort v != ndPort w)))

/-- The checks of the node words from number n on: the first bad one's offset. -/
def badNode (n inputs outputs mask : Nat) (earlier : List Word) : List Word → Option Nat
  | [] => none
  | w :: t => if ndOk n inputs outputs mask earlier w then badNode (n + 1) inputs outputs mask (earlier ++ [w]) t
    else some (320 + 8 * n)

/-- A bank-image entry: bank, length and offset (13:R355). -/
structure BankImage where
  bank : Nat
  len : Nat
  off : Nat

/-- The entries of the bank images: the accepted ones, or the offset of the first bad word. -/
def bankImages (mask : Nat) (seen : List Nat) (bs : List Byte) : Nat → Except Nat (List BankImage)
  | 0 => .ok []
  | n + 1 =>
    let i := 8 - (n + 1)
    let e := (bs.drop (1088 + 16 * i)).take 16
    let bank := leNat (e.take 1)
    let valid := leNat ((e.drop 1).take 1)
    let len := leNat ((e.drop 4).take 4)
    let at_ := 1088 + 16 * i
    if valid = 0 then
      (match (List.range 4).find? (fun k => leNat ((e.drop (4 * k)).take 4) != 0) with
       | some k => .error (at_ + 4 * k)
       | none => bankImages mask seen bs n)
    else if valid ≠ 1 ∨ 8 ≤ bank ∨ nbits mask bank 1 = 0 ∨ seen.contains bank ∨ leNat ((e.drop 2).take 2) ≠ 0 then .error at_
    else if len % 4 ≠ 0 ∨ 65536 < len then .error (at_ + 4)
    else
      match bankImages mask (bank :: seen) bs n with
      | .ok l => .ok ({ bank := bank, len := len, off := leNat ((e.drop 8).take 8) } :: l)
      | e => e

/-- A graph object of 1,216 bytes: the graph with its bank images, or the offset of its first bad word (13:R343, R355). A port
that no node drives is laid to the word of the ratio (DESIGN CHOICE, log 23). -/
def parseGraph (bs : List Byte) : Except Nat (Graph × List BankImage) :=
  let byte (i : Nat) : Nat := leNat ((bs.drop i).take 1)
  let nnode := byte 4
  let ratio := byte 5
  let wide := byte 6
  let mask := byte 7
  let nodes := (List.range 96).map (fun i => BitVec.ofNat 64 (leNat ((bs.drop (320 + 8 * i)).take 8)))
  let used := nodes.take nnode
  let (ni, no) := (ratioIn ratio, ratioOut ratio)
  if leNat (bs.take 4) ≠ 0x4752_4146 then .error 0
  else if nnode = 0 ∨ (if wide = 1 then 96 else 24) < nnode ∨ 4 < ratio ∨ 1 < wide then .error 4
  else if (List.range no).any (fun p => used.all (fun w => !ndOut w || ndPort w != p)) then .error 4
  else
    match (List.range 14).find? (fun k => leNat ((bs.drop (8 + 4 * k)).take 4) != 0) with
    | some k => .error (8 + 4 * k)
    | none =>
      match badNode 0 ni no mask [] used with
      | some o => .error o
      | none =>
        match (List.range 96).find? (fun i => decide (nnode ≤ i) && nodes.getD i 0#64 != 0#64) with
        | some i => .error (320 + 8 * i)
        | none =>
          match bankImages mask [] bs 8 with
          | .error o => .error o
          | .ok im =>
            .ok ({ nodes := used
                   consts := (List.range 64).map (fun k => (k, BitVec.ofNat 32 (leNat ((bs.drop (64 + 4 * k)).take 4))))
                   ratio := ratio, wide := wide == 1, banks := mask }, im)

/-! ## Loading and dropping (13:R353, R354, 20:R436) -/

/-- The fabrics of a group (13:R351). -/
def groupFabs (g : Nat) : List Nat := if g = 4 then List.range 64 else (List.range 16).map (fun i => 16 * g + i)

/-- Zeroes the banks of a mask. -/
def zeroBanks (bk : Tab W32) (mask : Nat) : Tab W32 := bk.filter (fun e => nbits mask (e.1 / 16384) 1 == 0)

/-- Empties a slot and zeroes its banks. -/
def Fabric.drop (x : Fabric) (slot : Nat) : Fabric :=
  match x.graph slot with
  | none => x
  | some g => { x with bank := zeroBanks x.bank g.banks, slots := tdel x.slots slot }

/-- Another slot owns a bank of a mask. -/
def Fabric.clash (x : Fabric) (slot mask : Nat) : Bool :=
  x.slots.any (fun e => e.1 != slot && e.2.banks.land mask != 0)

/-- The words of a bank image under their keys. -/
def imageWords (bank : Nat) (bs : List Byte) : Nat → List (Nat × W32)
  | 0 => []
  | n + 1 => imageWords bank bs n ++ [(bankKey bank n, BitVec.ofNat 32 (leNat ((bs.drop (4 * n)).take 4)))]

/-- Loads a graph at one fabric (13:R353). -/
def Fabric.load (x : Fabric) (slot : Nat) (g : Graph) (words : List (Nat × W32)) : Fabric :=
  let x := x.drop slot
  { x with bank := words ++ zeroBanks x.bank g.banks, slots := tput x.slots slot g }

/-- The record of a `gload` or `gdrop` (13:R354). -/
def sfRec (kind slot bytes status : Nat) (fabs : List Nat) : Rec :=
  { lo := BitVec.ofNat 64 ((fabs.map (fun f => 2 ^ f)).foldl (· + ·) 0)
    hi := BitVec.ofNat 64 (bytes % 2 ^ 32 + kind * 2 ^ 32 + slot * 2 ^ 40 + status * 2 ^ 48) }

/-- Ends the head command with its record. -/
def State.sfEnd (s : State) (ck : Nat) (c : SfCmd) (bytes status : Nat) (fabs : List Nat) : State :=
  let s := s.modCore ck (fun x => { x with fabq := x.fabq.drop 1 })
  (s.writeRec c.who 3 (sfRec c.kind (wbits c.ctl 0 4) bytes status fabs)).sfMove ck 5

/-- Spaces that a graph object may lie in (13:R353). -/
def objSpace : Space → Bool
  | .tcm | .shr | .glob | .ms | .host => true
  | _ => false

/-- The checks of a graph object's range, which starts 64-aligned (13:R353). -/
def State.objRange (s : State) (ck va n : Nat) (align : Bool) : EngChk :=
  let c := s.engRange ck va n false false objSpace
  if align ∧ va % 64 ≠ 0 then
    match c with
    | .bad a 1 k => .bad a 1 k
    | _ => .bad va 2 0x05
  else c

/-- The bank images of an object: their words and bytes read, or the check that failed and the bytes read before it. -/
def State.readImages (s : State) (ck va : Nat) : List BankImage → Except (EngChk × Nat) (List (Nat × W32) × Nat × State)
  | [] => .ok ([], 0, s)
  | e :: t =>
    match s.objRange ck ((va + e.off) % 2 ^ 64) e.len false with
    | .ok ps =>
      let bs := s.engBytes (s.runCx (slOfCk ck)) ps
      (match (s.engNote ck false ps).readImages ck va t with
       | .ok (w, n, s) => .ok (imageWords e.bank bs (e.len / 4) ++ w, e.len + n, s)
       | .error (x, n) => .error (x, e.len + n))
    | c => .error (c, 0)

/-- A failed check of the object after some bytes of it were read: a fault with the cause of its row, or a wait at a stage-2 fault (20:R436,
13:R354). -/
def State.objFail (s : State) (ck : Nat) (c : SfCmd) (got : Nat) : EngChk → State
  | .bad va _ cause => (s.recordFault c.who cause 0 c.who.act (BitVec.ofNat 64 va)).sfEnd ck c got cause []
  | .stage2 va ipa t p => s.stage2Record (.fabric ck) c.who.gk va ipa false t p true
  | .ok _ => s

/-- `gload` (13:R353, 20:R436). -/
def State.doGload (s : State) (ck : Nat) (c : SfCmd) : State :=
  let va := c.addr.toNat
  let slot := wbits c.ctl 0 4
  let fabs := groupFabs (wbits c.ctl 4 3)
  match s.objRange ck va 1216 true with
  | .ok ps =>
    let s := s.engNote ck false ps
    (match parseGraph (s.engBytes (s.runCx (slOfCk ck)) ps) with
     | .error o =>
       (s.recordFault c.who 0x10 1 c.who.act (BitVec.ofNat 64 o)).sfEnd ck c 1216 0x110 []
     | .ok (g, im) =>
       match s.readImages ck va im with
       | .error (e, n) => s.objFail ck c (1216 + n) e
       | .ok (words, n, s) =>
         let good := fabs.filter (fun f => !(s.fab f).clash slot g.banks)
         let bad := fabs.filter (fun f => (s.fab f).clash slot g.banks)
         let s := good.foldl (fun t f => t.setFab f ((t.fab f).load slot g words)) s
         match bad with
         | [] => s.sfEnd ck c (1216 + n) 0 good
         | f :: _ =>
           (s.recordFault c.who 0x10 2 c.who.act (BitVec.ofNat 64 f)).sfEnd ck c (1216 + n) 0x210 good)
  | e => s.objFail ck c 0 e

/-- GLOAD_COMPLETE, 13:R353, R354: the core's head `gload` or `gdrop` is done at every fabric of its group and writes its
record. -/
def execGloadComplete (sl c : Nat) (s : State) : Outcome :=
  let ck := ckOf sl c
  .next (match (s.core ck).fabq with
    | [] => s
    | x :: _ =>
      if s.frozen sl || s.s2Held sl (.fabric ck) || s.injOff sl then s
      else if x.kind = 1 then s.doGload ck x
      else if x.kind = 2 then
        let fabs := groupFabs (wbits x.ctl 4 3)
        (fabs.foldl (fun t f => t.setFab f ((t.fab f).drop (wbits x.ctl 0 4))) s).sfEnd ck x 0 0 fabs
      else s.sfMove ck 5)

end Sys2Proof.Machine
end

