-- ==== Sys2Proof/Machine/Cp.lean ====
section
/-!
DEFINITION. The copy engine (11:R308 to R313, 06:R175 to R178, 13:R347 to R349, 20:R427, R428).
-/

namespace Sys2Proof.Machine

/-! ## Pushes (11:R309 to R311, 20:R427) -/

/-- The graph a slot holds on the lowest fabric that has one; it gives the ratio at a push. -/
def State.anyGraph (s : State) (slot : Nat) : Option Graph :=
  (List.range 64).foldl (fun m f => match m with
    | some g => some g
    | none => (s.fab f).graph slot) none

/-- Destination bytes of n source bytes through a slot: n when the slot is 0 or holds no graph. -/
def State.ratioLen (s : State) (slot n : Nat) : Nat :=
  match (if slot = 0 then none else s.anyGraph slot) with
  | none => n
  | some g => n * ratioOut g.ratio / ratioIn g.ratio

/-- The numbered checks of a push, in order (20:R427). -/
def State.cpChk (s : State) (c : CpCmd) : Option (Nat × W32 × Word) :=
  let slot := wbits c.ctl 2 4
  let own := (s.vf (s.ctx (s.gangCx s.cur)).vf).slots
  let (a, d) := (c.src.toNat, c.dst.toNat)
  let n : Nat :=
    if wbits c.ctl 7 57 ≠ 0 ∨ 8 < slot then 1
    else if slot ≠ 0 ∧ nbits own (slot - 1) 1 = 0 then 2
    else if (c.kind = 3 ∧ slot ≠ 0) ∨ (c.kind = 5 ∧ wbits c.ctl 6 1 = 1) then 3
    else if c.kind = 0 ∧ a < d ∧ d < a + c.len ∧ s.ratioLen slot c.len ≠ 0 then 4
    else if c.kind = 1 ∧ (tdFmt c.td ≠ tdFmt c.ta ∨ tdCols c.ta * fmtBits (tdFmt c.ta) % 8 ≠ 0) then 5
    else 0
  if n = 0 then none else some (0x11, s.regs.act, BitVec.ofNat 64 n)

/-- A push into the named channel's queue of four (11:R310). -/
def State.cpPush (s : State) (st : BitVec 3) (cmd : CpCmd) : State :=
  let ck := ckOfGk s.cur
  let ch := wbits cmd.ctl 0 2
  s.push st (pushOps [cmd.dst.toNat, cmd.src.toNat, cmd.len, cmd.ctl.toNat, cmd.peer, cmd.td.toNat, cmd.ta.toNat])
    (fun s => s.cpChk cmd) (fun s => (tget [] (s.core ck).chans ch).length < 4)
    (fun s => (s.modCore ck (fun c =>
      { c with chans := tput c.chans ch (tget [] c.chans ch ++ [{ cmd with who := s.pusher s.word }]) })).owe 0)

/-- A command as it is pushed. -/
def cpNew (kind : Nat) (dst src : Word) (len : Nat) (ctl : Word) : CpCmd :=
  { who := {}, kind := kind, dst := dst, src := src, len := len, ctl := ctl, peer := 0, td := 0#128, ta := 0#128
    taken := 0, moved := 0, started := false, gat := none }

/-- CPY, 11:R311: a linear copy; the register after the length's holds the control word. -/
def execCpy (st : BitVec 3) (d a : BitVec 5) (b : BitVec 4) (s : State) : Outcome :=
  let r := s.regs
  .next (s.cpPush st (cpNew 0 (r.gangOp d.toNat) (r.gangOp a.toNat) (r.gangOp (2 * b.toNat)).toNat
    (r.gangOp (2 * b.toNat + 1))))

/-- CPYX, 11:R311: copies the rows of one tile to the rows of another. -/
def execCpyx (st : BitVec 3) (d a : BitVec 4) (b : BitVec 5) (s : State) : Outcome :=
  .next (s.cpPush st { cpNew 1 0#64 0#64 0 (s.regs.gangOp b.toNat) with td := s.tdesc d.toNat, ta := s.tdesc a.toNat })

/-- CPGAT, 11:R311: gathers rows that an index list names. -/
def execCpgat (st : BitVec 3) (d a b : BitVec 5) (s : State) : Outcome :=
  let r := s.regs
  .next (s.cpPush st (cpNew 2 (r.gangOp d.toNat) (r.gangOp a.toNat) 0 (r.gangOp b.toNat)))

/-- CPMETA, 11:R311: moves entries into the sparsity queue. -/
def execCpmeta (st : BitVec 3) (a : BitVec 5) (b : BitVec 4) (s : State) : Outcome :=
  let r := s.regs
  .next (s.cpPush st (cpNew 3 0#64 (r.gangOp a.toNat) (r.gangOp (2 * b.toNat)).toNat (r.gangOp (2 * b.toNat + 1))))

/-- CPREM, 11:R311: copies to a peer's memory. -/
def execCprem (st : BitVec 3) (d : BitVec 4) (a : BitVec 5) (b : BitVec 4) (s : State) : Outcome :=
  let r := s.regs
  .next (s.cpPush st { cpNew 5 (r.gangOp (2 * d.toNat)) (r.gangOp a.toNat) (r.gangOp (2 * b.toNat)).toNat
    (r.gangOp (2 * b.toNat + 1)) with peer := wbits (r.gangOp (2 * d.toNat + 1)) 0 16 })

/-- The record of a command as its transfer ends (11:R313). -/
def State.cpRec (s : State) (ck ch : Nat) (c : CpCmd) (status : Nat) : Rec :=
  { lo := BitVec.ofNat 64 ((tget 0#64 (s.core ck).wp ch).toNat % 2 ^ 56 + (ch + 4 * c.kind) * 2 ^ 56)
    hi := BitVec.ofNat 64 (c.moved % 2 ^ 48 + status * 2 ^ 48) }

/-- The first command of a channel leaves its queue with its record, and holds at no stage-2 fault any more. -/
def State.cpEnd (s : State) (ck ch status : Nat) : State :=
  match tget [] (s.core ck).chans ch with
  | [] => s
  | c :: t =>
    ((s.modCore ck (fun x => { x with chans := tput x.chans ch t })).s2Leave (s.runCx (slOfCk ck)) (fun u => u == .chan ck ch)).writeRec
      c.who 0 (s.cpRec ck ch c status)

/-- Every command of a channel is stopped or discarded with status 1 (11:R312). -/
def State.cpDiscard (s : State) (ck ch : Nat) : Nat → State
  | 0 => s
  | n + 1 => (s.cpEnd ck ch 1).cpDiscard ck ch n

/-- CPSTOP, 11:R312: the channel's transfer stops and its queue is discarded, at once. -/
def execCpstop (st : BitVec 3) (b : BitVec 5) (s : State) : Outcome :=
  let v := s.regs.gangOp b.toNat
  let ck := ckOfGk s.cur
  .next (s.push st (pushOps [v.toNat]) (fun _ => none) (fun _ => true)
    (fun s => s.cpDiscard ck (wbits v 0 2) 4))

/-! ## What a channel does next (11:R310, R311, 13:R347, 20:R428) -/

/-- The next unit of a transfer: nothing is left; a check fails with detail and address; a stage-2 fault holds the channel; a
command waits for something else; a descriptor or an index has been read; bytes are written, with the command after them; entries are taken; or
bytes go to a peer. -/
inductive CpNext where
  | done
  | bad (detail va : Nat)
  | stage2 (va ipa : Nat) (wr table perm : Bool)
  | wait
  | read (c : CpCmd) (s : State)
  | bytes (c : CpCmd) (m : Nat) (ws : List (Nat × Byte)) (s : State)
  | entry (v : Nat) (s : State)
  | peer (n : Nat) (bs : List Byte) (s : State)

/-- A failed range. -/
def cpBad (wr : Bool) : EngChk → CpNext
  | .bad va row _ => .bad row va
  | .stage2 va ipa t p => .stage2 va ipa wr t p
  | .ok _ => .wait

/-- Source bytes of one row and of the whole transfer. -/
def CpCmd.rowLen (c : CpCmd) : Nat :=
  match c.kind, c.gat with
  | 1, _ => rowBytes (tdCols c.ta) (fmtBits (tdFmt c.ta))
  | 2, some g => g.rowb
  | _, _ => c.len
def CpCmd.total (c : CpCmd) : Nat :=
  match c.kind, c.gat with
  | 1, _ => tdRows c.ta * c.rowLen
  | 2, some g => g.count * g.rowb
  | 3, _ => 2 * c.len
  | _, _ => c.len

/-- Address of the next source byte. -/
def CpCmd.srcAt (c : CpCmd) : Nat :=
  (match c.kind, c.gat with
   | 1, _ => tdAddr c.ta + c.taken / c.rowLen * tdStride c.ta + c.taken % c.rowLen
   | 2, some g => g.base + ((g.row.map (fun x => x.2)).getD 0) * g.rowb + c.taken % g.rowb
   | _, _ => c.src.toNat + c.taken) % 2 ^ 64

/-- Address of the next destination byte. -/
def CpCmd.dstAt (c : CpCmd) : Nat :=
  (if c.kind = 1 then tdAddr c.td + c.taken / c.rowLen * tdStride c.td + c.sent
   else c.dst.toNat + (if c.kind = 5 then c.sent else c.moved)) % 2 ^ 64

/-- A command that has taken n source bytes and written m for them; a row that is complete leaves the next one at its start. -/
def CpCmd.wrote (c : CpCmd) (n m : Nat) : CpCmd :=
  { c with taken := c.taken + n, moved := c.moved + m, sent := if (c.taken + n) % c.rowLen = 0 then 0 else c.sent + m }

/-- The committed bytes that an engine reads at checked pieces; 32-bit view values in a decoding window; host or peer memory
that cannot be reached gives free values (04:R103, 21:R455; log 24). -/
def State.cpRead (s : State) (cx : Nat) (ps : List (Nat × Nat × Place)) : List Byte :=
  ps.flatMap (fun e =>
    let p := e.2.2
    if p.space = .win then
      (List.range (e.2.1 / 4)).flatMap (fun k => leBytes 4 (p.viewElem (s.rdByte (s.keyNo cx)) k))
    else if p.space = .host ∧ !s.links.reaches p.loc then
      (List.range e.2.1).map (fun i => BitVec.ofNat 8 (s.free (p.loc + i)))
    else s.rdBytes (s.keyNo cx) p.loc e.2.1)

/-- The writes that store bytes at checked pieces, in ascending address order; writes that reach nothing are dropped. -/
def State.cpStore (s : State) (cx : Nat) : List (Nat × Nat × Place) → List Byte → List (Nat × Byte) → List (Nat × Byte)
  | [], _, ws => ws
  | (_, n, p) :: t, bs, ws =>
    if p.space = .win then
      let ws := (List.range (n / 4)).foldl (fun ws k =>
        let rd (a : Nat) : Byte := match ws.reverse.find? (fun e => e.1 == a) with
          | some e => e.2
          | none => s.rdByte (s.keyNo cx) a
        ws ++ (p.storeElem rd k (leNat ((bs.drop (4 * k)).take 4))).1) ws
      State.cpStore s cx t (bs.drop n) ws
    else if p.space = .host ∧ !s.links.reaches p.loc then State.cpStore s cx t (bs.drop n) ws
    else State.cpStore s cx t (bs.drop n) (ws ++ ((bs.take n).zipIdx.map (fun e => (p.loc + e.2, e.1))))

/-- Every space, as a copy reaches them. -/
def anySpace : Space → Bool := fun _ => true

/-- Length of the next piece of a bypass transfer: it stays in the row and in one 256-byte sector on each side, and is a whole
number of view units where a side may be a decoding window (11:R310). -/
def cpPiece (left src dst : Nat) : Nat :=
  let u := min left (min (256 - src % 256) (256 - dst % 256))
  if 10 ≤ rangeOf src ∨ 10 ≤ rangeOf dst then min left (max 4 (u / 4 * 4)) else u

/-- A bypass piece: the source is checked before the destination (DEDUCED, log 24). -/
def State.cpPlain (s : State) (ck : Nat) (c : CpCmd) : CpNext :=
  let cx := s.runCx (slOfCk ck)
  let a := c.srcAt
  let d := c.dstAt
  let left := c.rowLen - c.taken % c.rowLen
  let n := cpPiece left a d
  match s.engRange ck a n false true anySpace with
  | .ok ps =>
    (match s.engRange ck d n true true anySpace with
     | .ok qs =>
       let ws := s.cpStore cx qs (s.cpRead cx ps) []
       if s.engHeld c.who (secsOf ws) then .wait
       else .bytes (c.wrote n n) n ws (((s.engNote ck false ps).engNote ck true qs).bump)
     | e => cpBad true e)
  | e => cpBad false e

/-- The fabric that serves a physical address: controller of its line in its stack (04:R107, 01:R14). -/
def fabOf (pa : Nat) : Nat := 8 * (pa / 2 ^ 36) + pa / 1024 % 8

/-- A firing at one place of a stream: a check fails or it waits, or it has run with the destination's pieces and its output. -/
inductive CpFired where
  | not (x : CpNext)
  | ran (i o : Nat) (qs : List (Nat × Nat × Place)) (bs : List Byte) (s : State)

/-- The check of the graph side of a stream at an address; in a decoding window that of its unit (13:R347, 20:R428). -/
def State.cpSide (s : State) (ck ga : Nat) (wr : Bool) : Chk :=
  if 10 ≤ rangeOf ga then s.engPiece ck (ga / 4 * 4) 4 wr true anySpace else s.engPiece ck ga 1 wr false anySpace

/-- The graph-side address of a command. -/
def CpCmd.graphAt (c : CpCmd) : Nat := if wbits c.ctl 6 1 = 0 then c.srcAt else c.dstAt

/-- The firing of a stream through a graph at the place a command stands at (13:R336, R347, R348). -/
def State.cpFire (s : State) (ck : Nat) (c : CpCmd) : CpFired :=
  let cx := s.runCx (slOfCk ck)
  let slot := wbits c.ctl 2 4
  let side := wbits c.ctl 6 1
  let a := c.srcAt
  let d := c.dstAt
  let ga := c.graphAt
  match s.cpSide ck ga (side == 1) with
  | .bad r _ => .not (.bad r ga)
  | .stage2 ipa t p => .not (.stage2 ga ipa (side == 1) t p)
  | .ok p =>
    if p.space ≠ .glob ∧ p.space ≠ .ms then .not (.bad 10 ga)
    else
      let f := fabOf p.loc
      match (s.fab f).graph slot with
      | none => .not (.bad 11 f)
      | some g =>
        let (i, o) := (ratioIn g.ratio, ratioOut g.ratio)
        let w := if side = 0 then i else o
        if ga % (256 * w) ≠ 0 ∨ c.rowLen % (256 * i) ≠ 0 then .not (.bad 10 ga)
        else
          match s.engRange ck a (256 * i) false true anySpace with
          | .ok ps =>
            (match (if c.kind = 5 then .ok [] else s.engRange ck d (256 * o) true true anySpace) with
             | .ok qs =>
               let pos := if side = 0 then c.taken / 256 else (if c.kind = 5 then 0 else c.moved / 256)
               let x : Firing := { f := f, graph := g, ports := sectorLanes (s.cpRead cx ps) i, pos := pos, call := false }
               let (out, bk) := x.run (s.fab f).bank
               let bs := out.flatMap (fun p => p.flatMap (leBytes 4))
               .ran i o qs bs ((((s.engNote ck false ps).engNote ck true qs).bump).setFab f { s.fab f with bank := bk })
             | e => .not (cpBad true e))
          | e => .not (cpBad false e)

/-- The state in which a firing writes its output: a graph-side write first invalidates every cached copy (13:R348). -/
def State.graphWrite (s : State) (c : CpCmd) (secs : List Nat) : State := if wbits c.ctl 6 1 = 1 then s.uncacheAll secs else s

/-- The next firing of a stream, with the write of its output. -/
def State.cpGraph (s : State) (ck : Nat) (c : CpCmd) : CpNext :=
  match s.cpFire ck c with
  | .not x => x
  | .ran i o qs bs s' =>
    if c.kind = 5 then .peer (256 * i) bs s'
    else
      let ws := s.cpStore (s.runCx (slOfCk ck)) qs bs []
      if s.engHeld c.who (secsOf ws) then .wait
      else .bytes (c.wrote (256 * i) (256 * o)) (256 * o) ws (s'.graphWrite c (secsOf ws))

/-! ### Rows that do not ascend (13:R336, 11:R310; log 54) -/

/-- A stream through a graph whose rows may not ascend on its graph side: its firings start in ascending address there. With the graph on the
source side its outputs are written in ascending destination address. -/
def CpCmd.ordered (c : CpCmd) : Bool :=
  wbits c.ctl 2 4 != 0 &&
    (if wbits c.ctl 6 1 = 0 then
       c.kind == 2 || (c.kind == 1 && (decide (tdStride c.ta < c.rowLen) || decide (2 ^ 64 < tdAddr c.ta + tdRows c.ta * tdStride c.ta)))
     else c.kind == 1)

/-- One unit of such a stream: what has been taken and written before it, and written of its row; its ratio, and its graph-side address. -/
structure CpUnit where
  taken : Nat
  moved : Nat
  sent : Nat
  i : Nat
  o : Nat
  at_ : Nat
  deriving DecidableEq, Repr

/-- A command as it stands at a place of its transfer. -/
def CpCmd.standsAt (c : CpCmd) (taken moved sent : Nat) : CpCmd :=
  { c with taken := taken, moved := moved, sent := sent
           gat := c.gat.map (fun g => { g with row := (g.rows[taken / g.rowb]?).map (fun n => (taken / g.rowb, n)) }) }

/-- The ratio of the graph that serves the place a command stands at; where none does, that of any fabric that holds the slot. -/
def State.cpRatio (s : State) (ck : Nat) (c : CpCmd) : Nat × Nat :=
  let slot := wbits c.ctl 2 4
  let here : Option Graph := match s.cpSide ck c.graphAt (wbits c.ctl 6 1 == 1) with
    | Chk.ok p => if p.space = .glob ∨ p.space = .ms then (s.fab (fabOf p.loc)).graph slot else none
    | _ => none
  match here.orElse (fun _ => s.anyGraph slot) with
  | some g => (ratioIn g.ratio, ratioOut g.ratio)
  | none => (1, 1)

/-- The units of a stream from a place on, as far as its rows are known. -/
def State.cpUnits (s : State) (ck known : Nat) : Nat → CpCmd → List CpUnit
  | 0, _ => []
  | n + 1, c =>
    if known ≤ c.taken then []
    else
      let c := c.standsAt c.taken c.moved c.sent
      let (i, o) := s.cpRatio ck c
      { taken := c.taken, moved := c.moved, sent := c.sent, i := i, o := o, at_ := c.graphAt } ::
        State.cpUnits s ck known n (c.wrote (256 * i) (256 * o))

/-- The unit that fires next: units in ascending graph-side address. -/
def State.nextUnit (s : State) (ck : Nat) (c : CpCmd) : Option CpUnit :=
  let known := match c.gat with
    | some g => g.rows.length * g.rowb
    | none => c.total
  (sortBy CpUnit.at_ (s.cpUnits ck known (known / 256 + 1) (c.standsAt 0 0 0)))[c.fired]?

/-- Writes the output of the next unit when its firing has run; else the next firing starts. With the graph on the destination side a firing
writes its output at once. -/
def State.cpOrder (s : State) (ck : Nat) (c : CpCmd) : CpNext :=
  let cx := s.runCx (slOfCk ck)
  match c.outs.find? (fun e => e.1 == c.taken) with
  | some (_, n, bs) =>
    (match s.engRange ck c.dstAt bs.length true true anySpace with
     | .ok qs =>
       let ws := s.cpStore cx qs bs []
       if s.engHeld c.who (secsOf ws) then .wait else .bytes (c.wrote n bs.length) bs.length ws s
     | e => cpBad true e)
  | none =>
    match s.nextUnit ck c with
    | none => .wait
    | some u =>
      match s.cpFire ck (c.standsAt u.taken u.moved u.sent) with
      | .not x => x
      | .ran i o qs bs t =>
        let c' := { c with fired := c.fired + 1 }
        if wbits c.ctl 6 1 = 0 then
          .read { c' with outs := c.outs.filter (fun e => decide (c.taken ≤ e.1)) ++ [(u.taken, 256 * i, bs)] } t
        else
          let ws := s.cpStore cx qs bs []
          if s.engHeld c.who (secsOf ws) then .wait
          else .bytes { c' with taken := c.taken + 256 * i, moved := c.moved + 256 * o } (256 * o) ws (t.graphWrite c (secsOf ws))

/-- The check of bytes that must lie in the issuing core's TCM, aligned (11:R311, 20:R428). -/
def State.tcmRead (s : State) (ck va n align : Nat) : EngChk :=
  let c : EngChk :=
    if rangeOf va = 4 ∧ rangeOf ((va + n - 1) % 2 ^ 64) = 4 then .bad va 4 0x09
    else
      match s.engPiece ck va n false false (fun p => p == .tcm) with
      | .ok p => .ok [(va, n, p)]
      | .bad r k => .bad va r k
      | .stage2 ipa t p => .stage2 va ipa t p
  if va % align = 0 then c
  else
    match c with
    | .bad a 1 k => .bad a 1 k
    | _ => .bad va 2 0x05

/-- `cpgat` reads its descriptor, and the index of each row as it reaches it (11:R311). -/
def State.cpGat (s : State) (ck : Nat) (c : CpCmd) : Option CpNext :=
  let cx := s.runCx (slOfCk ck)
  match c.gat with
  | none =>
    some (match s.tcmRead ck c.src.toNat 32 32 with
      | .ok ps =>
        let v := leNat (s.cpRead cx ps)
        let rowb := nbits v 160 32
        if nbits v 192 64 ≠ 0 ∨ rowb = 0 ∨ 65536 < rowb then .bad 8 c.src.toNat
        else .read { c with gat := some { base := nbits v 0 64, idx := nbits v 64 64, count := nbits v 128 32
                                          rowb := rowb, row := none } } s
      | e => cpBad false e)
  | some g =>
    if c.ordered then
      -- the list is read ahead; an index that cannot be read fails once what comes before it is written
      if g.count ≤ g.rows.length then none
      else match s.tcmRead ck ((g.idx + 4 * g.rows.length) % 2 ^ 64) 4 4 with
        | .ok ps => some (.read { c with gat := some { g with rows := g.rows ++ [leNat (s.cpRead cx ps)] } } s)
        | e => if c.taken < g.rows.length * g.rowb then none else some (cpBad false e)
    else
    let j := c.taken / g.rowb
    if g.count ≤ j ∨ (g.row.map (fun x => x.1)) = some j then none
    else
      some (match s.tcmRead ck ((g.idx + 4 * j) % 2 ^ 64) 4 4 with
        | .ok ps => .read { c with gat := some { g with row := some (j, leNat (s.cpRead cx ps)) } } s
        | e => cpBad false e)

/-- `cpmeta` takes one entry; in a decoding window its 4-byte unit is read (11:R310, R311, 20:R428). -/
def State.cpMeta (s : State) (ck : Nat) (c : CpCmd) : CpNext :=
  let cx := s.runCx (slOfCk ck)
  let a := c.srcAt
  let win := 10 ≤ rangeOf a ∧ wbits ((s.cluster (clkOfCk ck)).win (rangeOf a - 10)) 60 4 ≠ 0
  if 64 ≤ (s.core ck).spq.length then .wait
  else
    let r := if win ∧ c.src.toNat % 4 = 0 ∧ c.len % 2 = 0 then (a / 4 * 4, 4) else (a, 2)
    match s.engRange ck r.1 r.2 false true anySpace with
    | .ok ps =>
      let v := leNat (((s.cpRead cx ps).drop (a - r.1)).take 2)
      if 256 ≤ v then .bad 9 a else .entry v (s.engNote ck false ps).bump
    | e => cpBad false e

/-- `cprem` sends a piece when the peer is reached by a port (11:R311, 14:R373, 21:R455). -/
def State.cpPeer (s : State) (ck : Nat) (c : CpCmd) : CpNext :=
  let cx := s.runCx (slOfCk ck)
  let a := c.srcAt
  let n := cpPiece (c.len - c.taken) a a
  if (s.links.portsOf c.peer).all (fun p => s.links.portsDown.contains p) then
    .bad 12 ((c.dst.toNat + c.moved) % 2 ^ 64)
  else if c.taken = c.total then .wait
  else if wbits c.ctl 2 4 ≠ 0 then s.cpGraph ck c
  else
    match s.engRange ck a n false true anySpace with
    | .ok ps => .peer n (s.cpRead cx ps) (s.engNote ck false ps).bump
    | e => cpBad false e

/-- A failed check of a `cprem` ends it once the bytes it has sent are acknowledged, which its record counts (20:R428, 06:R178); a peer that
is not reached ends it at once. -/
def CpCmd.settles (c : CpCmd) : CpNext → CpNext
  | .bad d va => if d ≠ 12 ∧ c.moved < c.sent then .wait else .bad d va
  | x => x

/-- What the head command of a channel does next. -/
def State.cpNext (s : State) (ck : Nat) (c : CpCmd) : CpNext :=
  match (if c.kind = 2 then s.cpGat ck c else none) with
  | some x => x
  | none =>
    if c.taken = c.total ∧ (c.kind ≠ 5 ∨ c.sent ≤ c.moved) then .done
    else if c.kind = 3 then s.cpMeta ck c
    else if c.kind = 5 then c.settles (s.cpPeer ck c)
    else if c.ordered then s.cpOrder ck c
    else if wbits c.ctl 2 4 ≠ 0 then s.cpGraph ck c
    else s.cpPlain ck c

/-- A failed check ends the command with its record, and discards what is queued behind it (20:R428); a peer that does not answer has a record
of kind 12 (21:R455). -/
def State.cpFail (s : State) (ck ch : Nat) (c : CpCmd) (detail va : Nat) : State :=
  let s := if detail = 12 then s.event 12 (slOfCk ck) 0xff 0xff c.peer va else s
  ((s.recordFault c.who 0x11 detail c.who.act (BitVec.ofNat 64 va)).cpEnd ck ch (detail * 256 + 0x11)).cpDiscard ck ch 4

/-- Replaces the head command of a channel. -/
def State.cpSet (s : State) (ck ch : Nat) (c : CpCmd) : State :=
  s.modCore ck (fun x => { x with chans := tput x.chans ch (c :: (tget [] x.chans ch).drop 1) })

/-- Bytes arrive in a peer's memory, where apertures onto it show them (14:R372). -/
def State.peerBytes (s : State) (peer addr : Nat) (bs : List Byte) : State :=
  s.wrAll 0 (bs.zipIdx.map (fun b => (peerLoc peer (addr + b.2), b.1)))

/-- Adds to the write pointer of a channel (06:R178). -/
def State.wpAdd (s : State) (ck ch n : Nat) : State :=
  s.modCore ck (fun x => { x with wp := tput x.wp ch (tget 0#64 x.wp ch + BitVec.ofNat 64 n) })

/-- One unit of a channel's transfer: at most one sector or one firing, or one entry (11:R310). A frozen context starts no
command (18:R400), channels keep to the issue gate (24:R470), and none sends while the slice's partition drains (04:R123). -/
def State.cpSector (s : State) (ck ch : Nat) : State :=
  match tget [] (s.core ck).chans ch with
  | [] => s
  | c :: _ =>
    if (!c.started && s.frozen (slOfCk ck)) || s.preempted (slOfCk ck) || !s.gateOpen || s.injOff (slOfCk ck)
        || s.s2Held (slOfCk ck) (.chan ck ch) then s
    else
      let c := { c with started := true }
      match s.cpNext ck c with
      | .done => s.cpSet ck ch c
      | .bad d va => s.cpFail ck ch c d va
      | .stage2 va ipa wr t p => (s.cpSet ck ch c).stage2Record (.chan ck ch) c.who.gk va ipa wr t p true
      | .wait => s.cpSet ck ch c
      | .read c t => t.cpSet ck ch c
      | .bytes c m ws t => ((t.engWrite (slOfCk ck) ws).cpSet ck ch c).wpAdd ck ch m
      | .entry v t =>
        (t.modCore ck (fun x => { x with spq := x.spq ++ [BitVec.ofNat 16 v] })).cpSet ck ch
          { c with taken := c.taken + 2, moved := c.moved + 2 }
      | .peer n bs t =>
        (t.peerBytes c.peer (c.dst.toNat + c.sent) bs).cpSet ck ch
          { c with taken := c.taken + n, sent := c.sent + bs.length, at_ := s.clock.run }

/-- COPY_TRANSFER_END, 11:R313, 20:R428: a channel whose transfer has nothing left writes its record, and one whose next sector
fails its check ends with the fault. What it still reads keeps to the issue gate (24:R470). -/
def execCopyTransferEnd (sl c ch : Nat) (s : State) : Outcome :=
  let ck := ckOf sl c
  .next (match tget [] (s.core ck).chans ch with
    | [] => s
    | x :: _ =>
      if (!x.started && s.frozen sl) || s.preempted sl || s.s2Held sl (.chan ck ch) then s
      else
        match s.cpNext ck { x with started := true } with
        | .done => s.cpEnd ck ch 0
        | .bad d va => s.cpFail ck ch x d va
        | .read c t =>
          if !s.gateOpen || s.injOff sl then s else
          -- a gather of no rows ends once its descriptor is read
          if c.total = 0 then (t.cpSet ck ch c).cpEnd ck ch 0 else t.cpSet ck ch { c with started := true }
        | _ => s)

/-- The channel of some cores whose head is a `cprem` to a peer that waits for the acknowledgement of an address. -/
def ackHit (cores : Tab Core) (peer a : Nat) : Option (Nat × Nat × CpCmd) :=
  let mine (c : CpCmd) : Bool := c.kind == 5 && c.peer == peer && (c.dst.toNat + c.moved) % 2 ^ 64 == a && c.moved < c.sent
  (cores.flatMap (fun e => e.2.chans.filterMap (fun q =>
    match q.2 with
    | [] => none
    | c :: _ => if mine c then some (e.1, q.1, c) else none))).head?

/-- A channel counts bytes that a peer has acknowledged (06:R178). -/
def Core.acked (x : Core) (ch n : Nat) : Core :=
  match tget [] x.chans ch with
  | [] => x
  | c :: t =>
    let m := min n (c.sent - c.moved)
    { x with chans := tput x.chans ch ({ c with moved := c.moved + m } :: t), wp := tput x.wp ch (tget 0#64 x.wp ch + BitVec.ofNat 64 m) }

/-- Writes of n bytes at a physical address are acknowledged, those of the slices and those of saved images. -/
def State.ackBytes (s : State) (pa n : Nat) : State :=
  let rest (l : List ExtWrite) : List ExtWrite := l.filter (fun e => !(pa ≤ e.pa && e.pa < pa + n))
  { s with links := { s.links with unacked := rest s.links.unacked }
           ctxs := s.ctxs.map (fun e => (e.1, { e.2 with image := e.2.image.map (fun im => { im with unacked := rest im.unacked }) })) }

/-- PEER_ACKNOWLEDGEMENT, 14:R372, 06:R174, 11:R311: writes of n bytes at a physical address are acknowledged; a place of
2^64 * (peer + 1) + address names a `cprem` write, and its channel counts the bytes, in the image where its context is away (log 4, 14:R364). -/
def execPeerAcknowledgement (pa n : Nat) (s : State) : Outcome :=
  .next (
    if pa < 2 ^ 64 then s.ackBytes pa n
    else
      let peer := pa / 2 ^ 64 - 1
      match ackHit s.cores peer (pa % 2 ^ 64) with
      | some (ck, ch, _) => s.modCore ck (fun x => x.acked ch n)
      | none =>
        let away := s.ctxs.filterMap (fun e => e.2.image.bind (fun im => (ackHit im.cores peer (pa % 2 ^ 64)).map (fun h => (e.1, im, h))))
        match away with
        | [] => s
        | (cx, im, ck, ch, _) :: _ =>
          s.modCtx cx (fun x => { x with image := some { im with cores := tput im.cores ck ((tget {} im.cores ck).acked ch n) } }))

end Sys2Proof.Machine
end

