-- ==== Sys2Proof/Machine/Ma.lean ====
section
/-!
DEFINITION. The Madder integrator array (12:R314 to R330, 20:R432 to R434).
-/

namespace Sys2Proof.Machine

/-! ## The patch table (12:R318) -/

def peEn (w : Word) : Bool := wbits w 63 1 == 1
def peDom (w : Word) : Nat := wbits w 61 2
def peNw (w : Word) : Nat := wbits w 52 6

/-- Source i of an entry: 0 dx, 1 dy1, 2 dy2; its sign, kind and cell. -/
structure MadSrc where
  neg : Bool
  kind : Nat
  cell : Nat

def peSrc (w : Word) (i : Nat) : MadSrc :=
  { neg := wbits w (11 * i + 10) 1 == 1, kind := wbits w (11 * i + 8) 2, cell := wbits w (11 * i) 8 }

/-- An entry keeps the zero rules and, when enabled, has a width. -/
def peOk (w : Word) : Bool :=
  wbits w 58 3 == 0 && wbits w 33 19 == 0 && (!peEn w || peNw w != 0)
    && [0, 1, 2].all (fun i => (peSrc w i).kind == 1 || (peSrc w i).cell == 0)

def Madder.cell (m : Madder) (k : Nat) : MadCell := tget {} m.cells k
def Madder.entry (m : Madder) (k : Nat) : Word := tget 0#64 m.patch k
def Madder.dom (m : Madder) (d : Nat) : MadDom := tget {} m.doms d
def Madder.setCell (m : Madder) (k : Nat) (c : MadCell) : Madder := { m with cells := tput m.cells k c }
def Madder.setDom (m : Madder) (d : Nat) (x : MadDom) : Madder := { m with doms := tput m.doms d x }

/-- The latch of input i. -/
def MadCell.latch (c : MadCell) (i : Nat) : Int := if i = 0 then c.dx else if i = 1 then c.dy1 else c.dy2
def MadCell.setLatch (c : MadCell) (i : Nat) (v : Int) : MadCell :=
  if i = 0 then { c with dx := v } else if i = 1 then { c with dy1 := v } else { c with dy2 := v }

/-! ## A step (12:R315, 20:R432) -/

/-- What an input takes. -/
def MadCell.take (c : MadCell) (x : MadSrc) (i : Nat) : Int :=
  let v : Int := match x.kind with
    | 0 => 0
    | 1 => c.latch i
    | 2 => 1
    | _ => c.port
  if x.neg then -v else v

/-- A step of one cell: the cell with its latches taken and what it emits, or the cause of its failure. -/
def MadCell.step (c : MadCell) (w : Word) : Except Nat (MadCell × Int) :=
  let n := peNw w
  let y := c.y + (c.take (peSrc w 1) 1 + c.take (peSrc w 2) 2)
  if y < -(2 ^ 63) ∨ 2 ^ 63 ≤ y then .error 0x0f
  else
    let d := c.take (peSrc w 0) 0
    let t := (c.r : Int) + d * y
    if d ≠ 0 ∧ (2 ^ (n + 1) ≤ t ∨ t < -(2 ^ n)) then .error 0x0e
    else
      let dz : Int := if d = 0 then 0 else if 2 ^ n ≤ t then 1 else if t < 0 then -1 else 0
      let r := if d = 0 then c.r else (t - dz * 2 ^ n).toNat
      let free (i : Nat) (c : MadCell) : MadCell := if (peSrc w i).kind = 1 then c.setLatch i 0 else c
      let c := free 0 (free 1 (free 2 c))
      let port := if [0, 1, 2].any (fun i => (peSrc w i).kind == 3) then 0 else c.port
      .ok ({ c with y := y, r := r, o := c.o + BitVec.ofInt 32 dz, port := port }, dz)

/-- A failure in a cycle: cause, the cell whose check failed, the failing cell, and the input with its emitter at a delivery. -/
structure MadFail where
  cause : Nat
  cell : Nat
  failing : Nat
  input : Nat
  emitter : Nat

/-- The stepping cells in ascending order, each from the state before the step: the array after them and what each emits. -/
def Madder.stepCells (m : Madder) : List Nat → Madder → List (Nat × Int) → Except MadFail (Madder × List (Nat × Int))
  | [], out, dz => .ok (out, dz)
  | k :: t, out, dz =>
    match (m.cell k).step (m.entry k) with
    | .error c => .error { cause := c, cell := k, failing := k, input := 3, emitter := 0 }
    | .ok (c, z) => Madder.stepCells m t (out.setCell k c) (if z = 0 then dz else dz ++ [(k, z)])

/-- The deliveries to some inputs in order (12:R315). -/
def Madder.deliver (dz : List (Nat × Int)) : List (Nat × Nat) → Madder → Except MadFail Madder
  | [], m => .ok m
  | (k, i) :: t, m =>
    let x := peSrc (m.entry k) i
    if x.kind = 1 ∧ peEn (m.entry k) then
      match dz.find? (fun e => e.1 == x.cell) with
      | none => Madder.deliver dz t m
      | some e =>
        if (m.cell k).latch i ≠ 0 then .error { cause := 0x0e, cell := k, failing := e.1, input := i, emitter := e.1 }
        else Madder.deliver dz t (m.setCell k ((m.cell k).setLatch i e.2))
    else Madder.deliver dz t m

/-- The cells of some domains step together, and their deliveries follow (12:R315, R321). -/
def Madder.stepDoms (m : Madder) (ds : List Nat) : Except MadFail Madder :=
  let ks := (List.range 256).filter (fun k => peEn (m.entry k) && ds.contains (peDom (m.entry k)))
  match m.stepCells ks m [] with
  | .error e => .error e
  | .ok (m', dz) => Madder.deliver dz ((List.range 256).flatMap (fun k => [(k, 0), (k, 1), (k, 2)])) m'

/-- The record of a Madder command (12:R323). -/
def maRec (kind dom steps status : Nat) (dcnt : Word) : Rec :=
  { lo := dcnt, hi := BitVec.ofNat 64 (steps % 2 ^ 32 + kind * 2 ^ 32 + dom * 2 ^ 40 + status * 2 ^ 48) }

def State.setMad (s : State) (ck : Nat) (m : Madder) : State := s.modCore ck (fun c => { c with mad := m })

/-- The record of a `dstep` of a domain that ends. -/
def State.dstepEnds (s : State) (d : Nat) (dcnt : Word) (x : DStep) (status : Nat) : State :=
  s.writeRec x.who 2 (maRec 6 d x.done status dcnt)

/-- Ends the `dstep` of a run and a pending slot. -/
def State.endSlots (s : State) (ck d status : Nat) : State :=
  let m := (s.core ck).mad
  let x := m.dom d
  let s := s.setMad ck (m.setDom d { x with run := none, pend := none })
  let s := match x.run with
    | some r => s.dstepEnds d x.dcnt r status
    | none => s
  match x.pend with
  | some r => s.dstepEnds d x.dcnt r status
  | none => s

/-- One step of a domain's slots in cycle t: the count, and at the last step the record and the next `dstep` (12:R321, R327). -/
def State.slotStep (s : State) (ck t d : Nat) : State :=
  let m := (s.core ck).mad
  let x := m.dom d
  match x.run with
  | none => s
  | some r =>
    let r := { r with done := r.done + 1, prev := t, next := t + (x.div + 1) }
    let x := { x with dcnt := x.dcnt + 1#64 }
    if r.done = r.n then
      let p := x.pend.map (fun p => { p with prev := t, next := t + (x.div + 1) })
      (s.setMad ck (m.setDom d { x with run := p, pend := none })).dstepEnds d x.dcnt r 0
    else s.setMad ck (m.setDom d { x with run := some r })

/-- The next cycle a domain steps in. -/
def MadDom.nextAt (x : MadDom) : Option Nat := x.run.map (fun r => r.next)

/-- The earliest cycle in which a domain of the array steps. -/
def Madder.dueAt (m : Madder) : Option Nat :=
  [0, 1, 2, 3].foldl (fun b d => match (m.dom d).nextAt, b with
    | some t, none => some t
    | some t, some u => some (min t u)
    | none, b => b) none

/-- A fault in a cycle: the failing cell's domain ends with the fault, every other `dstep` with status 1 (20:R432). -/
def State.madFail (s : State) (ck : Nat) (f : MadFail) : State :=
  let m := (s.core ck).mad
  let d := peDom (m.entry f.failing)
  let x := m.dom d
  let va := f.cell + 2 ^ 8 * d + 2 ^ 10 * f.input + 2 ^ 12 * f.emitter
  let s := match x.run with
    | none => s
    | some r =>
      (s.setMad ck (m.setDom d { x with run := none })).dstepEnds d x.dcnt r (d * 256 + f.cause)
        |>.recordFault r.who f.cause d r.who.act (BitVec.ofNat 64 va)
  [0, 1, 2, 3].foldl (fun t d => t.endSlots ck d 1) s

/-- A domain steps that reads a cell whose parity is wrong (24:R465). -/
def Madder.spoilt (m : Madder) (ds : List Nat) : Bool :=
  (List.range 256).any (fun k => (m.cell k).bad && ds.contains (peDom (m.entry k)))

/-- The steps of the earliest due cycle of an array. One that reads a cell whose parity is wrong is an uncorrected error of the context, which
ends its kill (24:R465, R466). -/
def State.madStep (s : State) (ck : Nat) : State :=
  let m := (s.core ck).mad
  match m.dueAt with
  | none => s
  | some t =>
    if s.now < t ∨ s.frozen (slOfCk ck) then s
    else
      let ds := [0, 1, 2, 3].filter (fun d => (m.dom d).nextAt == some t)
      if m.spoilt ds then
        (s.modDie (s.clusDie (slOfCk ck) (clkOfCk ck % 1024)) (fun d => { d with ue := (d.ue + 1) % 2 ^ 64 })).killPlain
          (s.runCx (slOfCk ck)) 0x84
      else
      match m.stepDoms ds with
      | .error f => s.madFail ck f
      | .ok m' => ds.foldl (fun u d => u.slotStep ck t d) (s.setMad ck m')

/-- MADDER_STEP, 12:R315, R321, 20:R432: every domain due in the earliest cycle not yet stepped steps, all together. -/
def execMadderStep (sl c : Nat) (s : State) : Outcome := .next (s.madStep (ckOf sl c))

/-! ## Pushes (12:R323 to R329) -/

/-- A push into the Madder queue of four. -/
def State.maPut (s : State) (cmd : MaCmd) : State :=
  let s := s.modCore (ckOfGk s.cur) (fun c => { c with mad := { c.mad with q := c.mad.q ++ [{ cmd with who := s.pusher s.word, at_ := s.now }] } })
  if cmd.kind = 1 ∨ cmd.kind = 4 ∨ cmd.kind = 5 ∨ cmd.kind = 6 then s.owe 2 else s

def State.maRoom (s : State) : Bool := (s.core (ckOfGk s.cur)).mad.q.length < 4

/-- The captured operands of a command as logged. -/
def MaCmd.ops (c : MaCmd) : List FarLane :=
  { lane := 0, loc := c.dom, v := c.opnd.toNat, c := c.sel } ::
    c.lanes.map (fun x => { lane := x.1, loc := x.2.1, v := x.2.2.toNat, c := 0 })

def State.maPush (s : State) (st : BitVec 3) (cmd : MaCmd) : State :=
  s.push st cmd.ops (fun _ => none) State.maRoom (fun s => s.maPut cmd)

/-- A gang command. -/
def maGang (kind dom : Nat) (opnd : Word) : MaCmd :=
  { who := {}, kind := kind, dom := dom, opnd := opnd, sel := 0, lanes := [] }

/-- Selected lanes with their cells and values. -/
def Regs.maLanes (r : Regs) (g : BitVec 4) (a : Nat) (v : Nat → Word) : List (Nat × Nat × Word) :=
  (r.selected g).map (fun l => (l, wbits (r.rdW l a) 0 8, v l))

/-- DCFG, 12:R325: sets the divider of a domain. -/
def execDcfg (st : BitVec 3) (a : BitVec 5) (m : BitVec 2) (s : State) : Outcome :=
  .next (s.maPush st (maGang 0 m.toNat (s.regs.gangOp a.toNat)))

/-- DPATCH, 12:R325: replaces the patch table. -/
def execDpatch (st : BitVec 3) (a : BitVec 5) (s : State) : Outcome :=
  .next (s.maPush st (maGang 1 0 (s.regs.gangOp a.toNat)))

/-- DSETY, 12:R326: sets integrands. -/
def execDsety (st : BitVec 3) (a b : BitVec 5) (g : BitVec 4) (s : State) : Outcome :=
  let r := s.regs
  .next (s.maPush st { maGang 2 0 0#64 with lanes := r.maLanes g a.toNat (fun l => r.rdW l b.toNat) })

/-- DSETR, 12:R326: sets residues and clears output counts. -/
def execDsetr (st : BitVec 3) (a b : BitVec 5) (g : BitVec 4) (s : State) : Outcome :=
  let r := s.regs
  .next (s.maPush st { maGang 3 0 0#64 with lanes := r.maLanes g a.toNat (fun l => r.rdW l b.toNat) })

/-- DSAVE, 12:R328: a snapshot of the array to TCM. -/
def execDsave (st : BitVec 3) (a : BitVec 5) (s : State) : Outcome :=
  .next (s.maPush st (maGang 4 0 (s.regs.gangOp a.toNat)))

/-- DREST, 12:R328: the array from an image in TCM. -/
def execDrest (st : BitVec 3) (a : BitVec 5) (s : State) : Outcome :=
  .next (s.maPush st (maGang 5 0 (s.regs.gangOp a.toNat)))

/-- DSTEP, 12:R327: steps of a domain. -/
def execDstep (st : BitVec 3) (a : BitVec 5) (m : BitVec 2) (s : State) : Outcome :=
  .next (s.maPush st (maGang 6 m.toNat (s.regs.gangOp a.toNat)))

/-- DSTOP, 12:R329: ends the steps of the domains in a mask. -/
def execDstop (st : BitVec 3) (m : BitVec 4) (s : State) : Outcome :=
  .next (s.maPush st { maGang 7 0 0#64 with sel := m.toNat })

/-- DINJ, 12:R326: leaves increments in port latches. -/
def execDinj (st : BitVec 3) (a : BitVec 5) (n : BitVec 1) (g : BitVec 4) (s : State) : Outcome :=
  .next (s.maPush st { maGang 8 0 0#64 with sel := n.toNat, lanes := s.regs.maLanes g a.toNat (fun _ => 0#64) })

/-- A read that holds the gang until its lanes are written (12:R326, 08:R214). -/
def State.maAsk (s : State) (st : BitVec 3) (d : Nat) (cmd : MaCmd) : State :=
  s.pushAsk st cmd.ops (fun _ => none) State.maRoom (fun s => s.maPut cmd) (fun res s =>
    s.holdW d ((cmd.lanes.zip res).map (fun x => (x.1.1, BitVec.ofNat 64 x.2))))

/-- DRDO, 12:R326: reads output counts or residues. -/
def execDrdo (st : BitVec 3) (d a : BitVec 5) (k : BitVec 1) (g : BitVec 4) (s : State) : Outcome :=
  .next (s.maAsk st d.toNat { maGang 9 0 0#64 with sel := k.toNat, lanes := s.regs.maLanes g a.toNat (fun _ => 0#64) })

/-- DRDY, 12:R326: reads integrands. -/
def execDrdy (st : BitVec 3) (d a : BitVec 5) (g : BitVec 4) (s : State) : Outcome :=
  .next (s.maAsk st d.toNat { maGang 10 0 0#64 with lanes := s.regs.maLanes g a.toNat (fun _ => 0#64) })

/-! ## The image (12:R330) -/

/-- The two bits of a latch. -/
def latchBits (v : Int) : Nat := if v = 0 then 0 else if 0 < v then 1 else 3
def latchOf (n : Nat) : Int := if n = 1 then 1 else if n = 3 then -1 else 0

/-- The 8,448 bytes after the header. -/
def Madder.body (m : Madder) : List Byte :=
  (List.range 4).flatMap (fun d =>
    let x := m.dom d
    leBytes 8 x.dcnt.toNat ++ leBytes 4 x.div ++ List.replicate 52 0#8) ++
  (List.range 256).flatMap (fun k =>
    let c := m.cell k
    leBytes 8 (patN c.y 64) ++ leBytes 8 c.r ++ leBytes 4 c.o.toNat ++
      leBytes 4 (latchBits c.dx + 4 * latchBits c.dy1 + 16 * latchBits c.dy2 + 64 * latchBits c.port)) ++
  (List.range 256).flatMap (fun k => leBytes 8 (m.entry k).toNat)

/-- The 64-bit words of bytes. -/
def wordsOf (bs : List Byte) (n : Nat) : List Nat := (List.range n).map (fun i => leNat ((bs.drop (8 * i)).take 8))

/-- The image of an array. -/
def Madder.image (m : Madder) : List Byte :=
  let b := m.body
  let v0 := 1 + 256 * 2 ^ 32
  let sum := (wordsOf b 1056).foldl (· + ·) v0
  leBytes 8 v0 ++ leBytes 8 (sum % 2 ^ 64) ++ List.replicate 48 0#8 ++ b

/-- The 32-bit words of an image that must be zero, and those of the header that are fixed: offset and value. -/
def imageFixed : List (Nat × Nat) :=
  [(0, 1), (4, 256)] ++ (List.range 12).map (fun i => (16 + 4 * i, 0)) ++
    (List.range 4).flatMap (fun d => (List.range 13).map (fun i => (64 + 64 * d + 12 + 4 * i, 0)))

/-- The first word that breaks the layout: detail and offset, in the order of 20:R434; a divider's upper half and a latch
word's upper bits are zero fields. -/
def badImage (bs : List Byte) : Option (Nat × Nat) :=
  let w32 (o : Nat) : Nat := leNat ((bs.drop o).take 4)
  let w64 (o : Nat) : Nat := leNat ((bs.drop o).take 8)
  let z1 := (imageFixed.filter (fun e => w32 e.1 != e.2)).map (fun e => e.1)
  let z2 := ((List.range 4).map (fun d => 64 + 64 * d + 8)).filter (fun o => 65536 ≤ w32 o)
  let z3 := ((List.range 256).map (fun k => 320 + 24 * k + 20)).filter (fun o => 256 ≤ w32 o)
  match minBy (fun o : Nat => o) (z1 ++ z2 ++ z3) with
  | some o => some (2, o)
  | none =>
    let sum := (wordsOf bs 1064).foldl (· + ·) 0
    if (sum + 2 ^ 64 - w64 8) % 2 ^ 64 ≠ w64 8 then some (3, 8)
    else
      let e (k : Nat) : Word := BitVec.ofNat 64 (w64 (6464 + 8 * k))
      let r1 := ((List.range 256).filter (fun k => 2 ^ peNw (e k) ≤ w64 (320 + 24 * k + 8))).map (fun k => 320 + 24 * k + 8)
      let r2 := ((List.range 256).map (fun k => 320 + 24 * k + 20)).filter (fun o =>
        (List.range 4).any (fun i => nbits (w32 o) (2 * i) 2 == 2))
      let r3 := ((List.range 256).filter (fun k => !peOk (e k))).map (fun k => 6464 + 8 * k)
      (minBy (fun o : Nat => o) (r1 ++ r2 ++ r3)).map (fun o => (4, o))

/-- The array that an image holds; slots are empty (12:R328). -/
def Madder.ofImage (m : Madder) (bs : List Byte) : Madder :=
  let w32 (o : Nat) : Nat := leNat ((bs.drop o).take 4)
  let w64 (o : Nat) : Nat := leNat ((bs.drop o).take 8)
  { m with
    doms := (List.range 4).map (fun d =>
      (d, { div := w32 (64 + 64 * d + 8), dcnt := BitVec.ofNat 64 (w64 (64 + 64 * d)) }))
    cells := (List.range 256).map (fun k =>
      let o := 320 + 24 * k
      let l := w32 (o + 20)
      (k, { y := sintN (w64 o) 64, r := w64 (o + 8), o := BitVec.ofNat 32 (w32 (o + 16)), dx := latchOf (nbits l 0 2)
            dy1 := latchOf (nbits l 2 2), dy2 := latchOf (nbits l 4 2), port := latchOf (nbits l 6 2) }))
    patch := (List.range 256).map (fun k => (k, BitVec.ofNat 64 (w64 (6464 + 8 * k)))) }

/-- The array under a new patch table (12:R319). -/
def Madder.repatch (m : Madder) (bs : List Byte) : Madder :=
  let e (k : Nat) : Word := BitVec.ofNat 64 (leNat ((bs.drop (8 * k)).take 8))
  { m with
    cells := (List.range 256).map (fun k =>
      let c := m.cell k
      (k, if peNw (e k) < peNw (m.entry k) then { c with r := c.r % 2 ^ peNw (e k) } else c))
    patch := (List.range 256).map (fun k => (k, e k)) }

/-! ## Commands (12:R321, R325 to R329, 20:R433, R434) -/

/-- The engine's check of an image or table in the issuing core's TCM. -/
def State.maTcm (s : State) (ck : Nat) (c : MaCmd) : EngChk :=
  if c.kind = 1 then s.tcmRead ck c.opnd.toNat 2048 8 else s.tcmRead ck c.opnd.toNat 8512 64

/-- A table, snapshot or image command ends with a fault (20:R434). -/
def State.maFail (s : State) (c : MaCmd) (cause detail : Nat) (va : Nat) : State :=
  (s.writeRec c.who 2 (maRec c.kind 0 0 (detail * 256 + cause) 0#64)).recordFault c.who cause detail c.who.act
    (BitVec.ofNat 64 va)

/-- Lanes of a `dinj` that fail: their cell's port latch is occupied, or an earlier lane injects into it (20:R433). -/
def Madder.injFail (m : Madder) (seen : List Nat) : List (Nat × Nat × Word) → List (Nat × Nat)
  | [] => []
  | (l, k, _) :: t =>
    let rest := m.injFail (k :: seen) t
    if (m.cell k).port ≠ 0 ∨ seen.contains k then (l, k) :: rest else rest

/-- The values of a read, in lane order (12:R326). -/
def Madder.readLane (m : Madder) (kind sel k : Nat) : Nat :=
  let c := m.cell k
  if kind = 10 then patN c.y 64 else if sel = 0 then (c.o.signExtend 64).toNat else c.r

/-- The cycles in which a table or image is read, 64 bytes in each (12:R325, R328). -/
def MaCmd.readCycles (c : MaCmd) : Nat := if c.kind = 1 then 32 else 133

/-- Bytes of a transfer of n cycles that are due, when it ends in cycle t. -/
def dueBytes (n t now : Nat) : Nat := 64 * (n - (t - now))

/-- Performs a command that has left the queue, other than one that waits for something. -/
def State.maDo (s : State) (ck : Nat) (c : MaCmd) : State :=
  let m := (s.core ck).mad
  match c.kind with
  | 0 =>
    let x := m.dom c.dom
    let k := wbits c.opnd 0 16
    let run := x.run.map (fun r => { r with next := if r.prev + (k + 1) ≤ s.now then s.now + 1 else r.prev + (k + 1) })
    s.setMad ck (m.setDom c.dom { x with div := k, run := run })
  | 2 => s.setMad ck (c.lanes.foldl (fun m e => m.setCell e.2.1 { m.cell e.2.1 with y := e.2.2.toInt }) m)
  | 3 => s.setMad ck (c.lanes.foldl (fun m e =>
      m.setCell e.2.1 { m.cell e.2.1 with r := e.2.2.toNat % 2 ^ peNw (m.entry e.2.1), o := 0#32 }) m)
  | 4 =>
    (match s.maTcm ck c with
     | .ok _ => s.setMad ck { m with saving := m.saving ++ [(c, s.now + 133, m.image)] }
     | .bad va _ cause => s.maFail c cause 0 va
     | .stage2 _ _ _ _ => s)
  | 6 =>
    let x := m.dom c.dom
    let n := wbits c.opnd 0 32
    let d : DStep := { who := c.who, n := n, done := 0, next := s.now + (x.div + 1), prev := s.now }
    if n = 0 then s.writeRec c.who 2 (maRec 6 c.dom 0 0 x.dcnt)
    else if x.run.isNone then s.setMad ck (m.setDom c.dom { x with run := some d })
    else s.setMad ck (m.setDom c.dom { x with pend := some d })
  | 8 =>
    (match m.injFail [] c.lanes with
     | [] => s.setMad ck (c.lanes.foldl (fun m e =>
         m.setCell e.2.1 { m.cell e.2.1 with port := if c.sel = 1 then -1 else 1 }) m)
     | (l, k) :: t => s.recordFault c.who 0x0e 0 (maskOf (l :: t.map (fun e => e.1))) (BitVec.ofNat 64 (k + 3 * 2 ^ 10)))
  | 9 | 10 => s.answer c.who (c.lanes.map (fun e => m.readLane c.kind c.sel e.2.1))
  | _ => s

/-- The head command waits: a `dpatch` or `drest` for empty slots, a `dstep` for a free one (12:R325, R327, R328). -/
def Madder.waits (m : Madder) (c : MaCmd) : Bool :=
  let x := m.dom c.dom
  match c.kind with
  | 1 | 5 => m.reading.isSome || [0, 1, 2, 3].any (fun d => (m.dom d).run.isSome || (m.dom d).pend.isSome)
  | 6 => m.reading.isSome || (wbits c.opnd 0 32 != 0 && x.run.isSome && x.pend.isSome)
  | _ => m.reading.isSome

/-- A `dstop` ends the steps of its domains and those of `dstep` commands ahead of it, which leave the queue (12:R329). -/
def State.doDstop (s : State) (ck i : Nat) (c : MaCmd) : State :=
  let m := (s.core ck).mad
  let hit (x : MaCmd) : Bool := x.kind == 6 && nbits c.sel x.dom 1 == 1
  let ahead := m.q.take i
  let s := s.setMad ck { m with q := ahead.filter (fun x => !hit x) ++ m.q.drop (i + 1), free := s.now + 1 }
  let s := ([0, 1, 2, 3].filter (fun d => nbits c.sel d 1 = 1)).foldl (fun t d => t.endSlots ck d 1) s
  (ahead.filter hit).foldl (fun t x => t.writeRec x.who 2 (maRec 6 x.dom 0 1 (m.dom x.dom).dcnt)) s

/-- A `dstop` that entered the queue in an earlier cycle (12:R329). -/
def MaCmd.stops (now : Nat) (c : MaCmd) : Bool := c.kind == 7 && decide (c.at_ < now)

/-- When the first `dstop` of a queue is performed: in the first cycle after it entered in which no other command is (12:R321, R329). -/
def Madder.stopAt (m : Madder) : Option Nat := (m.q.find? (fun c => c.kind == 7)).map (fun c => max (c.at_ + 1) m.free)

/-- Performs the first `dstop` whose cycle has come. -/
def State.madStop (s : State) (ck : Nat) : State :=
  let m := (s.core ck).mad
  if s.now < m.free ∨ s.frozen (slOfCk ck) then s
  else
    match m.q.findIdx? (MaCmd.stops s.now) with
    | some i => s.doDstop ck i (m.q.getD i (maGang 7 0 0#64))
    | none => s

/-- MADDER_COMMAND, 12:R321, R323, R329: after the cycle's steps one command is performed: a `dstop` that entered in an earlier cycle,
otherwise the head of the queue unless it waits or is a `dstop` that has entered in this one. -/
def execMadderCommand (sl cc : Nat) (s : State) : Outcome :=
  let ck := ckOf sl cc
  let m := (s.core ck).mad
  let late := match m.dueAt with
    | some t => decide (t ≤ s.now)
    | none => false
  .next (
    if late = true ∨ s.now < m.free ∨ s.frozen sl then s
    else
      match m.q.findIdx? (MaCmd.stops s.now) with
      | some _ => s.madStop ck
      | none =>
        match m.q with
        | [] => s
        | c :: t =>
          if m.waits c || c.kind == 7 then s
          else
            let s := s.setMad ck { m with q := t, free := s.now + 1 }
            if c.kind = 1 ∨ c.kind = 5 then
              match s.maTcm ck c with
              | .bad va _ cause => s.maFail c cause 0 va
              | _ =>
                s.setMad ck { (s.core ck).mad with reading := some (c, s.now + c.readCycles, []) }
            else s.maDo ck c)

/-- MADDER_READ_DONE, 12:R325, R328, 20:R434: the bytes of a table or image that are due are read as they stand; when the last is, it is checked
and applied. -/
def execMadderReadDone (sl cc : Nat) (s : State) : Outcome :=
  let ck := ckOf sl cc
  let m := (s.core ck).mad
  .next (match m.reading with
    | none => s
    | some (c, t, got) =>
      if s.preempted sl then s
      else
        match s.maTcm ck c with
        | .ok ps =>
          let bs := got ++ ((s.engBytes (s.runCx sl) ps).take (dueBytes c.readCycles t s.now)).drop got.length
          if s.now < t then s.setMad ck { m with reading := some (c, t, bs) }
          else
          let s := s.setMad ck { m with reading := none }
          let m := (s.core ck).mad
          let ok (m : Madder) : State := (s.setMad ck m).writeRec c.who 2 (maRec c.kind 0 0 0 0#64)
          if c.kind = 1 then
            match (List.range 256).find? (fun k => !peOk (BitVec.ofNat 64 (leNat ((bs.drop (8 * k)).take 8)))) with
            | some k => s.maFail c 0x02 1 k
            | none => ok (m.repatch bs)
          else
            match badImage bs with
            | some (d, o) => s.maFail c 0x02 d o
            | none => ok (m.ofImage bs)
        | _ => s)

/-- A snapshot goes on: the bytes that are due are written, and after the last its record is. A sole grant of another gang holds them. -/
def State.saveOn (s : State) (ck : Nat) (e : MaCmd × Nat × List Byte) : State :=
  let (c, t, bs) := e
  let n := dueBytes 133 t s.now - (8512 - bs.length)
  let at_ := c.opnd.toNat - 0x1_0000 + (8512 - bs.length)
  let ws := (bs.take n).zipIdx.map (fun e => (tcmLoc ck (at_ + e.2), e.1))
  let keep (s : State) (l : List Byte) : State :=
    let m := (s.core ck).mad
    s.setMad ck { m with saving := m.saving ++ [(c, t, l)] }
  if s.engHeld c.who (secsOf ws) then keep s bs
  else
    let s := s.engWrite (slOfCk ck) ws
    if bs.length ≤ n then s.writeRec c.who 2 (maRec 4 0 0 0 0#64) else keep s (bs.drop n)

/-- DSAVE_WRITTEN, 12:R328, 20:R434: snapshots are written over their 133 cycles, 64 bytes in each, and then their records. -/
def execDsaveWritten (sl cc : Nat) (s : State) : Outcome :=
  let ck := ckOf sl cc
  let m := (s.core ck).mad
  .next (if s.preempted sl then s else m.saving.foldl (fun t e => t.saveOn ck e) (s.setMad ck { m with saving := [] }))

end Sys2Proof.Machine
end

