-- ==== Sys2Proof/Machine/Order.lean ====
section
/-!
DEFINITION. What happens outside issue to what gangs have issued: commits, far operations, results that land, deliveries, host
writes and wakes (06:R153 to R157, R168 to R171, 08:R213, R217, 10:R264, R271, R281, 03:R86, R91).
-/

namespace Sys2Proof.Machine

/-! ## Commits (06:R148, R153) -/

/-- The gang is ready from this cycle on (03:R83, R91). -/
def State.ready (s : State) (gk : Nat) : State := s.modGang gk (fun g => { g with wait := none, readyAt := max g.readyAt s.now })

/-- CHUNK_COMMIT, 06:R153: a chunk that has ended, after its 512th word or before a word that waits for the grants, takes its
grants and publishes its writes at one point. -/
def execChunkCommit (gk : Nat) (s : State) : Outcome :=
  let g := s.gang gk
  .next (
    if g.live && !g.spec && g.ch.snap.isSome && (decide (512 ≤ g.ch.count) || g.wait == some .grant)
        && !s.commitBlocked gk && !g.stopped && s.mayRun (slOfGk gk) then
      let s := s.commitNow gk
      if g.wait == some .grant then s.ready gk else s
    else s)

/-- Sends the records a task held back, those of one instruction after another, each its own trains (03:R85, 15:R376). -/
def State.sendHeldBack (s : State) (gk : Nat) (held : List (List (Bool × Nat × Packet))) : State :=
  let c := s.cur
  let s := held.foldl (fun t h => t.release (qkOfGk gk) (ckOfGk gk) (h.filterMap (fun e => if e.1 then some e.2.2 else none))
    (h.filterMap (fun e => if e.1 then none else some e.2))) { s with cur := gk }
  { s with cur := c }

/-- What a task holds back goes to its core's deque, which has served its operation of this cycle (03:R81). The release of all of it is one
operation (log 43). -/
def State.dequeBusy (s : State) (gk : Nat) (t : Task) : Bool :=
  t.held.any (fun h => h.any (fun e => e.1)) && decide (s.now < (s.core (ckOfGk gk)).dqBy)

/-- TASK_COMMIT, 03:R86, 06:R180: a finished task that holds the lowest uncommitted timestamp commits, its held-back records go
out, and its gang ends. -/
def execTaskCommit (gk : Nat) (s : State) : Outcome :=
  let g := s.gang gk
  .next (match g.task with
    | some t =>
      if g.live && t.spec && t.finished && s.holdsLowest gk && !s.commitBlocked gk && !g.stopped && !s.dequeBusy gk t
          && s.mayRun (slOfGk gk) then
        let s := s.commitNow gk
        let s := s.modGang gk (fun g => { g with far := g.far.filter (fun o => !(o.use == 4 && o.pid.isNone && o.perf)) })
        let s := s.modGang gk (fun g => { g with far := g.far.map (fun o => { o with prior := [] }) })
        (s.sendHeldBack gk t.held).endGang gk
      else s
    | none => s)

/-! ## Far operations (06:R156, R168 to R171, 10:R271, 19:R408) -/

/-- The values that some bytes held before each of some changes of memory, the newest change first. -/
def pastValues (loc : Nat) (bs : List Byte) : List (List (Nat × Byte)) → List Nat
  | [] => []
  | e :: t =>
    let bs := bs.zipIdx.map (fun b =>
      match e.find? (fun x => x.1 == loc + b.2) with
      | some x => x.2
      | none => b.1)
    leNat bs :: pastValues loc bs t

/-- A value of use quantum: one that the location held between the later of the gang's last observation of it and its last
acquire, and now, whatever wrote it (06:R168; log 5). For a gang that has neither observed nor acquired the spec names no beginning,
and the model takes the reset (log 45). -/
def State.quantum (s : State) (g : Gang) (loc size old : Nat) : Nat :=
  let from_ := (List.range size).foldl (fun m i => max m (tget 0 g.obs (loc + i))) g.obsAcq
  let vs := old :: pastValues loc (leBytes size old) (s.farHist.take (s.farHist.length - from_))
  vs.getD (Config.quantumPick s.fresh vs.length % vs.length) old

/-- A far operation returns what it saw: neither of use commutative, nor a store (06:R168, R169). -/
def FarOp.observes (o : FarOp) : Bool := o.use != 1 && o.op != 12

/-- One lane of a far operation at its location: the value returned, whether it modified the location, and the state after it. -/
def State.farLane (s : State) (gk : Nat) (o : FarOp) (i : Nat) (x : FarLane) : Nat × Bool × State :=
  let g := s.gang gk
  let key := s.keyNo (s.gangCx gk)
  let old := s.rdNat key x.loc o.size
  let (new, _) := atomNew o.op o.size (o.frms.getD i 0#3).toNat old x.v x.c
  let ret := if o.use = 3 then s.quantum g x.loc o.size old else old
  let wrote := o.op != 11 && (o.op != 9 || old == x.c % 2 ^ (8 * o.size))
  let s := if wrote then s.wrBytes key x.loc (leBytes o.size new) else s
  let s := if o.observes then s.modGang gk (fun g => g.observe x.loc o.size s.farHist.length) else s
  (ret, wrote, s.bump)

/-- The lanes of one group in order. -/
def State.farLanes (s : State) (gk : Nat) (o : FarOp) : List (Nat × FarLane) → List Nat × Bool × State
  | [] => ([], false, s)
  | (i, x) :: t =>
    let (v, b, s) := s.farLane gk o i x
    let (vs, c, s) := s.farLanes gk o t
    (v :: vs, b || c, s)

/-- The places of the lanes of an operation that have not been performed. -/
def FarOp.left (o : FarOp) : List (Nat × FarLane) :=
  ((List.range o.lanes.length).zip o.lanes).filter (fun e => o.got.all (fun d => d.1 != e.1))

/-- The locations that have not been performed. -/
def FarOp.locsLeft (o : FarOp) : List Nat := addSet [] (o.left.map (fun e => e.2.loc))

/-- The lanes that are performed next: those at one of the locations that may be performed now, which of several is open (10:R271;
log 5). -/
def FarOp.nextGroup (o : FarOp) (may : Nat → Bool) (fresh : Nat) : List (Nat × FarLane) :=
  let ls := o.locsLeft.filter may
  match ls[Config.farPick fresh ls.length % ls.length]? with
  | none => []
  | some loc => o.left.filter (fun e => e.2.loc == loc)

/-- Operations of the gang before one in issue order. -/
def farBefore (id : Nat) : List FarOp → List FarOp
  | [] => []
  | o :: t => if o.id = id then [] else o :: farBefore id t

/-- Same-location order holds: the gang's earlier far operations on any byte of the location have been performed (06:R169). -/
def Gang.locReady (g : Gang) (o : FarOp) (loc : Nat) : Bool :=
  decide (o.use ≤ 1) || (farBefore o.id g.far).all (fun p => p.left.all (fun x => !overlaps x.2.loc p.size loc o.size))

/-- A location of an operation that its unit may perform now: the gang's earlier operations there are done, it can be reached, and no sole
grant covers it (06:R156, R169). -/
def State.farMay (s : State) (gk : Nat) (o : FarOp) (loc : Nat) : Bool :=
  (s.gang gk).locReady o loc && (spaceOfLoc loc != 1 || s.links.reaches loc)
    && (o.op == 11 || !s.covered (some gk) (sectorsOf loc o.size))

/-- FAR_OP_PERFORMED, 06:R168, R169, 10:R271: the lanes at the operation's next location are performed at the unit that holds
it, once, in ascending lane order; chunks that used the sector are squashed (19:R408). -/
def execFarOpPerformed (gk id : Nat) (s : State) : Outcome :=
  let g := s.gang gk
  .next (match g.far.find? (fun o => o.id == id && !o.perf) with
    | none => s
    | some o =>
      match o.nextGroup (s.farMay gk o) s.fresh with
      | [] =>
        if o.left.isEmpty then
          s.modGang gk (fun g => { g with far := g.far.map (fun p => if p.id == id then { p with perf := true } else p) })
        else s
      | (i, x) :: t =>
          match s.specGate gk x.loc o.size with
          | none => s.bump
          | some s =>
            let old := s.rdNat (s.keyNo (s.gangCx gk)) x.loc o.size
            -- before the unit performs it, the home invalidates every copy of the line (04:R121)
            let s := s.dirAll (slOfGk gk) Cluster.uncache (sectorsOf x.loc o.size)
            let (vs, wrote, s) := s.farLanes gk o ((i, x) :: t)
            let got := o.got ++ (((i, x) :: t).zip vs).map (fun e => (e.1.1, e.2))
            let s := s.modGang gk (fun g => { g with
              far := g.far.map (fun p => if p.id == id then
                { p with got := got, perf := got.length == p.lanes.length
                         prior := if o.use = 4 then p.prior ++ [(x.loc, old)] else p.prior } else p) })
            let s := if wrote && spaceOfLoc x.loc == 1 then
                { s with links := { s.links with unacked := s.links.unacked ++ [{ gk := gk, pa := x.loc, va := x.va, old := 0#8, far := true, at_ := s.clock.run }] } } else s
            if wrote && spaceOfLoc x.loc != 1 then s.squashUsers (sectorsOf x.loc o.size) else s)

/-- Marks an entry of the far-operation log as answered. -/
def logDone (k : Nat) (res : List Nat) : List FarLog → List FarLog
  | [] => []
  | e :: t => if k = 0 then { e with done := true, res := res } :: t else e :: logDone (k - 1) res t

/-- Gives a pending write the results of its far operation and lands it. -/
def Gang.giveFar (g : Gang) (now : Nat) (o : FarOp) : Gang :=
  match o.pid with
  | none => g
  | some i =>
    match g.pend.find? (fun w => w.id == i) with
    | none => g
    | some w => g.landVar now { w with vals := if w.dst.isEmpty then [] else fillVals o.ext o.size o.slots o.res w.vals, ready := true }

/-- A landing write keeps the order of TCM: loads from it complete in issue order, behind the gang's wide-accumulator updates (08:R217,
11:R295). -/
def Gang.tcmMay (g : Gang) (now : Nat) (w : PendWrite) : Bool :=
  !(w.tcm && (g.pend.find? (fun x => x.tcm)).any (fun x => x.id != w.id)) && decide (w.after ≤ now)

/-- FAR_RESULT_RETURN, 10:R271, 06:R152: the results enter the log and the registers, and the counter is lowered. A task's
speculative operation stays recorded until the task ends (06:R171). -/
def execFarResultReturn (gk id : Nat) (s : State) : Outcome :=
  .next (match (s.gang gk).far.find? (fun o => o.id == id && o.perf) with
    | none => s
    | some o =>
      if !((s.gang gk).pend.filter (fun w => o.pid == some w.id)).all ((s.gang gk).tcmMay s.now) then s
      else s.modGang gk (fun g =>
        let g := match o.logAt with
          | some k => { g with ch := { g.ch with log := logDone k o.res g.ch.log } }
          | none => g
        let g := g.giveFar s.now o
        { g with
          far := if o.use = 4 ∧ !o.prior.isEmpty then
              g.far.map (fun p => if p.id == id then { p with pid := none, logAt := none } else p)
            else g.far.filter (fun p => p.id != id)
          obsAcq := if o.use = 5 ∨ o.use = 7 then s.farHist.length else g.obsAcq }))

/-! ## Register writes that land (08:R213, R217, 10:R264, 09:R260) -/

/-- LOAD_COMPLETE, 10:R264, 08:R217: a variable-latency write whose values are present lands and lowers its counter; loads from
TCM complete in issue order, behind the gang's wide-accumulator updates (11:R295). -/
def execLoadComplete (gk id : Nat) (s : State) : Outcome :=
  .next (s.modGang gk (fun g =>
    match g.pend.find? (fun w => w.id == id && w.land == none && w.ready) with
    | none => g
    | some w => if g.tcmMay s.now w then g.landVar s.now w else g))

/-- FIXED_LATENCY_WRITE, 08:R213: a result of fixed latency lands once its cycle has come. -/
def execFixedLatencyWrite (gk id : Nat) (s : State) : Outcome :=
  .next (s.modGang gk (fun g =>
    match g.pend.find? (fun w => w.id == id) with
    | none => g
    | some w =>
      match w.land with
      | some t => if t ≤ s.now then g.land w else g
      | none => g))

/-- ACCW_UPDATE_DONE, 11:R295: the wide-accumulator unit finishes its oldest queued update or read, once its cycles are over. -/
def execAccwUpdateDone (sl c : Nat) (s : State) : Outcome :=
  .next (s.modCore (ckOf sl c) (fun x =>
    match x.accq with
    | [] => x
    | e :: t => if e.2 ≤ s.now then { x with accq := t } else x))

/-! ## Host writes (06:R157) -/

/-- Writes bytes that keep each sector under the key it has; a sector that nothing has written yet takes a key, the device's for a host
write (14:R359, log 25). -/
def State.wrHost (s : State) (key loc : Nat) (bs : List Byte) : State :=
  let take (m : Tab Nat) (sec : Nat) : Tab Nat := if key = 0 ∨ tget 0 m sec ≠ 0 then m else tput m sec key
  let s := s.remember key ((List.range bs.length).map (fun i => loc + i))
  { s with mem := Memory.setBytes s.mem loc bs, keyOf := (sectorsOf loc bs.length).foldl take s.keyOf }

/-- The sole grant covers one of some sectors. -/
def State.anyCovered (s : State) (secs : List Nat) : Bool := s.covered none secs

/-- HOST_DEVICE_WRITE, 06:R157: a host write to device memory commits as a chunk of its own. -/
def execHostDeviceWrite (loc : Nat) (bytes : List (BitVec 8)) (s : State) : Outcome :=
  let secs := sectorsOf loc bytes.length
  .next (
    if bytes.isEmpty ∨ spaceOfLoc loc ≠ 0 ∨ s.links.fjoadDown ∨ s.anyCovered secs then s
    else
      let s := s.uncacheAll secs
      (s.wrHost s.ochre.devKey loc bytes).squashReaders none secs)

/-! ## Mail (10:R281) -/

/-- MAIL_DELIVERY, 10:R281, 04:R124: the first value on its way to a core enters its mailbox, or its mail buffer. -/
def execMailDelivery (sl c : Nat) (s : State) : Outcome :=
  let ck := ckOf sl c
  .next (match (s.core ck).inbox with
    | [] => s
    | ⟨m, v, src, no⟩ :: t =>
      if s.sentBefore (qkOfCk ck) src no then s
      else ((s.modCore ck (fun x => { x with inbox := t })).enterMail ck m v).getD s)

/-! ## Waking (03:R91) -/

/-- No stage-2 fault holds a gang (19:R406). -/
def State.noStage2 (s : State) (gk : Nat) : Bool :=
  !s.s2Held (slOfGk gk) (.gang gk)

/-- Whether a word of a gang that waits at its quad's stream port may go on: a `sget` that the port serves, a send with credit, or an audit
to report (10:R284, R285, 19:R416). -/
def State.streamWakes (s : State) (gk : Nat) : Bool :=
  let p := (s.quad (qkOfGk gk)).port
  if p.audit.isSome ∧ p.holder = some gk then true
  else if p.getters.contains gk then p.serves gk s.now
  else decide (0 < p.credit)

/-- Whether a `sopen` of a gang may go on: its quad's send side is free; or, once it holds it, the channel it waits for is free, or its
receiver takes the stream (04:R125, 19:R415). -/
def State.sideWakes (s : State) (gk : Nat) : Bool :=
  let qk := qkOfGk gk
  let p := (s.quad qk).port
  let go := !s.injOff (slOfGk gk)
  if (s.gang gk).prog = 0 then go && p.holder.isNone && !p.closing
  else p.audit.isSome || s.routeOpen qk || (go && !p.opened && p.backoff.isNone && s.channelFree qk)

/-- Whether what a gang waits for may hold. Where the waiting word itself decides it again when it is issued, the gang may
wake at any time (log 26). -/
def State.mayWake (s : State) (gk : Nat) : WaitKind → Bool
  | .mailbox => ({ s with cur := gk } : State).mailView (nbits (s.issueWord gk).toNat 9 5) |>.pres
  | .record => (s.gang gk).cq.any (fun e => !e.2.isEmpty)
  | .grant => !s.commitBlocked gk
  | .stage2 => s.noStage2 gk
  | .drain => !(s.gang gk).varPend
  | .task =>
    (match (s.gang gk).task with
     | some t => t.waitLow && s.holdsLowest gk
     | none => false)
  | .tlbinv => false
  | .barrier | .tile => (s.gang gk).aw.all (fun a => a.met)
  | .stream => s.streamWakes gk
  | .sendSide => s.sideWakes gk
  | _ => true

/-- GANG_WAKE, 03:R91: a waiting gang is ready again once its condition holds. A task that waited for the lowest timestamp goes
on without speculation (03:R85). -/
def execGangWake (gk : Nat) (s : State) : Outcome :=
  let g := s.gang gk
  .next (match g.wait with
    | none => s
    | some k =>
      if g.live && !g.stopped && !s.held gk k && s.mayWake gk k then
        match k with
        | .task => (s.ready gk).modGang gk (fun g => { g with task := g.task.map (fun t => { t with waitLow := false }) })
        | .drain =>
          if g.task.any (fun t => t.waitLow) then s.modGang gk (fun g => { g with wait := some .task }) else s.ready gk
        | _ => s.ready gk
      else s)

end Sys2Proof.Machine
end

