-- ==== Sys2Proof/Machine/Launch.lean ====
section
/-!
DEFINITION. From a queue record to first packets: appends, selection and refusal, table slots, the start of a context switch,
injection, crews and completion (07:R185 to R201, 18:R395 to R397, 21:R439, 14:R363).
-/

namespace Sys2Proof.Machine

/-! ## Host appends (07:R187, R188, 21:R439) -/

/-- The slice of a queue's function, when the context that the queue is bound to is resident there (14:R357, 07:R187). -/
def State.queueSlice (s : State) (q : WorkQueue) : Option Nat :=
  let sl := (s.vf q.vf).slice
  let x := s.ctx (cxOf sl q.ctx)
  if x.live && x.vf == q.vf then some sl else none

/-- Reads the head of a queue, in the cycle in which a record becomes head (07:R183). -/
def State.seeQueue (s : State) (n : Nat) : State :=
  let q := tget {} s.mgmt.queues n
  match s.queueSlice q with
  | none => s
  | some sl => s.queueHead sl q.ctx n q

/-- Appends a record to a queue that has room (07:R188); rings are the hypervisor's memory, under the device key (14:R359). -/
def State.appendRec (s : State) (n : Nat) (bytes : List Byte) : State :=
  let q := tget {} s.mgmt.queues n
  let a := q.ring + 64 * q.tail
  let s := (s.wrBytes s.ochre.devKey a bytes).squashReaders none (sectorsOf a 64)
  let s := { s with mgmt := { s.mgmt with queues := tput s.mgmt.queues n { q with tail := (q.tail + 1) % 2 ^ q.ldep } } }
  s.seeQueue n

/-- A queue has no room for a record (07:R187). -/
def WorkQueue.isFull (q : WorkQueue) : Bool := (q.tail + 1) % 2 ^ q.ldep == q.head

/-- The enabled queue of a context with the lowest number: the loader's (08:R229). -/
def State.loaderQueue (s : State) (cx : Nat) : Option Nat :=
  minBy id ((s.mgmt.queues.filter (fun e => e.2.en && e.2.ctx == cx % 8 && e.2.vf == (s.ctx cx).vf)).map (fun e => e.1))

/-- The loader appends the records that it has yet to submit, in order, while the queue has room (08:R229). -/
def State.loaderAppend (s : State) (cx : Nat) : List Nat → State
  | [] => s.modCtx cx (fun c => { c with submits := [] })
  | d :: t =>
    match s.loaderQueue cx with
    | none => s.modCtx cx (fun c => { c with submits := d :: t })
    | some n =>
      if (tget {} s.mgmt.queues n).isFull then s.modCtx cx (fun c => { c with submits := d :: t })
      else State.loaderAppend (s.appendRec n (leBytes 8 d ++ List.replicate 56 0#8)) cx t

/-- The loader goes on with what it has yet to submit. -/
def State.loaderSubmits (s : State) (cx : Nat) : State :=
  if (s.ctx cx).submits.isEmpty then s else s.loaderAppend cx (s.ctx cx).submits

/-- Counts and reports a dropped append: 1 full, 2 disabled, 3 foreign, 4 partial (21:R439). -/
def State.dropAppend (s : State) (n why : Nat) : State :=
  let v := (tget {} s.mgmt.queues n).vf
  let s := s.modVf v (fun f =>
    match why with
    | 1 => { f with full := f.full + 1 }
    | 2 => { f with dis := f.dis + 1 }
    | 3 => { f with frgn := f.frgn + 1 }
    | _ => { f with part := f.part + 1 })
  s.event 1 0xff 0xff v n why

/-- HOST_APPEND, 07:R188, 21:R439: a 64-byte write into an append window appends its record. A requester of 64 or more is the
hypervisor (log 27). -/
def execHostAppend (off vf : Nat) (bytes : List (BitVec 8)) (s : State) : Outcome :=
  let n := off / 64
  let q := tget {} s.mgmt.queues n
  .next (
    if s.links.fjoadDown ∨ 65536 ≤ n then s
    else if off % 64 ≠ 0 ∨ bytes.length ≠ 64 then s.dropAppend n 4
    else if vf < 64 ∧ vf ≠ q.vf then s.dropAppend n 3
    else if q.en = false then s.dropAppend n 2
    else if q.isFull then s.dropAppend n 1
    else s.atArbiter (fun s => s.appendRec n bytes))

/-! ## The completion record (07:R201, 18:R396) -/

/-- What becomes of a record write: written, at a stage-2 fault, or failed. -/
inductive DoneWrite where
  | ok (s : State)
  | wait (va ipa : Nat) (table perm : Bool)
  | fail

/-- Eight bytes of a record at a checked place; a write to host or peer memory that is not reached is dropped (21:R455). -/
def State.donePart (s : State) (sl a : Nat) (p : Place) (bs : List Byte) : State :=
  let cx := s.runCx sl
  let s := if p.space = .glob ∨ p.space = .ms ∨ p.space = .host then s.noteAccess (qkOfCk (ckOf sl 0)) cx a true else s
  if p.space = .host then
    if s.links.reaches p.loc then s.wrBytes 0 p.loc bs
    else s.lostAt sl (cx % 8) (s.ctx cx).vf p.loc
  else (s.wrBytes (s.keyNo cx) p.loc bs).squashUsers (sectorsOf p.loc 8)

/-- The check of one half of a record, in shared SRAM or global memory, at trap level 0. -/
def State.doneCheck (s : State) (sl a : Nat) : Chk :=
  if rangeOf a = 3 ∨ rangeOf a = 4 then s.check (ckOf sl 0) a 8 true .plain 0 else .bad 3 0x09

/-- Writes a record as two 8-byte writes, both checked before either is made. -/
def State.tryDone (s : State) (sl a : Nat) (bs : List Byte) : DoneWrite :=
  match s.doneCheck sl a, s.doneCheck sl (a + 8) with
  | .ok p, .ok q => .ok ((s.donePart sl a p (bs.take 8)).donePart sl (a + 8) q (bs.drop 8))
  | .bad _ _, _ => .fail
  | _, .bad _ _ => .fail
  | .stage2 i t p, _ => .wait a i t p
  | _, .stage2 i t p => .wait (a + 8) i t p

/-- A completion that could not be written counts (07:R201). -/
def State.countDoneFail (s : State) (sl : Nat) : State :=
  s.modVf (s.ctx (s.runCx sl)).vf (fun v => { v with doneFail := v.doneFail + 1 })

/-- Writes a completion record; a stage-2 fault holds it, and `counts` says that a failed check adds to the function's count of completions
(07:R201), which a refusal's does not (18:R396). -/
def State.putDone (s : State) (sl a : Nat) (bs : List Byte) (counts : Bool) : State :=
  if a = 0 then s
  else
    match s.tryDone sl a bs with
    | .ok s => s
    | .fail => if counts then s.countDoneFail sl else s
    | .wait va ipa t p =>
      (s.selFault (.done (s.runCx sl) a) sl va ipa true t p).modSlice sl (fun x => { x with dones := x.dones ++ [(a, bs, counts)] })

/-! ## Table submissions (07:R193) -/

/-- Submits the descriptor of a table entry: the instance runs from now on. -/
def State.submit (s : State) (e : Nat) : State :=
  let t := tget {} s.mgmt.table e
  let t' := { t with running := t.running + 1, unread := t.unread + 1 }
  let s := { s with mgmt := { s.mgmt with table := tput s.mgmt.table e t' } }
  s.tabHead t.slice e

/-- An instance of a table entry has ended; with none running, those pending are submitted. -/
def State.instanceEnds (s : State) (tabEnt : Option Nat) : State :=
  match tabEnt with
  | none => s
  | some e =>
    let t := tget {} s.mgmt.table e
    let n := if t.running ≤ 1 then t.pending else 0
    let t' := { t with running := t.running - 1, pending := t.pending - n }
    let s := { s with mgmt := { s.mgmt with table := tput s.mgmt.table e t' } }
    (List.range n).foldl (fun t _ => t.submit e) s

/-! ## Selection and refusal (07:R196, R197, 18:R396, R397) -/

/-- Selection goes on in a slice: a context runs and no switch has stopped it. -/
def State.selects (s : State) (sl : Nat) : Bool :=
  let x := s.slice sl
  x.running.isSome && !x.selStop && x.sw.step == .idle

/-- A head's queue is enabled; the device queue and the table always are. -/
def State.enabledHead (s : State) (h : HeadRec) : Bool := decide (devSrc ≤ h.src) || (tget {} s.mgmt.queues h.src).en

/-- The heads that may be served, one of each source. -/
def State.frontHeads (s : State) (sl : Nat) : List HeadRec :=
  (s.slice sl).heads.foldl (fun acc h =>
    if s.enabledHead h && !acc.any (fun x => x.src == h.src) then acc ++ [h] else acc) []

/-- A head's effective priority (07:R197). -/
def State.effPrio (s : State) (sl : Nat) (h : HeadRec) : Nat :=
  let age := (s.ctx (s.runCx sl)).agestep
  match h.since with
  | none => h.desc.prio
  | some t => if age = 0 then h.desc.prio else min 7 (h.desc.prio + (s.clock.run - t) / (1000 * age))

/-- Place of a source in the round after the one served last: queues, then the device queue (07:R196). The spec gives a table submission no
place: the model puts the entries after the device queue (log 28). -/
def roundPlace (last src : Nat) : Nat :=
  let m := devSrc + 1 + 4096
  (src + m - last - 1) % m

/-- The head to dispatch: the highest effective priority among eligible heads, round robin among equals. Before any head of a priority has
been served the round begins at queue 0, which the spec leaves open (log 28). -/
def State.pickHead (s : State) (sl : Nat) : Option HeadRec :=
  let cands := (s.frontHeads sl).filter (fun h => h.broken == 0 && h.since.isSome)
  let top := cands.foldl (fun m h => max m (s.effPrio sl h)) 0
  minBy (fun h => roundPlace (tget (devSrc + 4096) (s.slice sl).lastServed top) h.src)
    (cands.filter (fun h => s.effPrio sl h == top))

/-- Removes the first head of a source. -/
def dropHead (src : Nat) : List HeadRec → List HeadRec
  | [] => []
  | h :: t => if h.src = src then t else h :: dropHead src t

/-- The record of a head leaves its queue, and the next one becomes head; a loader that waits for room goes on (08:R229). -/
def State.popHead (s : State) (sl src : Nat) : State :=
  let s := s.modSlice sl (fun x => { x with heads := dropHead src x.heads })
  if src < devSrc then
    let q := tget {} s.mgmt.queues src
    let q' := { q with head := (q.head + 1) % 2 ^ q.ldep }
    let s := ({ s with mgmt := { s.mgmt with queues := tput s.mgmt.queues src q' } }).queueHead sl ((s.slice sl).running.getD 0) src q'
    s.loaderSubmits (s.runCx sl)
  else if src = devSrc then (s.modSlice sl (fun x => { x with devq := x.devq.drop 1 })).devHead sl
  else s

/-- The launch number to take: the next one that no unfinished launch holds (07:R63). -/
def freeLaunch (held : List Nat) : Nat → Nat → Nat
  | 0, n => n
  | k + 1, n => if held.contains n then freeLaunch held k ((n + 1) % 65536) else n

/-- A dispatched launch claims its tiles (07:R185). -/
def State.claimTiles (s : State) (cx : Nat) (d : Desc) : State :=
  let s := (List.range d.tin.length).foldl (fun t i =>
    let x := t.tile cx (d.tin.getD i 0)
    t.setTile cx (d.tin.getD i 0) { x with rd := x.rd + 1, cclaim := x.cclaim || nbits d.consume i 1 == 1 }) s
  d.tout.foldl (fun t i => t.setTile cx i { t.tile cx i with wclaim := true }) s

/-- The quads that a launch's first packets may go to: the first `nquad` of the set its entry's block uses (07:R198), and its
live mask (07:R183). -/
def State.launchSet (s : State) (cx : Nat) (d : Desc) : List Nat × W32 :=
  match s.resolve cx d.entry with
  | none => ([], 0#32)
  | some t =>
    let set := d.setFor t.slot t.obj t.rec_.block true
    (if d.nquad = 0 then set else set.take d.nquad, t.rec_.live)

/-- SELECTION, 07:R196, R185, R63: once in a cycle the slice picks one launch, which takes a launch number and its tile claims. A broken head is
refused before any launch is picked. -/
def execSelection (sl : Nat) (s : State) : Outcome :=
  .next (
    if !s.selects sl || (s.frontHeads sl).any (fun h => h.broken != 0) || decide (65536 ≤ (s.slice sl).launches.length)
        || decide (s.now < (s.slice sl).selBy) then s
    else
      match s.pickHead sl with
      | none => s
      | some h => s.atArbiter (fun s =>
        let cx := s.runCx sl
        let p := s.effPrio sl h
        let held := (s.slice sl).launches.map (fun l => l.num)
        let n := freeLaunch held 65536 (s.slice sl).nextLaunch
        let (set, live) := s.launchSet cx h.desc
        let s := s.claimTiles cx h.desc
        let s := s.modSlice sl (fun x => { x with
          nextLaunch := (n + 1) % 65536, selBy := s.now + 1
          lastServed := tput x.lastServed p h.src
          launches := x.launches ++ [{ num := n, ctx := cx % 8, desc := h.desc, tag := h.tag, tabEnt := h.tabEnt, injected := 0
                                       lastClus := 0, unack := [], entered := [], prio := p, set := set, live := live }] })
        s.popHead sl h.src))

/-- Order of refusals: ascending queue number, the device queue last (07:R196). The spec gives a table submission no place: the model puts
it between the queues and the device queue (log 28). -/
def refusalKey (src : Nat) : Nat := if src = devSrc then devSrc + 4097 else src

/-- REFUSAL, 18:R396, R397: the first broken head leaves its queue; its record says 2, or 3 for a crew that fits nowhere.
It takes the selection of its cycle (07:R196). -/
def execRefusal (sl : Nat) (s : State) : Outcome :=
  .next (
    if !s.selects sl || decide (s.now < (s.slice sl).selBy) then s
    else
      match minBy (fun h => refusalKey h.src) ((s.frontHeads sl).filter (fun h => h.broken != 0)) with
      | none => s
      | some h => s.atArbiter (fun s =>
        let v := (s.ctx (s.runCx sl)).vf
        let s := s.modSlice sl (fun x => { x with selBy := s.now + 1 })
        let s := s.modVf v (fun f => { f with refused := f.refused + 1 })
        let s := if h.unread then s
          else s.putDone sl h.desc.done (doneBytes h.tag s.dtc 0xffff h.broken) false
        (s.popHead sl h.src).instanceEnds h.tabEnt))

/-! ## The start of a context switch (14:R363, 07:R194, 18:R400) -/

/-- Scrub runs when the incoming tenant differs from the outgoing one, and when the incoming context demands a token (14:R365). -/
def State.needsScrub (s : State) (sl : Nat) : Bool :=
  match (s.slice sl).sw.inn with
  | none => false
  | some c =>
    let x := s.ctx (cxOf sl c)
    x.tenant != (s.slice sl).sw.outTenant || nbits x.flags 0 1 == 1

/-- What follows once the outgoing image is saved, or when nothing ran: scrub, restore, or nothing. -/
def State.afterSave (s : State) (sl : Nat) : State :=
  let k : LadderStep :=
    if (s.slice sl).sw.inn.isNone then .idle else if s.needsScrub sl then .scrubbing else .restoring
  s.modSlice sl (fun x => { x with sw := { x.sw with step := k, tokenWait := false, rescrub := false } })

/-- Collectives of a slice finish the steps they have begun and begin none after (14:R369). -/
def State.pauseColls (s : State) (sl : Nat) : State :=
  { s with colls := s.colls.map (fun e =>
      if e.2.posted && e.2.sl == sl && e.2.state == 0 then (e.1, { e.2 with paused := true }) else e) }

/-- Starts the ladder for a switch to a context: selection stops; `hard` begins with the halt. A slice that is halted already
counts as halted (18:R400). -/
def State.startSwitch (s : State) (sl : Nat) (inn : Option Nat) (hard : Bool) : State :=
  let x := s.slice sl
  match x.running with
  | none =>
    let s := s.modSlice sl (fun x => { x with
      selStop := true, sw := { x.sw with inn := inn, since := s.clock.run, graceEnd := false
                                         out := if x.sw.step = .scrubbing then x.sw.out else none } })
    -- a scrub after a kill goes on, and the switch after it
    if x.sw.step = .scrubbing then s else s.afterSave sl
  | some c =>
    let halt := hard || (s.ctx (cxOf sl c)).dbg.hlt
    (s.modSlice sl (fun x => { x with
      selStop := true
      sw := { x.sw with step := if halt then .halting else .soft, inn := inn, out := some c, since := s.clock.run
                        graceEnd := halt, outTenant := (s.ctx (cxOf sl c)).tenant, scrubbed := false } })).pauseColls sl

/-! ## Table slots (07:R191 to R194) -/

/-- The latest slot of an entry whose time has come. -/
def TabEntry.reached (t : TabEntry) (dtc : Nat) : Option Nat :=
  if dtc < t.offset then none
  else if t.period = 0 then some 0
  else some ((dtc - t.offset) / t.period)

/-- The next slot to fire: the one after the last that fired, so that none fires twice (07:R192). -/
def TabEntry.next (t : TabEntry) : Option Nat :=
  match t.fired with
  | none => some 0
  | some f => if t.period = 0 then none else some (f + 1)

def State.putTab (s : State) (e : Nat) (t : TabEntry) : State :=
  { s with mgmt := { s.mgmt with table := tput s.mgmt.table e t } }

/-- When slot k of an entry falls (07:R191). -/
def TabEntry.slotTime (t : TabEntry) (k : Nat) : Nat := t.offset + k * t.period

/-- An entry is enabled, of a kind that fires, and there is a source of time (07:R191, 24:R472). -/
def State.slotOn (s : State) (t : TabEntry) : Bool := nbits t.ctl 0 1 == 1 && decide (nbits t.ctl 1 2 < 2) && s.clock.source != 0

/-- When the slot of an entry fired that has yet to reach the arbiter, in ns of `Clock.run` (07:R192). -/
def State.slotDue (s : State) (t : TabEntry) : Option Nat :=
  if s.slotOn t = false then none
  else match t.late, t.next with
    | r :: _, _ => some r
    | [], some k => if t.slotTime k ≤ s.dtc.toNat then some (s.clock.run - (s.dtc.toNat - t.slotTime k)) else none
    | [], none => none

/-- The entry once that slot has reached the arbiter. -/
def TabEntry.took (t : TabEntry) : TabEntry :=
  match t.late with
  | _ :: l => { t with late := l }
  | [] => { t with fired := t.next.orElse (fun _ => t.fired) }

/-- Slots that fire at one time reach the arbiter in ascending entry order: another comes first (07:R192). -/
def State.slotBehind (s : State) (e time : Nat) : Bool :=
  s.mgmt.table.any (fun x => decide (x.1 < e) && s.slotDue x.2 == some time)

def TabEntry.skip (t : TabEntry) (n : Nat) : TabEntry := { t with skips := t.skips + BitVec.ofNat 32 n }

/-- An entry as a step of `dtc` leaves it: what has fired before the step has fired; of the slots that the step passes only the latest fires,
and the others count as skipped (07:R192). -/
def TabEntry.stepped (t : TabEntry) (old new run : Nat) : TabEntry :=
  let next (t : TabEntry) : Nat := (t.fired.map (fun f => f + 1)).getD 0
  let t := match t.reached old with
    | none => t
    | some k =>
      if k < next t then t
      else
        let due := (List.range (k + 1 - next t)).map (fun i => run - (old - t.slotTime (next t + i)))
        { t with fired := some k, late := t.late ++ due }
  match t.reached new with
  | none => t
  | some k => if new ≤ old ∨ k < next t then t else { t.skip (k - next t) with fired := some k, late := t.late ++ [run] }

/-- LAUNCH_SLOT, 07:R192, R193, 24:R472: the entry's slot that has fired reaches the arbiter and submits its descriptor, or its overrun rule
decides. -/
def execLaunchSlot (e : Nat) (s : State) : Outcome :=
  let t := tget {} s.mgmt.table e
  .next (
    if nbits t.ctl 1 2 ≠ 0 then s
    else
      match s.slotDue t with
      | none => s
      | some at_ =>
        if s.slotBehind e at_ then s else s.atArbiter (fun s =>
        let t := t.took
        let skipped := s.putTab e (t.skip 1)
        let s := s.putTab e t
        if t.running = 0 then s.submit e
        else
          match nbits t.ctl 3 2 with
          | 0 => skipped
          | 1 => if t.pending ≠ 0 then skipped else s.putTab e { t with pending := 1 }
          | 2 =>
            -- the running instances are taken down with their context, which comes back (log 28)
            let s := s.putTab e { t with pending := t.pending + 1 }
            if (s.slice t.slice).sw.step = .idle ∧ (s.ctx (s.runCx t.slice)).vf = t.vf then
              s.startSwitch t.slice (s.slice t.slice).running false
            else s
          | _ => if t.running < 16 then s.submit e else skipped))

/-- A switch of a slice is unfinished: the scrub after a kill with no incoming context is none (07:R194, 21:R441). -/
def Switch.busy (w : Switch) : Bool := w.step != .idle && !(w.step == .scrubbing && w.inn.isNone)

/-- SWITCH_SLOT, 07:R194: selection stops and the switch to the target begins; during an earlier switch the slot is skipped. -/
def execSwitchSlot (e : Nat) (s : State) : Outcome :=
  let t := tget {} s.mgmt.table e
  .next (
    if nbits t.ctl 1 2 ≠ 1 then s
    else
      match s.slotDue t with
      | none => s
      | some at_ =>
        if s.slotBehind e at_ then s else s.atArbiter (fun s =>
        let t := t.took
        if (s.slice t.slice).sw.busy then s.putTab e (t.skip 1)
        else (s.putTab e t).startSwitch t.slice (some (t.target % 8)) false))

/-! ## Injection (07:R183, R198, 02:R32, R33) -/

/-- The first packet of a thread: the live registers take the arguments in order, those beyond the seventh 0. -/
def Launch.packet (l : Launch) (tidx : Nat) (crew : Option Nat) : Packet :=
  let n := (liveRegs l.live).length
  { entry := l.desc.entry, tidx := BitVec.ofNat 32 tidx, launch := l.num, crew := crew.isSome, crewNo := crew.getD 0
    live := (List.range n).map (fun i => l.desc.args.getD i 0#64) }

/-- The high-water mark of the context that runs on a slice (02:R35). -/
def State.hwm (s : State) (sl : Nat) : Nat := wbits (s.ctx (s.runCx sl)).hotcfg 24 8

/-- Packets to a quad that a slice's injector has not seen acknowledged. -/
def State.unacked (s : State) (sl q : Nat) : Nat :=
  ((s.slice sl).launches.map (fun l => tget 0 l.unack q)).foldl (· + ·) 0

/-- The quad of a thread's first packet: the first of at most four probed members that is not above its mark, counting the
packets given out in this event (07:R198). -/
def State.injectQuad (s : State) (sl : Nat) (set : List Nat) (extra : Tab Nat) (tidx : Nat) : Option Nat :=
  let n := set.length
  let at_ (j : Nat) : Nat := set.getD ((tidx % n + j) % n) 0
  let above (q : Nat) : Bool :=
    (s.quad (qkOf sl q)).annAbove || decide (256 < s.unacked sl q + tget 0 extra q + 1 + s.hwm sl)
  ((List.range (min n 4)).map at_).find? (fun q => !above q)

/-- Threads from one index on, each with its quad, until one must wait. -/
def State.injectFrom (s : State) (sl : Nat) (l : Launch) : Nat → Nat → Tab Nat → List (Nat × Packet)
  | 0, _, _ => []
  | n + 1, i, extra =>
    match s.injectQuad sl l.set extra i with
    | none => []
    | some q => (q, l.packet i none) :: State.injectFrom s sl l n (i + 1) (tput extra q (tget 0 extra q + 1))

/-- Changes a launch of a slice. -/
def State.modLaunch (s : State) (sl n : Nat) (f : Launch → Launch) : State :=
  s.modSlice sl (fun x => { x with launches := x.launches.map (fun l => if l.num = n then f l else l) })

/-- Sends injected packets as one train for each quad (15:R376). -/
def State.injectTrains (s : State) (sl n : Nat) (ps : List (Nat × Packet)) : State :=
  (groupDest ps).foldl (fun t e => t.modQuad (qkOf sl e.1) (fun q => { q with trains := q.trains ++
    [{ injected := true, src := 0, launch := n, packets := e.2 }] })) s

/-- The slice's injector goes on: its context runs and no mesh fault has stopped it (04:R123, 19:R414). -/
def State.injects (s : State) (sl : Nat) : Bool :=
  let x := s.slice sl
  x.running.isSome && !s.injOff sl && !s.preempted sl

/-- INJECTION, 07:R198: the next first packets of a launch leave while a probed replica is below its mark. -/
def execInjection (sl n : Nat) (s : State) : Outcome :=
  .next (match (s.slice sl).launches.find? (fun l => l.num == n) with
    | none => s
    | some l =>
      if !s.injects sl || l.desc.crewsz != 0 || l.set.isEmpty then s
      else
        let ps := s.injectFrom sl l (l.desc.count - l.injected) l.injected []
        let s := s.injectTrains sl n ps
        s.modLaunch sl n (fun l => { l with
          injected := l.injected + ps.length
          unack := ps.foldl (fun u e => tput u e.1 (tget 0 u e.1 + 1)) l.unack }))

/-- INJECTION_ACK, 07:R198: a quad's acknowledgement of the trains that have entered reaches the injector. -/
def execInjectionAck (sl n q : Nat) (s : State) : Outcome :=
  .next (s.modLaunch sl n (fun l => { l with
    unack := tput l.unack q (tget 0 l.unack q - tget 0 l.entered q), entered := tput l.entered q 0 }))

/-! ## Crews (07:R199, R200, 03:R87, R88) -/

/-- The object that a launch's entry lies in. -/
def State.launchObj (s : State) (sl : Nat) (l : Launch) : Option (Nat × Obj) :=
  let slot := wbits l.desc.entry 0 12
  (s.obj (s.runCx sl) slot).map (fun o => (slot, o))

/-- A cluster has room for a crew of some size (03:R88). -/
def State.crewRoom (s : State) (sl size c : Nat) : Bool :=
  decide ((((s.cluster (clkOf sl c)).crews.map (fun x => x.size)).foldl (· + ·) 0) + size ≤ 1024)

/-- The cluster that a launch's next crew goes to. -/
def State.crewCluster (s : State) (sl : Nat) (l : Launch) : Option Nat :=
  match s.launchObj sl l with
  | none => none
  | some (slot, o) =>
    let n := (s.slice sl).nclus
    let start := if l.injected = 0 then
        (match (s.slice sl).lastCrewClus with
         | none => 0
         | some c => c + 1)
      else l.lastClus + 1
    let fit := s.crewClusters sl l.desc slot o
    ((List.range n).map (fun k => (start + k) % n)).find? (fun c => fit.contains c && s.crewRoom sl l.desc.crewsz c)

/-- A crew launch has a crew still to place. -/
def Launch.crewLeft (l : Launch) : Bool := l.desc.crewsz != 0 && decide (l.injected < l.desc.count)

/-- The packet slots that no crew of a cluster holds, the lowest first; which of several a crew gets is the model's choice (03:R88; log 42). -/
def Cluster.freeCrewSlots (c : Cluster) (n : Nat) : List Nat :=
  ((List.range 1024).filter (fun i => c.crews.all (fun x => !x.slots.contains i))).take n

/-- CREW_PLACEMENT, 07:R199, R200: the launch's next crew takes its reservation, and its threads are injected. A crew of another
launch that cannot be placed keeps those of equal or lower priority waiting. -/
def execCrewPlacement (sl n : Nat) (s : State) : Outcome :=
  .next (match (s.slice sl).launches.find? (fun l => l.num == n) with
    | none => s
    | some l =>
      if !s.injects sl || !l.crewLeft ||
          (s.slice sl).launches.any (fun m => m.num != n && m.crewLeft && decide (l.prio ≤ m.prio) &&
            (s.crewCluster sl m).isNone) then s
      else
        match s.crewCluster sl l with
        | none => s
        | some c =>
          let k := l.injected
          let z := l.desc.crewsz
          let set := l.set.filter (fun q => q / 2 == c)
          let above := set.filter (fun q => (s.quad (qkOf sl q)).annAbove)
          let s := s.modCluster (clkOf sl c) (fun x => { x with crews := x.crews ++
            [{ launch := n, crew := k, size := z, slots := x.freeCrewSlots z, alive := z, packets := [] }] })
          let s := s.injectTrains sl n ((List.range z).map (fun i =>
            (pickQuad above set (k * z + i), l.packet (k * z + i) (some k))))
          let s := s.modSlice sl (fun x => { x with lastCrewClus := some c })
          s.modLaunch sl n (fun l => { l with injected := k + 1, lastClus := c }))

/-! ## Completion (07:R186, R201) -/

/-- Every record of a launch that waits or is on its way in a slice, crew packets included. -/
def State.launchPackets (s : State) (sl n : Nat) : Bool :=
  s.quads.any (fun e => slOfQk e.1 == sl && (
    (e.2.aq ++ e.2.ring ++ e.2.resend.map (fun r => r.2)).any (fun p => p.launch == n)
      || e.2.trains.any (fun t => t.launch == n) || e.2.outs.any (fun o => o.2.2.launch == n))) ||
  s.cores.any (fun e => slOfCk e.1 == sl && e.2.deque.any (fun p => p.launch == n)) ||
  s.clus.any (fun e => slOfClk e.1 == sl && e.2.crews.any (fun c => c.launch == n))

/-- A gang of a launch lives, or a far operation of it has not been performed. -/
def State.launchGangs (s : State) (sl n : Nat) : Bool :=
  s.gangs.any (fun e => slOfGk e.1 == sl &&
    ((e.2.live && e.2.launch == n) || e.2.far.any (fun o => o.launch == n && !o.perf)))

/-- The commands of a Madder array that have not ended. -/
def Madder.pushers (m : Madder) : List Pusher :=
  m.q.map (fun c => c.who) ++ m.reading.toList.map (fun c => c.1.who) ++ m.saving.map (fun c => c.1.who)
    ++ m.doms.flatMap (fun e => (e.2.run.toList ++ e.2.pend.toList).map (fun d => d.who))

/-- An engine command of a launch has not ended. -/
def State.launchCmds (s : State) (sl n : Nat) : Bool :=
  s.cores.any (fun e => slOfCk e.1 == sl && (
    e.2.chans.any (fun c => c.2.any (fun x => x.who.launch == n)) || e.2.mxq.any (fun x => x.who.launch == n)
      || e.2.fabq.any (fun x => x.who.launch == n) || e.2.mad.pushers.any (fun w => w.launch == n))) ||
  s.clus.any (fun e => slOfClk e.1 == sl && (
    e.2.mxqs.any (fun q => q.2.any (fun x => x.who.launch == n)) || e.2.runs.any (fun r => r.cmd.who.launch == n))) ||
  s.fabs.any (fun e => e.2.calls.any (fun c => slOfCk c.ck == sl && c.who.launch == n))

/-- A launch may complete: all its threads have been sent, and nothing of it is left (07:R201). -/
def State.launchDone (s : State) (sl : Nat) (l : Launch) : Bool :=
  decide (l.desc.count ≤ l.injected) && !s.launchPackets sl l.num && !s.launchGangs sl l.num && !s.launchCmds sl l.num

/-- The tiles of a completed launch (07:R186). A consumed input empties once no dispatched launch reads it. -/
def State.releaseTiles (s : State) (cx : Nat) (d : Desc) : State :=
  let s := d.tin.foldl (fun t i =>
    let x := t.tile cx i
    let x := { x with rd := x.rd - 1 }
    t.setTile cx i (if x.cclaim ∧ x.rd = 0 then { x with full := false, cclaim := false } else x)) s
  d.tout.foldl (fun t i =>
    let x := t.tile cx i
    t.setTile cx i { x with full := true, wclaim := false, seq := (x.seq + 1) % 2 ^ 32 }) s

/-- LAUNCH_COMPLETION, 07:R201: tiles are released, the number is free, the record is written, and a pending instance follows. -/
def execLaunchCompletion (sl n : Nat) (s : State) : Outcome :=
  .next (match (s.slice sl).launches.find? (fun l => l.num == n) with
    | none => s
    | some l =>
      if !s.launchDone sl l || (s.slice sl).running.isNone || s.preempted sl then s
      else s.atArbiter (fun s =>
        let s := s.releaseTiles (s.runCx sl) l.desc
        let s := s.modSlice sl (fun x => { x with launches := x.launches.filter (fun m => m.num != n) })
        let s := s.putDone sl l.desc.done (doneBytes l.tag s.dtc n 0) true
        s.instanceEnds l.tabEnt))

end Sys2Proof.Machine
end

