-- ==== Sys2Proof/Machine/Packets.lean ====
section
/-!
DEFINITION. Packets on their way, arrival queues and overflow rings, gang formation and stealing (03:R62 to R69, R79 to R82, R89,
09:R249, 15:R376, 19:R412).
-/

namespace Sys2Proof.Machine

/-! ## Arrival (03:R64, R66, R69, R89, 15:R376, 19:R412) -/

/-- Packets of a quad's queue and ring are held in order of age (03:R66). -/
def byAge (p : Packet) (l : List Packet) : List Packet := insertBy (fun x => x.seq) p l

/-- Announces a crossing of the quad's mark; every sender takes it in at once (02:R32; log 29). -/
def Quad.announce (q : Quad) (hwm : Nat) : Quad := { q with annAbove := decide (hwm < q.aq.length) }

/-- Notes since when the ring is full (19:R412). -/
def Quad.noteRing (q : Quad) (run : Nat) : Quad :=
  if 8192 ≤ q.ring.length then { q with ringFull := some (q.ringFull.getD run) } else { q with ringFull := none, ringTold := false }

/-- A packet that has reached a quad enters its queue, or its ring while the queue is full or the ring holds a packet; none
when the ring is full too. -/
def Quad.take (q : Quad) (now : Nat) (p : Packet) : Option Quad :=
  if q.aq.length < 256 ∧ q.ring.isEmpty then some { q with aq := byAge { p with qAt := now } q.aq }
  else if q.ring.length < 8192 then some { q with ring := byAge p q.ring }
  else none

/-- A packet's age begins in the cycle it first reaches its quad (03:R66, 19:R412). -/
def Quad.stamp (q : Quad) (now : Nat) (p : Packet) : Packet × Quad :=
  if p.came then (p, q)
  else ({ p with at_ := now, seq := q.entrySeq, came := true, due := now }, { q with entrySeq := q.entrySeq + 1 })

/-- Writes a packet into its slot of a context's ring memory, an intermediate physical address; the page it dirties has its `d` set (03:R69,
14:R370). One whose page stage 2 does not translate is not written (log 42). -/
def State.putRing (s : State) (cx ipa : Nat) (p : Packet) : State :=
  match s.s2Walk cx ipa with
  | none => s
  | some (pa, _, _) => (s.setD cx ipa).wrBytes (s.keyNo cx) pa p.bytes

/-- The ring of a quad as it lies in the memory of the running context: its packets in their slots from the head on, from the first one that
differs from what was there (03:R69; log 42). -/
def State.storeRing (s : State) (qk : Nat) (old : List Packet) : State :=
  let q := s.quad qk
  let cx := s.runCx (slOfQk qk)
  let base := (s.ctx cx).ringAt + 2 ^ 20 * quadOfQk qk
  let same := ((q.ring.zip old).takeWhile (fun e => e.1 == e.2)).length
  ((q.ring.zipIdx).drop same).foldl (fun t e => t.putRing cx (base + 128 * ((q.ringHead + e.2) % 8192)) e.1) s

/-- Where the packet of a crew thread lies in its cluster's scratchpad: the slot of its number within the crew (03:R89, 04:R98). -/
def CrewRes.slotLoc (x : CrewRes) (clk : Nat) (p : Packet) : Nat :=
  scrLoc clk (0x5_8000 + 128 * x.slots.getD (p.tidx.toNat % x.size) 0)

/-- A crew packet waits in its slot of the reservation (03:R89). -/
def State.crewArrive (s : State) (sl q : Nat) (p : Packet) : State :=
  let clk := clkOf sl (q / 2)
  let mine (x : CrewRes) : Bool := x.launch == p.launch && x.crew == p.crewNo
  match (s.cluster clk).crews.find? mine with
  | none => s
  | some r =>
    (s.wrBytes 0 (r.slotLoc clk p) p.bytes).modCluster clk (fun c => { c with crews := c.crews.map (fun x =>
      if mine x then { x with packets := x.packets ++ [(q, { p with qAt := s.now })] } else x) })

/-- A packet of a resend store is the one that goes to a quad and has a number there. -/
def sameSent (q : Nat) (p : Packet) (e : Nat × Packet) : Bool := e.1 == q && e.2.seq == p.seq

/-- The quad refuses a packet, which its sender sends again 1,024 mesh cycles after the time before (19:R412, 00:R3). A store that holds
the packet keeps it; otherwise it takes it in. -/
def State.refuse (s : State) (sl q : Nat) (t : Train) (p : Packet) : State :=
  let s := s.modSlice sl (fun z => { z with ctrs := { z.ctrs with refuse := z.ctrs.refuse + 1 } })
  if t.injected then s
  else s.modQuad (qkOf sl t.src) (fun y =>
    if t.again then { y with resend := y.resend.map (fun e => if sameSent q p e then (q, { p with away := false }) else e) }
    else { y with resend := y.resend ++ [(q, { p with away := false })] })

/-- The sender of a refused packet hears that it has been accepted. -/
def State.accepted (s : State) (sl q : Nat) (t : Train) (p : Packet) : State :=
  if t.again then s.modQuad (qkOf sl t.src) (fun y => { y with resend := y.resend.filter (fun e => !sameSent q p e) }) else s

/-- The packets of a train, in order; answers those that stay on their way. A refused one is kept in the resend store of the quad that sent
it; while that store is full it waits before the quad, and an injected one, which no quad has sent, does so until it is due again (19:R412;
log 29). Its age goes on from its first arrival. -/
def State.enterAll (s : State) (sl q : Nat) (t : Train) : List Packet → List Packet × State
  | [] => ([], s)
  | p :: rest =>
    let qk := qkOf sl q
    let (p, x) := (s.quad qk).stamp s.now p
    let s := s.setQuad qk x
    let (left, s) :=
      if p.crew then (false, s.crewArrive sl q p)
      else
        match x.take s.now p with
        | some y => (false, ((s.setQuad qk y).storeRing qk x.ring).accepted sl q t p)
        | none =>
          if !t.injected && !t.again && 32 ≤ (s.quad (qkOf sl t.src)).resend.length then (true, s)
          else (t.injected, s.refuse sl q t { p with due := p.due + 512 })
    let (ls, s) := State.enterAll s sl q t rest
    (if left then (if t.injected then { p with due := p.due + 512 } else p) :: ls else ls, s)

/-- Settles a quad's mark and ring after its queue has changed. -/
def State.settleQuad (s : State) (sl q : Nat) : State :=
  s.modQuad (qkOf sl q) (fun x => (x.announce (s.hwm sl)).noteRing s.clock.run)

/-- Trains that reach a quad enter injected ones first, then by the number of the sending quad (15:R376). -/
def trainKey (t : Train) : Nat := if t.injected then 0 else t.src + 1

/-- A train of a key may enter a queue now: no train of a higher key has entered it in this cycle. -/
def Quad.mayEnter (q : Quad) (now key : Nat) : Bool :=
  match q.entered with
  | some (t, k) => t != now || decide (k ≤ key)
  | none => true

/-- The train of a key that was sent first: those of one quad arrive in the order of their numbers, and injected ones as they were sent
(04:R124). -/
def Quad.firstTrain (q : Quad) (key : Nat) : Option Train := minBy (fun t : Train => t.no) (q.trains.filter (fun t => trainKey t == key))

/-- A refused train of the injector waits until it is due again (19:R412; log 29). -/
def Train.waits (t : Train) (now : Nat) : Bool := t.injected && t.packets.any (fun p => p.came && decide (now < p.due))

/-- The first train on its way to a quad from one sender (`key` 0 the injector, else 1 and the sending quad) reaches it and enters whole. In
one cycle trains enter in ascending keys (15:R376). -/
def State.trainIn (s : State) (sl q key : Nat) : State :=
  let qk := qkOf sl q
  match (s.quad qk).firstTrain key with
  | none => s
  | some t =>
    if !(s.quad qk).mayEnter s.now key || (!t.injected && s.sentBefore qk t.src t.no) || t.waits s.now then s
    else
      let s := s.modQuad qk (fun x => { x with trains := x.trains.erase t, entered := some (s.now, key) })
      let (left, u) := s.enterAll sl q t t.packets
      let u := u.settleQuad sl q
      let u := if left.isEmpty then u else u.modQuad qk (fun x => { x with trains := { t with packets := left } :: x.trains })
      let n := t.packets.length - left.length
      if t.injected then u.modLaunch sl t.launch (fun l =>
        if l.desc.crewsz = 0 then { l with entered := tput l.entered q (tget 0 l.entered q + n) } else l)
      else u

/-- TRAIN_ENTRY, 15:R376, 03:R69, R89, 04:R124: a train enters quad `q` modulo 2048, from the sender of key `q` over 2048 (log 4). The time of
travel is not fixed (08:R473). -/
def execTrainEntry (sl q : Nat) (s : State) : Outcome := .next (s.trainIn sl (q % 2048) (q / 2048))

/-- PACKET_SEND, 09:R249, 04:R123: the trains of a gang's transfers leave its quad, in the order they were made; a partition that
drains or whose injection has stopped keeps them. -/
def execPacketSend (gk : Nat) (s : State) : Outcome :=
  let qk := qkOfGk gk
  let sl := slOfGk gk
  .next (
    if s.injOff sl then s
    else
      let mine := (s.quad qk).outs.filter (fun o => o.1 == gk)
      let n := (s.quad qk).sendNo
      let s := s.modQuad qk (fun q => { q with outs := q.outs.filter (fun o => o.1 != gk), sendNo := n + mine.length })
      mine.zipIdx.foldl (fun t o => t.modQuad o.1.2.1 (fun q => { q with trains := q.trains ++ [{ o.1.2.2 with no := n + o.2 }] })) s)

/-- The oldest packets of the ring that the queue has room for. -/
def Quad.refill (q : Quad) (now : Nat) : Quad :=
  let n := 256 - q.aq.length
  { q with aq := (q.ring.take n).foldl (fun a p => byAge { p with qAt := now } a) q.aq, ring := q.ring.drop n
           ringHead := (q.ringHead + min n q.ring.length) % 8192 }

/-- RING_REFILL, 03:R69: the ring moves its oldest packets into the queue. -/
def execRingRefill (sl q : Nat) (s : State) : Outcome :=
  .next ((s.modQuad (qkOf sl q) (fun x => x.refill s.now)).settleQuad sl q)

/-- A packet of a resend store is due, and it is not on its way already. -/
def Packet.again (p : Packet) (now : Nat) : Bool := !p.away && decide (p.due ≤ now)

/-- Sends one packet of a quad's resend store again, as a train of its own; the store keeps it until it is accepted (19:R412). -/
def State.resendOne (s : State) (sl q : Nat) (e : Nat × Packet) : State :=
  let no := (s.quad (qkOf sl q)).sendNo
  (s.modQuad (qkOf sl q) (fun x => { x with sendNo := no + 1 })).modQuad (qkOf sl e.1) (fun x => { x with
    trains := x.trains ++ [{ injected := false, src := q, launch := e.2.launch, packets := [e.2], no := no, again := true }] })

/-- RESEND, 19:R412: the refused packets of a quad are sent again, each every 1,024 mesh cycles (00:R3). -/
def execResend (sl q : Nat) (s : State) : Outcome :=
  let qk := qkOf sl q
  .next (
    if s.injOff sl then s
    else
      ((s.quad qk).resend.filter (fun e => e.2.again s.now)).foldl (fun t e => t.resendOne sl q e) (s.modQuad qk (fun x =>
        { x with resend := x.resend.map (fun e => if e.2.again s.now then (e.1, { e.2 with away := true }) else e) })))

/-- RING_FULL_NOTIFICATION, 19:R412: a ring that has been full for 1 ms is reported once. -/
def execRingFullNotification (sl q : Nat) (s : State) : Outcome :=
  let x := s.quad (qkOf sl q)
  .next (match x.ringFull with
    | none => s
    | some t =>
      if x.ringTold ∨ s.clock.run < t + 1000000 then s
      else (s.modQuad (qkOf sl q) (fun x => { x with ringTold := true })).note 1 (qkOf sl q))

/-! ## Groups (03:R64, R66, R82, R89) -/

/-- Packets of equal keys: entry, launch, and timestamp or crew (03:R64). -/
def Packet.like (a b : Packet) : Bool :=
  a.entry == b.entry && a.launch == b.launch && a.ts == b.ts && (!a.ts || a.stamp == b.stamp) && a.crew == b.crew
    && (!a.crew || a.crewNo == b.crewNo)

/-- Like packets, in the order given, grouped by their first one. -/
def groupLike : List Packet → List (List Packet)
  | [] => []
  | p :: t =>
    let r := groupLike t
    match r.find? (fun g => g.any (fun x => x.like p)) with
    | none => [p] :: r
    | some g => (p :: g) :: r.filter (fun h => !h.any (fun x => x.like p))

/-- The arrival groups of a quad, each oldest first: those of its queue and its crew groups. A packet that arrives in this cycle is part of no
take of it (03:R68, R89). -/
def State.groups (s : State) (qk : Nat) : List (List Packet) :=
  let crew := (s.cluster (clkOfQk qk)).crews.flatMap (fun c =>
    (c.packets.filter (fun e => e.1 == quadOfQk qk)).map (fun e => e.2))
  groupLike (((s.quad qk).aq ++ sortBy (fun p => p.seq) crew).filter (fun p => decide (p.qAt < s.now)))

/-- Whether one packet comes before another as the oldest of its group (03:R82). The spec orders two equally old crew groups of one launch;
those of two launches with one crew number the model orders by thread index, and then as they are listed (log 43). -/
def Packet.older (a b : Packet) : Bool :=
  if a.at_ ≠ b.at_ then decide (a.at_ < b.at_)
  else if a.crew ≠ b.crew then a.crew
  else if a.crew = false then decide (a.seq < b.seq)
  else if a.crewNo ≠ b.crewNo then decide (a.crewNo < b.crewNo)
  else decide (a.tidx.toNat < b.tidx.toNat)

/-- The group whose oldest packet is oldest. -/
def oldestGroup (gs : List (List Packet)) : Option (List Packet) :=
  gs.foldl (fun m g => match m, g with
    | some (a :: t), b :: u => if b.older a then some (b :: u) else some (a :: t)
    | _, g => some g) none

/-- A group fills a gang, or its oldest packet has waited for `gangwait` (03:R65, R82). -/
def State.ripe (s : State) (sl : Nat) (g : List Packet) : Bool :=
  decide (32 ≤ g.length) || g.any (fun p => decide (p.at_ + (s.ctx (s.runCx sl)).gangwait ≤ s.now))

/-! ## Gang formation (03:R62, R67, R74, R79, R82) -/

/-- A lane at the start of an activation (03:R62, R74, 05:R130, R131). -/
def Packet.lane (p : Packet) (live : W32) : Lane :=
  let regs := (liveRegs live).zip p.live
  { ent := regs.filter (fun e => decide (e.1 < 24))
    tidx := p.tidx.setWidth 64
    hi := (26, p.bsp) :: (27, p.link) :: regs.filter (fun e => decide (24 ≤ e.1))
    p := p.pred ||| 1#8 }

/-- The entry that a waiting packet names: what it was when the packet was sent, even after an unload (02:R52). -/
def State.packetEntry (s : State) (cx : Nat) (p : Packet) : Option EntryRec :=
  match s.obj cx (wbits p.entry 0 12) with
  | none => none
  | some o => o.entries[wbits p.entry 12 16]?

/-- The gang slots of a core that hold no gang, ascending. The spec does not say which of several a new gang takes; the model takes the first
(log 43). -/
def State.freeSlots (s : State) (ck : Nat) : List Nat := [0, 1, 2, 3].filter (fun k => !(s.gang (gkOf ck k)).live)

/-- Forms a gang of some packets, lane 0 the first, in a slot; none when the quad does not hold their block. -/
def State.form (s : State) (gk : Nat) (ps : List Packet) : Option State :=
  match ps with
  | [] => none
  | p :: _ =>
    let cx := s.gangCx gk
    match s.packetEntry cx p with
    | none => none
    | some e =>
      match (s.quad (qkOfGk gk)).findAny (wbits p.entry 0 12) e.block with
      | none => none
      | some b =>
        let old := s.gang gk
        let m := maskOf (List.range ps.length)
        let r : Regs := { thr := m, act := m, pc := b.start + e.word, blk := b
                          lanes := (List.range ps.length).zip (ps.map (fun p => p.lane e.live)) }
        let task : Option Task := if p.ts then
            some { stamp := p.stamp, spec := true, aborts := 0, held := [], carried := ps, finished := false, waitLow := false }
          else none
        some (s.setGang gk { live := true, actId := old.actId + 1, launch := p.launch, far := old.far
                             crew := if p.crew then some p.crewNo else none, task := task, r := r, readyAt := s.now })

/-- Takes the oldest 32 packets of a group out of their queue or reservation. -/
def State.takeGroup (s : State) (qk : Nat) (ps : List Packet) : State :=
  match ps with
  | [] => s
  | p :: _ =>
    let gone (x : Packet) : Bool := x.like p && ps.any (fun y => y.seq == x.seq)
    if p.crew then
      s.modCluster (clkOfQk qk) (fun c => { c with crews := c.crews.map (fun x =>
        if x.launch == p.launch && x.crew == p.crewNo then
          { x with packets := x.packets.filter (fun e => !(e.1 == quadOfQk qk && gone e.2)) }
        else x) })
    else (s.modQuad qk (fun q => { q with aq := q.aq.filter (fun x => !gone x) })).settleQuad (slOfQk qk) (quadOfQk qk)

/-- The records at the top of a deque that form one gang (03:R79). -/
def topRun : List Packet → List Packet
  | [] => []
  | p :: t => (p :: t.takeWhile (fun x => x.like p)).take 32

/-- A core may form gangs: its slice runs and is not being switched or halted, and it has a free slot beside the one it keeps
for a steal that it has asked for. The spec does not say what becomes of a slot while a steal is outstanding; the model keeps one back so
that the records stolen find a slot (log 43). -/
def State.mayForm (s : State) (ck : Nat) : Bool :=
  let sl := slOfCk ck
  (s.slice sl).running.isSome && s.mayRun sl && (s.slice sl).sw.step == .idle &&
    decide ((if (s.core ck).asked.isSome then 1 else 0) < (s.freeSlots ck).length)

/-- What a core would take first: a group of its quad, or its deque (03:R82). -/
inductive Source where
  | group (g : List Packet)
  | deque
  | none

def State.source (s : State) (ck : Nat) : Source :=
  let gs := s.groups (qkOfCk ck)
  match oldestGroup (gs.filter (s.ripe (slOfCk ck))) with
  | some g => .group g
  | none =>
    if !(s.core ck).deque.isEmpty then .deque
    else
      match oldestGroup gs with
      | some g => .group g
      | none => .none

/-- Whether a core is entitled to a take from its quad's groups. -/
def State.entitled (s : State) (ck : Nat) : Bool :=
  s.mayForm ck &&
    (match s.source ck with
     | .group _ => true
     | _ => false)

/-- The core of a quad that is served: the first entitled one in round robin after the last taker (03:R66). -/
def State.served (s : State) (qk : Nat) : Option Nat :=
  (([1, 2, 3, 4].map (fun k => ((s.quad qk).lastTaker + k) % 4)).find? (fun c => s.entitled (4 * qk + c)))

/-- The deque of a core after a take from it, with its announcement (03:R80), which every core takes in at once (log 29); the deque has served
its one operation of this cycle (03:R81). -/
def State.setDeque (s : State) (ck : Nat) (d : List Packet) : State :=
  (s.modCore ck (fun c => { c with deque := d, annEmpty := d.isEmpty, dqBy := s.now + 1 })).spillDeque ck

/-- The owner of a deque pops from it in this cycle (03:R79, R81, R82). -/
def State.pops (s : State) (ck : Nat) : Bool :=
  s.mayForm ck && decide ((s.core ck).dqBy ≤ s.now) &&
    (match s.source ck with
     | .deque => true
     | _ => false)

/-- GANG_FORMATION, 03:R82: a core with a free slot fills it from a group of its quad, or from its own deque. -/
def execGangFormation (sl c : Nat) (s : State) : Outcome :=
  let ck := ckOf sl c
  let qk := qkOfCk ck
  .next (
    if !s.mayForm ck then s
    else
      match (s.freeSlots ck) with
      | [] => s
      | k :: _ =>
        match s.source ck with
        | .none => s
        | .deque =>
          let ps := topRun (s.core ck).deque
          if s.now < (s.core ck).dqBy then s
          else ((s.form (gkOf ck k) ps).map (fun t => t.setDeque ck ((s.core ck).deque.drop ps.length))).getD s
        | .group g =>
          if s.now + 1 ≤ (s.quad qk).tookBy ∨ s.served qk ≠ some (c % 4) then s
          else
            let ps := g.take 32
            ((s.form (gkOf ck k) ps).map (fun t =>
              (t.takeGroup qk ps).modQuad qk (fun q => { q with lastTaker := c % 4, tookBy := s.now + 1 }))).getD s)

/-! ## Stealing (03:R80, R81, 02:R31) -/

/-- The blocks that a quad holds, as numbers in ascending order. -/
def Quad.blockSet (q : Quad) : List Nat :=
  sortBy id ((q.exts.filter (fun e => !e.dying)).map (fun e => e.obj * 65536 + e.blk))

/-- The cores of the other quads and its own whose quads hold exactly the same blocks, in logical order (02:R31). -/
def State.replicaGroup (s : State) (ck : Nat) : List Nat :=
  let sl := slOfCk ck
  let b := (s.quad (qkOfCk ck)).blockSet
  (List.range (s.slice sl).ncores).filter (fun c => (s.quad (qkOfCk (ckOf sl c))).blockSet == b)

/-- The next core to ask: after the one asked last, passing over those announced empty and the core itself. The spec does not say where the
round starts before a core has asked any; the model starts at the lowest core of the group (log 43). -/
def State.victim (s : State) (ck : Nat) : Option Nat :=
  let g := s.replicaGroup ck
  let last := (s.core ck).lastAsked
  let after := match last with
    | none => g
    | some v => g.filter (fun x => decide (v < x)) ++ g.filter (fun x => decide (x ≤ v))
  after.find? (fun v => v != coreOfCk ck && !(s.core (ckOf (slOfCk ck) v)).annEmpty)

/-- STEAL_REQUEST, 03:R80: a core that finds nothing else to take asks the next core whose deque is not announced empty. -/
def execStealRequest (sl c : Nat) (s : State) : Outcome :=
  let ck := ckOf sl c
  .next (
    if !s.mayForm ck || (s.core ck).asked.isSome then s
    else
      match s.source ck with
      | .none =>
        (match s.victim ck with
         | none => s
         | some v =>
           let s := s.modCore ck (fun x => { x with asked := some v, lastAsked := some v })
           s.modCore (ckOf sl v) (fun x => { x with thieves := x.thieves ++ [c] }))
      | _ => s)

/-- The records that a steal takes from the bottom of a deque, the oldest first (03:R80). -/
def bottomRun (d : List Packet) : List Packet := (topRun d.reverse).take ((d.length + 1) / 2)

/-- STEAL_ANSWER, 03:R80, R81: the core answers the first thief that waits, with records from the bottom of its deque, which form
a gang on the thief, or with none. A deque serves one operation in a cycle, the owner's pop first. -/
def execStealAnswer (sl c : Nat) (s : State) : Outcome :=
  let ck := ckOf sl c
  .next (if s.now < (s.core ck).dqBy || s.pops ck then s else match (s.core ck).thieves with
    | [] => s
    | t :: rest =>
      let tk := ckOf sl t
      let s := s.modCore ck (fun x => { x with thieves := rest, dqBy := s.now + 1 })
      let s := s.modCore tk (fun x => { x with asked := none })
      let d := (s.core ck).deque
      let ps := bottomRun d
      if !s.mayForm tk then s
      else
        match s.freeSlots tk with
        | [] => s
        | k :: _ => ((s.form (gkOf tk k) ps).map (fun u => u.setDeque ck (d.take (d.length - ps.length)))).getD s)

end Sys2Proof.Machine
end

