-- ==== Sys2Proof/Machine/Replica.lean ====
section
/-!
DEFINITION. Route caches and hot-code replication (02:R30, R36 to R39).
-/

namespace Sys2Proof.Machine

/-- ROUTE_CACHE_FILL, 02:R30: a quad's route cache takes in the entry that a handle names. -/
def execRouteCacheFill (sl q : Nat) (h : BitVec 64) (s : State) : Outcome :=
  .next (match s.resolve (s.runCx sl) h with
    | none => s
    | some t => s.routeFill (qkOf sl q) t)

/-! ## Occupancy (02:R36) -/

/-- A packet is for an entry of a block. -/
def State.packetFor (s : State) (cx obj blk : Nat) (p : Packet) : Bool :=
  wbits p.entry 0 12 == obj && (s.packetEntry cx p).any (fun e => e.block == blk)

/-- Packets for a block in a quad's queue and ring. -/
def State.occupancy (s : State) (sl obj blk q : Nat) : Nat :=
  let x := s.quad (qkOf sl q)
  ((x.aq ++ x.ring).filter (s.packetFor (s.runCx sl) obj blk)).length

def State.hiq (s : State) (sl : Nat) : Nat := wbits (s.ctx (s.runCx sl)).hotcfg 40 8
def State.loq (s : State) (sl : Nat) : Nat := wbits (s.ctx (s.runCx sl)).hotcfg 32 8
def State.maxrep (s : State) (sl : Nat) : Nat := wbits (s.ctx (s.runCx sl)).hotcfg 48 16
def State.hotns (s : State) (sl : Nat) : Nat := wbits (s.ctx (s.runCx sl)).hotwin 32 32
def State.coldns (s : State) (sl : Nat) : Nat := wbits (s.ctx (s.runCx sl)).hotwin 0 32

/-- The timing of a block. -/
def Slice.hotOf (x : Slice) (obj blk : Nat) : HotBlk :=
  (x.hot.find? (fun h => h.obj == obj && h.blk == blk)).getD { obj := obj, blk := blk, hotSince := none, coldSince := none }

def Slice.setHot (x : Slice) (h : HotBlk) : Slice :=
  { x with hot := h :: x.hot.filter (fun k => !(k.obj == h.obj && k.blk == h.blk)) }

/-- Samples one block. -/
def State.sampleBlk (s : State) (sl obj blk : Nat) (o : Obj) : State :=
  let occ := (o.replicas blk).map (s.occupancy sl obj blk)
  let hot := occ.all (fun n => decide (s.hiq sl ≤ n))
  let cold := occ.all (fun n => decide (n ≤ s.loq sl))
  let run := s.clock.run
  s.modSlice sl (fun x =>
    let h := x.hotOf obj blk
    x.setHot { h with hotSince := if hot then some (h.hotSince.getD run) else none
                      coldSince := if cold then some (h.coldSince.getD run) else none })

/-- Samples the occupancy of every replica of every block of a slice, once 1,024 cycles have passed since the last time. -/
def State.hotSample (s : State) (sl : Nat) : State :=
  if (s.slice sl).running.isNone ∨ s.now < (s.slice sl).sampledAt + 1024 then s
  else
    let s := s.modSlice sl (fun x => { x with sampledAt := s.now })
    (s.ctx (s.runCx sl)).objs.foldl (fun t e =>
      match e.2.obj with
      | none => t
      | some o => if e.2.dying then t else (List.range o.blocks.length).foldl (fun t b => t.sampleBlk sl e.1 b o) t) s

/-- HOT_SAMPLE, 02:R36: every 1,024 cycles the occupancy of every replica of every block is sampled, which starts, keeps or ends its
timing. -/
def execHotSample (sl : Nat) (s : State) : Outcome := .next (s.hotSample sl)

/-! ## Extents of a code store (02:R24, R37) -/

/-- A run of words overlaps no extent and stays below the system words. -/
def Quad.extentFree (q : Quad) (start len : Nat) : Bool :=
  decide (start + len ≤ 15872) && q.exts.all (fun e => decide (start + len ≤ e.start) || decide (e.start + e.len ≤ start))

/-- The lowest free extent of a length: at 0 or after an extent. -/
def Quad.findExtent (q : Quad) (len : Nat) : Option Nat :=
  (sortBy id (0 :: q.exts.map (fun e => e.start + e.len))).find? (fun a => q.extentFree a len)

/-- Writes words into a code store. -/
def putWords (c : Tab W32) (at_ : Nat) : List W32 → Tab W32
  | [] => c
  | w :: t => putWords (tput c at_ w) (at_ + 1) t

/-- Places a block in a quad. -/
def Quad.place (q : Quad) (start obj blk : Nat) (hot : Bool) (ws : List W32) : Quad :=
  { q with code := putWords q.code start ws
           exts := q.exts ++ [{ start := start, len := ws.length, obj := obj, blk := blk, hot := hot, dying := false }] }

/-- The compute die of a logical quad (01:R13). -/
def State.dieOf (s : State) (sl q : Nat) : Nat := s.clusDie sl (q / 2)

/-- How near a quad is to the replicas of a block: 0 in a cluster of one, 1 on a die of one, 2 elsewhere (02:R37). -/
def State.nearness (s : State) (sl : Nat) (reps : List Nat) (q : Nat) : Nat :=
  if reps.any (fun r => r / 2 == q / 2) then 0
  else if reps.any (fun r => s.dieOf sl r == s.dieOf sl q) then 1
  else 2

/-- The block of an object's trap entry. -/
def Obj.trapBlk (o : Obj) : Option Nat := o.entries[o.trapEntry]?.map EntryRec.block

/-- A quad with a further copy of a block. A quad that does not hold the object's trap block takes a copy of that as well, which stays until
the object is unloaded, so that a trap finds its entry there (02:R27, R40; log 52). None where there is no room. -/
def Quad.addCopy (x : Quad) (obj blk : Nat) (o : Obj) : Option Quad :=
  let put (x : Quad) (b : Nat) : Option Quad :=
    let ws := o.blocks.getD b []
    (x.findExtent ws.length).map (fun a => x.place a obj b true ws)
  match put x blk with
  | none => none
  | some y =>
    match o.trapBlk with
    | none => some y
    | some t => if (y.findAny obj t).isSome then some y else put y t

/-- The quad that takes a further replica, and what it then holds (02:R37). -/
def State.replicaQuad (s : State) (sl obj blk : Nat) (o : Obj) : Option (Nat × Quad) :=
  let cands := (List.range (s.slice sl).nquads).filterMap (fun q =>
    let x := s.quad (qkOf sl q)
    if (x.findAny obj blk).isSome then none else (x.addCopy obj blk o).map (fun y => (q, y)))
  minBy (fun c => s.nearness sl (o.replicas blk) c.1) cands

/-- Begins the hot timing of a block again (02:R37). -/
def State.restartHotOnly (s : State) (sl obj blk : Nat) : State :=
  s.modSlice sl (fun x => x.setHot { x.hotOf obj blk with hotSince := none })

/-- Begins the timing of a block again (02:R36). -/
def State.restartHot (s : State) (sl obj blk : Nat) : State :=
  s.modSlice sl (fun x => x.setHot { obj := obj, blk := blk, hotSince := none, coldSince := none })

/-- An update of a block has been submitted and not ordered. -/
def State.updPending (s : State) (sl obj blk : Nat) : Bool :=
  (s.slice sl).hotPending.any (fun u => u.1 == obj && u.2.1 == blk)

/-- ADD_REPLICA, 02:R37: a block that has been hot for `hotns` is copied to one more quad, and the update is submitted. -/
def execAddReplica (sl obj blk : Nat) (s : State) : Outcome :=
  .next (match s.obj (s.runCx sl) obj with
    | none => s
    | some o =>
      match ((s.slice sl).hotOf obj blk).hotSince, o.blocks[blk]? with
      | some t, some _ =>
        if (s.slice sl).running.isNone || decide (s.clock.run < t + s.hotns sl) || decide (s.maxrep sl ≤ (o.hots.getD blk []).length)
            || s.updPending sl obj blk then s
        else
          (match s.replicaQuad sl obj blk o with
           | none => s.restartHotOnly sl obj blk
           | some (q, x) =>
             let s := s.setQuad (qkOf sl q) x
             s.modSlice sl (fun x => { x with hotPending := x.hotPending ++ [(obj, blk, q, true)] }))
      | _, _ => s)

/-- REMOVE_REPLICA, 02:R38: a block that has been cold for `coldns` gives up the replica added last. -/
def execRemoveReplica (sl obj blk : Nat) (s : State) : Outcome :=
  .next (match s.obj (s.runCx sl) obj with
    | none => s
    | some o =>
      match ((s.slice sl).hotOf obj blk).coldSince, o.hots.getD blk [] with
      | some t, q :: _ =>
        if (s.slice sl).running.isNone || decide (s.clock.run < t + s.coldns sl) || s.updPending sl obj blk then s
        else s.modSlice sl (fun x => { x with hotPending := x.hotPending ++ [(obj, blk, q, false)] })
      | _, _ => s)

/-- Changes the object in a slot of a context. -/
def State.modObj (s : State) (cx slot : Nat) (f : Obj → Obj) : State :=
  s.modCtx cx (fun c =>
    let x := tget {} c.objs slot
    { c with objs := tput c.objs slot { x with obj := x.obj.map f } })

/-- The lists of a block's added replicas with one changed. -/
def Obj.setHots (o : Obj) (blk : Nat) (f : List Nat → List Nat) : Obj :=
  { o with hots := (List.range o.blocks.length).map (fun b => if b = blk then f (o.hots.getD b []) else o.hots.getD b []) }

/-- Every quad of a slice drops its route-cache entries of an object that satisfy a test. -/
def State.dropRoutes (s : State) (sl obj : Nat) (p : Nat → Bool) : State :=
  { s with quads := s.quads.map (fun e =>
      if slOfQk e.1 == sl then (e.1, { e.2 with routes := e.2.routes.filter (fun r => !(r.obj == obj && p r.entry)) }) else e) }

/-- REPLICA_UPDATE, 02:R37 to R39: the launch arbiter orders the first submitted update; every quad takes it in at that point, a
removed copy awaits its release, and the block's timing begins again (log 29). -/
def execReplicaUpdate (sl : Nat) (s : State) : Outcome :=
  .next (match (s.slice sl).hotPending with
    | [] => s
    | (obj, blk, q, add) :: rest => s.atArbiter (fun s =>
      let cx := s.runCx sl
      let s := s.modSlice sl (fun x => { x with hotPending := rest })
      let s := s.modObj cx obj (fun o => o.setHots blk (fun l => if add then q :: l else l.filter (fun x => x != q)))
      let s := if add then s
        else s.modQuad (qkOf sl q) (fun x => { x with exts := x.exts.map (fun e =>
          if e.obj = obj ∧ e.blk = blk then { e with dying := true } else e) })
      let s := match s.obj cx obj with
        | none => s
        | some o => s.dropRoutes sl obj (fun i => (o.entries[i]?).any (fun (e : EntryRec) => e.block == blk))
      s.restartHot sl obj blk))

/-! ## Freeing an extent (02:R38) -/

/-- The packets at a quad or on their way to it. -/
def State.quadPackets (s : State) (sl q : Nat) : List Packet :=
  let qk := qkOf sl q
  let x := s.quad qk
  x.aq ++ x.ring ++ x.trains.flatMap Train.packets
    ++ s.quads.flatMap (fun e => if slOfQk e.1 == sl then
        (e.2.resend.filter (fun r => r.1 == q)).map (fun r => r.2)
          ++ (e.2.outs.filter (fun o => o.2.1 == qk)).flatMap (fun o => o.2.2.packets) else [])
    ++ [0, 1, 2, 3].flatMap (fun c => (s.core (4 * qk + c)).deque)
    ++ (s.cluster (clkOfQk qk)).crews.flatMap (fun c => (c.packets.filter (fun e => e.1 == q)).map (fun e => e.2))

/-- A gang runs a block of an object, or returns to it from a trap. -/
def Gang.runs (g : Gang) (p : BlkRef → Bool) : Bool :=
  g.live && (p g.r.blk || (decide (1 ≤ g.r.tr.tlvl) && p g.r.tr.held1.blk) || (decide (2 ≤ g.r.tr.tlvl) && p g.r.tr.held2.blk))

/-- Records that a speculative task of the slice holds back. -/
def State.heldBack (s : State) (sl : Nat) : List Packet :=
  s.gangs.flatMap (fun e => if slOfGk e.1 == sl then
    (match e.2.task with
     | some t => t.held.flatten.map (fun h => h.2.2)
     | none => []) else [])

/-- A launch may still send a packet for a block to a quad: its first packets go there, or its placement map names it (02:R39, R48). -/
def Launch.mayReach (l : Launch) (obj blk q : Nat) (o : Obj) : Bool :=
  (decide (l.injected < l.desc.count) && wbits l.desc.entry 0 12 == obj && l.set.contains q &&
    o.entries[wbits l.desc.entry 12 16]?.any (fun e => e.block == blk)) ||
  (l.desc.pmap != 0 && l.desc.mapObj == obj && (l.desc.maps.getD blk []).contains q)

/-- A launch of a slice, or a head that has been read, may still send a packet for a block to a quad (02:R39). -/
def State.reachable (s : State) (sl obj blk q : Nat) : Bool :=
  let x := s.slice sl
  (s.obj (s.runCx sl) obj).any (fun o => x.launches.any (fun l => l.mayReach obj blk q o)) ||
    x.heads.any (fun h => h.desc.pmap != 0 && h.desc.mapObj == obj && (h.desc.maps.getD blk []).contains q)

/-- A block is an object's trap block, and a quad holds another block of the object: a trap there needs it (02:R27, R40). -/
def State.trapNeeded (s : State) (sl q obj blk : Nat) : Bool :=
  (s.obj (s.runCx sl) obj).any (fun o => o.trapBlk == some blk) && (s.quad (qkOf sl q)).exts.any (fun e => e.obj == obj && e.blk != blk)

/-- EXTENT_FREE, 02:R38, R39: the extent of a removed replica is free once no packet for the block is at the quad or on its way, none may
still be sent there, and no gang of the quad runs it. A trap block stays while the quad holds another block of its object (02:R27). -/
def execExtentFree (sl q obj blk : Nat) (s : State) : Outcome :=
  let qk := qkOf sl q
  .next (
    if !(s.quad qk).exts.any (fun e => e.obj == obj && e.blk == blk && e.dying)
        || (s.quadPackets sl q ++ s.heldBack sl).any (s.packetFor (s.runCx sl) obj blk)
        || s.reachable sl obj blk q || s.trapNeeded sl q obj blk
        || s.gangs.any (fun e => qkOfGk e.1 == qk && e.2.runs (fun b => b.obj == obj && b.idx == blk)) then s
    else s.modQuad qk (fun x => { x with exts := x.exts.filter (fun e => !(e.obj == obj && e.blk == blk && e.dying)) }))

end Sys2Proof.Machine
end

