-- ==== Sys2Proof/Machine/Loader.lean ====
section
/-!
DEFINITION. The loader: checks, placement, regions, tiles and links of a code object, and its unload (02:R27, R41 to R47, R50 to R54,
R474, 08:R227, R228, 07:R184, 22:R457).
-/

namespace Sys2Proof.Machine

/-! ## Segments (02:R41, R42) -/

/-- A record of the segment table. -/
structure Seg where
  kind : Nat
  index : Nat
  count : Nat
  off : Nat
  size : Nat

/-- Every byte of a part is zero. -/
def zeroAt (bs : List Byte) (o n : Nat) : Bool := ((bs.drop o).take n).all (fun b => b == 0#8)

/-- The number of segments. -/
def nseg (img : List Byte) : Nat := bytesAt img 6 2

/-- The header's own rules, its seal among them. -/
def headOk (img : List Byte) : Bool :=
  decide (128 ≤ img.length) && bytesAt img 0 4 == 0x434c_444e && bytesAt img 4 2 == 1 && decide (1 ≤ nseg img)
    && decide (nseg img ≤ 4096) && decide (bytesAt img 8 4 < 4) && zeroAt img 12 4 && zeroAt img 64 64
    && (img.drop 16).take 48 == sha384 (img.drop 128)

def segs (img : List Byte) : List Seg :=
  (List.range (nseg img)).map (fun i =>
    let o := 128 + 32 * i
    { kind := bytesAt img o 2, index := bytesAt img (o + 2) 2, count := bytesAt img (o + 4) 4, off := bytesAt img (o + 8) 8
      size := bytesAt img (o + 16) 8 })

/-- The rules of each segment record; its bytes lie in the object and hold its records. -/
def segOk (img : List Byte) (i : Nat) (g : Seg) : Bool :=
  let need := match g.kind with
    | 1 => 4 * g.count
    | 2 => g.count
    | 3 | 4 | 7 => 16 * g.count
    | 5 => 32 * g.count
    | _ => 8 * g.count
  zeroAt img (128 + 32 * i + 24) 8 && decide (1 ≤ g.kind) && decide (g.kind ≤ 7) && (g.kind == 1 || g.index == 0)
    && decide (g.off + g.size ≤ img.length) && decide (need ≤ g.size)
    && (g.kind != 1 || (decide (1 ≤ g.count) && decide (g.count ≤ 15872)))

def ofKind (gs : List Seg) (k : Nat) : List Seg := gs.filter (fun g => g.kind == k)

/-- How many segments of each kind an object holds; block indices run from 0. -/
def kindsOk (gs : List Seg) : Bool :=
  [3, 4, 5, 6, 7].all (fun k => (ofKind gs k).length == 1) && decide ((ofKind gs 2).length ≤ 1)
    && !(ofKind gs 1).isEmpty
    && (List.range (ofKind gs 1).length).all (fun i => (ofKind gs 1).any (fun g => g.index == i))

/-- The bytes of the one segment of a kind, and its record count. -/
def segBytes (img : List Byte) (k : Nat) : List Byte × Nat :=
  match ofKind (segs img) k with
  | g :: _ => ((img.drop g.off).take g.size, g.count)
  | [] => ([], 0)

/-! ## Records -/

/-- The words of each block, by index. -/
def blocksOf (img : List Byte) : List (List W32) :=
  let bs := ofKind (segs img) 1
  (List.range bs.length).map (fun i =>
    match bs.find? (fun g => g.index == i) with
    | some g => (List.range g.count).map (fun k => BitVec.ofNat 32 (bytesAt img (g.off + 4 * k) 4))
    | none => [])

/-- The entry list (02:R43). -/
def entriesOf (img : List Byte) : List EntryRec :=
  let (b, n) := segBytes img 4
  (List.range n).map (fun i =>
    let o := 16 * i
    { sym := bytesAt b (o + 12) 4, live := BitVec.ofNat 32 (bytesAt b (o + 8) 4), flags := bytesAt b (o + 6) 2
      block := bytesAt b (o + 4) 2, word := bytesAt b (o + 2) 2 })

/-- The rules of the entry list. -/
def entriesOk (img : List Byte) : Bool :=
  let (b, n) := segBytes img 4
  let es := entriesOf img
  let blks := blocksOf img
  decide (n ≤ 65536) && (List.range n).all (fun i => zeroAt b (16 * i) 2)
    && es.all (fun e => e.live &&& 0x8f00_0000#32 == 0#32 && decide ((liveRegs e.live).length ≤ 12) && decide (e.flags < 8)
      && decide (e.word < (blks.getD e.block []).length) && decide (e.sym < (segBytes img 3).2))
    && (es.filter (fun e => nbits e.flags 0 1 == 1)).length == 1

/-- The symbol table (02:R45). -/
def symsOf (img : List Byte) : List SymRec :=
  let (b, n) := segBytes img 3
  (List.range n).map (fun i =>
    let o := 16 * i
    { name := (b.drop (bytesAt b o 4)).take (bytesAt b (o + 4) 2), kind := bytesAt b (o + 6) 1, flags := bytesAt b (o + 7) 1
      index := bytesAt b (o + 8) 4 })

/-- A declaration as the object holds it (02:R46). -/
structure RawRegion where
  sym : Nat
  space : Nat
  flags : Nat
  align : Nat
  size : Nat
  init : Nat
  ilen : Nat

def rawRegions (img : List Byte) : List RawRegion :=
  let (b, n) := segBytes img 5
  (List.range n).map (fun i =>
    let o := 32 * i
    { sym := bytesAt b o 4, space := bytesAt b (o + 4) 1, flags := bytesAt b (o + 5) 1, align := bytesAt b (o + 6) 1
      size := bytesAt b (o + 8) 8, init := bytesAt b (o + 16) 8, ilen := bytesAt b (o + 24) 8 })

/-- The rules of the region declarations. -/
def regionsOk (img : List Byte) : Bool :=
  let (b, n) := segBytes img 5
  (List.range n).all (fun i => zeroAt b (32 * i + 7) 1) &&
  (rawRegions img).all (fun r =>
    decide (r.sym < (segBytes img 3).2) && decide (r.space ≤ 4) && decide (r.flags < 4) && decide (r.align ≤ 16) &&
    if r.space = 4 then r.flags == 0 && r.align == 0 && decide (r.init ≤ 12) && r.ilen == 0
    else if nbits r.flags 1 1 = 1 then decide (r.ilen ≤ r.size) && decide (32 * n ≤ r.init) && decide (r.init + r.ilen ≤ b.length)
    else r.init == 0 && r.ilen == 0)

/-- A name is a label of `dnas`: a letter or `_`, then letters, digits, `_` or `.` (08:R222). -/
def isLabel (name : List Byte) : Bool :=
  let c (lo hi : Nat) (b : Byte) : Bool := decide (lo ≤ b.toNat) && decide (b.toNat ≤ hi)
  let letter (b : Byte) : Bool := c 0x41 0x5a b || c 0x61 0x7a b || b == 0x5f#8
  (name.head?.any letter) && name.all (fun b => letter b || c 0x30 0x39 b || b == 0x2e#8)

/-- The rules of the symbol table against the entries and declarations it names; the names lie in the string area after the records. -/
def symsOk (img : List Byte) : Bool :=
  let (b, n) := segBytes img 3
  let es := entriesOf img
  let rs := rawRegions img
  (List.range n).all (fun i => zeroAt b (16 * i + 12) 4 && decide (1 ≤ bytesAt b (16 * i + 4) 2)
    && decide (bytesAt b (16 * i + 4) 2 ≤ 255) && decide (16 * n ≤ bytesAt b (16 * i) 4)
    && decide (bytesAt b (16 * i) 4 + bytesAt b (16 * i + 4) 2 ≤ b.length)) &&
  (symsOf img).all (fun y =>
    isLabel y.name && decide (y.flags < 4) && (nbits y.flags 1 1 == 0 || nbits y.flags 0 1 == 1) &&
    match y.kind with
    | 1 => (es[y.index]?).any (fun (e : EntryRec) =>
        nbits e.flags 2 1 == nbits y.flags 1 1 && nbits e.flags 1 1 == nbits y.flags 0 1)
    | 2 => (rs[y.index]?).any (fun (r : RawRegion) => r.space != 4 && nbits r.flags 0 1 == nbits y.flags 1 1)
    | 3 => (rs[y.index]?).any (fun (r : RawRegion) => r.space == 4) && y.flags == 0
    | 4 => y.index == 0 && y.flags == 0
    | _ => false)

/-- The symbols of the link slots (02:R44). -/
def slotsOf (img : List Byte) : List Nat :=
  let (b, n) := segBytes img 6
  (List.range n).map (fun i => bytesAt b (8 * i) 4)

def slotsOk (img : List Byte) : Bool :=
  let (b, n) := segBytes img 6
  decide (n ≤ 65536) && (List.range n).all (fun i => zeroAt b (8 * i + 4) 4)
    && (slotsOf img).all (fun y => decide (y < (segBytes img 3).2))

/-- The initial replica counts of the blocks (02:R47). -/
def repsOf (img : List Byte) : List Nat :=
  let (b, n) := segBytes img 7
  (List.range n).map (fun i => bytesAt b (16 * i + 2) 2)

def hintsOk (img : List Byte) (nquads : Nat) : Bool :=
  let (b, n) := segBytes img 7
  n == (blocksOf img).length && (List.range n).all (fun i => bytesAt b (16 * i) 2 == i && zeroAt b (16 * i + 8) 8)
    && (repsOf img).all (fun r => decide (1 ≤ r) && decide (r ≤ 1152) && decide (r ≤ nquads))

/-- Every rule that an object's own bytes must keep. -/
def objectOk (img : List Byte) (nquads : Nat) : Bool :=
  headOk img && ((List.range (nseg img)).zip (segs img)).all (fun e => segOk img e.1 e.2) && kindsOk (segs img) && entriesOk img
    && symsOk img && regionsOk img && slotsOk img && hintsOk img nquads

/-! ## Regions and tiles (08:R227, R228, 22:R457) -/

/-- The lowest free address from a base that meets an alignment, with the used parts in ascending order. -/
def lowestFree (align size : Nat) : Nat → List (Nat × Nat) → Nat
  | a, [] => a
  | a, (b, n) :: t => if a + size ≤ b then a else lowestFree align size (max a (roundUp (b + n) align)) t

/-- Row stride and storage of a tile (08:R228). -/
def tileStride (fmt cols : Nat) : Nat := roundUp ((cols * fmtBits fmt + 7) / 8) 256

/-- The parts of a space that loaded objects use. -/
def usedParts (objs : List Obj) (space : Nat) : List (Nat × Nat) :=
  objs.flatMap (fun o => (o.regions.filter (fun r => r.space == space)).map (fun r => (r.addr, r.size)))

/-- Where an object's declarations go: its regions and tiles in order, given the tile index that comes next, and the end of its
global extent. A tile's record holds its index. -/
structure Layout where
  regs : List RegionRec
  used : List (Nat × Nat × Nat)
  glob : Nat

/-- Lowest address of a space. -/
def spaceBase : Nat → Nat
  | 0 => 0x1_0000
  | 1 => 0x400_0000
  | _ => 0x8000_0000

/-- Places the regions, tiles left for later. -/
def placeRegions (extVa : Nat) (used : Nat → List (Nat × Nat)) : List RawRegion → Layout → Layout
  | [], l => l
  | r :: t, l =>
    let al := 2 ^ r.align
    let rec_ (a : Nat) : RegionRec := { sym := r.sym, space := r.space, flags := r.flags, size := r.size, addr := a }
    if r.space = 4 then placeRegions extVa used t { l with regs := l.regs ++ [rec_ 0] }
    else if r.space = 3 then
      let o := roundUp l.glob al
      placeRegions extVa used t { l with regs := l.regs ++ [rec_ (extVa + o)], glob := o + r.size }
    else
      let mine := (l.used.filter (fun e => e.1 == r.space)).map (fun e => e.2)
      let parts := sortBy (fun e => e.1) (used r.space ++ mine)
      let a := lowestFree al r.size (roundUp (spaceBase r.space) al) parts
      placeRegions extVa used t { l with regs := l.regs ++ [rec_ a], used := l.used ++ [(r.space, a, r.size)] }

/-- A tile of an object: its index, data address, rows, columns, format. -/
structure TilePlan where
  index : Nat
  data : Nat
  rows : Nat
  cols : Nat
  fmt : Nat

/-- Places the tiles after the regions of the global extent. -/
def placeTiles (extVa : Nat) : Nat → Nat → List RawRegion → List TilePlan
  | _, _, [] => []
  | i, at_, r :: t =>
    let rows := nbits r.size 0 32
    let cols := nbits r.size 32 32
    let a := roundUp at_ 256
    { index := i, data := extVa + a, rows := rows, cols := cols, fmt := r.init }
      :: placeTiles extVa (i + 1) (a + rows * tileStride r.init cols) t

/-- Gives the tile records of a layout their indices. -/
def numberTiles : Nat → List RegionRec → List RegionRec
  | _, [] => []
  | i, r :: t => if r.space = 4 then { r with addr := i } :: numberTiles (i + 1) t else r :: numberTiles i t

/-- The limits of the three on-chip spaces (08:R227). -/
def layoutOk (shmib : Nat) (l : Layout) : Bool :=
  l.used.all (fun e =>
    let end_ := e.2.1 + e.2.2
    match e.1 with
    | 0 => decide (end_ ≤ 0x1_7000)
    | 1 => decide (end_ ≤ 0x400_0000 + 0x5_8000)
    | _ => decide (end_ ≤ 0x8000_0000 + shmib * 2 ^ 20))

/-- The bytes of a region at load. -/
def regionBytes (b : List Byte) (r : RawRegion) : List Byte :=
  (b.drop r.init).take r.ilen ++ List.replicate (r.size - r.ilen) 0#8

/-- Writes the bytes of a region, into every copy (08:R227). -/
def State.loadRegion (s : State) (sl cx : Nat) (p : LoadPlace) (a : Nat) (space : Nat) (bs : List Byte) : State :=
  let key := s.keyNo cx
  match space with
  | 0 => (List.range (s.slice sl).ncores).foldl (fun t c => t.wrBytes key (tcmLoc (ckOf sl c) (a - 0x1_0000)) bs) s
  | 1 => (List.range (s.slice sl).nclus).foldl (fun t c => t.wrBytes key (scrLoc (clkOf sl c) (a - 0x400_0000)) bs) s
  | 2 =>
    let o := a - 0x8000_0000
    let us := (s.slice sl).units
    s.wrAll key (((List.range bs.length).zip bs).map (fun e =>
      (shrLoc (us.getD ((o + e.1) / 2 ^ 20) 0 * 2 ^ 20 + (o + e.1) % 2 ^ 20), e.2)))
  | _ => s.wrBytes key (p.extPa + (a - p.extVa)) bs

/-- Writes every region of a layout. -/
def State.loadRegions (s : State) (sl cx : Nat) (p : LoadPlace) (b : List Byte) : List RawRegion → List RegionRec → State
  | r :: t, q :: u =>
    let s := if r.space = 4 then s else s.loadRegion sl cx p q.addr r.space (regionBytes b r)
    s.loadRegions sl cx p b t u
  | _, _ => s

/-- Writes a tile's storage and header. -/
def State.loadTile (s : State) (cx : Nat) (p : LoadPlace) (t : TilePlan) : State :=
  let key := s.keyNo cx
  let stride := tileStride t.fmt t.cols
  let s := s.wrBytes key (p.extPa + (t.data - p.extVa)) (List.replicate (t.rows * stride) 0#8)
  s.wrBytes key ((s.ctx cx).tilePa + 64 * t.index)
    (leBytes 8 0 ++ leBytes 8 t.data ++ leBytes 4 t.rows ++ leBytes 4 t.cols ++ leBytes 4 stride ++ leBytes 1 t.fmt
      ++ List.replicate 35 0#8)

/-! ## Symbols and links (02:R44, R45, R53, R54, R474) -/

/-- The loaded objects of a context with their slots. -/
def State.loaded (s : State) (cx : Nat) : List (Nat × Obj) :=
  (s.ctx cx).objs.filterMap (fun e => if e.2.dying then none else e.2.obj.map (fun o => (e.1, o)))

/-- A global definition: its slot, object and symbol. -/
structure GDef where
  slot : Nat
  obj : Obj
  sym : SymRec

def SymRec.global (y : SymRec) : Bool := nbits y.flags 0 1 == 1 && (y.kind == 1 || y.kind == 2)
def SymRec.weak (y : SymRec) : Bool := nbits y.flags 1 1 == 1

/-- The definition that a global name is bound to: the strong one, otherwise the weak one of the object loaded first. -/
def boundTo (os : List (Nat × Obj)) (name : List Byte) : Option GDef :=
  let ds := os.flatMap (fun e =>
    (e.2.syms.filter (fun y => y.global && y.name == name)).map (fun y => ({ slot := e.1, obj := e.2, sym := y } : GDef)))
  match ds.find? (fun d => !d.sym.weak) with
  | some d => some d
  | none => minBy (fun d => d.obj.loadNo) ds

/-- The definition that a symbol of an object refers to. -/
def refers (os : List (Nat × Obj)) (slot : Nat) (o : Obj) (y : SymRec) : Option GDef :=
  if y.kind = 4 ∨ y.global then boundTo os y.name else some { slot := slot, obj := o, sym := y }

/-- The value that a link slot holds for a definition (02:R44). -/
def State.linkValue (s : State) (cx : Nat) (d : GDef) : Word :=
  if d.sym.kind = 1 then s.handleOf cx d.slot d.sym.index
  else BitVec.ofNat 64 (((d.obj.regions[d.sym.index]?).map (fun r => r.addr)).getD 0)

/-- Writes the link slots of an object that do not hold their value, each as one write ordered by the launch arbiter. -/
def State.linkObj (s : State) (cx : Nat) (os : List (Nat × Obj)) (slot : Nat) (o : Obj) : State :=
  ((List.range o.slots.length).zip o.slots).foldl (fun t e =>
    match (o.syms[e.2]?).bind (refers os slot o) with
    | none => t
    | some d =>
      let v := t.linkValue cx d
      let a := o.lnkPa + 8 * e.1
      if t.rdNat (t.keyNo cx) a 8 = v.toNat then t
      else (t.wrBytes (t.keyNo cx) a (leBytes 8 v.toNat)).squashReaders none (sectorsOf a 8)) s

/-- Writes every link slot of the context that does not hold its value. -/
def State.linkAll (s : State) (cx : Nat) : State :=
  let os := s.loaded cx
  os.foldl (fun t e => t.linkObj cx os e.1 e.2) s

/-- Resolution refuses a second strong definition and a reference that nothing defines (02:R53). -/
def resolves (os : List (Nat × Obj)) (slot : Nat) (o : Obj) : Bool :=
  o.syms.all (fun y =>
    (!(y.global && !y.weak) || !os.any (fun e => e.2.syms.any (fun z => z.global && !z.weak && z.name == y.name))) &&
    (y.kind != 4 || (boundTo (os ++ [(slot, o)]) y.name).isSome))

/-! ## Code placement (02:R23, R24, R27, R28) -/

/-- Places the copies of the blocks, none when one does not fit. -/
def State.placeCode (s : State) (sl slot : Nat) (blocks : List (List W32)) : List (Nat × Nat × Nat) → Option State
  | [] => some s
  | (blk, q, start) :: t =>
    let ws := blocks.getD blk []
    let x := s.quad (qkOf sl q)
    if q < (s.slice sl).nquads ∧ x.extentFree start ws.length then
      State.placeCode (s.setQuad (qkOf sl q) (x.place start slot blk false ws)) sl slot blocks t
    else none

/-- The `.place` hints of a block: the span in quads, 0 for a free one, and the group (02:R47). -/
def spanOf (img : List Byte) (b : Nat) : Nat := bytesAt (segBytes img 7).1 (16 * b + 4) 2
def groupNo (img : List Byte) (b : Nat) : Nat := bytesAt (segBytes img 7).1 (16 * b + 6) 2

/-- The first block of the group that a block belongs to, when it is another one. -/
def groupLead (img : List Byte) (b : Nat) : Option Nat :=
  if groupNo img b = 0xffff then none
  else
    match (List.range b).find? (fun k => groupNo img k == groupNo img b) with
    | some k => some k
    | none => none

/-- Some quads keep a block's span, and lie in clusters of its group's first block. -/
def keepsHints (span : Nat) (lead : Option (List Nat)) (qs : List Nat) : Bool :=
  (span == 0 || decide (qs.getLastD 0 < qs.headD 0 + span)) &&
    lead.all (fun l => qs.all (fun q => l.any (fun r => r / 2 == q / 2)))

/-- A placement keeps each block's hints, or no quads that hold the block or have room for it, the others where they are, would (02:R47). -/
def State.hintsKept (s : State) (sl slot : Nat) (img : List Byte) (o : Obj) : Bool :=
  let n := (s.slice sl).nquads
  (List.range o.blocks.length).all (fun b =>
    let qs := o.reps.getD b []
    let span := spanOf img b
    let lead := (groupLead img b).map (fun k => o.reps.getD k [])
    let cand := (List.range n).filter (fun q =>
      (((s.quad (qkOf sl q)).findAny slot b).isSome || ((s.quad (qkOf sl q)).addCopy slot b o).isSome) && lead.all (fun l => l.any (fun r => r / 2 == q / 2)))
    keepsHints span lead qs ||
      (List.range n).all (fun w =>
        let k := if span = 0 then n else span
        decide ((cand.filter (fun q => decide (w ≤ q) && decide (q < w + k))).length < (repsOf img).getD b 0)))

/-- The loader's copies keep 02:R27 and R28: each block as often as its hint says, on ascending quads. Behind those of the trap block stand
its extra copies, ascending as well: one on every other quad that holds another block, and on none besides. They are no members of the
block's replica set (log 52). -/
def copiesOk (img : List Byte) (trapBlk : Nat) (copies : List (List (Nat × Nat))) : Bool :=
  let at_ (b : Nat) : List Nat := (copies.getD b []).map (fun c => c.1)
  let rep (b : Nat) : Nat := (repsOf img).getD b 0
  let others := (List.range copies.length).filter (fun b => b != trapBlk)
  let own := (at_ trapBlk).take (rep trapBlk)
  let extra := (at_ trapBlk).drop (rep trapBlk)
  copies.length == (blocksOf img).length && rising own && rising extra && own.length == rep trapBlk
    && others.all (fun b => rising (at_ b) && (at_ b).length == rep b && (at_ b).all (at_ trapBlk).contains)
    && extra.all (fun q => !own.contains q && others.any (fun b => (at_ b).contains q))

/-! ## Launch lines (08:R229) -/

/-- The descriptor of a launch line (07:R182): none when a name of it is not what the line needs. -/
def State.lineDesc (s : State) (cx slot : Nat) (o : Obj) (l : LaunchLine) : Option (List Byte) :=
  let os := s.loaded cx
  let sym (i : Nat) : Option GDef := (o.syms[i]?).bind (refers os slot o)
  let tile (i : Nat) : Option Nat :=
    match o.syms[i]? with
    | some y => if y.kind = 3 then (o.regions[y.index]?).map (fun r => r.addr) else none
    | none => none
  let arg (a : LaunchArg) : Option Nat :=
    match a with
    | .int v => some v.toNat
    | .slot i => (sym i).bind (fun d => if d.sym.kind = 2 then some (s.linkValue cx d).toNat else none)
  let e := (sym l.entry).bind (fun d => if d.sym.kind = 1 then some (s.linkValue cx d).toNat else none)
  let tin := l.tin.map tile
  let tout := l.tout.map tile
  let args := l.args.map arg
  match e with
  | none => none
  | some h =>
    if (tin ++ tout ++ args).any Option.isNone || decide (8 < l.tin.length) || decide (8 < l.tout.length) || decide (7 < l.args.length) then none
    else
      let idx (ts : List (Option Nat)) : List Byte := (List.range 8).flatMap (fun i => leBytes 2 ((ts.getD i none).getD 0))
      let consume := ((List.range l.tin.length).map (fun i => if l.consume.contains (l.tin.getD i 0) then 2 ^ i else 0)).sum
      some (leBytes 8 h ++ leBytes 4 (if l.crewsz = 0 then l.threads else l.crews) ++ leBytes 2 l.crewsz ++ leBytes 2 l.nquad
        ++ leBytes 8 0 ++ leBytes 1 l.prio ++ leBytes 1 l.tin.length ++ leBytes 1 l.tout.length ++ leBytes 1 consume ++ leBytes 4 0
        ++ idx tin ++ idx tout ++ leBytes 8 0 ++ (List.range 7).flatMap (fun i => leBytes 8 ((args.getD i none).getD 0)))

/-- The loader builds the descriptors of an object's launch lines in the context's memory and submits them in order, with tag 0; at a full
queue it waits for room (08:R229). -/
def State.launchLines (s : State) (cx slot : Nat) (ls : List LaunchLine) : State :=
  match s.obj cx slot with
  | none => s
  | some o =>
    let s := ls.foldl (fun t l =>
      match t.lineDesc cx slot o l with
      | none => t
      | some bs => t.wrBytes (t.keyNo cx) l.descPa bs) s
    (s.modCtx cx (fun c => { c with submits := c.submits ++ ls.map LaunchLine.descVa })).loaderSubmits cx

/-! ## What the loader maps (02:R44, 08:R229, 22:R457) -/

/-- The bytes from a virtual address on are those from a physical address of HBM4 on, page by page, on ordinary pages that programs read, and
write if so asked (04:R107, 10:R266). -/
def State.mapsTo (s : State) (cx va pa n : Nat) (wr : Bool) : Bool :=
  n == 0 || (rangeOf va == 4 && rangeOf (va + n - 1) == 4 &&
    (List.range ((va + n - 1) / 65536 + 1 - va / 65536)).all (fun i =>
      match s.walk cx ((va / 65536 + i) * 65536) with
      | .ok e => !e.tl && !e.ms && (!wr || (e.w1 && e.w2)) && decide (e.ppage * 65536 < 2 ^ 39)
          && e.ppage * 65536 + va % 65536 == pa + 65536 * i
      | _ => false))

/-- The bytes of an object's extent: its global regions, then its tiles (08:R228, 22:R457). -/
def extentSize (extVa glob : Nat) (tiles : List TilePlan) : Nat :=
  (tiles.getLast?.map (fun t => t.data - extVa + t.rows * tileStride t.fmt t.cols)).getD glob

/-- Writes the page-table entries that come with a load. -/
def State.placeTabs (s : State) (cx : Nat) (p : LoadPlace) : State :=
  p.tabs.foldl (fun t e => t.wrBytes (t.keyNo cx) e.1 (leBytes 8 e.2.toNat)) s

/-- The extent is mapped readable and writable, and the link table readable (02:R44, 22:R457). -/
def State.loadMapped (s : State) (cx : Nat) (p : LoadPlace) (ext slots : Nat) : Bool :=
  s.mapsTo cx p.extVa p.extPa ext true && s.mapsTo cx p.lnkVa p.lnkPa (8 * slots) false

/-- The pages of a context's tile headers are mapped as they were in another state (07:R184). -/
def State.tilesAs (s t : State) (cx : Nat) : Bool :=
  let at_ (u : State) (i : Nat) : Option TlbEnt := match u.walk cx ((u.ctx cx).tilb + 65536 * i) with
    | .ok e => some e
    | _ => none
  (List.range 4).all (fun i => at_ s i == at_ t i)

/-- What a load writes lies beside the tile headers, which only the launch arbiter changes: the page-table entries, the extent, the link
table and the descriptors of its launch lines (07:R184). -/
def State.besideTiles (s : State) (cx : Nat) (p : LoadPlace) (ext slots : Nat) : Bool :=
  let h := (s.ctx cx).tilePa
  ((p.extPa, ext) :: (p.lnkPa, 8 * slots) :: p.tabs.map (fun (e : Nat × Word) => (e.1, 8)) ++ p.launches.map (fun (l : LaunchLine) => (l.descPa, 128))).all (fun (e : Nat × Nat) =>
    !overlaps e.1 e.2 h (64 * 4096))

/-- A launch line whose names resolve, and whose descriptor lies in the context's memory (07:R182, 08:R229). -/
def State.lineOk (s : State) (cx slot : Nat) (o : Obj) (l : LaunchLine) : Bool :=
  (s.lineDesc cx slot o l).isSome && l.descVa % 64 == 0 && s.mapsTo cx l.descVa l.descPa 128 false

/-! ## The events -/

/-- The object as loaded, its regions placed. The initial set of a block holds as many quads as its hint says; the extra copies of the trap
block are in none (02:R27, R28; log 52). -/
def objOf (img : List Byte) (p : LoadPlace) (regs : List RegionRec) (loadNo : Nat) : Obj :=
  let es := entriesOf img
  { entries := es, blocks := blocksOf img
    reps := ((List.range p.copies.length).zip p.copies).map (fun c => (c.2.map (fun x => x.1)).take ((repsOf img).getD c.1 0))
    hots := p.copies.map (fun _ => [])
    syms := symsOf img, regions := regs, slots := slotsOf img
    trapEntry := (es.findIdx? (fun e => nbits e.flags 0 1 == 1)).getD 0
    lnkVa := p.lnkVa, lnkPa := p.lnkPa, loadNo := loadNo, digest := (img.drop 16).take 48 }

/-- OBJECT_LOAD, 02:R27, R41 to R54, 08:R229, 22:R457: the loader checks the object, places its code, regions and tiles in the running context, links
it, and submits its launch lines; a load that breaks a rule is refused, and the context is unchanged. -/
def execObjectLoad (sl slot : Nat) (img : List (BitVec 8)) (place : LoadPlace) (s : State) : Outcome :=
  let cx := s.runCx sl
  let c := s.ctx cx
  let x := tget {} c.objs slot
  let refuse := s.note 2 slot
  .next (
    if (s.slice sl).running.isNone ∨ 4096 ≤ slot ∨ x.retired ∨ x.obj.isSome ∨ objectOk img (s.slice sl).nquads = false then refuse
    else
      let os := s.loaded cx
      let raw := rawRegions img
      let l := placeRegions place.extVa (usedParts (os.map (fun e => e.2))) raw { regs := [], used := [], glob := 0 }
      let tiles := placeTiles place.extVa c.ntiles l.glob (raw.filter (fun r => r.space == 4))
      let o := objOf img place (numberTiles c.ntiles l.regs) c.loads
      if !layoutOk c.shmib l || !resolves os slot o || place.extVa % 65536 != 0 || place.extPa % 65536 != 0
          || decide (4096 < c.ntiles + tiles.length) || (!place.launches.isEmpty && (s.loaderQueue cx).isNone)
          || !copiesOk img (((entriesOf img)[o.trapEntry]?).map (fun e => e.block) |>.getD 0) place.copies then refuse
      else
        match s.placeCode sl slot o.blocks (((List.range place.copies.length).zip place.copies).flatMap (fun e =>
            e.2.map (fun q => (e.1, q.1, q.2)))) with
        | none => refuse
        | some u =>
          if u.hintsKept sl slot img o = false then refuse
          else
          let s := u.placeTabs cx place
          let ext := extentSize place.extVa l.glob tiles
          if s.loadMapped cx place ext o.slots.length = false ∨ u.besideTiles cx place ext o.slots.length = false
              ∨ s.tilesAs u cx = false then refuse
          else
          let s := s.loadRegions sl cx place (segBytes img 5).1 raw l.regs
          let s := tiles.foldl (fun t p => t.loadTile cx place p) s
          let x' : ObjSlot := { x with obj := some o, owner := c.vf, dying := false }
          let s := s.modCtx cx (fun c =>
            { c with objs := tput c.objs slot x', ntiles := c.ntiles + tiles.length, loads := c.loads + 1 })
          let s := s.linkAll cx
          if place.launches.isEmpty then s
          else if place.launches.any (fun l => !s.lineOk cx slot o l) then refuse
          else s.launchLines cx slot place.launches)

/-- A slot of another object is bound to a definition of an object, and no other object defines the name (02:R474). -/
def State.unloadBlocked (s : State) (cx slot : Nat) : Bool :=
  let os := s.loaded cx
  let rest := os.filter (fun e => e.1 != slot)
  rest.any (fun e => e.2.slots.any (fun i =>
    match (e.2.syms[i]?) with
    | none => false
    | some y => (refers os e.1 e.2 y).any (fun d => d.slot == slot) && (refers rest e.1 e.2 y).isNone))

/-- OBJECT_UNLOAD, 02:R52, R474: at one point the slot's generation rises, the object's global definitions are withdrawn and the
slots bound to them rewritten; its code stays until its extents are free. -/
def execObjectUnload (sl slot : Nat) (s : State) : Outcome :=
  let cx := s.runCx sl
  let x := tget {} (s.ctx cx).objs slot
  .next (
    if (s.slice sl).running.isNone ∨ x.obj.isNone ∨ x.dying ∨ s.unloadBlocked cx slot then s.note 2 slot
    else s.atArbiter (fun s =>
      let last := x.gen = 0xf_ffff
      let x' : ObjSlot := { x with gen := if last then x.gen else x.gen + 1, retired := x.retired || last, dying := true }
      let s := s.modCtx cx (fun c => { c with objs := tput c.objs slot x' })
      let s := s.dropRoutes sl slot (fun _ => true)
      -- a record that has been read names an entry that is no more (log 55)
      let void (h : HeadRec) : HeadRec := if wbits h.desc.entry 0 12 = slot ∧ h.broken = 0 then { h with broken := 2 } else h
      let s := s.modSlice sl (fun z => { z with
        hot := z.hot.filter (fun h => h.obj != slot), hotPending := z.hotPending.filter (fun u => u.1 != slot)
        heads := z.heads.map void })
      s.linkAll cx))

/-- A launch whose entry lies in an object has threads or crews still to inject: its packets go to the object's copies (02:R39, 07:R198). -/
def State.toInject (s : State) (sl slot : Nat) : Bool :=
  (s.slice sl).launches.any (fun l => decide (l.injected < l.desc.count) && wbits l.desc.entry 0 12 == slot)

/-- OBJECT_EXTENT_FREE, 02:R39, R52: the code of an unloaded object is freed once no packet for its entries waits or is on its way, none may
still be sent, and no gang runs it. -/
def execObjectExtentFree (sl slot : Nat) (s : State) : Outcome :=
  let cx := s.runCx sl
  let x := tget {} (s.ctx cx).objs slot
  let mine (p : Packet) : Bool := wbits p.entry 0 12 == slot
  .next (
    if (s.slice sl).running.isNone || !x.dying
        || (List.range (s.slice sl).nquads).any (fun q => (s.quadPackets sl q).any mine) || (s.heldBack sl).any mine
        || s.toInject sl slot
        || s.gangs.any (fun e => slOfGk e.1 == sl && e.2.runs (fun b => b.obj == slot)) then s
    else
      let strip (q : Quad) : Quad := { q with exts := q.exts.filter (fun k => k.obj != slot) }
      let s := { s with quads := s.quads.map (fun (e : Nat × Quad) => if slOfQk e.1 == sl then (e.1, strip e.2) else e) }
      s.modCtx cx (fun c => { c with objs := tput c.objs slot { x with obj := none, dying := false } }))

end Sys2Proof.Machine
end

