-- ==== Sys2Proof/Machine/Translate.lean ====
section
/-!
DEFINITION. The directory handler, walks, the commands of the hypervisor to the stage-2 fault queue and the dirty bits, and the end of
`tlbinv` (04:R111 to R113, R117, 19:R406, 14:R370, 21:R449).
-/

namespace Sys2Proof.Machine

/-- The lowest of the 204 records of the extended lists that no line of a cluster has; the spec does not say which one a line takes
(log 51). -/
def Cluster.freeRec (c : Cluster) : Option Nat :=
  (List.range 204).find? (fun k => c.dir.all (fun d => !(d.ext && d.rec_ == k)))

/-- The 160 bytes of an extended record: its header, whose contents the spec leaves open (log 5), and a bitmap of 1,152 quads (04:R117). -/
def DirLine.record (d : DirLine) : List Byte :=
  leBytes 16 (Config.dirHeader d.line).toNat ++ leBytes 144 ((d.sharers.foldl (fun m q => m.lor (2 ^ q)) 0))

/-- DIRECTORY_HANDLER_TRAP, 04:R98, R117: the handler of the line's home, in the system gang slot of its logical core 0, takes a further
sharer into the line's extended record, or marks the line broadcast when all 204 records are taken. -/
def execDirectoryHandlerTrap (sl line q : Nat) (s : State) : Outcome :=
  let clk := s.homeOf sl line
  let c := s.cluster clk
  .next (
    if (s.slice sl).nclus = 0 ∨ c.dirTraps.contains (line, q) = false then s
    else
      let c := { c with dirTraps := c.dirTraps.filter (fun e => e != (line, q)) }
      match c.dir.find? (fun d => d.line == line) with
      | none => s.setCluster clk (c.share line q)
      | some old =>
        let new := { old with exclusive := false, sharers := addSet old.sharers [q] }
        let slot := if old.ext then some old.rec_ else c.freeRec
        match slot with
        | none => s.setCluster clk { c with dir := { new with broadcast := true } :: dirDrop line c.dir }
        | some k =>
          let d := { new with ext := true, rec_ := k }
          (s.setCluster clk { c with dir := d :: dirDrop line c.dir }).wrBytes 0 (scrLoc clk (0x7_8000 + 160 * k)) d.record)

/-- TLB_WALK, 04:R111, R112, 19:R405, R406: a miss walks both stages. The result is cached, a write that is allowed sets `d`, and a
stage-2 fault is reported, as of gang slot 0 of the quad's first core (log 57); a walk that ends in a fault caches nothing. -/
def execTlbWalk (sl q : Nat) (va : BitVec 64) (wr : Bool) (s : State) : Outcome :=
  let cx := s.runCx sl
  let qk := qkOf sl q
  let gk := gkOf (4 * qk) 0
  .next (
    if (s.slice sl).running.isNone || rangeOf va.toNat != 4 then s
    else if (match s.tlbHit qk cx va.toNat with
      | some e => !wr || e.d
      | none => false) then s
    else
      match s.walk cx va.toNat with
      | .s1 => s
      | .s2 ipa t _ => s.stage2Record .walk gk va.toNat ipa wr t false false
      | .ok e =>
        if wr && e.w1 && !e.w2 then s.stage2Record .walk gk va.toNat (e.ipage * 65536 + va.toNat % 65536) true false true false
        else s.noteAccess qk cx va.toNat (wr && e.w1))

/-- The record writes of a slice whose stage-2 faults hold them no more are made again. -/
def State.retryDones (s : State) (sl : Nat) : State :=
  let held (d : Nat × List Byte × Bool) : Bool := s.s2Held sl (.done (s.runCx sl) d.1)
  let ds := (s.slice sl).dones.filter (fun d => !held d)
  let s := s.modSlice sl (fun x => { x with dones := x.dones.filter held })
  ds.foldl (fun t d => t.putDone sl d.1 d.2.1 d.2.2) s

/-- Faults that wait for a record take one, in their order, as far as the queue has room. -/
def State.s2Fill (s : State) (v : Nat) : State :=
  let rest := (s.vf v).s2over
  rest.foldl (fun t e => t.s2Enter v e.1 e.2) (s.modVf v (fun f => { f with s2over := [] }))

/-- Every queue of a function and the submissions of its table entries: what has become head is read (07:R183). -/
def State.readAll (s : State) (vf : Nat) : State :=
  let s := s.mgmt.queues.foldl (fun t e => if e.2.vf == vf then t.seeQueue e.1 else t) s
  s.mgmt.table.foldl (fun t e => if e.2.vf == vf then (List.range e.2.unread).foldl (fun t _ => t.tabHead e.2.slice e.1) t else t) s

/-- RETRY_COMMAND, 19:R406: the record leaves the queue, and every access that joined it walks again: gangs may wake, heads are read
again and record writes are made again. -/
def execRetryCommand (vf i : Nat) (s : State) : Outcome :=
  if s.booted = false then .next s else
  let s := (s.modVf vf (fun v => { v with s2q := v.s2q.filter (fun e => e.1 != i) })).s2Fill vf
  let s := s.readAll vf
  .next (s.slices.foldl (fun t e =>
    if e.2.running.isSome && (t.ctx (t.runCx e.1)).vf == vf then (t.devHead e.1).retryDones e.1 else t) s)

/-! ## Invalidation -/

/-- No open chunk of a gang writes some physical locations, and its far operations to them have been performed. -/
def Gang.quiet (g : Gang) (at_ : Nat → Bool) : Bool :=
  g.ch.wbuf.all (fun w => !at_ w.1) && g.ch.exts.all (fun e => !at_ e.1)
    && g.far.all (fun o => o.perf || o.lanes.all (fun l => !at_ l.loc))

/-- No matrix command that runs has bytes to write at some physical locations. -/
def Cluster.quiet (c : Cluster) (at_ : Nat → Bool) : Bool := c.runs.all (fun r => r.bytes.all (fun b => !at_ b.1))

/-- The gang's accesses through some virtual pages have been performed: its chunk is committed, its far operations performed. -/
def Gang.quietVa (g : Gang) (page : Nat → Bool) : Bool :=
  g.ch.wva.all (fun p => !page p) && g.ch.exts.all (fun e => !page (e.2.1 / 65536))
    && g.far.all (fun o => o.perf || o.lanes.all (fun l => !page (l.va / 65536)))

/-- Removes the entries of every TLB that satisfy a test. -/
def State.dropTlb (s : State) (p : TlbEnt → Bool) : State :=
  { s with quads := s.quads.map (fun e => (e.1, { e.2 with tlb := e.2.tlb.filter (fun t => !p t) }))
           clus := s.clus.map (fun e => (e.1, { e.2 with tlb := e.2.tlb.filter (fun t => !p t) })) }

/-- The pages of 64 KiB, as base and number, of the stage-1 page that holds a virtual page of a context: as its TLB entries have it, or as it
is now where no TLB holds an entry. -/
def State.pageOf (s : State) (cx page : Nat) : Nat × Nat :=
  let es := (s.quads.flatMap (fun q => q.2.tlb) ++ s.clus.flatMap (fun c => c.2.tlb)).filter (fun e =>
    e.ctx == cx && e.vpage / e.sz1 == page / e.sz1)
  let now := match s.walk cx (page * 65536) with
    | .ok e => e.sz1
    | _ => 1
  let n := (es.map (fun e => e.sz1)).foldl max (if es.isEmpty then now else 1)
  (page / n * n, n)

/-- TLBINV_COMPLETE, 04:R113: once every access already translated by it has been performed, every TLB of the slice drops every piece of the
stage-1 page, and the gang goes on. What matrix commands have translated stands in their runs by physical location: those are waited for
whatever the page. -/
def execTlbinvComplete (gk : Nat) (s : State) : Outcome :=
  let g := s.gang gk
  let sl := slOfGk gk
  let cx := s.runCx sl
  let (b, n) := s.pageOf cx ((g.r.gangOp (nbits (s.issueWord gk).toNat 14 5)).toNat / 65536)
  let page (p : Nat) : Bool := decide (b ≤ p) && decide (p < b + n)
  let mine (e : TlbEnt) : Bool := e.ctx == cx && page e.vpage
  .next (
    if g.wait != some .tlbinv || g.stopped || s.held gk .tlbinv
        || s.gangs.any (fun e => slOfGk e.1 == sl && !e.2.quietVa page)
        || s.clus.any (fun c => slOfClk c.1 == sl && !c.2.quiet (fun l => spaceOfLoc l ≤ 1))
        || s.links.unacked.any (fun e => slOfGk e.gk == sl && page (e.va / 65536)) then s
    else ((s.dropTlb mine).modGang gk (fun g => { g with prog := 2 })).ready gk)

/-! ## The host clean command (14:R370, 21:R449) -/

/-- The contexts of a virtual function. -/
def State.ctxsOf (s : State) (vf : Nat) : List Nat := (s.ctxs.filter (fun e => e.2.live && e.2.vf == vf)).map (fun e => e.1)

/-- A stage-2 leaf: its own physical address, and the physical range that it translates to. -/
structure Leaf where
  at_ : Nat
  base : Nat
  size : Nat
  deriving DecidableEq, Repr

/-- The stage-2 leaves of some IPA pages of a function. -/
def State.leaves (s : State) (vf : Nat) (pages : List Nat) : List Leaf :=
  (s.ctxsOf vf).flatMap (fun cx => pages.filterMap (fun p =>
    (s.s2Walk cx (p * 65536)).map (fun w =>
      let n := s.s2Size (p * 65536) ((s.ctx cx).s2root / 4096 * 4096) [0, 1, 2, 3]
      { at_ := w.2.2, base := w.1 / n * n, size := n })))

/-- Clears `d` of a leaf, which lies under the device key (14:R359). -/
def State.clearD (s : State) (l : Leaf) : State :=
  let k := s.ochre.devKey
  s.wrByte k l.at_ (BitVec.ofNat 8 (insBits (s.rdByte k l.at_).toNat 0 3 1))

/-- HOST_CLEAN, 04:R112, 14:R370, 21:R449: clears the `d` bits of some IPA pages of a function once every write through the old
translations has been performed, drops their TLB entries, and may reset the log. -/
def execHostClean (vf : Nat) (pages : List Nat) (rst : Bool) (s : State) : Outcome :=
  let ls := s.leaves vf pages
  let in_ (loc : Nat) : Bool := ls.any (fun l => decide (l.base ≤ loc) && decide (loc < l.base + l.size))
  .next (
    if s.booted = false ∨ s.gangs.any (fun e => !e.2.quiet in_) ∨ s.clus.any (fun e => !e.2.quiet in_)
        ∨ s.links.unacked.any (fun e => in_ e.pa)
        ∨ s.ctxs.any (fun e => e.2.image.any (fun im => im.unacked.any (fun w => in_ w.pa))) then s
    else
      let drop (e : TlbEnt) : Bool := (s.ctxsOf vf).contains e.ctx &&
        ((s.s2Walk e.ctx (e.ipage * 65536)).any (fun w => ls.any (fun l => l.at_ == w.2.2)))
      let s := ls.foldl State.clearD (s.dropTlb drop)
      s.modVf vf (fun v => if rst then { v with dlog := [], dovf := false, cleanAt := 0 } else { v with cleanAt := v.dlog.length }))

end Sys2Proof.Machine
end

