-- ==== Sys2Proof/Machine/Mesh.lean ====
section
/-!
DEFINITION. Stream flits, tokens and audits, the timers of `sopen`, the recovery of the mesh and its routing tables (04:R122 to R126,
10:R285, 19:R413 to R416).
-/

namespace Sys2Proof.Machine

/-- Changes the stream port of a quad. -/
def State.modPort (s : State) (qk : Nat) (f : StreamPort → StreamPort) : State :=
  s.modQuad qk (fun q => { q with port := f q.port })

/-! ## Flits and tokens (10:R285, 04:R125, R126) -/

/-- Removes the first flit of a stream from those on their way. -/
def takeFlit (st : Nat) : List (Nat × Flit) → Option (Flit × List (Nat × Flit))
  | [] => none
  | (k, f) :: t =>
    if k = st then some (f, t)
    else (takeFlit st t).map (fun r => (r.1, (k, f) :: r.2))

/-- The receiver takes the next flit of the stream it receives into a slot; with no stream it begins the first that has arrived.
Other streams that have arrived wait in order. -/
def StreamPort.receive (p : StreamPort) (now : Nat) : StreamPort :=
  match p.inflight with
  | [] => p
  | (first, _) :: _ =>
    let cur := p.src.getD first
    let p := { p with src := some cur
                      auditAt := if p.src.isNone then now else p.auditAt
                      waiting := addSet p.waiting ((p.inflight.map (fun e => e.1)).filter (fun k => k != cur)) }
    if 16 ≤ p.slots.length then p
    else
      match takeFlit cur p.inflight with
      | none => p
      | some (f, rest) => { p with inflight := rest, slots := p.slots ++ [f] }

/-- The flit that the receiver of a port takes next. -/
def StreamPort.nextFlit (p : StreamPort) : Option (Nat × Flit) :=
  match p.inflight with
  | [] => none
  | (first, _) :: _ => (takeFlit (p.src.getD first) p.inflight).map (fun r => (p.src.getD first, r.1))

/-- STREAM_FLIT, 10:R285, 04:R124: a flit reaches a slot of a quad's receiver, behind what its source sent there before. -/
def execStreamFlit (sl q : Nat) (s : State) : Outcome :=
  let qk := qkOf sl q
  .next (
    if (s.quad qk).port.nextFlit.any (fun f => s.sentBefore qk (f.1 % 2048) f.2.no) then s
    else s.modPort qk (fun p => p.receive s.now))

/-- A token credits the stream that the port sends; one of an earlier stream changes nothing. -/
def StreamPort.credits (p : StreamPort) (q st n : Nat) : StreamPort :=
  if st = p.no * 2048 + q then { p with credit := p.credit + n, credited := p.credited + n, copies := p.copies.drop n } else p

/-- TOKEN, 04:R124, R126: the first token on its way to a quad's send side, behind what its quad sent there before, adds its count to the
credit. -/
def execToken (sl q : Nat) (s : State) : Outcome :=
  let qk := qkOf sl q
  .next (match (s.quad qk).port.tokens with
    | [] => s
    | k :: t =>
      if s.sentBefore qk k.src k.no then s
      else (s.modPort qk (fun p => ({ p with tokens := t }).credits q k.st k.count)).closeStream qk)

/-- The receiver of a quad returns a token for the consumptions it has not returned. -/
def State.returnToken (s : State) (sl q : Nat) : State :=
  let x := s.quad (qkOf sl q)
  match x.port.src with
  | none => s
  | some st =>
    if x.port.unreturned = 0 then s
    else
      let s := s.modQuad (qkOf sl q) (fun x => { x with sendNo := x.sendNo + 1, port := { x.port with unreturned := 0 } })
      s.modPort (qkOf sl (st % 2048)) (fun p => { p with
        tokens := p.tokens ++ [{ st := st, count := x.port.unreturned, src := q, no := x.sendNo }] })

/-- TOKEN_TIMER, 10:R285: the receiver returns a token, within 64 mesh cycles of a consumption. -/
def execTokenTimer (sl q : Nat) (s : State) : Outcome := .next (s.returnToken sl q)

/-! ## Audits (19:R416) -/

/-- Every token of a port is delivered: those sent before an audit reach the sender first. -/
def StreamPort.allTokens (p : StreamPort) (q : Nat) : StreamPort :=
  p.tokens.foldl (fun x t => x.credits q t.st t.count) { p with tokens := [] }

/-- The sender after a mismatch: it drops the copies that the count covers and sends the rest again. -/
def StreamPort.resendFrom (p : StreamPort) (n : Nat) : StreamPort :=
  let rest := p.copies.drop ((n + 2 ^ 32 - p.credited % 2 ^ 32) % 2 ^ 32)
  { p with copies := rest, credit := 16 - rest.length, sent := rest.length, credited := 0, opened := p.holder.isSome || p.closing
           audit := if p.holder.isSome then some n else p.audit }

/-- The copies that a sender sends again, with new numbers among what it sends. -/
def renumber (n : Nat) (fs : List Flit) : List Flit := fs.zipIdx.map (fun e => { e.1 with no := n + e.2 })

/-- STREAM_AUDIT, 19:R416: every 4,096 mesh cycles the receiver's count goes to the sender; when it differs from the credits returned, the
stream is reopened, what has not been consumed is sent again, and the holder of the send side is to trap. -/
def execStreamAudit (sl q : Nat) (s : State) : Outcome :=
  let qk := qkOf sl q
  .next (match (s.quad qk).port.src with
    | none => s
    | some st =>
      if s.now < (s.quad qk).port.auditAt + 2048 then s
      else
      let sq := st % 2048
      let s := (s.returnToken sl q).modPort qk (fun p => { p with auditAt := s.now })
      let s := s.modPort (qkOf sl sq) (fun p => p.allTokens sq)
      let x := (s.quad (qkOf sl sq)).port
      let n := (s.quad qk).port.consumed
      if x.no * 2048 + sq ≠ st ∨ x.credited % 2 ^ 32 = n then s
      else
        let s := s.modQuad (qkOf sl sq) (fun x =>
          let p := x.port.resendFrom n
          { x with port := { p with copies := renumber x.sendNo p.copies }, sendNo := x.sendNo + p.copies.length })
        let again := ((s.quad (qkOf sl sq)).port.copies).map (fun f => (st, f))
        let s := s.modPort qk (fun p => { p with
          slots := [], consumed := 0, unreturned := 0
          inflight := p.inflight.filter (fun e => e.1 != st) ++ again })
        (s.closeStream (qkOf sl sq)).modSlice sl (fun z => { z with ctrs := { z.ctrs with audit := z.ctrs.audit + 1 } }))

/-! ## Waiting for channels (19:R415) -/

/-- SOPEN_TIMEOUT, 19:R415: a `sopen` that has waited 4,096 mesh cycles for the channel of one link gives up every channel that it has
reserved and backs off. A mesh cycle is half a cycle (01:R16). -/
def execSopenTimeout (sl q : Nat) (s : State) : Outcome :=
  let qk := qkOf sl q
  let p := (s.quad qk).port
  .next (
    if p.holder.isNone ∨ p.opened ∨ p.backoff.isSome ∨ 2 * (s.now - p.waitFrom) < 4096 then s
    else s.modPort qk (fun p => { p with links := 0, backoff := some (s.now + 32 * (q % 64)) }))

/-- SOPEN_RETRY, 19:R415: after its back-off the `sopen` tries again. -/
def execSopenRetry (sl q : Nat) (s : State) : Outcome :=
  .next (s.modPort (qkOf sl q) (fun p =>
    match p.backoff with
    | none => p
    | some t => if s.now < t then p else { p with backoff := none, waitFrom := s.now }))

/-! ## Deadlock recovery and routing loops (19:R413, R414)

A buffer's number is 16 times its own number plus the partition of the flit at its head (log 14). -/

/-- The partitions of some blocked buffers. -/
def partitionsOf (bufs : List Nat) : List Nat := addSet [] (bufs.map (fun b => b % 16))

/-- Changes the counters of some slices. -/
def State.countIn (s : State) (ps : List Nat) (f : Slice → Slice) : State := ps.foldl (fun t p => t.modSlice p f) s

/-- A buffer whose head flit has not been moved by a recovery for 4,096 mesh cycles, and that no recovery holds (19:R413). -/
def State.stuck (s : State) (b : Nat) : Bool :=
  decide (tget 0 s.mesh.moved b + 2048 ≤ s.now) && s.mesh.recs.all (fun r => !r.bufs.contains b)

/-- DEADLOCK_DETECT, 19:R413: a flit has not moved for 4,096 mesh cycles, a probe has found a cycle of blocked buffers, and its recovery
begins. -/
def execDeadlockDetect (bufs : List Nat) (s : State) : Outcome :=
  .next (
    if bufs.isEmpty ∨ 64 < bufs.length ∨ !bufs.all s.stuck then s
    else
      let r : Recovery := { bufs := bufs, steps := 0, looped := false }
      let s := { s with mesh := { s.mesh with recs := s.mesh.recs ++ [r] } }
      s.countIn (partitionsOf bufs) (fun x => { x with ctrs := { x.ctrs with meshrec := x.ctrs.meshrec + 1 } }))

/-- Removes element n of a list. -/
def ldel {α : Type} : List α → Nat → List α
  | [], _ => []
  | _ :: t, 0 => t
  | h :: t, n + 1 => h :: ldel t n

/-- RECOVERY_STEP, 19:R413: the head flits of the cycle move on by one buffer, every 4 mesh cycles. Whether one leaves the cycle, which ends
the recovery, depends on the traffic and is open (log 5). -/
def execRecoveryStep (i : Nat) (s : State) : Outcome :=
  .next (match s.mesh.recs[i]? with
    | none => s
    | some r =>
      if s.now < r.at_ + 2 then s
      else
        let recs := if s.free 0 % 2 = 1 then ldel s.mesh.recs i
          else lput s.mesh.recs i { r with steps := r.steps + 1, at_ := s.now }
        let moved := r.bufs.foldl (fun m b => tput m b s.now) s.mesh.moved
        ({ s with mesh := { s.mesh with recs := recs, moved := moved } }).bump)

/-- ROUTING_LOOP, 19:R414: a cycle that has taken 4,096 steps stops the injection of its partitions and is reported. -/
def execRoutingLoop (i : Nat) (s : State) : Outcome :=
  .next (match s.mesh.recs[i]? with
    | none => s
    | some r =>
      if r.looped ∨ r.steps < 4096 then s
      else
        let s := { s with mesh := { s.mesh with recs := lput s.mesh.recs i { r with looped := true } } }
        let s := s.countIn (partitionsOf r.bufs) (fun x =>
          { x with injStopped := true, ctrs := { x.ctrs with loop := x.ctrs.loop + 1 } })
        s.note 3 i)

/-! ## Drain and swap (04:R122, R123) -/

/-- Ended gangs' streams of a slice close, where their markers may leave now (10:R284). -/
def State.closeAll (s : State) (sl : Nat) : State :=
  ((s.quads.filter (fun e => slOfQk e.1 == sl)).map (fun e => e.1)).foldl (fun t qk => t.closeStream qk) s

/-- PARTITION_DRAIN, 04:R123, 19:R414: marks a partition draining, which stalls its injection, or clears the mark, after which
injection that a loop stopped resumes. -/
def execPartitionDrain (p : Nat) (on : Bool) (s : State) : Outcome :=
  .next (
    if 16 ≤ p ∨ s.booted = false then s
    else if on then (s.modSlice p (fun x => { x with draining := true })).closeAll p
    else
      let s := (s.modSlice p (fun x => { x with draining := false, injStopped := false })).closeAll p
      { s with mesh := { s.mesh with recs := s.mesh.recs.filter (fun r => !(r.looped && (partitionsOf r.bufs).contains p)) } })

/-- Traffic of a gang that is on its way: far operations that have not been performed or not returned, and loads (04:R123). -/
def Gang.onWay (g : Gang) : Bool :=
  !g.far.all (fun o => o.perf && o.pid.isNone) || g.pend.any (fun w => w.land == none && !w.tcm && !w.acq)

/-- Messages of a quad's own, or to it, that are on their way or whose stream is open. -/
def State.quadBusy (s : State) (qk : Nat) (q : Quad) : Bool :=
  !q.trains.isEmpty || !q.port.inflight.isEmpty || !q.port.tokens.isEmpty || q.port.opened || decide (0 < q.port.links) || q.port.src.isSome ||
    [0, 1, 2, 3].any (fun j => !(s.core (4 * qk + j)).inbox.isEmpty)

/-- A partition counts no packet in flight, and none of its streams is open; a recovery counts as traffic (04:R123, 19:R413). -/
def State.drainedPart (s : State) (p : Nat) : Bool :=
  s.quads.all (fun e => slOfQk e.1 != p || !s.quadBusy e.1 e.2) &&
    s.gangs.all (fun e => slOfGk e.1 != p || !e.2.onWay) &&
    (s.slice p).launches.all (fun l => l.entered.all (fun e => e.2 == 0)) &&
    s.mesh.recs.all (fun r => r.looped || !(partitionsOf r.bufs).contains p)

/-- ROUTE_TABLE_WRITE, 04:R122, R123: writes the port toward a destination site; a write of 6 or 7 is ignored. System software writes a
table only while its partition drains and nothing of it is on its way; another write is no event of the model (log 12). -/
def execRouteTableWrite (site dest p v : Nat) (s : State) : Outcome :=
  .next (
    if s.booted = false ∨ 608 ≤ site ∨ 608 ≤ dest ∨ 16 ≤ p ∨ 6 ≤ v ∨ (s.slice p).draining = false ∨ s.drainedPart p = false then s
    else { s with mesh := { s.mesh with table := tput s.mesh.table ((site * 608 + dest) * 16 + p) v } })

end Sys2Proof.Machine
end

