-- ==== Sys2Proof/Machine/Tenancy.lean ====
section
/-!
DEFINITION. Contexts and their keys, the pre-emption ladder, images, scrub and tokens, sessions and quotes, queue records and the remap
table (01:R19, R22, 07:R187, 14:R357 to R367, R371, R375, 21:R440 to R448).
-/

namespace Sys2Proof.Machine

/-! ## Contexts and keys (14:R358 to R360, 21:R447) -/

/-- A context as its 128-byte descriptor gives it, with the key drawn for it. A share of shared SRAM above the 128 MiB of 04:R106 is kept as
given: DESIGN CHOICE, log 46. -/
def newCtx (vf key : Nat) (d : List Byte) (p : CtxPlace) : Ctx :=
  let f (o n : Nat) : Nat := bytesAt d o n
  { live := true, vf := vf, tenant := d.take 16, flags := f 16 8, nonce := (d.drop 24).take 32, tokbuf := f 56 8
    grace := if f 64 4 = 0 then 2000 else f 64 4, kill := if f 68 4 = 0 then 1000 else f 68 4
    hotcfg := BitVec.ofNat 64 (f 72 8 / 2 ^ 24 * 2 ^ 24), hotwin := BitVec.ofNat 64 (f 80 8), gangwait := f 88 2, agestep := f 90 2
    shmib := f 92 1, s1root := BitVec.ofNat 64 (f 96 8 % 2 ^ 48 / 4096 * 4096), s1pool := BitVec.ofNat 64 (f 104 8), imageAt := f 112 8 % 2 ^ 48 / 4096 * 4096
    s2root := f 120 8 % 2 ^ 48 / 4096 * 4096, tilb := p.tilb, tilePa := p.tilePa, ringAt := p.rings, key := some key, created := true, desc := d }

/-- The stage-1 leaf of a virtual address: entry, level and IPA, whatever stage 2 says of that IPA (04:R108). -/
def State.s1Leaf (s : State) (cx va tab : Nat) : List Nat → Option (Nat × Nat × Nat)
  | [] => none
  | lvl :: t =>
    match s.s2Walk cx (tab + 8 * nbits va (lvlShift lvl) (lvlBits lvl)) with
    | none => none
    | some (pa, _, _) =>
      let e := s.rdNat (s.keyNo cx) pa 8
      if badPte zeroFields1 e lvl then none
      else if nbits e 1 1 = 1 then State.s1Leaf s cx va (pteAddr e (if lvl = 2 then 256 else 4096)) t
      else some (e, lvl, pteAddr e (2 ^ lvlShift lvl) + va % 2 ^ lvlShift lvl)

/-- The leaf of an address of a context. -/
def State.leafOf (s : State) (cx va : Nat) : Option (Nat × Nat × Nat) :=
  s.s1Leaf cx va (wbits (s.ctx cx).s1root 12 36 * 4096) [0, 1, 2, 3]

/-- The page-table pool is mapped from its virtual address upward, writable at a trap level (04:R110). A size of 0, and base bits below the
pool's alignment, are taken as given: DESIGN CHOICE, log 58. -/
def State.poolMapped (s : State) (cx : Nat) : Bool :=
  let x := s.ctx cx
  (List.range (wbits x.s1pool 48 16)).all (fun i =>
    match s.leafOf cx (0xfff0_0000_0000 + 65536 * i) with
    | some (e, _, ipa) => ipa == wbits x.s1pool 16 32 * 65536 + 65536 * i && nbits e 4 1 == 1 && nbits e 2 1 == 1
    | none => false)

/-- The save range of the slice's gang slots is mapped with 64 KiB leaves, writable at a trap level (18:R387). -/
def State.savesMapped (s : State) (cx : Nat) : Bool :=
  (List.range ((2048 * (s.slice (cx / 8)).ncores + 65535) / 65536)).all (fun i =>
    match s.leafOf cx (0xffe0_0000_0000 + 65536 * i) with
    | some (e, lvl, _) => lvl == 3 && nbits e 4 1 == 1 && nbits e 2 1 == 1
    | none => false)

/-- The 4,096 tile headers from `tilb` on are readable and not writable by programs, and lie where the arbiter keeps them (07:R184). -/
def State.tilesMapped (s : State) (cx : Nat) : Bool :=
  let x := s.ctx cx
  (List.range 4).all (fun i =>
    match s.walk cx (x.tilb + 65536 * i) with
    | .ok e => !e.w1 && !e.tl && e.ppage * 65536 == x.tilePa + 65536 * i
    | _ => false)

/-- The overflow rings of a context's slice lie in writable pages of HBM4 (03:R69). -/
def State.ringsMapped (s : State) (cx : Nat) : Bool :=
  (s.ctx cx).ringAt % 65536 == 0 && (List.range (16 * (s.slice (cx / 8)).nquads)).all (fun i =>
    (s.s2Walk cx ((s.ctx cx).ringAt + 65536 * i)).any (fun w => decide (w.1 < 2 ^ 39) && nbits w.2.1 2 1 == 1))

/-- What the loader places at the creation of a context is there: overflow rings in global memory (03:R69), and the mapped ranges (04:R110,
07:R184, 18:R387). -/
def State.placed (s : State) (cx : Nat) : Bool :=
  (s.ctx cx).tilb % 65536 == 0 && s.ringsMapped cx && s.poolMapped cx && s.savesMapped cx && s.tilesMapped cx

/-- Writes the entries of a context's first tables under its key. -/
def State.writeTabs (s : State) (k : Nat) (tabs : List (Nat × BitVec 64)) : State :=
  tabs.foldl (fun t e => t.wrBytes k e.1 (leBytes 8 e.2.toNat)) s

/-- CONTEXT_CREATE, 14:R358, R359, 02:R50, 21:R447: Ochre draws the context's key; with its DRBG in error or no free key slot the
creation is refused and reported. The loader maps the pool, the save range and the tile headers; a placement that does not is none it
makes, and changes nothing (log 9). A function belongs to one slice (14:R357). -/
def execContextCreate (sl cx vf : Nat) (desc : List (BitVec 8)) (place : CtxPlace) (s : State) : Outcome :=
  let s0 := s
  let c := cxOf sl cx
  .next (
    if s.booted = false ∨ 16 ≤ sl ∨ 8 ≤ cx ∨ 64 ≤ vf ∨ desc.length ≠ 128 ∨ (s.ctx c).live
        ∨ s.foreignFn sl vf = true then s
    else if s.ochre.drbgBad then s.event 5 sl cx vf 1 0
    else if 128 ≤ s.ochre.keysUsed then s.event 5 sl cx vf 2 0
    else
      let k := s.ochre.nextKey
      let s := { s with ochre := { s.ochre with nextKey := k + 1, keysUsed := s.ochre.keysUsed + 1 } }
      let s := s.setCtx c (newCtx vf k desc place)
      let s := s.modVf vf (fun v => { v with ways := bytesAt desc 94 2 })
      let s := s.writeTabs k place.tabs
      if s.placed c then s else s0)

/-- CONTEXT_RETIRE, 14:R360, 21:R448: the key of a context that does not run is discarded, its sessions close, and it is gone. -/
def execContextRetire (sl cx : Nat) (s : State) : Outcome :=
  let c := cxOf sl cx
  .next (
    if s.booted = false ∨ (s.ctx c).live = false ∨ (s.slice sl).running = some cx then s
    else (((s.retireKey c).modCtx c (fun x =>
      { x with live := false, image := none, created := false, heads := [], submits := [] })).dropTokens sl cx).s2Leave c (fun _ => true))

/-- DRBG_ERROR_STATE, 21:R447: Ochre's generator enters or leaves its error state. -/
def execDrbgErrorState (on : Bool) (s : State) : Outcome := .next { s with ochre := { s.ochre with drbgBad := on } }

/-! ## The state of a slice (14:R361) -/

/-- A collective that is posted and neither completed nor aborted. -/
def Collective.open_ (c : Collective) : Bool := c.posted && c.state == 0

/-- A location of the TCMs and scratchpads of a slice. -/
def localOf (sl loc : Nat) : Bool :=
  if spaceOfLoc loc = 4 then slOfCk ((loc - 2 ^ 52) / 2 ^ 15) == sl
  else if spaceOfLoc loc = 3 then slOfClk ((loc - 2 ^ 50) / 2 ^ 19) == sl
  else false

/-- What a fabric holds of a function's slots and of a slice's calls. -/
def Fabric.part (x : Fabric) (own sl : Nat) : Fabric :=
  let gs := x.slots.filter (fun e => nbits own (e.1 - 1) 1 == 1)
  let mask := gs.foldl (fun m e => m.lor e.2.banks) 0
  { bank := x.bank.filter (fun e => nbits mask (e.1 / 16384) 1 == 1), slots := gs
    calls := x.calls.filter (fun c => slOfCk c.ck == sl), held := x.held.filter (fun h => slOfCk h.1 == sl) }

/-- A fabric without that part. -/
def Fabric.without (x : Fabric) (own sl : Nat) : Fabric :=
  let x := (x.slots.filter (fun e => nbits own (e.1 - 1) 1 == 1)).foldl (fun x e => x.drop e.1) x
  { x with calls := x.calls.filter (fun c => slOfCk c.ck != sl), held := x.held.filter (fun h => slOfCk h.1 != sl) }

/-- A fabric with a saved part put back. -/
def Fabric.with_ (x y : Fabric) : Fabric :=
  { bank := y.bank ++ x.bank, slots := y.slots ++ x.slots, calls := x.calls ++ y.calls, held := x.held ++ y.held }

/-- The entries of a table for which a key test holds. -/
def tsel {α : Type} (t : Tab α) (p : Nat → Bool) : Tab α := t.filter (fun e => p e.1)

/-- Clears every class of a slice's state; cleared state reads as its reset value. What the slice is made of stays. -/
def State.clearSlice (s : State) (sl own : Nat) : State :=
  let x := s.slice sl
  { s with
    gangs := tsel s.gangs (fun k => slOfGk k != sl), cores := tsel s.cores (fun k => slOfCk k != sl)
    quads := tsel s.quads (fun k => slOfQk k != sl), clus := tsel s.clus (fun k => slOfClk k != sl)
    mem := s.mem.filter (fun c => !localOf sl c.1)
    links := { s.links with unacked := s.links.unacked.filter (fun e => slOfGk e.gk != sl) }
    fabs := s.fabs.map (fun e => (e.1, e.2.without own sl))
    colls := s.colls.filter (fun e => e.2.sl != sl)
    slices := tput s.slices sl { nclus := x.nclus, sites := x.sites, units := x.units, sw := x.sw, selStop := true
                                 draining := x.draining, injStopped := x.injStopped } }

/-- The image of the context that runs on a slice (14:R361, R362). TLBs and directories are not saved. -/
def State.takeImage (s : State) (sl : Nat) : Image :=
  let cx := s.runCx sl
  { gangs := tsel s.gangs (fun k => slOfGk k == sl), cores := tsel s.cores (fun k => slOfCk k == sl)
    quads := (tsel s.quads (fun k => slOfQk k == sl)).map (fun e => (e.1, { e.2 with tlb := [] }))
    clus := (tsel s.clus (fun k => slOfClk k == sl)).map (fun e => (e.1, { e.2 with tlb := [], dir := [] }))
    local_ := s.mem.filter (fun c => localOf sl c.1), slice := s.slice sl
    fabs := s.fabs.map (fun e => (e.1, e.2.part (s.vf (s.ctx cx).vf).slots sl))
    colls := (s.colls.filter (fun e => e.2.posted && e.2.sl == sl)).map (fun e => (e.1, { e.2 with saved := e.2.open_ }))
    unacked := s.links.unacked.filter (fun e => slOfGk e.gk == sl), seq := (s.ctx cx).saves + 1, at_ := s.now, run := s.clock.run }

/-- The 64-byte header of an image (21:R443). -/
def imageHeader (nclus seq : Nat) : List Byte :=
  leBytes 4 0x4758_4354 ++ leBytes 4 1 ++ leBytes 2 nclus ++ List.replicate 6 0#8 ++ leBytes 8 seq ++ List.replicate 40 0#8

/-! ## Time that has passed since a save -/

def MxRun.later (r : MxRun) (d : Nat) : MxRun := { r with free := r.free + d, done := r.done + d }
def Packet.later (d : Nat) (p : Packet) : Packet := { p with at_ := p.at_ + d, due := p.due + d }
def Train.later (d : Nat) (t : Train) : Train := { t with packets := t.packets.map (Packet.later d) }

/-- A Madder domain makes its next step one full divider after the restore (14:R364); the array's other times move on. -/
def Madder.later (m : Madder) (d now : Nat) : Madder :=
  { m with
    doms := m.doms.map (fun e => (e.1, { e.2 with run := e.2.run.map (fun r => { r with prev := now, next := now + (e.2.div + 1) }) }))
    reading := m.reading.map (fun r => (r.1, r.2.1 + d, r.2.2)), saving := m.saving.map (fun r => (r.1, r.2.1 + d, r.2.2))
    free := m.free + d }

/-- What was sent and not answered has waited no longer (14:R364). -/
def CpCmd.later (r : Nat) (c : CpCmd) : CpCmd := { c with at_ := c.at_ + r }
def FarOp.later (r : Nat) (o : FarOp) : FarOp := { o with at_ := o.at_ + r }
def ExtWrite.later (r : Nat) (e : ExtWrite) : ExtWrite := { e with at_ := e.at_ + r }
def Gang.later (g : Gang) (r : Nat) : Gang := { g with far := g.far.map (FarOp.later r) }

def Core.later (c : Core) (d r now : Nat) : Core :=
  { c with chans := c.chans.map (fun e => (e.1, e.2.map (CpCmd.later r))), mad := c.mad.later d now, deque := c.deque.map (Packet.later d), accq := c.accq.map (fun e => (e.1, e.2 + d)) }

def Quad.later (q : Quad) (d : Nat) : Quad :=
  { q with aq := q.aq.map (Packet.later d), ring := q.ring.map (Packet.later d)
           resend := q.resend.map (fun e => (e.1, e.2.later d)), trains := q.trains.map (Train.later d)
           outs := q.outs.map (fun e => (e.1, e.2.1, e.2.2.later d))
           port := { q.port with waitFrom := q.port.waitFrom + d, backoff := q.port.backoff.map (· + d), auditAt := q.port.auditAt + d } }

def Cluster.later (c : Cluster) (d : Nat) : Cluster :=
  { c with arrayFree := c.arrayFree + d, runs := c.runs.map (fun r => r.later d)
           crews := c.crews.map (fun x => { x with packets := x.packets.map (fun e => (e.1, e.2.later d)) }) }

/-! ## The ladder (14:R363, 21:R440, R441) -/

/-- SOFT_REQUEST, 14:R363, 21:R441: starts the switch to a context at step 1; a second request changes nothing. -/
def execSoftRequest (sl cx : Nat) (s : State) : Outcome :=
  .next (if (s.slice sl).sw.step ≠ .idle ∨ s.booted = false then s else s.startSwitch sl (some cx) false)

/-- HARD_REQUEST, 14:R363, 21:R441: starts the switch with the halt, or ends step 1 at once. -/
def execHardRequest (sl cx : Nat) (s : State) : Outcome :=
  .next (
    if s.booted = false then s
    else match (s.slice sl).sw.step with
    | .idle => s.startSwitch sl (some cx) true
    | .soft => s.modSlice sl (fun x => { x with sw := { x.sw with step := .halting } })
    | _ => s)

/-- The context that a ladder takes off its slice. -/
def State.outCtx (s : State) (sl : Nat) : Ctx := s.ctx (cxOf sl ((s.slice sl).sw.out.getD 0))

/-- GRACE_EXPIRY, 14:R363: the grace timer has run out in step 1, and the halt begins. -/
def execGraceExpiry (sl : Nat) (s : State) : Outcome :=
  let w := (s.slice sl).sw
  .next (
    if w.step ≠ .soft ∨ s.clock.run < w.since + (s.outCtx sl).grace then s
    else s.modSlice sl (fun x => { x with sw := { x.sw with step := .halting, graceEnd := true } }))

/-- A gang waits at an activation boundary (03:R91, 14:R363). -/
def State.atBoundary (s : State) (gk : Nat) : Bool := (s.gang gk).wait.any (s.boundary gk)

/-- Live gangs of a slice. -/
def State.liveGangs (s : State) (sl : Nat) : List Nat :=
  (s.gangs.filter (fun e => slOfGk e.1 == sl && e.2.live)).map (fun e => e.1)

/-- Every outstanding register write of a gang has landed, or lands now (18:R399). -/
def Gang.settled (g : Gang) (now : Nat) : Bool :=
  g.pend.all (fun w => match w.land with
    | some t => decide (t ≤ now)
    | none => false)

/-- Stops a gang at an instruction boundary: its open chunk is squashed, and a task starts again from its entry (06:R151). A gang whose chunk
holds nothing yet, as one at a wait that ends the chunk before it, keeps all its state and goes on at the wait (03:R59, R91). -/
def State.haltGang (s : State) (gk : Nat) : State :=
  let s := if (s.gang gk).spec then s.undoSpec gk else s
  s.modGang gk (fun g =>
    let n := g.ch.squashes
    let g := if g.ch.fresh && !g.spec then g else g.squash
    { g with stopped := true, ch := { g.ch with squashes := n }
             task := g.task.map (fun t => { t with held := [], finished := false })
             wait := if g.wait.isNone && g.task.any (fun t => t.waitLow) then some .task else g.wait })

/-- HALT_COMPLETE, 14:R363: every gang stops, requests to steal are withdrawn, and the save begins. From step 1 this needs every gang
to stand at a boundary. -/
def execHaltComplete (sl : Nat) (s : State) : Outcome :=
  let live := s.liveGangs sl
  let ready := match (s.slice sl).sw.step with
    | .halting => true
    | .soft => live.all s.atBoundary
    | _ => false
  .next (
    if !ready then s
    else
      let s := live.foldl (fun t gk => t.haltGang gk) s
      let calm (c : Core) : Core := { c with thieves := [], asked := none }
      let s := { s with cores := s.cores.map (fun (e : Nat × Core) => if slOfCk e.1 == sl then (e.1, calm e.2) else e) }
      (s.dropSole (fun gk => slOfGk gk == sl)).modSlice sl (fun x => { x with sw := { x.sw with step := .saving } }))

/-- A slice no longer waits for a token (21:R445). -/
def State.noToken (s : State) (sl : Nat) : State :=
  s.modSlice sl (fun x => { x with sw := { x.sw with tokenWait := false, rescrub := false } })

/-- KILL_TIMER_EXPIRY, 21:R440, R441: the kill timer, counted from the start of the ladder, has run out before the image is saved. A save in the
cycle of the expiry, 50/47 ns long, counts: the kill falls in a later one. -/
def execKillTimerExpiry (sl : Nat) (s : State) : Outcome :=
  let w := (s.slice sl).sw
  .next (
    if (w.step = .soft ∨ w.step = .halting ∨ w.step = .saving) ∧ w.since + 1000 * (s.outCtx sl).kill + 2 ≤ s.clock.run then
      s.killPlain (s.runCx sl) 0x80
    else s)

/-- KILL_COMMAND, 18:R393, 21:R442: kills a resident context, whether it runs or not. One that a switch brings in is not brought in. -/
def execKillCommand (sl cx : Nat) (s : State) : Outcome :=
  let c := cxOf sl cx
  .next (
    if (s.ctx c).live = false ∨ s.booted = false then s
    else
      let runs := (s.slice sl).running == some cx
      let s := if runs || (s.slice sl).sw.inn == some cx then s.noToken sl else s
      let s := s.killPlain c 0x81
      let w := (s.slice sl).sw
      if !runs && w.inn == some cx then
        s.modSlice sl (fun x => { x with sw := { x.sw with inn := none, step := if w.step = .restoring then .idle else w.step } })
      else s)

/-- The highest step, plus one, that the unit or a participant that has told of it has begun (14:R369). -/
def Collective.top (c : Collective) : Nat := c.told.foldl (fun m e => max m e.2) c.begun

/-- Every participant has told of its highest begun step, and the steps up to the highest of all are complete (14:R369). -/
def Collective.exchanged (c : Collective) : Bool := decide (c.parts ≤ c.told.length) && decide (c.top ≤ c.step)

/-- A paused collective of a slice has steps begun and not completed, or its exchange goes on (14:R369, 21:R451). -/
def State.collsBusy (s : State) (sl : Nat) : Bool :=
  s.colls.any (fun e => e.2.posted && e.2.sl == sl && e.2.paused && e.2.state == 0 &&
    (decide (e.2.step < e.2.begun) || (e.2.agreed && !e.2.exchanged)))

/-- An image whose header would lie on unmapped physical addresses (04:R107, 21:R440). -/
def Ctx.imageLost (x : Ctx) : Bool := decide (2 ^ 39 < x.imageAt + 64) && decide (x.imageAt < 2 ^ 47)

/-- IMAGE_SAVE_COMPLETE, 14:R361, R362, 21:R443: the image is written with its header and the next save count, and the slice is empty;
an image that could not be written, for an error or an unmapped page, kills the context (21:R440). -/
def execImageSaveComplete (sl : Nat) (ok : Bool) (s : State) : Outcome :=
  .next (
    if (s.slice sl).sw.step ≠ .saving ∨ (ok = true ∧ s.collsBusy sl = true) then s
    else
      let cx := s.runCx sl
      if ok = false ∨ (s.ctx cx).imageLost = true then s.killPlain cx 0x82
      else
        let im := s.takeImage sl
        let s := s.wrBytes (s.keyNo cx) (s.ctx cx).imageAt (imageHeader (s.slice sl).nclus im.seq)
        let s := s.modCtx cx (fun c => { c with image := some im, saves := im.seq, created := false })
        ((s.clearSlice sl (s.vf (s.ctx cx).vf).slots).s2Leave cx S2User.onSlice).afterSave sl)

/-! ## Scrub and token (14:R365 to R367, 21:R444, R445) -/

/-- The token of the context that comes in, as its scrub ends (14:R365, R366). -/
def State.tokReq (s : State) (sl c bitmap : Nat) : TokReq :=
  let x := s.ctx (cxOf sl c)
  { sl := sl, inn := c, inTenant := x.tenant, nonce := x.nonce, tokbuf := x.tokbuf, demand := nbits x.flags 0 1 == 1
    outTenant := (s.slice sl).sw.outTenant, bitmap := bitmap, dtc := s.dtc }

/-- SCRUB_COMPLETE, 14:R365, 21:R444: every class is cleared; a class that failed its check twice stays out of the bitmap and is
reported. The token of the incoming context is next in line. -/
def execScrubComplete (sl failed clus : Nat) (s : State) : Outcome :=
  .next (
    if (s.slice sl).sw.step ≠ .scrubbing then s
    else
      let bad := failed.land 0x1ffff
      let own := if (s.slice sl).sw.out.isSome then (s.vf (s.outCtx sl).vf).slots else 0
      let s := s.clearSlice sl own
      let s := if bad = 0 then s else s.event 3 sl 0xff 0xff bad clus
      let inn := (s.slice sl).sw.inn
      let reqs := (inn.map (fun c => s.tokReq sl c (0x1ffff - bad))).toList
      let demand := reqs.any TokReq.demand
      let s := { s with ochre := { s.ochre with waiting := s.ochre.waiting ++ reqs } }
      s.modSlice sl (fun x => { x with sw := { x.sw with
        scrubbed := true, bitmap := 0x1ffff - bad, scrubDtc := s.dtc, tokenWait := demand, rescrub := false
        step := if inn.isSome then .restoring else .idle } }))

/-- TOKEN_START, 14:R365: Ochre starts the token that is first in line once no other is being signed. -/
def execTokenStart (sl : Nat) (s : State) : Outcome :=
  .next (
    match s.ochre.waiting with
    | r :: t =>
      if s.ochre.signing.isNone ∧ r.sl = sl then { s with ochre := { s.ochre with signing := some r, waiting := t } } else s
    | [] => s)

/-- The first n of some bytes, with zeros after them. -/
def padTo (n : Nat) (l : List Byte) : List Byte := (l ++ List.replicate n 0#8).take n

/-- The 256 bytes of a token that are signed (14:R366). -/
def tokenBody (r : TokReq) (retires counter : Nat) : List Byte :=
  leBytes 4 0x4e4b_4f54 ++ leBytes 4 1 ++ padTo 48 (sha384 Config.publicKeys) ++ padTo 16 r.outTenant ++ padTo 16 r.inTenant
    ++ leBytes 1 r.sl ++ leBytes 3 0 ++ leBytes 4 r.bitmap ++ leBytes 8 retires ++ leBytes 8 r.dtc.toNat
    ++ leBytes 8 counter ++ padTo 32 r.nonce ++ List.replicate 104 0#8

/-- The 17,728 bytes of a token. -/
def tokenBytes (body : List Byte) : List Byte :=
  body ++ padTo 384 (Config.rsaSign body) ++ padTo 17088 (Config.slhSign body)

/-- The certificate of the token key, which the management space shows: the public key, which is the last 32 bytes of the device's public keys,
and its signatures under the two identity keys (14:R375). -/
def certificate : List Byte :=
  let key := padTo 32 (Config.publicKeys.drop (Config.publicKeys.length - 32))
  key ++ padTo 7856 (Config.slhIdSign key) ++ padTo 384 (Config.rsaSign key)

/-- Writes bytes at an IPA of a context, none when a page of them is not mapped writable by stage 2. -/
def State.writeIpa (s : State) (cx ipa : Nat) (bs : List Byte) : Option State :=
  let place (i : Nat) : Option Nat := (s.s2Walk cx (ipa + i)).bind (fun w =>
    if nbits w.2.1 2 1 = 1 ∧ w.1 < 2 ^ 39 then some w.1 else none)
  if (List.range bs.length).all (fun i => (place i).isSome) then
    let ws := ((List.range bs.length).zip bs).map (fun e => ((place e.1).getD 0, e.2))
    -- every page written is dirty (14:R370)
    let pages := addSet [] ((List.range bs.length).map (fun i => (ipa + i) / 65536))
    let s := pages.foldl (fun t p => t.setD cx (p * 65536)) s
    some ((s.wrAll (s.keyNo cx) ws).squashReaders none (secsOf ws))
  else none

/-- TOKEN_WRITTEN, 14:R365 to R367, 21:R445: the signed token is written to the incoming context's buffer. A context that demands it may
then issue, if every class was cleared; one whose buffer cannot be written is killed, and others go on without it. -/
def execTokenWritten (sl : Nat) (s : State) : Outcome :=
  let w := (s.slice sl).sw
  .next (match s.ochre.signing with
    | none => s
    | some r =>
      if r.sl ≠ sl then s
      else
        let cx := cxOf sl r.inn
        let vf := (s.ctx cx).vf
        let n := s.ochre.tokens + 1
        let token := tokenBytes (tokenBody r s.ochre.retires n)
        -- the slice still stands at this token's context
        let runs := (s.slice sl).running == some r.inn
        let here := (runs || w.inn == some r.inn) && w.scrubDtc == r.dtc
        let s := { s with ochre := { s.ochre with signing := none, tokens := n } }
        match s.writeIpa cx r.tokbuf token with
        | some s =>
          let s := if here then s.modSlice sl (fun z => { z with sw := { z.sw with tokenWait := false } }) else s
          if r.demand && here && r.bitmap != 0x1ffff then
            (s.modSlice sl (fun z => { z with sw := { z.sw with rescrub := true } })).event 4 sl r.inn vf 2 n
          else s
        | none =>
          if r.demand then
            let s := (if here then s.noToken sl else s).killPlain cx 0x16
            if !runs && w.inn == some r.inn then
              s.modSlice sl (fun z => { z with sw := { z.sw with inn := none, step := .idle } })
            else s
          else s.event 4 sl r.inn vf 1 n)

/-- RESCRUB_COMMAND, 21:R445: a context held for a rescrub leaves the slice unrun; the slice is scrubbed again, and the context comes
back with a new token. -/
def execRescrubCommand (sl : Nat) (s : State) : Outcome :=
  .next (match (s.slice sl).running with
    | none => s
    | some c =>
      if (s.slice sl).sw.rescrub = false then s
      else s.modSlice sl (fun x => { x with
        running := none, selStop := true
        sw := { x.sw with step := .scrubbing, inn := some c, out := some c, scrubbed := false, tokenWait := false, rescrub := false } }))

/-! ## Restore (14:R362, R364, 21:R443) -/

/-- Why an image is refused, with the header word that failed, of the zero fields the first that is not zero (21:R438, R443): 1 magic, version or a zero field, 2 cluster count, 3 save count. -/
def imageBad (h : List Byte) (nclus saves : Nat) : Option (Nat × Nat) :=
  if bytesAt h 0 4 ≠ 0x4758_4354 then some (1, bytesAt h 0 4)
  else if bytesAt h 4 4 ≠ 1 then some (1, bytesAt h 4 4)
  else if bytesAt h 10 6 ≠ 0 then some (1, bytesAt h 10 6)
  else if bytesAt h 24 40 ≠ 0 then some (1, (((List.range 5).map (fun i => bytesAt h (24 + 8 * i) 8)).find? (fun w => w != 0)).getD 0)
  else if bytesAt h 8 2 ≠ nclus then some (2, bytesAt h 8 2)
  else if bytesAt h 16 8 ≠ saves then some (3, bytesAt h 16 8)
  else none

/-- Puts an image back on its slice. Its route caches come back with the code stores (14:R361), which the switch has cleared (02:R30): DESIGN
CHOICE, log 31. -/
def State.putImage (s : State) (sl : Nat) (im : Image) : State :=
  let d := s.now - im.at_
  let r := s.clock.run - im.run
  let x := s.slice sl
  { s with
    gangs := s.gangs ++ im.gangs.map (fun e => (e.1, e.2.later r)), cores := s.cores ++ im.cores.map (fun e => (e.1, e.2.later d r s.now))
    links := { s.links with unacked := s.links.unacked ++ im.unacked.map (ExtWrite.later r) }
    quads := s.quads ++ im.quads.map (fun e => (e.1, e.2.later d)), clus := s.clus ++ im.clus.map (fun e => (e.1, e.2.later d))
    mem := Memory.setAll s.mem im.local_
    fabs := im.fabs.foldl (fun t e => tput t e.1 ((tget {} t e.1).with_ e.2)) s.fabs
    colls := im.colls.foldl (fun t e => tput t e.1 e.2) s.colls
    slices := tput s.slices sl { im.slice with
      nclus := x.nclus, sites := x.sites, units := x.units, sw := x.sw, draining := x.draining, injStopped := x.injStopped } }

/-- The context runs: gangs go on unless the slice is halted again, the selector has the heads read while it did not run and reads others,
record writes that a stage-2 fault holds no more are made again, and its collectives wait for their participants (18:R400, 07:R183, R201,
14:R369). A context that is halted again has `hlt` at once where no register write is outstanding, else when they have landed (18:R399). -/
def State.startCtx (s : State) (sl c : Nat) : State :=
  let cx := cxOf sl c
  let hreq := (s.ctx cx).dbg.hreq
  let go (g : Gang) : Gang := { g with stopped := false }
  let s := { s with gangs := s.gangs.map (fun (e : Nat × Gang) => if slOfGk e.1 == sl then (e.1, go e.2) else e) }
  let still := (s.liveGangs sl).all (fun gk => (s.gang gk).settled s.now)
  let s := s.modCtx cx (fun x => { x with dbg := { x.dbg with hlt := hreq && still } })
  let kept := (s.ctx cx).heads
  let s := s.modCtx cx (fun x => { x with heads := [] })
  let s := s.modSlice sl (fun x => { x with running := some c, selStop := false, heads := x.heads ++ kept, sampledAt := s.now
                                            sw := { x.sw with step := .idle, inn := none } })
  let s := { s with colls := s.colls.map (fun (e : Nat × Collective) =>
    if e.2.posted && e.2.sl == sl && e.2.saved then (e.1, { e.2 with restoredAt := some s.clock.run }) else e) }
  ((s.refreshHeads sl).allHeads sl).retryDones sl

/-- RESTORE_COMPLETE, 14:R362, R364, 21:R443, 24:R471: the incoming context sees the state it had and goes on; a context that has never
run begins in a cleared slice. A bad header refuses the image and kills the context. -/
def execRestoreComplete (sl : Nat) (s : State) : Outcome :=
  .next (match (s.slice sl).sw.inn with
    | none => s
    | some c =>
      let cx := cxOf sl c
      let x := s.ctx cx
      if (s.slice sl).sw.step ≠ .restoring ∨ s.power.hot then s
      else if x.live = false then s.modSlice sl (fun z => { z with sw := { z.sw with inn := none, step := .idle } })
      else
        match x.image with
        | none => (s.clearSlice sl 0).startCtx sl c
        | some im =>
          match imageBad (s.rdBytes (s.keyNo cx) x.imageAt 64) (s.slice sl).nclus x.saves with
          | some (why, word) =>
            let s := s.event 15 sl c x.vf why word
            let s := (s.noToken sl).killPlain cx 0x83
            s.modSlice sl (fun z => { z with sw := { z.sw with inn := none, step := .idle } })
          | none => ((s.clearSlice sl 0).putImage sl im).startCtx sl c)

/-! ## Sessions and quotes (14:R371, R375, 21:R447, R448) -/

/-- SESSION_KEY_AGREEMENT, 14:R371, 21:R447: a context agrees a session key with Ochre; an open session is rekeyed. -/
def execSessionKeyAgreement (sl cx sess : Nat) (s : State) : Outcome :=
  let ck := cxOf sl cx
  let x := tget {} s.ochre.sessions sess
  .next (
    if s.links.fjoadDown ∨ (s.ctx ck).live = false ∨ (x.opened ∧ x.ck ≠ ck) then s
    else if s.ochre.drbgBad then s.event 5 sl cx (s.ctx ck).vf 1 0
    else
      let y : Session := if x.opened then { x with keyed := true, inKey := 0, outKey := 0 } else { ck := ck, opened := true, keyed := true }
      { s with ochre := { s.ochre with sessions := tput s.ochre.sessions sess y } })

/-- Changes a session. -/
def State.setSession (s : State) (id : Nat) (x : Session) : State :=
  { s with ochre := { s.ochre with sessions := tput s.ochre.sessions id x } }

/-- SESSION_RECORD, 21:R448: a record with the next number and a good tag is accepted; others are dropped. The 16th bad tag closes the
session, and so do 2^32 records in a direction without a new key. -/
def execSessionRecord (sess num : Nat) (fromHost tagOk : Bool) (s : State) : Outcome :=
  let x := tget {} s.ochre.sessions sess
  .next (
    if x.opened = false ∨ s.links.fjoadDown then s
    else if num ≠ (if fromHost then x.inNo else x.outNo) then s.setSession sess { x with dropped := x.dropped + 1 }
    else if tagOk = false then
      let s := s.setSession sess { x with dropped := x.dropped + 1, fails := x.fails + 1 }
      if 16 ≤ x.fails + 1 then s.closeSession sess 1 else s
    else
      let y := if fromHost then { x with inNo := x.inNo + 1, inKey := x.inKey + 1 }
        else { x with outNo := x.outNo + 1, outKey := x.outKey + 1 }
      let s := s.setSession sess y
      if 2 ^ 32 ≤ y.inKey ∨ 2 ^ 32 ≤ y.outKey then s.closeSession sess 2 else s)

/-- ATTESTATION_QUOTE, 14:R375: the measurements of the firmware, the descriptor and the loaded objects, the key-retire count, `dtc` and
the verifier's nonce, signed as a token is. -/
def execAttestationQuote (sl cx : Nat) (nonce : List (BitVec 8)) (s : State) : Outcome :=
  let c := s.ctx (cxOf sl cx)
  .next (
    if c.live = false ∨ nonce.length ≠ 32 then s
    else
      let seals := (s.loaded (cxOf sl cx)).flatMap (fun e => e.2.digest)
      let body := sha384 Config.firmware ++ sha384 c.desc ++ seals ++ leBytes 8 s.ochre.retires
        ++ leBytes 8 s.dtc.toNat ++ nonce
      let q := body ++ Config.rsaSign body ++ Config.slhSign body
      { s with ochre := { s.ochre with quotes := s.ochre.quotes ++ [q] } })

/-! ## Queue records and the remap table (07:R187, 01:R19, R22, 14:R357) -/

/-- QUEUE_RECORD_WRITE, 07:R187: writes fields of a queue record. `ring` and `ldep` are ignored while the queue is enabled or holds
records, and taking effect they set `head` and `tail` to 0. -/
def execQueueRecordWrite (q : Nat) (ring ldep vf ctx en : Option Nat) (s : State) : Outcome :=
  let x := tget {} s.mgmt.queues q
  let goes := x.en == false && x.head == x.tail && (ring.isSome || ldep.isSome) && ldep.all (fun n => decide (4 ≤ n) && decide (n ≤ 16))
  let x1 := if goes then { x with ring := ring.getD x.ring, ldep := ldep.getD x.ldep, head := 0, tail := 0 } else x
  let y : WorkQueue := { x1 with vf := (vf.getD x.vf) % 64, ctx := (ctx.getD x.ctx) % 8
                                 en := (en.map (fun n => n % 2 == 1)).getD x.en }
  .next (
    if 65536 ≤ q ∨ s.booted = false then s
    else
      let s := { s with mgmt := { s.mgmt with queues := tput s.mgmt.queues q y } }
      -- the queue's head is read, and a loader that waits for a queue goes on
      let see (s : State) : State :=
        let s := s.seeQueue q
        match s.queueSlice y with
        | some sl => s.loaderSubmits (cxOf sl y.ctx)
        | none => s
      if y.vf = x.vf ∧ y.ctx = x.ctx then see s
      else
        -- a queue bound to another context is head there
        let others (h : HeadRec) : Bool := h.src != q
        let s := { s with
          slices := s.slices.map (fun (e : Nat × Slice) => (e.1, { e.2 with heads := e.2.heads.filter others }))
          ctxs := s.ctxs.map (fun (e : Nat × Ctx) => (e.1, { e.2 with
            heads := e.2.heads.filter others
            image := e.2.image.map (fun (im : Image) => { im with slice := { im.slice with heads := im.slice.heads.filter others } }) })) }
        see s)

/-- REMAP_TABLE_WRITE, 14:R357, 01:R19, R22: gives a slice its clusters while no context of it runs; a site that is fused
off (01:R8, R11) or that another slice holds, or a site twice, makes the write ignored. -/
def execRemapTableWrite (sl : Nat) (sites : List Nat) (s : State) : Outcome :=
  .next (
    if 16 ≤ sl ∨ s.booted = false ∨ (s.slice sl).running.isSome ∨ (s.slice sl).sw.step ≠ .idle ∨ 576 < sites.length ∨ distinct sites = false
        ∨ sites.any (fun x => decide (608 ≤ x) || s.fused.contains x) ∨ s.slices.any (fun e => e.1 != sl && meets e.2.sites sites) then s
    else s.modSlice sl (fun x => { x with sites := sites, nclus := sites.length }))

end Sys2Proof.Machine
end

