-- ==== Sys2Proof/Machine/Collect.lean ====
section
/-!
DEFINITION. Collective units: posts, contributions, pause exchanges and aborts (14:R368, R369, 21:R451, R452, R454).
-/

namespace Sys2Proof.Machine

def State.coll (s : State) (u : Nat) : Collective := tget {} s.colls u
def State.setColl (s : State) (u : Nat) (c : Collective) : State := { s with colls := tput s.colls u c }

/-- Aborts a collective: the unit stops with its record of kind 8, and completed steps stay as written (21:R452). -/
def State.abortColl (s : State) (u state : Nat) : State :=
  let c := s.coll u
  (s.setColl u { c with state := state, paused := false, saved := false, restoredAt := none, acc := [], stat := [], got := [],
                        early := [], told := [] }).event 8 c.sl 0xff c.vf u c.step

/-- A unit has an open collective, or one of a context whose image is saved (14:R361, R368; log 33). -/
def State.unitTaken (s : State) (u : Nat) : Bool :=
  (s.coll u).open_ || s.ctxs.any (fun e => e.2.image.any (fun im => (tget {} im.colls u).open_))

/-- COLLECTIVE_POST, 14:R368: the host posts a collective to a unit, bound to one virtual function. A unit with an open collective
ignores the post (log 33); one with a participant that is not reached is aborted at once (21:R454). -/
def execCollectivePost (u vf sl parts steps : Nat) (s : State) : Outcome :=
  .next (
    if 16 ≤ u ∨ 64 ≤ vf ∨ 16 ≤ sl ∨ s.booted = false ∨ s.foreignFn sl vf = true ∨ s.unitTaken u = true then s
    else
      let s := s.setColl u { vf := vf, sl := sl, parts := parts, steps := steps, posted := true
                             state := if steps = 0 then 1 else 0 }
      if steps ≠ 0 ∧ s.links.cut.any (fun p => decide (p < parts)) then s.abortColl u 3 else s)

/-- Adds one value of a contribution to the sum of its element (05:R144). -/
def Collective.addElem (c : Collective) (i : Nat) (v : W32) : Collective :=
  let a : Acc := { v := tget 0#640 c.acc i, st := tget 0#4 c.stat i }
  let b := a.addF (unpack 0 v.toNat)
  { c with acc := tput c.acc i b.v, stat := tput c.stat i b.st }

/-- Adds the values of a contribution to the sums of the step, element i onwards. -/
def Collective.addVals (c : Collective) (i : Nat) : List W32 → Collective
  | [] => c
  | v :: t => (c.addElem i v).addVals (i + 1) t

/-- The sums of a step of n elements, rounded once (05:R145; log 33). -/
def Collective.rounded (c : Collective) (n : Nat) : List W32 :=
  (List.range n).map (fun i => BitVec.ofNat 32 (rnd640Hi 0 (tget 0#640 c.acc i) (tget 0#4 c.stat i)).1)

/-- Number of elements summed in the current step. -/
def Collective.elems (c : Collective) : Nat := c.acc.foldl (fun m e => max m (e.1 + 1)) 0

/-- Completes the current step once every participant has contributed. -/
def Collective.stepDone (c : Collective) (n : Nat) : Collective :=
  if c.got.length < c.parts then c
  else
    { c with results := c.results ++ [c.rounded n], step := c.step + 1, acc := [], stat := [], got := []
             state := if c.steps ≤ c.step + 1 then 1 else 0 }

/-- The unit may begin or go on with its current step: it has not been saved, and a paused one begins none beyond those that it or a
participant has begun (14:R369). -/
def Collective.works (c : Collective) : Bool :=
  c.open_ && !c.saved && c.agreed && (!c.paused || decide (c.step < c.top))

/-- A contribution to the current step is added, and the step completes once every participant has contributed (14:R368). -/
def Collective.contribute (c : Collective) (part : Nat) (vals : List W32) : Collective :=
  let n := max c.elems vals.length
  (({ c with begun := max c.begun (c.step + 1), got := c.got ++ [part] }).addVals 0 vals).stepDone n

/-- Contributions that came early and whose step has come are added (14:R368). -/
def Collective.absorb : Nat → Collective → Collective
  | 0, c => c
  | n + 1, c =>
    if c.works = false then c
    else
      match c.early.find? (fun e => e.2.1 == c.step) with
      | none => c
      | some e => Collective.absorb n (({ c with early := c.early.filter (fun x => !(x.1 == e.1 && x.2.1 == e.2.1)) }).contribute e.1 e.2.2)

/-- Absorbs what has come early as far as it may. -/
def Collective.catchUp (c : Collective) : Collective := c.absorb (c.early.length + 1)

/-- A participant has contributed to a step already. -/
def Collective.has (c : Collective) (part step : Nat) : Bool :=
  decide (step < c.step) || (step == c.step && c.got.contains part) || c.early.any (fun e => e.1 == part && e.2.1 == step)

/-- COLLECTIVE_CONTRIBUTION, 14:R368, R369: a participant's contribution is added exactly, once, whatever the order of arrival: one to a later
step, or to one that the unit may not begin, is kept until its step has come. A message of no values is the exchange of R369, which may
reach the unit before its own pause: the participant has begun `step` steps (log 33). -/
def execCollectiveContribution (u part step : Nat) (vals : List (BitVec 32)) (s : State) : Outcome :=
  let c := s.coll u
  .next (
    if c.open_ = false ∨ c.parts ≤ part then s
    else if vals.isEmpty then
      s.setColl u ({ c with told := tput c.told part (max (tget 0 c.told part) step) }).catchUp
    else if c.steps ≤ step ∨ c.has part step = true then s
    else if step = c.step ∧ c.works then s.setColl u (c.contribute part vals).catchUp
    else s.setColl u { c with early := c.early ++ [(part, step, vals)] })

/-- COLLECTIVE_RESUME, 14:R369, 21:R451: with every participant restored, which `steps` has a report of each, the collective goes on at the
next step; one saved unagreed goes on only when every participant reports the same completed step. -/
def execCollectiveResume (u : Nat) (steps : List Nat) (s : State) : Outcome :=
  let c := s.coll u
  .next (
    if c.open_ = false ∨ c.restoredAt.isNone ∨ steps.length ≠ c.parts then s
    else if c.agreed ∨ steps.all (fun k => k == c.step) then
      s.setColl u ({ c with paused := false, saved := false, agreed := true, restoredAt := none, told := [] }).catchUp
    else s.abortColl u 2)

/-- EXCHANGE_TIMEOUT, 21:R451: the exchange of a pause has not completed within the outgoing context's grace time; the unit, its begun
steps complete, is saved unagreed. -/
def execExchangeTimeout (u : Nat) (s : State) : Outcome :=
  let c := s.coll u
  let w := (s.slice c.sl).sw
  .next (
    if c.open_ = false ∨ c.paused = false ∨ c.saved ∨ c.agreed = false ∨ c.step < c.begun ∨ c.exchanged
        ∨ s.clock.run < w.since + (s.outCtx c.sl).grace then s
    else (s.setColl u { c with agreed := false }).event 16 c.sl 0xff c.vf u c.begun)

/-- PARTICIPANT_TIMEOUT, 21:R452, R454: a participant has not restored the collective within the restored context's kill time, counted
from its restore; the collective is aborted and the context goes on. -/
def execParticipantTimeout (u : Nat) (s : State) : Outcome :=
  let c := s.coll u
  .next (match c.restoredAt with
    | none => s
    | some t =>
      if c.open_ = false ∨ s.clock.run < t + 1000 * (s.ctx (s.runCx c.sl)).kill then s else s.abortColl u 3)

end Sys2Proof.Machine
end

