-- ==== Sys2Proof/Machine/Pass.lean ====
section
/-!
DEFINITION. Time passes: what falls in a cycle that the spec fixes happens in that cycle. Those are the steps of the Madder arrays and their
`dstop` commands (12:R321, R329), the table slots, which reach the launch arbiter at most 200 ns after their time (07:R190, R192), and the
samples of hot code (02:R36). What errors and estimates of one cycle decide together is decided as it ends (24:R465, R468).
-/

namespace Sys2Proof.Machine

/-! ## When something falls due -/

/-- The cycle in which a core's array next acts by itself, none while it is frozen (12:R321, R329, 18:R400). -/
def State.madAct (s : State) (ck : Nat) : Option Nat :=
  let m := (s.core ck).mad
  if s.frozen (slOfCk ck) then none
  else match m.dueAt, m.stopAt with
    | some t, some u => some (min t u)
    | some t, none => some t
    | none, u => u

/-- The ns after its firing at which a slot is taken to the arbiter, short of 200 ns by as many as slots wait: the arbiter takes two in a cycle
of 50/47 ns (07:R192, R195; log 28). -/
def State.slotBound (s : State) : Nat := 198 - (s.mgmt.table.filter (fun e => (s.slotDue e.2).isSome)).length

/-- Cycles that pass at least before a clock in ns has gone on by some ns (00:R3, 14:R374). -/
def State.cyclesTo (s : State) (ns : Nat) : Nat := (ns * 235000 - s.clock.frac) / 250050

/-- The cycle to look at an entry in: its slot is taken to the arbiter when its time has run out, the arbiter is free, and none that fired
with it comes first. -/
def State.slotAct (s : State) (bound e : Nat) (t : TabEntry) : Option Nat :=
  match s.slotDue t with
  | some r =>
    if r + bound ≤ s.clock.run then some (if s.arbFree && !s.slotBehind e r then s.now else s.now + 1)
    else some (s.now + max 1 (s.cyclesTo (r + bound - s.clock.run)))
  | none =>
    if s.slotOn t then t.next.map (fun k => s.now + max 1 (s.cyclesTo (t.slotTime k - s.dtc.toNat))) else none

/-- The cycle in which the occupancies of a slice whose context runs are sampled next: every 1,024 cycles (02:R36). -/
def Slice.sampleAct (x : Slice) : Option Nat := x.running.map (fun _ => x.sampledAt + 1024)

/-- The next cycle in which something falls due. -/
def State.nextAct (s : State) : Option Nat :=
  minBy (fun t : Nat => t) (s.cores.filterMap (fun e => s.madAct e.1) ++ s.mgmt.table.filterMap (fun e => s.slotAct s.slotBound e.1 e.2)
    ++ s.slices.filterMap (fun e => e.2.sampleAct))

/-! ## The end of a cycle (24:R465, R468) -/

/-- Compares `p10` with both thresholds; each bit that becomes set is told to the host (log 9). -/
def State.compareLife (s : State) (die : Nat) : State :=
  let d := tget {} s.dies die
  let w := decide (d.p10 < d.warnAt)
  let c := decide (d.p10 < d.critAt)
  let s := s.modDie die (fun d => { d with warn := d.warn || w, crit := d.crit || c, cmp := false })
  let s := if w && !d.warn then s.note 4 (2 * die) else s
  if c && !d.crit then s.note 4 (2 * die + 1) else s

/-- Something stands for the end of this cycle. -/
def State.cycleDue (s : State) : Bool := !s.errs.isEmpty || s.dies.any (fun e => e.2.cmp)

/-- A cycle ends: what errors it has found kill their contexts, unless another reason has in this cycle (24:R465); and a die compares its new
estimate with its new thresholds, once (24:R468). -/
def State.cycleEnd (s : State) : State :=
  let ends (t : State) (cx : Nat) : State := if (t.ctx cx).live then t.killPlain cx 0x84 else t
  let s := s.errs.foldl ends ({ s with errs := [] } : State)
  ((s.dies.filter (fun e => e.2.cmp)).map (fun e => e.1)).foldl State.compareLife s

/-! ## What falls due happens -/

/-- A core's array acts: the steps that are due, then a `dstop` whose cycle has come (12:R321). -/
def State.madRun (s : State) (ck : Nat) : State := (s.madStep ck).madStop ck

/-- An entry whose slot fired some ns ago is taken to the arbiter. -/
def State.takeSlot (ns : Nat) (s : State) (e : Nat) : State :=
  let t := tget {} s.mgmt.table e
  if (s.slotDue t).any (fun r => decide (r + ns ≤ s.clock.run)) then
    match (if nbits t.ctl 1 2 = 0 then execLaunchSlot e s else execSwitchSlot e s) with
    | .next u => u
    | _ => s
  else s

/-- The entries whose slots fired some ns ago are taken to the arbiter, in ascending order (07:R192). -/
def State.takeSlots (s : State) (ns : Nat) : State := (s.mgmt.table.map (fun e => e.1)).foldl (State.takeSlot ns) s

/-- Every slice samples whose time has come (02:R36). -/
def State.sampleAll (s : State) : State := (s.slices.map (fun e => e.1)).foldl State.hotSample s

/-- Everything that is due in this cycle: the arrays by core, the slots by entry (07:R192), the samples by slice. -/
def State.act (s : State) : State :=
  (((s.cores.map (fun e => e.1)).foldl State.madRun s).takeSlots s.slotBound).sampleAll

/-- Time passes to a cycle; what falls due on the way, from cycle `c` on, happens in its order, once in a cycle. -/
def State.passTo (e : Nat) : Nat → Nat → State → State
  | 0, _, s => s.advance (e - s.now)
  | n + 1, c, s =>
    match s.nextAct with
    | none => s.advance (e - s.now)
    | some t => if e < max c t then s.advance (e - s.now) else State.passTo e n (max c t + 1) (s.advance (max c t - s.now)).act

/-- `n` cycles pass. -/
def State.pass (s : State) (n : Nat) : State := State.passTo (s.now + n) (n + 2) s.now (if n = 0 then s else s.cycleEnd)

/-- Nothing stands for the end of this cycle, and nothing falls due before some cycles have passed. -/
def State.calm (s : State) (n : Nat) : Bool := !s.cycleDue && (s.nextAct).all (fun t => decide (s.now + n < t))

/-- GANGWAIT_EXPIRY, 03:R65: time passes to the cycle in which the oldest packet of a group that is not takeable yet has waited
for `gangwait`. -/
def execGangwaitExpiry (sl q : Nat) (s : State) : Outcome :=
  .next (match oldestGroup ((s.groups (qkOf sl q)).filter (fun g => !s.ripe sl g)) with
    | some (p :: _) => s.pass (p.at_ + (s.ctx (s.runCx sl)).gangwait - s.now)
    | _ => s)

end Sys2Proof.Machine
end

