-- ==== Sys2Proof/Machine/Links.lean ====
section
/-!
DEFINITION. The Fjoad link, scale-up ports and peers, unanswered accesses, and the sources of `dtc` (14:R371 to R374, 21:R453 to R456).
-/

namespace Sys2Proof.Machine

/-! ## Lanes and ports (21:R453, R454) -/

/-- FLIT_CRC_FAIL, 21:R453: a flit that fails its CRC is sent again from the sender's replay buffer, in order. -/
def execFlitCrcFail (link : Nat) (s : State) : Outcome :=
  .next { s with links := { s.links with replays := tput s.links.replays link (tget 0 s.links.replays link + 1) } }

/-- Lanes the link runs at: the largest of 32, 16 and 8 that remains whole, else none (14:R371, 21:R453). -/
def Links.width (l : Links) : Nat :=
  let n := 32 - l.lanesLost.length
  if 32 ≤ n then 32 else if 16 ≤ n then 16 else if 8 ≤ n then 8 else 0

/-- FJOAD_LANE_LOST, 21:R453: a lane is removed, with its record; with fewer than 8 left the link is down and host sessions close
(log 34). -/
def execFjoadLaneLost (lane : Nat) (s : State) : Outcome :=
  .next (
    if 32 ≤ lane ∨ s.links.lanesLost.contains lane then s
    else
      let down := s.links.fjoadDown
      let s := { s with links := { s.links with lanesLost := lane :: s.links.lanesLost } }
      let s := s.event 9 0xff 0xff 0xff lane s.links.width
      if down = false ∧ s.links.fjoadDown = true then
        let s := s.event 10 0xff 0xff 0xff 0 0
        (s.ochre.sessions.filter (fun e => e.2.opened)).foldl (fun t e => t.closeSession e.1 0) s
      else s)

/-- Time transfer from peers is lost, which fails it where it is the source in use (21:R454, R456). -/
def State.loseTransfer (s : State) : State :=
  let c := s.clock
  if !s.links.noTransfer then s
  else
    let left := c.present.filter (fun n => n != 3)
    let c := if c.source = 3 ∧ c.failedAt.isNone then { c with failedAt := some c.run, slew := 0 } else c
    { s with clock := { c with present := left } }

/-- PORT_DOWN, 21:R453, R454: a failed port leaves every routing set, with its record; a collective with a participant that is not reached
any more is aborted (log 33), and time transfer may be lost. -/
def execPortDown (port : Nat) (s : State) : Outcome :=
  .next (
    if 96 ≤ port ∨ s.links.portsDown.contains port then s
    else
      let before := s.links.cut
      let s := { s with links := { s.links with portsDown := port :: s.links.portsDown } }
      let lost := s.links.cut.filter (fun p => !before.contains p)
      let s := (s.event 11 0xff 0xff 0xff port lost.length).loseTransfer
      (s.colls.filter (fun e => e.2.open_ && lost.any (fun p => decide (p < e.2.parts)))).foldl (fun t e => t.abortColl e.1 3) s)

/-! ## Accesses that are not answered (21:R455) -/

/-- The time after which an access is taken as not answered: 100 us for the host, 200 us for a peer; none once it is not reached (21:R455). -/
def Links.patience (l : Links) (pa : Nat) : Nat :=
  if l.reaches pa then (if nbits pa 46 1 = 0 then 100000 else 200000) else 0

/-- The time since an access was sent has run out (07:R190, 21:R455). -/
def State.outOfTime (s : State) (pa at_ : Nat) : Bool := decide (at_ + s.links.patience pa ≤ s.clock.run)

/-- The lanes of a far operation that have waited longer for the host or a peer than 21:R455 lets them. -/
def State.unanswered (s : State) (o : FarOp) : List (Nat × FarLane) :=
  o.left.filter (fun e => spaceOfLoc e.2.loc == 1 && s.outOfTime e.2.loc o.at_)

/-- A far operation whose lanes get no answer: they receive 0, and the gang takes a fault. -/
def State.farLost (s : State) (gk : Nat) (o : FarOp) : State :=
  match s.unanswered o with
  | [] => s
  | (i, x) :: t =>
    let got := o.got ++ ((i, x) :: t).map (fun e => (e.1, 0))
    let s := s.lostAt (slOfGk gk) 0xff 0xff x.loc
    let s := s.modGang gk (fun g => { g with
      far := g.far.map (fun p => if p.id == o.id then { p with got := got, perf := got.length == p.lanes.length } else p) })
    let act := maskOf (o.lanes.map FarLane.lane)
    s.recordFault { gk := gk, actId := o.actId, word := o.word, act := act, launch := o.launch } 0x09 0
      (maskOf (((i, x) :: t).map (fun e => e.2.lane))) (BitVec.ofNat 64 x.va)

/-- Takes back bytes that were not acknowledged, the last first. -/
def State.takeBack (s : State) (ws : List ExtWrite) : State :=
  s.wrAll 0 (ws.reverse.map (fun w => (w.pa, w.old)))

/-- A gang's stores at commit get no answer: they are dropped, what waits for them is released, and the gang takes a fault. -/
def State.storesLost (s : State) (gk : Nat) : State :=
  let lost (e : ExtWrite) : Bool := e.gk == gk && s.outOfTime e.pa e.at_
  let ws := s.links.unacked.filter (fun e => lost e && !e.far)
  let s := { s with links := { s.links with unacked := s.links.unacked.filter (fun e => !lost e) } }
  match ws with
  | [] => s
  | w :: t =>
    let s := (s.takeBack (w :: t)).lostAt (slOfGk gk) 0xff 0xff w.pa
    let g := s.gang gk
    s.recordFault { gk := gk, actId := g.actId, word := 0#32, act := g.r.act, launch := g.launch } 0x09 0 g.r.act (BitVec.ofNat 64 w.va)

/-- ACCESS_TIMEOUT, 21:R455: a load or far operation of that number, a gang's stores, or, from 2^64 on, the `cprem` at the head of channel
`id - 2^64` gets no answer. -/
def execAccessTimeout (gk id : Nat) (s : State) : Outcome :=
  .next (
    if 2 ^ 64 ≤ id then
      let ck := ckOfGk gk
      let ch := id - 2 ^ 64
      match tget [] (s.core ck).chans ch with
      | [] => s
      | c :: _ =>
        if c.kind = 5 ∧ c.moved < c.sent
            ∧ ((s.links.portsOf c.peer).all (fun p => s.links.portsDown.contains p) ∨ c.at_ + 200000 ≤ s.clock.run) then
          let a := (c.dst.toNat + c.moved) % 2 ^ 64
          s.cpFail ck ch c 12 a
        else s
    else
      match (s.gang gk).far.find? (fun o => o.id == id && !o.perf) with
      | some o => s.farLost gk o
      | none => s.storesLost gk)

/-! ## Peers (14:R373) -/

/-- PEER_ACCESS, 14:R373, 06:R157: a peer's load or store over a scale-up port is performed in device memory; a load changes nothing. -/
def execPeerAccess (port loc : Nat) (wr : Option (List (BitVec 8))) (s : State) : Outcome :=
  .next (match wr with
    | none => s
    | some bs =>
      let secs := sectorsOf loc bs.length
      if 96 ≤ port ∨ s.links.portsDown.contains port ∨ bs.isEmpty ∨ spaceOfLoc loc ≠ 0 ∨ s.anyCovered secs then s
      else
        let s := s.uncacheAll secs
        (s.wrHost 0 loc bs).squashReaders none secs)

/-! ## Time sources (14:R374, 21:R456) -/

def State.setClock (s : State) (c : Clock) : State := { s with clock := c }

/-- The source that R374 prefers among those present; 4 when there is none. -/
def Clock.best (c : Clock) : Nat := ([1, 2, 3].find? (fun n => c.present.contains n)).getD 4

/-- Steps `dtc`, with a record of kind 14 (14:R374). Slots that `dtc` had reached have fired, and of those that a step forward passes the latest
of each entry fires (07:R192). -/
def State.stepDtc (s : State) (err : Int) : State :=
  let new := s.clock.ns + BitVec.ofInt 64 err
  let table := s.mgmt.table.map (fun e =>
    if s.slotOn e.2 then (e.1, e.2.stepped s.dtc.toNat new.toNat s.clock.run) else e)
  (({ s with mgmt := { s.mgmt with table := table } } : State).setClock { s.clock with ns := new, slew := 0 }).event 14 0xff 0xff 0xff
    (BitVec.ofInt 64 err).toNat 0

/-- An error is within what slewing corrects: at most 1 ms (14:R374). -/
def slewed (err : Int) : Bool := decide (err.natAbs ≤ 1000000)

/-- Corrects an error: by slewing, or by a step above 1 ms. -/
def State.correct (s : State) (err : Int) : State :=
  if slewed err then s.setClock { s.clock with slew := err * 235000 } else s.stepDtc err

/-- TIME_SOURCE_FAIL, 21:R456: the source in use fails and `dtc` runs free. -/
def execTimeSourceFail (s : State) : Outcome :=
  let c := s.clock
  .next (
    if c.source = 0 ∨ c.source = 4 ∨ c.failedAt.isSome then s
    else s.setClock { c with present := c.present.filter (fun n => n != c.source), failedAt := some c.run, slew := 0 })

/-- SOURCE_CHANGE, 21:R456: `dtc` changes to the next source that is preferred and present, or to holdover, with a record whose error
estimate is open (log 5). -/
def execSourceChange (s : State) : Outcome :=
  let c := s.clock
  .next (
    if c.failedAt.isNone then s
    else
      let s := s.setClock { c with source := c.best, failedAt := none }
      (s.event 13 0xff 0xff 0xff c.best (s.free 0 % 2 ^ 64)).bump)

/-- DTC_STEP, 14:R374: an error above 1 ms steps `dtc`. -/
def execDtcStep (err : Int) (s : State) : Outcome :=
  .next (if slewed err ∨ s.clock.source = 0 then s else s.stepDtc err)

/-- Adopts a source that is preferred to the one in use, by slewing or, above 1 ms, by a step (14:R374, 21:R456). -/
def State.adopt (s : State) (c : Clock) (src : Nat) (err : Int) : State :=
  ((s.setClock { c with source := src, failedAt := none }).event 13 0xff 0xff 0xff src err.natAbs).correct err

/-- TIME_SOURCE_INPUT, 14:R374, 24:R472: a source shows itself; the first one is taken, one that is preferred to the source in use is
adopted, and the one in use slews `dtc` toward it. A transfer from peers that are not reached is lost (21:R454). -/
def execTimeSourceInput (src : Nat) (err : Int) (s : State) : Outcome :=
  let c := s.clock
  .next (
    if src = 0 ∨ 4 ≤ src ∨ (src = 3 ∧ s.links.noTransfer) then s
    else
      let c := { c with present := src :: c.present.filter (fun n => n != src) }
      if c.source = 0 then (s.setClock { c with source := src }).correct err
      else if src < c.source ∧ (c.failedAt.isNone ∨ c.best = src) then s.adopt c src err
      else if c.source = src ∧ c.failedAt.isNone ∧ slewed err = true then (s.setClock c).correct err
      else s.setClock c)

/-- TIME_SOURCE_RECOVERY, 21:R456: a recovered source that is preferred to the one in use, or where that has failed the one preferred among
those present, is adopted, by slewing or, above 1 ms, by a step. -/
def execTimeSourceRecovery (src : Nat) (err : Int) (s : State) : Outcome :=
  let c := s.clock
  .next (
    if src = 0 ∨ 4 ≤ src ∨ (src = 3 ∧ s.links.noTransfer) then s
    else
      let c := { c with present := src :: c.present.filter (fun n => n != src) }
      if (if c.failedAt.isSome then c.best == src else decide (src < c.source)) then s.adopt c src err
      else s.setClock c)

end Sys2Proof.Machine
end

