-- ==== Sys2Proof/Machine/Debug.lean ====
section
/-!
DEFINITION. The debug halt: its request, its end, the resume, what the debug window presents, and a debugger's writes (18:R398 to R403).
-/

namespace Sys2Proof.Machine

/-- Changes the debug control word of a context. -/
def State.modDbg (s : State) (cx : Nat) (f : DebugCtl → DebugCtl) : State := s.modCtx cx (fun c => { c with dbg := f c.dbg })

/-- HALT_REQUEST, 18:R398, R399: `hreq` is written 1, and the gangs of the slice stop at their next instruction boundary. -/
def execHaltRequest (sl cx : Nat) (s : State) : Outcome :=
  .next (
    if s.booted = false ∨ (s.ctx (cxOf sl cx)).live = false then s
    else s.modDbg (cxOf sl cx) (fun d => { d with hreq := true }))

/-- HALT_DONE, 18:R399: gangs stand at instruction boundaries; once every register write has landed, `hlt` is set. -/
def execHaltDone (sl cx : Nat) (s : State) : Outcome :=
  let gs := s.liveGangs sl
  .next (
    if (s.slice sl).running ≠ some cx ∨ (s.ctx (cxOf sl cx)).dbg.hreq = false ∨ gs.any (fun gk => !(s.gang gk).settled s.now) then s
    else
      let s := gs.foldl (fun t gk => t.modGang gk (fun g => g.landDue t.now)) s
      s.modDbg (cxOf sl cx) (fun d => { d with hlt := true }))

/-- A step that stood still while the array was frozen falls in the next cycle at the earliest (18:R400). -/
def Madder.thaw (m : Madder) (now : Nat) : Madder :=
  { m with doms := m.doms.map (fun e => (e.1, { e.2 with run := e.2.run.map (fun r => { r with next := max r.next (now + 1) }) })) }

/-- The engines of a slice that a halt held go on: its Madder arrays step, and the commands held in the cores' queues pass into the matrix
units (18:R400, 11:R297). -/
def State.thaw (s : State) (sl : Nat) : State :=
  let s := { s with cores := s.cores.map (fun e => if slOfCk e.1 == sl then (e.1, { e.2 with mad := e.2.mad.thaw s.now }) else e) }
  (List.range (s.slice sl).nclus).foldl (fun t i => t.mxMoveAll (clkOf sl i)) s

/-- RESUME, 18:R398, R403: `hreq` is written 0; gangs go on at their next instruction and `hlt` is clear. -/
def execResume (sl cx : Nat) (s : State) : Outcome :=
  let c := cxOf sl cx
  let d := (s.ctx c).dbg
  .next (
    if s.booted = false ∨ (s.ctx c).live = false then s
    else
      let was := (s.slice sl).running = some cx ∧ d.hlt = true ∧ d.frz = true
      let s := s.modDbg c (fun d => { d with hreq := false, hlt := false })
      if was then s.thaw sl else s)

/-! ## The debug window (18:R401) -/

/-- The words of a gang's trap registers as the window shows them, with `tsa` and `tvec` of its slot. -/
def State.trapWords (s : State) (gk : Nat) : List Word :=
  let t := (s.gang gk).r.tr
  let u : State := { s with cur := gk }
  [BitVec.ofNat 64 t.tlvl, t.tc1, t.tc2, t.tpc1, t.tpc2, t.tmk1, t.tmk2, t.tva1, t.tva2, u.tsa, u.tvec]

/-- The 16 KiB that present a gang slot: the registers of every lane as the current window names them, the predicates, the pc with the active
mask, and the trap registers; the rest reads 0. -/
def State.gangWindow (s : State) (gk : Nat) : List Byte :=
  let r := (s.gang gk).r
  let ws := (List.range 32).flatMap (fun n => (List.range 32).flatMap (fun l => leBytes 8 (r.rdW l n).toNat))
  let ps := (List.range 32).map (fun l => (r.lane l).p ||| 1#8)
  let pc := leBytes 8 (r.pc % 2 ^ 14 + 2 ^ 32 * r.act.toNat)
  let b := ws ++ ps ++ pc ++ List.replicate 24 0#8 ++ (s.trapWords gk).flatMap (fun w => leBytes 8 w.toNat)
  b ++ List.replicate (16384 - b.length) 0#8

/-- A byte of the window of a slice: gang slot k of logical core c lies at 16,384 times 4 c + k. -/
def State.debugByte (s : State) (sl off : Nat) : Byte :=
  (s.gangWindow (gkOf (ckOf sl (off / 65536)) (off / 16384 % 4))).getD (off % 16384) 0#8

/-- The mailboxes of a core: the value of each and a byte for its presence bit. -/
def Core.mailWindow (c : Core) : List Byte :=
  (List.range 32).flatMap (fun m =>
    let x := tget {} c.mail m
    leBytes 8 x.val.toNat ++ [if x.pres then 1#8 else 0#8])

/-- A `z` tile: the ACC96 rows in the order in which `mrd` writes them. -/
def ZTile.window (z : ZTile) : List Byte :=
  (List.range 16).flatMap (fun m => (List.range 256).flatMap (fun n => zBytes 11 0 z.ez (z.get m n)))

/-- The Madder array of a core, as its image. -/
def Core.madWindow (c : Core) : List Byte := c.mad.image

/-- A `z` tile as a debugger reads it: the read waits, which is none, until no started command names the tile (18:R402). -/
def State.zWindow (s : State) (clk k : Nat) : Option (List Byte) :=
  let u := s.cluster clk
  if u.runs.any (fun r => r.cmd.namesTile k) then none else some (tget {} u.z k).window

/-- The pushed word and captured operands of a matrix command, and of a Madder domain's slots. -/
def MxCmd.shown (x : MxCmd) : W32 × List Nat := (x.who.word, [x.desc.toNat, x.opnd.toNat, x.frm.toNat, x.seq])
def MadDom.shown (x : MadDom) : List (W32 × List Nat) :=
  (x.run.toList ++ x.pend.toList).map (fun d => (d.who.word, [d.n]))

/-- The engine commands that a core's queues hold: the word pushed and the operands captured with it. -/
def Core.cmdWindow (c : Core) : List (W32 × List Nat) :=
  c.chans.flatMap (fun e => e.2.map (fun x => (x.who.word, [x.dst.toNat, x.src.toNat, x.len, x.ctl.toNat, x.peer, x.td.toNat, x.ta.toNat]))) ++
  c.mxq.map MxCmd.shown ++
  c.fabq.map (fun x => (x.who.word, x.mbox :: x.ctl.toNat :: x.addr.toNat :: x.ops.map BitVec.toNat)) ++
  c.mad.q.map (fun x => (x.who.word, x.dom :: x.opnd.toNat :: x.sel :: x.lanes.flatMap (fun l => [l.1, l.2.1, l.2.2.toNat]))) ++
  c.mad.doms.flatMap (fun e => e.2.shown)

/-- All the engine commands of a core that are queued: at the core, in its queue at the matrix unit, and as calls at the fabrics. -/
def State.cmdWindow (s : State) (ck : Nat) : List (W32 × List Nat) :=
  (s.core ck).cmdWindow ++ (tget [] (s.cluster (clkOfCk ck)).mxqs (ck % 8)).map MxCmd.shown ++
    s.fabs.flatMap (fun e => (e.2.calls.filter (fun c => c.ck == ck)).map (fun c => (c.who.word, c.mbox :: c.ops.map BitVec.toNat)))

/-- The placed block of a quad that holds a word, in a copy that has been removed and still serves too (18:R403, 02:R38). -/
def Quad.blockAt (q : Quad) (w : Nat) : Option BlkRef :=
  (q.exts.find? (fun e => decide (e.start ≤ w) && decide (w < e.start + e.len))).map (fun e =>
    { start := e.start, len := e.len, obj := e.obj, idx := e.blk })

/-- The halves of the tile descriptors `t0` to `t15` (08:R208, R210). -/
def tileCsr (i : Nat) : Bool := decide (0x100 ≤ i) && decide (i < 0x120)

/-- What a debugger's write does to a gang's registers; a control register keeps the rules of its fields (18:R403, R386, 08:R210). -/
def Regs.debugWrite (r : Regs) (q : Quad) (lane : Nat) (reg : DebugReg) (v : Word) : Regs :=
  match reg with
  | .w n => if lane < 32 ∧ n < 32 then r.wrW lane n v else r
  | .p => if lane < 32 then r.modLane lane (fun x => { x with p := v.setWidth 8 ||| 1#8 }) else r
  | .pc =>
    match q.blockAt (wbits v 0 14) with
    | some b => { r with pc := wbits v 0 14, blk := b }
    | none => r
  | .x n => if lane < 32 ∧ n < 8 then r.modLane lane (fun x => { x with xb := tput x.xb n v }) else r
  | .xc n j => if n < 8 ∧ j < 4 then { r with xc := tput r.xc (4 * n + j) (v.setWidth 32) } else r
  | .tlvl => r
  | .tsa => r
  | .tvec => r
  | .csr i =>
    if laneCsr i then (if lane < 32 then r.modLane lane (fun x => x.csrWrite i v) else r)
    else if i = 0x030 then { r with sbchk := v.getLsbD 0 }
    else { r with tr := r.tr.write i v }

/-- DEBUG_REGISTER_WRITE, 18:R403: while the slice is halted a debugger writes a gang's register, predicates or pc, or a tile descriptor register of
its core; other writes are ignored. -/
def execDebugRegisterWrite (gk lane : Nat) (reg : DebugReg) (v : BitVec 64) (s : State) : Outcome :=
  .next (
    if (s.gang gk).live = false ∨ (s.ctx (s.gangCx gk)).dbg.hlt = false ∨ (s.slice (slOfGk gk)).running.isNone then s
    else
      match reg with
      | .csr i =>
        if tileCsr i then s.modCore (ckOfGk gk) (fun c => { c with t := tput c.t ((i - 0x100) / 2) (writeHalf (tget 0#128 c.t ((i - 0x100) / 2)) (i % 2) v) })
        else s.modGang gk (fun g => { g with r := g.r.debugWrite (s.quad (qkOfGk gk)) lane reg v })
      | _ => s.modGang gk (fun g => { g with r := g.r.debugWrite (s.quad (qkOfGk gk)) lane reg v }))

end Sys2Proof.Machine
end

