-- ==== Sys2Proof/Machine/Health.lean ====
section
/-!
DEFINITION. Errors, remaining life, power, cooling, bring-up, and management registers (00:R5, 24:R464 to R472).
-/

namespace Sys2Proof.Machine

def State.setPower (s : State) (p : Power) : State := { s with power := p }

/-! ## Power (24:R469, R470) -/

/-- The limit that holds: the lesser of the package limit and the thermal limit. -/
def Power.bound (p : Power) : Nat := min p.limit p.thermal

/-- The gate after an interval with a power in mW. -/
def Power.nextGate (p : Power) (mw : Nat) : Nat :=
  if 1000 * p.bound < mw then max 1 (p.gate - 1)
  else if mw < 980 * p.bound then min 16 (p.gate + 1)
  else p.gate

/-- POWER_INTERVAL, 24:R469, R470: every 10 us the gate follows the power of the interval, and the average over the last 1 ms is kept. -/
def execPowerInterval (mw : Nat) (s : State) : Outcome :=
  let p := s.power
  .next (
    if p.on = false ∨ s.clock.run < p.last + 10000 then s
    else
      let past := (mw :: p.past).take 100
      s.setPower { p with gate := p.nextGate mw, past := past, watts := past.foldl (· + ·) 0 / (1000 * past.length), last := p.last + 10000 })

/-- PWRLIM_WRITE, 24:R469: sets the package limit; a write out of range is ignored as a whole. -/
def execPwrlimWrite (w : Nat) (s : State) : Outcome :=
  .next (if s.booted = false ∨ w % 4096 < 600 ∨ 2300 < w % 4096 then s else s.setPower { s.power with limit := w % 4096 })

/-! ## Cooling (24:R471) -/

/-- The hottest junction of the package. -/
def State.hottest (s : State) : Nat := s.dies.foldl (fun m e => max m e.2.temp) 0

/-- The thermal limit at a temperature. -/
def thermalLimit (t : Nat) : Nat := if t ≤ 100 then 2300 else max 600 (2300 - 100 * (t - 100))

/-- A hard request that brings no context in: the running context is halted and saved (24:R471, 14:R363). -/
def State.saveAway (s : State) (sl : Nat) : State :=
  if (s.slice sl).running.isNone then s
  else
    match (s.slice sl).sw.step with
    | .idle => s.startSwitch sl none true
    | .soft => s.modSlice sl (fun x => { x with sw := { x.sw with step := .halting } })
    | _ => s

/-- The package without power: only host and peer memory, the fuses, the token counter and the reason of the loss stay (14:R366, 24:R472). -/
def State.dark (s : State) (trip : Bool) : State :=
  { State.reset with
    now := s.now, agenda := s.agenda, fresh := s.fresh + 1
    mem := s.mem.filter (fun c => spaceOfLoc c.1 == 1)
    ochre := { nextKey := s.ochre.nextKey, tokens := s.ochre.tokens }
    power := { on := false, trip := trip, step := 0 }
    fused := s.fused }

/-- THERMAL_EVENT, 24:R471: a die reports its hottest junction, and the device acts on the hottest die. -/
def execThermalEvent (die temp : Nat) (s : State) : Outcome :=
  .next (
    if 6 ≤ die ∨ s.power.on = false then s
    else if 125 ≤ temp then s.dark true
    else
      let s := s.modDie die (fun d => { d with temp := temp })
      let t := s.hottest
      let hot := if 115 ≤ t then true else if t < 95 then false else s.power.hot
      let s := s.setPower { s.power with thermal := thermalLimit t, hot := hot }
      if 115 ≤ t then s.slices.foldl (fun u e => u.saveAway e.1) s else s)

/-- THERMAL_TRIP, 24:R471: at 125 degrees power is removed at once; nothing is saved. -/
def execThermalTrip (_die : Nat) (s : State) : Outcome := .next (s.dark true)

/-- POWER_LOSS, 24:R472: power is removed from outside. -/
def execPowerLoss (s : State) : Outcome := .next (s.dark false)

/-! ## Bring-up (24:R472) -/

/-- The last step completed when a step of bring-up fails; a failed lane or port of step 5 does not stop it. -/
def bootStep (fail : Nat) : Nat :=
  match fail with
  | 1 => 0 | 2 => 1 | 3 => 2 | 4 => 3 | _ => 6

/-- Ochre accepts the firmware: its RSASSA-PSS and its SLH-DSA signature both verify under the keys in ROM (14:R375). -/
def firmwareAccepted : Bool :=
  Config.rsaVerify Config.firmware Config.firmwareSigs.1 && Config.slhVerify Config.firmware Config.firmwareSigs.2

/-- The step of bring-up that fails: the one given, or step 2 where the firmware is not accepted before that one (24:R472). -/
def bootFail (fail : Nat) : Nat := if fail ≠ 1 ∧ firmwareAccepted = false then 2 else fail

/-- Gives one slice the sites that the firmware names for it, as far as they exist, are not fused off and no earlier slice has them. -/
def bootSlice (fused : List Nat) (m : Tab Slice) (sl : Nat) : Tab Slice :=
  let ok (x : Nat) : Bool := decide (x < 608) && !fused.contains x && !m.any (fun e => e.2.sites.contains x)
  let xs := (addSet [] ((Config.bootSites sl).filter ok)).take 576
  if xs.isEmpty then m else m ++ [(sl, { sites := xs, nclus := xs.length })]

/-- The remap table as it loads at boot from fuses and firmware (01:R19). -/
def bootSlices (fused : List Nat) : Tab Slice := (List.range 16).foldl (bootSlice fused) []

/-- What a step of bring-up has done by the end: the device key of step 1, the remap table of step 3 (24:R472). -/
def State.bootActs (s : State) (n : Nat) : State :=
  let s := if 1 ≤ n then { s with ochre := { s.ochre with devKey := s.ochre.nextKey, nextKey := s.ochre.nextKey + 1 } } else s
  if 3 ≤ n then { s with slices := bootSlices s.fused } else s

/-- What of a die outlives a package reset: its health counters, and how hot it is (24:R466, R471). -/
def Die.kept (d : Die) : Die := { sramce := d.sramce, hbmce := d.hbmce, ue := d.ue, mxrx := d.mxrx, temp := d.temp }

/-- The lane, or from 32 on the port, that fails to train in step 5 is removed; the rest go on (21:R453, 24:R472). -/
def State.trainFail (s : State) (k : Nat) : State :=
  match (if k < 32 then execFjoadLaneLost k s else execPortDown (k - 32) s) with
  | .next t => t
  | _ => s

/-- POWER_ON, 24:R472: after power-on, a package reset or a return to step 1, the package goes through its bring-up steps; `fail % 8` is the
step that fails, if any, and of step 5 `fail / 8` the lane, or 32 plus the port (log 4). Counts that never decrease while the package is powered
stay where it was, and so does the heat of the dies (14:R360, 24:R466, R471); every register takes its reset value (00:R5). -/
def execPowerOn (fail : Nat) (s : State) : Outcome :=
  let f := bootFail (fail % 8)
  let n := bootStep f
  let p : Power := { on := true, trip := s.power.trip, step := n, err := if 1 ≤ f ∧ f ≤ 5 then f else 0 }
  let t := s.dark false
  .next (
    let t := if s.power.on then { t with dies := s.dies.map (fun e => (e.1, e.2.kept)), ochre := { t.ochre with retires := s.ochre.retires } } else t
    let p := if s.power.on then { p with thermal := thermalLimit s.hottest, hot := s.power.hot } else p
    let t := (t.bootActs n).setPower p
    if f = 5 then t.trainFail (fail / 8) else t)

/-! ## Remaining life (24:R467, R468) -/

/-- LIFE_ESTIMATE, 24:R467, R468: once an hour, the first time an hour after boot, the estimate is made; it is compared as the cycle ends. -/
def execLifeEstimate (die p10 est : Nat) (s : State) : Outcome :=
  .next (
    if 6 ≤ die ∨ s.booted = false ∨ s.clock.run < (tget {} s.dies die).at_ + 3600 * 10 ^ 9 then s
    else
      let e := est % 2 ^ 32
      s.modDie die (fun d => { d with p10 := min (p10 % 2 ^ 32) e, est := e, valid := true, at_ := d.at_ + 3600 * 10 ^ 9, cmp := true }))

/-- EOLALR_WRITE, 24:R468: sets both thresholds, which are compared as the cycle ends. -/
def execEolalrWrite (die warn crit : Nat) (s : State) : Outcome :=
  .next (
    if 6 ≤ die ∨ s.booted = false then s
    else s.modDie die (fun d => { d with warnAt := warn % 2 ^ 32, critAt := crit % 2 ^ 32, cmp := true }))

/-- EOLSTS_CLEAR, 24:R468: a 1 written to a status bit clears it. -/
def execEolstsClear (die : Nat) (warn crit : Bool) (s : State) : Outcome :=
  .next (
    if 6 ≤ die ∨ s.booted = false then s
    else s.modDie die (fun d => { d with warn := d.warn && !warn, crit := d.crit && !crit }))

/-! ## Errors (24:R464 to R466) -/

/-- CORRECTED_ERROR, 24:R464, R466: counts, and changes nothing else. -/
def execCorrectedError (die : Nat) (hbm : Bool) (s : State) : Outcome :=
  .next (
    if 6 ≤ die then s
    else s.modDie die (fun d =>
      if hbm then { d with hbmce := (d.hbmce + 1) % 2 ^ 64 } else { d with sramce := (d.sramce + 1) % 2 ^ 64 }))

/-- An uncorrected error counts for its die (24:R466). -/
def State.countUe (s : State) (die : Nat) : State :=
  if die < 6 then s.modDie die (fun d => { d with ue := (d.ue + 1) % 2 ^ 64 }) else s

/-- UNCORRECTED_ERROR, 24:R465, R466: is counted, and handled by what it hits: contexts are killed as the cycle ends, so that another reason of
the same cycle leaves its cause. The parity of an integrator cell is found, and counts, at the step that reads the cell, and products of a
matrix unit that are wrong by their checksums. -/
def execUncorrectedError (die sl : Nat) (site : ErrorSite) (s : State) : Outcome :=
  .next (match site with
    | .context cx =>
      let s := s.countUe die
      if (s.ctx (cxOf sl cx)).live then { s with errs := s.errs ++ [cxOf sl cx] } else s
    | .cleanLine => s.countUe die
    | .class13 q i => (s.countUe die).modQuad (qkOf sl q) (fun x => { x with tlb := x.tlb.eraseIdx i })
    | .clusTlb c i => (s.countUe die).modCluster (clkOf sl c) (fun x => { x with tlb := x.tlb.eraseIdx i })
    | .cell c k => s.modCore (ckOf sl c) (fun x => { x with mad := x.mad.setCell k { x.mad.cell k with bad := true } })
    | .products c n => s.modCluster (clkOf sl c) (fun x => { x with mxErr := x.mxErr + n })
    | .package =>
      let s := s.countUe die
      { s with errs := s.errs ++ (s.ctxs.filter (fun e => e.2.live)).map (fun e => e.1), power := { s.power with step := 0 } })

/-! ## Management registers (00:R5) -/

/-- A table entry as written; its running, pending and unread instances stay (07:R193). Slots whose time has passed do not fire when it is
enabled (log 9). -/
def newTab (s : State) (old : TabEntry) (period offset target ctl slice vf skips : Nat) : TabEntry :=
  let t : TabEntry :=
    { old with
        period := period % 2 ^ 64, offset := offset % 2 ^ 64, target := target % 2 ^ 64, ctl := ctl % 32, slice := slice % 256, vf := vf % 256, skips := BitVec.ofNat 32 skips }
  { t with fired := t.reached s.dtc.toNat, late := [] }

/-- Whether another slice lists one of some units of shared SRAM (04:R106). -/
def State.unitsTaken (s : State) (sl : Nat) (us : List Nat) : Bool := s.slices.any (fun e => e.1 != sl && meets e.2.units us)

/-- A write of one management register. -/
def State.mgmtWrite (s : State) (reg : MgmtReg) (v : List Nat) : State :=
  let f (i : Nat) : Nat := v.getD i 0
  match reg with
  | .ways vf => if 64 ≤ vf then s else s.modVf vf (fun x => { x with ways := f 0 % 65536 })
  | .units sl =>
    if 16 ≤ sl ∨ 128 < v.length ∨ v.any (fun u => decide (128 ≤ u)) = true ∨ distinct v = false ∨ s.unitsTaken sl v = true then s
    else s.modSlice sl (fun x => { x with units := v })
  | .table e =>
    if 4096 ≤ e then s else { s with mgmt := { s.mgmt with table := tput s.mgmt.table e (newTab s (tget {} s.mgmt.table e) (f 0) (f 1) (f 2) (f 3) (f 4) (f 5) (f 6)) } }
  | .slots vf =>
    -- a slot number is assigned to one function at most (13:R334)
    if 64 ≤ vf ∨ s.vfs.any (fun e => e.1 != vf && Nat.land e.2.slots (f 0 % 256) != 0) = true then s
    else s.modVf vf (fun x => { x with slots := f 0 % 256 })
  | .debug sl cx =>
    let d := (s.ctx (cxOf sl cx)).dbg
    if (s.ctx (cxOf sl cx)).live then
      let u := s.modDbg (cxOf sl cx) (fun d => { d with frz := f 0 % 2 == 1, bpen := f 1 % 2 == 1 })
      -- with `frz` cleared in a halt the engines go on (18:R400)
      if (s.slice sl).running = some cx ∧ d.hlt = true ∧ d.frz = true ∧ f 0 % 2 = 0 then u.thaw sl else u
    else s
  | .aperture i =>
    if 1024 ≤ i then s else { s with links := { s.links with apertures := tput s.links.apertures i (f 0 % 65536, f 1 % 2 ^ 64) } }
  | .peer die p =>
    if 2 ≤ die ∨ 65536 ≤ p ∨ 8 < v.length ∨ v.any (fun n => decide (96 ≤ n)) = true then s
    else { s with links := { s.links with peers := tput s.links.peers (65536 * die + p) v } }
  | .binding vf =>
    -- a function keeps its slice while a context of it is resident there (14:R357)
    if 64 ≤ vf ∨ 16 ≤ f 0 ∨ s.ctxs.any (fun e => e.2.live && e.2.vf == vf && e.1 / 8 != f 0) = true then s
    else s.modVf vf (fun x => { x with slice := f 0 })
  | .readOnly => s

/-- MGMT_REGISTER_WRITE, 00:R5, 04:R106, R118, 07:R191, 13:R334, 14:R372, R373, 18:R398: writes a management register; until bring-up is
complete the write is refused (24:R472). -/
def execMgmtRegisterWrite (reg : MgmtReg) (v : List Nat) (s : State) : Outcome :=
  .next (if s.booted then s.mgmtWrite reg v else s)

end Sys2Proof.Machine
end

