-- ==== Sys2Proof/Machine/Dispatch.lean ====
section
/-!
DEFINITION. One arm per instruction and event of the opcode table, each a direct call of its meaning.
-/

namespace Sys2Proof.Machine

/-- What an instruction or event does to the machine. -/
def exec (i : Instr) (s : State) : Host.Outcome State Fault Refusal :=
  match i with
  | .nop st => Sys2Proof.Machine.execNop st s
  | .end_ st g => Sys2Proof.Machine.execEnd st g s
  | .yield st => Sys2Proof.Machine.execYield st s
  | .chunk st => Sys2Proof.Machine.execChunk st s
  | .brk st => Sys2Proof.Machine.execBrk st s
  | .trap st c g => Sys2Proof.Machine.execTrap st c g s
  | .eret st => Sys2Proof.Machine.execEret st s
  | .join st => Sys2Proof.Machine.execJoin st s
  | .ret st => Sys2Proof.Machine.execRet st s
  | .tlbinv st a => Sys2Proof.Machine.execTlbinv st a s
  | .add st d a b g => Sys2Proof.Machine.execAdd st d a b g s
  | .sub st d a b g => Sys2Proof.Machine.execSub st d a b g s
  | .and st d a b g => Sys2Proof.Machine.execAnd st d a b g s
  | .or st d a b g => Sys2Proof.Machine.execOr st d a b g s
  | .xor st d a b g => Sys2Proof.Machine.execXor st d a b g s
  | .andn st d a b g => Sys2Proof.Machine.execAndn st d a b g s
  | .shl st d a b g => Sys2Proof.Machine.execShl st d a b g s
  | .shr st d a b g => Sys2Proof.Machine.execShr st d a b g s
  | .sar st d a b g => Sys2Proof.Machine.execSar st d a b g s
  | .rol st d a b g => Sys2Proof.Machine.execRol st d a b g s
  | .min st d a b g => Sys2Proof.Machine.execMin st d a b g s
  | .max st d a b g => Sys2Proof.Machine.execMax st d a b g s
  | .minu st d a b g => Sys2Proof.Machine.execMinu st d a b g s
  | .maxu st d a b g => Sys2Proof.Machine.execMaxu st d a b g s
  | .adds st d a b g => Sys2Proof.Machine.execAdds st d a b g s
  | .subs st d a b g => Sys2Proof.Machine.execSubs st d a b g s
  | .neg st d a g => Sys2Proof.Machine.execNeg st d a g s
  | .abs st d a g => Sys2Proof.Machine.execAbs st d a g s
  | .clz st d a g => Sys2Proof.Machine.execClz st d a g s
  | .ctz st d a g => Sys2Proof.Machine.execCtz st d a g s
  | .popc st d a g => Sys2Proof.Machine.execPopc st d a g s
  | .sext8 st d a g => Sys2Proof.Machine.execSext8 st d a g s
  | .sext16 st d a g => Sys2Proof.Machine.execSext16 st d a g s
  | .sext32 st d a g => Sys2Proof.Machine.execSext32 st d a g s
  | .zext32 st d a g => Sys2Proof.Machine.execZext32 st d a g s
  | .brev st d a g => Sys2Proof.Machine.execBrev st d a g s
  | .mov st d a g => Sys2Proof.Machine.execMov st d a g s
  | .sel st d a b g => Sys2Proof.Machine.execSel st d a b g s
  | .add32 st d a b g => Sys2Proof.Machine.execAdd32 st d a b g s
  | .sub32 st d a b g => Sys2Proof.Machine.execSub32 st d a b g s
  | .and32 st d a b g => Sys2Proof.Machine.execAnd32 st d a b g s
  | .or32 st d a b g => Sys2Proof.Machine.execOr32 st d a b g s
  | .xor32 st d a b g => Sys2Proof.Machine.execXor32 st d a b g s
  | .andn32 st d a b g => Sys2Proof.Machine.execAndn32 st d a b g s
  | .shl32 st d a b g => Sys2Proof.Machine.execShl32 st d a b g s
  | .shr32 st d a b g => Sys2Proof.Machine.execShr32 st d a b g s
  | .sar32 st d a b g => Sys2Proof.Machine.execSar32 st d a b g s
  | .rol32 st d a b g => Sys2Proof.Machine.execRol32 st d a b g s
  | .min32 st d a b g => Sys2Proof.Machine.execMin32 st d a b g s
  | .max32 st d a b g => Sys2Proof.Machine.execMax32 st d a b g s
  | .minu32 st d a b g => Sys2Proof.Machine.execMinu32 st d a b g s
  | .maxu32 st d a b g => Sys2Proof.Machine.execMaxu32 st d a b g s
  | .adds32 st d a b g => Sys2Proof.Machine.execAdds32 st d a b g s
  | .subs32 st d a b g => Sys2Proof.Machine.execSubs32 st d a b g s
  | .neg32 st d a g => Sys2Proof.Machine.execNeg32 st d a g s
  | .abs32 st d a g => Sys2Proof.Machine.execAbs32 st d a g s
  | .clz32 st d a g => Sys2Proof.Machine.execClz32 st d a g s
  | .ctz32 st d a g => Sys2Proof.Machine.execCtz32 st d a g s
  | .popc32 st d a g => Sys2Proof.Machine.execPopc32 st d a g s
  | .brev32 st d a g => Sys2Proof.Machine.execBrev32 st d a g s
  | .mov32 st d a g => Sys2Proof.Machine.execMov32 st d a g s
  | .sel32 st d a b g => Sys2Proof.Machine.execSel32 st d a b g s
  | .addi st d a im => Sys2Proof.Machine.execAddi st d a im s
  | .andi st d a im => Sys2Proof.Machine.execAndi st d a im s
  | .ori st d a im => Sys2Proof.Machine.execOri st d a im s
  | .xori st d a im => Sys2Proof.Machine.execXori st d a im s
  | .shli st d a im => Sys2Proof.Machine.execShli st d a im s
  | .shri st d a im => Sys2Proof.Machine.execShri st d a im s
  | .sari st d a im => Sys2Proof.Machine.execSari st d a im s
  | .slti st d a im => Sys2Proof.Machine.execSlti st d a im s
  | .movz st d p im => Sys2Proof.Machine.execMovz st d p im s
  | .movk st d p im => Sys2Proof.Machine.execMovk st d p im s
  | .mul st d a b g => Sys2Proof.Machine.execMul st d a b g s
  | .mulh st d a b g => Sys2Proof.Machine.execMulh st d a b g s
  | .mulhu st d a b g => Sys2Proof.Machine.execMulhu st d a b g s
  | .div st d a b g => Sys2Proof.Machine.execDiv st d a b g s
  | .divu st d a b g => Sys2Proof.Machine.execDivu st d a b g s
  | .rem st d a b g => Sys2Proof.Machine.execRem st d a b g s
  | .remu st d a b g => Sys2Proof.Machine.execRemu st d a b g s
  | .mul32 st d a b g => Sys2Proof.Machine.execMul32 st d a b g s
  | .div32 st d a b g => Sys2Proof.Machine.execDiv32 st d a b g s
  | .divu32 st d a b g => Sys2Proof.Machine.execDivu32 st d a b g s
  | .rem32 st d a b g => Sys2Proof.Machine.execRem32 st d a b g s
  | .remu32 st d a b g => Sys2Proof.Machine.execRemu32 st d a b g s
  | .mulw st d a b g => Sys2Proof.Machine.execMulw st d a b g s
  | .mulwu st d a b g => Sys2Proof.Machine.execMulwu st d a b g s
  | .cmpEq st d a b g => Sys2Proof.Machine.execCmpEq st d a b g s
  | .cmpNe st d a b g => Sys2Proof.Machine.execCmpNe st d a b g s
  | .cmpLt st d a b g => Sys2Proof.Machine.execCmpLt st d a b g s
  | .cmpLe st d a b g => Sys2Proof.Machine.execCmpLe st d a b g s
  | .cmpLtu st d a b g => Sys2Proof.Machine.execCmpLtu st d a b g s
  | .cmpLeu st d a b g => Sys2Proof.Machine.execCmpLeu st d a b g s
  | .fcmpEq st d a b g => Sys2Proof.Machine.execFcmpEq st d a b g s
  | .fcmpLt st d a b g => Sys2Proof.Machine.execFcmpLt st d a b g s
  | .fcmpLe st d a b g => Sys2Proof.Machine.execFcmpLe st d a b g s
  | .fcmpUn st d a b g => Sys2Proof.Machine.execFcmpUn st d a b g s
  | .pand st d a b g => Sys2Proof.Machine.execPand st d a b g s
  | .por st d a b g => Sys2Proof.Machine.execPor st d a b g s
  | .pxor st d a b g => Sys2Proof.Machine.execPxor st d a b g s
  | .pandn st d a b g => Sys2Proof.Machine.execPandn st d a b g s
  | .fadd st d a b g => Sys2Proof.Machine.execFadd st d a b g s
  | .fsub st d a b g => Sys2Proof.Machine.execFsub st d a b g s
  | .fmul st d a b g => Sys2Proof.Machine.execFmul st d a b g s
  | .fma st d a b g => Sys2Proof.Machine.execFma st d a b g s
  | .fms st d a b g => Sys2Proof.Machine.execFms st d a b g s
  | .fnma st d a b g => Sys2Proof.Machine.execFnma st d a b g s
  | .fmin st d a b g => Sys2Proof.Machine.execFmin st d a b g s
  | .fmax st d a b g => Sys2Proof.Machine.execFmax st d a b g s
  | .fabs st d a g => Sys2Proof.Machine.execFabs st d a g s
  | .fneg st d a g => Sys2Proof.Machine.execFneg st d a g s
  | .fdiv st d a b g => Sys2Proof.Machine.execFdiv st d a b g s
  | .fsqrt st d a g => Sys2Proof.Machine.execFsqrt st d a g s
  | .frcp st d a g => Sys2Proof.Machine.execFrcp st d a g s
  | .frsq st d a g => Sys2Proof.Machine.execFrsq st d a g s
  | .fexp2 st d a g => Sys2Proof.Machine.execFexp2 st d a g s
  | .flog2 st d a g => Sys2Proof.Machine.execFlog2 st d a g s
  | .fsinpi st d a g => Sys2Proof.Machine.execFsinpi st d a g s
  | .fcospi st d a g => Sys2Proof.Machine.execFcospi st d a g s
  | .fcpys st d a b g => Sys2Proof.Machine.execFcpys st d a b g s
  | .fclass st d a g => Sys2Proof.Machine.execFclass st d a g s
  | .cvtF32Bf16 st d a g => Sys2Proof.Machine.execCvtF32Bf16 st d a g s
  | .cvtBf16F32 st d a t g => Sys2Proof.Machine.execCvtBf16F32 st d a t g s
  | .cvtF32F16 st d a g => Sys2Proof.Machine.execCvtF32F16 st d a g s
  | .cvtF16F32 st d a t g => Sys2Proof.Machine.execCvtF16F32 st d a t g s
  | .cvtF32E4m3 st d a g => Sys2Proof.Machine.execCvtF32E4m3 st d a g s
  | .cvtE4m3F32 st d a t g => Sys2Proof.Machine.execCvtE4m3F32 st d a t g s
  | .cvtF32E5m2 st d a g => Sys2Proof.Machine.execCvtF32E5m2 st d a g s
  | .cvtE5m2F32 st d a t g => Sys2Proof.Machine.execCvtE5m2F32 st d a t g s
  | .cvtF32I32 st d a g => Sys2Proof.Machine.execCvtF32I32 st d a g s
  | .cvtI32F32 st d a g => Sys2Proof.Machine.execCvtI32F32 st d a g s
  | .cvtF32I64 st d a g => Sys2Proof.Machine.execCvtF32I64 st d a g s
  | .cvtI64F32 st d a g => Sys2Proof.Machine.execCvtI64F32 st d a g s
  | .cvtF32U32 st d a g => Sys2Proof.Machine.execCvtF32U32 st d a g s
  | .cvtU32F32 st d a g => Sys2Proof.Machine.execCvtU32F32 st d a g s
  | .packBf16 st d a t g => Sys2Proof.Machine.execPackBf16 st d a t g s
  | .packE4m3 st d a t g => Sys2Proof.Machine.execPackE4m3 st d a t g s
  | .ld st d a o z c => Sys2Proof.Machine.execLd st d a o z c s
  | .ldSx st d a o z c => Sys2Proof.Machine.execLdSx st d a o z c s
  | .ldNa st d a o z c => Sys2Proof.Machine.execLdNa st d a o z c s
  | .ldDesc st d x o z c => Sys2Proof.Machine.execLdDesc st d x o z c s
  | .st st d a o z => Sys2Proof.Machine.execSt st d a o z s
  | .stNa st d a o z => Sys2Proof.Machine.execStNa st d a o z s
  | .stDesc st d x o z => Sys2Proof.Machine.execStDesc st d x o z s
  | .natomAdd st d a b z => Sys2Proof.Machine.execNatomAdd st d a b z s
  | .natomAnd st d a b z => Sys2Proof.Machine.execNatomAnd st d a b z s
  | .natomOr st d a b z => Sys2Proof.Machine.execNatomOr st d a b z s
  | .natomXor st d a b z => Sys2Proof.Machine.execNatomXor st d a b z s
  | .natomSmin st d a b z => Sys2Proof.Machine.execNatomSmin st d a b z s
  | .natomSmax st d a b z => Sys2Proof.Machine.execNatomSmax st d a b z s
  | .natomUmin st d a b z => Sys2Proof.Machine.execNatomUmin st d a b z s
  | .natomUmax st d a b z => Sys2Proof.Machine.execNatomUmax st d a b z s
  | .natomSwap st d a b z => Sys2Proof.Machine.execNatomSwap st d a b z s
  | .natomCas st d a b z => Sys2Proof.Machine.execNatomCas st d a b z s
  | .natomFadd st d a b z => Sys2Proof.Machine.execNatomFadd st d a b z s
  | .fatomAdd st d a b u z => Sys2Proof.Machine.execFatomAdd st d a b u z s
  | .fatomAnd st d a b u z => Sys2Proof.Machine.execFatomAnd st d a b u z s
  | .fatomOr st d a b u z => Sys2Proof.Machine.execFatomOr st d a b u z s
  | .fatomXor st d a b u z => Sys2Proof.Machine.execFatomXor st d a b u z s
  | .fatomSmin st d a b u z => Sys2Proof.Machine.execFatomSmin st d a b u z s
  | .fatomSmax st d a b u z => Sys2Proof.Machine.execFatomSmax st d a b u z s
  | .fatomUmin st d a b u z => Sys2Proof.Machine.execFatomUmin st d a b u z s
  | .fatomUmax st d a b u z => Sys2Proof.Machine.execFatomUmax st d a b u z s
  | .fatomSwap st d a b u z => Sys2Proof.Machine.execFatomSwap st d a b u z s
  | .fatomCas st d a b u z => Sys2Proof.Machine.execFatomCas st d a b u z s
  | .fatomFadd st d a b u z => Sys2Proof.Machine.execFatomFadd st d a b u z s
  | .fatomLoad st d a u z => Sys2Proof.Machine.execFatomLoad st d a u z s
  | .fatomStore st a b u z => Sys2Proof.Machine.execFatomStore st a b u z s
  | .fence st c => Sys2Proof.Machine.execFence st c s
  | .barj st k c => Sys2Proof.Machine.execBarj st k c s
  | .barl st k c => Sys2Proof.Machine.execBarl st k c s
  | .bara st d k c => Sys2Proof.Machine.execBara st d k c s
  | .barw st d k c => Sys2Proof.Machine.execBarw st d k c s
  | .baraw st d k c => Sys2Proof.Machine.execBaraw st d k c s
  | .barm st d k j => Sys2Proof.Machine.execBarm st d k j s
  | .itinit st d k c => Sys2Proof.Machine.execItinit st d k c s
  | .getchunk st d k c => Sys2Proof.Machine.execGetchunk st d k c s
  | .twaitf st a c => Sys2Proof.Machine.execTwaitf st a c s
  | .twaite st a c => Sys2Proof.Machine.execTwaite st a c s
  | .tsetf st a c => Sys2Proof.Machine.execTsetf st a c s
  | .tsete st a c => Sys2Proof.Machine.execTsete st a c s
  | .br st g o => Sys2Proof.Machine.execBr st g o s
  | .bru st g o => Sys2Proof.Machine.execBru st g o s
  | .call st o => Sys2Proof.Machine.execCall st o s
  | .jmpe st e g => Sys2Proof.Machine.execJmpe st e g s
  | .calle st e g => Sys2Proof.Machine.execCalle st e g s
  | .spawn st e g => Sys2Proof.Machine.execSpawn st e g s
  | .tspawn st e g => Sys2Proof.Machine.execTspawn st e g s
  | .sende st e g => Sys2Proof.Machine.execSende st e g s
  | .jmpi st n g => Sys2Proof.Machine.execJmpi st n g s
  | .calli st n g => Sys2Proof.Machine.execCalli st n g s
  | .rete st g => Sys2Proof.Machine.execRete st g s
  | .launch st n g => Sys2Proof.Machine.execLaunch st n g s
  | .loop st l a n => Sys2Proof.Machine.execLoop st l a n s
  | .lstep st l a => Sys2Proof.Machine.execLstep st l a s
  | .xbase st a x => Sys2Proof.Machine.execXbase st a x s
  | .xcoef st j a x => Sys2Proof.Machine.execXcoef st j a x s
  | .lbrk st l n p => Sys2Proof.Machine.execLbrk st l n p s
  | .lind st l d => Sys2Proof.Machine.execLind st l d s
  | .putm st d a b g => Sys2Proof.Machine.execPutm st d a b g s
  | .getm st d b => Sys2Proof.Machine.execGetm st d b s
  | .peekm st d b => Sys2Proof.Machine.execPeekm st d b s
  | .tstm st d b => Sys2Proof.Machine.execTstm st d b s
  | .clrm st b => Sys2Proof.Machine.execClrm st b s
  | .shfl st d a b g => Sys2Proof.Machine.execShfl st d a b g s
  | .shflx st d a b g => Sys2Proof.Machine.execShflx st d a b g s
  | .bcast st d a b g => Sys2Proof.Machine.execBcast st d a b g s
  | .voteAny st d a g => Sys2Proof.Machine.execVoteAny st d a g s
  | .voteAll st d a g => Sys2Proof.Machine.execVoteAll st d a g s
  | .ballot st d a g => Sys2Proof.Machine.execBallot st d a g s
  | .redadd st d a g => Sys2Proof.Machine.execRedadd st d a g s
  | .fredadd st d a g => Sys2Proof.Machine.execFredadd st d a g s
  | .scanadd st d a g => Sys2Proof.Machine.execScanadd st d a g s
  | .laneid st d g => Sys2Proof.Machine.execLaneid st d g s
  | .actmask st d g => Sys2Proof.Machine.execActmask st d g s
  | .clrw st a g => Sys2Proof.Machine.execClrw st a g s
  | .addwf st a b g => Sys2Proof.Machine.execAddwf st a b g s
  | .addwi st a b g => Sys2Proof.Machine.execAddwi st a b g s
  | .maddw st d a b g => Sys2Proof.Machine.execMaddw st d a b g s
  | .addww st a b g => Sys2Proof.Machine.execAddww st a b g s
  | .rndw st d a g => Sys2Proof.Machine.execRndw st d a g s
  | .rndw2 st d a g => Sys2Proof.Machine.execRndw2 st d a g s
  | .bload st j n b => Sys2Proof.Machine.execBload st j n b s
  | .mzero st k a => Sys2Proof.Machine.execMzero st k a s
  | .mma st k n j => Sys2Proof.Machine.execMma st k n j s
  | .mmas st k n j => Sys2Proof.Machine.execMmas st k n j s
  | .mrd st k n => Sys2Proof.Machine.execMrd st k n s
  | .mwt st k n => Sys2Proof.Machine.execMwt st k n s
  | .mflag st d k => Sys2Proof.Machine.execMflag st d k s
  | .cpy st d a b => Sys2Proof.Machine.execCpy st d a b s
  | .cpyx st d a b => Sys2Proof.Machine.execCpyx st d a b s
  | .cpgat st d a b => Sys2Proof.Machine.execCpgat st d a b s
  | .cpmeta st a b => Sys2Proof.Machine.execCpmeta st a b s
  | .cpstop st b => Sys2Proof.Machine.execCpstop st b s
  | .cprem st d a b => Sys2Proof.Machine.execCprem st d a b s
  | .sfcall st d a b => Sys2Proof.Machine.execSfcall st d a b s
  | .gload st a b => Sys2Proof.Machine.execGload st a b s
  | .gdrop st b => Sys2Proof.Machine.execGdrop st b s
  | .dcfg st a m => Sys2Proof.Machine.execDcfg st a m s
  | .dpatch st a => Sys2Proof.Machine.execDpatch st a s
  | .dsety st a b g => Sys2Proof.Machine.execDsety st a b g s
  | .dsetr st a b g => Sys2Proof.Machine.execDsetr st a b g s
  | .dsave st a => Sys2Proof.Machine.execDsave st a s
  | .drest st a => Sys2Proof.Machine.execDrest st a s
  | .dstep st a m => Sys2Proof.Machine.execDstep st a m s
  | .dstop st m => Sys2Proof.Machine.execDstop st m s
  | .dinj st a n g => Sys2Proof.Machine.execDinj st a n g s
  | .drdo st d a k g => Sys2Proof.Machine.execDrdo st d a k g s
  | .drdy st d a g => Sys2Proof.Machine.execDrdy st d a g s
  | .epop st d e => Sys2Proof.Machine.execEpop st d e s
  | .epeek st d e => Sys2Proof.Machine.execEpeek st d e s
  | .sbwait st n c => Sys2Proof.Machine.execSbwait st n c s
  | .sbrd st d c => Sys2Proof.Machine.execSbrd st d c s
  | .repf st l c d a b => Sys2Proof.Machine.execRepf st l c d a b s
  | .csrr st d im => Sys2Proof.Machine.execCsrr st d im s
  | .csrw st a im => Sys2Proof.Machine.execCsrw st a im s
  | .csrs st a im => Sys2Proof.Machine.execCsrs st a im s
  | .csrc st a im => Sys2Proof.Machine.execCsrc st a im s
  | .sopen st d a => Sys2Proof.Machine.execSopen st d a s
  | .sput st d g => Sys2Proof.Machine.execSput st d g s
  | .sget st d p g => Sys2Proof.Machine.execSget st d p g s
  | .sclose st d g => Sys2Proof.Machine.execSclose st d g s
  | .hostAppend off vf bytes => Sys2Proof.Machine.execHostAppend off vf bytes s
  | .selection sl => Sys2Proof.Machine.execSelection sl s
  | .refusal sl => Sys2Proof.Machine.execRefusal sl s
  | .launchSlot e => Sys2Proof.Machine.execLaunchSlot e s
  | .switchSlot e => Sys2Proof.Machine.execSwitchSlot e s
  | .launchCompletion sl n => Sys2Proof.Machine.execLaunchCompletion sl n s
  | .injection sl n => Sys2Proof.Machine.execInjection sl n s
  | .injectionAck sl n q => Sys2Proof.Machine.execInjectionAck sl n q s
  | .crewPlacement sl n => Sys2Proof.Machine.execCrewPlacement sl n s
  | .packetSend gk => Sys2Proof.Machine.execPacketSend gk s
  | .trainEntry sl q => Sys2Proof.Machine.execTrainEntry sl q s
  | .ringRefill sl q => Sys2Proof.Machine.execRingRefill sl q s
  | .resend sl q => Sys2Proof.Machine.execResend sl q s
  | .ringFullNotification sl q => Sys2Proof.Machine.execRingFullNotification sl q s
  | .gangFormation sl c => Sys2Proof.Machine.execGangFormation sl c s
  | .gangwaitExpiry sl q => Sys2Proof.Machine.execGangwaitExpiry sl q s
  | .stealRequest sl c => Sys2Proof.Machine.execStealRequest sl c s
  | .stealAnswer sl c => Sys2Proof.Machine.execStealAnswer sl c s
  | .routeCacheFill sl q h => Sys2Proof.Machine.execRouteCacheFill sl q h s
  | .hotSample sl => Sys2Proof.Machine.execHotSample sl s
  | .addReplica sl obj blk => Sys2Proof.Machine.execAddReplica sl obj blk s
  | .replicaUpdate sl => Sys2Proof.Machine.execReplicaUpdate sl s
  | .removeReplica sl obj blk => Sys2Proof.Machine.execRemoveReplica sl obj blk s
  | .extentFree sl q obj blk => Sys2Proof.Machine.execExtentFree sl q obj blk s
  | .objectLoad sl slot img place => Sys2Proof.Machine.execObjectLoad sl slot img place s
  | .objectUnload sl slot => Sys2Proof.Machine.execObjectUnload sl slot s
  | .objectExtentFree sl slot => Sys2Proof.Machine.execObjectExtentFree sl slot s
  | .chunkCommit gk => Sys2Proof.Machine.execChunkCommit gk s
  | .taskCommit gk => Sys2Proof.Machine.execTaskCommit gk s
  | .farOpPerformed gk id => Sys2Proof.Machine.execFarOpPerformed gk id s
  | .farResultReturn gk id => Sys2Proof.Machine.execFarResultReturn gk id s
  | .loadComplete gk id => Sys2Proof.Machine.execLoadComplete gk id s
  | .directoryHandlerTrap sl line q => Sys2Proof.Machine.execDirectoryHandlerTrap sl line q s
  | .tlbWalk sl q va wr => Sys2Proof.Machine.execTlbWalk sl q va wr s
  | .retryCommand vf im => Sys2Proof.Machine.execRetryCommand vf im s
  | .hostClean vf pages rst => Sys2Proof.Machine.execHostClean vf pages rst s
  | .tlbinvComplete gk => Sys2Proof.Machine.execTlbinvComplete gk s
  | .hostDeviceWrite loc bytes => Sys2Proof.Machine.execHostDeviceWrite loc bytes s
  | .mailDelivery sl c => Sys2Proof.Machine.execMailDelivery sl c s
  | .gangWake gk => Sys2Proof.Machine.execGangWake gk s
  | .streamFlit sl q => Sys2Proof.Machine.execStreamFlit sl q s
  | .token sl q => Sys2Proof.Machine.execToken sl q s
  | .tokenTimer sl q => Sys2Proof.Machine.execTokenTimer sl q s
  | .streamAudit sl q => Sys2Proof.Machine.execStreamAudit sl q s
  | .sopenTimeout sl q => Sys2Proof.Machine.execSopenTimeout sl q s
  | .sopenRetry sl q => Sys2Proof.Machine.execSopenRetry sl q s
  | .deadlockDetect bufs => Sys2Proof.Machine.execDeadlockDetect bufs s
  | .recoveryStep im => Sys2Proof.Machine.execRecoveryStep im s
  | .routingLoop im => Sys2Proof.Machine.execRoutingLoop im s
  | .partitionDrain p on => Sys2Proof.Machine.execPartitionDrain p on s
  | .routeTableWrite site dest p v => Sys2Proof.Machine.execRouteTableWrite site dest p v s
  | .recordEnters gk e => Sys2Proof.Machine.execRecordEnters gk e s
  | .copyTransferEnd sl c ch => Sys2Proof.Machine.execCopyTransferEnd sl c ch s
  | .engineFaultTaken gk => Sys2Proof.Machine.execEngineFaultTaken gk s
  | .mxCommandStart sl clus => Sys2Proof.Machine.execMxCommandStart sl clus s
  | .mxCommandComplete sl clus => Sys2Proof.Machine.execMxCommandComplete sl clus s
  | .madderStep sl c => Sys2Proof.Machine.execMadderStep sl c s
  | .madderCommand sl c => Sys2Proof.Machine.execMadderCommand sl c s
  | .dsaveWritten sl c => Sys2Proof.Machine.execDsaveWritten sl c s
  | .fabricFiring f => Sys2Proof.Machine.execFabricFiring f s
  | .gloadComplete sl c => Sys2Proof.Machine.execGloadComplete sl c s
  | .contextCreate sl cx vf desc place => Sys2Proof.Machine.execContextCreate sl cx vf desc place s
  | .softRequest sl cx => Sys2Proof.Machine.execSoftRequest sl cx s
  | .hardRequest sl cx => Sys2Proof.Machine.execHardRequest sl cx s
  | .graceExpiry sl => Sys2Proof.Machine.execGraceExpiry sl s
  | .haltComplete sl => Sys2Proof.Machine.execHaltComplete sl s
  | .killTimerExpiry sl => Sys2Proof.Machine.execKillTimerExpiry sl s
  | .killCommand sl cx => Sys2Proof.Machine.execKillCommand sl cx s
  | .imageSaveComplete sl ok => Sys2Proof.Machine.execImageSaveComplete sl ok s
  | .scrubComplete sl failed clus => Sys2Proof.Machine.execScrubComplete sl failed clus s
  | .tokenStart sl => Sys2Proof.Machine.execTokenStart sl s
  | .tokenWritten sl => Sys2Proof.Machine.execTokenWritten sl s
  | .restoreComplete sl => Sys2Proof.Machine.execRestoreComplete sl s
  | .rescrubCommand sl => Sys2Proof.Machine.execRescrubCommand sl s
  | .collectivePost u vf sl parts steps => Sys2Proof.Machine.execCollectivePost u vf sl parts steps s
  | .collectiveResume u steps => Sys2Proof.Machine.execCollectiveResume u steps s
  | .exchangeTimeout u => Sys2Proof.Machine.execExchangeTimeout u s
  | .participantTimeout u => Sys2Proof.Machine.execParticipantTimeout u s
  | .sessionKeyAgreement sl cx sess => Sys2Proof.Machine.execSessionKeyAgreement sl cx sess s
  | .sessionRecord sess num fromHost tagOk => Sys2Proof.Machine.execSessionRecord sess num fromHost tagOk s
  | .attestationQuote sl cx nonce => Sys2Proof.Machine.execAttestationQuote sl cx nonce s
  | .flitCrcFail link => Sys2Proof.Machine.execFlitCrcFail link s
  | .fjoadLaneLost lane => Sys2Proof.Machine.execFjoadLaneLost lane s
  | .portDown port => Sys2Proof.Machine.execPortDown port s
  | .accessTimeout gk id => Sys2Proof.Machine.execAccessTimeout gk id s
  | .timeSourceFail => Sys2Proof.Machine.execTimeSourceFail s
  | .sourceChange => Sys2Proof.Machine.execSourceChange s
  | .dtcStep err => Sys2Proof.Machine.execDtcStep err s
  | .queueRecordWrite q ring ldep vf ctx en => Sys2Proof.Machine.execQueueRecordWrite q ring ldep vf ctx en s
  | .haltRequest sl cx => Sys2Proof.Machine.execHaltRequest sl cx s
  | .haltDone sl cx => Sys2Proof.Machine.execHaltDone sl cx s
  | .resume sl cx => Sys2Proof.Machine.execResume sl cx s
  | .debugRegisterWrite gk lane reg v => Sys2Proof.Machine.execDebugRegisterWrite gk lane reg v s
  | .powerInterval mw => Sys2Proof.Machine.execPowerInterval mw s
  | .pwrlimWrite w => Sys2Proof.Machine.execPwrlimWrite w s
  | .thermalEvent die temp => Sys2Proof.Machine.execThermalEvent die temp s
  | .thermalTrip die => Sys2Proof.Machine.execThermalTrip die s
  | .lifeEstimate die p10 est => Sys2Proof.Machine.execLifeEstimate die p10 est s
  | .eolalrWrite die warn crit => Sys2Proof.Machine.execEolalrWrite die warn crit s
  | .eolstsClear die warn crit => Sys2Proof.Machine.execEolstsClear die warn crit s
  | .correctedError die hbm => Sys2Proof.Machine.execCorrectedError die hbm s
  | .uncorrectedError die sl site => Sys2Proof.Machine.execUncorrectedError die sl site s
  | .powerOn fail => Sys2Proof.Machine.execPowerOn fail s
  | .mgmtRegisterWrite reg v => Sys2Proof.Machine.execMgmtRegisterWrite reg v s
  | .accwUpdateDone sl c => Sys2Proof.Machine.execAccwUpdateDone sl c s
  | .fixedLatencyWrite gk id => Sys2Proof.Machine.execFixedLatencyWrite gk id s
  | .madderReadDone sl c => Sys2Proof.Machine.execMadderReadDone sl c s
  | .peerAcknowledgement pa n => Sys2Proof.Machine.execPeerAcknowledgement pa n s
  | .peerAccess port loc wr => Sys2Proof.Machine.execPeerAccess port loc wr s
  | .collectiveContribution u part step vals => Sys2Proof.Machine.execCollectiveContribution u part step vals s
  | .timeSourceInput src err => Sys2Proof.Machine.execTimeSourceInput src err s
  | .timeSourceRecovery src err => Sys2Proof.Machine.execTimeSourceRecovery src err s
  | .remapTableWrite sl sites => Sys2Proof.Machine.execRemapTableWrite sl sites s
  | .contextRetire sl cx => Sys2Proof.Machine.execContextRetire sl cx s
  | .drbgErrorState on => Sys2Proof.Machine.execDrbgErrorState on s
  | .powerLoss => Sys2Proof.Machine.execPowerLoss s

end Sys2Proof.Machine
end

