-- ==== Sys2Proof/Machine/Issue.lean ====
section
/-!
DEFINITION. One issue of a gang: which gang a core issues from, when, the checks of a word in their order, and the call of its
meaning (03:R83, 08:R213, R215, R218, 20:R418).
-/

namespace Sys2Proof.Machine

/-! ## Which gang issues (03:R83) -/

/-- The gang may issue once its time comes: it holds a slot, does not wait, and is not stopped. -/
def Gang.canIssue (g : Gang) : Bool := g.live && g.wait.isNone && !g.stopped

/-- Whether one gang of a core comes before another: it became ready earlier, it has not yielded, or round robin (03:R83). -/
def issueBefore (last : Nat) (x y : Nat × Gang) : Bool :=
  if x.2.readyAt ≠ y.2.readyAt then decide (x.2.readyAt < y.2.readyAt)
  else if x.2.yielded ≠ y.2.yielded then y.2.yielded
  else decide ((x.1 + 3 - last) % 4 < (y.1 + 3 - last) % 4)

/-- The gang slot that a core issues from next. -/
def State.pickSlot (s : State) (ck : Nat) : Option Nat :=
  if !s.mayRun (slOfCk ck) then none
  else
  let last := (s.core ck).lastIssued % 4
  let c := ([0, 1, 2, 3].map (fun k => (k, s.gang (gkOf ck k)))).filter (fun e => e.2.canIssue)
  (c.foldl (fun m e => match m with
    | none => some e
    | some x => if issueBefore last e x then some e else some x) none).map (fun e => e.1)

/-- The cycle its next issue falls in: no earlier than its stall count, the core's last issue, now and the gate allow (08:R213,
24:R470). -/
def State.issueAt (s : State) (gk : Nat) : Nat :=
  s.gated (max s.now (max (s.gang gk).readyAt (s.core (ckOfGk gk)).nextIssue))

/-! ## The checks before a word's own (20:R418) -/

/-- A loop word that reads no register: `lbrk` on a level that is inactive or held has no effect at all, and `loop` on an active level traps
before its trip count is read (09:R253, 20:R425). -/
def Regs.readsNone (r : Regs) (w : W32) : Bool :=
  let lv := r.level (nbits w.toNat 22 2)
  fOp w == 0x10 && ((nbits w.toNat 14 3 == 4 && (!lv.active || lv.held != 0)) || (nbits w.toNat 14 3 == 0 && lv.active))

/-- The lanes whose `w26` a word reads as it slides their windows: `call` in those that spill, `ret` and `eret` in those that fill
(03:R75, 18:R391). -/
def Regs.slideReads (r : Regs) (w : W32) : List Operand :=
  let on (ls : List Nat) (p : Nat → Bool) : List Operand :=
    let ls := ls.filter p
    if ls.isEmpty then [] else [opW (.these ls) 26]
  let back (ls : List Nat) : List Operand := on ls (fun l => ((r.lane l).retSlide l).fill.isSome)
  if fOp w = 0x0e ∧ nbits w.toNat 18 2 = 2 then on r.active (fun l => !((r.lane l).callSlide l).spills.isEmpty)
  else if fOp w = 0 ∧ fFn w = 8 then back r.active
  else if fOp w = 0 ∧ fFn w = 6 ∧ r.tr.tlvl ≠ 0 then
    back (lanesOf (BitVec.ofNat 32 ((r.tr.tmk r.tr.tlvl).toNat / 2 ^ 32) &&& r.thr))
  else []

/-- The registers a word reads, for the checking scoreboard (08:R218). -/
def State.readsOf (s : State) (w : W32) : List Operand :=
  if s.regs.readsNone w then [] else (operandsOf w).rd ++ s.regs.slideReads w ++ s.xferReads w

/-- `sbchk` is on and the word reads a register whose write is outstanding (08:R218). -/
def State.shortStall (s : State) (w : W32) : Bool :=
  s.regs.sbchk && !((s.gang s.cur).outstanding w (s.readsOf w)).isEmpty

/-- A captured word must be of a major that a repeat frame may hold (09:R255, 20:R425). -/
def State.badCapture (s : State) (w : W32) : Bool :=
  s.regs.rep.isSome && !([0x01, 0x02, 0x03, 0x05, 0x07, 0x08].contains (fOp w))

/-- Words that access memory or send something: those wait while a pop or an acquire has not returned (06:R165, R169). -/
def accesses (w : W32) : Bool :=
  let op := fOp w
  (0x09 ≤ op && op ≤ 0x0f) || op == 0x11 || (0x13 ≤ op && op ≤ 0x17) || op == 0x1b || (op == 0x00 && 5 < fFn w)

/-- A pop's record has not been written, or an acquire's values have not returned. -/
def Gang.acquiring (g : Gang) : Bool :=
  g.pend.any (fun p => p.acq) || g.far.any (fun o => (o.use == 5 || o.use == 7) && o.pid.isSome)

/-- The cycle by which every fixed-latency write of some has landed, from now on. -/
def landedBy (now : Nat) (ps : List PendWrite) : Nat :=
  ps.foldl (fun m p => match p.land with
    | some t => if m < t then t else m
    | none => m) now

/-- Performs a legal word of the gang in focus whose other checks have passed: it is held while a write of its destination is
outstanding (08:R215), or while it may not be performed yet; otherwise it has its meaning. -/
def State.perform (s : State) (w : W32) (i : Instr) : Outcome :=
  let ps := (s.gang s.cur).writing (operandsOf w).wr
  if ps.any (fun p => p.land == none) then .next (s.waitFor .counter)
  else if s.now < landedBy s.now ps then .next (s.holdTill (landedBy s.now ps))
  else if accesses w && (s.gang s.cur).acquiring then .next (s.waitFor .farDrain)
  else Sys2Proof.Machine.exec i s

/-- The checks of the next word of the gang in focus, in the order of 20:R418; what has been found already is taken first (18:R388). The
chunk is open. -/
noncomputable def State.issueWordNow (s : State) : Outcome :=
  let g := s.gang s.cur
  let r := g.r
  if g.trapDue.isSome then .next s.takeDue
  else if !g.efaults.isEmpty && r.tr.tlvl == 0 then .next s.takeFault
  else if !r.inBlock (r.pc : Int) then
    .next (s.trapWith (s.wordAt s.cur (r.blk.start + r.blk.len - 1)) r.pc 0x02 r.act 0#64)
  else
    let w := s.word
    match decodeWord w with
    | .error _ => .next (s.trapAll 0x01)
    | .ok i =>
      if s.shortStall w then .next (s.trapAll 0x03)
      else if s.badCapture w then .next (s.trapAll 0x02)
      else s.perform w i

/-- A chunk of 512 words commits before the next word (06:R148); then a chunk is open. -/
def State.enterChunk (s : State) (k : State → Outcome) : Outcome :=
  let g := s.gang s.cur
  let go (s : State) : Outcome := k (s.modGang s.cur (fun g => g.openChunk s.fresh))
  if g.ch.count < 512 then go s
  else if g.spec then .next (s.taskToLow s.cur)
  else if s.commitBlocked s.cur then .next (s.waitFor .grant)
  else go (s.commitNow s.cur)

/-- Time passes to the cycle of a gang's next issue, the writes due by then land, and the gang is in focus. -/
def State.toIssue (s : State) (gk : Nat) : State :=
  let c := s.issueAt gk
  (({ s with cur := gk }).pass (c - s.now)).modGang gk (fun g => g.landDue c)

/-- One issue of a gang, unless what happened until then keeps it from issuing. -/
noncomputable def State.issue (s : State) (gk : Nat) : Outcome :=
  let t := s.toIssue gk
  if t.mayRun (slOfGk gk) && (t.gang gk).canIssue then t.enterChunk State.issueWordNow else .next t

end Sys2Proof.Machine
end

