-- ==== Sys2Proof/Machine/Step.lean ====
section
/-!
DEFINITION. One step of the package: the agent that the agenda names, else the core of the gang in focus, else what that gang waits
for (log 1, log 9); and the placing of one word where the next step fetches it.
-/

namespace Sys2Proof.Machine

/-- The gang may issue now and is the one its core issues from (03:R83). -/
def State.mayIssue (s : State) (gk : Nat) : Bool :=
  (s.gang gk).canIssue && s.pickSlot (ckOfGk gk) == some (slotOfGk gk)

/-- One choice of the agenda. A word is no event; an agent that cannot act leaves the machine as it is (log 12). -/
noncomputable def State.choose (s : State) : Choice → Outcome
  | .event i => if (encode i).isNone then Sys2Proof.Machine.exec i s else .next s
  | .issue gk => if s.mayIssue gk then s.issue gk else .next s
  | .sector ck ch => .next (s.cpSector ck ch)
  | .tick n => .next (s.pass n)

/-- A word issued again would not wait again for the same reason. -/
noncomputable def State.wakes (s : State) (gk : Nat) : Bool :=
  match execGangWake gk s with
  | .next t =>
    (t.gang gk).wait.isNone &&
      (match t.issue gk with
       | .next u => (u.gang gk).wait != (s.gang gk).wait || (u.gang gk).prog != (s.gang gk).prog
       | _ => true)
  | _ => false

/-- A variable-latency write whose values are present. -/
def Gang.readyWrite (g : Gang) : Option Nat := (g.pend.find? (fun w => w.land == none && w.ready)).map (fun w => w.id)

/-- What happens for a gang that does not issue: its core's array steps, a load completes, a far operation is performed or
returns, it wakes, or a cycle passes. -/
noncomputable def State.idle (s : State) : Outcome :=
  let gk := s.cur
  let ck := ckOfGk gk
  let g := s.gang gk
  if ((s.core ck).mad.dueAt).any (fun t => decide (t ≤ s.now)) && !s.frozen (slOfCk ck) then execMadderStep (slOfCk ck) (coreOfCk ck) s
  else
    match g.readyWrite with
    | some i => execLoadComplete gk i s
    | none =>
      match g.far.find? (fun o => !o.perf), g.far.find? (fun o => o.perf && (o.pid.isSome || o.logAt.isSome)) with
      | some o, _ => execFarOpPerformed gk o.id s
      | none, some o => execFarResultReturn gk o.id s
      | none, none => if s.wakes gk then execGangWake gk s else .next (s.pass 1)

/-- One step. Without power only a power-on goes on (24:R471, R472). -/
noncomputable def step (s : State) : Host.Outcome State Fault Refusal :=
  let powerOn := match s.agenda with
    | .event (.powerOn _) :: _ => true
    | _ => false
  if s.power.on = false ∧ powerOn = false then .fault .noPower
  else
    match s.agenda with
    | c :: t => ({ s with agenda := t } : State).choose c
    | [] =>
      match s.pickSlot (ckOfGk s.cur) with
      | some k => s.issue (gkOf (ckOfGk s.cur) k)
      | none => s.idle

/-! ## Placing one word (log 9) -/

/-- A gang that issues at once: no wait, no repeat frame, nothing outstanding or recorded, at trap level 0 with one lane at
least, and its word in its block. -/
def Gang.forFetch (g : Gang) : Gang :=
  let act := if g.r.act = 0#32 then 1#32 else g.r.act
  { g with
    live := true, wait := none, stopped := false, readyAt := 0, yielded := false, pend := [], efaults := [], trapDue := none, aw := none
    prog := 0
    ch := if 512 ≤ g.ch.count then {} else g.ch
    r := { g.r with act := act, thr := g.r.thr ||| act, rep := none, sbchk := false
                    blk := if g.r.inBlock (g.r.pc : Int) then g.r.blk else { start := g.r.pc, len := 1 } } }

/-- `s` with the instruction of `nbits` bits `w` at the word that the gang in focus issues next, and that gang the next to act. -/
def State.withFetchWord (s : State) (nbits w : Nat) : State :=
  let gk := s.cur
  let ck := ckOfGk gk
  let pc := (s.gang gk).r.pc
  let others (e : Nat × Gang) : Nat × Gang :=
    if ckOfGk e.1 == ck && e.1 != gk then (e.1, { e.2 with stopped := true }) else e
  let s := { s with agenda := [], power := { s.power with on := true }, gangs := s.gangs.map others }
  let s := s.modCtx (s.gangCx gk) (fun c => { c with dbg := { c.dbg with hreq := false } })
  let s := s.modSlice (slOfGk gk) (fun x => { x with sw := { x.sw with step := .idle, tokenWait := false, rescrub := false } })
  let s := s.modGang gk Gang.forFetch
  s.modQuad (qkOfGk gk) (fun q => { q with code := tput q.code pc (BitVec.ofNat 32 (w % 2 ^ nbits)) })

end Sys2Proof.Machine
end

