-- ==== Sys2Proof/Machine/Layout.lean ====
section
/-!
DEFINITION. What the management space presents: the bytes of its records, logs and registers (07:R187, R191, 14:R370, 18:R394, R398, 19:R406,
R417, 20:R423, 21:R437, R439, R449, R452, 24:R466 to R472). Nothing here changes the machine.
-/

namespace Sys2Proof.Machine

/-- n zero bytes. -/
def zeroBytes (n : Nat) : List Byte := List.replicate n 0#8

/-- A bit of a register as a number. -/
def bitAt (b : Bool) (n : Nat) : Nat := if b then 2 ^ n else 0

/-! ## Queues and the time-triggered table -/

/-- The 32-byte record of a work queue (07:R187). -/
def WorkQueue.bytes (q : WorkQueue) : List Byte :=
  leBytes 8 q.ring ++ leBytes 1 q.ldep ++ leBytes 1 q.vf ++ leBytes 1 q.ctx ++ leBytes 1 (bitAt q.en 0) ++ leBytes 2 q.head ++
    leBytes 2 q.tail ++ zeroBytes 16

/-- The 32 bytes of a time-triggered entry (07:R191). -/
def TabEntry.bytes (t : TabEntry) : List Byte :=
  leBytes 8 t.period ++ leBytes 8 t.offset ++ leBytes 8 t.target ++ leBytes 2 t.ctl ++ leBytes 1 t.slice ++ leBytes 1 t.vf ++
    leBytes 4 t.skips.toNat

/-! ## Logs -/

/-- The 64-byte kill record (18:R394). -/
def KillRec.bytes (k : KillRec) : List Byte :=
  leBytes 8 k.dtc.toNat ++ leBytes 1 k.slice ++ leBytes 1 k.ctx ++ leBytes 1 k.cause ++ leBytes 1 k.last ++ leBytes 4 k.core ++
    leBytes 1 k.gslot ++ zeroBytes 7 ++ leBytes 8 k.tc.toNat ++ leBytes 8 k.tpc.toNat ++ leBytes 8 k.tmk.toNat ++ leBytes 8 k.tva.toNat ++
    zeroBytes 8

/-- The kill log of a slice. -/
def State.killLog (s : State) (sl : Nat) : List Byte := (s.mgmt.kills.filter (fun k => k.slice == sl)).flatMap KillRec.bytes

/-- A 32-byte record of the device event log (21:R437). -/
def EventRec.bytes (e : EventRec) : List Byte :=
  leBytes 8 e.dtc.toNat ++ leBytes 2 e.kind ++ leBytes 1 e.slice ++ leBytes 1 e.ctx ++ leBytes 1 e.vf ++ zeroBytes 3 ++ leBytes 8 e.detail ++
    leBytes 8 e.value

/-- The device event log: its wrap count and its records, the oldest first. -/
def State.eventLog (s : State) : List Byte := leBytes 8 s.mgmt.wraps ++ s.mgmt.events.flatMap EventRec.bytes

/-- A 32-byte record of a context's engine-fault log (20:R423). -/
def EngLog.bytes (e : EngLog) : List Byte :=
  leBytes 8 e.dtc.toNat ++ leBytes 4 e.word.toNat ++ leBytes 2 e.status ++ leBytes 1 e.lost ++ leBytes 1 e.gslot ++ leBytes 4 e.core ++
    leBytes 2 e.launch ++ zeroBytes 2 ++ leBytes 8 e.va.toNat

/-- The engine-fault log: its overflow count and its records. -/
def Ctx.engineLog (c : Ctx) : List Byte := leBytes 8 c.englogLost ++ c.englog.flatMap EngLog.bytes

/-- The 32-byte stage-2 fault record of a function (19:R406). -/
def S2Rec.bytes (r : S2Rec) (vf : Nat) : List Byte :=
  leBytes 8 r.ipa ++ leBytes 8 r.va.toNat ++ leBytes 8 r.dtc.toNat ++ leBytes 1 vf ++ leBytes 1 r.ctx ++ leBytes 2 r.kind ++ leBytes 2 r.core ++
    leBytes 1 r.gslot ++ zeroBytes 1

/-- The dirty log of a function: its status word, then its entries of 8 bytes (14:R370, 21:R449). -/
def Vf.dirtyBytes (v : Vf) : List Byte :=
  leBytes 8 (bitAt v.dovf 31 + v.dlog.length) ++ v.dlog.flatMap (fun p => leBytes 8 (p * 65536 + 1))

/-! ## Counters and status -/

/-- The event counters of a slice (19:R417). -/
def Counters.bytes (c : Counters) : List Byte :=
  [c.squash, c.sole, c.tabort, c.s2flt, c.refuse, c.meshrec, c.loop, c.audit].flatMap (leBytes 8)

/-- The append-error counters of a function (21:R439). -/
def Vf.appendErrors (v : Vf) : List Byte := [v.full, v.dis, v.frgn, v.part].flatMap (leBytes 8)

/-- The 16-byte status of a posted collective (21:R452). -/
def Collective.status (c : Collective) : List Byte := leBytes 8 c.step ++ leBytes 2 c.state ++ zeroBytes 6

/-- The debug control word (18:R398). -/
def DebugCtl.word (d : DebugCtl) : Nat := bitAt d.frz 3 + bitAt d.hreq 2 + bitAt d.hlt 1 + bitAt d.bpen 0

/-! ## Health and power registers (24:R466 to R472) -/

/-- The health counters of a die. -/
def Die.counters (d : Die) : List Byte := [d.sramce, d.hbmce, d.ue, d.mxrx].flatMap (leBytes 8)

/-- `eolrem`, `eolalr` and `eolsts` of a die. -/
def Die.eolrem (d : Die) : Nat := d.p10 * 2 ^ 32 + d.est
def Die.eolalr (d : Die) : Nat := d.warnAt * 2 ^ 32 + d.critAt
def Die.eolsts (d : Die) : Nat := bitAt d.crit 2 + bitAt d.warn 1 + bitAt d.valid 0

/-- `pwrlim`, `pwrmes` and `bootst` of the package. -/
def Power.pwrlim (p : Power) : Nat := p.limit
def Power.pwrmes (p : Power) : Nat := p.gate * 2 ^ 16 + p.watts % 2 ^ 12
def Power.bootst (p : Power) : Nat := p.err * 2 ^ 8 + bitAt p.trip 7 + p.step

end Sys2Proof.Machine
end

