-- ==== Sys2Proof/Safety/Numbers.lean ====
section
/-!
DEFINITION. The numbers that floating results are judged by: exact rationals, the value of a bit pattern, and rounding over the
rationals as 05:R132 writes it.
-/

namespace Sys2Proof.Machine

/-- The rational a finite pattern stands for. -/
def FVal.val : FVal → ℚ
  | .fin neg m e => (if neg then -1 else 1) * m * 2 ^ e
  | _ => 0

/-- It is a number, neither infinite nor a NaN. -/
def FVal.isFin : FVal → Bool
  | .fin _ _ _ => true
  | _ => false

/-- The parameters of 05:R128: significand bits, the least and the greatest exponent, maxfin, the canonical NaN, and the width. -/
structure Params where
  p : Nat
  emin : Int
  maxfin : ℚ
  nan : Nat
  width : Nat

def params : Nat → Params
  | 0 => ⟨24, -126, (2 - 2 ^ (-23 : Int)) * 2 ^ 127, 0x7fc0_0000, 32⟩
  | 1 => ⟨8, -126, (2 - 2 ^ (-7 : Int)) * 2 ^ 127, 0x7fc0, 16⟩
  | 2 => ⟨11, -14, 65504, 0x7e00, 16⟩
  | 3 => ⟨4, -6, 448, 0x7f, 8⟩
  | _ => ⟨3, -14, 57344, 0x7e, 8⟩

/-- `round_int` of a rational q of at least 0, `neg` the sign of x: modes 0 to 4 are RNE, RTZ, RUP, RDN and RNA (05:R130, R132). -/
def roundRat (m : Nat) (neg : Bool) (q : ℚ) : Int :=
  match m with
  | 0 => if q - ⌊q⌋ < 1 / 2 then ⌊q⌋ else if 1 / 2 < q - ⌊q⌋ then ⌊q⌋ + 1 else if ⌊q⌋ % 2 = 0 then ⌊q⌋ else ⌊q⌋ + 1
  | 1 => ⌊q⌋
  | 2 => if neg then ⌊q⌋ else ⌈q⌉
  | 3 => if neg then ⌈q⌉ else ⌊q⌋
  | _ => ⌊q + 1 / 2⌋

/-- The set of flags with the bits given. -/
def flagsOf (invalid divzero overflow underflow inexact : Prop) [Decidable invalid] [Decidable divzero] [Decidable overflow]
    [Decidable underflow] [Decidable inexact] : Flags5 :=
  (if invalid then 16#5 else 0#5) ||| (if divzero then 8#5 else 0#5) ||| (if overflow then 4#5 else 0#5) |||
    (if underflow then 2#5 else 0#5) ||| (if inexact then 1#5 else 0#5)

/-- The exponent, the rounded integer and the magnitude of `round_frm` of a rational of magnitude x > 0 (05:R132). -/
def expOf (f : Nat) (x : ℚ) : Int := max (Int.log 2 x) (params f).emin
def quoOf (f : Nat) (x : ℚ) : ℚ := x * 2 ^ ((params f).p - 1 - expOf f x : Int)
def magOf (f m : Nat) (neg : Bool) (x : ℚ) : ℚ := roundRat m neg (quoOf f x) * 2 ^ (expOf f x - (params f).p + 1 : Int)

/-- A magnitude beyond maxfin becomes maxfin instead of infinity (05:R132). -/
def toMax (m : Nat) (sat neg : Bool) : Bool := sat || decide (m = 1) || (neg && decide (m = 2)) || (!neg && decide (m = 3))

/-- The pattern r of format f is the number of magnitude v with the sign given. -/
def Encodes (f r : Nat) (neg : Bool) (v : ℚ) : Prop :=
  r < 2 ^ (params f).width ∧ (unpack f r).isFin = true ∧ (unpack f r).sign = neg ∧ (unpack f r).val = (if neg then -v else v)

/-- `round_frm` of a rational in F32, with the sign bit of a zero given (05:R132). -/
def round32 (m : Nat) (neg : Bool) (x : ℚ) : Nat × Flags5 := roundFrm 0 m false neg x.num.natAbs x.den

/-- r is the positive number x, with the sign given, rounded once into F32 (05:R146): a rational x as `round32` rounds it, and an irrational
one as `round32` rounds the rationals around it, as soon as it gives the same for two of them, one on each side and further from x than the
part eps of it. With eps = 0 this settles r for every x. -/
def Rounds32 (m : Nat) (neg : Bool) (eps : ℚ) (x : ℝ) (r : Nat × Flags5) : Prop :=
  (∀ q : ℚ, (q : ℝ) = x → r = round32 m neg q) ∧
  (Irrational x → ∀ lo hi : ℚ, 0 < lo → (lo : ℝ) < (1 - eps) * x → (1 + eps) * x < hi → round32 m neg lo = round32 m neg hi → r = round32 m neg lo)

/-- The rounded sum of two numbers; `sx` and `sy` are the signs of the summands, and decide for two zeros of equal sign (11:R288). -/
def sum32 (m : Nat) (sx sy : Bool) (x y : ℚ) : Nat × Flags5 :=
  if x + y = 0 then (if (if x = 0 ∧ sx = sy then sx else decide (m = 3)) then 2 ^ 31 else 0, 0#5)
  else round32 m (decide (x + y < 0)) (x + y)

/-- Order of two patterns that are not NaN, as F32 values. -/
def below : FVal → FVal → Prop
  | .inf true, .inf true => False
  | .inf true, _ => True
  | _, .inf true => False
  | .inf false, _ => False
  | _, .inf false => True
  | x, y => x.val < y.val

end Sys2Proof.Machine
end

