-- ==== Sys2Proof/Safety.lean ====
section
/-!
DEFINITION. The terms that statements about the machine are written in: what an instruction writes, what it leaves alone, and the states
that runs keep to.
-/

namespace Sys2Proof.Machine

/-- Memory is in its canonical form: locations rise strictly, and no entry reads as an unlisted byte does. -/
def State.MemOk (s : State) : Prop := Memory.wf s.mem = true

/-! ## Registers as they are once results in flight have landed -/

/-- The registers of a gang once its fixed-latency writes in flight have landed, in issue order (08:R213). -/
def Gang.view (g : Gang) : Regs :=
  (g.pend.filter (fun w => w.land.isSome)).foldl (fun r w => r.landAll w.dst w.vals) g.r

/-- `wn` and `pn` of a lane of the gang in focus, seen so. -/
def State.W (s : State) (l n : Nat) : Word := (s.gang s.cur).view.rdW l n
def State.P (s : State) (l n : Nat) : Bool := (s.gang s.cur).view.rdP l n

/-- No write in flight of the gang in focus names `wd`, or `pd`: the condition under which a word that writes it issues (08:R215). -/
def State.freeW (s : State) (d : Nat) : Prop :=
  ∀ w ∈ (s.gang s.cur).pend, ∀ e ∈ w.dst, (s.regs.lane e.1).destW d ≠ some e.2

def State.freeP (s : State) (d : Nat) : Prop := ∀ w ∈ (s.gang s.cur).pend, ∀ e ∈ w.dst, destP d ≠ some e.2

/-- The word to issue is not the 512th of its chunk, which ends it (06:R148). -/
def State.early (s : State) : Prop := (s.gang s.cur).ch.count < 511

/-! ## What stays -/

/-- A lane without its stack entries, `w26` to `w30`, predicates and flags. -/
def Lane.still (l : Lane) : Lane := { l with ent := [], hi := [], p := 0#8, fflags := 0#5 }

/-- A gang's registers without the lanes and what says which word comes next. -/
def Regs.still (r : Regs) : Regs := { r with lanes := [], pc := 0, loops := [], rep := none }

/-- A gang without its registers, its writes in flight, and what every issue sets. -/
def Gang.still (g : Gang) : Gang :=
  { g with r := {}, pend := [], readyAt := 0, yielded := false, wait := none, prog := 0, aw := none, sent := [], ch := { g.ch with count := 0 } }

/-- The machine without the gang in focus, and without what an issue notes in its core and in the counter of free values. -/
def State.still (s : State) : State :=
  { s with
    gangs := tput s.gangs s.cur {}, fresh := 0
    cores := tput s.cores (ckOfGk s.cur) { s.core (ckOfGk s.cur) with nextIssue := 0, lastIssued := 0 } }

/-- The gang in focus has issued a word and continues at the state `r` gives: everything but its lane registers, flags and writes in
flight is as before. `fl` are flags that lanes raise. -/
structure Goes (s t : State) (st : BitVec 3) (r : Regs) (fl : Nat → Flags5) : Prop where
  outside : t.still = s.still
  gang : (t.gang s.cur).still = (s.gang s.cur).still
  regs : t.regs.still = s.regs.still
  pc : t.regs.pc = r.pc
  loops : t.regs.loops = r.loops
  rep : t.regs.rep = r.rep
  lanes : ∀ l, (t.regs.lane l).still = (s.regs.lane l).still
  flags : ∀ l, (t.regs.lane l).fflags = (s.regs.lane l).fflags ||| fl l
  counted : (t.gang s.cur).ch.count = (s.gang s.cur).ch.count + 1
  stall : (t.gang s.cur).readyAt = s.now + 1 + st.toNat
  slow : (t.gang s.cur).pend.filter (fun w => w.land.isNone) = (s.gang s.cur).pend.filter (fun w => w.land.isNone)

/-- No flags. -/
def noFlags : Nat → Flags5 := fun _ => 0#5

/-- The machine answers a next state in which the word has gone on, `w` registers hold what `fw` gives them, predicates what `fp` gives
them, and every other register keeps its value. -/
def Results (i : Instr) (s : State) (st : BitVec 3) (fl : Nat → Flags5) (fw : Nat → Nat → Option Word) (fp : Nat → Nat → Option Bool) :
    Prop :=
  ∃ t, exec i s = .next t ∧ Goes s t st s.regs.next fl ∧
    (∀ l n, n < 32 → t.W l n = (fw l n).getD (s.W l n)) ∧ (∀ l n, n < 8 → t.P l n = (fp l n).getD (s.P l n))

/-- `wd` of some lanes gets a value; a write of `w24`, `w25` or `w31` is ignored (08:R207). -/
def intoW (d : Nat) (lanes : List Nat) (v : Nat → Word) (l n : Nat) : Option Word :=
  if n = d ∧ n ≠ 24 ∧ n ≠ 25 ∧ n ≠ 31 ∧ l ∈ lanes then some (v l) else none

/-- `pd` of some lanes gets a value; a write of `p0` is ignored (08:R207). -/
def intoP (d : Nat) (lanes : List Nat) (v : Nat → Bool) (l n : Nat) : Option Bool :=
  if n = d ∧ n ≠ 0 ∧ l ∈ lanes then some (v l) else none

def keepW : Nat → Nat → Option Word := fun _ _ => none
def keepP : Nat → Nat → Option Bool := fun _ _ => none

/-- A word writes `wd` of some lanes and does nothing else. -/
def WritesW (i : Instr) (s : State) (st : BitVec 3) (d : Nat) (lanes : List Nat) (v : Nat → Word) : Prop :=
  Results i s st noFlags (intoW d lanes v) keepP

/-- A word writes `pd` of some lanes and does nothing else. -/
def WritesP (i : Instr) (s : State) (st : BitVec 3) (d : Nat) (lanes : List Nat) (v : Nat → Bool) : Prop :=
  Results i s st noFlags keepW (intoP d lanes v)

/-- A form-A word writes `wd` of each selected lane with a function of `wa` and `wb`. -/
def Bin (s : State) (i : Instr) (st : BitVec 3) (d a b : BitVec 5) (g : BitVec 4) (f : Word → Word → Word) : Prop :=
  WritesW i s st d.toNat (s.regs.selected g) (fun l => f (s.regs.rdW l a.toNat) (s.regs.rdW l b.toNat))

/-- The same, with a function of `wa` alone. -/
def Una (s : State) (i : Instr) (st : BitVec 3) (d a : BitVec 5) (g : BitVec 4) (f : Word → Word) : Prop :=
  WritesW i s st d.toNat (s.regs.selected g) (fun l => f (s.regs.rdW l a.toNat))

/-- An integer limited to the signed range of n bits. -/
def clampS (n : Nat) (x : Int) : BitVec n := BitVec.ofInt n (max (-(2 ^ (n - 1))) (min (2 ^ (n - 1) - 1) x))

/-- A 32-bit operation on the low halves, sign-extended. -/
def half (f : W32 → W32 → W32) (x y : Word) : Word := (f (x.setWidth 32) (y.setWidth 32)).signExtend 64
def half1 (f : W32 → W32) (x : Word) : Word := (f (x.setWidth 32)).signExtend 64

/-- The number of trailing zero bits, n for 0. -/
def trailing {n : Nat} (x : BitVec n) : Nat := ((List.range n).find? (fun i => x.getLsbD i)).getD n

/-- The number of leading zero bits, n for 0. -/
def leading {n : Nat} (x : BitVec n) : Nat := ((List.range n).find? (fun i => x.getMsbD i)).getD n

/-- A floating word: each selected lane takes a result and raises flags, both of its own rounding mode (11:R288, 05:R131). -/
def Flt (s : State) (i : Instr) (st : BitVec 3) (d : BitVec 5) (g : BitVec 4) (f : Nat → Nat → Word × Flags5) : Prop :=
  Results i s st (fun l => if l ∈ s.regs.selected g then (f (s.regs.lane l).frm.toNat l).2 else 0#5)
    (intoW d.toNat (s.regs.selected g) (fun l => (f (s.regs.lane l).frm.toNat l).1)) keepP

/-- The low 32 bits of `wn` in a lane, as a pattern. -/
def State.f32 (s : State) (l : Nat) (n : BitVec 5) : Nat := ((s.regs.rdW l n.toNat).setWidth 32).toNat

/-- A pattern of 32 bits sign-extended to a word (08:R207), and a narrower one zero-extended. -/
def signed32 (x : Nat × Flags5) : Word × Flags5 := ((BitVec.ofNat 32 x.1).signExtend 64, x.2)
def zeroed (x : Nat × Flags5) : Word × Flags5 := (BitVec.ofNat 64 x.1, x.2)

/-- A floating compare: each selected lane sets its predicate and raises flags (09:R242). -/
def FltP (s : State) (i : Instr) (st : BitVec 3) (d : BitVec 3) (g : BitVec 4) (f : Nat → Bool × Flags5) : Prop :=
  Results i s st (fun l => if l ∈ s.regs.selected g then (f l).2 else 0#5) keepW (intoP d.toNat (s.regs.selected g) (fun l => (f l).1))

/-! ## Control -/

/-- The gang in focus has issued a word that writes no register at once, and continues with the register state r; nothing outside it
changes but what every issue notes. -/
structure Moves (s t : State) (st : BitVec 3) (r : Regs) : Prop where
  outside : t.still = s.still
  gang : (t.gang s.cur).still = (s.gang s.cur).still
  regs : t.regs = r
  pend : (t.gang s.cur).pend = (s.gang s.cur).pend
  counted : (t.gang s.cur).ch.count = (s.gang s.cur).ch.count + 1
  stall : (t.gang s.cur).readyAt = s.now + 1 + st.toNat

/-- The word answers a next state that has moved so. -/
def Moved (i : Instr) (s : State) (st : BitVec 3) (r : Regs) : Prop := ∃ t, exec i s = .next t ∧ Moves s t st r

/-- The mask of the active lanes that hold a property. -/
def Regs.those (r : Regs) (p : Nat → Bool) : W32 := maskOf (r.active.filter p)

/-- A word index lies in the running block (02:R25). -/
def Regs.inside (r : Regs) (w : Int) : Prop := (r.blk.start : Int) ≤ w ∧ w < r.blk.start + r.blk.len

/-- The gang can take a trap at once: it runs no speculative task, stands below level 2, has done nothing in its chunk yet, has no
write in flight and no word sent, and every slide of its active lanes finds room in the core (18:R388). -/
structure State.Ready (s : State) : Prop where
  task : (s.gang s.cur).spec = false
  level : s.regs.tr.tlvl < 2
  chunk : (s.gang s.cur).ch.fresh = true
  pend : (s.gang s.cur).pend = []
  idle : (s.gang s.cur).prog = 0
  room : ∀ l ∈ s.regs.active, (s.regs.lane l).base + 40 ≤ (s.regs.lane l).floor + 64

/-- What 18:R388 gives on the way into a trap: the level's registers, the level, the handler's word, the slid windows. -/
structure Trapped (s t : State) (word : W32) (cause : Nat) (ret : Nat) (flt : W32) (va : Word) : Prop where
  level : t.regs.tr.tlvl = s.regs.tr.tlvl + 1
  tc : (if t.regs.tr.tlvl = 1 then t.regs.tr.tc1 else t.regs.tr.tc2) = word.setWidth 64 <<< 32 ||| BitVec.ofNat 64 cause
  tpc : (if t.regs.tr.tlvl = 1 then t.regs.tr.tpc1 else t.regs.tr.tpc2) = BitVec.ofNat 64 ret
  tmk : (if t.regs.tr.tlvl = 1 then t.regs.tr.tmk1 else t.regs.tr.tmk2) = s.regs.act.setWidth 64 <<< 32 ||| flt.setWidth 64
  tva : (if t.regs.tr.tlvl = 1 then t.regs.tr.tva1 else t.regs.tr.tva2) = va
  lower : t.regs.tr.tlvl = 2 → t.regs.tr.tc1 = s.regs.tr.tc1 ∧ t.regs.tr.tpc1 = s.regs.tr.tpc1 ∧ t.regs.tr.tmk1 = s.regs.tr.tmk1 ∧
    t.regs.tr.tva1 = s.regs.tr.tva1
  target : (t.regs.blk, t.regs.pc) = s.trapPoint s.cur s.regs.blk.obj
  counters : (t.gang s.cur).sb = []
  lanes : t.regs.act = s.regs.act ∧ t.regs.thr = s.regs.thr ∧ t.regs.div = s.regs.div
  rep : t.regs.rep = none
  slid : ∀ l ∈ s.regs.active,
    (∀ n, n < 8 → t.regs.rdW l n = s.regs.rdW l (n + 16)) ∧ (∀ n, 8 ≤ n → n < 24 → t.regs.rdW l n = 0#64) ∧
    (∀ n, 24 ≤ n → n < 32 → t.regs.rdW l n = s.regs.rdW l n) ∧ (∀ n, n < 8 → t.regs.rdP l n = s.regs.rdP l n) ∧
    (t.regs.lane l).frm = (s.regs.lane l).frm ∧ (t.regs.lane l).fflags = (s.regs.lane l).fflags
  parked : ∀ l, l ∉ s.regs.active → t.regs.lane l = s.regs.lane l
  memory : t.mem = s.mem

/-! ## Memory -/

/-- The access that an active lane makes at `va` passes every check and goes to the place `pl` names (10:R262). -/
def State.Reaches (s : State) (va : Nat → Nat) (size : Nat) (wr : Bool) (kind : AccKind) (pl : Nat → Place) : Prop :=
  ∀ l ∈ s.regs.active, s.check (ckOfGk s.cur) (va l) size wr kind s.regs.tr.tlvl = .ok (pl l)

/-- Where some active lane's access leaves its quad, the slice's partition injects packets (04:R123, 19:R414). -/
def State.MaySend (s : State) (pl : Nat → Place) : Prop := (∃ l ∈ s.regs.active, (pl l).beyond = true) → s.injOff (slOfGk s.cur) = false

/-- Address and place of the access of each active lane. -/
def State.accesses (s : State) (va : Nat → Nat) (pl : Nat → Place) : List (Nat × Nat × Place) :=
  s.regs.active.map (fun l => (l, va l, pl l))

/-- A write in flight supplies the n registers from `wd` up of some lanes with values, and nothing else; a register that ignores writes
has no part in it. -/
def Supplies (w : PendWrite) (r : Regs) (lanes : List Nat) (d n : Nat) (v : Nat → Nat → Word) : Prop :=
  w.dst.length = w.vals.length ∧
  ∀ e, e ∈ w.dst.zip w.vals ↔ ∃ l ∈ lanes, ∃ h, h < n ∧ ∃ x, (r.lane l).destW (d + h) = some x ∧ e = ((l, x), v l h)

/-- A word of the gang in focus has issued, with one write in flight more, counted on `ctr`, that has its values already. -/
structure Pends (s t : State) (ctr d : Nat) (v : Nat → Word) : Prop where
  regs : t.regs = s.regs.next
  flight : ∃ w, (t.gang s.cur).pend = (s.gang s.cur).pend ++ [w] ∧ w.land = none ∧ w.ctr = some ctr ∧ w.ready = true ∧
    Supplies w s.regs s.regs.active d 1 (fun l _ => v l)
  counter : tget 0 (t.gang s.cur).sb ctr = tget 0 (s.gang s.cur).sb ctr + 1
  others : ∀ k, k ≠ ctr → tget 0 (t.gang s.cur).sb k = tget 0 (s.gang s.cur).sb k
  gangs : ∀ gk, gk ≠ s.cur → t.gang gk = s.gang gk

/-- Memory as a reader sees it once some bytes have been written, the first one first. -/
def wroteBytes (rd : Nat → Byte) (ws : List (Nat × Byte)) : Nat → Byte :=
  ws.foldl (fun m e => fun a => if a = e.1 then e.2 else m a) rd

/-- The same after one lane after the other has stored `size` bytes at its place. -/
def storedBy (rd : Nat → Byte) (size : Nat) (lanes : List Nat) (pl : Nat → Place) (v : Nat → Word) : Nat → Byte :=
  lanes.foldl (fun m l => wroteBytes m ((pl l).store m size (v l).toNat).1) rd

/-- The word stands first in its chunk, does nothing but what the chunk may, and nothing of it was sent before: what holds when the
boundary before it has just been made (06:R148). -/
structure State.Opens (s : State) : Prop where
  task : (s.gang s.cur).spec = false
  fresh : (s.gang s.cur).ch.fresh = true
  written : (s.gang s.cur).ch.wsec = []
  log : (s.gang s.cur).ch.log = []
  sent : ∀ o ∈ (s.gang s.cur).far, o.logAt = none
  again : ∀ e ∈ (s.gang s.cur).sent, e.1 ≠ s.regs.tr.tlvl + 1

/-- A gang beside whether what it waits for has come about. -/
def Gang.unmet (g : Gang) : Gang :=
  let f (a : Awaited) : Awaited := { a with met := false }
  { g with aw := g.aw.map f, sent := g.sent.map (fun e => (e.1, e.2.1, e.2.2.1, e.2.2.2.map f)) }

/-- The gang in focus has issued a word that holds it until its registers are written: `wd` of every active lane has the value. `as_` is how
the other gangs are as before. -/
structure HoldsBut (as_ : Gang → Gang) (s t : State) (d : Nat) (v : Nat → Word) : Prop where
  pc : t.regs.pc = s.regs.next.pc
  value : ∀ l ∈ s.regs.active, ∀ n, n < 32 → t.regs.rdW l n = (intoW d s.regs.active v l n).getD (s.regs.rdW l n)
  rest : ∀ l, l ∉ s.regs.active → t.regs.lane l = s.regs.lane l
  mem : t.mem = s.mem
  gangs : ∀ gk, gk ≠ s.cur → as_ (t.gang gk) = as_ (s.gang gk)

/-- The same with the other gangs exactly as before. -/
abbrev Holds (s t : State) (d : Nat) (v : Nat → Word) : Prop := HoldsBut id s t d v

/-- The sectors that the open chunk of the gang in focus has written, of every space (06:R148). -/
def State.wrote (s : State) : List Nat := (s.gang s.cur).ch.wsec ++ (s.gang s.cur).ch.exts.map (fun e => e.1 / 256)

/-- The sector, where it is kept, of the stage-2 leaf whose `d` bit a write to a page of a context sets (04:R112). -/
def State.leafSector (s : State) (cx va : Nat) : Option Nat :=
  match s.walk cx va with
  | .ok e => (s.s2Walk cx (e.ipage * 65536 + va % 65536)).map (fun x => s.links.home x.2.2 / 256)
  | _ => none

/-- The physical address of the header of tile i (07:R184). -/
def State.tileAt (s : State) (cx i : Nat) : Nat := (s.ctx cx).tilePa + 64 * i

/-- The leaf of a tile header's page once some bytes have been written into the header. -/
def State.tileLeaf (s : State) (cx i : Nat) (bs : List Byte) : Option Nat :=
  (s.wrBytes (s.keyNo cx) (s.tileAt cx i) bs).leafSector cx ((s.ctx cx).tilb + 64 * i)

/-- The header of a tile is aligned (07:R184), and setting the `d` bit of its page leaves it alone, whatever it holds. -/
def State.TileApart (s : State) (cx i : Nat) : Prop :=
  s.tileAt cx i % 8 = 0 ∧
    ∀ bs k, bs.length = 8 → k < 8 → s.tileLeaf cx i bs ≠ some (s.links.home (s.tileAt cx i + k) / 256)

/-- The entries of a divergence stack beyond its newest 8 lie in the slot's area of the TCM, the oldest first, and no other byte of memory has
changed (03:R72, R73). -/
def State.SpillsDiv (s t : State) (div : List DivEntry) : Prop :=
  let a := tcmLoc (ckOfGk s.cur) (0x7000 + 256 * slotOfGk s.cur)
  (∀ i e, (div.drop 8).reverse[i]? = some e → ∀ k, k < 16 →
    Memory.get t.mem (a + 16 * i + k) = BitVec.ofNat 8 (e.word.toNat / 2 ^ (8 * k))) ∧
  ∀ loc, (loc < a ∨ a + 16 * (div.length - 8) ≤ loc) → Memory.get t.mem loc = Memory.get s.mem loc

/-! ## Wide accumulators (05:R143, R144) -/

/-- Value and status of the slot at a location, as bytes hold them. -/
def slotAt (rd : Nat → Byte) (loc : Nat) : BitVec 640 × BitVec 4 :=
  (BitVec.ofNat 640 (readLe rd loc 80), BitVec.ofNat 4 (readLe rd (loc + 80) 16))

/-- Memory as a reader sees it once a slot has been written: 80 bytes of value, the status, and zeros up to byte 95. -/
def putSlot (rd : Nat → Byte) (loc : Nat) (x : BitVec 640 × BitVec 4) : Nat → Byte :=
  wroteBytes rd ((List.range 80).map (fun k => (loc + k, (x.1 >>> (8 * k)).setWidth 8)) ++
    (List.range 16).map (fun k => (loc + 80 + k, if k = 0 then x.2.setWidth 8 else 0#8)))

/-- `acc_add` of an integer to a value of n bits: the sum, or the nearest end of the range with a carry (05:R135). -/
def accSum (n : Nat) (v : BitVec n) (x : Int) : BitVec n × Bool :=
  let lim : Int := 2 ^ (n - 1) - 1
  (BitVec.ofInt n (max (-lim) (min lim (v.toInt + x))), decide (lim < v.toInt + x) || decide (v.toInt + x < -lim))

/-- A slot after an exact addend, in units of 2^-320 (05:R144). -/
def slotAdd (x : Int) (y : BitVec 640 × BitVec 4) : BitVec 640 × BitVec 4 :=
  ((accSum 640 y.1 x).1, y.2 ||| if (accSum 640 y.1 x).2 then 8#4 else 0#4)

/-- A slot after a rational, an infinity or a NaN. -/
def slotAddF (x : FVal) (y : BitVec 640 × BitVec 4) : BitVec 640 × BitVec 4 :=
  match x with
  | .inf neg => (y.1, y.2 ||| if neg then 4#4 else 2#4)
  | .nan _ => (y.1, y.2 ||| 1#4)
  | x => slotAdd ⌊x.val * 2 ^ 320⌋ y

/-! ## Pushes to engines (06:R164, 10:R275) -/

/-- A push stands at a fresh boundary and every far operation of its gang has been performed. -/
structure State.Pushes (s : State) : Prop where
  opens : s.Opens
  drained : ∀ o ∈ (s.gang s.cur).far, o.perf = true

/-- The gang in focus has pushed a command and goes on, and owes itself n more records of engine e; memory, the other gangs and the slices
are as before. -/
structure Pushed (s t : State) (e n : Nat) : Prop where
  regs : t.regs = s.regs.next
  pend : (t.gang s.cur).pend = (s.gang s.cur).pend
  owed : ∀ k, tget 0 (t.gang s.cur).owed k = tget 0 (s.gang s.cur).owed k + if k = e then n else 0
  mem : t.mem = s.mem
  gangs : ∀ gk, gk ≠ s.cur → t.gang gk = s.gang gk
  slices : t.slices = s.slices
  others : ∀ ck, ck ≠ ckOfGk s.cur → t.core ck = s.core ck

/-- A matrix word has passed its checks (20:R429): the tile it names is allocated to the core, Ez is in range, the format is allowed, and
address and stride are multiples of the element. -/
def State.TileOk (s : State) (k : Nat) : Prop :=
  let z := (s.cluster (clkOfGk s.cur)).zalloc
  wbits z (4 * k + 3) 1 = 1 ∧ wbits z (4 * k) 3 = coreOfCk (ckOfGk s.cur) % 8

/-- Bytes of an element, as alignment counts them: 2 for BF16, 4 for F32 and ACC96, otherwise 1. -/
def elemBytes (f : Nat) : Nat := if f = 1 then 2 else if f = 0 ∨ f = 11 then 4 else 1

/-- The number of the first condition of 20:R427 that a copy push meets, 0 for none. -/
def State.copyCheck (s : State) (c : CpCmd) : Nat :=
  let slot := wbits c.ctl 2 4
  let owned := nbits (s.vf (s.ctx (s.gangCx s.cur)).vf).slots (slot - 1) 1 = 1
  if wbits c.ctl 7 57 ≠ 0 ∨ 9 ≤ slot then 1
  else if slot ≠ 0 ∧ ¬ owned then 2
  else if (c.kind = 3 ∧ slot ≠ 0) ∨ (c.kind = 5 ∧ wbits c.ctl 6 1 = 1) then 3
  else if c.kind = 0 ∧ c.src.toNat < c.dst.toNat ∧ c.dst.toNat < c.src.toNat + c.len ∧ s.ratioLen slot c.len ≠ 0 then 4
  else if c.kind = 1 ∧ (tdFmt c.td ≠ tdFmt c.ta ∨ tdCols c.ta * fmtBits (tdFmt c.ta) % 8 ≠ 0) then 5
  else 0

/-- A fabric control word keeps 13:R351 and 20:R435: zero fields, a slot that the function owns, a valid group or operand count. -/
def State.FabricWordOk (s : State) (call : Bool) (ctl : Word) : Prop :=
  let slot := if call then wbits ctl 8 4 else wbits ctl 0 4
  1 ≤ slot ∧ slot ≤ 8 ∧ nbits (s.vf (s.ctx (s.gangCx s.cur)).vf).slots (slot - 1) 1 = 1 ∧
    (if call then wbits ctl 15 49 = 0 ∧ wbits ctl 6 2 = 0 ∧ wbits ctl 12 3 ≤ 4 else wbits ctl 7 57 = 0 ∧ wbits ctl 4 3 ≤ 4)

/-! ## Transfers (09:R246, R247) -/

/-- The handle a lane's register gives: its value from before the writes of the cycle (08:R219). -/
def State.handleReg (s : State) (n : BitVec 5) (l : Nat) : Word := (s.gang s.cur).early s.now l n.toNat

/-- The quad that a lane's packet goes to lies in the slice (18:R388). -/
def State.QuadExists (s : State) (k : XKind) (t : Target) (tidx : Nat) : Prop :=
  (s.destOf k t tidx).getD 0 < (s.slice (slOfGk s.cur)).nquads

/-- Memory beside the TCM system area of the issuing core is as before (03:R73). -/
def State.KeepsMem (s t : State) : Prop :=
  ∀ loc, (loc < tcmLoc (ckOfGk s.cur) 0x7000 ∨ tcmLoc (ckOfGk s.cur) 0x8000 ≤ loc) → Memory.get t.mem loc = Memory.get s.mem loc

/-- The packet a lane makes, with the handle, link, backing-store pointer and live mask given. -/
def State.wire (s : State) (h link bsp : Word) (live : W32) (l : Nat) : Packet :=
  { entry := h, tidx := (s.regs.lane l).tidx.setWidth 32, launch := (s.gang s.cur).launch, pred := (s.regs.lane l).p ||| 1#8
    bsp := bsp, link := link, live := (liveRegs live).map (fun n => s.regs.rdW l n) }

/-- The packets that some lanes send to quads have left as trains of the gang in focus, one train for each quad, its packets in lane
order. -/
def Departs (s t : State) (lanes : List Nat) (dest : Nat → Nat) (packet : Nat → Packet) : Prop :=
  ∃ trains : List (Nat × List Packet), (trains.map Prod.fst).Nodup ∧
    (t.quad (qkOfGk s.cur)).outs = (s.quad (qkOfGk s.cur)).outs ++ trains.map (fun e =>
      (s.cur, qkOf (slOfGk s.cur) e.1,
       { injected := false, src := quadOfQk (qkOfGk s.cur), launch := (s.gang s.cur).launch, packets := e.2 })) ∧
    ∀ q, (trains.filter (fun e => e.1 == q)).flatMap Prod.snd = (lanes.filter (fun l => dest l == q)).map packet

/-- Some lanes have left the gang: they are out of the active mask, of the lanes that hold a thread, and of every divergence entry. -/
structure Left (s t : State) (m : W32) : Prop where
  act : t.regs.act = s.regs.act &&& ~~~m
  thr : t.regs.thr = s.regs.thr &&& ~~~m
  div : t.regs.div = s.regs.div.map (fun e => { e with park := e.park &&& ~~~m, all := e.all &&& ~~~m })
  pc : t.regs.pc = s.regs.next.pc

/-! ## Events -/

/-- No gang but one given runs a timestamped task: a write that squashes others then changes no memory besides its own. -/
def State.NoTasks (s : State) (but : Option Nat) : Prop := ∀ e ∈ s.gangs, some e.1 ≠ but → e.2.task = none

/-- Memory as the context of a gang reads it. -/
def State.seen (s : State) (gk : Nat) : Nat → Byte := s.rdByte (s.keyNo (s.gangCx gk))

/-- The gang's stores to host or peer memory lie there and are reached. -/
def State.ExtsOk (s : State) (gk : Nat) : Prop :=
  ∀ e ∈ (s.gang gk).ch.exts, spaceOfLoc e.1 = 1 ∧ s.links.reaches e.1 = true

/-- Memory as a reader sees it once some bytes have been written, the first one first; two locations in apertures that show one byte of a
peer's memory read alike (14:R372). -/
def State.wroteAt (s : State) (rd : Nat → Byte) (ws : List (Nat × Byte)) : Nat → Byte :=
  ws.foldl (fun m e => fun a => if s.links.home a = s.links.home e.1 then e.2 else m a) rd

/-- What a gang's commit makes memory read as: each byte's latest write in the chunk, and the stores to host memory in their order. -/
def State.published (s : State) (gk : Nat) : Nat → Byte := fun loc =>
  if spaceOfLoc loc = 1 then s.wroteAt (s.chByte gk) ((s.gang gk).ch.exts.map (fun e => (e.1, e.2.2))) loc else s.chByte gk loc

/-- The lanes of a far operation at one location, performed one after the other: the old values, and memory after them (10:R271). -/
def State.farRun (s : State) (o : FarOp) (loc : Nat) (rd : Nat → Byte) (xs : List (Nat × FarLane)) : List Nat × (Nat → Byte) :=
  xs.foldl (fun acc x =>
    let old := readLe acc.2 loc o.size
    let new := (atomNew o.op o.size (o.frms.getD x.1 0#3).toNat old x.2.v x.2.c).1
    (acc.1 ++ [old], s.wroteAt acc.2 ((List.range o.size).map (fun k => (loc + k, BitVec.ofNat 8 (new / 2 ^ (8 * k))))))) ([], rd)

/-- A 16-byte record at `a` lands at consecutive locations from `p` up: both halves pass their checks, and the page's dirty bit is set
already or the record lies in shared SRAM, so that nothing else is written on the way (07:R201, 04:R112). -/
structure State.RecordPlace (s : State) (sl a : Nat) (p : Place) : Prop where
  low : s.doneCheck sl a = .ok p
  high : s.doneCheck sl (a + 8) = .ok { p with loc := p.loc + 8 }
  page : a / 65536 = (a + 8) / 65536
  clean : p.space = .shr ∨ p.space ≠ .host ∧ ∃ e, s.translate (qkOfCk (ckOf sl 0)) (s.runCx sl) a true = .ok e ∧ e.d = true

/-- Some bytes stand at consecutive locations, as the context that runs on a slice reads them. -/
def State.Shows (s : State) (sl loc : Nat) (bs : List Byte) : Prop :=
  ∀ k, k < bs.length → s.rdByte (s.keyNo (s.runCx sl)) (loc + k) = bs.getD k 0#8

/-- A gang slot holds the gang that some packets form, lane i from packet i, at a word of a block, with the entry's live registers (03:R62,
03:R67, 03:R74, 05:R130, 05:R131). -/
structure Formed (s t : State) (gk : Nat) (ps : List Packet) (e : EntryRec) (b : BlkRef) : Prop where
  live : (t.gang gk).live = true
  act : (t.gang gk).r.act = (t.gang gk).r.thr
  lanes : ∀ l, l < 32 → (t.gang gk).r.act.getLsbD l = decide (l < ps.length)
  point : (t.gang gk).r.pc = b.start + e.word ∧ (t.gang gk).r.blk = b
  new : (t.gang gk).actId = (s.gang gk).actId + 1
  launch : ∀ p ∈ ps.head?, (t.gang gk).launch = p.launch
  idle : (t.gang gk).sb = [] ∧ (t.gang gk).pend = [] ∧ (t.gang gk).wait = none ∧ (t.gang gk).r.div = [] ∧ (t.gang gk).r.loops = []
  regs : ∀ i p, ps[i]? = some p → i < 32 →
    (t.gang gk).r.rdW i 24 = p.tidx.setWidth 64 ∧ (t.gang gk).r.rdW i 26 = p.bsp ∧ (t.gang gk).r.rdW i 27 = p.link ∧
    (∀ j n, (liveRegs e.live)[j]? = some n → n < 24 ∨ 28 ≤ n ∧ n < 31 → (t.gang gk).r.rdW i n = p.live.getD j 0#64) ∧
    (∀ n, n < 24 ∨ 28 ≤ n ∧ n < 31 → n ∉ liveRegs e.live → (t.gang gk).r.rdW i n = 0#64) ∧
    (∀ n, n < 8 → (t.gang gk).r.rdP i n = (p.pred ||| 1#8).getLsbD n) ∧
    ((t.gang gk).r.lane i).frm = 0#3 ∧ ((t.gang gk).r.lane i).fflags = 0#5
  task : ∀ p ∈ ps.head?, p.ts = true → ∃ k, (t.gang gk).task = some k ∧ k.stamp = p.stamp ∧ k.spec = true ∧ k.aborts = 0

/-- The entry of a packet and where its block stands in the quad of a core. -/
def State.Enters (s : State) (ck : Nat) (p : Packet) (e : EntryRec) (b : BlkRef) : Prop :=
  s.packetEntry (s.runCx (slOfCk ck)) p = some e ∧ (s.quad (qkOfCk ck)).findAny (wbits p.entry 0 12) e.block = some b

/-- A group of a quad that satisfies a test and whose oldest packet is older than that of every other such group (03:R82). -/
def State.Oldest (s : State) (qk : Nat) (test : List Packet → Bool) (p : Packet) (rest : List Packet) : Prop :=
  p :: rest ∈ s.groups qk ∧ test (p :: rest) = true ∧
    ∀ h ∈ s.groups qk, test h = true → h ≠ p :: rest → ∃ x y, h = x :: y ∧ p.older x = true

/-- A command has ended with a record: the activation that pushed it owes one less, and the record enters its completion queue of eight, or
is held behind it; after the activation it is dropped (09:R259). -/
structure Recorded (s t : State) (who : Pusher) (e : Nat) (r : Rec) : Prop where
  mine : (s.gang who.gk).live = true → (s.gang who.gk).actId = who.actId →
    tget 0 (t.gang who.gk).owed e = tget 0 (s.gang who.gk).owed e - 1 ∧
    (if (s.gang who.gk).cqUsed e < 8 ∧ tget [] (s.gang who.gk).cqHeld e = [] then
      tget [] (t.gang who.gk).cq e = tget [] (s.gang who.gk).cq e ++ [r] ∧ tget [] (t.gang who.gk).cqHeld e = []
    else tget [] (t.gang who.gk).cq e = tget [] (s.gang who.gk).cq e ∧
      tget [] (t.gang who.gk).cqHeld e = tget [] (s.gang who.gk).cqHeld e ++ [r])
  over_ : ¬ ((s.gang who.gk).live = true ∧ (s.gang who.gk).actId = who.actId) →
    tget [] (t.gang who.gk).cq e = tget [] (s.gang who.gk).cq e ∧ tget [] (t.gang who.gk).cqHeld e = tget [] (s.gang who.gk).cqHeld e

/-- An engine fault is recorded against the gang slot of a live pusher that holds fewer than four (20:R422). -/
def Faulted (s t : State) (who : Pusher) (cause detail : Nat) (flt : W32) (va : Word) : Prop :=
  (s.gang who.gk).live = true → (s.gang who.gk).actId = who.actId → (s.gang who.gk).efaults.length < 4 →
    (t.gang who.gk).efaults = (s.gang who.gk).efaults ++ [{ word := who.word, cause := cause, detail := detail, flt := flt, va := va }]

/-- A word of the 64-bit halves of a completion record: fields with their places. -/
def fields (fs : List (Nat × Nat)) : Word := BitVec.ofNat 64 ((fs.map (fun e => e.1 * 2 ^ e.2)).foldl (· + ·) 0)

/-- The last record of the device event log after a step is the one given, of this moment (21:R437). -/
def Reports (s t : State) (kind sl cx vf detail value : Nat) : Prop :=
  t.mgmt.events.getLast? = some { dtc := s.dtc, kind := kind, slice := sl, ctx := cx, vf := vf, detail := detail, value := value }

/-- A context has been killed for a cause: it and its key are gone, a kill record tells of it, its queues are disabled, and if it ran its slice
holds no gang of it and goes to its scrub (18:R393, R394, 21:R442). -/
structure Killed (s t : State) (cx cause : Nat) : Prop where
  gone : (t.ctx cx).live = false ∧ (t.ctx cx).image = none ∧ (t.ctx cx).key = none
  retired : t.ochre.retires = s.ochre.retires + if (s.ctx cx).key.isSome then 1 else 0
  told : ∃ r, t.mgmt.kills = s.mgmt.kills ++ [r] ∧ r.slice = cx / 8 ∧ r.ctx = cx % 8 ∧ r.cause = cause ∧ r.dtc = s.dtc
  queues : ∀ n, (tget {} t.mgmt.queues n).vf = (s.ctx cx).vf → (tget {} t.mgmt.queues n).ctx = cx % 8 → (tget {} t.mgmt.queues n).en = false
  slice : (s.slice (cx / 8)).running = some (cx % 8) → (t.slice (cx / 8)).running = none ∧ (t.slice (cx / 8)).sw.step = .scrubbing ∧
    (t.slice (cx / 8)).selStop = true ∧ (t.slice (cx / 8)).launches = [] ∧ ∀ gk, slOfGk gk = cx / 8 → (t.gang gk).live = false

/-- The bits of a control register that a write changes (08:R208, R210); none for one that ignores every write. -/
def csrMask (i lvl : Nat) : Word :=
  if i = 0x010 then 7#64
  else if i = 0x011 then 31#64
  else if 0x021 ≤ i ∧ i ≤ 0x028 then
    if lvl = 0 then 0#64
    else if i ≤ 0x022 then 0xffff_ffff_0000_00ff#64
    else if i ≤ 0x024 then 0x3fff#64
    else 0xffff_ffff_ffff_ffff#64
  else if i = 0x030 then 1#64
  else if 0x051 ≤ i ∧ i ≤ 0x057 then 0xffff_ffff_fff0_0000#64
  else if i = 0x060 then (if lvl = 0 then 0#64 else 0xffff_ffff_f000#64)
  else if i = 0x071 then 15#64
  else if i = 0x078 then 0xffff_ffff#64
  else if 0x100 ≤ i ∧ i ≤ 0x11f then (if i % 2 = 0 then 0x000f_ffff_ffff_ffff#64 else 0xffff_ffff_ffff_ffff#64)
  else 0#64

/-- A write that the register's own rule ignores as a whole: `frm` above 4, a window format above 7, `mxwt` 0, a tile format above 12
(05:R130, 04:R100, 07:R202, 08:R208). -/
def csrIgnores (i : Nat) (v : Word) : Bool :=
  (i == 0x010 && decide (4 < v.toNat % 8)) || (decide (0x051 ≤ i ∧ i ≤ 0x057) && decide (7 < v.toNat / 2 ^ 60)) ||
    (i == 0x071 && decide (v.toNat % 16 = 0)) ||
    (decide (0x100 ≤ i ∧ i ≤ 0x11f) && decide (i % 2 = 0) && decide (12 < v.toNat / 2 ^ 48 % 16))

/-- What a register holds after a write of v over `old`. -/
def csrAfter (i lvl : Nat) (old v : Word) : Word :=
  if csrIgnores i v then old else (old &&& ~~~(csrMask i lvl)) ||| (v &&& csrMask i lvl)

end Sys2Proof.Machine
end

