-- ==== Sys2Proof/Certificates/Slice0/Obligations.lean ====
section
/-!
DEFINITION. The statements for the provers.
-/

open Sys2Proof Sys2Proof.Machine

/-! ## Integer words (09:R237 to R240) -/

/-- R237, the two-operand members at width 64: each selected lane's `wd` gets r of its `wa` and `wb`, and nothing else changes. -/
def Says.IntegerBinaryWordsWriteTheirResult : Prop :=
  ∀ (s : State) (st : BitVec 3) (d a b : BitVec 5) (g : BitVec 4), s.freeW d.toNat → s.early →
    Bin s (.add st d a b g) st d a b g (fun x y => x + y) ∧
    Bin s (.sub st d a b g) st d a b g (fun x y => x - y) ∧
    Bin s (.and st d a b g) st d a b g (fun x y => x &&& y) ∧
    Bin s (.or st d a b g) st d a b g (fun x y => x ||| y) ∧
    Bin s (.xor st d a b g) st d a b g (fun x y => x ^^^ y) ∧
    Bin s (.andn st d a b g) st d a b g (fun x y => x &&& ~~~y) ∧
    Bin s (.shl st d a b g) st d a b g (fun x y => x <<< (y.toNat % 64)) ∧
    Bin s (.shr st d a b g) st d a b g (fun x y => x >>> (y.toNat % 64)) ∧
    Bin s (.sar st d a b g) st d a b g (fun x y => x.sshiftRight (y.toNat % 64)) ∧
    Bin s (.rol st d a b g) st d a b g (fun x y => x.rotateLeft (y.toNat % 64)) ∧
    Bin s (.min st d a b g) st d a b g (fun x y => if x.slt y then x else y) ∧
    Bin s (.max st d a b g) st d a b g (fun x y => if x.slt y then y else x) ∧
    Bin s (.minu st d a b g) st d a b g (fun x y => if x.ult y then x else y) ∧
    Bin s (.maxu st d a b g) st d a b g (fun x y => if x.ult y then y else x) ∧
    Bin s (.adds st d a b g) st d a b g (fun x y => clampS 64 (x.toInt + y.toInt)) ∧
    Bin s (.subs st d a b g) st d a b g (fun x y => clampS 64 (x.toInt - y.toInt))

/-- R237, the one-operand members at width 64. -/
def Says.IntegerUnaryWordsWriteTheirResult : Prop :=
  ∀ (s : State) (st : BitVec 3) (d a : BitVec 5) (g : BitVec 4), s.freeW d.toNat → s.early →
    Una s (.neg st d a g) st d a g (fun x => 0#64 - x) ∧
    Una s (.abs st d a g) st d a g (fun x => if x.slt 0#64 then 0#64 - x else x) ∧
    Una s (.clz st d a g) st d a g (fun x => BitVec.ofNat 64 (leading x)) ∧
    Una s (.ctz st d a g) st d a g (fun x => BitVec.ofNat 64 (trailing x)) ∧
    Una s (.popc st d a g) st d a g (fun x => BitVec.ofNat 64 ((List.range 64).countP (fun i => x.getLsbD i))) ∧
    Una s (.sext8 st d a g) st d a g (fun x => (x.setWidth 8).signExtend 64) ∧
    Una s (.sext16 st d a g) st d a g (fun x => (x.setWidth 16).signExtend 64) ∧
    Una s (.sext32 st d a g) st d a g (fun x => (x.setWidth 32).signExtend 64) ∧
    Una s (.zext32 st d a g) st d a g (fun x => (x.setWidth 32).setWidth 64) ∧
    Una s (.brev st d a g) st d a g (fun x => x.reverse) ∧
    Una s (.mov st d a g) st d a g (fun x => x)

/-- R237 under OP 2: the members run at width 32 on the low halves, and the result is sign-extended. -/
def Says.IntegerHalfWordsWriteTheirResult : Prop :=
  ∀ (s : State) (st : BitVec 3) (d a b : BitVec 5) (g : BitVec 4), s.freeW d.toNat → s.early →
    Bin s (.add32 st d a b g) st d a b g (half (fun x y => x + y)) ∧
    Bin s (.sub32 st d a b g) st d a b g (half (fun x y => x - y)) ∧
    Bin s (.and32 st d a b g) st d a b g (half (fun x y => x &&& y)) ∧
    Bin s (.or32 st d a b g) st d a b g (half (fun x y => x ||| y)) ∧
    Bin s (.xor32 st d a b g) st d a b g (half (fun x y => x ^^^ y)) ∧
    Bin s (.andn32 st d a b g) st d a b g (half (fun x y => x &&& ~~~y)) ∧
    Bin s (.shl32 st d a b g) st d a b g (half (fun x y => x <<< (y.toNat % 32))) ∧
    Bin s (.shr32 st d a b g) st d a b g (half (fun x y => x >>> (y.toNat % 32))) ∧
    Bin s (.sar32 st d a b g) st d a b g (half (fun x y => x.sshiftRight (y.toNat % 32))) ∧
    Bin s (.rol32 st d a b g) st d a b g (half (fun x y => x.rotateLeft (y.toNat % 32))) ∧
    Bin s (.min32 st d a b g) st d a b g (half (fun x y => if x.slt y then x else y)) ∧
    Bin s (.max32 st d a b g) st d a b g (half (fun x y => if x.slt y then y else x)) ∧
    Bin s (.minu32 st d a b g) st d a b g (half (fun x y => if x.ult y then x else y)) ∧
    Bin s (.maxu32 st d a b g) st d a b g (half (fun x y => if x.ult y then y else x)) ∧
    Bin s (.adds32 st d a b g) st d a b g (half (fun x y => clampS 32 (x.toInt + y.toInt))) ∧
    Bin s (.subs32 st d a b g) st d a b g (half (fun x y => clampS 32 (x.toInt - y.toInt))) ∧
    Una s (.neg32 st d a g) st d a g (half1 (fun x => 0#32 - x)) ∧
    Una s (.abs32 st d a g) st d a g (half1 (fun x => if x.slt 0#32 then 0#32 - x else x)) ∧
    Una s (.clz32 st d a g) st d a g (half1 (fun x => BitVec.ofNat 32 (leading x))) ∧
    Una s (.ctz32 st d a g) st d a g (half1 (fun x => BitVec.ofNat 32 (trailing x))) ∧
    Una s (.popc32 st d a g) st d a g (half1 (fun x => BitVec.ofNat 32 ((List.range 32).countP (fun i => x.getLsbD i)))) ∧
    Una s (.brev32 st d a g) st d a g (half1 (fun x => x.reverse)) ∧
    Una s (.mov32 st d a g) st d a g (half1 (fun x => x))

/-- R237 and R206, `sel`: every active lane writes, `wa` where the guard selects the lane and `wb` where it does not. -/
def Says.SelectWritesEveryActiveLane : Prop :=
  ∀ (s : State) (st : BitVec 3) (d a b : BitVec 5) (g : BitVec 4), s.freeW d.toNat → s.early →
    WritesW (.sel st d a b g) s st d.toNat s.regs.active (fun l =>
      s.regs.rdW l (if s.regs.sel g l then a else b).toNat) ∧
    WritesW (.sel32 st d a b g) s st d.toNat s.regs.active (fun l =>
      ((s.regs.rdW l (if s.regs.sel g l then a else b).toNat).setWidth 32).signExtend 64)

/-- R238: the immediate members write every active lane. -/
def Says.ImmediateWordsWriteEveryActiveLane : Prop :=
  ∀ (s : State) (st : BitVec 3) (d a : BitVec 5) (m : BitVec 11) (n : BitVec 6), s.freeW d.toNat → s.early →
    let into (i : Instr) (f : Word → Word) : Prop := WritesW i s st d.toNat s.regs.active (fun l => f (s.regs.rdW l a.toNat))
    into (.addi st d a m) (fun x => x + m.signExtend 64) ∧
    into (.andi st d a m) (fun x => x &&& m.signExtend 64) ∧
    into (.ori st d a m) (fun x => x ||| m.signExtend 64) ∧
    into (.xori st d a m) (fun x => x ^^^ m.signExtend 64) ∧
    into (.shli st d a n) (fun x => x <<< n.toNat) ∧
    into (.shri st d a n) (fun x => x >>> n.toNat) ∧
    into (.sari st d a n) (fun x => x.sshiftRight n.toNat) ∧
    into (.slti st d a m) (fun x => if x.slt (m.signExtend 64) then 1#64 else 0#64)

/-- R239: `movz` puts a 16-bit field into a register of zeros, and `movk` replaces one field and keeps the rest, in every active lane. -/
def Says.WideConstantsReplaceOneField : Prop :=
  ∀ (s : State) (st : BitVec 3) (d : BitVec 5) (p : BitVec 2) (m : BitVec 16), s.freeW d.toNat → s.early →
    WritesW (.movz st d p m) s st d.toNat s.regs.active (fun _ => m.setWidth 64 <<< (16 * p.toNat)) ∧
    WritesW (.movk st d p m) s st d.toNat s.regs.active (fun l =>
      (s.regs.rdW l d.toNat &&& ~~~(0xffff#64 <<< (16 * p.toNat))) ||| (m.setWidth 64 <<< (16 * p.toNat)))

/-- R240, the multiplies: exact products, cut or widened as the member says. -/
def Says.MultipliesWriteTheProduct : Prop :=
  ∀ (s : State) (st : BitVec 3) (d a b : BitVec 5) (g : BitVec 4), s.freeW d.toNat → s.early →
    Bin s (.mul st d a b g) st d a b g (fun x y => BitVec.ofInt 64 (x.toInt * y.toInt)) ∧
    Bin s (.mulh st d a b g) st d a b g (fun x y => (x.signExtend 128 * y.signExtend 128).extractLsb' 64 64) ∧
    Bin s (.mulhu st d a b g) st d a b g (fun x y => (x.setWidth 128 * y.setWidth 128).extractLsb' 64 64) ∧
    Bin s (.mul32 st d a b g) st d a b g (half (fun x y => x * y)) ∧
    Bin s (.mulw st d a b g) st d a b g (fun x y => (x.setWidth 32).signExtend 64 * (y.setWidth 32).signExtend 64) ∧
    Bin s (.mulwu st d a b g) st d a b g (fun x y => (x.setWidth 32).setWidth 64 * (y.setWidth 32).setWidth 64)

/-- R240 and R135, the divides: with no divisor of zero among the selected lanes, the quotient truncated toward zero and the remainder of
the sign of the dividend; the most negative value by -1 gives itself and remainder 0. -/
def Says.DividesWriteQuotientAndRemainder : Prop :=
  ∀ (s : State) (st : BitVec 3) (d a b : BitVec 5) (g : BitVec 4), s.freeW d.toNat → s.early →
    ((∀ l ∈ s.regs.selected g, s.regs.rdW l b.toNat ≠ 0#64) →
      Bin s (.div st d a b g) st d a b g (fun x y => x.sdiv y) ∧
      Bin s (.divu st d a b g) st d a b g (fun x y => x / y) ∧
      Bin s (.rem st d a b g) st d a b g (fun x y => x.srem y) ∧
      Bin s (.remu st d a b g) st d a b g (fun x y => x % y)) ∧
    ((∀ l ∈ s.regs.selected g, (s.regs.rdW l b.toNat).setWidth 32 ≠ 0#32) →
      Bin s (.div32 st d a b g) st d a b g (half (fun x y => x.sdiv y)) ∧
      Bin s (.divu32 st d a b g) st d a b g (half (fun x y => x / y)) ∧
      Bin s (.rem32 st d a b g) st d a b g (half (fun x y => x.srem y)) ∧
      Bin s (.remu32 st d a b g) st d a b g (half (fun x y => x % y)))

/-! ## Compares and predicates (09:R242) -/

/-- R242, the integer and predicate members: each selected lane sets `pd`, no flag changes, and a lane that is not selected keeps its
predicate. -/
def Says.IntegerComparesSetThePredicate : Prop :=
  ∀ (s : State) (st : BitVec 3) (d p q : BitVec 3) (a b : BitVec 5) (g : BitVec 4), s.freeP d.toNat → s.early →
    let cmp (i : Instr) (f : Word → Word → Bool) : Prop :=
      WritesP i s st d.toNat (s.regs.selected g) (fun l => f (s.regs.rdW l a.toNat) (s.regs.rdW l b.toNat))
    let logic (i : Instr) (f : Bool → Bool → Bool) : Prop :=
      WritesP i s st d.toNat (s.regs.selected g) (fun l => f (s.regs.rdP l p.toNat) (s.regs.rdP l q.toNat))
    cmp (.cmpEq st d a b g) (fun x y => decide (x = y)) ∧
    cmp (.cmpNe st d a b g) (fun x y => decide (x ≠ y)) ∧
    cmp (.cmpLt st d a b g) (fun x y => x.slt y) ∧
    cmp (.cmpLe st d a b g) (fun x y => x.sle y) ∧
    cmp (.cmpLtu st d a b g) (fun x y => x.ult y) ∧
    cmp (.cmpLeu st d a b g) (fun x y => x.ule y) ∧
    logic (.pand st d p q g) (fun x y => x && y) ∧
    logic (.por st d p q g) (fun x y => x || y) ∧
    logic (.pxor st d p q g) (fun x y => xor x y) ∧
    logic (.pandn st d p q g) (fun x y => x && !y)

/-! ## Floating words (11:R288, R290, 09:R242) -/

/-- R286, R288 and R207: each selected lane writes the member's F32 result sign-extended, with the flags it raises, and nothing else
changes. What the functions give is said by the statements on rounding, arithmetic and special cases. -/
def Says.FloatingWordsWriteTheirResult : Prop :=
  ∀ (s : State) (st : BitVec 3) (d a b : BitVec 5) (g : BitVec 4), s.freeW d.toNat → s.early →
    let two (i : Instr) (f : Nat → Nat → Nat → Nat × Flags5) : Prop :=
      Flt s i st d g (fun m l => signed32 (f m (s.f32 l a) (s.f32 l b)))
    let one (i : Instr) (f : Nat → Nat → Nat × Flags5) : Prop := Flt s i st d g (fun m l => signed32 (f m (s.f32 l a)))
    let three (i : Instr) (np nd : Bool) : Prop :=
      Flt s i st d g (fun m l => signed32 (fFused np nd m (s.f32 l a) (s.f32 l b) (s.f32 l d)))
    two (.fadd st d a b g) fAdd ∧ two (.fsub st d a b g) fSub ∧ two (.fmul st d a b g) fMul ∧
    three (.fma st d a b g) false false ∧ three (.fms st d a b g) false true ∧ three (.fnma st d a b g) true false ∧
    two (.fmin st d a b g) (fun _ => fMinMax false) ∧ two (.fmax st d a b g) (fun _ => fMinMax true) ∧
    one (.fabs st d a g) (fun _ => fAbs) ∧ one (.fneg st d a g) (fun _ => fNeg) ∧
    two (.fdiv st d a b g) fDiv ∧ one (.fsqrt st d a g) fSqrt ∧ one (.frcp st d a g) fRcp ∧ one (.frsq st d a g) fRsq ∧
    one (.fexp2 st d a g) fExp2 ∧ one (.flog2 st d a g) fLog2 ∧ one (.fsinpi st d a g) fSinPi ∧ one (.fcospi st d a g) fCosPi ∧
    two (.fcpys st d a b g) (fun _ => fCpys) ∧ one (.fclass st d a g) (fun _ x => (fClass x, 0#5))

/-- R290 and R289: each selected lane converts. -/
def Says.ConversionWordsWriteTheirResult : Prop :=
  ∀ (s : State) (st : BitVec 3) (d a : BitVec 5) (t : BitVec 1) (g : BitVec 4), s.freeW d.toNat → s.early →
    let sat : Bool := decide (t = 1#1)
    let low (l n : Nat) : Nat := (s.regs.rdW l a.toNat).toNat % 2 ^ n
    let wide (i : Instr) (f n : Nat) : Prop := Flt s i st d g (fun _ l => signed32 (widen f (low l n)))
    let thin (i : Instr) (f : Nat) : Prop := Flt s i st d g (fun m l => zeroed (narrow f m sat (low l 32)))
    let fromInt (i : Instr) (v : Word → Int) : Prop := Flt s i st d g (fun m l => signed32 (intToF32 m (v (s.regs.rdW l a.toNat))))
    let toInt32 (i : Instr) (lo hi : Int) : Prop :=
      Flt s i st d g (fun m l => ((BitVec.ofInt 32 (f32ToInt m lo hi (low l 32)).1).signExtend 64, (f32ToInt m lo hi (low l 32)).2))
    let pack (i : Instr) (f n : Nat) : Prop := Flt s i st d g (fun m l =>
      let x := narrow f m sat (low l 32)
      let y := narrow f m sat ((s.regs.rdW l a.toNat).toNat / 2 ^ 32)
      (BitVec.ofNat 64 (x.1 + 2 ^ n * y.1), x.2 ||| y.2))
    wide (.cvtF32Bf16 st d a g) 1 16 ∧ wide (.cvtF32F16 st d a g) 2 16 ∧ wide (.cvtF32E4m3 st d a g) 3 8 ∧
    wide (.cvtF32E5m2 st d a g) 4 8 ∧
    thin (.cvtBf16F32 st d a t g) 1 ∧ thin (.cvtF16F32 st d a t g) 2 ∧ thin (.cvtE4m3F32 st d a t g) 3 ∧
    thin (.cvtE5m2F32 st d a t g) 4 ∧
    fromInt (.cvtF32I32 st d a g) (fun x => (x.setWidth 32).toInt) ∧ fromInt (.cvtF32I64 st d a g) (fun x => x.toInt) ∧
    fromInt (.cvtF32U32 st d a g) (fun x => (x.setWidth 32).toNat) ∧
    toInt32 (.cvtI32F32 st d a g) (-(2 ^ 31)) (2 ^ 31 - 1) ∧ toInt32 (.cvtU32F32 st d a g) 0 (2 ^ 32 - 1) ∧
    Flt s (.cvtI64F32 st d a g) st d g (fun m l =>
      (BitVec.ofInt 64 (f32ToInt m (-(2 ^ 63)) (2 ^ 63 - 1) (low l 32)).1, (f32ToInt m (-(2 ^ 63)) (2 ^ 63 - 1) (low l 32)).2)) ∧
    pack (.packBf16 st d a t g) 1 16 ∧ pack (.packE4m3 st d a t g) 3 8

/-- R242, the floating members: each selected lane sets `pd` from the order of its F32 operands and raises invalid as the rule says. -/
def Says.FloatingComparesSetThePredicate : Prop :=
  ∀ (s : State) (st : BitVec 3) (d : BitVec 3) (a b : BitVec 5) (g : BitVec 4), s.freeP d.toNat → s.early →
    let cmp (i : Instr) (quiet : Bool) (f : FVal → FVal → Prop) : Prop :=
      ∃ h : Nat → Bool × Flags5, FltP s i st d g h ∧ ∀ l,
        let x := unpack 0 (s.f32 l a)
        let y := unpack 0 (s.f32 l b)
        ((h l).1 = true ↔ f x y) ∧
        (h l).2 = if x.isSnan ∨ y.isSnan ∨ (quiet = false ∧ (x.isNan ∨ y.isNan)) then 16#5 else 0#5
    cmp (.fcmpEq st d a b g) true (fun x y => x.isNan = false ∧ y.isNan = false ∧ ¬ below x y ∧ ¬ below y x) ∧
    cmp (.fcmpLt st d a b g) false (fun x y => x.isNan = false ∧ y.isNan = false ∧ below x y) ∧
    cmp (.fcmpLe st d a b g) false (fun x y => x.isNan = false ∧ y.isNan = false ∧ ¬ below y x) ∧
    cmp (.fcmpUn st d a b g) true (fun x y => x.isNan = true ∨ y.isNan = true)

/-- R132 over the rationals: the rounded value, the pattern that encodes it, and every flag, in every format and mode. -/
def Obligations.RoundingFollowsTheRule : Prop :=
  ∀ (f m : Nat) (sat neg : Bool) (num den : Nat), f ≤ 4 → m ≤ 4 → 0 < den →
    let x : ℚ := num / den
    let r := roundFrm f m sat neg num den
    let inf := roundFrmInf f sat neg
    (num = 0 → Encodes f r.1 neg 0 ∧ r.2 = 0#5) ∧
    (num ≠ 0 →
      let q := quoOf f x
      let n := roundRat m neg q
      let v := magOf f m neg x
      let big := (params f).maxfin < v
      r.2 = flagsOf (big ∧ f = 3 ∧ toMax m sat neg = false) False big (x < 2 ^ (params f).emin ∧ (n : ℚ) ≠ q) ((n : ℚ) ≠ q ∨ big) ∧
      (¬ big → Encodes f r.1 neg v) ∧
      (big → toMax m sat neg = true → Encodes f r.1 neg (params f).maxfin) ∧
      (big → toMax m sat neg = false → if f = 3 then r.1 = (params f).nan else unpack f r.1 = .inf neg)) ∧
    (sat = true → Encodes f inf.1 neg (params f).maxfin ∧ inf.2 = 0#5) ∧
    (sat = false → if f = 3 then inf = ((params f).nan, 16#5) else unpack f inf.1 = .inf neg ∧ inf.2 = 0#5)

/-- R288 and R146: on finite operands every sum, product, fused form, quotient and reciprocal is the exact value rounded once, and an
exact zero sum takes the sign the rule gives. -/
def Obligations.FiniteArithmeticIsRoundedOnce : Prop :=
  ∀ (m a b d : Nat), m ≤ 4 →
    (unpack 0 a).isFin = true → (unpack 0 b).isFin = true → (unpack 0 d).isFin = true →
    let x := (unpack 0 a).val
    let y := (unpack 0 b).val
    let z := (unpack 0 d).val
    let sx := (unpack 0 a).sign
    let sy := (unpack 0 b).sign
    let sz := (unpack 0 d).sign
    fAdd m a b = sum32 m sx sy x y ∧
    fSub m a b = sum32 m sx (!sy) x (-y) ∧
    fMul m a b = round32 m (sx != sy) (x * y) ∧
    fFused false false m a b d = sum32 m (sx != sy) sz (x * y) z ∧
    fFused false true m a b d = sum32 m (sx != sy) (!sz) (x * y) (-z) ∧
    fFused true false m a b d = sum32 m (sx == sy) sz (-(x * y)) z ∧
    (y ≠ 0 → fDiv m a b = round32 m (sx != sy) (x / y)) ∧
    (y ≠ 0 → fRcp m b = round32 m sy (1 / y))

/-- R288 and R129: a NaN operand gives the canonical NaN, infinities add and multiply as in IEEE 754, and infinity minus infinity and zero
times infinity set invalid, inside a fused member even beside a quiet NaN. -/
def Says.ArithmeticSpecialCases : Prop :=
  ∀ (m a b d : Nat) (np nd : Bool),
    let x := unpack 0 a
    let y := unpack 0 b
    let z := unpack 0 d
    let noNum (sig : Prop) [Decidable sig] : Nat × Flags5 := (0x7fc0_0000, if sig then 16#5 else 0#5)
    let bad : Nat × Flags5 := (0x7fc0_0000, 16#5)
    let inf (neg : Bool) : Nat × Flags5 := (if neg then 0xff80_0000 else 0x7f80_0000, 0#5)
    let zeroInf := (x.isZero = true ∧ y.isInf = true) ∨ (x.isInf = true ∧ y.isZero = true)
    ((x.isNan = true ∨ y.isNan = true) →
      fAdd m a b = noNum (x.isSnan = true ∨ y.isSnan = true) ∧ fSub m a b = noNum (x.isSnan = true ∨ y.isSnan = true) ∧
      fMul m a b = noNum (x.isSnan = true ∨ y.isSnan = true)) ∧
    ((x.isNan = true ∨ y.isNan = true ∨ (z.isNan = true ∧ ¬ zeroInf)) →
      fFused np nd m a b d = noNum (x.isSnan = true ∨ y.isSnan = true ∨ z.isSnan = true)) ∧
    (zeroInf → fMul m a b = bad ∧ fFused np nd m a b d = bad) ∧
    (∀ s t, x = .inf s → y = .inf t →
      fAdd m a b = (if s = t then inf s else bad) ∧ fSub m a b = (if s = t then bad else inf s) ∧ fMul m a b = inf (s != t)) ∧
    (∀ s, x = .inf s → y.isFin = true →
      fAdd m a b = inf s ∧ fSub m a b = inf s ∧ fAdd m b a = inf s ∧ fSub m b a = inf (!s) ∧
      (y.isZero = false → fMul m a b = inf (s != y.sign) ∧ fMul m b a = inf (s != y.sign))) ∧
    (∀ s t, prodF x y = some (.inf s) → z = .inf t →
      fFused np nd m a b d = if (s != np) = (t != nd) then inf (s != np) else bad) ∧
    (∀ s, prodF x y = some (.inf s) → z.isFin = true → fFused np nd m a b d = inf (s != np)) ∧
    (∀ t, x.isFin = true → y.isFin = true → z = .inf t → fFused np nd m a b d = inf (t != nd))

/-- R288: `fmin`, `fmax`, `fabs`, `fneg`, `fcpys` and `fclass` on numbers and on NaNs. -/
def Says.MinimumSignAndClassMembers : Prop :=
  ∀ (a b : Nat), a < 2 ^ 32 → b < 2 ^ 32 →
    let x := unpack 0 a
    let y := unpack 0 b
    let sig : Flags5 := if x.isSnan = true ∨ y.isSnan = true then 16#5 else 0#5
    let sigX : Flags5 := if x.isSnan = true then 16#5 else 0#5
    let sigY : Flags5 := if y.isSnan = true then 16#5 else 0#5
    let under (u v : FVal) : Prop := below u v ∨ (¬ below v u ∧ u.sign = true)
    (x.isNan = true → y.isNan = true → fMinMax false a b = (0x7fc0_0000, sig) ∧ fMinMax true a b = (0x7fc0_0000, sig)) ∧
    (x.isNan = true → y.isNan = false → fMinMax false a b = (b, sig) ∧ fMinMax true a b = (b, sig)) ∧
    (x.isNan = false → y.isNan = true → fMinMax false a b = (a, sig) ∧ fMinMax true a b = (a, sig)) ∧
    (x.isNan = false → y.isNan = false →
      (under x y → fMinMax false a b = (a, 0#5) ∧ fMinMax true a b = (b, 0#5)) ∧
      (under y x → fMinMax false a b = (b, 0#5) ∧ fMinMax true a b = (a, 0#5)) ∧
      (¬ under x y → ¬ under y x → a = b ∧ fMinMax false a b = (a, 0#5) ∧ fMinMax true a b = (a, 0#5))) ∧
    (x.isNan = true → fAbs a = (0x7fc0_0000, sigX) ∧ fNeg a = (0x7fc0_0000, sigX) ∧ fCpys a b = (0x7fc0_0000, sigX)) ∧
    (x.isNan = false → fAbs a = (a % 2 ^ 31, 0#5) ∧ fNeg a = ((a + 2 ^ 31) % 2 ^ 32, 0#5) ∧
      fCpys a b = (a % 2 ^ 31 + b / 2 ^ 31 * 2 ^ 31, sigY)) ∧
    (∀ n, x = .inf n → fClass a = if n then 1 else 128) ∧
    (∀ n, x = .nan n → fClass a = if n then 256 else 512) ∧
    (x.isFin = true → fClass a =
      if x.val = 0 then (if x.sign then 8 else 16)
      else if |x.val| < 2 ^ (-126 : Int) then (if x.sign then 4 else 32)
      else (if x.sign then 2 else 64))

/-- R146: the functions of an ordinary finite operand are the exact value rounded once, inexact exactly when the result differs from it. Square
roots and their reciprocals are so for every operand. The others are computed with 320 fraction bits, and that this decides the rounding of
every operand is log 8; what is said here without it is the rounding of every operand whose exact value lies further than one part in 2 ^ 150
from a point where the rounding changes, and of every exact value that is rational. -/
def Says.FunctionsAreRoundedOnce : Prop :=
  ∀ (m a : Nat), m ≤ 4 → (unpack 0 a).isFin = true →
    let x := (unpack 0 a).val
    let v : ℝ := x
    let eps : ℚ := 1 / 2 ^ 150
    (0 < x → Rounds32 m false 0 (Real.sqrt v) (fSqrt m a) ∧ Rounds32 m false 0 (1 / Real.sqrt v) (fRsq m a)) ∧
    Rounds32 m false eps ((2 : ℝ) ^ v) (fExp2 m a) ∧
    (0 < x → x ≠ 1 → Rounds32 m (decide (x < 1)) eps |Real.logb 2 v| (fLog2 m a)) ∧
    (x.den ≠ 1 → ∀ neg, (neg = true ↔ Real.sin (Real.pi * v) < 0) → Rounds32 m neg eps |Real.sin (Real.pi * v)| (fSinPi m a)) ∧
    (x.den ≠ 2 → ∀ neg, (neg = true ↔ Real.cos (Real.pi * v) < 0) → Rounds32 m neg eps |Real.cos (Real.pi * v)| (fCosPi m a))

/-- R146: the cases of division and of the functions that the exact value does not decide, and the quotients with a NaN or an infinity. -/
def Says.FunctionSpecialCases : Prop :=
  ∀ (m a b : Nat), m ≤ 4 → a < 2 ^ 32 →
    let x := unpack 0 a
    let y := unpack 0 b
    let bad : Nat × Flags5 := (0x7fc0_0000, 16#5)
    let inf (neg : Bool) : Nat := if neg then 0xff80_0000 else 0x7f80_0000
    let zero (neg : Bool) : Nat := if neg then 0x8000_0000 else 0
    let noNum : Nat × Flags5 := (0x7fc0_0000, if x.isSnan = true then 16#5 else 0#5)
    (x.isFin = true → x.isZero = false → y.isZero = true → fDiv m a b = (inf (x.sign != y.sign), 8#5)) ∧
    ((x.isZero = true ∧ y.isZero = true) ∨ (x.isInf = true ∧ y.isInf = true) → fDiv m a b = bad) ∧
    (x.isNan = true ∨ y.isNan = true → fDiv m a b = (0x7fc0_0000, if x.isSnan = true ∨ y.isSnan = true then 16#5 else 0#5)) ∧
    (∀ n, x = .inf n → y.isFin = true → fDiv m a b = (inf (n != y.sign), 0#5)) ∧
    (∀ n, x.isFin = true → y = .inf n → fDiv m a b = (zero (x.sign != n), 0#5)) ∧
    (∀ n, x = .inf n → fRcp m a = (zero n, 0#5)) ∧
    (x = .inf false → fSqrt m a = (inf false, 0#5) ∧ fLog2 m a = (inf false, 0#5)) ∧
    (x.isZero = true → fRcp m a = (inf x.sign, 8#5) ∧ fRsq m a = (inf x.sign, 8#5) ∧ fLog2 m a = (inf true, 8#5) ∧
      fSqrt m a = (zero x.sign, 0#5) ∧ fSinPi m a = (zero x.sign, 0#5)) ∧
    ((x = .inf true ∨ (x.isFin = true ∧ x.isZero = false ∧ x.sign = true)) →
      fSqrt m a = bad ∧ fRsq m a = bad ∧ fLog2 m a = bad) ∧
    (x = .inf false → fRsq m a = (0, 0#5) ∧ fExp2 m a = (inf false, 0#5)) ∧
    (x = .inf true → fExp2 m a = (0, 0#5)) ∧
    (a = 0x3f80_0000 → fLog2 m a = (0, 0#5)) ∧
    (x.isInf = true → fSinPi m a = bad ∧ fCosPi m a = bad) ∧
    (x.isFin = true → x.val.den = 1 → fSinPi m a = (zero x.sign, 0#5)) ∧
    (x.isFin = true → x.val.den = 2 → fCosPi m a = (0, 0#5)) ∧
    (x.isNan = true → fSqrt m a = noNum ∧ fRcp m a = noNum ∧ fRsq m a = noNum ∧ fExp2 m a = noNum ∧ fLog2 m a = noNum ∧
      fSinPi m a = noNum ∧ fCosPi m a = noNum)

/-- R133: the conversions between formats and to and from integers. -/
def Obligations.ConversionsFollowTheTable : Prop :=
  ∀ (f m x : Nat) (sat : Bool) (v lo hi : Int), 1 ≤ f → f ≤ 4 → m ≤ 4 → lo ≤ 0 → 0 ≤ hi →
    let e := unpack f x
    let y := unpack 0 x
    (e.isFin = true → Encodes 0 (widen f x).1 e.sign |e.val| ∧ (widen f x).2 = 0#5) ∧
    (∀ n, e = .inf n → unpack 0 (widen f x).1 = .inf n ∧ (widen f x).2 = 0#5) ∧
    (∀ n, e = .nan n → widen f x = (0x7fc0_0000, if n then 16#5 else 0#5)) ∧
    (y.isFin = true → narrow f m sat x = roundFrm f m sat y.sign y.val.num.natAbs y.val.den) ∧
    (∀ n, y = .inf n → narrow f m sat x = roundFrmInf f sat n) ∧
    (∀ n, y = .nan n → narrow f m sat x = ((params f).nan, if n then 16#5 else 0#5)) ∧
    intToF32 m v = round32 m (decide (v < 0)) v ∧
    (y.isFin = true →
      let k : Int := (if y.sign then -1 else 1) * roundRat m y.sign |y.val|
      f32ToInt m lo hi x = if k < lo then (lo, 16#5) else if hi < k then (hi, 16#5) else (k, if (k : ℚ) = y.val then 0#5 else 1#5)) ∧
    (∀ n, y = .inf n → f32ToInt m lo hi x = (if n then lo else hi, 16#5)) ∧
    (∀ n, y = .nan n → f32ToInt m lo hi x = (0, 16#5))

/-- R147: the sum over lanes is exact, is rounded once, and does not depend on the order of the lanes. -/
def Obligations.LaneSumIsExactAndUnordered : Prop :=
  ∀ (m : Nat) (xs : List Nat), m ≤ 4 → xs ≠ [] →
    let vs := xs.map (unpack 0)
    let pos := FVal.inf false ∈ vs
    let neg := FVal.inf true ∈ vs
    let nan := ∃ n, FVal.nan n ∈ vs
    let sum : ℚ := (vs.map FVal.val).sum
    (nan → fRedAdd m xs = (0x7fc0_0000, if FVal.nan true ∈ vs ∨ (pos ∧ neg) then 16#5 else 0#5)) ∧
    (¬ nan → pos → neg → fRedAdd m xs = (0x7fc0_0000, 16#5)) ∧
    (¬ nan → pos → ¬ neg → fRedAdd m xs = (0x7f80_0000, 0#5)) ∧
    (¬ nan → ¬ pos → neg → fRedAdd m xs = (0xff80_0000, 0#5)) ∧
    (¬ nan → ¬ pos → ¬ neg → sum ≠ 0 → fRedAdd m xs = round32 m (decide (sum < 0)) sum) ∧
    (¬ nan → ¬ pos → ¬ neg → sum = 0 →
      fRedAdd m xs = (if m = 3 ∨ (∀ v ∈ vs, v.isZero = true ∧ v.sign = true) then 0x8000_0000 else 0, 0#5)) ∧
    (∀ ys, ys.Perm xs → fRedAdd m ys = fRedAdd m xs)

/-! ## Lanes (11:R292) -/

/-- R292: what the members write in each selected lane, S being the active lanes. -/
def Says.LaneWordsWriteTheirResult : Prop :=
  ∀ (s : State) (st : BitVec 3) (d a b : BitVec 5) (g : BitVec 4), s.freeW d.toNat → s.early →
    let into (i : Instr) (f : Nat → Word) : Prop := WritesW i s st d.toNat (s.regs.selected g) f
    let from_ (k : Nat) : Word := if k ∈ s.regs.active then s.regs.rdW k a.toNat else 0#64
    let pick (l : Nat) : Nat := (s.regs.rdW l b.toNat).toNat % 32
    let sum (ls : List Nat) : Word := (ls.map (fun j => s.regs.rdW j a.toNat)).sum
    into (.shfl st d a b g) (fun l => from_ (pick l)) ∧
    into (.shflx st d a b g) (fun l => from_ (l ^^^ pick l)) ∧
    into (.bcast st d a b g) (fun _ => from_ (pick s.regs.l0)) ∧
    into (.redadd st d a g) (fun _ => sum s.regs.active) ∧
    into (.scanadd st d a g) (fun l => sum (s.regs.active.filter (fun j => j ≤ l))) ∧
    into (.laneid st d g) (fun l => BitVec.ofNat 64 l) ∧
    into (.actmask st d g) (fun _ => s.regs.act.setWidth 64) ∧
    Flt s (.fredadd st d a g) st d g (fun m _ => signed32 (fRedAdd m (s.regs.active.map (fun j => s.f32 j a))))

/-- R292: the votes set `pd` of each selected lane, and `ballot` writes the mask of the active lanes in which the predicate holds. -/
def Says.VotesCountActiveLanes : Prop :=
  ∀ (s : State) (st : BitVec 3) (p q : BitVec 3) (d : BitVec 5) (g : BitVec 4), s.early →
    let holds (j : Nat) : Bool := s.regs.rdP j q.toNat
    (s.freeP p.toNat →
      WritesP (.voteAny st p q g) s st p.toNat (s.regs.selected g) (fun _ => s.regs.active.any holds) ∧
      WritesP (.voteAll st p q g) s st p.toNat (s.regs.selected g) (fun _ => s.regs.active.all holds)) ∧
    (s.freeW d.toNat → ∃ m : Word, WritesW (.ballot st d q g) s st d.toNat (s.regs.selected g) (fun _ => m) ∧
      ∀ j, m.getLsbD j = (decide (j ∈ s.regs.active) && holds j))

/-! ## Control flow (09:R233 to R256, 03:R70, R71, 18:R388, R391) -/

/-- R233 and R234: `nop`, and `yield` beside the order of issue, change nothing but the word to come; `brk` acts as `nop` with breakpoints
off and otherwise asks for a halt; `trap` that selects no lane acts as `nop`. -/
def Says.PlainControlWordsGoOn : Prop :=
  ∀ (s : State) (st : BitVec 3) (c : BitVec 5) (g : BitVec 4), s.early →
    Moved (.nop st) s st s.regs.next ∧
    (∃ t, exec (.yield st) s = .next t ∧ Moves s t st s.regs.next ∧ (t.gang s.cur).yielded = true) ∧
    ((s.ctx (s.gangCx s.cur)).dbg.bpen = false → Moved (.brk st) s st s.regs.next) ∧
    ((s.ctx (s.gangCx s.cur)).dbg.bpen = true → ∃ t, exec (.brk st) s = .next t ∧ Moves s { t with ctxs := s.ctxs } st s.regs.next ∧
      t.ctx (s.gangCx s.cur) = { s.ctx (s.gangCx s.cur) with dbg := { (s.ctx (s.gangCx s.cur)).dbg with hreq := true } } ∧
      ∀ cx, cx ≠ s.gangCx s.cur → t.ctx cx = s.ctx cx) ∧
    (s.regs.selected g = [] → Moved (.trap st c g) s st s.regs.next)

/-- R233 and R148: `chunk` publishes what its chunk has buffered, in order, and goes on; the next word opens a new chunk. That the commit falls
in the step of the `chunk` itself is log 7 (DEDUCED). -/
def Says.ChunkPublishesItsWrites : Prop :=
  ∀ (s : State) (st : BitVec 3), (s.gang s.cur).spec = false → (s.gang s.cur).wait = none → s.commitBlocked s.cur = false →
    (s.gang s.cur).ch.exts = [] →
    (∀ e ∈ s.gangs, e.2.task = none) →
    ∃ t, exec (.chunk st) s = .next t ∧ t.regs = s.regs.next ∧ (t.gang s.cur).ch = {} ∧
      let w := s.wrAll (s.keyNo (s.gangCx s.cur)) (s.gang s.cur).ch.wbuf.reverse
      t.mem = w.mem ∧ t.keyOf = w.keyOf

/-- R244 and R70: `br` jumps when every active lane takes it, falls through when none does, and else splits on the divergence stack; `bru`
jumps or falls through when the lanes agree. A taken branch ends the loop levels whose body it leaves (R253). Entries beyond the newest 8 lie in
the slot's divergence area (R72). -/
def Says.BranchesFollowTheLanes : Prop :=
  ∀ (s : State) (st : BitVec 3) (g : BitVec 4) (o : BitVec 18), s.early →
    let r := s.regs
    let t : Int := r.pc + o.toInt
    let taken := r.those (r.sel g)
    let jump : Regs := { r.endOutside t.toNat with pc := t.toNat }
    let entry : DivEntry := { all := r.act, park := taken, merging := false, jset := false, join := 0, tgt := t.toNat }
    r.inside t →
      (taken = r.act → Moved (.br st g o) s st jump) ∧
      (taken ≠ r.act → taken = 0#32 → Moved (.br st g o) s st r.next) ∧
      (taken ≠ r.act → taken ≠ 0#32 → r.div.length < 24 → ∃ u, exec (.br st g o) s = .next u ∧
        u.regs = ({ r with div := entry :: r.div, act := r.act &&& ~~~taken } : Regs).next ∧ s.SpillsDiv u (entry :: r.div) ∧
        (r.div.length < 8 → Moves s u st u.regs)) ∧
      ((∀ l ∈ r.active, r.sel g l = r.sel g r.l0) →
        (r.sel g r.l0 = true → Moved (.bru st g o) s st jump) ∧ (r.sel g r.l0 = false → Moved (.bru st g o) s st r.next))

/-- R70 and R390: `join` with no entry of its own has no effect; on a first path it runs the parked lanes; on a second one it merges lanes
of equal window bases. -/
def Says.JoinRunsTheParkedPathThenMerges : Prop :=
  ∀ (s : State) (st : BitVec 3), s.early →
    let r := s.regs
    (r.div.length ≤ r.markDepth → Moved (.join st) s st r.next) ∧
    (∀ e rest, r.markDepth < r.div.length → r.div = e :: rest →
      (e.merging = false → e.park ≠ 0#32 →
        Moved (.join st) s st
          { r with div := { e with merging := true, jset := true, join := r.pc } :: rest, act := e.park, pc := e.tgt }) ∧
      (e.merging = true → (e.jset = false ∨ e.join = r.pc) →
        (∀ l ∈ lanesOf e.all, (r.lane l).base = (r.lane (lowLane e.all)).base) →
        Moved (.join st) s st ({ r with act := e.all, div := rest } : Regs).next))

/-- R252 and R425: `loop` starts a level, or skips the body on a trip count of 0 and leaves `i` at 0. -/
def Says.LoopStartsOrSkipsItsBody : Prop :=
  ∀ (s : State) (st : BitVec 3) (l : BitVec 2) (a : BitVec 5) (n : BitVec 14), s.early →
    let r := s.regs
    let lv := r.level l.toNat
    let trip := (r.rdW r.l0 a.toNat).toNat % 2 ^ 32
    lv.active = false → r.inside (r.pc + n.toNat) →
      (trip = 0 → Moved (.loop st l a n) s st
        { r with loops := tput r.loops l.toNat { lv with i := 0#32 }, pc := r.pc + 1 + n.toNat }) ∧
      (trip ≠ 0 → ∃ k, Moved (.loop st l a n) s st
        { r with
          loops := tput r.loops l.toNat { active := true, first := r.pc + 1, last := r.pc + n.toNat, left := trip - 1, i := 0#32
                                          step := lv.step, since := r.loopSeq, held := 0 }
          loopSeq := k, pc := r.pc + 1 })

/-- R252: what the gang's next word is at the last word of a loop body, one level ending there: the level comes back with `i` a step
further, or is left with `i` as it stands. -/
def Says.LoopLevelsComeBackAndEnd : Prop :=
  ∀ (r : Regs) (k : Nat), r.rep = none →
    let lv := r.level k
    lv.active = true → lv.held = 0 → lv.last = r.pc → (r.loops.map Prod.fst).Nodup →
    (∀ e ∈ r.loops, e.1 ≠ k → e.2.active = false ∨ e.2.held ≠ 0 ∨ e.2.last ≠ r.pc) →
      (lv.left ≠ 0 → r.next = { r with loops := tput r.loops k { lv with left := lv.left - 1, i := lv.i + lv.step }, pc := lv.first }) ∧
      (lv.left = 0 → r.next = { r with loops := tput r.loops k { lv with active := false }, pc := r.pc + 1 })

/-- R254: `lstep`, `xbase` and `xcoef` set a level's step, the base of a descriptor register in every active lane, and one coefficient;
`lind` writes the induction variable, sign-extended. -/
def Says.LoopRegistersTakeTheirOperand : Prop :=
  ∀ (s : State) (st : BitVec 3) (l j : BitVec 2) (a : BitVec 5) (x : BitVec 3), s.early →
    let r := s.regs
    let low : W32 := (r.rdW r.l0 a.toNat).setWidth 32
    (∃ q : Regs, Moved (.lstep st l a) s st q.next ∧ q = { r with loops := tput r.loops l.toNat { r.level l.toNat with step := low } }) ∧
    (∃ q : Regs, Moved (.xcoef st j a x) s st q.next ∧ q = { r with xc := tput r.xc (4 * x.toNat + j.toNat) low }) ∧
    (∃ q : Regs, Moved (.xbase st a x) s st q.next ∧ q = { r with lanes := q.lanes } ∧
      (∀ k ∈ r.active, q.lane k = { r.lane k with xb := tput (r.lane k).xb x.toNat (r.rdW k a.toNat) }) ∧
      (∀ k, k ∉ r.active → q.lane k = r.lane k)) ∧
    (s.freeW a.toNat → WritesW (.lind st l a) s st a.toNat r.active (fun _ => (r.level l.toNat).i.signExtend 64))

/-- R253: `lbrk` on a level that is inactive or held has no effect; when its predicate holds in every active lane it ends the level and
those started after it, keeps their `i`, and goes on after the body; when it fails in every active lane it falls through. -/
def Says.LoopBreakEndsTheLevel : Prop :=
  ∀ (s : State) (st : BitVec 3) (l : BitVec 2) (n : BitVec 1) (p : BitVec 3), s.early →
    let r := s.regs
    let lv := r.level l.toNat
    let holds (k : Nat) : Prop := r.rdP k p.toNat = decide (n = 0#1)
    ((lv.active = false ∨ lv.held ≠ 0) → Moved (.lbrk st l n p) s st r.next) ∧
    (lv.active = true → lv.held = 0 → r.active ≠ [] →
      ((∀ k ∈ r.active, ¬ holds k) → Moved (.lbrk st l n p) s st r.next) ∧
      ((∀ k ∈ r.active, holds k) → ∃ q, Moved (.lbrk st l n p) s st q ∧ q = { r with pc := lv.last + 1, loops := q.loops } ∧
        ∀ k, q.level k = if (r.level k).active = true ∧ (r.level k).held = 0 ∧ lv.since ≤ (r.level k).since then
          { r.level k with active := false } else r.level k))

/-- R256 and R255: `repf` opens a frame over the next `len` words, its passes and strides as given; each captured word issues with its
strided register fields advanced by the pass. -/
def Obligations.RepeatFrameReplaysItsWords : Prop :=
  ∀ (s : State) (st : BitVec 3) (l : BitVec 4) (c : BitVec 6) (d a b : BitVec 3), s.early →
    let r := s.regs
    (r.inside (r.pc + l.toNat + 1) → Moved (.repf st l c d a b) s st
      { r with pc := r.pc + 1, rep := some ⟨r.pc, l.toNat + 1, c.toNat + 1, d.toNat, a.toNat, b.toNat, 0, 0⟩ }) ∧
    (∀ f, r.rep = some f →
      (f.word + 1 < f.len → r.next = { r with rep := some { f with word := f.word + 1 }, pc := f.start + 2 + f.word }) ∧
      (f.len ≤ f.word + 1 → f.pass + 1 < f.count →
        r.next = { r with rep := some { f with word := 0, pass := f.pass + 1 }, pc := f.start + 1 }) ∧
      (f.len ≤ f.word + 1 → f.count ≤ f.pass + 1 → r.next = ({ r with rep := none } : Regs).next) ∧
      ∀ (fn : Fin 16) (x y z : BitVec 5) (g : BitVec 4),
        let word (x y z : BitVec 5) : W32 := st ++ 1#5 ++ x ++ y ++ z ++ (BitVec.ofNat 5 fn.val) ++ g
        let up (v : BitVec 5) (k : Nat) : BitVec 5 := v + BitVec.ofNat 5 (f.pass * k)
        f.strided (word x y z) = word (up x f.ds) (up y f.as) (up z f.bs))

/-- R75 and R235: a `call` whose frames stay in the core moves every active lane's window 16 entries up, so that the callee's `w0` to `w6`
are the caller's `w16` to `w22`, clears `w8` to `w23`, leaves the return word in `w7` and goes to the target; `ret` moves the windows back
and goes to the word in `w7`. -/
def Says.LocalCallAndReturnSlideTheWindow : Prop :=
  ∀ (s : State) (st : BitVec 3) (o : BitVec 18), s.early → (s.gang s.cur).pend = [] →
    (s.gang s.cur).ch.room [] = true →
    let r := s.regs
    let t : Int := r.pc + o.toInt
    (r.inside t → (∀ l ∈ r.active, (r.lane l).base + 40 ≤ (r.lane l).floor + 64) →
      ∃ u, exec (.call st o) s = .next u ∧ u.regs.pc = t.toNat ∧ u.mem = s.mem ∧ u.regs.act = r.act ∧
        (∀ l ∈ r.active,
          (∀ n, n < 7 → u.regs.rdW l n = r.rdW l (n + 16)) ∧ u.regs.rdW l 7 = BitVec.ofNat 64 (r.pc + 1) ∧
          (∀ n, 8 ≤ n → n < 24 → u.regs.rdW l n = 0#64) ∧ (∀ n, 24 ≤ n → n < 32 → u.regs.rdW l n = r.rdW l n) ∧
          (∀ n, n < 8 → u.regs.rdP l n = r.rdP l n)) ∧
        (∀ l, l ∉ r.active → u.regs.lane l = r.lane l)) ∧
    ((∀ l ∈ r.active, (r.lane l).floor ≤ (r.lane l).base - 16 ∧ r.rdW l 7 = r.rdW r.l0 7) → (r.rdW r.l0 7).toNat < 2 ^ 14 →
      r.inside (r.rdW r.l0 7).toNat →
      ∃ u, exec (.ret st) s = .next u ∧ u.regs.pc = (r.rdW r.l0 7).toNat ∧ u.mem = s.mem ∧ u.regs.act = r.act ∧
        (∀ l ∈ r.active,
          (∀ n, n < 8 → u.regs.rdW l (n + 16) = r.rdW l n) ∧ (∀ n, 24 ≤ n → n < 32 → u.regs.rdW l n = r.rdW l n) ∧
          (∀ n, n < 8 → u.regs.rdP l n = r.rdP l n)) ∧
        (∀ l, l ∉ r.active → u.regs.lane l = r.lane l))

/-- R75, the spills: after the slide of a call at most 64 entries are resident, the frames that leave are the oldest, 16 entries each at
128 bytes from `w26` up, none that had room is spilled, and a return that goes below the floor fills one frame from below `w26`. -/
def Says.SlidesSpillTheOldestFrames : Prop :=
  ∀ (l : Lane) (k : Nat), l.base + 24 ≤ l.floor + 64 →
    let c := l.callSlide k
    let r := l.retSlide k
    let w26 := l.rdW k 26
    c.base = l.base + 16 ∧ c.base + 24 ≤ c.floor + 64 ∧ c.floor = l.floor + 16 * c.spills.length ∧
    c.w26 = w26 + BitVec.ofNat 64 (128 * c.spills.length) ∧
    (c.spills ≠ [] → c.floor - 16 + 64 < c.base + 24) ∧
    (∀ n, n < c.spills.length → c.spills[n]? = some (l.floor + 16 * (n : Int), (w26 + BitVec.ofNat 64 (128 * n)).toNat)) ∧
    c.fill = none ∧ r.base = l.base - 16 ∧ r.spills = [] ∧
    (l.floor ≤ r.base → r.fill = none ∧ r.floor = l.floor ∧ r.w26 = w26) ∧
    (r.base < l.floor → r.fill = some (r.base, (w26 - 128#64).toNat) ∧ r.floor = r.base ∧ r.w26 = w26 - 128#64)

/-- R234 and R388: `trap` enters the next level for the selected lanes with its code as the cause, the next word as the return point, and
the windows slid, whatever the code is. -/
def Obligations.TrapEntersTheNextLevel : Prop :=
  ∀ (s : State) (st : BitVec 3) (c : BitVec 5) (g : BitVec 4), s.Ready → s.regs.selected g ≠ [] → s.regs.pc + 1 < 2 ^ 14 →
    ∃ t, exec (.trap st c g) s = .next t ∧
      Trapped s t (s.wordAt s.cur s.regs.pc) c.toNat (s.regs.pc + 1) (s.regs.those (s.regs.sel g)) 0#64

/-- R240 and R388: a divide that finds a zero divisor in some selected lane traps with cause 4 for exactly those lanes, returns to itself,
and writes no register. -/
def Says.DivideByZeroTraps : Prop :=
  ∀ (s : State) (st : BitVec 3) (d a b : BitVec 5) (g : BitVec 4), s.Ready → s.regs.pc < 2 ^ 14 →
    let bad := s.regs.those (fun l => s.regs.sel g l && decide (s.regs.rdW l b.toNat = 0#64))
    let bad32 := s.regs.those (fun l => s.regs.sel g l && decide ((s.regs.rdW l b.toNat).setWidth 32 = 0#32))
    let traps (i : Instr) (m : W32) : Prop := ∃ t, exec i s = .next t ∧ Trapped s t (s.wordAt s.cur s.regs.pc) 4 s.regs.pc m 0#64
    (bad ≠ 0#32 → traps (.div st d a b g) bad ∧ traps (.divu st d a b g) bad ∧ traps (.rem st d a b g) bad ∧ traps (.remu st d a b g) bad) ∧
    (bad32 ≠ 0#32 → traps (.div32 st d a b g) bad32 ∧ traps (.divu32 st d a b g) bad32 ∧ traps (.rem32 st d a b g) bad32 ∧
      traps (.remu32 st d a b g) bad32)

/-- R425, R420, R391 and R113: words that fault with cause 2 for every active lane, and `tlbinv` outside a handler with cause 9. -/
def Says.FormMisuseTraps : Prop :=
  ∀ (s : State) (st : BitVec 3) (l : BitVec 2) (a : BitVec 5) (n : BitVec 14) (g : BitVec 4) (o : BitVec 18) (k : BitVec 4) (c : BitVec 6)
    (p q e : BitVec 3), s.Ready → s.regs.pc < 2 ^ 14 →
    let r := s.regs
    let traps (i : Instr) (cause : Nat) : Prop := ∃ t, exec i s = .next t ∧ Trapped s t (s.wordAt s.cur s.regs.pc) cause r.pc r.act 0#64
    (((r.level l.toNat).active = true ∨ ¬ r.inside (r.pc + n.toNat)) → traps (.loop st l a n) 2) ∧
    (¬ r.inside (r.pc + o.toInt) → traps (.br st g o) 2 ∧ traps (.bru st g o) 2 ∧ traps (.call st o) 2) ∧
    (¬ r.inside (r.pc + k.toNat + 1) → traps (.repf st k c p q e) 2) ∧
    ((2 ^ 14 ≤ (r.rdW r.l0 7).toNat ∨ ¬ r.inside (r.rdW r.l0 7).toNat) → traps (.ret st) 2) ∧
    (r.tr.tlvl = 0 → traps (.eret st) 2 ∧ traps (.tlbinv st a) 9)

/-- R244, R253, R425 and R235: `bru`, an `lbrk` on a level that counts, and `ret` fault with cause 2 for exactly the active lanes that disagree
with the lowest one. -/
def Says.DisagreeingLanesTrap : Prop :=
  ∀ (s : State) (st : BitVec 3) (g : BitVec 4) (o : BitVec 18) (l : BitVec 2) (n : BitVec 1) (p : BitVec 3), s.Ready →
    s.regs.pc < 2 ^ 14 →
    let r := s.regs
    let faults (i : Instr) (differs : Nat → Bool) : Prop := r.those differs ≠ 0#32 →
      ∃ t, exec i s = .next t ∧ Trapped s t (s.wordAt s.cur r.pc) 2 r.pc (r.those differs) 0#64
    (r.inside (r.pc + o.toInt) → faults (.bru st g o) (fun k => r.sel g k != r.sel g r.l0)) ∧
    ((r.level l.toNat).active = true → (r.level l.toNat).held = 0 →
      faults (.lbrk st l n p) (fun k => r.rdP k p.toNat != r.rdP r.l0 p.toNat)) ∧
    ((r.rdW r.l0 7).toNat < 2 ^ 14 → r.inside (r.rdW r.l0 7).toNat → faults (.ret st) (fun k => r.rdW k 7 != r.rdW r.l0 7))

/-- R391 and R390: an `eret` whose lanes stand one frame above their bases at the entry restores the active mask, drops the divergence
entries pushed since, frees the held loop levels and the repeat position, and returns to `tpc` one level down. -/
def Obligations.TrapReturnRestoresTheLevel : Prop :=
  ∀ (s : State) (st : BitVec 3) (k : Nat), k = 1 ∨ k = 2 → s.regs.tr.tlvl = k → (s.gang s.cur).sent = [] →
    (s.gang s.cur).ch.fresh = true → (s.gang s.cur).ch.wsec = [] → (s.gang s.cur).pend = [] →
    let r := s.regs
    let h := if k = 1 then r.tr.held1 else r.tr.held2
    let tmk := if k = 1 then r.tr.tmk1 else r.tr.tmk2
    let tpc := (if k = 1 then r.tr.tpc1 else r.tr.tpc2).toNat % 2 ^ 14
    let was : W32 := (tmk >>> 32).setWidth 32
    (∀ l ∈ lanesOf was, (r.lane l).base = tget 0 h.bases l + 16 ∧ (r.lane l).floor ≤ (r.lane l).base - 16) →
    (h.blk.start ≤ tpc ∧ tpc < h.blk.start + h.blk.len) →
      ∃ t, exec (.eret st) s = .next t ∧ t.regs.tr.tlvl = k - 1 ∧ t.regs.pc = tpc ∧ t.regs.act = was &&& r.thr ∧ t.regs.blk = h.blk ∧
        t.regs.rep = h.rep ∧ t.regs.div = r.div.drop (r.div.length - h.mark) ∧ t.mem = s.mem ∧
        (∀ j, (t.regs.level j).held = if (r.level j).held = k then 0 else (r.level j).held) ∧
        (∀ l, l ∈ lanesOf (was &&& r.thr) →
          (∀ n, n < 8 → t.regs.rdW l (n + 16) = r.rdW l n) ∧ (∀ n, 24 ≤ n → n < 32 → t.regs.rdW l n = r.rdW l n)) ∧
        (∀ l, l ∉ lanesOf (was &&& r.thr) → t.regs.lane l = r.lane l)

/-- R388, R390 and R391 together: a `trap` and the `eret` that answers it give back the registers, the active mask, the divergence stack,
the loop levels and the repeat position, at the word after the `trap`. -/
def Obligations.TrapAndReturnGiveTheRegistersBack : Prop :=
  ∀ (s : State) (st st' : BitVec 3) (c : BitVec 5) (g : BitVec 4), s.Ready → s.regs.selected g ≠ [] → s.regs.pc + 1 < 2 ^ 14 →
    s.regs.inside (s.regs.pc + 1) → (s.gang s.cur).sent = [] →
    (∀ l ∈ s.regs.active, s.regs.thr.getLsbD l = true ∧ (s.regs.lane l).floor ≤ (s.regs.lane l).base) →
    (∀ k, (s.regs.level k).held ≤ s.regs.tr.tlvl) → (s.regs.loops.map Prod.fst).Nodup →
      ∃ t u, exec (.trap st c g) s = .next t ∧ exec (.eret st') t = .next u ∧
        u.regs.pc = s.regs.pc + 1 ∧ u.regs.act = s.regs.act ∧ u.regs.thr = s.regs.thr ∧ u.regs.tr.tlvl = s.regs.tr.tlvl ∧
        u.regs.div = s.regs.div ∧ u.regs.loops = s.regs.loops ∧ u.regs.rep = s.regs.rep ∧ u.regs.blk = s.regs.blk ∧ u.mem = s.mem ∧
        (∀ l ∈ s.regs.active, (∀ n, n < 32 → u.regs.rdW l n = s.regs.rdW l n) ∧
          (∀ n, n < 8 → u.regs.rdP l n = s.regs.rdP l n)) ∧
        (∀ l, l ∉ s.regs.active → u.regs.lane l = s.regs.lane l)

/-- R233 and R71: `end` clears the selected lanes from every mask; lanes that stay go on at the next word, and with none left and no entry
on the divergence stack the gang ends. -/
def Obligations.EndTakesLanesAway : Prop :=
  ∀ (s : State) (st : BitVec 3) (g : BitVec 4), s.early → (s.gang s.cur).spec = false → (s.gang s.cur).crew = none →
    (s.gang s.cur).ch.fresh = true → (s.gang s.cur).ch.wsec = [] →
    let r := s.regs
    let m := r.those (r.sel g)
    (m ≠ r.act → ∃ t, exec (.end_ st g) s = .next t ∧ t.regs.act = r.act &&& ~~~m ∧ t.regs.thr = r.thr &&& ~~~m ∧ t.regs.pc = r.next.pc ∧
      t.regs.div = r.div.map (fun e => { e with park := e.park &&& ~~~m, all := e.all &&& ~~~m }) ∧
      (∀ l, t.regs.lane l = r.lane l) ∧ s.SpillsDiv t t.regs.div ∧ (r.div.length ≤ 8 → t.mem = s.mem)) ∧
    (m = r.act → r.div = [] → r.tr.tlvl = 0 → ∃ t, exec (.end_ st g) s = .next t ∧ (t.gang s.cur).live = false ∧ t.mem = s.mem ∧
      ∀ gk, gk ≠ s.cur → t.gang gk = s.gang gk)

/-! ## Loads, stores and atomics (10:R262 to R272) -/

/-- R264 and R207, and log 6 for the moment (DEDUCED: a load takes its value as it issues): a load whose accesses reach plain data counts on its counter and brings every active lane the bytes its chunk reads,
zero- or sign-extended; it changes no memory, and a load to a register that ignores writes still counts. -/
def Says.LoadsBringTheBytesRead : Prop :=
  ∀ (s : State) (st : BitVec 3) (d a : BitVec 5) (x : BitVec 3) (o : BitVec 8) (z c : BitVec 2) (pl : Nat → Place), s.early →
    tget 0 (s.gang s.cur).sb c.toNat < 63 →
    let size := 2 ^ z.toNat
    let off : Word := o.signExtend 64 * BitVec.ofNat 64 size
    let loads (i : Instr) (va : Nat → Word) (ext : Nat → Word) : Prop :=
      s.Reaches (fun l => (va l).toNat) size false .plain pl → (∀ l ∈ s.regs.active, (pl l).far = false) → s.MaySend pl →
      ∃ t, exec i s = .next t ∧ Pends s t c.toNat d.toNat (fun l => ext ((pl l).load (s.chByte s.cur) size)) ∧ t.mem = s.mem
    let zx (v : Nat) : Word := BitVec.ofNat 64 (v % 2 ^ (8 * size))
    let sx (v : Nat) : Word := (BitVec.ofNat (8 * size) v).signExtend 64
    loads (.ld st d a o z c) (fun l => s.regs.rdW l a.toNat + off) zx ∧
    loads (.ldNa st d a o z c) (fun l => s.regs.rdW l a.toNat + off) zx ∧
    loads (.ldSx st d a o z c) (fun l => s.regs.rdW l a.toNat + off) sx ∧
    loads (.ldDesc st d x o z c) (fun l => s.regs.xaddr x.toNat l + off) zx

/-- R265 and R266: a store buffers its lanes' bytes in ascending lane order in the chunk, or holds them for host memory until the commit;
committed memory is unchanged but for what the translations on the way note. -/
def Says.StoresBufferTheirBytes : Prop :=
  ∀ (s : State) (st : BitVec 3) (d a : BitVec 5) (x : BitVec 3) (o : BitVec 8) (z : BitVec 2) (pl : Nat → Place), s.early →
    let size := 2 ^ z.toNat
    let off : Word := o.signExtend 64 * BitVec.ofNat 64 size
    let stores (i : Instr) (va : Nat → Word) : Prop :=
      s.Reaches (fun l => (va l).toNat) size true .plain pl → (∀ l ∈ s.regs.active, (pl l).space ≠ .ms) →
      let near := s.regs.active.filter (fun l => decide ((pl l).space ≠ .host))
      let host := s.regs.active.filter (fun l => decide ((pl l).space = .host))
      (s.regs.active.flatMap (fun l => (pl l).wsecs size) ++ s.wrote).dedup.length ≤ 64 →
      (s.gang s.cur).ch.wsec.Nodup →
      let u := s.noteAll true (s.accesses (fun l => (va l).toNat) pl)
      ∃ t, exec i s = .next t ∧ t.regs.pc = s.regs.next.pc ∧ t.mem = u.mem ∧ (∀ l n, t.regs.rdW l n = s.regs.rdW l n) ∧
        (∀ loc, t.chByte s.cur loc = storedBy (u.chByte s.cur) size near pl (fun l => s.regs.rdW l d.toNat) loc) ∧
        (t.gang s.cur).ch.exts = (s.gang s.cur).ch.exts ++ host.flatMap (fun l =>
          (List.range size).map (fun k => ((pl l).loc + k, (va l).toNat + k, ((s.regs.rdW l d.toNat) >>> (8 * k)).setWidth 8))) ∧
        (∀ gk, gk ≠ s.cur → t.gang gk = s.gang gk)
    stores (.st st d a o z) (fun l => s.regs.rdW l a.toNat + off) ∧
    stores (.stNa st d a o z) (fun l => s.regs.rdW l a.toNat + off) ∧
    stores (.stDesc st d x o z) (fun l => s.regs.xaddr x.toNat l + off)

/-- R264, R265 and R266: a load of which some lane reaches a memory-side page or host memory sends one far operation for those lanes, and its write in flight waits for
the results; a store all of whose lanes reach memory-side pages sends one too, with the values, and puts nothing into the chunk's bytes. -/
def Says.FarAccessesSendOneOperation : Prop :=
  ∀ (s : State) (st : BitVec 3) (d a : BitVec 5) (x : BitVec 3) (o : BitVec 8) (z c : BitVec 2) (pl : Nat → Place), s.early → s.Opens →
    tget 0 (s.gang s.cur).sb c.toNat < 63 → s.regs.active ≠ [] → s.injOff (slOfGk s.cur) = false →
    let size := 2 ^ z.toNat
    let off : Word := o.signExtend 64 * BitVec.ofNat 64 size
    let sent (t : State) (p : FarOp) (op : Nat) : Prop := t.regs = s.regs.next ∧ (t.gang s.cur).far = (s.gang s.cur).far ++ [p] ∧
      p.op = op ∧ p.size = size ∧ p.perf = false ∧ p.res = [] ∧
      (∀ l, (∃ e ∈ p.lanes, e.lane = l) ↔ l ∈ s.regs.active ∧ (pl l).far = true) ∧ ∀ e ∈ p.lanes, e.loc = (pl e.lane).loc
    let loads (i : Instr) (va : Nat → Word) (ext : Nat) : Prop :=
      s.Reaches (fun l => (va l).toNat) size false .plain pl → (∃ l ∈ s.regs.active, (pl l).far = true) →
      ∃ t p, exec i s = .next t ∧ sent t p 11 ∧ p.ext = ext ∧ t.mem = s.mem ∧
        tget 0 (t.gang s.cur).sb c.toNat = tget 0 (s.gang s.cur).sb c.toNat + 1 ∧
        ∃ w, (t.gang s.cur).pend = (s.gang s.cur).pend ++ [w] ∧ w.land = none ∧ w.ctr = some c.toNat ∧ w.ready = false ∧ p.pid = some w.id
    let stores (i : Instr) (va : Nat → Word) : Prop :=
      s.Reaches (fun l => (va l).toNat) size true .plain pl → (∀ l ∈ s.regs.active, (pl l).space = .ms) →
      ∃ t p, exec i s = .next t ∧ sent t p 12 ∧ (∀ e ∈ p.lanes, e.v = (s.regs.rdW e.lane d.toNat).toNat % 2 ^ (8 * size)) ∧
        p.pid = none ∧ (t.gang s.cur).pend = (s.gang s.cur).pend ∧ (t.gang s.cur).ch.wbuf = (s.gang s.cur).ch.wbuf
    loads (.ld st d a o z c) (fun l => s.regs.rdW l a.toNat + off) 1 ∧
    loads (.ldNa st d a o z c) (fun l => s.regs.rdW l a.toNat + off) 1 ∧
    loads (.ldSx st d a o z c) (fun l => s.regs.rdW l a.toNat + off) 2 ∧
    loads (.ldDesc st d x o z c) (fun l => s.regs.xaddr x.toNat l + off) 1 ∧
    stores (.st st d a o z) (fun l => s.regs.rdW l a.toNat + off) ∧
    stores (.stNa st d a o z) (fun l => s.regs.rdW l a.toNat + off) ∧
    stores (.stDesc st d x o z) (fun l => s.regs.xaddr x.toNat l + off)

/-- R265 and 04:R101: what a plain store writes outside a decoding window is the value's bytes, the lowest first, and a load of the same
place gives the value back; no other byte is written. -/
def Says.PlainPlacesAreLittleEndian : Prop :=
  ∀ (p : Place) (rd : Nat → Byte) (size v : Nat), p.space ≠ .win →
    p.store rd size v = ((List.range size).map (fun k => (p.loc + k, BitVec.ofNat 8 (v / 2 ^ (8 * k)))), 0#5) ∧
    p.load (wroteBytes rd (p.store rd size v).1) size = v % 2 ^ (8 * size) ∧
    ∀ a, (a < p.loc ∨ p.loc + size ≤ a) → wroteBytes rd (p.store rd size v).1 a = rd a

/-- 04:R101 to R104: an element that a decoding window stores reads back as the stored value rounded to the window's format, ties to even
with saturation; no other element of the window changes. -/
def Says.WindowElementsRoundAndStandAlone : Prop :=
  ∀ (p : Place) (rd : Nat → Byte) (v k : Nat), p.space = .win → 1 ≤ p.fmt → p.fmt ≤ 4 → v < 2 ^ 32 →
    let rd' := wroteBytes rd (p.store rd 4 v).1
    p.load rd' 4 = (widen p.fmt (narrow p.fmt 0 true v).1).1 ∧ (p.store rd 4 v).2 = (narrow p.fmt 0 true v).2 ∧
    (k ≠ 0 → p.rawElem rd' k = p.rawElem rd k) ∧
    ∀ a, (a < p.ext + fmtBits p.fmt * p.elem / 8 ∨ p.ext + (fmtBits p.fmt * p.elem + fmtBits p.fmt + 7) / 8 ≤ a) → rd' a = rd a

/-- R262: when no lane fails the word goes on; otherwise the earliest row that any lane met gives the cause, every failing lane is named,
and the address is that of the lowest lane that met the row; rows 6 and 8 wait for the hypervisor. -/
def Says.ChecksDecideByTheEarliestRow : Prop :=
  ∀ (cs : List LaneChk),
    ((∀ c ∈ cs, ∃ p, c.chk = .ok p) → verdict cs = .pass) ∧
    (∀ (pre post : List LaneChk) (c : LaneChk), cs = pre ++ c :: post → c.chk.row ≠ 9 →
      (∀ x ∈ pre, c.chk.row < x.chk.row) → (∀ x ∈ post, c.chk.row ≤ x.chk.row) →
      (∀ r cause, c.chk = .bad r cause →
        ∃ m, verdict cs = .trap cause m c.va ∧ ∀ l, l < 32 → (m.getLsbD l = true ↔ ∃ x ∈ cs, x.chk.row ≠ 9 ∧ x.lane = l)) ∧
      (∀ ipa t p, c.chk = .stage2 ipa t p → verdict cs = .stage2 c.va ipa t p))

/-- R262 and R388: a load or store whose checks fail on rows 1 to 5 or 7 traps at itself with the cause, the lanes and the address those
checks give, and performs nothing. -/
def Says.FailedChecksTrap : Prop :=
  ∀ (s : State) (st : BitVec 3) (d a b : BitVec 5) (o : BitVec 8) (z c : BitVec 2) (cause : Nat) (m : W32) (va : Nat),
    s.Ready → s.regs.pc < 2 ^ 14 → cause < 256 → va < 2 ^ 64 → (∀ k, tget 0 (s.gang s.cur).sb k < 63) →
    let addr (l : Nat) : Nat := (s.regs.rdW l a.toNat + o.signExtend 64 * BitVec.ofNat 64 (2 ^ z.toNat)).toNat
    let at_ (l : Nat) : Nat := (s.regs.rdW l a.toNat).toNat
    let traps (i : Instr) : Prop := ∃ t, exec i s = .next t ∧ Trapped s t (s.wordAt s.cur s.regs.pc) cause s.regs.pc m (BitVec.ofNat 64 va)
    (verdict (s.laneChks s.regs.active addr (2 ^ z.toNat) false .plain) = .trap cause m va →
      traps (.ld st d a o z c) ∧ traps (.ldSx st d a o z c) ∧ traps (.ldNa st d a o z c)) ∧
    (verdict (s.laneChks s.regs.active addr (2 ^ z.toNat) true .plain) = .trap cause m va →
      traps (.st st d a o z) ∧ traps (.stNa st d a o z)) ∧
    (verdict (s.laneChks s.regs.active at_ (4 * 2 ^ z.toNat) true .natom) = .trap cause m va →
      traps (.natomAdd st d a b z) ∧ traps (.natomSwap st d a b z))

/-- 10:R262 and 04:R94 to R96: the checks of one access of the local spaces. TCM takes loads and stores of 8 to 64 bits and `natom` of 32 to
128, and no `fatom`; the system area and the gaps take none, an access that is not aligned fails, and a straddling one fails first. -/
def Says.LocalSpacesCheckTheirAccess : Prop :=
  ∀ (s : State) (ck va size : Nat) (wr : Bool) (tl : Nat), (size = 1 ∨ size = 2 ∨ size = 4 ∨ size = 8 ∨ size = 16) → va < 2 ^ 64 →
    (0x1_0000 ≤ va → va + size ≤ 0x1_7000 → va % size = 0 →
      (size ≤ 8 → s.check ck va size wr .plain tl = .ok { space := .tcm, loc := tcmLoc ck (va - 0x1_0000) }) ∧
      (4 ≤ size → s.check ck va size wr .natom tl = .ok { space := .tcm, loc := tcmLoc ck (va - 0x1_0000) }) ∧
      (4 ≤ size → s.check ck va size wr .fatom tl = .bad 4 9)) ∧
    (size ≤ 8 →
      (0x1_0000 ≤ va → va + size ≤ 0x1_7000 → va % size ≠ 0 → s.check ck va size wr .plain tl = .bad 2 5) ∧
      (0x1_7000 ≤ va → va + size ≤ 0x1_8000 → va % size = 0 → s.check ck va size wr .plain tl = .bad 3 9) ∧
      (va < 0x1_0000 → va + size ≤ 0x1_0000 → va % size = 0 → s.check ck va size wr .plain tl = .bad 3 9) ∧
      (va < 0x1_7000 → 0x1_7000 < va + size → s.check ck va size wr .plain tl = .bad 1 6))

/-- R269: the new value of every integer member, over n-bit values, and `fadd` element by element under the lane's rounding mode. -/
def Obligations.AtomicMembersGiveTheirNewValue : Prop :=
  ∀ (size m old v c : Nat), (size = 4 ∨ size = 8 ∨ size = 16) → old < 2 ^ (8 * size) → v < 2 ^ (8 * size) → c < 2 ^ (8 * size) →
    let n := 8 * size
    let x := BitVec.ofNat n old
    let y := BitVec.ofNat n v
    let new (op : Nat) (r : BitVec n) : Prop := atomNew op size m old v c = (r.toNat, 0#5)
    new 0 (x + y) ∧ new 1 (x &&& y) ∧ new 2 (x ||| y) ∧ new 3 (x ^^^ y) ∧
    new 4 (if x.sle y then x else y) ∧ new 5 (if x.sle y then y else x) ∧
    new 6 (if x.ule y then x else y) ∧ new 7 (if x.ule y then y else x) ∧ new 8 y ∧
    new 9 (if old = c then y else x) ∧ new 11 x ∧ new 12 y ∧
    (∀ e, 32 * e < n →
      (atomNew 10 size m old v c).1 / 2 ^ (32 * e) % 2 ^ 32 =
        (fAdd m (old / 2 ^ (32 * e) % 2 ^ 32) (v / 2 ^ (32 * e) % 2 ^ 32)).1 % 2 ^ 32)

/-- R272: `fatom.swap`, `cas`, `load` and `store` with use 1 trap as they issue, with cause 2, for every active lane. -/
def Says.CommutativeMisuseTraps : Prop :=
  ∀ (s : State) (st : BitVec 3) (d a b : BitVec 5) (z : BitVec 2), s.Ready → s.regs.pc < 2 ^ 14 →
    let traps (i : Instr) : Prop :=
      ∃ t, exec i s = .next t ∧ Trapped s t (s.wordAt s.cur s.regs.pc) 2 s.regs.pc s.regs.act 0#64
    traps (.fatomSwap st d a b 1#3 z) ∧ traps (.fatomCas st d a b 1#3 z) ∧ traps (.fatomLoad st d a 1#3 z) ∧
      traps (.fatomStore st a b 1#3 z)

/-- R270 and R268: `natom` reads, computes and writes lane after lane in the chunk, and brings every active lane the old value on counter
3, in a register pair where it has 128 bits. -/
def Says.AtomicsInTheChunkReadThenWrite : Prop :=
  ∀ (s : State) (st : BitVec 3) (d a b : BitVec 5) (z : BitVec 2) (pl : Nat → Place), s.early → z ≠ 3#2 →
    tget 0 (s.gang s.cur).sb 3 < 63 →
    let size := 4 * 2 ^ z.toNat
    let va (l : Nat) : Nat := (s.regs.rdW l a.toNat).toNat
    s.Reaches va size true .natom pl → s.MaySend pl →
    (s.regs.active.flatMap (fun l => sectorsOf (pl l).loc size) ++ s.wrote).dedup.length ≤ 64 →
    (s.gang s.cur).ch.wsec.Nodup →
    let arg (l : Nat) (n : BitVec 5) : Nat := s.regs.operand l n.toNat z
    let u := s.noteAll true (s.accesses va pl)
    let one (op : Nat) (m : Nat → Byte) (l : Nat) : Nat × Nat :=
      (readLe m (pl l).loc size, (atomNew op size (s.regs.lane l).frm.toNat (readLe m (pl l).loc size) (arg l b) (arg l d)).1)
    let run (op : Nat) : List (Nat × Nat) × (Nat → Byte) := s.regs.active.foldl (fun acc l =>
      (acc.1 ++ [(l, (one op acc.2 l).1)],
       wroteBytes acc.2 ((List.range size).map (fun k => ((pl l).loc + k, BitVec.ofNat 8 ((one op acc.2 l).2 / 2 ^ (8 * k)))))))
      ([], u.chByte s.cur)
    let old (op l : Nat) : Nat := tget 0 (run op).1 l
    let works (i : Instr) (op : Nat) : Prop := ∃ t, exec i s = .next t ∧ t.mem = u.mem ∧
      (∀ loc, t.chByte s.cur loc = (run op).2 loc) ∧ t.regs.pc = s.regs.next.pc ∧ (∀ l n, t.regs.rdW l n = s.regs.rdW l n) ∧
      tget 0 (t.gang s.cur).sb 3 = tget 0 (s.gang s.cur).sb 3 + 1 ∧
      (∃ w, (t.gang s.cur).pend = (s.gang s.cur).pend ++ [w] ∧ w.land = none ∧ w.ctr = some 3 ∧ w.ready = true ∧
        Supplies w s.regs s.regs.active d.toNat (if size = 16 then 2 else 1) (fun l h =>
          if size = 4 then (BitVec.ofNat 32 (old op l)).signExtend 64 else BitVec.ofNat 64 (old op l / 2 ^ (64 * h))))
    works (.natomAdd st d a b z) 0 ∧ works (.natomAnd st d a b z) 1 ∧ works (.natomOr st d a b z) 2 ∧ works (.natomXor st d a b z) 3 ∧
    works (.natomSmin st d a b z) 4 ∧ works (.natomSmax st d a b z) 5 ∧ works (.natomUmin st d a b z) 6 ∧
    works (.natomUmax st d a b z) 7 ∧ works (.natomSwap st d a b z) 8 ∧ works (.natomCas st d a b z) 9 ∧ works (.natomFadd st d a b z) 10

/-- R271 and R169: `fatom` sends one far operation for the word, with the lanes' addresses, operands and use, and logs it; a counted use
adds one write in flight on counter 3, and use 1 returns nothing. A release has waited for the far operations before it. -/
def Says.FarAtomicsSendOneOperation : Prop :=
  ∀ (s : State) (st : BitVec 3) (d a b : BitVec 5) (u : BitVec 3) (z : BitVec 2) (pl : Nat → Place), s.early → s.Opens →
    tget 0 (s.gang s.cur).sb 3 < 63 → (s.gang s.cur).farDone = true → (∀ e ∈ s.links.unacked, e.gk ≠ s.cur) →
    s.injOff (slOfGk s.cur) = false →
    let size := 4 * 2 ^ z.toNat
    let va (l : Nat) : Nat := (s.regs.rdW l a.toNat).toNat
    let sends (i : Instr) (op : Nat) (wr : Bool) : Prop := s.Reaches va size wr .fatom pl →
      ∃ t o, exec i s = .next t ∧ t.regs = s.regs.next ∧ (t.gang s.cur).far = (s.gang s.cur).far ++ [o] ∧ o.op = op ∧ o.size = size ∧
        o.use = (if u = 4#3 ∧ (s.gang s.cur).task = none then 2 else u.toNat) ∧ o.perf = false ∧ o.res = [] ∧
        (∀ l, (∃ e ∈ o.lanes, e.lane = l) ↔ l ∈ s.regs.active) ∧
        (∀ e ∈ o.lanes, e.loc = (pl e.lane).loc ∧ (op ≠ 11 → e.v = s.regs.operand e.lane b.toNat z) ∧
          (op = 9 → e.c = s.regs.operand e.lane d.toNat z)) ∧
        (t.gang s.cur).ch.log.length = 1 ∧
        (u = 1#3 → (t.gang s.cur).pend = (s.gang s.cur).pend ∧ ∀ k, tget 0 (t.gang s.cur).sb k = tget 0 (s.gang s.cur).sb k) ∧
        (u ≠ 1#3 → tget 0 (t.gang s.cur).sb 3 = tget 0 (s.gang s.cur).sb 3 + 1 ∧
          ∃ w, (t.gang s.cur).pend = (s.gang s.cur).pend ++ [w] ∧ o.pid = some w.id ∧ w.ready = false ∧ w.ctr = some 3)
    sends (.fatomAdd st d a b u z) 0 true ∧ sends (.fatomAnd st d a b u z) 1 true ∧ sends (.fatomOr st d a b u z) 2 true ∧
    sends (.fatomXor st d a b u z) 3 true ∧ sends (.fatomSmin st d a b u z) 4 true ∧ sends (.fatomSmax st d a b u z) 5 true ∧
    sends (.fatomUmin st d a b u z) 6 true ∧ sends (.fatomUmax st d a b u z) 7 true ∧ sends (.fatomFadd st d a b u z) 10 true ∧
    (u ≠ 1#3 → sends (.fatomSwap st d a b u z) 8 true ∧ sends (.fatomCas st d a b u z) 9 true ∧ sends (.fatomLoad st d a u z) 11 false ∧
      sends (.fatomStore st a b u z) 12 true)

/-! ## Synchronisation and mailboxes (10:R273 to R282) -/

/-- R274: a fence whose scope has drained goes on, its chunk ended, and changes no register and no memory. -/
def Says.FenceGoesOnOnceDrained : Prop :=
  ∀ (s : State) (st : BitVec 3) (c : BitVec 2), s.Opens → s.drained c.toNat = true →
    ∃ t, exec (.fence st c) s = .next t ∧ t.regs = s.regs.next ∧ (t.gang s.cur).ch = {} ∧ t.mem = s.mem ∧
      ∀ gk, gk ≠ s.cur → t.gang gk = s.gang gk

/-- R276: what each member does to a barrier object bound to the gang's crew, i(L) being the lane's index in the crew: membership,
arrivals, the phase completed at the last arrival, and the values written. -/
def Says.BarrierMembersServeTheirObject : Prop :=
  ∀ (s : State) (st : BitVec 3) (d : BitVec 5) (k j : BitVec 4) (c : BitVec 2) (x : CrewRes), s.early → s.Opens → s.drained c.toNat = true →
    s.crewOf = some x →
    let b := s.bar k.toNat
    let me := (x.launch, x.crew)
    let idx (l : Nat) : Nat := s.crewIdx x l
    let gone : Barrier := { bound := none, member := 0#1024, arrived := 0#1024, phase := 0#32 }
    let arrived := s.regs.active.foldl (fun v l => v ||| BitVec.ofNat 1024 (2 ^ idx l)) b.arrived
    let left (v : BitVec 1024) := s.regs.active.foldl (fun v l => v &&& ~~~(BitVec.ofNat 1024 (2 ^ idx l))) v
    let met : Barrier := if b.member ≠ 0#1024 ∧ arrived = b.member then { b with arrived := 0#1024, phase := b.phase + 1#32 }
      else { b with arrived := arrived }
    let turn := decide (left b.arrived = left b.member)
    let phase (_ : Nat) : Word := b.phase.setWidth 64
    let may := ∀ l ∈ s.regs.active, b.member.getLsbD (idx l) = true ∧ b.arrived.getLsbD (idx l) = false
    (b.bound = none → ∃ t, exec (.barj st k c) s = .next t ∧ t.regs = s.regs.next ∧
      t.bar k.toNat = { bound := some me, member := BitVec.ofNat 1024 (2 ^ x.size - 1), arrived := 0#1024, phase := 0#32 }) ∧
    (b.bound = some me → ∃ t, exec (.barj st k c) s = .next t ∧ t.regs = s.regs.next ∧ t.bar k.toNat = b) ∧
    (b.bound = some me → ∃ t, exec (.barl st k c) s = .next t ∧ t.regs = s.regs.next ∧
      t.bar k.toNat = if left b.member = 0#1024 then { gone with arrived := left b.arrived }
        else if turn then { b with member := left b.member, arrived := 0#1024, phase := b.phase + 1#32 }
        else { b with member := left b.member, arrived := left b.arrived }) ∧
    (b.bound = some me → may → s.regs.active ≠ [] → ∃ t, exec (.bara st d k c) s = .next t ∧ HoldsBut Gang.unmet s t d.toNat phase ∧ t.bar k.toNat = met) ∧
    (b.bound = some me → may → s.regs.active ≠ [] → met.phase ≠ b.phase →
      ∃ t, exec (.baraw st d k c) s = .next t ∧ HoldsBut Gang.unmet s t d.toNat phase ∧ t.bar k.toNat = met) ∧
    (b.bound = some me → (∀ l ∈ s.regs.active, (s.regs.rdW l d.toNat).setWidth 32 ≠ b.phase) →
      ∃ t, exec (.barw st d k c) s = .next t ∧ t.regs = s.regs.next ∧ t.bar k.toNat = b) ∧
    (b.bound = some me → ∃ t, exec (.barm st d k j) s = .next t ∧ t.bar k.toNat = b ∧
      Holds s t d.toNat (fun _ => (b.member &&& ~~~b.arrived).extractLsb' (64 * j.toNat) 64)) ∧
    (b.bound = none → ∃ t, exec (.barm st d k j) s = .next t ∧ t.bar k.toNat = b ∧ Holds s t d.toNat (fun _ => 0#64))

/-- R276: a word whose lanes are no crew threads, whose object another crew holds, or that arrives twice, is misuse: it traps with cause 13
and the object stays as it was; so is a `barm` by a lane that is no crew thread, or of an object that another crew holds. -/
def Says.BarrierMisuseTraps : Prop :=
  ∀ (s : State) (st : BitVec 3) (d : BitVec 5) (k j : BitVec 4) (c : BitVec 2), s.Ready → s.Opens → s.drained c.toNat = true →
    s.regs.pc < 2 ^ 14 →
    let b := s.bar k.toNat
    let traps (i : Instr) : Prop := ∃ t, exec i s = .next t ∧ Trapped s t (s.wordAt s.cur s.regs.pc) 13 s.regs.pc s.regs.act 0#64 ∧ t.bar k.toNat = b
    (s.crewOf = none → traps (.barj st k c) ∧ traps (.barl st k c) ∧ traps (.bara st d k c) ∧ traps (.barw st d k c) ∧
      traps (.baraw st d k c) ∧ traps (.barm st d k j)) ∧
    (∀ x, s.crewOf = some x → b.bound ≠ some (x.launch, x.crew) →
      traps (.barl st k c) ∧ traps (.bara st d k c) ∧ traps (.barw st d k c) ∧ traps (.baraw st d k c) ∧
      (b.bound ≠ none → traps (.barj st k c) ∧ traps (.barm st d k j))) ∧
    (∀ x, s.crewOf = some x → b.bound = some (x.launch, x.crew) →
      (∃ l ∈ s.regs.active, b.member.getLsbD (s.crewIdx x l) = false ∨ b.arrived.getLsbD (s.crewIdx x l) = true) →
      traps (.bara st d k c) ∧ traps (.baraw st d k c))

/-- R278: `itinit` sets a counter, and `getchunk` hands its ranges out lane after lane, every index below the limit exactly once. -/
def Says.IterationCountersHandOutRanges : Prop :=
  ∀ (s : State) (st : BitVec 3) (d k : BitVec 4) (c : BitVec 2), s.early → s.Opens → s.drained c.toNat = true →
    let x := s.iter k.toNat
    let take (x : IterCtr) : Nat :=
      if x.next.toNat < x.limit.toNat then min (max 1 x.grain.toNat) (x.limit.toNat - x.next.toNat) else 0
    let after : Nat → IterCtr := fun n => n.rec x (fun _ y => { y with next := BitVec.ofNat 64 (y.next.toNat + take y) })
    (∃ t, exec (.itinit st d k c) s = .next t ∧ t.regs = s.regs.next ∧
      t.iter k.toNat = { next := 0#64, limit := s.regs.rdW s.regs.l0 (2 * d.toNat)
                         grain := (s.regs.rdW s.regs.l0 (2 * d.toNat + 1)).setWidth 32 }) ∧
    ∃ t, exec (.getchunk st d k c) s = .next t ∧ t.regs.pc = s.regs.next.pc ∧ t.iter k.toNat = after s.regs.active.length ∧
      (∀ n l m, s.regs.active[n]? = some l → m < 32 →
        t.regs.rdW l m = if m = 2 * d.toNat ∧ m ≠ 24 then (after n).next
          else if m = 2 * d.toNat + 1 ∧ m ≠ 25 ∧ m ≠ 31 then BitVec.ofNat 64 (take (after n)) else s.regs.rdW l m) ∧
      ∀ l, l ∉ s.regs.active → t.regs.lane l = s.regs.lane l

/-- R279: a tile word that need not wait goes on; `tsetf` fills an empty, unclaimed tile and counts, `tsete` empties a full one that is
neither read nor claimed; no other byte changes but where the page's `d` bit lies. Misuse traps with cause 20. -/
def Obligations.TileWordsActOnTheHeader : Prop :=
  ∀ (s : State) (st : BitVec 3) (a : BitVec 5) (c : BitVec 2), s.Opens → s.drained c.toNat = true → s.arbFree = true →
    let i := (s.regs.rdW s.regs.l0 a.toNat).toNat
    let cx := s.gangCx s.cur
    let h := s.tile cx i
    let sets (j : Instr) (h' : TileSt) : Prop := s.MemOk → (∀ e ∈ s.gangs, e.2.task = none) → s.TileApart cx i →
      ∃ t bs, exec j s = .next t ∧ t.regs = s.regs.next ∧ t.tile cx i = h' ∧ bs.length = 8 ∧
        ∀ loc, (∀ k, k < 8 → s.links.home loc ≠ s.links.home (s.tileAt cx i + k)) →
          s.tileLeaf cx i bs ≠ some (s.links.home loc / 256) → t.rdByte (s.keyNo cx) loc = s.rdByte (s.keyNo cx) loc
    let traps (j : Instr) : Prop := s.Ready → s.regs.pc < 2 ^ 14 →
      ∃ t, exec j s = .next t ∧ Trapped s t (s.wordAt s.cur s.regs.pc) 20 s.regs.pc s.regs.act 0#64
    (i < (s.ctx cx).ntiles →
      (h.full = true → ∃ t, exec (.twaitf st a c) s = .next t ∧ t.regs = s.regs.next ∧ t.mem = s.mem) ∧
      (h.full = false → h.wclaim = false → ∃ t, exec (.twaite st a c) s = .next t ∧ t.regs = s.regs.next ∧ t.mem = s.mem) ∧
      (h.full = false → h.wclaim = false → sets (.tsetf st a c) { h with full := true, seq := (h.seq + 1) % 2 ^ 32 }) ∧
      (h.full = true → h.rd = 0 → h.cclaim = false → sets (.tsete st a c) { h with full := false }) ∧
      ((h.full = true ∨ h.wclaim = true) → traps (.tsetf st a c)) ∧
      ((h.full = false ∨ h.rd ≠ 0 ∨ h.cclaim = true) → traps (.tsete st a c))) ∧
    ((s.ctx cx).ntiles ≤ i → traps (.twaitf st a c) ∧ traps (.twaite st a c) ∧ traps (.tsetf st a c) ∧ traps (.tsete st a c))

/-- R281 and R282: `putm` sends each selected lane's value to the core it names; `getm` takes the value of a mailbox whose bit is set and
`clrm` clears the bit, both at the chunk's commit; `peekm` and `tstm` read the value and the bit. -/
def Obligations.MailWordsSendAndTake : Prop :=
  ∀ (s : State) (st : BitVec 3) (d a b : BitVec 5) (g : BitVec 4), s.early →
    let ck := ckOfGk s.cur
    let box := tget {} (s.core ck).mail b.toNat
    let num := mbOf ck b.toNat
    let bit := box.pres && !(s.gang s.cur).ch.mcons.contains num
    let to_ (l : Nat) : Nat := ckOf (slOfGk s.cur) (s.regs.rdW l a.toNat).toNat
    let reads (i : Instr) (v : Word) : Prop := s.freeW d.toNat → ∃ t, exec i s = .next t ∧
      (∀ l n, n < 32 → t.W l n = (intoW d.toNat s.regs.active (fun _ => v) l n).getD (s.W l n)) ∧ num ∈ (t.gang s.cur).ch.mread ∧
      (t.gang s.cur).ch.mcons = (s.gang s.cur).ch.mcons ∧ t.core ck = { s.core ck with nextIssue := s.now + 1, lastIssued := slotOfGk s.cur }
    reads (.peekm st d b) box.val ∧
    reads (.tstm st d b) (if bit then 1#64 else 0#64) ∧
    (∃ t, exec (.clrm st b) s = .next t ∧ t.regs = s.regs.next ∧ num ∈ (t.gang s.cur).ch.mcons) ∧
    (bit = true → ∃ t, exec (.getm st d b) s = .next t ∧ Holds s t d.toNat (fun _ => box.val) ∧ num ∈ (t.gang s.cur).ch.mcons ∧
      num ∈ (t.gang s.cur).ch.mread) ∧
    (s.Opens → s.drained 2 = true →
      (∀ l ∈ s.regs.selected g, (s.regs.rdW l a.toNat).toNat < (s.slice (slOfGk s.cur)).ncores) →
      s.injOff (slOfGk s.cur) = false →
      (∀ ck', (s.core ck').mbuf.length + (s.core ck').inbox.length + ((s.regs.selected g).filter (fun l => to_ l == ck')).length ≤ 16) →
      ∃ t, exec (.putm st d a b g) s = .next t ∧ t.regs = s.regs.next ∧ t.mem = s.mem ∧
        ∀ ck', ∃ ms, (t.core ck').inbox = (s.core ck').inbox ++ ms ∧ ms.map (fun m => (m.mb, m.v, m.src)) =
          ((s.regs.selected g).filter (fun l => to_ l == ck')).map (fun l => (b.toNat, s.regs.rdW l d.toNat, quadOfQk (qkOfGk s.cur))))

/-! ## Transfers (09:R245 to R250) -/

/-- R246 and R247: each selected lane of `jmpe`, `jmpi`, `sende`, `spawn` and `tspawn` sends one packet that carries its handle, thread
index, predicates, `w26`, `w27` and live registers to the quad its gang chooses; lanes of a jump leave, the others go on. A record of
`spawn` or `tspawn` whose block is placed here goes to the front of the core's deque, whose records beyond the newest 64 lie in the TCM
(R73, R78), once the deque has served its operation of an earlier cycle (R81). A handle register gives its value from before the writes of the cycle (R219). -/
def Says.TransfersSendOnePacketForEachLane : Prop :=
  ∀ (s : State) (st : BitVec 3) (e : BitVec 16) (n : BitVec 5) (g : BitVec 4) (tgt : Nat → Target), s.early → s.Opens →
    s.regs.tr.tlvl = 0 → (s.gang s.cur).crew = none → (s.gang s.cur).task = none → (s.quad (qkOfGk s.cur)).resend.length < 32 →
    let lanes := s.regs.selected g
    let m := s.regs.those (s.regs.sel g)
    let slot (_ : Nat) : Word := s.linkSlot e.toNat
    let reg (l : Nat) : Word := s.handleReg n l
    let valid (k : XKind) (h : Nat → Word) : Prop := ∀ l ∈ lanes, s.resolve (s.gangCx s.cur) (h l) = some (tgt l) ∧
      (tgt l).rec_.flags % 2 = 0 ∧ s.QuadExists k (tgt l) (s.regs.lane l).tidx.toNat
    let packet (h : Nat → Word) (l : Nat) : Packet := s.wire (h l) (s.regs.rdW l 27) (s.regs.rdW l 26) (tgt l).rec_.live l
    let dest (k : XKind) (h : Nat → Word) (l : Nat) : Option Nat :=
      (s.fillAll lanes h).destOf k (tgt l) (s.regs.lane l).tidx.toNat
    let here (k : XKind) (h : Nat → Word) : List Nat := lanes.filter (fun l => (dest k h l).isNone)
    let away (k : XKind) (h : Nat → Word) : List Nat := lanes.filter (fun l => (dest k h l).isSome)
    let goes (i : Instr) (k : XKind) (h : Nat → Word) (leaves : Bool) (p : Nat → Packet) (q : Nat → Packet) : Prop := valid k h →
      (leaves = true → m ≠ s.regs.act) →
      (s.core (ckOfGk s.cur)).deque.length + (here k h).length ≤ 88 → (here k h ≠ [] → (s.core (ckOfGk s.cur)).dqBy ≤ s.now) →
      ∃ t, exec i s = .next t ∧ s.KeepsMem t ∧ Departs s t (away k h) (fun l => (dest k h l).getD 0) p ∧
        (s.regs.div.length ≤ 8 → (s.core (ckOfGk s.cur)).deque.length + (here k h).length ≤ 64 → t.mem = s.mem) ∧
        (t.core (ckOfGk s.cur)).deque = ((here k h).map q).reverse ++ (s.core (ckOfGk s.cur)).deque ∧
        (here k h ≠ [] → ∀ i p, ((t.core (ckOfGk s.cur)).deque.drop 64).reverse[i]? = some p → ∀ b, b < 128 →
          Memory.get t.mem (tcmLoc (ckOfGk s.cur) (0x7400 + 128 * i) + b) = p.bytes.getD b 0#8) ∧
        (if leaves then Left s t m else t.regs = s.regs.next)
    let task (h : Nat → Word) (l : Nat) : Packet := { packet h l with task := true }
    let stamped (h : Nat → Word) (l : Nat) : Packet :=
      { packet h l with task := true, ts := true, stamp := s.regs.rdW l 28 }
    goes (.jmpe st e g) .jmp slot true (packet slot) (packet slot) ∧
    goes (.jmpi st n g) .jmp reg true (packet reg) (packet reg) ∧
    goes (.sende st e g) .copy slot false (packet slot) (packet slot) ∧
    goes (.spawn st e g) .spawn slot false (packet slot) (task slot) ∧
    goes (.tspawn st e g) .tspawn slot false (stamped slot) (stamped slot)

/-- R248: `calle` and `calli`, none of whose frames lies below its window, save each selected lane's link at `w26`, carry the return entry's
handle as the link and `w26` + 8 as the pointer, and the lanes leave; `rete` goes the other way. -/
def Obligations.CallsAndReturnsKeepTheLink : Prop :=
  ∀ (s : State) (st : BitVec 3) (e : BitVec 16) (n : BitVec 5) (g : BitVec 4) (tgt : Nat → Target) (pl : Nat → Place) (back : Nat),
    s.MemOk → s.early → s.Opens → s.regs.tr.tlvl = 0 → (s.gang s.cur).crew = none → (∀ x ∈ s.gangs, x.2.task = none) →
    (s.quad (qkOfGk s.cur)).resend.length < 32 → s.sole = [] →
    (∀ x ∈ s.gangs, x.2.ch.asked = none) →
    let lanes := s.regs.selected g
    let m := s.regs.those (s.regs.sel g)
    let cx := s.gangCx s.cur
    let slot (_ : Nat) : Word := s.linkSlot e.toNat
    let w26 (l : Nat) : Word := s.regs.rdW l 26
    m ≠ s.regs.act → (∀ l ∈ lanes, (s.regs.lane l).floor = (s.regs.lane l).base) → (∀ l ∈ lanes, (pl l).space = .tcm) →
    let valid (k : XKind) (h : Nat → Word) : Prop := ∀ l ∈ lanes, s.resolve cx (h l) = some (tgt l) ∧ (tgt l).rec_.flags % 2 = 0 ∧
      s.QuadExists k (tgt l) (s.regs.lane l).tidx.toNat
    let dest (h : Nat → Word) (l : Nat) : Nat :=
      ((s.fillAll lanes h).destOf .jmp (tgt l) (s.regs.lane l).tidx.toNat).getD 0
    let calls (i : Instr) (h : Nat → Word) : Prop := valid .call h → s.returnEntry = some back →
      (∀ l ∈ lanes, s.check (ckOfGk s.cur) (w26 l).toNat 8 true .plain 0 = .ok (pl l)) →
      ∃ t, exec i s = .next t ∧ Left s t m ∧
        Departs s t lanes (dest h) (fun l => s.wire (h l) (s.handleOf cx s.regs.blk.obj back) (w26 l + 8#64) (tgt l).rec_.live l) ∧
        ∀ l ∈ lanes, (∀ k ∈ lanes, k ≠ l → (pl k).loc + 8 ≤ (pl l).loc ∨ (pl l).loc + 8 ≤ (pl k).loc) →
          ∀ b, b < 8 → t.rdByte (s.keyNo cx) ((pl l).loc + b) = ((s.regs.rdW l 27) >>> (8 * b)).setWidth 8
    calls (.calle st e g) slot ∧ calls (.calli st n g) (s.handleReg n) ∧
    (valid .ret (fun l => s.regs.rdW l 27) →
      (∀ l ∈ lanes, s.check (ckOfGk s.cur) (w26 l - 8#64).toNat 8 false .plain 0 = .ok (pl l)) →
      ∃ t, exec (.rete st g) s = .next t ∧ Left s t m ∧ s.KeepsMem t ∧ (s.regs.div.length ≤ 8 → t.mem = s.mem) ∧
        Departs s t lanes (dest (fun l => s.regs.rdW l 27)) (fun l => s.wire (s.regs.rdW l 27)
          (BitVec.ofNat 64 (readLe (s.chByte s.cur) (pl l).loc 8)) (w26 l - 8#64) (tgt l).rec_.live l))

/-- R392 and R419: a transfer at a trap level faults with cause 2; at level 0 an invalid handle faults with cause 10 for every lane that has
one, and nothing is sent. -/
def Says.TransferFaultsSendNothing : Prop :=
  ∀ (s : State) (st : BitVec 3) (e : BitVec 16) (n : BitVec 5) (g : BitVec 4), s.Ready → s.Opens → s.regs.pc < 2 ^ 14 →
    s.cur ∉ (s.quad (qkOfGk s.cur)).port.getters →
    let lanes := s.regs.selected g
    let handle := s.linkSlot e.toNat
    let traps (i : Instr) (cause : Nat) (m : W32) (va : Word) : Prop :=
      ∃ t, exec i s = .next t ∧ Trapped s t (s.wordAt s.cur s.regs.pc) cause s.regs.pc m va ∧ t.quads = s.quads
    let all (cause : Nat) (m : W32) (va : Word) : Prop :=
      traps (.jmpe st e g) cause m va ∧ traps (.calle st e g) cause m va ∧ traps (.spawn st e g) cause m va ∧
      traps (.tspawn st e g) cause m va ∧ traps (.sende st e g) cause m va
    (1 ≤ s.regs.tr.tlvl → all 2 s.regs.act 0#64 ∧ traps (.jmpi st n g) 2 s.regs.act 0#64 ∧ traps (.calli st n g) 2 s.regs.act 0#64 ∧
      traps (.rete st g) 2 s.regs.act 0#64 ∧ traps (.launch st n g) 2 s.regs.act 0#64) ∧
    (s.regs.tr.tlvl = 0 → lanes ≠ [] → s.resolve (s.gangCx s.cur) handle = none → all 10 (s.regs.those (s.regs.sel g)) handle)

/-- R250: `launch` appends one record for each selected lane to the slice's device queue, in lane order, with the register's value from before
the writes of the cycle (R219), as long as the queue has room and the launch arbiter takes events in the cycle (R189, R195); with all of them
appended it goes on, and otherwise the gang waits and has kept count. -/
def Says.LaunchAppendsToTheDeviceQueue : Prop :=
  ∀ (s : State) (st : BitVec 3) (n : BitVec 5) (g : BitVec 4), s.early → s.Opens → s.regs.tr.tlvl = 0 → (s.gang s.cur).prog = 0 →
    let lanes := s.regs.selected g
    let takes := if s.mgmt.arbAt = s.now then 2 - s.mgmt.arbN else 2
    let k := min lanes.length (min (256 - (s.slice (slOfGk s.cur)).devq.length) takes)
    ∃ t, exec (.launch st n g) s = .next t ∧ t.mem = s.mem ∧
      (t.slice (slOfGk s.cur)).devq = (s.slice (slOfGk s.cur)).devq ++ (lanes.take k).map (s.handleReg n) ∧
      (k = lanes.length → t.regs = s.regs.next) ∧
      (k < lanes.length → t.regs = s.regs ∧ (t.gang s.cur).wait = some .deviceQueue ∧ (t.gang s.cur).prog = k)

/-! ## Streams, control registers, records and counters (10:R283 to R285, 09:R257 to R260) -/

/-- R284 and R285: `sopen` takes a free send side, a channel of every link of its route, and a free receiver, and sends the first flit, `sput` and `sclose` send a lane group for a credit, `sclose` frees
the side, and the `sget` whose turn it is takes the oldest flit into a lane group and its marker into a predicate. -/
def Obligations.StreamWordsSendAndTakeFlits : Prop :=
  ∀ (s : State) (st : BitVec 3) (d a : BitVec 5) (g : BitVec 2) (n : BitVec 3), s.early → s.Opens →
    let qk := qkOfGk s.cur
    let p := (s.quad qk).port
    let q := (s.regs.rdW s.regs.l0 a.toNat).toNat
    let words (g : Nat) : List Word := (List.range 8).map (fun k =>
      if 8 * g + k ∈ s.regs.active then s.regs.rdW (8 * g + k) d.toNat else 0#64)
    let sent (t : State) (dst no : Nat) (old : List (Nat × Flit)) (f : Flit) : Prop := dst ≠ quadOfQk qk →
      (t.quad (qkOf (slOfGk s.cur) dst)).port.inflight = old ++ [(no * 2048 + quadOfQk qk, { f with no := (s.quad qk).sendNo })]
    let sends (i : Instr) (last : Bool) : Prop := p.holder = some s.cur → p.audit = none → p.credit ≠ 0 →
      s.loopStop (slOfGk s.cur) = false → p.dst ≠ quadOfQk qk →
      ∃ t, exec i s = .next t ∧ t.regs = s.regs.next ∧ t.mem = s.mem ∧
        sent t p.dst p.no (s.quad (qkOf (slOfGk s.cur) p.dst)).port.inflight { words := words g.toNat, mark := last } ∧
        (t.quad qk).port.credit = p.credit - 1 ∧ (t.quad qk).port.holder = if last then none else p.holder
    (p.holder = none → p.closing = false → s.injOff (slOfGk s.cur) = false → q < (s.slice (slOfGk s.cur)).nquads →
      (∃ ls, (s.takeSide q).streamLinks qk = some ls ∧ ls.Nodup ∧ ∀ l ∈ ls, (s.takeSide q).linkFree l = true) → q ≠ quadOfQk qk →
      (s.quad (qkOf (slOfGk s.cur) q)).port.src = none → (s.quad (qkOf (slOfGk s.cur) q)).port.waiting = [] →
      ∃ t, exec (.sopen st d a) s = .next t ∧ t.regs = s.regs.next ∧ t.mem = s.mem ∧
        sent t q (p.no + 1) (s.quad (qkOf (slOfGk s.cur) q)).port.inflight { words := words 0, mark := false } ∧
        (t.quad qk).port.holder = some s.cur ∧ (t.quad qk).port.opened = true ∧ (t.quad qk).port.credit = 15) ∧
    sends (.sput st d g) false ∧ sends (.sclose st d g) true ∧
    (∀ f rest, p.audit = none → p.slots = f :: rest → f.words.length = 8 → p.getBy ≤ s.now → p.getters.head?.getD s.cur = s.cur →
      ∃ t, exec (.sget st d n g) s = .next t ∧ t.mem = s.mem ∧ t.regs.pc = s.regs.next.pc ∧ (t.quad qk).port.slots = rest ∧
        (∀ l k, k < 32 → t.regs.rdW l k = (intoW d.toNat (s.regs.active.filter (fun l => decide (l / 8 = g.toNat)))
          (fun l => f.words.getD (l % 8) 0#64) l k).getD (s.regs.rdW l k)) ∧
        (∀ l k, k < 8 → t.regs.rdP l k = (intoP n.toNat s.regs.active (fun _ => f.mark) l k).getD (s.regs.rdP l k)))

/-- R257 and R210: `csrr` writes the register's value in every active lane; `csrw`, `csrs` and `csrc` change exactly the bits the register's
table gives, read-only registers and fields and ignored writes stay, and lanes that are not active keep their own copies. -/
def Obligations.ControlRegistersReadAndWrite : Prop :=
  ∀ (s : State) (st : BitVec 3) (d a : BitVec 5) (i : BitVec 12), s.early → s.Opens → (s.gang s.cur).pend = [] →
    i.toNat < 0x120 → s.regs.tr.tlvl ≤ 2 →
    let n := i.toNat
    let lane := n = 0x010 ∨ n = 0x011
    let lvl := s.regs.tr.tlvl
    let arg (l : Nat) : Word := s.regs.rdW (if lane then l else s.regs.l0) a.toNat
    let old (l : Nat) : Word := s.csrRead (if lane then l else s.regs.l0) n
    let writes (j : Instr) (f : Word → Word → Word) : Prop := s.regs.active ≠ [] →
      (∀ l ∈ s.regs.active, csrMask n lvl ≠ 0#64 → old l &&& ~~~(csrMask n lvl) = 0#64) →
      ∃ t, exec j s = .next t ∧ t.mem = s.mem ∧ t.regs.pc = s.regs.next.pc ∧ (∀ l k, t.regs.rdW l k = s.regs.rdW l k) ∧
        (csrMask n lvl ≠ 0#64 → ∀ l ∈ s.regs.active, t.csrRead l n = csrAfter n lvl (old l) (f (old l) (arg l))) ∧
        (csrMask n lvl = 0#64 → t.ctxs = s.ctxs ∧ t.clus = s.clus ∧ t.regs = s.regs.next) ∧
        (∀ l, l ∉ s.regs.active → t.regs.lane l = s.regs.lane l)
    (s.freeW d.toNat → ∃ t, exec (.csrr st d i) s = .next t ∧ t.mem = s.mem ∧
      ∀ l k, k < 32 → t.W l k = (intoW d.toNat s.regs.active (fun l => s.csrRead l n) l k).getD (s.W l k)) ∧
    writes (.csrw st a i) (fun _ v => v) ∧ writes (.csrs st a i) (fun old v => old ||| v) ∧ writes (.csrc st a i) (fun old v => old &&& ~~~v)

/-- R260: `epop` takes the oldest record into a register pair on counter 2 and notes it for a squash, `epeek` brings the number of records,
`sbwait` goes on once its counter is low enough, and `sbrd` writes the counter; an `epop` that no command can answer faults (R426). -/
def Obligations.RecordAndCounterWords : Prop :=
  ∀ (s : State) (st : BitVec 3) (d : BitVec 4) (r : BitVec 5) (e c : BitVec 2) (n : BitVec 6), s.early →
    let g := s.gang s.cur
    let q := tget [] g.cq e.toNat
    (∀ x rest, q = x :: rest → tget 0 g.sb 2 < 63 →
      ∃ t, exec (.epop st d e) s = .next t ∧ t.regs = s.regs.next ∧ t.mem = s.mem ∧ tget [] (t.gang s.cur).cq e.toNat = rest ∧
        (t.gang s.cur).ch.pops = g.ch.pops ++ [(e.toNat, x)] ∧ tget 0 (t.gang s.cur).sb 2 = tget 0 g.sb 2 + 1 ∧
        ((∀ w ∈ g.pend, w.id < s.fresh) → ∃ w, (t.gang s.cur).pend = g.pend ++ [w] ∧ w.acq = true ∧ w.ready = true ∧ w.ctr = some 2 ∧
          w.dst.length = w.vals.length ∧ ∀ y, y ∈ w.dst.zip w.vals ↔ ∃ l ∈ s.regs.active, ∃ h, h < 2 ∧ ∃ p,
            (s.regs.lane l).destW (2 * d.toNat + h) = some p ∧ y = ((l, p), if h = 0 then x.lo else x.hi))) ∧
    (tget 0 g.sb 2 < 63 → ∃ t, exec (.epeek st r e) s = .next t ∧ Pends s t 2 r.toNat (fun _ => BitVec.ofNat 64 q.length) ∧ t.mem = s.mem) ∧
    (tget 0 g.sb c.toNat ≤ n.toNat → Moved (.sbwait st n c) s st s.regs.next) ∧
    (s.freeW r.toNat → WritesW (.sbrd st r c) s st r.toNat s.regs.active (fun _ => BitVec.ofNat 64 (tget 0 g.sb c.toNat))) ∧
    (s.Ready → s.regs.pc < 2 ^ 14 → q = [] → tget [] g.cqHeld e.toNat = [] → tget 0 g.owed e.toNat = 0 →
      ∃ t, exec (.epop st d e) s = .next t ∧ Trapped s t (s.wordAt s.cur s.regs.pc) 2 s.regs.pc s.regs.act 0#64)

/-! ## Wide accumulators (11:R293 to R295) -/

/-- R294 and R144: the updates of a slot are reads and writes of TCM in the gang's chunk, one selected lane after the other; `clrw` clears
it, the others add an exact value, and an operand that is no number sets its status bit. -/
def Says.AccumulatorUpdates : Prop :=
  ∀ (s : State) (st : BitVec 3) (d a b : BitVec 5) (g : BitVec 4) (pl pb : Nat → Place), s.early →
    let lanes := s.regs.selected g
    let reach (r : BitVec 5) (wr : Bool) (p : Nat → Place) : Prop :=
      ∀ l ∈ lanes, s.check (ckOfGk s.cur) (s.regs.rdW l r.toNat).toNat 128 wr .accw s.regs.tr.tlvl = .ok (p l)
    reach a true pl →
    (lanes.flatMap (fun l => sectorsOf (pl l).loc 96) ++ s.wrote).dedup.length ≤ 64 → (s.gang s.cur).ch.wsec.Nodup →
    let x (l : Nat) : FVal := unpack 0 (s.f32 l b)
    let y (l : Nat) : FVal := unpack 0 (s.f32 l d)
    let nan (l : Nat) : Bool := (x l).isNan || (y l).isNan
    let zeroInf (l : Nat) : Bool := ((x l).isZero && (y l).isInf) || ((x l).isInf && (y l).isZero)
    let product (l : Nat) (z : BitVec 640 × BitVec 4) : BitVec 640 × BitVec 4 :=
      if nan l = true ∨ zeroInf l = true then (z.1, z.2 ||| 1#4)
      else if (x l).isInf = true ∨ (y l).isInf = true then (z.1, z.2 ||| if (x l).sign != (y l).sign then 4#4 else 2#4)
      else slotAdd ⌊(x l).val * (y l).val * 2 ^ 320⌋ z
    let updates (i : Instr) (f : (Nat → Byte) → Nat → BitVec 640 × BitVec 4 → BitVec 640 × BitVec 4) (invalid : Nat → Bool) : Prop :=
      ∃ t, exec i s = .next t ∧ t.mem = s.mem ∧ t.regs.pc = s.regs.next.pc ∧ (∀ l n, t.regs.rdW l n = s.regs.rdW l n) ∧
        (∀ l, (t.regs.lane l).fflags = (s.regs.lane l).fflags ||| if l ∈ lanes ∧ invalid l = true then 16#5 else 0#5) ∧
        ∀ loc, t.chByte s.cur loc =
          lanes.foldl (fun m l => putSlot m (pl l).loc (f m l (slotAt m (pl l).loc))) (s.chByte s.cur) loc
    updates (.clrw st a g) (fun _ _ _ => (0#640, 0#4)) (fun _ => false) ∧
    updates (.addwf st a b g) (fun _ l => slotAddF (x l)) (fun l => (x l).isSnan) ∧
    updates (.addwi st a b g) (fun _ l => slotAdd ((s.regs.rdW l b.toNat).toInt * 2 ^ 320)) (fun _ => false) ∧
    updates (.maddw st d a b g) (fun _ => product) (fun l => (x l).isSnan || (y l).isSnan || (!nan l && zeroInf l)) ∧
    (reach b false pb → updates (.addww st a b g) (fun m l z =>
      let src := slotAt m (pb l).loc
      ((slotAdd src.1.toInt z).1, (slotAdd src.1.toInt z).2 ||| src.2)) (fun _ => false))

/-- R294 and R145: `rndw` writes the slot's value rounded once under the lane's mode, and `rndw2` the rounded remainder too; the status
decides for NaN, infinities and overflow. The slot stays as it is. -/
def Says.AccumulatorRounding : Prop :=
  ∀ (s : State) (st : BitVec 3) (d a : BitVec 5) (e : BitVec 4) (g : BitVec 4) (pl : Nat → Place), s.early →
    let lanes := s.regs.selected g
    (∀ l ∈ lanes, s.check (ckOfGk s.cur) (s.regs.rdW l a.toNat).toNat 128 false .accw s.regs.tr.tlvl = .ok (pl l)) →
    let slot (l : Nat) := slotAt (s.chByte s.cur) (pl l).loc
    let v (l : Nat) : ℚ := (slot l).1.toInt / 2 ^ 320
    let round (l : Nat) (v : ℚ) : Nat × Flags5 := round32 (s.regs.lane l).frm.toNat (decide (v < 0)) v
    let bit (l k : Nat) : Bool := (slot l).2.getLsbD k
    let number (l : Nat) : Bool := !bit l 0 && !bit l 1 && !bit l 2
    let hi (l : Nat) : Nat × Flags5 :=
      if number l then ((round l (v l)).1, (round l (v l)).2 ||| if bit l 3 then 4#5 else 0#5)
      else if bit l 0 || (bit l 1 && bit l 2) then (0x7fc0_0000, 16#5)
      else if bit l 1 then (0x7f80_0000, 0#5) else (0xff80_0000, 0#5)
    let lo (l : Nat) : Nat × Flags5 :=
      if number l = true ∧ (unpack 0 (hi l).1).isFin = true then round l (v l - (unpack 0 (hi l).1).val) else (0, 0#5)
    let word (x : Nat × Flags5) : Word := (signed32 x).1
    let reads (i : Instr) (fw : Nat → Nat → Option Word) (fl : Nat → Flags5) : Prop :=
      ∃ t, exec i s = .next t ∧ t.mem = s.mem ∧ t.regs.pc = s.regs.next.pc ∧ (∀ loc, t.chByte s.cur loc = s.chByte s.cur loc) ∧
        (∀ l n, n < 32 → t.regs.rdW l n = (fw l n).getD (s.regs.rdW l n)) ∧
        ∀ l, (t.regs.lane l).fflags = (s.regs.lane l).fflags ||| if l ∈ lanes then fl l else 0#5
    reads (.rndw st d a g) (intoW d.toNat lanes (fun l => word (hi l))) (fun l => (hi l).2) ∧
    reads (.rndw2 st e a g) (fun l n => (intoW (2 * e.toNat) lanes (fun l => word (hi l)) l n).or
      (intoW (2 * e.toNat + 1) lanes (fun l => word (lo l)) l n)) (fun l => (hi l).2 ||| (lo l).2)

/-! ## Engine pushes (11:R296 to R312, 12:R323 to R329, 13:R350 to R353) -/

/-- R297 and R299 to R304: a matrix word whose checks pass puts one command, with the descriptor and operands of this moment, behind the
core's earlier ones. -/
def Says.MatrixPushes : Prop :=
  ∀ (s : State) (st : BitVec 3) (j : BitVec 1) (n : BitVec 4) (k : BitVec 3) (a b : BitVec 5), s.Pushes →
    (s.core (ckOfGk s.cur)).mxq.length < 2 →
    let ck := ckOfGk s.cur
    let t := tget 0#128 (s.core ck).t n.toNat
    let ez := s.regs.rdW s.regs.l0 a.toNat
    let line (u : State) : List MxCmd := tget [] (u.cluster (clkOfCk ck)).mxqs (ck % 8) ++ (u.core ck).mxq
    let aligned := tdAddr t % elemBytes (tdFmt t) = 0 ∧ tdStride t % elemBytes (tdFmt t) = 0
    let pushes (i : Instr) (kind reg bank : Nat) (desc : BitVec 128) (opnd : Word) (owes : Nat) : Prop :=
      ∃ u, exec i s = .next u ∧ Pushed s u 1 owes ∧ (u.core ck).mxseq = (s.core ck).mxseq + 1#32 ∧
        line u = line s ++ [{ who := s.pusher (s.issueWord s.cur), kind := kind, reg := reg, bank := bank, desc := desc, opnd := opnd
                              frm := (s.regs.lane s.regs.l0).frm, seq := (s.core ck).mxseq.toNat }]
    (tdFmt t ∈ [1, 3, 4, 5, 6, 7] → aligned → pushes (.bload st j n b) 0 j.toNat j.toNat t (s.regs.rdW s.regs.l0 b.toNat) 1) ∧
    (s.TileOk k.toNat → -512 ≤ ez.toInt → ez.toInt ≤ 511 → pushes (.mzero st k a) 1 k.toNat 0 0#128 ez 0) ∧
    (s.TileOk k.toNat → tdFmt t ∈ [1, 3, 4, 7] → aligned →
      pushes (.mma st k n j) 2 k.toNat j.toNat t 0#64 0 ∧ pushes (.mmas st k n j) 3 k.toNat j.toNat t 0#64 0) ∧
    (s.TileOk k.toNat → tdFmt t ∈ [0, 1, 11] → aligned →
      pushes (.mrd st k n) 4 k.toNat 0 t 0#64 1 ∧ pushes (.mwt st k n) 5 k.toNat 0 t 0#64 1)

/-- R305, R326 and R214: `mflag`, `drdo` and `drdy` push their command once and hold the gang; when it has answered, they write every
lane's value and go on. -/
def Says.QueriesHoldUntilAnswered : Prop :=
  ∀ (s : State) (st : BitVec 3) (k : BitVec 3) (d a : BitVec 5) (n : BitVec 1) (g : BitVec 4) (res : List Nat),
    let ck := ckOfGk s.cur
    let lanes := s.regs.selected g
    let cells := lanes.map (fun l => (l, wbits (s.regs.rdW l a.toNat) 0 8, 0#64))
    let who := s.pusher (s.issueWord s.cur)
    let outs : MaCmd := { who := who, kind := 9, dom := 0, opnd := 0#64, sel := n.toNat, lanes := cells, at_ := s.now }
    let ints : MaCmd := { outs with kind := 10, sel := 0 }
    let holds (i : Instr) : Prop := ∃ t, exec i s = .next t ∧ t.regs = s.regs ∧ t.mem = s.mem ∧ (t.gang s.cur).wait = some .queue ∧
      (t.gang s.cur).prog = 1 ∧ ((t.gang s.cur).ch.log.map (fun e => (e.word, e.done))) = [(s.issueWord s.cur, false)] ∧
      (∀ gk, gk ≠ s.cur → t.gang gk = s.gang gk)
    let answered (i : Instr) (ops : List FarLane) (to_ : List Nat) (v : Nat → Word) : Prop :=
      (s.gang s.cur).spec = false → (s.gang s.cur).ch.fresh = true → (∀ e ∈ (s.gang s.cur).sent, e.1 ≠ s.regs.tr.tlvl + 1) →
      (s.gang s.cur).ch.log = [{ word := s.issueWord s.cur, act := s.regs.act, ops := ops, done := true, res := res }] →
      ∃ t, exec i s = .next t ∧ t.regs.pc = s.regs.next.pc ∧ t.mem = s.mem ∧ t.cores = (s.modCore ck (fun c =>
          { c with nextIssue := s.now + 1, lastIssued := slotOfGk s.cur })).cores ∧
        (∀ l m, m < 32 → t.regs.rdW l m = (intoW d.toNat to_ v l m).getD (s.regs.rdW l m)) ∧ (∀ gk, gk ≠ s.cur → t.gang gk = s.gang gk)
    let nth (l : Nat) : Word := BitVec.ofNat 64 (res.getD (lanes.idxOf l) 0)
    (s.Pushes → (s.gang s.cur).prog = 0 →
      ((s.core ck).mxq.length < 2 → s.TileOk k.toNat → holds (.mflag st d k)) ∧
      ((s.core ck).mad.q.length < 4 →
        (holds (.drdo st d a n g) ∧ ∃ t, exec (.drdo st d a n g) s = .next t ∧ (t.core ck).mad.q = (s.core ck).mad.q ++ [outs]) ∧
        (holds (.drdy st d a g) ∧ ∃ t, exec (.drdy st d a g) s = .next t ∧ (t.core ck).mad.q = (s.core ck).mad.q ++ [ints]))) ∧
    answered (.mflag st d k) [{ lane := 0, loc := 0, v := k.toNat, c := 0 }] s.regs.active (fun _ => BitVec.ofNat 64 (res.getD 0 0)) ∧
    (res.length = lanes.length → answered (.drdo st d a n g) outs.ops lanes nth ∧ answered (.drdy st d a g) ints.ops lanes nth)

/-- R310 to R312: a copy word whose checks pass puts one command into the named channel's queue of four; `cpstop` stops the channel and
discards its queue at once, each command with a record of status 1. -/
def Says.CopyPushes : Prop :=
  ∀ (s : State) (st : BitVec 3) (d a b : BitVec 5) (e f h : BitVec 4), s.Pushes →
    let ck := ckOfGk s.cur
    let r (n : Nat) : Word := s.regs.rdW s.regs.l0 n
    let cmd (kind : Nat) (dst src : Word) (len : Nat) (ctl : Word) : CpCmd :=
      { who := s.pusher (s.issueWord s.cur), kind := kind, dst := dst, src := src, len := len, ctl := ctl, peer := 0, td := 0#128
        ta := 0#128, taken := 0, moved := 0, started := false, gat := none }
    let queue (t : State) (ch : Nat) : List CpCmd := tget [] (t.core ck).chans ch
    let pushes (i : Instr) (c : CpCmd) : Prop := s.copyCheck c = 0 → (queue s (wbits c.ctl 0 2)).length < 4 →
      ∃ t, exec i s = .next t ∧ Pushed s t 0 1 ∧ queue t (wbits c.ctl 0 2) = queue s (wbits c.ctl 0 2) ++ [c] ∧
        ∀ ch, ch ≠ wbits c.ctl 0 2 → queue t ch = queue s ch
    let ch := wbits (r b.toNat) 0 2
    pushes (.cpy st d a h) (cmd 0 (r d.toNat) (r a.toNat) (r (2 * h.toNat)).toNat (r (2 * h.toNat + 1))) ∧
    pushes (.cpyx st e f b) { cmd 1 0#64 0#64 0 (r b.toNat) with
      td := tget 0#128 (s.core ck).t e.toNat, ta := tget 0#128 (s.core ck).t f.toNat } ∧
    pushes (.cpgat st d a b) (cmd 2 (r d.toNat) (r a.toNat) 0 (r b.toNat)) ∧
    pushes (.cpmeta st a h) (cmd 3 0#64 (r a.toNat) (r (2 * h.toNat)).toNat (r (2 * h.toNat + 1))) ∧
    pushes (.cprem st e a h) { cmd 5 (r (2 * e.toNat)) (r a.toNat) (r (2 * h.toNat)).toNat (r (2 * h.toNat + 1)) with
      peer := wbits (r (2 * e.toNat + 1)) 0 16 } ∧
    ((queue s ch).length ≤ 4 → ∃ t, exec (.cpstop st b) s = .next t ∧ t.regs = s.regs.next ∧ t.mem = s.mem ∧ queue t ch = [] ∧
      (∀ k, k ≠ ch → queue t k = queue s k) ∧ (t.core ck).wp = (s.core ck).wp ∧
      ∀ c, queue s ch = [c] → (s.gang c.who.gk).live = true → (s.gang c.who.gk).actId = c.who.actId →
        ∃ x, tget [] (t.gang c.who.gk).cq 0 ++ tget [] (t.gang c.who.gk).cqHeld 0 =
            tget [] (s.gang c.who.gk).cq 0 ++ tget [] (s.gang c.who.gk).cqHeld 0 ++ [x] ∧
          wbits x.hi 48 16 = 1 ∧ wbits x.hi 0 48 = c.moved % 2 ^ 48)

/-- R351 to R353: a fabric word whose control word is sound puts one command into the core's fabric queue of four; a call that nothing
precedes goes on to its fabric, with its operands, while the slice's partition injects packets. -/
def Says.FabricPushes : Prop :=
  ∀ (s : State) (st : BitVec 3) (d : BitVec 3) (a b : BitVec 5), s.Pushes →
    let ck := ckOfGk s.cur
    let r (n : Nat) : Word := s.regs.rdW s.regs.l0 n
    let who := s.pusher (s.issueWord s.cur)
    let call : SfCmd := { who := who, kind := 0, mbox := b.toNat, ctl := r a.toNat, addr := 0#64
                          ops := [r (4 * d.toNat), r (4 * d.toNat + 1), r (4 * d.toNat + 2), r (4 * d.toNat + 3)] }
    let load : SfCmd := { who := who, kind := 1, mbox := 0, ctl := r b.toNat, addr := r a.toNat, ops := [] }
    let q := (s.core ck).fabq
    let stays := s.frozen (slOfGk s.cur) = true ∨ s.injOff (slOfGk s.cur) = true ∨ ∃ c ∈ q.head?, c.kind ≠ 0
    let queued (i : Instr) (c : SfCmd) (owes : Nat) : Prop :=
      ∃ t, exec i s = .next t ∧ Pushed s t 3 owes ∧ (t.core ck).fabq = q ++ [c] ∧ t.fabs = s.fabs
    q.length < 4 →
    (s.FabricWordOk true (r a.toNat) →
      (stays → queued (.sfcall st d a b) call 0) ∧
      (q = [] → s.frozen (slOfGk s.cur) = false → s.injOff (slOfGk s.cur) = false → ∃ t, exec (.sfcall st d a b) s = .next t ∧ Pushed s t 3 0 ∧ (t.core ck).fabq = [] ∧
        (t.fab (wbits (r a.toNat) 0 6)).calls = (s.fab (wbits (r a.toNat) 0 6)).calls ++
          [{ ck := ck, who := who, slot := wbits (r a.toNat) 8 4, mbox := b.toNat, ops := call.ops.take (wbits (r a.toNat) 12 3) }])) ∧
    (s.FabricWordOk false (r b.toNat) → (stays ∨ q = []) →
      queued (.gload st a b) load 1 ∧ queued (.gdrop st b) { load with kind := 2, addr := 0#64 } 1)

/-- R323 to R329: a Madder word puts one command into the array's queue of four, with each selected lane's cell and value. -/
def Says.MadderPushes : Prop :=
  ∀ (s : State) (st : BitVec 3) (a b : BitVec 5) (m : BitVec 2) (sel : BitVec 4) (n : BitVec 1) (g : BitVec 4), s.Pushes →
    (s.core (ckOfGk s.cur)).mad.q.length < 4 →
    let ck := ckOfGk s.cur
    let r (n : Nat) : Word := s.regs.rdW s.regs.l0 n
    let cells (v : Nat → Word) : List (Nat × Nat × Word) :=
      (s.regs.selected g).map (fun l => (l, wbits (s.regs.rdW l a.toNat) 0 8, v l))
    let pushes (i : Instr) (kind dom : Nat) (opnd : Word) (sel : Nat) (lanes : List (Nat × Nat × Word)) (owes : Nat) : Prop :=
      ∃ t, exec i s = .next t ∧ Pushed s t 2 owes ∧ (t.core ck).mad = { (s.core ck).mad with q := (s.core ck).mad.q ++
        [{ who := s.pusher (s.issueWord s.cur), kind := kind, dom := dom, opnd := opnd, sel := sel, lanes := lanes, at_ := s.now }] }
    pushes (.dcfg st a m) 0 m.toNat (r a.toNat) 0 [] 0 ∧ pushes (.dpatch st a) 1 0 (r a.toNat) 0 [] 1 ∧
    pushes (.dsety st a b g) 2 0 0#64 0 (cells (fun l => s.regs.rdW l b.toNat)) 0 ∧
    pushes (.dsetr st a b g) 3 0 0#64 0 (cells (fun l => s.regs.rdW l b.toNat)) 0 ∧
    pushes (.dsave st a) 4 0 (r a.toNat) 0 [] 1 ∧ pushes (.drest st a) 5 0 (r a.toNat) 0 [] 1 ∧
    pushes (.dstep st a m) 6 m.toNat (r a.toNat) 0 [] 1 ∧ pushes (.dstop st sel) 7 0 0#64 sel.toNat [] 0 ∧
    pushes (.dinj st a n g) 8 0 0#64 n.toNat (cells (fun _ => 0#64)) 0

/-- R427, R429 and R435: a push whose checks fail traps at itself with the cause and the value the first failing check gives, and pushes
nothing. -/
def Says.PushChecksTrap : Prop :=
  ∀ (s : State) (st : BitVec 3) (j : BitVec 1) (n : BitVec 4) (k : BitVec 3) (d a b : BitVec 5) (h : BitVec 4), s.Pushes → s.Ready →
    s.regs.pc < 2 ^ 14 →
    let ck := ckOfGk s.cur
    let r (n : Nat) : Word := s.regs.rdW s.regs.l0 n
    let t := tget 0#128 (s.core ck).t n.toNat
    let traps (i : Instr) (cause : Nat) (va : Word) : Prop :=
      ∃ u, exec i s = .next u ∧ Trapped s u (s.wordAt s.cur s.regs.pc) cause s.regs.pc s.regs.act va ∧ u.cores = s.cores ∧ u.clus = s.clus
    let bad (i : Instr) (fmts : List Nat) : Prop :=
      (tdFmt t ∉ fmts → traps i 2 (BitVec.ofNat 64 (tdFmt t))) ∧
      (tdFmt t ∈ fmts → (tdAddr t % elemBytes (tdFmt t) ≠ 0 ∨ tdStride t % elemBytes (tdFmt t) ≠ 0) → traps i 5 (BitVec.ofNat 64 (tdAddr t)))
    let copy : CpCmd := { cpNew 0 (r d.toNat) (r a.toNat) (r (2 * h.toNat)).toNat (r (2 * h.toNat + 1)) with
      who := s.pusher (s.issueWord s.cur) }
    (¬ s.TileOk k.toNat → ∀ i ∈ [Instr.mzero st k a, .mma st k n j, .mmas st k n j, .mrd st k n, .mwt st k n],
      traps i 2 (BitVec.ofNat 64 k.toNat)) ∧
    (¬ s.TileOk k.toNat → (s.gang s.cur).prog = 0 → traps (.mflag st d k) 2 (BitVec.ofNat 64 k.toNat)) ∧
    (s.TileOk k.toNat → ((r a.toNat).toInt < -512 ∨ 511 < (r a.toNat).toInt) → traps (.mzero st k a) 2 (r a.toNat)) ∧
    bad (.bload st j n b) [1, 3, 4, 5, 6, 7] ∧
    (s.TileOk k.toNat → bad (.mma st k n j) [1, 3, 4, 7] ∧ bad (.mmas st k n j) [1, 3, 4, 7] ∧ bad (.mrd st k n) [0, 1, 11] ∧
      bad (.mwt st k n) [0, 1, 11]) ∧
    (s.copyCheck copy ≠ 0 → traps (.cpy st d a h) 17 (BitVec.ofNat 64 (s.copyCheck copy))) ∧
    (¬ s.FabricWordOk false (r b.toNat) → traps (.gload st a b) 16 (r b.toNat) ∧ traps (.gdrop st b) 16 (r b.toNat))

/-- R233 and 04:R113: `tlbinv` at trap level 0 is a permission fault; above it, it ends the chunk and holds the gang until the page's entries
are gone everywhere, and then goes on. -/
def Says.TranslationWordWaits : Prop :=
  ∀ (s : State) (st : BitVec 3) (a : BitVec 5), s.Opens →
    (s.regs.tr.tlvl = 0 → s.Ready → s.regs.pc < 2 ^ 14 →
      ∃ t, exec (.tlbinv st a) s = .next t ∧ Trapped s t (s.wordAt s.cur s.regs.pc) 9 s.regs.pc s.regs.act 0#64) ∧
    (1 ≤ s.regs.tr.tlvl → (s.gang s.cur).prog ≠ 2 → s.Pushes → ∃ t, exec (.tlbinv st a) s = .next t ∧ t.regs = s.regs ∧ t.mem = s.mem ∧
      (t.gang s.cur).wait = some .tlbinv) ∧
    (1 ≤ s.regs.tr.tlvl → (s.gang s.cur).prog = 2 → ∃ t, exec (.tlbinv st a) s = .next t ∧ t.regs = s.regs.next ∧ t.mem = s.mem ∧
      (t.gang s.cur).ch = {})

/-! ## Events outside issue: commits, far operations, results, mail, wakes (06:R153 to R171, 08:R213, 10:R271, R281, 03:R86, R91) -/

/-- R153 and R86: a chunk that has ended and holds its grants publishes every byte at one point and is gone; a finished task that holds the
lowest timestamp does so too, sends the records it held back, those of one word as one train for each quad, and its gang ends. -/
def Says.CommitsPublishTheChunk : Prop :=
  ∀ (s : State) (gk : Nat), let g := s.gang gk
    s.MemOk → g.live = true → g.stopped = false → s.mayRun (slOfGk gk) = true → s.commitBlocked gk = false → s.NoTasks (some gk) →
    s.ExtsOk gk → (∀ b ∈ g.ch.wbuf, spaceOfLoc b.1 ≠ 1) →
    (g.task = none → g.ch.snap.isSome = true → (512 ≤ g.ch.count ∨ g.wait = some .grant) →
      ∃ t, exec (.chunkCommit gk) s = .next t ∧ (t.gang gk).r = g.r ∧ (t.gang gk).ch = {} ∧
        (t.gang gk).wait = (if g.wait = some .grant then none else g.wait) ∧ ∀ loc, t.seen gk loc = s.published gk loc) ∧
    (∀ k, g.task = some k → k.spec = true → k.finished = true → s.holdsLowest gk = true →
      let own := k.held.flatMap (fun h => (h.filter (fun e => e.1)).map (fun e => e.2.2))
      let far := k.held.map (fun h => (h.filter (fun e => !e.1)).map (fun e => e.2))
      (s.core (ckOfGk gk)).deque.length + own.length ≤ 88 → (own ≠ [] → (s.core (ckOfGk gk)).dqBy ≤ s.now) →
      ∃ t, exec (.taskCommit gk) s = .next t ∧ (t.gang gk).live = false ∧
        (∀ loc, (loc < tcmLoc (ckOfGk gk) 0x7000 ∨ tcmLoc (ckOfGk gk) 0x8000 ≤ loc) → t.seen gk loc = s.published gk loc) ∧
        (t.core (ckOfGk gk)).deque = own.reverse ++ (s.core (ckOfGk gk)).deque ∧
        ∃ trains : List (List (Nat × List Packet)), trains.length = far.length ∧
          (t.quad (qkOfGk gk)).outs = (s.quad (qkOfGk gk)).outs ++ trains.flatten.map (fun e => (gk, qkOf (slOfGk gk) e.1,
            { injected := false, src := quadOfQk (qkOfGk gk), launch := g.launch, packets := e.2 })) ∧
          ∀ i ws, trains[i]? = some ws → (ws.map Prod.fst).Nodup ∧
            ∀ q, (ws.filter (fun e => e.1 == q)).flatMap Prod.snd = (((far.getD i []).filter (fun e => e.1 == q)).map Prod.snd))

/-- R168, R169 and R271: a far operation is performed once, location by location, its lanes there in order, after the gang's earlier
operations at the location; its results then enter the log and the register, and its counter falls. -/
def Says.FarOperationsArePerformedOnce : Prop :=
  ∀ (s : State) (gk id : Nat) (o : FarOp) (x : Nat × FarLane) (rest : List (Nat × FarLane)), let g := s.gang gk
    let earlier (loc : Nat) := ∃ p ∈ farBefore id g.far, ∃ y ∈ p.left, overlaps y.2.loc p.size loc o.size = true
    (g.far.find? (fun o => o.id == id && !o.perf) = some o → 2 ≤ o.use → o.left ≠ [] → (∀ y ∈ o.left, earlier y.2.loc) →
      exec (.farOpPerformed gk id) s = .next s) ∧
    (s.MemOk → s.NoTasks none → g.far.find? (fun o => o.id == id && !o.perf) = some o →
      o.nextGroup (s.farMay gk o) s.fresh = x :: rest → s.specHolder gk x.2.loc o.size = none →
      (2 ≤ o.use → ¬ earlier x.2.loc) ∧ (∀ y, y ∈ x :: rest ↔ y ∈ o.left ∧ y.2.loc = x.2.loc) ∧
      ∃ t, exec (.farOpPerformed gk id) s = .next t ∧
        let run := s.farRun o x.2.loc (s.seen gk) (x :: rest)
        (∀ loc, t.seen gk loc = run.2 loc) ∧ ∃ p ∈ (t.gang gk).far, p.id = id ∧ p.got.length = o.got.length + (x :: rest).length ∧
          (o.use ≠ 3 → p.got = o.got ++ ((x :: rest).map Prod.fst).zip run.1) ∧ (p.perf = true ↔ p.got.length = o.lanes.length)) ∧
    (g.far.find? (fun o => o.id == id && o.perf) = some o →
      (∀ w ∈ g.pend, o.pid = some w.id → g.tcmMay s.now w = true) →
      ∃ t, exec (.farResultReturn gk id) s = .next t ∧ t.mem = s.mem ∧ (o.use ≠ 4 → ∀ p ∈ (t.gang gk).far, p.id ≠ id) ∧
        (o.pid = none → (t.gang gk).r = g.r ∧ (t.gang gk).sb = g.sb) ∧
        (∀ w k, o.pid = some w.id → g.pend.find? (fun p => p.id == w.id) = some w → w.dst ≠ [] → w.ctr = some k →
          (t.gang gk).r = g.r.landAll w.dst (fillVals o.ext o.size o.slots o.res w.vals) ∧
          tget 0 (t.gang gk).sb k = tget 0 g.sb k - 1 ∧ ∀ p ∈ (t.gang gk).pend, p.id ≠ w.id))

/-- R213, R217, R264 and R259: a result in flight lands once its cycle has come or its values are there, loads from TCM in issue order, and
its counter falls; a held record enters its queue once a place is free; the accumulator unit finishes its updates in order. -/
def Says.ResultsLandInOrder : Prop :=
  ∀ (s : State) (gk id e sl c : Nat) (w : PendWrite), let g := s.gang gk
    let lands (i : Instr) : Prop := ∃ t, exec i s = .next t ∧ t.mem = s.mem ∧ (t.gang gk).r = g.r.landAll w.dst w.vals ∧
      (∀ p, p ∈ (t.gang gk).pend ↔ p ∈ g.pend ∧ p.id ≠ id) ∧
      (∀ k, tget 0 (t.gang gk).sb k = tget 0 g.sb k - if w.ctr = some k then 1 else 0) ∧ ∀ k, k ≠ gk → t.gang k = s.gang k
    let stays (i : Instr) : Prop := ∃ t, exec i s = .next t ∧ t.mem = s.mem ∧ t.gang gk = g
    (g.pend.find? (fun p => p.id == id && p.land == none && p.ready) = some w →
      (w.after ≤ s.now → w.tcm = false ∨ (g.pend.find? (fun p => p.tcm)).map PendWrite.id = some id → lands (.loadComplete gk id)) ∧
      (s.now < w.after ∨ (w.tcm = true ∧ ∃ p, g.pend.find? (fun p => p.tcm) = some p ∧ p.id ≠ id) → stays (.loadComplete gk id))) ∧
    (g.pend.find? (fun p => p.id == id) = some w → ∀ n, w.land = some n →
      (n ≤ s.now → lands (.fixedLatencyWrite gk id)) ∧ (s.now < n → stays (.fixedLatencyWrite gk id))) ∧
    (∀ r rest, tget [] g.cqHeld e = r :: rest → (tget [] g.cq e).length + (g.ch.pops.filter (fun x => x.1 == e)).length < 8 →
      ∃ t, exec (.recordEnters gk e) s = .next t ∧ tget [] (t.gang gk).cq e = tget [] g.cq e ++ [r] ∧
        tget [] (t.gang gk).cqHeld e = rest ∧ (t.gang gk).r = g.r ∧ t.mem = s.mem) ∧
    (∀ u rest, (s.core (ckOf sl c)).accq = u :: rest →
      ∃ t, exec (.accwUpdateDone sl c) s = .next t ∧ (t.core (ckOf sl c)).accq = (if u.2 ≤ s.now then rest else u :: rest) ∧
        t.mem = s.mem ∧ t.gangs = s.gangs)

/-- R281, R91, R422 and R157: mail enters an empty mailbox, else the buffer; a waiting gang is ready once its condition holds; a recorded
engine fault traps at a wait; a write of the host or a peer commits at once and squashes its readers. -/
def Says.DeliveriesWakesAndOutsideWrites : Prop :=
  ∀ (s : State) (sl c gk port loc : Nat) (bs : List (BitVec 8)),
    let ck := ckOf sl c
    let x := s.core ck
    let g := s.gang gk
    let outside (i : Instr) : Prop := s.MemOk → s.NoTasks none → bs ≠ [] → spaceOfLoc loc = 0 → s.anyCovered (sectorsOf loc bs.length) = false →
      ∃ t, exec i s = .next t ∧
        (∀ a, Memory.get t.mem a = if loc ≤ a ∧ a < loc + bs.length then bs.getD (a - loc) 0#8 else Memory.get s.mem a) ∧
        ∀ k r, (s.gang k).live = true → (s.gang k).ch.snap = some r → (∃ n ∈ (s.gang k).ch.rsec, n ∈ sectorsOf loc bs.length) →
          (t.gang k).r = r
    (∀ m rest, x.inbox = m :: rest → s.sentBefore (qkOfCk ck) m.src m.no = false →
      ((tget {} x.mail m.mb).pres = false → mbOf ck m.mb ∉ s.soleMails → ∃ t, exec (.mailDelivery sl c) s = .next t ∧
        tget {} (t.core ck).mail m.mb = { val := m.v, pres := true } ∧ (t.core ck).inbox = rest ∧ (t.core ck).mbuf = x.mbuf) ∧
      ((tget {} x.mail m.mb).pres = true → x.mbuf.length < 16 → ∃ t, exec (.mailDelivery sl c) s = .next t ∧
        (t.core ck).mail = x.mail ∧ (t.core ck).inbox = rest ∧ (t.core ck).mbuf = x.mbuf ++ [(m.mb, m.v)])) ∧
    (∀ k, g.wait = some k → g.live = true → g.stopped = false → s.held gk k = false → s.mayWake gk k = true →
      (k = .drain → g.task = none) →
      ∃ t, exec (.gangWake gk) s = .next t ∧ (t.gang gk).wait = none ∧ (t.gang gk).readyAt = max g.readyAt s.now ∧ (t.gang gk).r = g.r ∧
        t.mem = s.mem) ∧
    (∀ f rest, g.efaults = f :: rest → g.trapDue = none → g.live = true → g.stopped = false → g.r.tr.tlvl = 0 → g.r.pc < 2 ^ 14 → f.cause < 256 →
      s.mayRun (slOfGk gk) = true → (∀ k, g.wait = some k → s.held gk k = false) →
      ({ s with cur := gk } : State).Ready → ∃ t, exec (.engineFaultTaken gk) s = .next t ∧
        Trapped { s with cur := gk } { t with cur := gk } f.word f.cause g.r.pc f.flt f.va ∧ (t.gang gk).efaults = rest ∧ t.cur = s.cur) ∧
    (s.links.fjoadDown = false → outside (.hostDeviceWrite loc bs)) ∧
    (port < 96 → port ∉ s.links.portsDown → outside (.peerAccess port loc (some bs))) ∧
    exec (.peerAccess port loc none) s = .next s

/-! ## Launches: appends, selection, refusal, table slots, completion (07:R185 to R201, 18:R396, 21:R439) -/

/-- R188, R439 and R359: an append puts its record at the tail of its queue, under the device key, or is dropped, counted and reported with its
reason. That a requester number of 64 or more is the hypervisor, which may write every queue, is log 27 (DEDUCED). -/
def Says.AppendsEnterTheirQueue : Prop :=
  ∀ (s : State) (off vf : Nat) (bytes : List (BitVec 8)),
    let n := off / 64
    let q := tget {} s.mgmt.queues n
    let i : Instr := .hostAppend off vf bytes
    let part : Prop := off % 64 ≠ 0 ∨ bytes.length ≠ 64
    let foreign : Prop := vf < 64 ∧ vf ≠ q.vf
    let next := (q.tail + 1) % 2 ^ q.ldep
    let drops (why : Nat) (count : Vf → Nat) : Prop := ∃ t e, exec i s = .next t ∧ count (t.vf q.vf) = count (s.vf q.vf) + 1 ∧ t.mem = s.mem ∧
      t.mgmt.queues = s.mgmt.queues ∧ t.mgmt.events.getLast? = some e ∧
      e = { dtc := s.dtc, kind := 1, slice := 0xff, ctx := 0xff, vf := q.vf, detail := n, value := why }
    s.links.fjoadDown = false → n < 65536 →
    (part → drops 4 Vf.part) ∧ (¬ part → foreign → drops 3 Vf.frgn) ∧ (¬ part → ¬ foreign → q.en = false → drops 2 Vf.dis) ∧
    (¬ part → ¬ foreign → q.en = true → next = q.head → drops 1 Vf.full) ∧
    (¬ part → ¬ foreign → q.en = true → next ≠ q.head → s.arbFree = true → s.MemOk → s.NoTasks none →
      ∃ t, exec i s = .next t ∧ tget {} t.mgmt.queues n = { q with tail := next } ∧
        (∀ m, m ≠ n → tget {} t.mgmt.queues m = tget {} s.mgmt.queues m) ∧
        ∀ loc, t.rdByte s.ochre.devKey loc = s.wroteAt (s.rdByte s.ochre.devKey) ((List.range 64).map (fun k => (q.ring + 64 * q.tail + k, bytes.getD k 0#8))) loc)

/-- R196, R197, R185 and R63: with every head sound, the eligible head of the highest effective priority is dispatched, the next source of the
round among equals: it takes a launch number that no other launch holds, and claims its tiles, as said here for a launch of one tile. -/
def Says.TheBestHeadIsDispatched : Prop :=
  ∀ (s : State) (sl : Nat) (h : HeadRec),
    let x := s.slice sl
    let cx := s.runCx sl
    let place (k : HeadRec) := roundPlace (tget (devSrc + 4096) x.lastServed (s.effPrio sl h)) k.src
    s.MemOk → s.NoTasks none → s.arbFree = true → x.selBy ≤ s.now → s.selects sl = true → x.launches.length < 65536 →
    (∀ k ∈ s.frontHeads sl, k.broken = 0) → h ∈ s.frontHeads sl → h.since.isSome = true → (s.ctx cx).submits = [] →
    (∀ k ∈ s.frontHeads sl, k.since.isSome = true → k ≠ h →
      s.effPrio sl k < s.effPrio sl h ∨ s.effPrio sl k = s.effPrio sl h ∧ place h < place k) →
    ∃ t l, exec (.selection sl) s = .next t ∧ (t.slice sl).launches = x.launches ++ [l] ∧ (∀ m ∈ x.launches, m.num ≠ l.num) ∧
      l.desc = h.desc ∧ l.tag = h.tag ∧ l.injected = 0 ∧ l.prio = s.effPrio sl h ∧
      (∀ i, h.desc.tin = [i] → h.desc.tout = [] → s.TileApart cx i → (s.tile cx i).rd < 255 →
        t.tile cx i = { s.tile cx i with rd := (s.tile cx i).rd + 1
                                         cclaim := (s.tile cx i).cclaim || nbits h.desc.consume 0 1 == 1 }) ∧
      ∀ i, h.desc.tin = [] → h.desc.tout = [i] → s.TileApart cx i → t.tile cx i = { s.tile cx i with wclaim := true }

/-- R396, R397 and R201: the first broken head is refused before any launch is picked: it is counted, and a record with launch number 0xFFFF and
its status is written where its descriptor could be read and names a place. -/
def Says.BrokenHeadsAreRefused : Prop :=
  ∀ (s : State) (sl : Nat) (h : HeadRec),
    let v := (s.ctx (s.runCx sl)).vf
    s.MemOk → s.NoTasks none → s.arbFree = true → (s.slice sl).selBy ≤ s.now → (s.ctx (s.runCx sl)).submits = [] →
    s.selects sl = true → h ∈ s.frontHeads sl → h.broken ≠ 0 →
    (∀ k ∈ s.frontHeads sl, k.broken ≠ 0 → k ≠ h → refusalKey h.src < refusalKey k.src) →
    exec (.selection sl) s = .next s ∧
    ∃ t, exec (.refusal sl) s = .next t ∧ (t.vf v).refused = (s.vf v).refused + 1 ∧ (t.slice sl).launches = (s.slice sl).launches ∧
      (h.unread = true ∨ h.desc.done = 0 → t.mem = s.mem) ∧
      ∀ p, h.unread = false → h.desc.done ≠ 0 → s.RecordPlace sl h.desc.done p →
        t.Shows sl p.loc (leBytes 8 h.tag.toNat ++ leBytes 4 s.dtc.toNat ++ leBytes 2 0xffff ++ leBytes 2 h.broken)

/-- R192 and R193: a slot of an enabled launch entry fires once its time has come, and of those that a step of the counter passes only the latest does, the
others counting as skipped. At the arbiter the descriptor is submitted while no instance runs, and otherwise the overrun rule skips it, keeps one
pending, takes the instances down and keeps it pending, or adds an instance. That rule 2 makes a soft request, which brings the context back, is log 28
(DEDUCED). -/
def Says.LaunchSlotsFollowTheOverrunRule : Prop :=
  ∀ (s : State) (e k r : Nat) (l : List Nat),
    let x := tget {} s.mgmt.table e
    let rule := nbits x.ctl 3 2
    let i : Instr := .launchSlot e
    let after (skips run pend : Nat) : Prop := ∃ t, exec i s = .next t ∧ t.mem = s.mem ∧
      let y := tget {} t.mgmt.table e
      y.fired = x.took.fired ∧ y.late = x.took.late ∧ y.skips = x.skips + BitVec.ofNat 32 skips ∧ y.running = x.running + run ∧ y.pending = pend
    (∀ (t : TabEntry) (old new j : Nat), t.late = [] → t.next = some k → t.period ≠ 0 → old < t.slotTime k → t.slotTime (k + j) ≤ new →
      new < t.slotTime (k + j + 1) →
      t.stepped old new s.clock.run = { t with fired := some (k + j), late := [s.clock.run], skips := t.skips + BitVec.ofNat 32 j }) ∧
    (nbits x.ctl 0 1 = 1 → nbits x.ctl 1 2 = 0 → s.clock.source ≠ 0 → s.arbFree = true →
    (x.late = [] → x.next = some k →
      s.slotDue x = (if x.slotTime k ≤ s.dtc.toNat then some (s.clock.run - (s.dtc.toNat - x.slotTime k)) else none) ∧
        x.took = { x with fired := some k }) ∧
    (x.late = r :: l → s.slotDue x = some r ∧ x.took = { x with late := l }) ∧
    (s.slotDue x = none → exec i s = .next s) ∧
    (s.slotDue x = some r → s.slotBehind e r = false →
      (x.running = 0 ∨ rule = 3 ∧ x.running < 16 → after 0 1 x.pending) ∧
      (x.running ≠ 0 → rule = 0 ∨ rule = 3 ∧ 16 ≤ x.running ∨ rule = 1 ∧ x.pending ≠ 0 → after 1 0 x.pending) ∧
      (x.running ≠ 0 → rule = 2 ∨ rule = 1 ∧ x.pending = 0 → after 0 0 (x.pending + 1)) ∧
      (x.running ≠ 0 → rule = 2 → (s.slice x.slice).sw.step = .idle → (s.ctx (s.runCx x.slice)).vf = x.vf →
        ∀ c, (s.slice x.slice).running = some c → ∃ t, exec i s = .next t ∧ (t.slice x.slice).selStop = true ∧
          (t.slice x.slice).sw.step ≠ .idle ∧ (t.slice x.slice).sw.inn = some c)))

/-- R194: at a slot of a switch entry selection stops and the switch to its target begins; while an earlier switch is unfinished the slot is
skipped. -/
def Says.SwitchSlotsStartTheLadder : Prop :=
  ∀ (s : State) (e r : Nat),
    let x := tget {} s.mgmt.table e
    let sw := (s.slice x.slice).sw
    nbits x.ctl 1 2 = 1 → s.arbFree = true → s.slotDue x = some r → s.slotBehind e r = false →
    ∃ t, exec (.switchSlot e) s = .next t ∧
      (sw.busy = true → tget {} t.mgmt.table e = { x.took with skips := x.skips + 1#32 } ∧ t.slices = s.slices) ∧
      (sw.busy = false → tget {} t.mgmt.table e = x.took ∧ (t.slice x.slice).selStop = true ∧
        (t.slice x.slice).sw.inn = some (x.target % 8) ∧ (sw.step = .idle → (t.slice x.slice).sw.out = (s.slice x.slice).running) ∧
        ∀ c, (s.slice x.slice).running = some c → (s.ctx (cxOf x.slice c)).dbg.hlt = false → (t.slice x.slice).sw.step = .soft)

/-- R201 and R186: a launch of which nothing is left completes: its inputs lose a reader, and a consumed one empties with the last; its outputs
become full, as said here for a launch of one tile; its number is free; its record is written. -/
def Says.FinishedLaunchesComplete : Prop :=
  ∀ (s : State) (sl n : Nat) (l : Launch),
    let cx := s.runCx sl
    s.MemOk → s.NoTasks none → s.arbFree = true → (s.slice sl).launches.find? (fun l => l.num == n) = some l → s.launchDone sl l = true →
    (s.slice sl).running.isSome = true → s.preempted sl = false →
    ∃ t, exec (.launchCompletion sl n) s = .next t ∧ (t.slice sl).launches = (s.slice sl).launches.filter (fun m => m.num != n) ∧
      (∀ i, l.desc.done = 0 → l.desc.tin = [i] → l.desc.tout = [] → s.TileApart cx i →
        let x := s.tile cx i
        let last : Prop := x.cclaim = true ∧ x.rd ≤ 1
        (t.tile cx i).rd = x.rd - 1 ∧ ((t.tile cx i).full = true ↔ x.full = true ∧ ¬ last) ∧
          ((t.tile cx i).cclaim = true ↔ x.cclaim = true ∧ ¬ last)) ∧
      (∀ i, l.desc.done = 0 → l.desc.tin = [] → l.desc.tout = [i] → s.TileApart cx i →
        t.tile cx i = { s.tile cx i with full := true, wclaim := false, seq := ((s.tile cx i).seq + 1) % 2 ^ 32 }) ∧
      ∀ p, l.desc.tin = [] → l.desc.tout = [] → l.desc.done ≠ 0 → s.RecordPlace sl l.desc.done p →
        t.Shows sl p.loc (leBytes 8 l.tag.toNat ++ leBytes 4 s.dtc.toNat ++ leBytes 2 n ++ leBytes 2 0)

/-! ## Injection, crews, packets, queues and rings (07:R198 to R200, 09:R249, 15:R376, 03:R66, R69, R88, 19:R412) -/

/-- R198: the next threads of a launch leave in order, each to the first of at most four probed members of the set that has room, until one finds none;
an acknowledgement lowers the count of what has entered. -/
def Says.InjectionFillsProbedReplicas : Prop :=
  ∀ (s : State) (sl n : Nat) (l : Launch), (s.slice sl).launches.find? (fun l => l.num == n) = some l →
    let z := l.set.length
    let probes (i : Nat) : List Nat := (List.range (min z 4)).map (fun j => l.set.getD ((i % z + j) % z) 0)
    let room (ps : List (Nat × Packet)) (q : Nat) : Prop :=
      (s.quad (qkOf sl q)).annAbove = false ∧ s.unacked sl q + (ps.filter (fun e => e.1 == q)).length + 1 + s.hwm sl ≤ 256
    (s.injects sl = true → l.desc.crewsz = 0 → l.set ≠ [] →
      ∃ t m, ∃ ps : List (Nat × Packet), exec (.injection sl n) s = .next t ∧ ps.length ≤ l.desc.count - l.injected ∧
        (∀ j, j < ps.length → ∃ q a b, ps[j]? = some (q, l.packet (l.injected + j) none) ∧ probes (l.injected + j) = a ++ q :: b ∧
          room (ps.take j) q ∧ ∀ x ∈ a, ¬ room (ps.take j) x) ∧
        (ps.length < l.desc.count - l.injected → ∀ q ∈ probes (l.injected + ps.length), ¬ room ps q) ∧
        (t.slice sl).launches.find? (fun l => l.num == n) = some m ∧ m.injected = l.injected + ps.length ∧ m.desc = l.desc ∧
        ∀ q, let mine := (ps.filter (fun e => e.1 == q)).map (fun e => e.2)
          tget 0 m.unack q = tget 0 l.unack q + mine.length ∧
          (t.quad (qkOf sl q)).trains = (s.quad (qkOf sl q)).trains ++
            if mine = [] then [] else [{ injected := true, src := 0, launch := n, packets := mine }]) ∧
    ∀ q, ∃ t m, exec (.injectionAck sl n q) s = .next t ∧ (t.slice sl).launches.find? (fun l => l.num == n) = some m ∧
      tget 0 m.unack q = tget 0 l.unack q - tget 0 l.entered q ∧ tget 0 m.entered q = 0 ∧ m.injected = l.injected ∧
      (∀ k, k ≠ q → tget 0 m.unack k = tget 0 l.unack k ∧ tget 0 m.entered k = tget 0 l.entered k) ∧ t.quads = s.quads

/-- R199, R200, R87 and R88: the next crew goes to the next cluster, in round robin, that holds its whole object and has room, while no crew of equal or
higher priority waits for a place; it takes its reservation, with the lowest packet slots that no crew holds (log 42, DESIGN CHOICE), and its threads leave for quads of that
cluster. -/
def Says.CrewsGoToTheNextClusterWithRoom : Prop :=
  ∀ (s : State) (sl n slot k : Nat) (l : Launch) (o : Obj),
    let x := s.slice sl
    let start := if l.injected = 0 then (x.lastCrewClus.map (· + 1)).getD 0 else l.lastClus + 1
    let size := l.desc.crewsz
    let fits (c : Nat) : Prop := c ∈ s.crewClusters sl l.desc slot o ∧
      (((s.cluster (clkOf sl c)).crews.map CrewRes.size).foldl (· + ·) 0) + size ≤ 1024
    let c := (start + k) % x.nclus
    let set := l.set.filter (fun q => q / 2 == c)
    let ps := (List.range size).map (fun i =>
      (pickQuad (set.filter (fun q => (s.quad (qkOf sl q)).annAbove)) set (l.injected * size + i),
        l.packet (l.injected * size + i) (some l.injected)))
    x.launches.find? (fun l => l.num == n) = some l → s.injects sl = true → size ≠ 0 → l.injected < l.desc.count →
    s.launchObj sl l = some (slot, o) → k < x.nclus → fits c → (∀ j, j < k → ¬ fits ((start + j) % x.nclus)) →
    (∀ m ∈ x.launches, m.num ≠ n → m.crewLeft = true → l.prio ≤ m.prio → (s.crewCluster sl m).isSome = true) →
    ∃ t m, exec (.crewPlacement sl n) s = .next t ∧ (t.slice sl).launches.find? (fun l => l.num == n) = some m ∧ m.injected = l.injected + 1 ∧
      m.lastClus = c ∧ (t.slice sl).lastCrewClus = some c ∧
      (t.cluster (clkOf sl c)).crews = (s.cluster (clkOf sl c)).crews ++
        [{ launch := n, crew := l.injected, size := size, slots := (s.cluster (clkOf sl c)).freeCrewSlots size, alive := size, packets := [] }] ∧
      ∀ q, let mine := (ps.filter (fun e => e.1 == q)).map (fun e => e.2)
        (t.quad (qkOf sl q)).trains = (s.quad (qkOf sl q)).trains ++
          if mine = [] then [] else [{ injected := true, src := 0, launch := n, packets := mine }]

/-- R249, R123 and R124: the trains of a gang leave its quad for theirs in order, numbered, unless the partition drains or its injection has
stopped. -/
def Says.TrainsLeaveTheQuad : Prop :=
  ∀ (s : State) (gk : Nat), let sl := slOfGk gk; let outs := (s.quad (qkOfGk gk)).outs
    ((s.slice sl).draining = true ∨ (s.slice sl).injStopped = true → exec (.packetSend gk) s = .next s) ∧
    ((s.slice sl).draining = false → (s.slice sl).injStopped = false → ∃ t, exec (.packetSend gk) s = .next t ∧
      (t.quad (qkOfGk gk)).outs = outs.filter (fun o => o.1 != gk) ∧
      (t.quad (qkOfGk gk)).sendNo = (s.quad (qkOfGk gk)).sendNo + (outs.filter (fun o => o.1 == gk)).length ∧
      ∀ qk, (t.quad qk).trains = (s.quad qk).trains ++ (((outs.filter (fun o => o.1 == gk)).zipIdx (s.quad (qkOfGk gk)).sendNo).filter
        (fun o => o.1.2.1 == qk)).map (fun o => { o.1.2.2 with no := o.2 }))

/-- R376, R66, R69, R89, R124 and R412: in a cycle injected trains enter first, then those of quads by ascending number, and a quad's messages in
the order sent; packets enter the queue while it has room and the ring is empty, else the ring; with the ring full a transfer's packet goes
back to its sender, whose store of 32 keeps it until it is accepted, and while that store is full it waits before the quad; a crew packet waits
in its reservation. -/
def Says.TrainsEnterWhole : Prop :=
  ∀ (s : State) (sl q : Nat) (a b : List Train) (tr : Train),
    let x := s.quad (qkOf sl q)
    let key := if tr.injected then 0 else tr.src + 1
    let i : Instr := .trainEntry sl (2048 * key + q)
    let stamp (p : Packet) : Packet := if p.came then p else { p with at_ := s.now, seq := x.entrySeq, came := true, due := s.now }
    let stamped := (tr.packets.zipIdx).map (fun e => { e.1 with at_ := s.now, seq := x.entrySeq + e.2, came := true, due := s.now })
    let store (t : State) := (t.quad (qkOf sl tr.src)).resend
    let behind : Prop := ∃ k, x.entered = some (s.now, k) ∧ key < k
    let n := if x.ring = [] then min tr.packets.length (256 - x.aq.length) else 0
    q < 2048 → x.trains = a ++ tr :: b → (∀ y ∈ a, trainKey y ≠ key) →
    (∀ y ∈ b, trainKey y = key → tr.no ≤ y.no) → tr.waits s.now = false →
    (behind ∨ tr.injected = false ∧ s.sentBefore (qkOf sl q) tr.src tr.no = true → exec i s = .next s) ∧
    (¬ behind → (tr.injected = false → s.sentBefore (qkOf sl q) tr.src tr.no = false) →
    ((∀ p ∈ tr.packets, p.crew = false ∧ p.came = false) → (∀ p ∈ x.aq ++ x.ring, p.seq < x.entrySeq) → x.ring.length + (tr.packets.length - n) ≤ 8192 →
      ∃ t, exec i s = .next t ∧ let y := t.quad (qkOf sl q)
        y.trains = a ++ b ∧ y.entered = some (s.now, key) ∧ y.aq = x.aq ++ (stamped.take n).map (fun p => { p with qAt := s.now }) ∧ y.ring = x.ring ++ stamped.drop n ∧
        y.entrySeq = x.entrySeq + tr.packets.length ∧ y.annAbove = decide (s.hwm sl < y.aq.length) ∧
        (tr.injected = true → ∀ l, (s.slice sl).launches.find? (fun l => l.num == tr.launch) = some l → l.desc.crewsz = 0 →
          ∃ m, (t.slice sl).launches.find? (fun l => l.num == tr.launch) = some m ∧
            tget 0 m.entered q = tget 0 l.entered q + tr.packets.length)) ∧
    (∀ p, tr.packets = [p] → p.crew = false → tr.injected = false → 8192 ≤ x.ring.length →
      ∃ t, exec i s = .next t ∧ (t.quad (qkOf sl q)).aq = x.aq ∧ (t.quad (qkOf sl q)).ring = x.ring ∧
        let back : Packet := { stamp p with due := (stamp p).due + 512, away := false }
        if tr.again = false ∧ 32 ≤ (store s).length then
          store t = store s ∧ (t.quad (qkOf sl q)).trains = { tr with packets := [stamp p] } :: (a ++ b)
        else store t = (if tr.again then (store s).map (fun e => if e.1 = q ∧ e.2.seq = (stamp p).seq then (q, back) else e)
            else store s ++ [(q, back)]) ∧
          (t.slice sl).ctrs.refuse = (s.slice sl).ctrs.refuse + 1) ∧
    (∀ p, tr.packets = [p] → p.crew = false → tr.injected = false → p.came = true → tr.again = true → x.ring = [] → x.aq.length < 256 →
      ∃ t, exec i s = .next t ∧ (∀ y, y ∈ (t.quad (qkOf sl q)).aq ↔ y ∈ x.aq ∨ y = { p with qAt := s.now }) ∧
        store t = (store s).filter (fun e => !decide (e.1 = q ∧ e.2.seq = p.seq))) ∧
    (∀ p, tr.packets = [p] → p.crew = true →
      ∃ t, exec i s = .next t ∧ (t.quad (qkOf sl q)).aq = x.aq ∧ (t.quad (qkOf sl q)).ring = x.ring ∧
        (t.cluster (clkOf sl (q / 2))).crews = (s.cluster (clkOf sl (q / 2))).crews.map (fun r =>
          if r.launch = p.launch ∧ r.crew = p.crewNo then
            { r with packets := r.packets ++ [(q, { stamp p with qAt := s.now })] } else r)))

/-- R69 and R412: a ring gives its oldest packets to the queue; the refused packets of a quad that are due leave again, each as a train of its own, while the
store keeps them; a ring that has been full for 1 ms is reported once. -/
def Says.RingsRefillAndResend : Prop :=
  ∀ (s : State) (sl q d : Nat),
    let x := s.quad (qkOf sl q)
    let y := s.quad (qkOf sl d)
    let n := 256 - x.aq.length
    let still : Prop := (s.slice sl).draining = false ∧ (s.slice sl).injStopped = false
    ((x.aq ++ x.ring).Pairwise (fun a b => a.seq < b.seq) → ∃ t, exec (.ringRefill sl q) s = .next t ∧
      (t.quad (qkOf sl q)).aq = x.aq ++ (x.ring.take n).map (fun p => { p with qAt := s.now }) ∧ (t.quad (qkOf sl q)).ring = x.ring.drop n ∧
      (t.quad (qkOf sl q)).annAbove = decide (s.hwm sl < (t.quad (qkOf sl q)).aq.length)) ∧
    let due := x.resend.filter (fun e => decide (e.2.away = false ∧ e.2.due ≤ s.now))
    (still → ∃ t, exec (.resend sl q) s = .next t ∧ t.mem = s.mem ∧
      (t.quad (qkOf sl q)).resend = x.resend.map (fun e => if e.2.away = false ∧ e.2.due ≤ s.now then (e.1, { e.2 with away := true }) else e) ∧
      (t.quad (qkOf sl q)).sendNo = x.sendNo + due.length ∧ (t.quad (qkOf sl d)).aq = y.aq ∧
      (t.quad (qkOf sl d)).trains = y.trains ++ ((due.zipIdx x.sendNo).filter (fun o => qkOf sl o.1.1 == qkOf sl d)).map (fun o =>
        { injected := false, src := q, launch := o.1.2.launch, packets := [o.1.2], no := o.2, again := true })) ∧
    (¬ still → exec (.resend sl q) s = .next s) ∧
    (∀ since, x.ringFull = some since → x.ringTold = false → since + 1000000 ≤ s.clock.run → ∃ t, exec (.ringFullNotification sl q) s = .next t ∧
      t.mgmt.notes = s.mgmt.notes ++ [(1, qkOf sl q)] ∧ (t.quad (qkOf sl q)).ringTold = true) ∧
    (∀ since, x.ringFull = some since → x.ringTold = true ∨ s.clock.run < since + 1000000 → exec (.ringFullNotification sl q) s = .next s)

/-! ## Gangs formed and stolen (03:R62, R65, R67, R79 to R82) -/

/-- R82, R62, R67 and R79, and log 43 for the slot (DESIGN CHOICE: the lowest free one): a core with a free slot takes the oldest group that fills a gang or has waited, if its quad serves it in this cycle; else the
records at the top of its deque; else the oldest group of all. At most 32 packets form the gang, and they leave their queue. -/
def Says.GangsFormFromPackets : Prop :=
  ∀ (s : State) (sl c k : Nat) (slots : List Nat) (p : Packet) (rest : List Packet) (e : EntryRec) (b : BlkRef), c < 8192 →
    let ck := ckOf sl c
    let qk := qkOfCk ck
    let ripe := s.ripe sl
    let i : Instr := .gangFormation sl c
    s.mayForm ck = true → s.freeSlots ck = k :: slots → s.Enters ck p e b →
    (s.Oldest qk ripe p rest ∨ (∀ g ∈ s.groups qk, ripe g = false) ∧ (s.core ck).deque = [] ∧ s.Oldest qk (fun _ => true) p rest →
      (s.quad qk).tookBy ≤ s.now → s.served qk = some (c % 4) →
      let ps := (p :: rest).take 32
      ∃ t, exec i s = .next t ∧ Formed s t (gkOf ck k) ps e b ∧ (t.quad qk).lastTaker = c % 4 ∧ (t.quad qk).tookBy = s.now + 1 ∧
        (t.core ck).deque = (s.core ck).deque ∧
        (p.crew = false → ∀ x, x ∈ (t.quad qk).aq ↔ x ∈ (s.quad qk).aq ∧ ¬ (x.like p = true ∧ ∃ y ∈ ps, y.seq = x.seq))) ∧
    ((∀ g ∈ s.groups qk, ripe g = false) → (s.core ck).deque = p :: rest → (s.core ck).dqBy ≤ s.now →
      let n := min 31 (rest.takeWhile (fun x => x.like p)).length
      ∃ t, exec i s = .next t ∧ Formed s t (gkOf ck k) (p :: rest.take n) e b ∧ (t.core ck).deque = rest.drop n ∧
        (t.core ck).annEmpty = (rest.drop n).isEmpty ∧ t.quads = s.quads)

/-- R65: the wait of the oldest group that may not be taken yet ends when its oldest packet has waited for `gangwait`, where nothing else falls due
before. -/
def Says.GroupsWaitForGangwait : Prop :=
  ∀ (s : State) (sl q : Nat) (p : Packet) (rest : List Packet), s.Oldest (qkOf sl q) (fun g => !s.ripe sl g) p rest →
    s.calm (p.at_ + (s.ctx (s.runCx sl)).gangwait - s.now) = true →
    ∃ t, exec (.gangwaitExpiry sl q) s = .next t ∧ t.now = max s.now (p.at_ + (s.ctx (s.runCx sl)).gangwait) ∧ t.quads = s.quads ∧
      t.ripe sl (p :: rest) = true

/-- R80 and R81, and log 43 for the slot (DESIGN CHOICE: a thief keeps one back, and its gang takes the lowest free one): a core with nothing to take asks the next core of its replica group that is not announced empty; the one asked answers its first thief
with at most half of its deque, up to 32 records from the bottom, which form a gang there. -/
def Says.StealsTakeTheOldestRecords : Prop :=
  ∀ (s : State) (sl c v : Nat), c < 8192 → v < 8192 →
    let ck := ckOf sl c
    let x := s.core ck
    (s.mayForm ck = true → x.asked = none → s.groups (qkOfCk ck) = [] → x.deque = [] → s.victim ck = some v →
      v ≠ c ∧ (s.core (ckOf sl v)).annEmpty = false ∧ v ∈ s.replicaGroup ck ∧
      ∃ t, exec (.stealRequest sl c) s = .next t ∧ (t.core ck).asked = some v ∧ (t.core ck).lastAsked = some v ∧
        (t.core (ckOf sl v)).thieves = (s.core (ckOf sl v)).thieves ++ [c]) ∧
    (∀ rest, x.thieves = v :: rest → v ≠ c → x.dqBy ≤ s.now → s.pops ck = false →
      let tk := ckOf sl v
      let d := x.deque
      let ps := ((d.reverse.head?.toList ++ (d.reverse.drop 1).takeWhile (fun y => (d.reverse.head?).any (fun p => y.like p))).take 32).take
        ((d.length + 1) / 2)
      (d = [] → ∃ t, exec (.stealAnswer sl c) s = .next t ∧ (t.core ck).thieves = rest ∧ (t.core tk).asked = none ∧ t.gangs = s.gangs) ∧
      ∀ k slots p e b, (s.slice sl).running.isSome = true → s.mayRun sl = true → (s.slice sl).sw.step = .idle →
        s.freeSlots tk = k :: slots → ps.head? = some p → s.Enters tk p e b →
        ∃ t, exec (.stealAnswer sl c) s = .next t ∧ (t.core ck).thieves = rest ∧ (t.core tk).asked = none ∧ Formed s t (gkOf tk k) ps e b ∧
          (t.core ck).deque = d.take (d.length - ps.length))

/-! ## Routes, hot-code replication, loading (02:R27, R30, R36 to R54, R474) -/

/-- R30: a quad's route cache of 256 takes in the entry that a valid handle names, once. That a full cache drops its oldest entry is log 11 (DESIGN
CHOICE). -/
def Says.RouteCachesTakeEntriesIn : Prop :=
  ∀ (s : State) (sl q : Nat) (h : BitVec 64) (g : Target),
    let routes := (s.quad (qkOf sl q)).routes
    (s.resolve (s.runCx sl) h = none → exec (.routeCacheFill sl q h) s = .next s) ∧
    (s.resolve (s.runCx sl) h = some g →
      ((∃ x ∈ routes, x.obj = g.slot ∧ x.entry = g.entry) → exec (.routeCacheFill sl q h) s = .next s) ∧
      ((∀ x ∈ routes, ¬ (x.obj = g.slot ∧ x.entry = g.entry)) → ∃ t, exec (.routeCacheFill sl q h) s = .next t ∧
        (t.quad (qkOf sl q)).routes =
          ({ obj := g.slot, entry := g.entry, live := g.rec_.live, quads := g.obj.replicas g.rec_.block } :: routes).take 256 ∧
        ∀ k, k ≠ qkOf sl q → t.quad k = s.quad k))

/-- R36: every 1,024 cycles a sample starts or keeps the hot timing of a block while every replica holds `hiq` packets for it, and the cold timing while every one
holds at most `loq`; otherwise the timing ends. -/
def Says.SamplesTimeHotAndColdBlocks : Prop :=
  ∀ (s : State) (sl slot blk : Nat) (o : Obj),
    let c := s.ctx (s.runCx sl)
    let old := (s.slice sl).hotOf slot blk
    let occ (q : Nat) : Nat :=
      (((s.quad (qkOf sl q)).aq ++ (s.quad (qkOf sl q)).ring).filter (s.packetFor (s.runCx sl) slot blk)).length
    (s.slice sl).running.isSome = true → (c.objs.map Prod.fst).Nodup → s.obj (s.runCx sl) slot = some o →
    (tget {} c.objs slot).dying = false → blk < o.blocks.length →
    (s.now < (s.slice sl).sampledAt + 1024 → exec (.hotSample sl) s = .next s) ∧
    ((s.slice sl).sampledAt + 1024 ≤ s.now → ∃ t, exec (.hotSample sl) s = .next t ∧ (t.slice sl).sampledAt = s.now ∧ t.quads = s.quads ∧
      ((t.slice sl).hotOf slot blk).hotSince =
        (if ∀ q ∈ o.replicas blk, wbits c.hotcfg 40 8 ≤ occ q then some (old.hotSince.getD s.clock.run) else none) ∧
      ((t.slice sl).hotOf slot blk).coldSince =
        (if ∀ q ∈ o.replicas blk, occ q ≤ wbits c.hotcfg 32 8 then some (old.coldSince.getD s.clock.run) else none))

/-- R37, R38, R39 and R27: a block hot for `hotns` is copied to one more quad that has room for it and for the object's trap block, up to
`maxrep`, and without such a quad its hot timing begins again; one cold for `coldns` gives up the copy added last; the launch
arbiter orders each update, which every quad takes in; a removed copy is freed once no packet can still reach it, no gang runs it and, where
it is the trap block, the quad holds no other block of its object. That a copy brings the trap block along is log 52, and that every quad takes
an update in at the point where it is ordered is log 29 (the model's choices). -/
def Says.HotBlocksGainAndLoseReplicas : Prop :=
  ∀ (s : State) (sl slot blk q : Nat) (o : Obj),
    let cx := s.runCx sl
    let c := s.ctx cx
    let hot := (s.slice sl).hotOf slot blk
    let hots := o.hots.getD blk []
    let pend := (s.slice sl).hotPending
    let free : Prop := ∀ u ∈ pend, ¬ (u.1 = slot ∧ u.2.1 = blk)
    (s.slice sl).running.isSome = true → s.obj cx slot = some o →
    (∀ since ws, hot.hotSince = some since → since + wbits c.hotwin 32 32 ≤ s.clock.run → hots.length < wbits c.hotcfg 48 16 → free →
      o.blocks[blk]? = some ws →
      (∀ y, s.replicaQuad sl slot blk o = some (q, y) → ∃ t a, exec (.addReplica sl slot blk) s = .next t ∧
        (t.slice sl).hotPending = pend ++ [(slot, blk, q, true)] ∧
        (∀ i, i < ws.length → tget 0#32 (t.quad (qkOf sl q)).code (a + i) = ws.getD i 0#32) ∧
        (t.quad (qkOf sl q)).findAny slot blk = some { start := a, len := ws.length, obj := slot, idx := blk } ∧
        ∀ b, o.trapBlk = some b → ((t.quad (qkOf sl q)).findAny slot b).isSome = true) ∧
      (s.replicaQuad sl slot blk o = none → ∃ t, exec (.addReplica sl slot blk) s = .next t ∧ t.quads = s.quads ∧
        (t.slice sl).hotOf slot blk = { hot with hotSince := none })) ∧
    (∀ since rest, hot.coldSince = some since → since + wbits c.hotwin 0 32 ≤ s.clock.run → hots = q :: rest → free →
      ∃ t, exec (.removeReplica sl slot blk) s = .next t ∧ (t.slice sl).hotPending = pend ++ [(slot, blk, q, false)] ∧ t.quads = s.quads) ∧
    (∀ add rest, pend = (slot, blk, q, add) :: rest → blk < o.blocks.length → s.arbFree = true →
      ∃ t u, exec (.replicaUpdate sl) s = .next t ∧ (t.slice sl).hotPending = rest ∧ t.obj cx slot = some u ∧ u.reps = o.reps ∧
        u.hots.getD blk [] = (if add then q :: hots else hots.filter (fun x => x != q)) ∧
        (∀ k, k < 2048 → ∀ r ∈ (t.quad (qkOf sl k)).routes, ¬ (r.obj = slot ∧ ∃ e, o.entries[r.entry]? = some e ∧ e.block = blk)) ∧
        (add = false → ∀ e ∈ (t.quad (qkOf sl q)).exts, e.obj = slot → e.blk = blk → e.dying = true) ∧
        ((t.slice sl).hotOf slot blk).hotSince = none ∧ ((t.slice sl).hotOf slot blk).coldSince = none) ∧
    ((∃ e ∈ (s.quad (qkOf sl q)).exts, e.obj = slot ∧ e.blk = blk ∧ e.dying = true) →
      (s.reachable sl slot blk q = true → exec (.extentFree sl q slot blk) s = .next s) ∧
      (s.trapNeeded sl q slot blk = true → exec (.extentFree sl q slot blk) s = .next s) ∧
      ((∀ p ∈ s.quadPackets sl q ++ s.heldBack sl, s.packetFor cx slot blk p = false) → s.reachable sl slot blk q = false →
      s.trapNeeded sl q slot blk = false →
      (∀ e ∈ s.gangs, qkOfGk e.1 = qkOf sl q → e.2.runs (fun b => b.obj == slot && b.idx == blk) = false) →
      ∃ t, exec (.extentFree sl q slot blk) s = .next t ∧ (t.quad (qkOf sl q)).exts =
        (s.quad (qkOf sl q)).exts.filter (fun e => !(e.obj == slot && e.blk == blk && e.dying))))

/-- R27, R41, R44, R47, R50, R184, R229 and R457: a sound object whose code, regions, names and mapping fit, and which leaves the tile headers alone, takes
its slot: its blocks stand in the quads of their copies, its slot keeps its generation and notes its owner, and a launch line becomes a record of the
lowest enabled queue; every load that breaks a rule is refused and changes nothing but a notification. That the owner is the virtual function is
log 44, that a launch line which does not resolve refuses the load is log 53, and that a refusal is the note of kind 2 is log 9 (the model's choices). -/
def Says.SoundObjectsLoad : Prop :=
  ∀ (s : State) (sl slot : Nat) (img : List (BitVec 8)) (place : LoadPlace),
    let cx := s.runCx sl
    let c := s.ctx cx
    let x := tget {} c.objs slot
    let os := s.loaded cx
    let raw := rawRegions img
    let l := placeRegions place.extVa (usedParts (os.map (fun e => e.2))) raw { regs := [], used := [], glob := 0 }
    let tiles := placeTiles place.extVa c.ntiles l.glob (raw.filter (fun r => r.space == 4))
    let o := objOf img place (numberTiles c.ntiles l.regs) c.loads
    let code := ((List.range place.copies.length).zip place.copies).flatMap (fun e => e.2.map (fun q => (e.1, q.1, q.2)))
    let trapBlk := (((entriesOf img)[o.trapEntry]?).map (fun e => e.block)).getD 0
    let sound : Prop := (s.slice sl).running.isSome = true ∧ slot < 4096 ∧ x.retired = false ∧ x.obj = none ∧
      objectOk img (s.slice sl).nquads = true ∧ layoutOk c.shmib l = true ∧ resolves os slot o = true ∧ place.extVa % 65536 = 0 ∧
      place.extPa % 65536 = 0 ∧ c.ntiles + tiles.length ≤ 4096 ∧ copiesOk img trapBlk place.copies = true ∧
      ∃ u, s.placeCode sl slot o.blocks code = some u ∧ u.hintsKept sl slot img o = true ∧
        (u.placeTabs cx place).loadMapped cx place (extentSize place.extVa l.glob tiles) o.slots.length = true ∧
        u.besideTiles cx place (extentSize place.extVa l.glob tiles) o.slots.length = true ∧ (u.placeTabs cx place).tilesAs u cx = true
    let i : Instr := .objectLoad sl slot img place
    let loads (t : State) : Prop := ∃ y, tget {} (t.ctx cx).objs slot = y ∧ y.obj = some o ∧ y.gen = x.gen ∧ y.owner = c.vf ∧
      y.dying = false ∧ (t.ctx cx).ntiles = c.ntiles + tiles.length ∧ (t.ctx cx).loads = c.loads + 1 ∧
      o.entries = entriesOf img ∧ o.blocks = blocksOf img ∧ o.digest = (img.drop 16).take 48 ∧
      ∀ m ∈ code, ∀ i, i < ((blocksOf img).getD m.1 []).length →
        tget 0#32 (t.quad (qkOf sl m.2.1)).code (m.2.2 + i) = ((blocksOf img).getD m.1 []).getD i 0#32
    (sound → place.launches = [] → ∃ t, exec i s = .next t ∧ loads t ∧ t.mgmt = s.mgmt) ∧
    (sound → ∀ l n, place.launches = [l] → s.loaderQueue cx = some n → c.submits = [] →
      let q := tget {} s.mgmt.queues n
      exec i s = .next (s.note 2 slot) ∨ ∃ t, exec i s = .next t ∧ loads t ∧ (t.lineDesc cx slot o l).isSome = true ∧ l.descVa % 64 = 0 ∧
        (q.isFull = true → (t.ctx cx).submits = [l.descVa] ∧ t.mgmt = s.mgmt) ∧
        (q.isFull = false → (t.ctx cx).submits = [] ∧ tget {} t.mgmt.queues n = { q with tail := (q.tail + 1) % 2 ^ q.ldep } ∧
          (s.MemOk → s.NoTasks none → q.ring + 64 * q.tail + 64 ≤ 2 ^ 47 → ∀ k, k < 64 →
            t.rdByte s.ochre.devKey (q.ring + 64 * q.tail + k) = (leBytes 8 l.descVa ++ List.replicate 56 0#8).getD k 0#8))) ∧
    (¬ sound ∨ (place.launches ≠ [] ∧ s.loaderQueue cx = none) → exec i s = .next (s.note 2 slot))

/-- R52, R51 and R474: an unload that no other object's link blocks raises the slot's generation, or retires the slot at the last one, and makes every
handle of it invalid; its code is freed once no packet and no gang needs it, and no launch has a packet of it to inject. That the object's records
that have been read are refused is log 55 (DEDUCED). -/
def Says.UnloadsWithdrawTheObject : Prop :=
  ∀ (s : State) (sl slot : Nat), (s.slice sl).running.isSome = true →
    let cx := s.runCx sl
    let x := tget {} (s.ctx cx).objs slot
    let mine (p : Packet) : Prop := wbits p.entry 0 12 = slot
    (x.obj.isSome = true → x.dying = false → s.unloadBlocked cx slot = false → s.arbFree = true →
      ∃ t y, exec (.objectUnload sl slot) s = .next t ∧ tget {} (t.ctx cx).objs slot = y ∧ y.dying = true ∧ y.obj = x.obj ∧
        (x.gen ≠ 0xf_ffff → y.gen = x.gen + 1 ∧ y.retired = x.retired) ∧ (x.gen = 0xf_ffff → y.gen = x.gen ∧ y.retired = true) ∧
        (∀ h : Word, wbits h 0 12 = slot → t.resolve cx h = none) ∧
        (∀ h ∈ (t.slice sl).heads, wbits h.desc.entry 0 12 = slot → h.broken ≠ 0) ∧
        ∀ q, q < 2048 → ∀ r ∈ (t.quad (qkOf sl q)).routes, r.obj ≠ slot) ∧
    (x.obj = none ∨ x.dying = true ∨ s.unloadBlocked cx slot = true → exec (.objectUnload sl slot) s = .next (s.note 2 slot)) ∧
    (x.dying = true → (∀ q, q < (s.slice sl).nquads → ∀ p ∈ s.quadPackets sl q, ¬ mine p) → (∀ p ∈ s.heldBack sl, ¬ mine p) →
      (∀ e ∈ s.gangs, slOfGk e.1 = sl → e.2.runs (fun b => b.obj == slot) = false) →
      (∀ l ∈ (s.slice sl).launches, l.injected < l.desc.count → wbits l.desc.entry 0 12 ≠ slot) →
      ∃ t, exec (.objectExtentFree sl slot) s = .next t ∧ (tget {} (t.ctx cx).objs slot).obj = none ∧
        (tget {} (t.ctx cx).objs slot).gen = x.gen ∧ ∀ q, q < 2048 → ∀ e ∈ (t.quad (qkOf sl q)).exts, e.obj ≠ slot) ∧
    (∀ l ∈ (s.slice sl).launches, l.injected < l.desc.count → wbits l.desc.entry 0 12 = slot → exec (.objectExtentFree sl slot) s = .next s)

/-! ## The directory, walks, invalidation and the hypervisor's commands (04:R111 to R117, 14:R370, 19:R406, 21:R449) -/

/-- R117: a sharer beyond the fourth that has raised the handler's trap enters the line's extended record, which lies in the home's scratchpad,
or the line is marked broadcast when all 204 records are taken. -/
def Says.TheFifthSharerTraps : Prop :=
  ∀ (s : State) (sl line q : Nat) (old : DirLine), (s.slice sl).nclus ≠ 0 →
    let home := s.homeOf sl line
    let dir := (s.cluster home).dir
    let free (k : Nat) : Prop := ∀ e ∈ dir, ¬ (e.ext = true ∧ e.rec_ = k)
    let i : Instr := .directoryHandlerTrap sl line q
    ((line, q) ∉ (s.cluster home).dirTraps → exec i s = .next s) ∧
    ((line, q) ∈ (s.cluster home).dirTraps → dir.find? (fun d => d.line == line) = some old →
      ∃ t d, exec i s = .next t ∧ (t.cluster home).dir.find? (fun d => d.line == line) = some d ∧ (line, q) ∉ (t.cluster home).dirTraps ∧
        d.exclusive = false ∧ (∀ m, m ∈ d.sharers ↔ m = q ∨ m ∈ old.sharers) ∧
        (∀ k, k ≠ line → (t.cluster home).dir.find? (fun e => e.line == k) = dir.find? (fun e => e.line == k)) ∧
        (old.ext = true ∨ (∃ k, k < 204 ∧ free k) → d.ext = true ∧ (if old.ext then d.rec_ = old.rec_ else d.rec_ < 204 ∧ free d.rec_) ∧
          (s.MemOk → ∀ j, j < 160 → t.rdByte 0 (scrLoc home (0x7_8000 + 160 * d.rec_ + j)) = d.record.getD j 0#8)) ∧
        (old.ext = false → (∀ k, k < 204 → ¬ free k) → d.broadcast = true ∧ t.mem = s.mem))

/-- What a walk of a quad needs: a context runs, the address is global, and no TLB holds an entry that serves the access. -/
def Says.walks (s : State) (sl q : Nat) (va : BitVec 64) (wr : Bool) : Prop :=
  q < 2048 ∧ (s.slice sl).running.isSome = true ∧ rangeOf va.toNat = 4 ∧
    ∀ e, s.tlbHit (qkOf sl q) (s.runCx sl) va.toNat = some e → wr = true ∧ e.d = false

/-- R111 and R112: a miss walks both stages; the result is cached, with the dirty bit set for a write. -/
def Says.WalksFillTheCaches : Prop :=
  ∀ (s : State) (sl q : Nat) (va : BitVec 64) (wr : Bool) (e : TlbEnt), Says.walks s sl q va wr →
    s.walk (s.runCx sl) va.toNat = .ok e → (wr = true → e.w1 = true ∧ e.w2 = true) →
    ∃ t f, exec (.tlbWalk sl q va wr) s = .next t ∧ t.tlbHit (qkOf sl q) (s.runCx sl) va.toNat = some f ∧ f.ppage = e.ppage ∧
      f.ipage = e.ipage ∧ (wr = true → f.d = true) ∧ (wr = false → t.mem = s.mem)

/-- R405 and R406: a stage-1 fault caches nothing; a stage-2 fault is recorded once for the hypervisor, and a further one on its page joins that
record. The walk of this event belongs to no gang: that its record names core 4*q and gang slot 0, and that it keeps one record at a time, is log 57
(DESIGN CHOICE). -/
def Says.FailedWalksReport : Prop :=
  ∀ (s : State) (sl q : Nat) (va : BitVec 64) (wr : Bool), Says.walks s sl q va wr →
    let cx := s.runCx sl
    let v := (s.ctx cx).vf
    let i : Instr := .tlbWalk sl q va wr
    let x := s.vf v
    let y := x.letGo (cx % 8) (fun u => u == .walk)
    let reports (ipa kind : Nat) : Prop :=
      let r : S2Rec := { ipa := ipa / 65536 * 65536, va := va, dtc := s.dtc, ctx := cx % 8, kind := kind, core := 4 * q, gslot := 0, joined := [.walk] }
      ((∃ e ∈ x.s2q, e.2.ipa = r.ipa ∧ e.2.ctx = cx % 8) → ∃ t, exec i s = .next t ∧ t.mem = s.mem ∧ (t.vf v).s2q = (y.join r).s2q) ∧
      ((∀ e ∈ x.s2q, ¬ (e.2.ipa = r.ipa ∧ e.2.ctx = cx % 8)) → x.s2q.length < 256 → x.s2over = [] →
        ∃ t, exec i s = .next t ∧ (t.vf v).s2q = y.s2q ++ [(x.s2next, r)] ∧ (t.vf v).s2next = x.s2next + 1 ∧
          (t.slice sl).ctrs.s2flt = (s.slice sl).ctrs.s2flt + 1 ∧ t.mem = s.mem)
    (s.walk cx va.toNat = .s1 → exec i s = .next s) ∧
    (∀ ipa table ms, s.walk cx va.toNat = .s2 ipa table ms → reports ipa ((if wr then 1 else 0) + if table then 2 else 0)) ∧
    (∀ e, s.walk cx va.toNat = .ok e → wr = true → e.w1 = true → e.w2 = false → reports (e.ipage * 65536 + va.toNat % 65536) 9)

/-- R406: once bring-up is complete, a retry takes its record out of the function's queue; no other record is lost. -/
def Says.RetriesReleaseTheirRecord : Prop :=
  ∀ (s : State) (vf k : Nat),
    (s.booted = false → exec (.retryCommand vf k) s = .next s) ∧
    (s.booted = true → k < (s.vf vf).s2next → ∃ t, exec (.retryCommand vf k) s = .next t ∧ (∀ e ∈ (t.vf vf).s2q, e.1 ≠ k) ∧
      ∀ e ∈ (s.vf vf).s2q, e.1 ≠ k → ∃ f ∈ (t.vf vf).s2q, f.1 = e.1 ∧ f.2.ipa = e.2.ipa)

/-- R112, R370 and R449: the host's clean command waits for writes through the old translations, then clears the dirty bit of each page's stage-2
leaf and nothing else, drops the pages' TLB entries, and may reset the function's log. -/
def Says.CleaningClearsDirtyBits : Prop :=
  ∀ (s : State) (vf : Nat) (pages : List Nat) (rst : Bool),
    let ls := s.leaves vf pages
    let in_ (loc : Nat) : Bool := ls.any (fun l => decide (l.base ≤ loc) && decide (loc < l.base + l.size))
    let quiet : Prop := (∀ e ∈ s.gangs, e.2.quiet in_ = true) ∧ (∀ e ∈ s.clus, e.2.quiet in_ = true) ∧
      (∀ e ∈ s.links.unacked, in_ e.pa = false) ∧ ∀ c ∈ s.ctxs, ∀ im, c.2.image = some im → ∀ w ∈ im.unacked, in_ w.pa = false
    let key := s.ochre.devKey
    (s.booted = false ∨ ¬ quiet → exec (.hostClean vf pages rst) s = .next s) ∧
    (s.booted = true → quiet → s.MemOk → ∃ t, exec (.hostClean vf pages rst) s = .next t ∧
      (∀ a, t.rdByte key a = if s.links.home a ∈ ls.map (fun l => s.links.home l.at_) then s.rdByte key a &&& 0xf7#8 else s.rdByte key a) ∧
      (∀ qk, ∀ e ∈ (t.quad qk).tlb, e ∈ (s.quad qk).tlb ∧ ¬ (e.ctx ∈ s.ctxsOf vf ∧
        ∃ w l, s.s2Walk e.ctx (e.ipage * 65536) = some w ∧ l ∈ ls ∧ l.at_ = w.2.2)) ∧
      (rst = true → (t.vf vf).dlog = [] ∧ (t.vf vf).dovf = false) ∧
      (rst = false → (t.vf vf).dlog = (s.vf vf).dlog ∧ (t.vf vf).dovf = (s.vf vf).dovf))

/-- R113: once every access already translated has been performed, every TLB drops each piece of the page that `tlbinv` named and the gang goes
on. -/
def Says.InvalidationDropsThePage : Prop :=
  ∀ (s : State) (gk : Nat),
    let g := s.gang gk
    let sl := slOfGk gk
    let cx := s.runCx sl
    let named := (g.r.gangOp (nbits (s.issueWord gk).toNat 14 5)).toNat / 65536
    let b := (s.pageOf cx named).1
    let n := (s.pageOf cx named).2
    let page (p : Nat) : Bool := decide (b ≤ p) && decide (p < b + n)
    let mine (e : TlbEnt) : Prop := e.ctx = cx ∧ page e.vpage = true
    g.wait = some .tlbinv → g.stopped = false → s.held gk .tlbinv = false →
    (∀ e ∈ s.gangs, slOfGk e.1 = sl → e.2.quietVa page = true) →
    (∀ c ∈ s.clus, slOfClk c.1 = sl → c.2.quiet (fun l => decide (spaceOfLoc l ≤ 1)) = true) →
    (∀ e ∈ s.links.unacked, slOfGk e.gk = sl → page (e.va / 65536) = false) →
    page named = true ∧
    ∃ t, exec (.tlbinvComplete gk) s = .next t ∧ (∀ qk, ∀ e ∈ (t.quad qk).tlb, ¬ mine e) ∧ (∀ clk, ∀ e ∈ (t.cluster clk).tlb, ¬ mine e) ∧
      (t.gang gk).wait = none ∧ (t.gang gk).prog = 2 ∧ t.mem = s.mem ∧
      ∀ qk, ∀ e, e ∈ (s.quad qk).tlb → ¬ mine e → e ∈ (t.quad qk).tlb

/-! ## Stream flits, tokens and audits; the mesh (04:R122 to R126, 10:R285, 19:R413 to R416) -/

/-- R285, R124 and R126: a flit of the stream being received, else of the first to arrive, enters a free slot in order, behind what its source sent there before; the receiver returns a token for what it has
consumed; a token enters behind what its quad sent there before, credits the stream it belongs to, and lets the marker of one that its ended gang left
open go out. -/
def Says.FlitsArriveAndTokensReturn : Prop :=
  ∀ (s : State) (sl q : Nat),
    let p := (s.quad (qkOf sl q)).port
    (∀ a b f cur, p.inflight = a ++ (cur, f) :: b → (∀ e ∈ a, e.1 ≠ cur) → p.src = some cur ∨ p.src = none ∧ a = [] → p.slots.length < 16 →
      (s.sentBefore (qkOf sl q) (cur % 2048) f.no = true → exec (.streamFlit sl q) s = .next s) ∧
      (s.sentBefore (qkOf sl q) (cur % 2048) f.no = false → ∃ t, exec (.streamFlit sl q) s = .next t ∧ let x := (t.quad (qkOf sl q)).port
        x.slots = p.slots ++ [f] ∧ x.inflight = a ++ b ∧ x.src = some cur ∧
        ∀ k, k ∈ x.waiting ↔ k ∈ p.waiting ∨ k ≠ cur ∧ ∃ e ∈ p.inflight, e.1 = k)) ∧
    (16 ≤ p.slots.length → ∃ t, exec (.streamFlit sl q) s = .next t ∧ (t.quad (qkOf sl q)).port.slots = p.slots ∧
      (t.quad (qkOf sl q)).port.inflight = p.inflight) ∧
    (∀ k rest, p.tokens = k :: rest →
      (s.sentBefore (qkOf sl q) k.src k.no = true → exec (.token sl q) s = .next s) ∧
      (s.sentBefore (qkOf sl q) k.src k.no = false → ∃ t, exec (.token sl q) s = .next t ∧ let x := (t.quad (qkOf sl q)).port
        (p.closing = false → x.tokens = rest ∧
          (k.st = p.no * 2048 + q → x.credit = p.credit + k.count ∧ x.credited = p.credited + k.count ∧ x.copies = p.copies.drop k.count) ∧
          (k.st ≠ p.no * 2048 + q → x = { p with tokens := rest })) ∧
        (p.closing = true → q < 2048 → k.st = p.no * 2048 + q → 0 < k.count → s.loopStop sl = false → x.closing = false ∧ x.opened = false ∧
          (k.st, { words := List.replicate 8 0#64, mark := true, no := (s.quad (qkOf sl q)).sendNo }) ∈ (t.quad (qkOf sl p.dst)).port.inflight))) ∧
    (∀ st, p.src = some st → p.unreturned ≠ 0 → ∃ t, exec (.tokenTimer sl q) s = .next t ∧ (t.quad (qkOf sl q)).port.unreturned = 0 ∧
      (t.quad (qkOf sl (st % 2048))).port.tokens = (s.quad (qkOf sl (st % 2048))).port.tokens ++
        [{ st := st, count := p.unreturned, src := q, no := (s.quad (qkOf sl q)).sendNo }])

/-- R416: every 4,096 mesh cycles an audit compares the receiver's count with the credits returned, modulo 2^32; at a mismatch the sender drops the copies that the count covers and
sends the rest again under new numbers, the receiver drops what it had not consumed, the holder of the send side is to trap, a marker that waited for
credit follows, and the slice counts it. -/
def Says.AuditsResendWhatWasLost : Prop :=
  ∀ (s : State) (sl q st : Nat),
    let r := (s.quad (qkOf sl q)).port
    let sq := st % 2048
    let p := (s.quad (qkOf sl sq)).port
    let n := r.consumed
    let rest := p.copies.drop ((n + 2 ^ 32 - p.credited % 2 ^ 32) % 2 ^ 32)
    let again := rest.zipIdx.map (fun e => { e.1 with no := (s.quad (qkOf sl sq)).sendNo + e.2 })
    r.src = some st →
    (s.now < r.auditAt + 2048 → exec (.streamAudit sl q) s = .next s) ∧
    (r.auditAt + 2048 ≤ s.now → p.no * 2048 + sq = st → p.tokens = [] → r.unreturned = 0 →
    ∃ t, exec (.streamAudit sl q) s = .next t ∧ let x := (t.quad (qkOf sl q)).port; let y := (t.quad (qkOf sl sq)).port
      (p.credited % 2 ^ 32 = n → x.slots = r.slots ∧ x.inflight = r.inflight ∧ y.copies = p.copies ∧ y.audit = p.audit ∧ y.credit = p.credit ∧
        (t.slice sl).ctrs = (s.slice sl).ctrs) ∧
      (p.credited % 2 ^ 32 ≠ n → p.closing = true → rest.length < 16 → s.loopStop sl = false → y.closing = false ∧
        ∃ f, f.mark = true ∧ y.copies = again ++ [f]) ∧
      (p.credited % 2 ^ 32 ≠ n → p.closing = false → x.slots = [] ∧ x.inflight = r.inflight.filter (fun e => e.1 != st) ++ again.map (fun f => (st, f)) ∧
        x.consumed = 0 ∧ y.copies = again ∧ y.credit = 16 - rest.length ∧ (p.holder.isSome = true → y.audit = some n ∧ y.opened = true) ∧
        (t.slice sl).ctrs.audit = (s.slice sl).ctrs.audit + 1))

/-- R415: an open that has waited 4,096 mesh cycles for the channel of one link gives up the channels it holds and backs off, and tries again once its
back-off is over. -/
def Says.WaitingOpensBackOff : Prop :=
  ∀ (s : State) (sl q : Nat),
    let p := (s.quad (qkOf sl q)).port
    (p.holder.isSome = true → p.opened = false → p.backoff = none →
      (4096 ≤ 2 * (s.now - p.waitFrom) → ∃ t, exec (.sopenTimeout sl q) s = .next t ∧
        (t.quad (qkOf sl q)).port = { p with links := 0, backoff := some (s.now + 32 * (q % 64)) }) ∧
      (2 * (s.now - p.waitFrom) < 4096 → exec (.sopenTimeout sl q) s = .next s)) ∧
    (∀ until_, p.backoff = some until_ → ∃ t, exec (.sopenRetry sl q) s = .next t ∧
      (t.quad (qkOf sl q)).port = if s.now < until_ then p else { p with backoff := none, waitFrom := s.now })

/-- R413, R414 and R123: a probe's cycle of at most 64 buffers, blocked for 4,096 mesh cycles, starts a recovery, counted in each of its partitions;
every 4 mesh cycles a step moves the cycle on, or ends the
recovery, which the spec leaves to the traffic; at 4,096 steps its partitions stop injecting and the host is told; a drain mark stalls a partition
and clearing it lets injection resume. That buffers are named by 16 times a number plus the partition of their head flit is log 14 (DESIGN CHOICE). -/
def Says.BlockedCyclesRecover : Prop :=
  ∀ (s : State) (bufs : List Nat) (i p : Nat),
    let stuck (b : Nat) : Prop := tget 0 s.mesh.moved b + 2048 ≤ s.now ∧ ∀ r ∈ s.mesh.recs, b ∉ r.bufs
    (¬ (∀ b ∈ bufs, stuck b) → exec (.deadlockDetect bufs) s = .next s) ∧
    (bufs ≠ [] → bufs.length ≤ 64 → (∀ b ∈ bufs, stuck b) → ∃ t, exec (.deadlockDetect bufs) s = .next t ∧
      t.mesh.recs = s.mesh.recs ++ [{ bufs := bufs, steps := 0, looped := false }] ∧
      ∀ k, (t.slice k).ctrs.meshrec = (s.slice k).ctrs.meshrec + if ∃ b ∈ bufs, b % 16 = k then 1 else 0) ∧
    (∀ r, s.mesh.recs[i]? = some r →
      (s.now < r.at_ + 2 → exec (.recoveryStep i) s = .next s) ∧
      (r.at_ + 2 ≤ s.now → ∃ t, exec (.recoveryStep i) s = .next t ∧ t.quads = s.quads ∧ t.slices = s.slices ∧
        (t.mesh.recs = s.mesh.recs.eraseIdx i ∨ t.mesh.recs = s.mesh.recs.set i { r with steps := r.steps + 1, at_ := s.now }) ∧
        ∀ b ∈ r.bufs, tget 0 t.mesh.moved b = s.now) ∧
      (r.looped = true ∨ r.steps < 4096 → exec (.routingLoop i) s = .next s) ∧
      (r.looped = false → 4096 ≤ r.steps → ∃ t, exec (.routingLoop i) s = .next t ∧ t.mesh.recs = s.mesh.recs.set i { r with looped := true } ∧
        t.mgmt.notes = s.mgmt.notes ++ [(3, i)] ∧
        ∀ k, (t.slice k).injStopped = ((s.slice k).injStopped || r.bufs.any (fun b => b % 16 == k)) ∧
          (t.slice k).ctrs.loop = (s.slice k).ctrs.loop + if ∃ b ∈ r.bufs, b % 16 = k then 1 else 0)) ∧
    (∀ on, (16 ≤ p ∨ s.booted = false → exec (.partitionDrain p on) s = .next s) ∧
      (p < 16 → s.booted = true → ∃ t, exec (.partitionDrain p on) s = .next t ∧ (t.slice p).draining = on ∧
        (t.slice p).injStopped = (on && (s.slice p).injStopped) ∧ ∀ k, k ≠ p → t.slice k = s.slice k))

/-- R122 and R123: a routing-table write sets the port toward a destination for one partition and no other, once the partition drains and counts nothing
in flight; a write of 6 or 7, or to no such place, is ignored. That a write outside a drain is ignored as well is log 12 (DESIGN CHOICE). -/
def Says.RouteTablesAreWritten : Prop :=
  ∀ (s : State) (site dest p v : Nat),
    (s.booted = true → site < 608 → dest < 608 → p < 16 → v < 6 →
      (s.slice p).draining = true → s.drainedPart p = true → ∃ t, exec (.routeTableWrite site dest p v) s = .next t ∧
      t.mesh.port site dest p = v ∧
      ∀ a b c, b < 608 → c < 16 → ¬ (a = site ∧ b = dest ∧ c = p) → t.mesh.port a b c = s.mesh.port a b c) ∧
    (s.booted = false ∨ 608 ≤ site ∨ 608 ≤ dest ∨ 16 ≤ p ∨ 6 ≤ v ∨ (s.slice p).draining = false ∨ s.drainedPart p = false → exec (.routeTableWrite site dest p v) s = .next s)

/-! ## Engines: copies, the matrix unit, the integrator array, the fabrics (05:R136 to R142, 11:R297 to R313, 12:R315 to R330, 13:R336 to R354) -/

/-- R313, R312, R428, R372 and R311: a transfer with nothing left leaves its channel with a record of its write pointer and bytes moved; one that fails a check
ends with the fault and takes the commands behind it along; acknowledgements count the bytes of a `cprem`. -/
def Says.CopiesEndWithARecord : Prop :=
  ∀ (s : State) (sl c ch : Nat) (x : CpCmd) (rest : List CpCmd),
    let ck := ckOf sl c
    let wp := tget 0#64 (s.core ck).wp ch
    let i : Instr := .copyTransferEnd sl c ch
    let record (status : Nat) : Rec :=
      { lo := fields [(wp.toNat % 2 ^ 56, 0), (ch + 4 * x.kind, 56)], hi := fields [(x.moved % 2 ^ 48, 0), (status, 48)] }
    tget [] (s.core ck).chans ch = x :: rest →
    (s.preempted sl = true ∨ x.started = false ∧ s.frozen sl = true ∨ s.s2Held sl (.chan ck ch) = true → exec i s = .next s) ∧
    (s.preempted sl = false → (x.started = true ∨ s.frozen sl = false) → s.s2Held sl (.chan ck ch) = false →
      (s.cpNext ck { x with started := true } = .done ∨ x.kind ≠ 2 ∧ x.taken = x.total ∧ (x.kind = 5 → x.sent ≤ x.moved) →
        ∃ t, exec i s = .next t ∧ tget [] (t.core ck).chans ch = rest ∧ Recorded s t x.who 0 (record 0) ∧ t.mem = s.mem) ∧
      (∀ d va, s.cpNext ck { x with started := true } = .bad d va → rest.length ≤ 4 →
        ∃ t, exec i s = .next t ∧ tget [] (t.core ck).chans ch = [] ∧ Faulted s t x.who 0x11 d x.who.act (BitVec.ofNat 64 va) ∧
          (rest = [] → Recorded s t x.who 0 (record (d * 256 + 0x11))))) ∧
    ∀ pa n, (pa < 2 ^ 64 → ∃ t, exec (.peerAcknowledgement pa n) s = .next t ∧
        (∀ w, w ∈ t.links.unacked ↔ w ∈ s.links.unacked ∧ ¬ (pa ≤ w.pa ∧ w.pa < pa + n)) ∧ t.mem = s.mem ∧
        ∀ e ∈ t.ctxs, ∀ im, e.2.image = some im → ∀ w ∈ im.unacked, ¬ (pa ≤ w.pa ∧ w.pa < pa + n)) ∧
      (let names (y : CpCmd) : Prop := y.kind = 5 ∧ y.peer + 1 = pa / 2 ^ 64 ∧ (y.dst.toNat + y.moved) % 2 ^ 64 = pa % 2 ^ 64 ∧
          y.moved < y.sent
       2 ^ 64 ≤ pa → names x → (∀ e ∈ s.cores, ∀ q ∈ e.2.chans, ∀ y ∈ q.2.head?, names y → e.1 = ck ∧ q.1 = ch ∧ y = x) →
         ∃ t, exec (.peerAcknowledgement pa n) s = .next t ∧ let m := min n (x.sent - x.moved)
           tget [] (t.core ck).chans ch = { x with moved := x.moved + m } :: rest ∧
           tget 0#64 (t.core ck).wp ch = wp + BitVec.ofNat 64 m)

/-- R297, R203, R470 and R302: the cores' queues pass their commands in order into the unit's queues while these have room. With the array free, the gate open and
commands left in its turn, the unit starts the head of the core it visits, unless a stage-2 fault holds it or its partition injects nothing and it
reaches out of the cluster: it takes the array for the command's cycles and completes 24 cycles later, or ends with
its fault, and keeps what its tile's flags are as it leaves it. -/
def Says.TheUnitStartsAReadyCommand : Prop :=
  ∀ (s : State) (sl clus : Nat) (x : MxCmd) (rest : List MxCmd),
    let clk := clkOf sl clus
    let u := s.cluster clk
    let ck := ckOfClk clk u.rr
    let i : Instr := .mxCommandStart sl clus
    let m := s.mxMoveAll clk
    let run (t : State) (cycles status : Nat) (bytes : List (Nat × Byte)) : Prop :=
      let fl := (tget {} (t.cluster clk).z x.reg).flags
      (t.cluster clk).arrayFree = s.now + cycles ∧ (t.cluster clk).runs = u.runs ++
        [{ core := u.rr, cmd := x, cycles := cycles, free := s.now + cycles, done := s.now + cycles + 24, status := status, bytes := bytes,
           flags := fl % 4, seen := BitVec.ofNat 64 fl }] ∧
      ∃ more, tget [] (t.cluster clk).mxqs u.rr = rest ++ more
    ((m.cluster clk).runs = u.runs ∧ (m.cluster clk).arrayFree = u.arrayFree ∧ (m.cluster clk).z = u.z ∧ (m.cluster clk).rr = u.rr ∧
      ∀ j, j < 8 → let kj := ckOfClk clk j
        tget [] (m.cluster clk).mxqs j ++ (m.core kj).mxq = tget [] u.mxqs j ++ (s.core kj).mxq ∧
        ((s.core kj).mxq.length ≤ 2 → s.frozen (slOfCk kj) = false → (m.core kj).mxq = [] ∨ 4 ≤ (tget [] (m.cluster clk).mxqs j).length)) ∧
    (s.now < u.arrayFree ∨ s.preempted sl = true ∨ s.gateOpen = false → exec i s = .next m) ∧
    (u.rr < 8 → tget [] (m.cluster clk).mxqs u.rr = x :: rest →
      u.arrayFree ≤ s.now → s.preempted sl = false → s.gateOpen = true → u.turn ≠ 0 → m.mxReady ck x = true → u.mxErr = 0 →
      m.s2Held (slOfCk ck) (.matrix ck) = false → (m.injOff (slOfCk ck) && x.beyond) = false →
      (∀ t0 cycles bytes, m.mxStartCmd ck x = .run t0 cycles bytes → ∃ t, exec i s = .next t ∧ run t cycles 0 bytes ∧
        (t.cluster clk).z = (t0.cluster clk).z ∧ (t.cluster clk).banks = (t0.cluster clk).banks) ∧
      (x.kind = 1 → ∃ t, exec i s = .next t ∧ run t 16 0 [] ∧ tget {} (t.cluster clk).z x.reg = { ez := x.opnd.toInt }) ∧
      (∀ d cause va, m.mxStartCmd ck x = .fail d cause va → ∃ t, exec i s = .next t ∧ run t 1 (d * 256 + cause) [] ∧
        Faulted s t x.who cause d x.who.act (BitVec.ofNat 64 va) ∧ (t.cluster clk).z = u.z))

/-- R302, R303, R305 and R307: the oldest started command completes once its time has come: its bytes are written, and `bload`, `mrd` and `mwt` give a record,
`mflag` its tile's flags, both as the command left the tile. -/
def Says.TheUnitCompletesInOrder : Prop :=
  ∀ (s : State) (sl clus : Nat) (r : MxRun) (rest : List MxRun),
    let clk := clkOf sl clus
    let g := s.gang r.cmd.who.gk
    let i : Instr := .mxCommandComplete sl clus
    let record (fl : Nat) : Rec :=
      { lo := fields [(r.cmd.seq % 2 ^ 32, 0), (r.cmd.kind, 32), (r.cmd.reg, 40), (fl, 48)], hi := fields [(r.cycles % 2 ^ 32, 0), (r.status, 48)] }
    (s.cluster clk).runs = r :: rest →
    (s.now < r.done ∨ (s.injOff sl && r.cmd.beyond) = true → exec i s = .next s) ∧
    (r.done ≤ s.now → (s.injOff sl && r.cmd.beyond) = false → s.engHeld r.cmd.who (secsOf r.bytes) = false → s.NoTasks none → g.ch.pops = [] → ∃ t, exec i s = .next t ∧
      (t.cluster clk).runs = rest ∧ (t.cluster clk).z = (s.cluster clk).z ∧
      (s.MemOk → (r.bytes.map (fun e => s.links.home e.1)).Nodup → ∀ e ∈ r.bytes, t.rdByte (s.keyNo (s.runCx sl)) e.1 = e.2) ∧
      (r.cmd.kind = 0 → Recorded s t r.cmd.who 1 (record 0)) ∧
      (r.cmd.kind = 4 ∨ r.cmd.kind = 5 → Recorded s t r.cmd.who 1 (record r.flags)) ∧
      (r.cmd.kind = 6 → g.live = true → g.actId = r.cmd.who.actId → ∀ e more, g.ch.log = e :: more → e.done = false → e.word = r.cmd.who.word →
        e.act = r.cmd.who.act → (t.gang r.cmd.who.gk).ch.log = { e with done := true, res := [r.seen.toNat] } :: more))

/-- R138 to R140: a contribution is its exact value rounded once to the nearest multiple of the tile's unit, ties to even; a step adds the contributions of the
present blocks to each element of the first rows in order, each with saturation, and leaves the rows below; a NaN of a row or a column fills its element. -/
def Says.MatrixStepsAddContributions : Prop :=
  (∀ (p e ez : Int) (sc : BitVec 16), (unpack 1 sc.toNat).isFin = true →
    let x : ℚ := p * (unpack 1 sc.toNat).val * 2 ^ (e - ez)
    let c : ℚ := contribution p e sc ez
    |x - c| ≤ 1 / 2 ∧ (|x - c| = 1 / 2 → contribution p e sc ez % 2 = 0)) ∧
  ∀ (z : ZTile) (bank : Bank) (rows m n : Nat) (blks : Nat → List (Nat × List Int × Int)) (nan : Nat → Bool), m < 16 → n < 256 →
    let col := bank.cols.getD n {}
    let t := z.step bank rows (fun i => (blks i, nan i))
    let bad := nan m || col.nan
    let dot (b : Nat × List Int × Int) : Int := ((b.2.1.zip (col.q.getD b.1 [])).map (fun e => e.1 * e.2)).foldl (· + ·) 0
    let adds (b : Nat × List Int × Int) : Int := contribution (dot b) (b.2.2 + col.eb.getD b.1 0) (col.scale.getD b.1 0x3f80#16) z.ez
    let nanOf : BitVec 96 := BitVec.ofNat 96 (2 ^ 95)
    (rows ≤ m → t.get m n = z.get m n) ∧
    (m < rows → bad = true → blks m ≠ [] → t.get m n = nanOf ∧ t.nan = true) ∧
    (m < rows → bad = false → z.get m n = nanOf → t.get m n = nanOf) ∧
    (m < rows → bad = false → z.get m n ≠ nanOf → t.get m n = (blks m).foldl (fun a b => (accSum 96 a (adds b)).1) (z.get m n)) ∧
    t.ez = z.ez ∧ (z.nan = true → t.nan = true) ∧ (z.ovf = true → t.ovf = true)

/-- R315 and R432: a step of an integrator cell adds its inputs to Y, and dx times the new Y to R, which gives up one increment where it leaves its range; a
value outside what 64 bits or one increment hold is a failure. -/
def Says.IntegratorCellsStep : Prop :=
  ∀ (c : MadCell) (w : Word), 1 ≤ peNw w → peNw w < 64 → c.r < 2 ^ peNw w →
    let n := peNw w
    let dy := c.take (peSrc w 1) 1 + c.take (peSrc w 2) 2
    let dx := c.take (peSrc w 0) 0
    let y := c.y + dy
    let sum := (c.r : Int) + dx * y
    (y < -(2 ^ 63) ∨ 2 ^ 63 ≤ y → c.step w = .error 0x0f) ∧
    (-(2 ^ 63) ≤ y → y < 2 ^ 63 →
      (dx ≠ 0 → 2 ^ (n + 1) ≤ sum ∨ sum < -(2 ^ n) → c.step w = .error 0x0e) ∧
      (dx = 0 ∨ sum < 2 ^ (n + 1) ∧ -(2 ^ n) ≤ sum → ∃ d dz, c.step w = .ok (d, dz) ∧ d.y = y ∧ (d.r : Int) + dz * 2 ^ n = sum ∧
        (dx ≠ 0 → d.r < 2 ^ n) ∧ (dz = 0 ∨ dz = 1 ∨ dz = -1) ∧ d.o = c.o + BitVec.ofInt 32 dz ∧
        (∀ k, k < 3 → d.latch k = if (peSrc w k).kind = 1 then 0 else c.latch k)))

/-- R320, R321, R327 and R323: in the earliest cycle that has come, the domains due step together; a `dstep` that has made its steps ends with its record
and the pending one follows. Before that cycle, and while frozen, nothing steps. A step that would read a cell whose parity is wrong kills the context
instead (R465). -/
def Says.DueDomainsStep : Prop :=
  ∀ (s : State) (sl c d at_ : Nat) (r : DStep) (next : Madder), d < 4 → c < 8192 →
    let ck := ckOf sl c
    let m := (s.core ck).mad
    let x := m.dom d
    let i : Instr := .madderStep sl c
    x.run = some r → r.next = at_ → (∀ k, k < 4 → k ≠ d → (m.dom k).run = none) →
    (s.now < at_ ∨ s.frozen sl = true → exec i s = .next s) ∧
    (at_ ≤ s.now → s.frozen sl = false → m.spoilt [d] = true → ∃ t, exec i s = .next t ∧
      Killed s t (s.runCx sl) 0x84) ∧
    (at_ ≤ s.now → s.frozen sl = false → m.spoilt [d] = false → m.stepDoms [d] = .ok next → ∃ t, exec i s = .next t ∧ let y := (t.core ck).mad
      y.cells = next.cells ∧ (y.dom d).dcnt = x.dcnt + 1#64 ∧ (y.dom d).div = x.div ∧ y.patch = m.patch ∧
      (r.done + 1 ≠ r.n → (y.dom d).run = some { r with done := r.done + 1, prev := at_, next := at_ + (x.div + 1) } ∧ (y.dom d).pend = x.pend) ∧
      (r.done + 1 = r.n → (y.dom d).run = x.pend.map (fun p => { p with prev := at_, next := at_ + (x.div + 1) }) ∧ (y.dom d).pend = none ∧
        Recorded s t r.who 2 { lo := x.dcnt + 1#64, hi := fields [(r.n % 2 ^ 32, 0), (6, 32), (d, 40)] }))

/-- R321 and R325 to R329: after the cycle's steps the array performs one command, the first `dstop` that entered in an earlier cycle, which takes the `dstep`s of its
domains ahead of it along, or else the head of its queue: dividers, integrands, residues,
`dstep` and reads take effect, and a table or snapshot starts to move. -/
def Says.MadderCommandsTakeEffect : Prop :=
  ∀ (s : State) (sl cc : Nat) (c : MaCmd) (rest : List MaCmd) (l k : Nat) (v : Word), cc < 8192 →
    let ck := ckOf sl cc
    let m := (s.core ck).mad
    let x := m.dom c.dom
    let i : Instr := .madderCommand sl cc
    let may : Prop := (∀ d, d < 4 → ∀ r, (m.dom d).run = some r → s.now < r.next) ∧ m.free ≤ s.now ∧ s.frozen sl = false
    let does (p : State → Madder → Prop) : Prop := ∃ t, exec i s = .next t ∧ (t.core ck).mad.q = rest ∧ (t.core ck).mad.free = s.now + 1 ∧ t.mem = s.mem ∧
      p t (t.core ck).mad
    let n := wbits c.opnd 0 32
    may → m.q = c :: rest →
    ((∀ y ∈ m.q, y.kind = 7 → s.now ≤ y.at_) → m.reading = none →
      (c.kind = 0 → does (fun _ y => (y.dom c.dom).div = wbits c.opnd 0 16)) ∧
      (c.kind = 2 → c.lanes = [(l, k, v)] → does (fun _ y => y.cell k = { m.cell k with y := v.toInt })) ∧
      (c.kind = 3 → c.lanes = [(l, k, v)] → does (fun _ y => y.cell k = { m.cell k with r := v.toNat % 2 ^ peNw (m.entry k), o := 0#32 })) ∧
      (c.kind = 4 → ∀ ps, s.maTcm ck c = .ok ps → does (fun _ y => y.saving = m.saving ++ [(c, s.now + 133, m.image)])) ∧
      (c.kind = 1 ∨ c.kind = 5 → (∀ d, d < 4 → (m.dom d).run = none ∧ (m.dom d).pend = none) → ∀ ps, s.maTcm ck c = .ok ps →
        does (fun _ y => y.reading = some (c, s.now + (if c.kind = 1 then 32 else 133), []))) ∧
      (c.kind = 6 → n = 0 → does (fun t _ => Recorded s t c.who 2 { lo := x.dcnt, hi := fields [(6, 32), (c.dom, 40)] })) ∧
      (c.kind = 6 → n ≠ 0 → x.run = none →
        does (fun _ y => (y.dom c.dom).run = some { who := c.who, n := n, done := 0, next := s.now + (x.div + 1), prev := s.now })) ∧
      (c.kind = 6 → n ≠ 0 → x.run.isSome = true → x.pend = none →
        does (fun _ y => (y.dom c.dom).run = x.run ∧ (y.dom c.dom).pend = some { who := c.who, n := n, done := 0, next := s.now + (x.div + 1), prev := s.now })) ∧
      (c.kind = 6 → n ≠ 0 → x.run.isSome = true → x.pend.isSome = true → exec i s = .next s) ∧
      (c.kind = 8 → c.lanes = [(l, k, v)] →
        ((m.cell k).port = 0 → does (fun _ y => y.cell k = { m.cell k with port := if c.sel = 1 then -1 else 1 })) ∧
        ((m.cell k).port ≠ 0 → l < 32 → does (fun t _ => Faulted s t c.who 0x0e 0 (maskOf [l]) (BitVec.ofNat 64 (k + 3 * 2 ^ 10))))) ∧
      (c.kind = 9 ∨ c.kind = 10 → c.lanes = [(l, k, v)] → ∀ e more, (s.gang c.who.gk).live = true → (s.gang c.who.gk).actId = c.who.actId →
        (s.gang c.who.gk).ch.log = e :: more → e.done = false → e.word = c.who.word → e.act = c.who.act →
        does (fun t _ => (t.gang c.who.gk).ch.log = { e with done := true, res :=
          [if c.kind = 10 then patN (m.cell k).y 64 else if c.sel = 0 then ((m.cell k).o.signExtend 64).toNat else (m.cell k).r] } :: more))) ∧
    (c.kind = 7 → c.at_ < s.now → does (fun _ y => ∀ d, d < 4 → nbits c.sel d 1 = 1 → (y.dom d).run = none ∧ (y.dom d).pend = none)) ∧
    (c.kind = 7 → (∀ y ∈ m.q, y.kind = 7 → s.now ≤ y.at_) → exec i s = .next s) ∧
    ∀ ahead e more, m.q = ahead ++ e :: more → e.kind = 7 → e.at_ < s.now → (∀ y ∈ ahead, y.kind ≠ 7) → ∃ t, exec i s = .next t ∧
      (t.core ck).mad.q = ahead.filter (fun y => !(y.kind == 6 && nbits e.sel y.dom 1 == 1)) ++ more ∧
      ∀ d, d < 4 → nbits e.sel d 1 = 1 → ((t.core ck).mad.dom d).run = none ∧ ((t.core ck).mad.dom d).pend = none

/-- R325, R328, R330 and R434: a table or image is read 64 bytes a cycle, each as it then stands, and once all of it has been it is checked and applied
with a record, or fails; a snapshot is written to TCM over its 133 cycles, and with the last bytes comes its record. -/
def Says.TablesAndSnapshotsMove : Prop :=
  ∀ (s : State) (sl cc : Nat) (c : MaCmd) (at_ : Nat) (had bs : List (BitVec 8)), cc < 8192 →
    let ck := ckOf sl cc
    let m := (s.core ck).mad
    let word (bs : List (BitVec 8)) (k : Nat) : Word := BitVec.ofNat 64 (bytesAt bs (8 * k) 8)
    let record (status : Nat) : Rec := { lo := 0#64, hi := fields [(c.kind, 32), (status, 48)] }
    let due (n : Nat) : Nat := 64 * (n - (at_ - s.now))
    (∀ ps, m.reading = some (c, at_, had) → s.now < at_ → s.preempted sl = false → s.maTcm ck c = .ok ps →
      ∃ t, exec (.madderReadDone sl cc) s = .next t ∧ t.mem = s.mem ∧ (t.core ck).mad.cells = m.cells ∧ (t.core ck).mad.reading =
        some (c, at_, had ++ ((s.engBytes (s.runCx sl) ps).take (due (if c.kind = 1 then 32 else 133))).drop had.length)) ∧
    (∀ ps, m.reading = some (c, at_, had) → at_ ≤ s.now → s.preempted sl = false → s.maTcm ck c = .ok ps →
      let got := had ++ (s.engBytes (s.runCx sl) ps).drop had.length
      (c.kind = 1 → (∀ k, k < 256 → peOk (word got k) = true) → ∃ t, exec (.madderReadDone sl cc) s = .next t ∧
        (t.core ck).mad.reading = none ∧ Recorded s t c.who 2 (record 0) ∧ ∀ k, k < 256 → (t.core ck).mad.entry k = word got k ∧
          ((t.core ck).mad.cell k).y = (m.cell k).y ∧ ((t.core ck).mad.cell k).r =
            if peNw (word got k) < peNw (m.entry k) then (m.cell k).r % 2 ^ peNw (word got k) else (m.cell k).r) ∧
      (c.kind = 1 → ∀ k, k < 256 → peOk (word got k) = false → (∀ j, j < k → peOk (word got j) = true) →
        ∃ t, exec (.madderReadDone sl cc) s = .next t ∧ (t.core ck).mad.patch = m.patch ∧
          Faulted s t c.who 0x02 1 c.who.act (BitVec.ofNat 64 k) ∧ Recorded s t c.who 2 (record 0x102)) ∧
      (c.kind = 5 → badImage got = none → ∃ t, exec (.madderReadDone sl cc) s = .next t ∧ Recorded s t c.who 2 (record 0) ∧
        ∀ k, k < 256 → ((t.core ck).mad.cell k).r = bytesAt got (320 + 24 * k + 8) 8 ∧ (t.core ck).mad.entry k = BitVec.ofNat 64 (bytesAt got (6464 + 8 * k) 8))) ∧
    (m.saving = [(c, at_, bs)] → bs.length ≤ 8512 → s.preempted sl = false →
      let n := due 133 - (8512 - bs.length)
      let off := c.opnd.toNat - 0x1_0000 + (8512 - bs.length)
      s.engHeld c.who (secsOf ((bs.take n).zipIdx.map (fun e => (tcmLoc ck (off + e.2), e.1)))) = false → s.MemOk → s.NoTasks none →
      (s.gang c.who.gk).ch.pops = [] → ∃ t, exec (.dsaveWritten sl cc) s = .next t ∧
        (∀ k, k < bs.length → k < n → Memory.get t.mem (tcmLoc ck (off + k)) = bs.getD k 0#8) ∧
        (n < bs.length → (t.core ck).mad.saving = [(c, at_, bs.drop n)]) ∧
        (bs.length ≤ n → (t.core ck).mad.saving = [] ∧ Recorded s t c.who 2 { lo := 0#64, hi := fields [(4, 32)] }) ∧
        (at_ ≤ s.now → bs.length ≤ n))

/-- R339 and R340: what the integer nodes of a graph compute in a lane: sums, differences and products wrap or saturate, shifts take their count modulo 32, compares give
a mask. -/
def Says.GraphNodesCompute : Prop :=
  ∀ (a b c : W32) (sat : Bool),
    let op (k : Nat) : Nat := laneOp k 9 sat a.toNat b.toNat c.toNat
    let wide (v : Int) : Nat := (if sat then clampS 32 v else BitVec.ofInt 32 v).toNat
    op 1 = wide (a.toInt + b.toInt) ∧ op 2 = wide (a.toInt - b.toInt) ∧ op 3 = wide (a.toInt * b.toInt) ∧
    op 4 = wide (a.toInt * b.toInt + c.toInt) ∧ op 5 = (if a.toInt ≤ b.toInt then a else b).toNat ∧
    op 6 = (if a.toInt ≤ b.toInt then b else a).toNat ∧ op 7 = wide |a.toInt| ∧ op 8 = (a &&& b).toNat ∧ op 9 = (a ||| b).toNat ∧
    op 10 = (a ^^^ b).toNat ∧ op 11 = (a <<< (b.toNat % 32)).toNat ∧ op 12 = (a >>> (b.toNat % 32)).toNat ∧
    op 13 = (a.sshiftRight (b.toNat % 32)).toNat ∧ op 14 = (if a.toInt < b.toInt then 0xffff_ffff else 0) ∧
    op 15 = (if a = b then 0xffff_ffff else 0) ∧ op 16 = (if c = 0#32 then b else a).toNat

/-- R336, R346, R352 and R436: a fabric fires its oldest call through the graph of its slot: lanes 0 and 1 of port 0 go to the mailbox of its core, or wait while the
mail buffer is full and the mailbox is not empty; an empty slot is a fault of the caller. -/
def Says.FabricsFireTheirOldestCall : Prop :=
  ∀ (s : State) (f : Nat) (c : FabCall) (rest : List FabCall),
    let x := s.fab f
    let core := s.core c.ck
    let room : Prop := core.mbuf.length + core.inbox.length < 16 ∨
      (tget {} core.mail c.mbox).pres = false ∧ (∀ e ∈ core.inbox, e.mb ≠ c.mbox) ∧ ∀ e ∈ core.mbuf, e.1 ≠ c.mbox
    x.held = [] → x.calls = c :: rest →
    (x.graph c.slot = none → ∃ t, exec (.fabricFiring f) s = .next t ∧ (t.fab f).calls = rest ∧ (t.fab f).bank = x.bank ∧
      Faulted s t c.who 0x10 3 c.who.act (BitVec.ofNat 64 f)) ∧
    (∀ g, x.graph c.slot = some g →
      let ran := ({ f := f, graph := g, ports := callPorts (ratioIn g.ratio) c.ops, pos := 0, call := true } : Firing).run x.bank
      let out := ran.1.getD 0 []
      let v := fields [(out.getD 0 0, 0), (out.getD 1 0, 32)]
      ∃ t, exec (.fabricFiring f) s = .next t ∧ (t.fab f).calls = rest ∧ (t.fab f).bank = ran.2 ∧ (t.fab f).slots = x.slots ∧
        (room → (t.core c.ck).inbox = core.inbox ++ [{ mb := c.mbox, v := v, src := 2048 }] ∧ (t.fab f).held = []) ∧
        (¬ room → (t.core c.ck).inbox = core.inbox ∧ (t.fab f).held = [(c.ck, c.mbox, v)]))

/-- R353, R354 and R436: a `gload` puts its graph into its slot at every fabric of its group that lets it, banks set from its images or zero; a `gdrop` empties the slot
and zeroes its banks; each ends with a record that names the fabrics. A bad object is a fault and no fabric changes. -/
def Says.GraphsLoadAndDrop : Prop :=
  ∀ (s : State) (sl c : Nat) (x : SfCmd) (rest : List SfCmd), c < 8192 →
    let ck := ckOf sl c
    let slot := wbits x.ctl 0 4
    let group := if wbits x.ctl 4 3 = 4 then List.range 64 else (List.range 16).map (fun k => 16 * wbits x.ctl 4 3 + k)
    let i : Instr := .gloadComplete sl c
    let record (bytes status : Nat) (fs : List Nat) : Rec :=
      { lo := fields (fs.map (fun f => (1, f))), hi := fields [(bytes % 2 ^ 32, 0), (x.kind, 32), (slot, 40), (status, 48)] }
    (s.core ck).fabq = x :: rest →
    (s.frozen sl = true ∨ s.s2Held sl (.fabric ck) = true ∨ s.injOff sl = true → exec i s = .next s) ∧
    (s.frozen sl = false → s.s2Held sl (.fabric ck) = false → s.injOff sl = false → (x.kind = 2 → ∃ t, exec i s = .next t ∧ Recorded s t x.who 3 (record 0 0 group) ∧
      ∀ f ∈ group, (t.fab f).graph slot = none ∧ ∀ g, (s.fab f).graph slot = some g → ∀ b w, nbits g.banks b 1 = 1 → w < 16384 →
        tget 0#32 (t.fab f).bank (16384 * b + w) = 0#32) ∧
    (x.kind = 1 → ∀ ps, s.objRange ck x.addr.toNat 1216 true = .ok ps →
      let parsed := parseGraph (s.engBytes (s.runCx sl) ps)
      (∀ o, parsed = .error o → ∃ t, exec i s = .next t ∧ Recorded s t x.who 3 (record 1216 0x110 []) ∧
        Faulted s t x.who 0x10 1 x.who.act (BitVec.ofNat 64 o) ∧ ∀ f ∈ group, (t.fab f).slots = (s.fab f).slots ∧ (t.fab f).bank = (s.fab f).bank) ∧
      (∀ g, parsed = .ok (g, []) → (∀ f ∈ group, (s.fab f).clash slot g.banks = false) → ∃ t, exec i s = .next t ∧
        Recorded s t x.who 3 (record 1216 0 group) ∧
        ∀ f ∈ group, (t.fab f).graph slot = some g ∧ ∀ b w, nbits g.banks b 1 = 1 → w < 16384 →
          tget 0#32 (t.fab f).bank (16384 * b + w) = 0#32)))

/-! ## Contexts, the pre-emption ladder, images, scrub and tokens (14:R358 to R367, 21:R440 to R447) -/

/-- R358, R359, R50, R447 and R360: a context takes what its descriptor gives and a key that none had before; with the generator in error or no key slot free the creation is
refused and reported. R110, R387, R184 and R69: its pool, save range, tile headers and overflow rings lie where the rules put them: a placement that has them elsewhere
changes nothing. A context that does not run can be retired with its key. That a bad placement changes nothing is log 9, that retiring a running
context is ignored log 35, and that a context is created only in the slice its function is bound to log 41 (the model's choices). -/
def Says.ContextsComeAndGo : Prop :=
  ∀ (s : State) (sl cx vf : Nat) (desc : List (BitVec 8)) (place : CtxPlace),
    let c := cxOf sl cx
    let i : Instr := .contextCreate sl cx vf desc place
    let may : Prop := s.booted = true ∧ sl < 16 ∧ cx < 8 ∧ vf < 64 ∧ desc.length = 128 ∧ (s.ctx c).live = false ∧ (s.vf vf).slice = sl
    let f (o n : Nat) : Nat := bytesAt desc o n
    (¬ may → exec i s = .next s) ∧
    (may → s.ochre.drbgBad = true → ∃ t, exec i s = .next t ∧ Reports s t 5 sl cx vf 1 0 ∧ t.ctxs = s.ctxs ∧ t.ochre = s.ochre) ∧
    (may → s.ochre.drbgBad = false → 128 ≤ s.ochre.keysUsed → ∃ t, exec i s = .next t ∧ Reports s t 5 sl cx vf 2 0 ∧ t.ctxs = s.ctxs ∧ t.ochre = s.ochre) ∧
    (let k := s.ochre.nextKey
     let t := (({ s with ochre := { s.ochre with nextKey := k + 1, keysUsed := s.ochre.keysUsed + 1 } }.setCtx c (newCtx vf k desc place)).modVf vf
       (fun v => { v with ways := f 94 2 })).writeTabs k place.tabs
     let x := t.ctx c
     (may → s.ochre.drbgBad = false → s.ochre.keysUsed < 128 →
      (t.placed c = true → exec i s = .next t) ∧ (t.placed c = false → exec i s = .next s)) ∧
     (t.placed c = true → place.rings + 2 ^ 20 * (s.slice (c / 8)).nquads ≤ 2 ^ 39 ∧
      (∀ j, j < f 110 2 → ∃ e l, t.leafOf c (0xfff0_0000_0000 + 65536 * j) = some (e, l, f 106 4 * 65536 + 65536 * j) ∧
        nbits e 4 1 = 1 ∧ nbits e 2 1 = 1) ∧
      (∀ j, 65536 * j < 2048 * (s.slice (c / 8)).ncores → ∃ e pa, t.leafOf c (0xffe0_0000_0000 + 65536 * j) = some (e, 3, pa) ∧
        nbits e 4 1 = 1 ∧ nbits e 2 1 = 1) ∧
      (∀ j, j < 4 → ∃ e, t.walk c (place.tilb + 65536 * j) = .ok e ∧ e.w1 = false ∧ e.tl = false ∧ e.ppage * 65536 = place.tilePa + 65536 * j)) ∧
      x.live = true ∧ x.vf = vf ∧ x.tenant = desc.take 16 ∧ x.flags = f 16 8 ∧ x.nonce = (desc.drop 24).take 32 ∧ x.tokbuf = f 56 8 ∧
      x.grace = (if f 64 4 = 0 then 2000 else f 64 4) ∧ x.kill = (if f 68 4 = 0 then 1000 else f 68 4) ∧ x.hotcfg = BitVec.ofNat 64 (f 72 8 / 2 ^ 24 * 2 ^ 24) ∧
      x.hotwin = BitVec.ofNat 64 (f 80 8) ∧ x.gangwait = f 88 2 ∧ x.agestep = f 90 2 ∧ x.shmib = f 92 1 ∧ x.s1root = BitVec.ofNat 64 (f 96 8 % 2 ^ 48 / 4096 * 4096) ∧
      x.s1pool = BitVec.ofNat 64 (f 104 8) ∧ x.imageAt = f 112 8 % 2 ^ 48 / 4096 * 4096 ∧ x.s2root = f 120 8 % 2 ^ 48 / 4096 * 4096 ∧ x.objs = [] ∧
      x.image = none ∧
      (t.vf vf).ways = f 94 2 ∧ x.key = some s.ochre.nextKey ∧ t.ochre.nextKey = s.ochre.nextKey + 1 ∧ t.ochre.keysUsed = s.ochre.keysUsed + 1) ∧
    (let j : Instr := .contextRetire sl cx
     let may : Prop := s.booted = true ∧ (s.ctx c).live = true ∧ (s.slice sl).running ≠ some cx
     (¬ may → exec j s = .next s) ∧
     (may → ∃ t, exec j s = .next t ∧ (t.ctx c).live = false ∧ (t.ctx c).image = none ∧ (t.ctx c).key = none ∧
       t.ochre.retires = s.ochre.retires + (if (s.ctx c).key.isSome then 1 else 0) ∧
       ∀ n, (tget {} t.ochre.sessions n).ck = c → (tget {} t.ochre.sessions n).opened = false)) ∧
    ∀ on, ∃ t, exec (.drbgErrorState on) s = .next t ∧ t.ochre = { s.ochre with drbgBad := on } ∧ t.ctxs = s.ctxs

/-- R363, R440, R441 and R442: a soft request starts the switch at step 1, a hard one with the halt or by ending step 1; the grace timer ends step 1; when every gang stands at a
boundary, or at once under the halt, the gangs stop, their open chunks undone, and the save begins, where one that waits before its chunk has done
anything keeps all its state (R91); a request leaves a demanded token waited for (R445); the kill timer and the kill command kill. -/
def Says.TheLadderTakesAContextOff : Prop :=
  ∀ (s : State) (sl cx c : Nat), s.booted = true →
    let x := s.slice sl
    let out := s.ctx (cxOf sl (x.sw.out.getD 0))
    let to_ (i : Instr) (k : LadderStep) : Prop := ∃ t, exec i s = .next t ∧ (t.slice sl).sw.step = k ∧ t.mem = s.mem ∧ t.gangs = s.gangs
    (x.sw.step ≠ .idle → exec (.softRequest sl cx) s = .next s) ∧
    (x.sw.step = .idle → x.running = some c → ∃ t u, exec (.softRequest sl cx) s = .next t ∧ exec (.hardRequest sl cx) s = .next u ∧
      ((s.ctx (cxOf sl c)).dbg.hlt = false → (t.slice sl).sw.step = .soft) ∧ (u.slice sl).sw.step = .halting ∧
      ∀ y ∈ [t, u], (y.slice sl).selStop = true ∧ (y.slice sl).sw.inn = some cx ∧ (y.slice sl).sw.out = some c ∧
        (y.slice sl).sw.tokenWait = x.sw.tokenWait ∧ (y.slice sl).sw.rescrub = x.sw.rescrub ∧
        (y.slice sl).sw.since = s.clock.run ∧ (y.slice sl).sw.outTenant = (s.ctx (cxOf sl c)).tenant) ∧
    (x.sw.step = .soft → to_ (.hardRequest sl cx) .halting) ∧
    (x.sw.step = .soft → x.sw.since + out.grace ≤ s.clock.run → to_ (.graceExpiry sl) .halting) ∧
    (x.sw.step = .soft → s.clock.run < x.sw.since + out.grace → exec (.graceExpiry sl) s = .next s) ∧
    (x.sw.step = .halting ∨ x.sw.step = .soft ∧ (∀ e ∈ s.gangs, slOfGk e.1 = sl → e.2.live = true → s.atBoundary e.1 = true) →
      ∃ t, exec (.haltComplete sl) s = .next t ∧ (t.slice sl).sw.step = .saving ∧ (∀ q ∈ t.sole, slOfGk q.gk ≠ sl) ∧
        (∀ gk, slOfGk gk = sl → (s.gang gk).live = true → let g := s.gang gk; (t.gang gk).stopped = true ∧
          ((g.ch.fresh = false ∨ g.spec = true) → ∀ r, g.ch.snap = some r → (t.gang gk).r = r ∧ (t.gang gk).ch.wbuf = []) ∧
          (g.ch.fresh = true → g.spec = false → g.task = none → t.gang gk = { g with stopped := true })) ∧
        ∀ ck, slOfCk ck = sl → (t.core ck).asked = none ∧ (t.core ck).thieves = []) ∧
    (x.running = some c → c < 8 → x.sw.step = .soft ∨ x.sw.step = .halting ∨ x.sw.step = .saving →
      (x.sw.since + 1000 * out.kill + 2 ≤ s.clock.run → ∃ t, exec (.killTimerExpiry sl) s = .next t ∧ Killed s t (cxOf sl c) 0x80) ∧
      (s.clock.run < x.sw.since + 1000 * out.kill + 2 → exec (.killTimerExpiry sl) s = .next s)) ∧
    (cx < 8 → (s.ctx (cxOf sl cx)).live = true → ∃ t, exec (.killCommand sl cx) s = .next t ∧ Killed s t (cxOf sl cx) 0x81 ∧
      (x.running ≠ some cx → x.sw.inn = some cx → (t.slice sl).sw.inn = none)) ∧
    ((s.ctx (cxOf sl cx)).live = false → exec (.killCommand sl cx) s = .next s)

/-- R361, R362, R443, R364 and R440: a save writes the image header with the next save count, keeps the slice's state in the image and leaves the slice empty; the restore gives the
state back as it was saved, once the completion records that a fault had held are written; a context never run begins in a cleared slice; an image that cannot be written, or a header that does not match, kills. That the rest of an image
is kept as data of its context is log 31 (DESIGN CHOICE). -/
def Says.ImagesAreSavedAndRestored : Prop :=
  ∀ (s : State) (sl c : Nat), c < 8 →
    let x := s.slice sl
    let cx := cxOf sl c
    let n := (s.ctx cx).saves + 1
    let i : Instr := .restoreComplete sl
    let runs (t : State) : Prop := exec i s = .next t ∧ (t.slice sl).running = some c ∧ (t.slice sl).sw.step = .idle ∧ (t.slice sl).sw.inn = none ∧
      (t.slice sl).selStop = false
    (x.sw.step = .saving → x.running = some c →
      (s.collsBusy sl = true → exec (.imageSaveComplete sl true) s = .next s) ∧
      (s.collsBusy sl = false → s.MemOk → (s.ctx cx).imageAt + 64 ≤ 2 ^ 39 →
        ∃ t im, exec (.imageSaveComplete sl true) s = .next t ∧
        (t.ctx cx).image = some im ∧ (t.ctx cx).saves = n ∧ im.seq = n ∧ im.at_ = s.now ∧ im.run = s.clock.run ∧
        (∀ w, w ∈ im.unacked ↔ w ∈ s.links.unacked ∧ slOfGk w.gk = sl) ∧ (∀ w ∈ t.links.unacked, slOfGk w.gk ≠ sl) ∧
        (∀ k, k < 64 → t.rdByte (s.keyNo cx) ((s.ctx cx).imageAt + k) = (imageHeader x.nclus n).getD k 0#8) ∧
        (∀ gk, slOfGk gk = sl → tget {} im.gangs gk = s.gang gk ∧ (t.gang gk).live = false) ∧
        (∀ ck, slOfCk ck = sl → tget {} im.cores ck = s.core ck ∧ t.core ck = {}) ∧
        (∀ loc, localOf sl loc = true → Memory.get im.local_ loc = Memory.get s.mem loc ∧ Memory.get t.mem loc = 0#8) ∧
        (t.slice sl).running = none ∧ (t.slice sl).sw.step = (if x.sw.inn = none then .idle else if s.needsScrub sl = true
          then .scrubbing else .restoring)) ∧
      (s.collsBusy sl = false → 2 ^ 39 ≤ (s.ctx cx).imageAt → (s.ctx cx).imageAt < 2 ^ 47 →
        ∃ t, exec (.imageSaveComplete sl true) s = .next t ∧ Killed s t cx 0x82) ∧
      ∃ t, exec (.imageSaveComplete sl false) s = .next t ∧ Killed s t cx 0x82) ∧
    (x.sw.step = .restoring → x.sw.inn = some c →
      (s.power.hot = true → exec i s = .next s) ∧
      (s.power.hot = false → (s.ctx cx).live = true →
        ((s.ctx cx).image = none → ∃ t, runs t ∧ ∀ gk, slOfGk gk = sl → (t.gang gk).live = false) ∧
        (∀ im, (s.ctx cx).image = some im →
          (imageBad (s.rdBytes (s.keyNo cx) (s.ctx cx).imageAt 64) x.nclus (s.ctx cx).saves = none → ∃ t, runs t ∧
            (im.slice.dones = [] → ∀ gk, slOfGk gk = sl → t.gang gk = { (tget {} im.gangs gk).later (s.clock.run - im.run) with stopped := false }) ∧
            (im.slice.dones = [] → s.MemOk → Memory.wf im.local_ = true → (∀ e ∈ im.local_, localOf sl e.1 = true) →
              ∀ loc, Memory.get t.mem loc = if localOf sl loc then Memory.get im.local_ loc else Memory.get s.mem loc)) ∧
          (∀ why word, imageBad (s.rdBytes (s.keyNo cx) (s.ctx cx).imageAt 64) x.nclus (s.ctx cx).saves = some (why, word) →
            x.running = none → ∃ t, exec i s = .next t ∧ Killed s t cx 0x83 ∧ (t.slice sl).sw.inn = none ∧ (t.slice sl).sw.step = .idle))))

/-- R365, R366, R367, R444 and R445: a scrub clears every class and its token, which holds what the switch then is, waits its turn; Ochre signs one token at a time, in the order of the scrubs, and writes its 17,728 bytes; a
context that demands one issues only with it and with every class cleared; one whose buffer cannot be written is killed if it demands it. That the
tokens go in the order of the scrubs is log 32 (DEDUCED). -/
def Says.ScrubsAndTokensGuardTheSwitch : Prop :=
  ∀ (s : State) (sl failed clus c : Nat) (r : TokReq), c < 8 → sl = r.sl → c = r.inn →
    let x := s.slice sl
    let bad := failed.land 0x1ffff
    let cx := cxOf sl c
    let y := s.ctx cx
    let demands : Prop := nbits y.flags 0 1 = 1
    let n := s.ochre.tokens + 1
    let token := tokenBytes (tokenBody r s.ochre.retires n)
    let done : State := { s with ochre := { s.ochre with signing := none, tokens := n } }
    let here : Prop := (x.running = some c ∨ x.sw.inn = some c) ∧ x.sw.scrubDtc = r.dtc
    (x.sw.step ≠ .scrubbing → exec (.scrubComplete sl failed clus) s = .next s) ∧
    (x.sw.step = .scrubbing → ∃ t, exec (.scrubComplete sl failed clus) s = .next t ∧ (t.slice sl).sw.scrubbed = true ∧
      (t.slice sl).sw.bitmap = 0x1ffff - bad ∧ (t.slice sl).sw.scrubDtc = s.dtc ∧ (∀ gk, slOfGk gk = sl → (t.gang gk).live = false) ∧
      (∀ loc, localOf sl loc = true → Memory.get t.mem loc = 0#8) ∧ (bad ≠ 0 → Reports s t 3 sl 0xff 0xff bad clus) ∧
      (x.sw.inn = none → (t.slice sl).sw.step = .idle ∧ t.ochre.waiting = s.ochre.waiting) ∧
      (x.sw.inn = some c → (t.slice sl).sw.step = .restoring ∧ (∃ q, t.ochre.waiting = s.ochre.waiting ++ [q] ∧
        q.sl = sl ∧ q.inn = c ∧ q.inTenant = y.tenant ∧ q.nonce = y.nonce ∧ q.tokbuf = y.tokbuf ∧ (q.demand = true ↔ demands) ∧
        q.outTenant = x.sw.outTenant ∧ q.bitmap = 0x1ffff - bad ∧ q.dtc = s.dtc) ∧ ((t.slice sl).sw.tokenWait = true ↔ demands))) ∧
    (∀ rest, s.ochre.signing = none → s.ochre.waiting = r :: rest → ∃ t, exec (.tokenStart sl) s = .next t ∧ t.ochre.signing = some r ∧
      t.ochre.waiting = rest) ∧
    (s.ochre.signing.isSome = true ∨ (∀ q, s.ochre.waiting.head? = some q → q.sl ≠ sl) → exec (.tokenStart sl) s = .next s) ∧
    (s.ochre.signing = some r →
      token.length = 17728 ∧
      (∀ u, done.writeIpa cx r.tokbuf token = some u → ∃ t, exec (.tokenWritten sl) s = .next t ∧ t.mem = u.mem ∧ t.ochre.tokens = n ∧
        t.ochre.signing = none ∧ (here → (t.slice sl).sw.tokenWait = false) ∧ (¬ here → (t.slice sl).sw = x.sw) ∧
        (here → r.demand = true → r.bitmap ≠ 0x1ffff → (t.slice sl).sw.rescrub = true ∧ Reports s t 4 sl c y.vf 2 n) ∧
        (r.demand = false ∨ r.bitmap = 0x1ffff → (t.slice sl).sw.rescrub = x.sw.rescrub)) ∧
      (done.writeIpa cx r.tokbuf token = none → ∃ t, exec (.tokenWritten sl) s = .next t ∧ (r.demand = true → Killed s t cx 0x16) ∧
        (r.demand = false → Reports s t 4 sl c y.vf 1 n ∧ t.mem = s.mem ∧ t.ctxs = s.ctxs))) ∧
    (x.running = some c →
      (x.sw.rescrub = false → exec (.rescrubCommand sl) s = .next s) ∧
      (x.sw.rescrub = true → ∃ t, exec (.rescrubCommand sl) s = .next t ∧ (t.slice sl).running = none ∧ (t.slice sl).sw.step = .scrubbing ∧
        (t.slice sl).sw.inn = some c ∧ (t.slice sl).sw.rescrub = false ∧ (t.slice sl).sw.scrubbed = false))

/-! ## Sessions, quotes, queue records and clusters (14:R371, R375, 21:R447, R448, 07:R187, 01:R19) -/

/-- R371, R447 and R448: a live context opens a session, or rekeys one of its own; only a record with the next number and a good tag is accepted; the 16th bad tag, and 2^32
records of a direction without a new key, close the session with a report. -/
def Says.SessionsCountTheirRecords : Prop :=
  ∀ (s : State) (sl cx id num : Nat) (host ok : Bool),
    let c := cxOf sl cx
    let x := tget {} s.ochre.sessions id
    let after (t : State) : Session := tget {} t.ochre.sessions id
    let agree : Instr := .sessionKeyAgreement sl cx id
    let i : Instr := .sessionRecord id num host ok
    let next := if host then x.inNo else x.outNo
    let used := if host then x.inKey else x.outKey
    s.links.fjoadDown = false →
    ((s.ctx c).live = false ∨ x.opened = true ∧ x.ck ≠ c → exec agree s = .next s) ∧
    ((s.ctx c).live = true → (x.opened = true → x.ck = c) →
      (s.ochre.drbgBad = true → ∃ t, exec agree s = .next t ∧ Reports s t 5 sl cx (s.ctx c).vf 1 0 ∧ t.ochre = s.ochre) ∧
      (s.ochre.drbgBad = false → ∃ t, exec agree s = .next t ∧ (after t).opened = true ∧ (after t).keyed = true ∧ (after t).ck = c ∧
        (after t).inKey = 0 ∧ (after t).outKey = 0 ∧ (x.opened = true → (after t).inNo = x.inNo ∧ (after t).outNo = x.outNo) ∧
        (x.opened = false → (after t).inNo = 0 ∧ (after t).outNo = 0))) ∧
    (x.opened = false → exec i s = .next s) ∧
    (x.opened = true →
      (num ≠ next → ∃ t, exec i s = .next t ∧ after t = { x with dropped := x.dropped + 1 }) ∧
      (num = next → ok = false → ∃ t, exec i s = .next t ∧ (after t).dropped = x.dropped + 1 ∧ (after t).fails = x.fails + 1 ∧
        (after t).inNo = x.inNo ∧ (after t).outNo = x.outNo ∧ ((after t).opened = true ↔ x.fails + 1 < 16) ∧
        (16 ≤ x.fails + 1 → Reports s t 6 (x.ck / 8) (x.ck % 8) (s.ctx x.ck).vf 1 id)) ∧
      (num = next → ok = true → x.inKey < 2 ^ 32 → x.outKey < 2 ^ 32 → ∃ t, exec i s = .next t ∧
        (if host then (after t).inNo else (after t).outNo) = next + 1 ∧ (if host then (after t).outNo else (after t).inNo) =
          (if host then x.outNo else x.inNo) ∧ (after t).dropped = x.dropped ∧ ((after t).opened = true ↔ used + 1 < 2 ^ 32) ∧
        (2 ^ 32 ≤ used + 1 → Reports s t 6 (x.ck / 8) (x.ck % 8) (s.ctx x.ck).vf 2 id)))

/-- R375, R187, R188, R19, R22 and R357: a quote holds the measurements, counts and nonce with both signatures; queue records take their fields under R187's conditions (stated where no
loader has records yet to submit, which it would then append); a slice takes clusters that no other holds, and none that is fused off, while nothing runs on it. That an
`ldep` outside 4 to 16 is ignored together with `ring`, and that a bad write of the remap table is ignored, is log 35 (DESIGN CHOICE). -/
def Says.QuotesQueuesAndClusters : Prop :=
  ∀ (s : State) (sl cx q : Nat) (nonce : List (BitVec 8)) (ring ldep vf ctx en : Option Nat) (sites : List Nat),
    let c := s.ctx (cxOf sl cx)
    let body := sha384 Config.firmware ++ sha384 c.desc ++ (s.loaded (cxOf sl cx)).flatMap (fun e => e.2.digest) ++
      leBytes 8 s.ochre.retires ++ leBytes 8 s.dtc.toNat ++ nonce
    let x := tget {} s.mgmt.queues q
    let sets : Prop := x.en = false ∧ x.head = x.tail ∧ (ring.isSome = true ∨ ldep.isSome = true) ∧ (∀ n ∈ ldep, 4 ≤ n ∧ n ≤ 16)
    let i : Instr := .queueRecordWrite q ring ldep vf ctx en
    let remap : Prop := sl < 16 ∧ s.booted = true ∧ (s.slice sl).running = none ∧ (s.slice sl).sw.step = .idle ∧ sites.length ≤ 576 ∧ sites.Nodup ∧
      (∀ y ∈ sites, y < 608 ∧ y ∉ s.fused) ∧ ∀ e ∈ s.slices, e.1 ≠ sl → ∀ y ∈ sites, y ∉ e.2.sites
    (c.live = true → nonce.length = 32 → ∃ t, exec (.attestationQuote sl cx nonce) s = .next t ∧
      t.ochre.quotes = s.ochre.quotes ++ [body ++ Config.rsaSign body ++ Config.slhSign body] ∧ t.mem = s.mem) ∧
    (c.live = false ∨ nonce.length ≠ 32 → exec (.attestationQuote sl cx nonce) s = .next s) ∧
    (65536 ≤ q ∨ s.booted = false → exec i s = .next s) ∧
    (q < 65536 → s.booted = true → (∀ c, (s.ctx c).submits = []) → ∃ t, exec i s = .next t ∧ let y := tget {} t.mgmt.queues q
      (sets → y.ring = ring.getD x.ring ∧ y.ldep = ldep.getD x.ldep ∧ y.head = 0 ∧ y.tail = 0) ∧
      (¬ sets → y.ring = x.ring ∧ y.ldep = x.ldep ∧ y.head = x.head ∧ y.tail = x.tail) ∧ y.vf = vf.getD x.vf % 64 ∧ y.ctx = ctx.getD x.ctx % 8 ∧
      (y.en = true ↔ match en with
        | some n => n % 2 = 1
        | none => x.en = true) ∧
      t.mem = s.mem ∧ ∀ m, m ≠ q → tget {} t.mgmt.queues m = tget {} s.mgmt.queues m) ∧
    (remap → ∃ t, exec (.remapTableWrite sl sites) s = .next t ∧ (t.slice sl).sites = sites ∧ (t.slice sl).nclus = sites.length ∧
      ∀ k, k ≠ sl → t.slice k = s.slice k) ∧
    (¬ remap → exec (.remapTableWrite sl sites) s = .next s)

/-! ## Collectives, links and the time counter (14:R368 to R374, 21:R451 to R456, 07:R190) -/

/-- R368 and R369: a free unit takes a collective posted for a function of its slice; each participant's contribution to the current step is added once, exactly, and the step
of the last one is complete with its sums rounded once; one that comes early, or while a pause lets the unit begin no step, is kept and added when its step has come; a
restored collective goes on when every participant agrees on the completed steps; one posted with a participant that no port reaches is aborted (R454).
How the sums are rounded, what becomes of a contribution that comes early, and the exchange at a pause are log 33 (the model's choices). -/
def Says.CollectivesSumStepByStep : Prop :=
  ∀ (s : State) (u vf sl parts steps part p k : Nat) (vals vs : List (BitVec 32)) (reports : List Nat),
    let c := s.coll u
    let post : Instr := .collectivePost u vf sl parts steps
    let i : Instr := .collectiveContribution u part c.step vals
    let busy : Prop := c.posted = true ∧ c.state = 0
    let taken : Prop := busy ∨ ∃ e ∈ s.ctxs, ∃ im, e.2.image = some im ∧ (tget {} im.colls u).posted = true ∧ (tget {} im.colls u).state = 0
    let mine : Prop := (s.vf vf).slice = sl
    let fresh : Prop := part ∉ c.got ∧ ∀ e ∈ c.early, ¬ (e.1 = part ∧ e.2.1 = c.step)
    let goes : Prop := c.saved = false ∧ c.agreed = true ∧ (c.paused = true → c.step < c.top)
    let value (a : Nat) : BitVec 640 × BitVec 4 := (tget 0#640 c.acc a, tget 0#4 c.stat a)
    let sum (a : Nat) : BitVec 640 × BitVec 4 := if a < vals.length then slotAddF (unpack 0 (vals.getD a 0#32).toNat) (value a) else value a
    (u < 16 → vf < 64 → sl < 16 → s.booted = true → mine → ¬ taken → ∃ t, exec post s = .next t ∧ let d := t.coll u
      d.posted = true ∧ d.vf = vf ∧ d.sl = sl ∧ d.parts = parts ∧ d.steps = steps ∧ d.step = 0 ∧ d.results = [] ∧
      (steps = 0 → d.state = 1) ∧ (steps ≠ 0 → (∀ q ∈ s.links.cut, parts ≤ q) → d.state = 0) ∧
      (steps ≠ 0 → (∃ q ∈ s.links.cut, q < parts) → d.state = 3 ∧ Reports s t 8 sl 0xff vf u 0)) ∧
    (16 ≤ u ∨ 64 ≤ vf ∨ 16 ≤ sl ∨ s.booted = false ∨ ¬ mine ∨ taken → exec post s = .next s) ∧
    (busy → goes → part < c.parts → fresh → vals ≠ [] → c.step < c.steps →
      (c.got.length + 1 < c.parts → (∀ e ∈ c.early, e.2.1 ≠ c.step) → ∃ t, exec i s = .next t ∧ (t.coll u).got = c.got ++ [part] ∧ (t.coll u).step = c.step ∧
        (t.coll u).begun = max c.begun (c.step + 1) ∧ (t.coll u).results = c.results ∧
        ∀ a, (tget 0#640 (t.coll u).acc a, tget 0#4 (t.coll u).stat a) = sum a) ∧
      (c.parts ≤ c.got.length + 1 → ∃ t r more, exec i s = .next t ∧ (t.coll u).results = c.results ++ r :: more ∧ vals.length ≤ r.length ∧
        ((∀ e ∈ c.early, e.2.1 ≠ c.step + 1) → more = [] ∧ (t.coll u).step = c.step + 1 ∧ (t.coll u).got = [] ∧ (t.coll u).acc = [] ∧
          ((t.coll u).state = 1 ↔ c.steps ≤ c.step + 1)) ∧
        (c.early = [(p, c.step + 1, vs)] → c.paused = false → c.step + 1 < c.steps → 1 < c.parts → (t.coll u).step = c.step + 1 ∧
          (t.coll u).got = [p] ∧ (t.coll u).early = [] ∧ ∀ a, (tget 0#640 (t.coll u).acc a, tget 0#4 (t.coll u).stat a) =
            if a < vs.length then slotAddF (unpack 0 (vs.getD a 0#32).toNat) (0#640, 0#4) else (0#640, 0#4)) ∧
        ∀ a, a < r.length → (sum a).2 &&& 7#4 = 0#4 → let q : ℚ := (sum a).1.toInt / 2 ^ 320
          (r.getD a 0#32).toNat = (round32 0 (decide (q < 0)) q).1)) ∧
    (busy → part < c.parts → vals ≠ [] → c.step < k ∧ k < c.steps ∨ k = c.step ∧ k < c.steps ∧ part ∉ c.got ∧ ¬ goes →
      (∀ e ∈ c.early, ¬ (e.1 = part ∧ e.2.1 = k)) → ∃ t, exec (.collectiveContribution u part k vals) s = .next t ∧
        t.coll u = { c with early := c.early ++ [(part, k, vals)] }) ∧
    (vals ≠ [] → k < c.step ∨ c.steps ≤ k ∨ c.parts ≤ part ∨ ¬ busy → exec (.collectiveContribution u part k vals) s = .next s) ∧
    (busy → c.restoredAt.isSome = true → (reports.length ≠ c.parts → exec (.collectiveResume u reports) s = .next s) ∧ (reports.length = c.parts →
      ((∀ e ∈ c.early, e.2.1 ≠ c.step) → c.agreed = true ∨ (∀ k ∈ reports, k = c.step) → ∃ t, exec (.collectiveResume u reports) s = .next t ∧
        t.coll u = { c with paused := false, saved := false, agreed := true, restoredAt := none, told := [] }) ∧
      (c.agreed = false → (∃ k ∈ reports, k ≠ c.step) → ∃ t, exec (.collectiveResume u reports) s = .next t ∧ (t.coll u).state = 2 ∧
        (t.coll u).results = c.results ∧ Reports s t 8 c.sl 0xff c.vf u c.step)))

/-- R451, R452 and R454: a pause whose exchange does not complete within the grace time is saved unagreed with a report; a participant that is not back within the kill time aborts the collective, whose
completed steps stay. -/
def Says.CollectiveTimersExpire : Prop :=
  ∀ (s : State) (u since : Nat),
    let c := s.coll u
    let w := (s.slice c.sl).sw
    let grace := (s.ctx (cxOf c.sl (w.out.getD 0))).grace
    let kill := 1000 * (s.ctx (s.runCx c.sl)).kill
    c.posted = true → c.state = 0 →
    (c.paused = true → c.saved = false → c.agreed = true → c.begun ≤ c.step → (c.told.length < c.parts ∨ c.step < c.top) →
      (w.since + grace ≤ s.clock.run → ∃ t, exec (.exchangeTimeout u) s = .next t ∧ t.coll u = { c with agreed := false } ∧
        Reports s t 16 c.sl 0xff c.vf u c.begun) ∧
      (s.clock.run < w.since + grace → exec (.exchangeTimeout u) s = .next s)) ∧
    (c.restoredAt = some since →
      (since + kill ≤ s.clock.run → ∃ t, exec (.participantTimeout u) s = .next t ∧ (t.coll u).state = 3 ∧ (t.coll u).results = c.results ∧
        (t.coll u).restoredAt = none ∧ Reports s t 8 c.sl 0xff c.vf u c.step) ∧
      (s.clock.run < since + kill → exec (.participantTimeout u) s = .next s))

/-- R453 and R454: a flit that fails its CRC is replayed; a lost lane is reported with the width that remains and with fewer than 8 the link is down; a failed port is reported and leaves every set,
and a time transfer that no peer is left for has failed. -/
def Says.LinksLoseLanesAndPorts : Prop :=
  ∀ (s : State) (link lane port : Nat),
    let left := 31 - s.links.lanesLost.length
    let width := if 32 ≤ left then 32 else if 16 ≤ left then 16 else if 8 ≤ left then 8 else 0
    (∃ t, exec (.flitCrcFail link) s = .next t ∧ tget 0 t.links.replays link = tget 0 s.links.replays link + 1 ∧ t.mem = s.mem ∧
      ∀ k, k ≠ link → tget 0 t.links.replays k = tget 0 s.links.replays k) ∧
    (lane < 32 → lane ∉ s.links.lanesLost → ∃ t, exec (.fjoadLaneLost lane) s = .next t ∧ t.links.lanesLost = lane :: s.links.lanesLost ∧
      (8 ≤ left → t.links.fjoadDown = false ∧ Reports s t 9 0xff 0xff 0xff lane width) ∧
      (left < 8 → s.links.lanesLost.length < 25 → t.links.fjoadDown = true ∧ ∀ n, (tget {} t.ochre.sessions n).opened = false)) ∧
    (32 ≤ lane ∨ lane ∈ s.links.lanesLost → exec (.fjoadLaneLost lane) s = .next s) ∧
    (port < 96 → port ∉ s.links.portsDown → ∃ t, exec (.portDown port) s = .next t ∧ t.links.portsDown = port :: s.links.portsDown ∧
      ((∀ e ∈ s.colls, e.2.posted = false ∨ e.2.state ≠ 0) → ∃ n, Reports s t 11 0xff 0xff 0xff port n) ∧
      (t.links.noTransfer = true → s.clock.source = 3 → s.clock.failedAt = none → t.clock.failedAt = some s.clock.run ∧ 3 ∉ t.clock.present)) ∧
    (96 ≤ port ∨ port ∈ s.links.portsDown → exec (.portDown port) s = .next s)

/-- R455: an access to host or peer memory that gets no answer for 100 us, from a peer for 200 us, or that is not reached any more, is reported: a far operation's lanes receive 0, a gang's stores are taken back, a `cprem` ends, and the gang takes a fault of cause 9. That the stores are taken back byte by byte is log 34
(DEDUCED). -/
def Says.UnansweredAccessesFault : Prop :=
  ∀ (s : State) (gk id n : Nat) (o : FarOp) (x : FarLane) (rest : List (Nat × FarLane)) (w : ExtWrite) (ws : List ExtWrite), id < 2 ^ 64 →
    let g := s.gang gk
    let late (pa at_ : Nat) : Prop := at_ + (if s.links.reaches pa = false then 0 else if nbits pa 46 1 = 0 then 100000 else 200000) ≤ s.clock.run
    let lost (e : ExtWrite) : Bool := e.gk == gk && s.outOfTime e.pa e.at_
    let act := maskOf (o.lanes.map FarLane.lane)
    (∀ pa at_, s.outOfTime pa at_ = true ↔ late pa at_) ∧
    (∀ e, e ∈ s.unanswered o ↔ e ∈ o.left ∧ spaceOfLoc e.2.loc = 1 ∧ late e.2.loc o.at_) ∧
    (g.far.find? (fun o => o.id == id && !o.perf) = some o →
      (s.unanswered o = (n, x) :: rest → ∃ t, exec (.accessTimeout gk id) s = .next t ∧ t.mem = s.mem ∧
        Reports s t 12 (slOfGk gk) 0xff 0xff (s.links.owner x.loc) x.loc ∧
        (∃ p ∈ (t.gang gk).far, p.id = id ∧ p.got = o.got ++ ((n, x) :: rest).map (fun e => (e.1, 0)) ∧
          (p.perf = true ↔ p.got.length = p.lanes.length)) ∧
        Faulted s t { gk := gk, actId := o.actId, word := o.word, act := act, launch := o.launch } 0x09 0
          (maskOf (((n, x) :: rest).map (fun e => e.2.lane))) (BitVec.ofNat 64 x.va)) ∧
      (s.unanswered o = [] → exec (.accessTimeout gk id) s = .next s)) ∧
    (g.far.find? (fun o => o.id == id && !o.perf) = none → s.links.unacked.filter (fun e => lost e && !e.far) = w :: ws →
      ∃ t, exec (.accessTimeout gk id) s = .next t ∧ (∀ e, e ∈ t.links.unacked ↔ e ∈ s.links.unacked ∧ lost e = false) ∧
        Reports s t 12 (slOfGk gk) 0xff 0xff (s.links.owner w.pa) w.pa ∧
        (s.MemOk → (∀ e ∈ w :: ws, spaceOfLoc e.pa = 1) → ∀ loc, Memory.get t.mem (s.links.home loc) =
          s.wroteAt (fun a => Memory.get s.mem (s.links.home a)) ((w :: ws).reverse.map (fun e => (e.pa, e.old))) loc) ∧
        Faulted s t { gk := gk, actId := g.actId, word := 0#32, act := g.r.act, launch := g.launch } 0x09 0 g.r.act (BitVec.ofNat 64 w.va)) ∧
    ∀ ch c q, let ck := ckOfGk gk
      tget [] (s.core ck).chans ch = c :: q → q.length ≤ 4 → c.kind = 5 → c.moved < c.sent →
      ((∃ e ∈ s.links.portsOf c.peer, e ∉ s.links.portsDown) → s.clock.run < c.at_ + 200000 → exec (.accessTimeout gk (2 ^ 64 + ch)) s = .next s) ∧
      ((∀ e ∈ s.links.portsOf c.peer, e ∈ s.links.portsDown) ∨ c.at_ + 200000 ≤ s.clock.run → ∃ t, exec (.accessTimeout gk (2 ^ 64 + ch)) s = .next t ∧ tget [] (t.core ck).chans ch = [] ∧
        (let a := (c.dst.toNat + c.moved) % 2 ^ 64
         Faulted s t c.who 0x11 12 c.who.act (BitVec.ofNat 64 a) ∧ t.mgmt.events = (s.event 12 (slOfCk ck) 0xff 0xff c.peer a).mgmt.events))

/-- R374, R456 and R472: the first source that shows itself is taken; errors of at most 1 ms are slewed out and greater ones step `dtc` with a report; a failed source leaves `dtc` free until it changes to the
best one present, or to holdover; a source that shows itself or has recovered and is preferred is adopted with a report, where the source in use has
failed only the one preferred among those present; a transfer that no peer is left for shows nothing (R454). That `dtc` slews at just 200 ppm is log 30
(DESIGN CHOICE). -/
def Says.SourcesSteerTheCounter : Prop :=
  ∀ (s : State) (src : Nat) (err : Int),
    let c := s.clock
    let small : Prop := err.natAbs ≤ 1000000
    let stepped (t : State) : Prop := t.clock.ns = c.ns + BitVec.ofInt 64 err ∧ t.clock.slew = 0 ∧
      Reports t t 14 0xff 0xff 0xff (BitVec.ofInt 64 err).toNat 0
    let corrected (t : State) : Prop := (small → t.clock.slew = err * 235000 ∧ t.clock.ns = c.ns) ∧ (¬ small → stepped t)
    (c.source = 0 ∨ c.source = 4 ∨ c.failedAt.isSome = true → exec .timeSourceFail s = .next s) ∧
    (c.source ≠ 0 → c.source ≠ 4 → c.failedAt = none → ∃ t, exec .timeSourceFail s = .next t ∧ t.clock.failedAt = some c.run ∧ t.clock.slew = 0 ∧
      t.clock.ns = c.ns ∧ t.clock.source = c.source ∧ ∀ n, n ∈ t.clock.present ↔ n ∈ c.present ∧ n ≠ c.source) ∧
    (c.failedAt = none → exec .sourceChange s = .next s) ∧
    (c.failedAt.isSome = true → ∃ t, exec .sourceChange s = .next t ∧ t.clock.failedAt = none ∧ t.clock.ns = c.ns ∧
      (t.clock.source ∈ c.present ∧ (t.clock.source = 1 ∨ t.clock.source = 2 ∨ t.clock.source = 3) ∨ t.clock.source = 4) ∧
      (∀ n, 1 ≤ n → n < t.clock.source → n ∉ c.present) ∧ ∃ v, Reports s t 13 0xff 0xff 0xff t.clock.source v) ∧
    (small ∨ c.source = 0 → exec (.dtcStep err) s = .next s) ∧
    (¬ small → c.source ≠ 0 → ∃ t, exec (.dtcStep err) s = .next t ∧ stepped t) ∧
    (s.links.noTransfer = true → exec (.timeSourceInput 3 err) s = .next s ∧ exec (.timeSourceRecovery 3 err) s = .next s) ∧
    (1 ≤ src → src < 4 → (src = 3 → s.links.noTransfer = false) →
      let best : Prop := ∀ n, 1 ≤ n → n < src → n ∉ c.present
      (c.source = 0 → ∃ t, exec (.timeSourceInput src err) s = .next t ∧ t.clock.source = src ∧ src ∈ t.clock.present ∧ corrected t) ∧
      (c.source = src → c.failedAt = none → small → ∃ t, exec (.timeSourceInput src err) s = .next t ∧ t.clock.slew = err * 235000 ∧ t.clock.ns = c.ns) ∧
      (c.source ≠ 0 → c.source < src → ∃ t, exec (.timeSourceInput src err) s = .next t ∧ t.clock.source = c.source ∧ t.clock.slew = c.slew ∧
        src ∈ t.clock.present) ∧
      (src < c.source → (c.failedAt = none ∨ best) → ∃ t, exec (.timeSourceInput src err) s = .next t ∧ t.clock.source = src ∧ t.clock.failedAt = none ∧ corrected t ∧
        src ∈ t.clock.present ∧ (small → Reports s t 13 0xff 0xff 0xff src err.natAbs)) ∧
      (src < c.source → c.failedAt.isSome = true → ¬ best → ∃ t, exec (.timeSourceInput src err) s = .next t ∧ t.clock.source = c.source ∧
        t.clock.failedAt = c.failedAt ∧ src ∈ t.clock.present) ∧
      (c.failedAt = none ∧ src < c.source ∨ c.failedAt.isSome = true ∧ best → ∃ t, exec (.timeSourceRecovery src err) s = .next t ∧ t.clock.source = src ∧
        t.clock.failedAt = none ∧ corrected t ∧ (small → Reports s t 13 0xff 0xff 0xff src err.natAbs)) ∧
      (c.failedAt = none ∧ c.source ≤ src ∨ c.failedAt.isSome = true ∧ ¬ best → ∃ t, exec (.timeSourceRecovery src err) s = .next t ∧ t.clock.source = c.source ∧ t.clock.ns = c.ns ∧
        src ∈ t.clock.present))

/-! ## Debug, health, power and management registers (18:R398 to R403, 24:R464 to R472, 00:R5) -/

/-- R398, R399, R400 and R403: a halt request is kept in the context's debug word; once the slice's register writes have landed it counts as halted; a debugger then writes registers, predicates, pc, descriptors, and control
registers under their own rules, and neither `tlvl` nor `tsa` and `tvec`; a resume clears both bits. R401: the window shows a gang slot's registers by number and lane, its predicates, and its pc with the active mask. -/
def Says.TheDebuggerHaltsAndResumes : Prop :=
  ∀ (s : State) (sl cx gk lane n : Nat) (v : Word),
    let c := cxOf sl cx
    let d := (s.ctx c).dbg
    let g := s.gang gk
    let writes (reg : DebugReg) (p : State → Prop) : Prop := ∃ t, exec (.debugRegisterWrite gk lane reg v) s = .next t ∧ t.mem = s.mem ∧
      (∀ k, k ≠ gk → t.gang k = s.gang k) ∧ p t
    (s.booted = true → (s.ctx c).live = true →
      (∃ t, exec (.haltRequest sl cx) s = .next t ∧ (t.ctx c).dbg = { d with hreq := true } ∧ t.gangs = s.gangs) ∧
      ∃ t, exec (.resume sl cx) s = .next t ∧ (t.ctx c).dbg = { d with hreq := false, hlt := false } ∧ t.gangs = s.gangs) ∧
    (s.booted = false ∨ (s.ctx c).live = false → exec (.haltRequest sl cx) s = .next s ∧ exec (.resume sl cx) s = .next s) ∧
    ((s.slice sl).running = some cx → d.hreq = true →
      (∀ e ∈ s.gangs, slOfGk e.1 = sl → e.2.live = true → ∀ w ∈ (s.gang e.1).pend, ∃ k, w.land = some k ∧ k ≤ s.now) →
      ∃ t, exec (.haltDone sl cx) s = .next t ∧ (t.ctx c).dbg = { d with hlt := true } ∧ t.now = s.now ∧
        ∀ k, slOfGk k = sl → (s.gang k).live = true → (t.gang k).r = (s.gang k).view) ∧
    ((s.slice sl).running ≠ some cx ∨ d.hreq = false → exec (.haltDone sl cx) s = .next s) ∧
    (g.live = true → (s.ctx (s.gangCx gk)).dbg.hlt = true → (s.slice (slOfGk gk)).running.isSome = true → lane < 32 →
      (n < 32 → writes (.w n) (fun t => ∀ l m, m < 32 → (t.gang gk).r.rdW l m =
        if l = lane ∧ m = n ∧ n ≠ 24 ∧ n ≠ 25 ∧ n ≠ 31 then v else g.r.rdW l m)) ∧
      writes .p (fun t => ∀ l m, m < 8 → (t.gang gk).r.rdP l m = if l = lane then (v.setWidth 8 ||| 1#8).getLsbD m else g.r.rdP l m) ∧
      (∀ e ∈ (s.quad (qkOfGk gk)).exts, (s.quad (qkOfGk gk)).exts.filter (fun e => decide (e.start ≤ wbits v 0 14) &&
          decide (wbits v 0 14 < e.start + e.len)) = [e] →
        writes .pc (fun t => (t.gang gk).r.pc = wbits v 0 14 ∧ (t.gang gk).r.blk = { start := e.start, len := e.len, obj := e.obj, idx := e.blk })) ∧
      ((∀ e ∈ (s.quad (qkOfGk gk)).exts, ¬ (e.start ≤ wbits v 0 14 ∧ wbits v 0 14 < e.start + e.len)) → writes .pc (fun t => (t.gang gk).r = g.r)) ∧
      (∀ reg ∈ [DebugReg.tlvl, .tsa, .tvec], writes reg (fun t => (t.gang gk).r = g.r)) ∧
      (n < 8 → writes (.x n) (fun t => ∀ l m, tget 0#64 ((t.gang gk).r.lane l).xb m = if l = lane ∧ m = n then v else tget 0#64 (g.r.lane l).xb m)) ∧
      (∀ j, n < 8 → j < 4 → writes (.xc n j) (fun t => ∀ m, tget 0#32 (t.gang gk).r.xc m =
        if m = 4 * n + j then v.setWidth 32 else tget 0#32 g.r.xc m)) ∧
      (0x021 ≤ n → n ≤ 0x028 → writes (.csr n) (fun t => (t.trapWords gk).getD (n - 0x020) 0#64 = v &&& csrMask n 1)) ∧
      (∀ m, m < 0x20 → writes (.csr (0x100 + m)) (fun t => (t.gang gk).r = g.r ∧
          tget 0#128 (t.core (ckOfGk gk)).t (m / 2) = writeHalf (tget 0#128 (s.core (ckOfGk gk)).t (m / 2)) (m % 2) v)) ∧
      writes (.csr 0x010) (fun t => ((t.gang gk).r.lane lane).frm = if 4 < v.toNat % 8 then (g.r.lane lane).frm else v.setWidth 3) ∧
      writes (.csr 0x011) (fun t => ((t.gang gk).r.lane lane).fflags = v.setWidth 5) ∧
      writes (.csr 0x030) (fun t => (t.gang gk).r.sbchk = v.getLsbD 0)) ∧
    (let byte (o : Nat) : BitVec 8 := (s.gangWindow gk).getD o 0#8
     (s.gangWindow gk).length = 16384 ∧
     (∀ l m k, l < 32 → m < 32 → k < 8 → byte (256 * m + 8 * l + k) = BitVec.ofNat 8 ((g.r.rdW l m).toNat / 2 ^ (8 * k))) ∧
     (∀ l m, l < 32 → m < 8 → (byte (8192 + l)).getLsbD m = g.r.rdP l m) ∧
     (∀ k, k < 4 → byte (8224 + k) = BitVec.ofNat 8 (g.r.pc % 2 ^ 14 / 2 ^ (8 * k)) ∧ byte (8228 + k) = BitVec.ofNat 8 (g.r.act.toNat / 2 ^ (8 * k)))) ∧
    ((s.ctx (s.gangCx gk)).dbg.hlt = false → ∀ reg, exec (.debugRegisterWrite gk lane reg v) s = .next s)

/-- R469 and R470: every 10 us the issue gate closes by one where the interval's power is above the limit, and opens by one below 98 percent of it; the limit is the lesser of the package's and the thermal one. -/
def Says.TheGateFollowsThePower : Prop :=
  ∀ (s : State) (mw w : Nat),
    let p := s.power
    let limit := min p.limit p.thermal
    let past := (mw :: p.past).take 100
    (p.on = true → p.last + 10000 ≤ s.clock.run → ∃ t, exec (.powerInterval mw) s = .next t ∧ t.power.last = p.last + 10000 ∧
      t.power.past = past ∧ t.power.watts = past.sum / (1000 * past.length) ∧
      t.power.gate = (if 1000 * limit < mw then max 1 (p.gate - 1) else if mw < 980 * limit then min 16 (p.gate + 1) else p.gate)) ∧
    (p.on = false ∨ s.clock.run < p.last + 10000 → exec (.powerInterval mw) s = .next s) ∧
    (s.booted = true → 600 ≤ w % 4096 → w % 4096 ≤ 2300 → ∃ t, exec (.pwrlimWrite w) s = .next t ∧ t.power = { p with limit := w % 4096 }) ∧
    (s.booted = false ∨ w % 4096 < 600 ∨ 2300 < w % 4096 → exec (.pwrlimWrite w) s = .next s)

/-- R471 and R472: above 100 degrees the thermal limit falls by 100 W a degree to 600 W; from 115 every running context is saved away, and none is restored until all dies are below 95; at 125, and when power is lost, everything but
host and peer memory, the token counter, the fuses and the reason is gone; a package reset, or power coming back, does the same and leaves a powered
package's health counters, heat and retire count, and bring-up goes through its steps and stops at one that fails or, R375, where the firmware's
signatures do not both verify. R19, R8, R11 and R359: it loads the remap table, whose slices have at most 576 sites, each of one slice and none fused off, and draws a
new device key. -/
def Says.HeatAndPowerLossActOnThePackage : Prop :=
  ∀ (s : State) (die temp fail : Nat),
    let i : Instr := .thermalEvent die temp
    let dark (t : State) (trip : Bool) : Prop := t.gangs = [] ∧ t.slices = [] ∧ t.ctxs = [] ∧ t.quads = [] ∧ t.cores = [] ∧ t.clus = [] ∧
      t.now = s.now ∧ t.ochre.tokens = s.ochre.tokens ∧ t.power.trip = trip ∧
      ∀ loc, Memory.get t.mem loc = if spaceOfLoc loc = 1 then Memory.get s.mem loc else 0#8
    (s.power.on = true → die < 6 → temp < 125 →
      let t0 := (s.dies.filter (fun e => e.1 != die)).foldl (fun m e => max m e.2.temp) temp
      (s.dies.map Prod.fst).Nodup → ∃ t, exec i s = .next t ∧ (tget {} t.dies die).temp = temp ∧
        t.power.thermal = (if t0 ≤ 100 then 2300 else max 600 (2300 - 100 * (t0 - 100))) ∧
        t.power.hot = (if 115 ≤ t0 then true else if t0 < 95 then false else s.power.hot) ∧
        (t0 < 115 → t.slices = s.slices) ∧
        (115 ≤ t0 → (s.slices.map Prod.fst).Nodup → ∀ sl c, (s.slice sl).running = some c →
          ((s.slice sl).sw.step = .idle → (t.slice sl).sw.step = .halting ∧ (t.slice sl).sw.inn = none ∧ (t.slice sl).selStop = true) ∧
          ((s.slice sl).sw.step = .soft → (t.slice sl).sw.step = .halting))) ∧
    (s.MemOk → s.power.on = true → die < 6 → 125 ≤ temp → ∃ t, exec i s = .next t ∧ dark t true ∧ t.power.on = false) ∧
    (6 ≤ die ∨ s.power.on = false → exec i s = .next s) ∧
    (s.MemOk → (∃ t, exec (.thermalTrip die) s = .next t ∧ dark t true ∧ t.power.on = false) ∧
      (∃ t, exec .powerLoss s = .next t ∧ dark t false ∧ t.power.on = false) ∧
      (let f := fail % 8
       ∃ t, exec (.powerOn fail) s = .next t ∧ dark { t with slices := [] } s.power.trip ∧ t.power.on = true ∧
        (firmwareAccepted = true → t.power.err = (if 1 ≤ f ∧ f ≤ 5 then f else 0) ∧
          t.power.step = (if 1 ≤ f ∧ f ≤ 4 then f - 1 else 6) ∧ (f = 5 → fail / 8 < 32 → t.links.lanesLost = [fail / 8]) ∧
          (f = 5 → 32 ≤ fail / 8 → fail / 8 < 128 → t.links.portsDown = [fail / 8 - 32]) ∧
          (f ≠ 5 → t.links.lanesLost = [] ∧ t.links.portsDown = [])) ∧
        (s.power.on = true → t.ochre.retires = s.ochre.retires ∧ t.power.hot = s.power.hot ∧ ∀ d, let y := tget {} s.dies d
          tget {} t.dies d = { sramce := y.sramce, hbmce := y.hbmce, ue := y.ue, mxrx := y.mxrx, temp := y.temp }) ∧
        (s.power.on = false → t.dies = []) ∧
        (firmwareAccepted = false → t.power.step < 2) ∧ t.fused = s.fused ∧ (t.power.step < 3 → t.slices = []) ∧
        (1 ≤ t.power.step → t.ochre.devKey = s.ochre.nextKey ∧ t.ochre.nextKey = s.ochre.nextKey + 1) ∧
        ∀ k, let x := t.slice k
          x.nclus = x.sites.length ∧ x.sites.length ≤ 576 ∧ x.sites.Nodup ∧
          ∀ y ∈ x.sites, y < 608 ∧ y ∉ s.fused ∧ ∀ j, j ≠ k → y ∉ (t.slice j).sites))

/-- As time passes out of a cycle, and nothing else falls due meanwhile, the state has a property. -/
def Says.passing (s : State) (n : Nat) (p : State → Prop) : Prop :=
  ∀ rest, s.power.on = true → s.agenda = .tick n :: rest → n ≠ 0 → ({ s with agenda := rest } : State).cycleEnd.calm n = true → ∃ t, step s = .next t ∧
    t.now = s.now + n ∧ p t

/-- R467 and R468: once an hour a die's remaining life is estimated, and a write sets both thresholds; as the cycle of an estimate or a write ends, the new estimate is
compared with the new thresholds, once; a status bit that becomes set is told to the host, and a 1 written to it clears it. -/
def Says.RemainingLifeIsCompared : Prop :=
  ∀ (s : State) (die p10 est warn crit : Nat) (cw cc : Bool), die < 6 → s.booted = true →
    let d := tget {} s.dies die
    let notes (w c : Bool) : List (Nat × Nat) := (if w && !d.warn then [(4, 2 * die)] else []) ++ if c && !d.crit then [(4, 2 * die + 1)] else []
    let low := min (p10 % 2 ^ 32) (est % 2 ^ 32)
    (d.at_ + 3600 * 10 ^ 9 ≤ s.clock.run → ∃ t, exec (.lifeEstimate die p10 est) s = .next t ∧ t.mgmt = s.mgmt ∧ tget {} t.dies die =
      { d with p10 := low, est := est % 2 ^ 32, valid := true, at_ := d.at_ + 3600 * 10 ^ 9, cmp := true }) ∧
    (s.clock.run < d.at_ + 3600 * 10 ^ 9 → exec (.lifeEstimate die p10 est) s = .next s) ∧
    (∃ t, exec (.eolalrWrite die warn crit) s = .next t ∧ t.mgmt = s.mgmt ∧ tget {} t.dies die =
      { d with warnAt := warn % 2 ^ 32, critAt := crit % 2 ^ 32, cmp := true }) ∧
    (∀ n, d.cmp = true → s.errs = [] → (s.dies.map Prod.fst).Nodup → (∀ e ∈ s.dies, e.1 ≠ die → e.2.cmp = false) → Says.passing s n (fun t =>
      let w := decide (d.p10 < d.warnAt)
      let c := decide (d.p10 < d.critAt)
      tget {} t.dies die = { d with warn := d.warn || w, crit := d.crit || c, cmp := false } ∧ t.mem = s.mem ∧ t.mgmt.notes = s.mgmt.notes ++ notes w c)) ∧
    ∃ t, exec (.eolstsClear die cw cc) s = .next t ∧ tget {} t.dies die = { d with warn := d.warn && !cw, crit := d.crit && !cc }

/-- R464 to R466 and R5: corrected errors count and change nothing else; an uncorrected one counts and is handled by what it hits, a context that it
hits being killed as the cycle ends, unless another reason has killed it; a management register takes its write once bring-up is complete, and a read-only one ignores it. -/
def Says.ErrorsCountAndRegistersTakeWrites : Prop :=
  ∀ (s : State) (die sl q k : Nat) (hbm : Bool) (v : List Nat),
    let d := tget {} s.dies die
    let ue (t : State) : Prop := die < 6 → (tget {} t.dies die).ue = (d.ue + 1) % 2 ^ 64
    let f (n : Nat) : Nat := v.getD n 0
    let sets (reg : MgmtReg) (p : State → Prop) : Prop := ∃ t, exec (.mgmtRegisterWrite reg v) s = .next t ∧ t.mem = s.mem ∧ t.gangs = s.gangs ∧ p t
    (die < 6 → ∃ t, exec (.correctedError die hbm) s = .next t ∧ t.mem = s.mem ∧ t.gangs = s.gangs ∧ tget {} t.dies die =
      if hbm then { d with hbmce := (d.hbmce + 1) % 2 ^ 64 } else { d with sramce := (d.sramce + 1) % 2 ^ 64 }) ∧
    ((s.ctx (cxOf sl k)).live = true → ∃ t, exec (.uncorrectedError die sl (.context k)) s = .next t ∧ ue t ∧ t.errs = s.errs ++ [cxOf sl k] ∧ t.ctxs = s.ctxs) ∧
    (k < 8 → s.errs = [cxOf sl k] → ∀ n, ((s.ctx (cxOf sl k)).live = true → Says.passing s n (fun t => Killed s t (cxOf sl k) 0x84)) ∧
      ((s.ctx (cxOf sl k)).live = false → Says.passing s n (fun t => t.mgmt.kills = s.mgmt.kills ∧ t.errs = []))) ∧
    (∃ t, exec (.uncorrectedError die sl .cleanLine) s = .next t ∧ ue t ∧ t.mem = s.mem ∧ t.gangs = s.gangs ∧ t.ctxs = s.ctxs) ∧
    (∃ t, exec (.uncorrectedError die sl (.class13 q k)) s = .next t ∧ ue t ∧ (t.quad (qkOf sl q)).tlb = (s.quad (qkOf sl q)).tlb.eraseIdx k ∧
      t.mem = s.mem ∧ t.ctxs = s.ctxs) ∧
    (∃ t, exec (.uncorrectedError die sl (.clusTlb q k)) s = .next t ∧ ue t ∧ (t.cluster (clkOf sl q)).tlb = (s.cluster (clkOf sl q)).tlb.eraseIdx k ∧
      t.mem = s.mem ∧ t.ctxs = s.ctxs) ∧
    (∃ t, exec (.uncorrectedError die sl (.cell q k)) s = .next t ∧ ((t.core (ckOf sl q)).mad.cell k).bad = true ∧ t.dies = s.dies ∧ t.ctxs = s.ctxs) ∧
    (∃ t, exec (.uncorrectedError die sl (.products q k)) s = .next t ∧ (t.cluster (clkOf sl q)).mxErr = (s.cluster (clkOf sl q)).mxErr + k ∧
      t.dies = s.dies ∧ t.ctxs = s.ctxs) ∧
    (∃ t, exec (.uncorrectedError die sl .package) s = .next t ∧ ue t ∧ t.booted = false ∧ ∀ e ∈ s.ctxs, e.2.live = true → e.1 ∈ t.errs) ∧
    (s.booted = false → ∀ reg, exec (.mgmtRegisterWrite reg v) s = .next s) ∧
    (s.booted = true →
      (k < 64 → sets (.ways k) (fun t => (t.vf k).ways = f 0 % 65536)) ∧
      (sl < 16 → v.length ≤ 128 → (∀ u ∈ v, u < 128) → v.Nodup → (∀ e ∈ s.slices, e.1 ≠ sl → ∀ u ∈ v, u ∉ e.2.units) →
        sets (.units sl) (fun t => (t.slice sl).units = v)) ∧
      (k < 4096 → sets (.table k) (fun t => let x := tget {} t.mgmt.table k
        x.period = f 0 % 2 ^ 64 ∧ x.offset = f 1 % 2 ^ 64 ∧ x.target = f 2 % 2 ^ 64 ∧ x.ctl = f 3 % 32 ∧ x.slice = f 4 % 256 ∧ x.vf = f 5 % 256 ∧
        let y := tget {} s.mgmt.table k
        x.skips = BitVec.ofNat 32 (f 6) ∧ x.running = y.running ∧ x.pending = y.pending ∧ x.unread = y.unread)) ∧
      (k < 64 → (∀ e ∈ s.vfs, e.1 ≠ k → Nat.land e.2.slots (f 0 % 256) = 0) → sets (.slots k) (fun t => (t.vf k).slots = f 0 % 256)) ∧
      ((s.ctx (cxOf sl k)).live = true → sets (.debug sl k) (fun t => (t.ctx (cxOf sl k)).dbg =
        { (s.ctx (cxOf sl k)).dbg with frz := decide (f 0 % 2 = 1), bpen := decide (f 1 % 2 = 1) })) ∧
      (k < 1024 → sets (.aperture k) (fun t => tget (0, 0) t.links.apertures k = (f 0 % 65536, f 1 % 2 ^ 64))) ∧
      (k < 65536 → die < 2 → v.length ≤ 8 → (∀ n ∈ v, n < 96) → sets (.peer die k) (fun t => tget [] t.links.peers (65536 * die + k) = v ∧
        ∀ n, n ≠ 65536 * die + k → tget [] t.links.peers n = tget [] s.links.peers n)) ∧
      (k < 64 → f 0 < 16 → (∀ e ∈ s.ctxs, e.2.live = true → e.2.vf = k → e.1 / 8 = f 0) → sets (.binding k) (fun t => (t.vf k).slice = f 0)) ∧
      exec (.mgmtRegisterWrite .readOnly v) s = .next s)

/-! ## Encodings (08:R204 to R206, R211, R212) -/

/-- Decoding the word of a well-formed instruction gives the instruction back, every operand at every value. -/
def Obligations.DecodeEncodeRoundTrip : Prop :=
  ∀ (i : Instr) (w : W32), i.ill = none → encode i = some w → decodeWord w = .ok i

/-- A word that decodes is the word of its instruction, which is well formed: no bit of it is passed over. -/
def Obligations.EveryBitOfALegalWordIsRead : Prop :=
  ∀ (w : W32) (i : Instr), decodeWord w = .ok i → i.ill = none ∧ encode i = some w

/-- The bytes of a word are read lowest first, one word at a time (00:R4, 08:R204). -/
def Says.WordsAreReadLowestByteFirst : Prop :=
  (∀ (w : W32) (rest : List Byte), decode (bytesOfWord w ++ rest) = (decodeWord w).map (fun i => (i, rest))) ∧
  ∀ bs : List Byte, bs.length < 4 → decode bs = .error .shortWord

/-- Words written out from the tables of 08:R204, R205 and R211; the first two are the examples of R206. -/
def Obligations.SampleWordsDecode : Prop :=
  decodeWord 0x67190a00#32 = .ok (.fadd 3#3 3#5 4#5 5#5 0#4) ∧
  decodeWord 0x01098fba#32 = .ok (.sel 0#3 1#5 6#5 7#5 10#4) ∧
  decodeWord 0x00000000#32 = .ok (.nop 0#3) ∧
  decodeWord 0x030887ff#32 = .ok (.addi 0#3 1#5 2#5 0x7ff#11) ∧
  decodeWord 0x042dbeef#32 = .ok (.movk 0#3 5#5 1#2 0xbeef#16) ∧
  decodeWord 0x0910c165#32 = .ok (.ldSx 0#3 2#5 3#5 5#8 2#2 1#2) ∧
  decodeWord 0x0c214ca5#32 = .ok (.fatomCas 0#3 4#5 5#5 6#5 2#3 1#2) ∧
  decodeWord 0x0e13fffe#32 = .ok (.br 0#3 1#4 0x3fffe#18) ∧
  decodeWord 0x0f12342a#32 = .ok (.spawn 0#3 0x1234#16 10#4) ∧
  decodeWord 0x108e000c#32 = .ok (.loop 0#3 2#2 7#5 12#14) ∧
  decodeWord 0x1a480010#32 = .ok (.csrr 0#3 9#5 0x010#12) ∧
  decodeWord 0xffffffff#32 = .error .reservedMajor

/-- The 261 rows of the opcode table that have bits: the words of a row hold its value under its mask (08:R211, spec/opcode_table.json). -/
def Says.opcodeRows : List (Nat × List Nat) :=
  [(0x1fffffff, [0x00000000, 0x00000020, 0x00000030, 0x00000040, 0x00000060, 0x00000070, 0x00000080]), (0x1ffffff0, [0x00000010, 0x0f000070]),
    (0x1fffc1f0, [0x00000050]), (0x1ff83fff, [0x00000090, 0x17000010, 0x17000040, 0x17000050]), (0x1f0001f0, [0x01000000, 0x01000010, 0x01000020,
    0x01000030, 0x01000040, 0x01000050, 0x01000060, 0x01000070, 0x01000080, 0x01000090, 0x010000a0, 0x010000b0, 0x010000c0, 0x010000d0, 0x010000e0,
    0x010000f0, 0x010001b0, 0x02000000, 0x02000010, 0x02000020, 0x02000030, 0x02000040, 0x02000050, 0x02000060, 0x02000070, 0x02000080, 0x02000090,
    0x020000a0, 0x020000b0, 0x020000c0, 0x020000d0, 0x020000e0, 0x020000f0, 0x020001b0, 0x05000000, 0x05000010, 0x05000020, 0x05000030, 0x05000040,
    0x05000050, 0x05000060, 0x05000070, 0x05000080, 0x05000090, 0x050000a0, 0x050000b0, 0x050000c0, 0x050000d0, 0x07000000, 0x07000010, 0x07000020,
    0x07000030, 0x07000040, 0x07000050, 0x07000060, 0x07000070, 0x070000a0, 0x07000120, 0x11000000, 0x12000000, 0x12000010, 0x12000020, 0x13000030]),
    (0x1f003ff0, [0x01000100, 0x01000110, 0x01000120, 0x01000130, 0x01000140, 0x01000150, 0x01000160, 0x01000170, 0x01000180, 0x01000190, 0x010001a0,
    0x02000100, 0x02000110, 0x02000120, 0x02000130, 0x02000140, 0x02000190, 0x020001a0, 0x07000080, 0x07000090, 0x070000b0, 0x070000c0, 0x070000d0,
    0x070000e0, 0x070000f0, 0x07000100, 0x07000110, 0x07000130, 0x08000000, 0x08000020, 0x08000040, 0x08000060, 0x08000080, 0x08000090, 0x080000a0,
    0x080000b0, 0x080000c0, 0x080000d0, 0x12000060, 0x12000070, 0x12000080, 0x13000050, 0x170000a0]), (0x1f003800, [0x03000000, 0x03000800,
    0x03001000, 0x03001800, 0x03003800]), (0x1f003fc0, [0x03002000, 0x03002800, 0x03003000]), (0x1f040000, [0x04000000, 0x04040000]), (0x1fc001f0,
    [0x06000000, 0x06000010, 0x06000020, 0x06000030, 0x06000040, 0x06000050, 0x06000060, 0x06000070, 0x06000080, 0x06000090]), (0x1fc631f0,
    [0x060000a0, 0x060000b0, 0x060000c0, 0x060000d0]), (0x1f001ff0, [0x08000010, 0x08000030, 0x08000050, 0x08000070, 0x080000e0, 0x080000f0]),
    (0x1f000003, [0x09000000, 0x09000001, 0x09000002]), (0x1f060003, [0x09000003]), (0x1f00000f, [0x0a000000, 0x0a000001]), (0x1f06000f,
    [0x0a000002]), (0x1f0001fc, [0x0b000000, 0x0b000004, 0x0b000008, 0x0b00000c, 0x0b000010, 0x0b000014, 0x0b000018, 0x0b00001c, 0x0b000020,
    0x0b000024, 0x0b000028]), (0x1f00003c, [0x0c000000, 0x0c000004, 0x0c000008, 0x0c00000c, 0x0c000010, 0x0c000014, 0x0c000018, 0x0c00001c,
    0x0c000020, 0x0c000024, 0x0c000028]), (0x1f003e3c, [0x0c00002c]), (0x1ff8003c, [0x0c000030]), (0x1ffff9ff, [0x0d000000]), (0x1ffc39ff,
    [0x0d000010, 0x0d000020]), (0x1f0439ff, [0x0d000030, 0x0d000040, 0x0d000050]), (0x1f0421ff, [0x0d000060]), (0x1f0c39ff, [0x0d000070, 0x0d000080]),
    (0x1ff839ff, [0x0d000090, 0x0d0000a0, 0x0d0000b0, 0x0d0000c0, 0x17000000, 0x17000060]), (0x1f0c0000, [0x0e000000, 0x0e040000]), (0x1ffc0000,
    [0x0e080000]), (0x1f0000f0, [0x0f000000, 0x0f000010, 0x0f000020, 0x0f000030, 0x0f000040]), (0x1fffe0f0, [0x0f000050, 0x0f000060, 0x0f000080]),
    (0x1f01c000, [0x10000000]), (0x1f01ffff, [0x10004000, 0x10014000]), (0x1fc1fff8, [0x10008000]), (0x1f01fff8, [0x1000c000]), (0x1f3ffff0,
    [0x10010000]), (0x1f07c1ff, [0x11000010, 0x11000020, 0x11000030, 0x1b000020]), (0x1fffc1ff, [0x11000040, 0x15000040, 0x16000020]), (0x1fc63ff0,
    [0x12000030, 0x12000040]), (0x1f063ff0, [0x12000050]), (0x1f07fff0, [0x12000090, 0x120000a0]), (0x1ff83ff0, [0x13000000]), (0x1ff801f0,
    [0x13000010, 0x13000020, 0x13000040, 0x17000020, 0x17000030]), (0x1f083ff0, [0x13000060]), (0x1ff401ff, [0x14000000]), (0x1fc03fff, [0x14000010]),
    (0x1fc43dff, [0x14000020, 0x14000030]), (0x1fc43fff, [0x14000040, 0x14000050]), (0x1f063fff, [0x14000060]), (0x1f0003ff, [0x15000000]),
    (0x1f8401ff, [0x15000010]), (0x1f0001ff, [0x15000020]), (0x1ff803ff, [0x15000030]), (0x1f0803ff, [0x15000050]), (0x1f1801ff, [0x16000000]),
    (0x1ff801ff, [0x16000010]), (0x1fffe1ff, [0x17000070]), (0x1ff83df0, [0x17000080]), (0x1f003df0, [0x17000090]), (0x1f0ff9ff, [0x18000000]),
    (0x1f07f9ff, [0x18000010, 0x1b000010, 0x1b000030]), (0x1ff701ff, [0x18000020]), (0x1f073fff, [0x18000030]), (0x1f00001f, [0x19000000]),
    (0x1f07f000, [0x1a000000]), (0x1ff83000, [0x1a001000, 0x1a002000, 0x1a003000]), (0x1f003fff, [0x1b000000])]

/-- R212, R205, R206, R210, R232, R251, R268 and R324: a word of no row of the opcode table, which covers every reserved opcode and member and every field marked zero, is
illegal; so is `0b1000` as a guard or condition, a reserved size, an odd register of a pair, a destination that a commutative use does not write, code 0
of `trap`, length 0 of `loop`, mask 0 of `dstop`, and an unassigned control register. -/
def Says.ReservedWordsAreIllegal : Prop :=
  ∀ w : W32,
    let op := wbits (w.setWidth 64) 24 5
    let part (lo n : Nat) : Nat := wbits (w.setWidth 64) lo n
    let guarded : List Nat := [0x00, 0x01, 0x02, 0x05, 0x06, 0x07, 0x08, 0x0d, 0x0f, 0x11, 0x12, 0x13, 0x14, 0x15, 0x16, 0x17, 0x18, 0x1b]
    ((∀ e ∈ Says.opcodeRows, ∀ v ∈ e.2, w.toNat.land e.1 ≠ v) ∨ op ∈ guarded ∧ part 0 4 = 8 ∨ op = 0x0e ∧ part 18 2 < 2 ∧ part 20 4 = 8 ∨
      (op = 0x0b ∨ op = 0x0c) ∧ (part 0 2 = 3 ∨ part 0 2 = 2 ∧ (part 19 1 = 1 ∨ part 9 1 = 1)) ∨ op = 0x0c ∧ part 6 3 = 1 ∧ part 19 5 ≠ 0 ∨
      op = 0x00 ∧ part 4 5 = 5 ∧ part 9 5 = 0 ∨ op = 0x10 ∧ part 14 3 = 0 ∧ part 0 14 = 0 ∨ op = 0x17 ∧ part 4 5 = 7 ∧ part 9 4 = 0 ∨
      op = 0x1a ∧ csrAssigned (part 0 12) = false) →
    ∃ r, decodeWord w = .error r

/-! ## Steps (20:R418, 08:R213, 03:R83) -/

/-- The state in which the gang in focus issues: the issue cycle has come, the writes due by then have landed, and a chunk is open. -/
def Says.issuing (s : State) : State :=
  let v := s.toIssue s.cur
  v.modGang v.cur (fun g => g.openChunk v.fresh)

/-- A step performs the word at the pc of the gang that its core issues from, in the issuing state, in which what fell due until then has happened; a word that is
no instruction traps there with cause 1, one whose destination has a load or the like outstanding waits, and a trap found earlier is taken first. Where nothing fell due,
only time has passed. That an event which the agenda names is performed instead, and which agent acts at an empty agenda, is log 1 (DESIGN CHOICE); which
lanes a short stall looks at is log 22 (DESIGN CHOICE). -/
def Obligations.AStepRunsTheDecodedInstruction : Prop :=
  ∀ (s : State) (i : Instr),
    let v := s.toIssue s.cur
    let g := v.gang v.cur
    let u := Says.issuing s
    let w := u.word
    let dests := (u.gang u.cur).outstanding w (operandsOf w).wr
    let ready : Prop := v.mayRun (slOfGk s.cur) = true ∧ (v.gang s.cur).canIssue = true
    (s.power.on = true → s.agenda = [] → s.pickSlot (ckOfGk s.cur) = some (slotOfGk s.cur) →
      (ready → g.ch.count < 512 →
        (g.trapDue.isSome = true → step s = .next u.takeDue) ∧
        (g.trapDue = none → (g.efaults = [] ∨ g.r.tr.tlvl ≠ 0) → g.r.blk.start ≤ g.r.pc → g.r.pc < g.r.blk.start + g.r.blk.len →
          (decodeWord w = .ok i → u.shortStall w = false → u.badCapture w = false →
            (dests = [] → ((u.gang u.cur).acquiring = false ∨ accesses w = false) → step s = exec i u) ∧
            ((∃ p ∈ dests, p.land = none) → step s = .next (u.waitFor .counter))) ∧
          ∀ r, decodeWord w = .error r → step s = .next (u.trapAll 0x01))) ∧
      (s.calm (s.issueAt s.cur - s.now) = true → ready ∧ v.cur = s.cur ∧ u.cur = s.cur ∧ u.now = max s.now (s.issueAt s.cur) ∧ u.mem = s.mem ∧
        (g.r.rep = none → w = s.wordAt s.cur (s.gang s.cur).r.pc) ∧ ((s.gang s.cur).ch.count < 512 → g.ch.count < 512) ∧
        (g.trapDue = (s.gang s.cur).trapDue ∧ g.efaults = (s.gang s.cur).efaults ∧ g.r.pc = (s.gang s.cur).r.pc ∧ g.r.blk = (s.gang s.cur).r.blk) ∧
        (u.gang s.cur).ch.snap.isSome = true ∧ ∀ k, k ≠ s.cur → u.gang k = s.gang k)) ∧
    ∀ rest, (s.power.on = true ∨ ∃ k, i = .powerOn k) → s.agenda = .event i :: rest → encode i = none → step s = exec i { s with agenda := rest }

/-! ## Whole-machine rules -/

/-- The memory list stays in its canonical form over every step. -/
def Obligations.MemoryStaysCanonical : Prop := ∀ s t : State, s.MemOk → step s = .next t → t.MemOk

/-- Memory is canonical at reset. -/
def Obligations.ResetMemoryIsCanonical : Prop := State.reset.MemOk

/-- Reset leaves the values that the spec gives: memory lists nothing, nothing runs, registers of the tables of 04:R100, 05:R130, 05:R131, 07:R202, 08:R208, R209,
18:R387, 24:R468 to R470 hold their reset values, queues and logs are empty. That `w0` to `w23` and `w28` to `w30` hold 0 is the model's choice where the
spec gives no value (log 3, DESIGN CHOICE); `w31` is the spec's. -/
def Obligations.ResetLeavesTheSpecsValues : Prop :=
  let s := State.reset
  s.mem = [] ∧ s.MemOk ∧ s.gangs = [] ∧ s.mgmt.events = [] ∧ s.mgmt.kills = [] ∧ s.dtc = 0#64 ∧ s.ochre.retires = 0 ∧ s.ochre.tokens = 0 ∧ s.booted = false ∧ s.power.step = 0 ∧
  s.power.limit = 2300 ∧ s.power.gate = 16 ∧
  (∀ gk l n, l < 32 → n < 24 ∨ 28 ≤ n ∧ n < 32 → (s.gang gk).live = false ∧ (s.gang gk).r.rdW l n = 0#64 ∧ (s.gang gk).r.rdP l 0 = true ∧
    ((s.gang gk).r.lane l).frm = 0#3 ∧ ((s.gang gk).r.lane l).fflags = 0#5 ∧ (s.gang gk).r.tr.tlvl = 0 ∧ tget 0 (s.gang gk).sb n = 0) ∧
  (∀ ck n, tget 0#128 (s.core ck).t n = 0#128 ∧ (s.core ck).mxwt = 1 ∧ (tget {} (s.core ck).mail n).pres = false ∧ (s.core ck).deque = []) ∧
  (∀ clk, (s.cluster clk).zalloc = 0#64) ∧
  (∀ sl, (s.slice sl).running = none ∧ (s.slice sl).devq = [] ∧ (s.slice sl).units = []) ∧
  (∀ v, (s.vf v).refused = 0 ∧ (s.vf v).doneFail = 0) ∧
  ∀ d, (tget {} s.dies d).p10 = 0xffff_ffff ∧ (tget {} s.dies d).warnAt = 8760 ∧ (tget {} s.dies d).critAt = 720 ∧ (tget {} s.dies d).warn = false

/-! ## What is to be proved of several parts together -/

/-- Words are read lowest byte first, and every reserved encoding is refused: the parts named, together. -/
def Obligations.IllegalWordsAreRefused : Prop :=
  Says.WordsAreReadLowestByteFirst ∧
  Says.ReservedWordsAreIllegal

/-- Each member of IALU and of its 32-bit form writes its result in every selected lane and nothing else: the parts named, together. -/
def Obligations.IntegerWordsWriteTheirResult : Prop :=
  Says.IntegerBinaryWordsWriteTheirResult ∧
  Says.IntegerUnaryWordsWriteTheirResult ∧
  Says.IntegerHalfWordsWriteTheirResult ∧
  Says.SelectWritesEveryActiveLane

/-- Immediate members and wide constants write every active lane and nothing else: the parts named, together. -/
def Obligations.ConstantsAndImmediatesWriteEveryLane : Prop :=
  Says.ImmediateWordsWriteEveryActiveLane ∧
  Says.WideConstantsReplaceOneField

/-- Multiplies write the exact product, and divides the truncated quotient or the remainder: the parts named, together. -/
def Obligations.MultiplyAndDivideWordsWriteTheirResult : Prop :=
  Says.MultipliesWriteTheProduct ∧
  Says.DividesWriteQuotientAndRemainder

/-- Compares and predicate logic set the predicate of each selected lane and nothing else: the parts named, together. -/
def Obligations.ComparesSetThePredicate : Prop :=
  Says.IntegerComparesSetThePredicate ∧
  Says.FloatingComparesSetThePredicate

/-- Floating and conversion words write their member's result and flags in each selected lane: the parts named, together. -/
def Obligations.FloatingAndConversionWordsWriteTheirResult : Prop :=
  Says.FloatingWordsWriteTheirResult ∧
  Says.ConversionWordsWriteTheirResult

/-- NaN and infinity cases of arithmetic, and the minimum, sign and class members: the parts named, together. -/
def Obligations.ArithmeticAndMinimumCases : Prop :=
  Says.ArithmeticSpecialCases ∧
  Says.MinimumSignAndClassMembers

/-- Functions are the exact value rounded once, as far as log 8 is not needed, with the cases that value does not decide: the parts named, together. -/
def Obligations.FunctionsAreTheExactValueRounded : Prop :=
  Says.FunctionsAreRoundedOnce ∧
  Says.FunctionSpecialCases

/-- Lane words read every active lane and write the selected ones: the parts named, together. -/
def Obligations.LaneWordsReadTheActiveLanes : Prop :=
  Says.LaneWordsWriteTheirResult ∧
  Says.VotesCountActiveLanes

/-- nop, yield, brk and an unselected trap change nothing; chunk publishes what its chunk has buffered: the parts named, together. -/
def Obligations.PlainWordsAndChunkGoOn : Prop :=
  Says.PlainControlWordsGoOn ∧
  Says.ChunkPublishesItsWrites

/-- Branches jump, fall through or split the lanes, and join runs the parked path and then merges: the parts named, together. -/
def Obligations.BranchAndJoinFollowTheLanes : Prop :=
  Says.BranchesFollowTheLanes ∧
  Says.JoinRunsTheParkedPathThenMerges

/-- Loop levels start, come back, end and break as their words say: the parts named, together. -/
def Obligations.LoopsCountTheirLevels : Prop :=
  Says.LoopStartsOrSkipsItsBody ∧
  Says.LoopLevelsComeBackAndEnd ∧
  Says.LoopRegistersTakeTheirOperand ∧
  Says.LoopBreakEndsTheLevel

/-- A local call and its return slide the register window, and spill and fill the oldest frames: the parts named, together. -/
def Obligations.CallsSlideAndSpillTheWindow : Prop :=
  Says.LocalCallAndReturnSlideTheWindow ∧
  Says.SlidesSpillTheOldestFrames

/-- A word that faults traps with its cause for exactly the lanes that fault, and has none of its effect: the parts named, together. -/
def Obligations.FaultsTrapWithTheirCause : Prop :=
  Says.DivideByZeroTraps ∧
  Says.FormMisuseTraps ∧
  Says.FailedChecksTrap ∧
  Says.DisagreeingLanesTrap ∧
  Says.CommutativeMisuseTraps ∧
  Says.BarrierMisuseTraps ∧
  Says.TransferFaultsSendNothing ∧
  Says.PushChecksTrap

/-- Loads bring the bytes their chunk reads, and stores buffer theirs and change nothing else: the parts named, together. -/
def Obligations.LoadsAndStoresMoveTheirBytes : Prop :=
  Says.LoadsBringTheBytesRead ∧
  Says.StoresBufferTheirBytes ∧
  Says.FarAccessesSendOneOperation

/-- Access checks decide in the order of the table; plain places are little-endian and window elements round: the parts named, together. -/
def Obligations.PlacesAndChecksFollowTheMap : Prop :=
  Says.PlainPlacesAreLittleEndian ∧
  Says.WindowElementsRoundAndStandAlone ∧
  Says.ChecksDecideByTheEarliestRow ∧
  Says.LocalSpacesCheckTheirAccess

/-- natom reads and writes lane after lane in the chunk, and fatom sends one far operation: the parts named, together. -/
def Obligations.AtomicsReadThenWrite : Prop :=
  Says.AtomicsInTheChunkReadThenWrite ∧
  Says.FarAtomicsSendOneOperation

/-- A drained fence goes on, barrier words serve their object, and iteration counters hand out each index once: the parts named, together. -/
def Obligations.FencesBarriersAndCountersServe : Prop :=
  Says.FenceGoesOnOnceDrained ∧
  Says.BarrierMembersServeTheirObject ∧
  Says.IterationCountersHandOutRanges

/-- Transfers send one packet for each selected lane, and launch appends one record for each: the parts named, together. -/
def Obligations.TransfersAndLaunchesLeave : Prop :=
  Says.TransfersSendOnePacketForEachLane ∧
  Says.LaunchAppendsToTheDeviceQueue

/-- Wide-accumulator words add exactly and round once: the parts named, together. -/
def Obligations.AccumulatorWordsAreExact : Prop :=
  Says.AccumulatorUpdates ∧
  Says.AccumulatorRounding

/-- Matrix words queue their command, and queries hold the gang until it has answered: the parts named, together. -/
def Obligations.MatrixWordsPushAndQueriesAnswer : Prop :=
  Says.MatrixPushes ∧
  Says.QueriesHoldUntilAnswered

/-- Copy, fabric and Madder words queue their command with its operands, and tlbinv waits for its page: the parts named, together. -/
def Obligations.EngineWordsPushTheirCommand : Prop :=
  Says.CopyPushes ∧
  Says.FabricPushes ∧
  Says.MadderPushes ∧
  Says.TranslationWordWaits

/-- Chunks commit at one point, far operations are performed once, results land in order, and mail and outside writes arrive: the parts named, together. -/
def Obligations.CommitsAndResultsLand : Prop :=
  Says.CommitsPublishTheChunk ∧
  Says.FarOperationsArePerformedOnce ∧
  Says.ResultsLandInOrder ∧
  Says.DeliveriesWakesAndOutsideWrites

/-- Work queues and table slots dispatch, refuse and complete launches: the parts named, together. -/
def Obligations.QueuesAndTableSlotsDispatchLaunches : Prop :=
  Says.AppendsEnterTheirQueue ∧
  Says.TheBestHeadIsDispatched ∧
  Says.BrokenHeadsAreRefused ∧
  Says.LaunchSlotsFollowTheOverrunRule ∧
  Says.SwitchSlotsStartTheLadder ∧
  Says.FinishedLaunchesComplete

/-- Threads are injected, trains leave and enter whole, and full queues overflow, refuse and resend: the parts named, together. -/
def Obligations.PacketsTravelAndEnterWhole : Prop :=
  Says.InjectionFillsProbedReplicas ∧
  Says.CrewsGoToTheNextClusterWithRoom ∧
  Says.TrainsLeaveTheQuad ∧
  Says.TrainsEnterWhole ∧
  Says.RingsRefillAndResend

/-- Gangs form from the oldest group, the deque or stolen records: the parts named, together. -/
def Obligations.GangsFormAndStealsAnswer : Prop :=
  Says.GangsFormFromPackets ∧
  Says.GroupsWaitForGangwait ∧
  Says.StealsTakeTheOldestRecords

/-- Route caches take entries in, blocks gain and lose replicas, and the fifth sharer goes to the handler: the parts named, together. -/
def Obligations.RoutesAndReplicasFollowTheLoad : Prop :=
  Says.RouteCachesTakeEntriesIn ∧
  Says.SamplesTimeHotAndColdBlocks ∧
  Says.HotBlocksGainAndLoseReplicas ∧
  Says.TheFifthSharerTraps

/-- Sound objects load into their slot, broken ones are refused, and unloads withdraw theirs: the parts named, together. -/
def Obligations.ObjectsLoadAndUnload : Prop :=
  Says.SoundObjectsLoad ∧
  Says.UnloadsWithdrawTheObject

/-- Walks fill the caches or report, retries release, cleaning clears dirty bits, and invalidation drops a page: the parts named, together. -/
def Obligations.TranslationsWalkAndReport : Prop :=
  Says.WalksFillTheCaches ∧
  Says.FailedWalksReport ∧
  Says.RetriesReleaseTheirRecord ∧
  Says.CleaningClearsDirtyBits ∧
  Says.InvalidationDropsThePage

/-- Flits arrive and are credited, audits resend, opens back off, and blocked mesh cycles recover: the parts named, together. -/
def Obligations.StreamsAndMeshRecover : Prop :=
  Says.FlitsArriveAndTokensReturn ∧
  Says.AuditsResendWhatWasLost ∧
  Says.WaitingOpensBackOff ∧
  Says.BlockedCyclesRecover ∧
  Says.RouteTablesAreWritten

/-- Copy channels end their commands with records, and fabrics fire calls and load and drop graphs: the parts named, together. -/
def Obligations.CopiesAndFabricsCarryOut : Prop :=
  Says.CopiesEndWithARecord ∧
  Says.GraphNodesCompute ∧
  Says.FabricsFireTheirOldestCall ∧
  Says.GraphsLoadAndDrop

/-- The matrix unit starts, computes and completes its commands in order: the parts named, together. -/
def Obligations.TheMatrixUnitCarriesOut : Prop :=
  Says.TheUnitStartsAReadyCommand ∧
  Says.TheUnitCompletesInOrder ∧
  Says.MatrixStepsAddContributions

/-- Madder domains step together when due, and commands take effect between steps: the parts named, together. -/
def Obligations.TheMadderArraySteps : Prop :=
  Says.IntegratorCellsStep ∧
  Says.DueDomainsStep ∧
  Says.MadderCommandsTakeEffect ∧
  Says.TablesAndSnapshotsMove

/-- Contexts are created, taken off, saved and restored through the ladder: the parts named, together. -/
def Obligations.ContextsSwitchThroughTheLadder : Prop :=
  Says.ContextsComeAndGo ∧
  Says.TheLadderTakesAContextOff ∧
  Says.ImagesAreSavedAndRestored

/-- Scrubs, tokens, sessions, quotes and queue records guard what a context may do: the parts named, together. -/
def Obligations.ScrubsTokensAndSessionsGuard : Prop :=
  Says.ScrubsAndTokensGuardTheSwitch ∧
  Says.SessionsCountTheirRecords ∧
  Says.QuotesQueuesAndClusters

/-- Collectives sum exactly, lost links and answers are reported, and sources steer the time counter: the parts named, together. -/
def Obligations.CollectivesLinksAndClockGoOn : Prop :=
  Says.CollectivesSumStepByStep ∧
  Says.CollectiveTimersExpire ∧
  Says.LinksLoseLanesAndPorts ∧
  Says.UnansweredAccessesFault ∧
  Says.SourcesSteerTheCounter

/-- The debugger halts and writes, the gate follows power, heat and errors act, and registers take writes: the parts named, together. -/
def Obligations.DebugPowerAndHealthAct : Prop :=
  Says.TheDebuggerHaltsAndResumes ∧
  Says.TheGateFollowsThePower ∧
  Says.HeatAndPowerLossActOnThePackage ∧
  Says.RemainingLifeIsCompared ∧
  Says.ErrorsCountAndRegistersTakeWrites
end

