-- ==== Sys2Proof/Laws/Tables.lean ====
section
/-!
SUPPORT. Tables and lists: what reading gives after a write.
-/

namespace Sys2Proof.Machine

variable {α : Type}

@[simp] theorem tget_tput_same (d : α) (t : Tab α) (k : Nat) (v : α) : tget d (tput t k v) k = v := by
  induction t with
  | nil => simp [tput, tget]
  | cons e t ih =>
    obtain ⟨j, w⟩ := e
    by_cases h : j = k <;> simp [tput, tget, h, ih]

theorem tget_tput_other (d : α) (t : Tab α) (v : α) {n k : Nat} (h : n ≠ k) : tget d (tput t k v) n = tget d t n := by
  induction t with
  | nil => simp [tput, tget, Ne.symm h]
  | cons e t ih =>
    obtain ⟨j, w⟩ := e
    by_cases hj : j = k
    · subst hj; simp [tput, tget, Ne.symm h]
    · simp only [tput, if_neg hj, tget, ih]

/-- A read after a write, for any two keys. -/
theorem tget_tput (d : α) (t : Tab α) (n k : Nat) (v : α) : tget d (tput t k v) n = if n = k then v else tget d t n := by
  by_cases h : n = k
  · subst h; simp
  · simp [h, tget_tput_other d t v h]

/-- The later of two writes of a key stands. -/
@[simp] theorem tput_tput_same (t : Tab α) (k : Nat) (v w : α) : tput (tput t k v) k w = tput t k w := by
  induction t with
  | nil => simp [tput]
  | cons e t ih =>
    obtain ⟨j, x⟩ := e
    by_cases h : j = k <;> simp [tput, h, ih]

end Sys2Proof.Machine
end

