-- ==== Sys2Proof/Laws/Memory.lean ====
section
/-!
SUPPORT. The memory list: reads after writes, and its canonical form under every operation.
-/

namespace Sys2Proof.Machine

/-! ## Reads after writes -/

theorem get_below (m : List Host.Cell) (b k : Nat) (h : Memory.above (some b) m = true) (hk : k ≤ b) :
    Memory.get m k = unlistedByte k := by
  induction m generalizing b with
  | nil => rfl
  | cons e t ih =>
    obtain ⟨a, v⟩ := e
    simp only [Memory.above, Bool.and_eq_true, decide_eq_true_eq] at h
    have hne : a ≠ k := by omega
    simp [Memory.get, hne, ih a h.2 (by omega)]

theorem get_set_same (m : List Host.Cell) (k : Nat) (v : Byte) (b : Option Nat) (h : Memory.above b m = true) :
    Memory.get (Memory.set m k v) k = v := by
  induction m generalizing b with
  | nil => by_cases hv : v = unlistedByte k <;> simp [Memory.set, Memory.get, hv]
  | cons e t ih =>
    obtain ⟨a, w⟩ := e
    simp only [Memory.above, Bool.and_eq_true] at h
    by_cases h1 : k < a
    · by_cases hv : v = unlistedByte k
      · have : a ≠ k := by omega
        simp [Memory.set, h1, hv, Memory.get, this, get_below t a k h.2 (by omega)]
      · simp [Memory.set, h1, hv, Memory.get]
    · by_cases h2 : k = a
      · subst h2
        by_cases hv : v = unlistedByte k
        · simp [Memory.set, hv, get_below t k k h.2 (le_refl k)]
        · simp [Memory.set, hv, Memory.get]
      · simp [Memory.set, h1, h2, Memory.get, Ne.symm h2, ih (some a) h.2]

theorem get_set_other (m : List Host.Cell) (k n : Nat) (v : Byte) (hn : n ≠ k) (b : Option Nat) (h : Memory.above b m = true) :
    Memory.get (Memory.set m k v) n = Memory.get m n := by
  induction m generalizing b with
  | nil => by_cases hv : v = unlistedByte k <;> simp [Memory.set, Memory.get, hv, Ne.symm hn]
  | cons e t ih =>
    obtain ⟨a, w⟩ := e
    simp only [Memory.above, Bool.and_eq_true] at h
    by_cases h1 : k < a
    · by_cases hv : v = unlistedByte k <;> simp [Memory.set, h1, hv, Memory.get, Ne.symm hn]
    · by_cases h2 : k = a
      · subst h2
        by_cases hv : v = unlistedByte k <;> simp [Memory.set, hv, Memory.get, Ne.symm hn]
      · simp only [Memory.set, if_neg h1, if_neg h2, Memory.get, ih (some a) h.2]

/-- A byte read after a byte was written. -/
theorem get_set (m : List Host.Cell) (k n : Nat) (v : Byte) (h : Memory.wf m = true) :
    Memory.get (Memory.set m k v) n = if n = k then v else Memory.get m n := by
  by_cases hn : n = k
  · subst hn; simp [get_set_same m n v none h]
  · simp [hn, get_set_other m k n v hn none h]

/-! ## The canonical form -/

theorem above_set (m : List Host.Cell) (k : Nat) (v : Byte) (b : Option Nat) (hb : ∀ x, b = some x → x < k)
    (h : Memory.above b m = true) : Memory.above b (Memory.set m k v) = true := by
  induction m generalizing b with
  | nil => by_cases hv : v = unlistedByte k <;> cases b <;> simp_all [Memory.set, Memory.above]
  | cons e t ih =>
    obtain ⟨a, w⟩ := e
    have h' := h
    simp only [Memory.above, Bool.and_eq_true, decide_eq_true_eq] at h
    by_cases h1 : k < a
    · by_cases hv : v = unlistedByte k
      · simpa [Memory.set, h1, hv] using h'
      · cases b <;> simp_all [Memory.set, Memory.above]
    · by_cases h2 : k = a
      · subst h2
        by_cases hv : v = unlistedByte k
        · simp only [Memory.set, lt_irrefl, if_false, if_true, hv]
          refine ?_
          cases b with
          | none => exact above_none t k h.2
          | some x => exact above_weaken t k x h.2 (hb x rfl)
        · simp only [Memory.set, lt_irrefl, if_false, if_true, hv, Memory.above, Bool.and_eq_true, decide_eq_true_eq]
          exact ⟨⟨h.1.1, hv⟩, h.2⟩
      · simp only [Memory.set, h1, h2, if_false, Memory.above, Bool.and_eq_true, decide_eq_true_eq]
        refine ⟨h.1, ih (some a) ?_ h.2⟩
        intro x hx
        simp only [Option.some.injEq] at hx
        omega
where
  above_weaken (t : List Host.Cell) (k x : Nat) (h : Memory.above (some k) t = true) (hx : x < k) :
      Memory.above (some x) t = true := by
    cases t with
    | nil => rfl
    | cons e t =>
      simp only [Memory.above, Bool.and_eq_true, decide_eq_true_eq] at h ⊢
      exact ⟨⟨by omega, h.1.2⟩, h.2⟩
  above_none (t : List Host.Cell) (k : Nat) (h : Memory.above (some k) t = true) : Memory.above none t = true := by
    cases t with
    | nil => rfl
    | cons e t =>
      simp only [Memory.above, Bool.and_eq_true, decide_eq_true_eq] at h ⊢
      exact ⟨⟨trivial, h.1.2⟩, h.2⟩

/-- Writing a byte keeps the canonical form. -/
theorem wf_set (m : List Host.Cell) (k : Nat) (v : Byte) (h : Memory.wf m = true) : Memory.wf (Memory.set m k v) = true :=
  above_set m k v none (by simp) h

/-- Writing consecutive bytes keeps the canonical form. -/
theorem wf_setBytes (m : List Host.Cell) (loc : Nat) (bs : List Byte) (h : Memory.wf m = true) :
    Memory.wf (Memory.setBytes m loc bs) = true := by
  induction bs generalizing m loc with
  | nil => exact h
  | cons b t ih => exact ih _ _ (wf_set m loc b h)

/-- Writing single bytes keeps the canonical form. -/
theorem wf_setAll (m : List Host.Cell) (ws : List (Nat × Byte)) (h : Memory.wf m = true) : Memory.wf (Memory.setAll m ws) = true := by
  induction ws generalizing m with
  | nil => exact h
  | cons w t ih => exact ih _ (wf_set m w.1 w.2 h)

theorem above_filter (m : List Host.Cell) (p : Host.Cell → Bool) (b : Option Nat) (h : Memory.above b m = true) :
    Memory.above b (m.filter p) = true := by
  induction m generalizing b with
  | nil => rfl
  | cons e t ih =>
    obtain ⟨a, v⟩ := e
    simp only [Memory.above, Bool.and_eq_true, decide_eq_true_eq] at h
    by_cases hp : p (a, v) = true
    · simp only [List.filter_cons, hp, if_true, Memory.above, Bool.and_eq_true, decide_eq_true_eq]
      exact ⟨h.1, ih (some a) h.2⟩
    · simp only [List.filter_cons, hp, Bool.false_eq_true, if_false]
      cases b with
      | none => exact above_set.above_none _ a (ih (some a) h.2)
      | some x => exact above_set.above_weaken _ a x (ih (some a) h.2) (by simpa using h.1.1)

/-- Dropping locations keeps the canonical form. -/
theorem wf_filter (m : List Host.Cell) (p : Host.Cell → Bool) (h : Memory.wf m = true) : Memory.wf (m.filter p) = true :=
  above_filter m p none h

/-- The empty memory is in canonical form. -/
theorem wf_nil : Memory.wf [] = true := rfl

/-! ## Bytes under a key -/

/-- Putting a sector under a key keeps the canonical form. -/
theorem wf_rekey (s : State) (key sec : Nat) (h : Memory.wf s.mem = true) : Memory.wf (s.rekey key sec).mem = true := by
  unfold State.rekey
  generalize s.rdBytes key (sec * 256) 256 = bs
  dsimp only
  split
  · exact h
  · split
    · exact h
    · exact wf_setBytes _ _ _ h

/-- Writing a byte under a key keeps the canonical form. -/
theorem wf_wrByte (s : State) (key loc : Nat) (b : Byte) (h : Memory.wf s.mem = true) : Memory.wf (s.wrByte key loc b).mem = true := by
  unfold State.wrByte
  dsimp only
  split
  · exact wf_set _ _ _ (wf_rekey s _ _ h)
  · exact wf_set _ _ _ h

/-- Writing single bytes in turn under a key keeps the canonical form. -/
theorem wf_putAll (s : State) (key : Nat) (ws : List (Nat × Byte)) (h : Memory.wf s.mem = true) :
    Memory.wf (s.putAll key ws).mem = true := by
  induction ws generalizing s with
  | nil => exact h
  | cons w t ih => exact ih _ (wf_wrByte s key w.1 w.2 h)

/-- One change of memory keeps the canonical form. -/
theorem wf_wrAll (s : State) (key : Nat) (ws : List (Nat × Byte)) (h : Memory.wf s.mem = true) :
    Memory.wf (s.wrAll key ws).mem = true := wf_putAll _ key ws h

/-- Writing consecutive bytes under a key keeps the canonical form. -/
theorem wf_wrBytes (s : State) (key loc : Nat) (bs : List Byte) (h : Memory.wf s.mem = true) :
    Memory.wf (s.wrBytes key loc bs).mem = true := wf_wrAll s key _ h

/-! ## A location that is not written -/

/-- Writing a byte leaves the bytes of other locations, where the sector is under the key already or has none. -/
theorem get_wrByte_other (s : State) (key loc n : Nat) (b : Byte) (h : Memory.wf s.mem = true)
    (hk : tget 0 s.keyOf (loc / 256) = key ∨ tget 0 s.keyOf (loc / 256) = 0) (hn : n ≠ s.links.home loc) :
    Memory.get (s.wrByte key loc b).mem n = Memory.get s.mem n := by
  have hm : (s.rekey key (loc / 256)).mem = s.mem ∧ (s.rekey key (loc / 256)).links = s.links := by
    unfold State.rekey
    generalize s.rdBytes key (loc / 256 * 256) 256 = bs
    dsimp only
    split
    · exact ⟨rfl, rfl⟩
    · rename_i h1
      rw [if_pos (hk.resolve_left h1)]
      exact ⟨rfl, rfl⟩
  unfold State.wrByte
  dsimp only
  split
  · rw [hm.1, hm.2]
    exact get_set_other _ _ _ _ hn none h
  · exact get_set_other _ _ _ _ hn none h

/-- The key of a sector after a byte has been written: the byte's own sector is under the key, or nothing has changed. -/
theorem keyOf_wrByte (s : State) (key loc sec : Nat) (b : Byte) :
    tget 0 (s.wrByte key loc b).keyOf sec = tget 0 s.keyOf sec ∨ sec = loc / 256 ∧ tget 0 (s.wrByte key loc b).keyOf sec = key := by
  unfold State.wrByte State.rekey
  generalize s.rdBytes key (loc / 256 * 256) 256 = bs
  dsimp only
  by_cases he : sec = loc / 256
  · subst he
    by_cases h : tget 0 s.keyOf (loc / 256) = key
    · rw [if_pos h]; left; split_ifs <;> rfl
    · rw [if_neg h]
      split_ifs
      · exact .inr ⟨rfl, tget_tput_same _ _ _ _⟩
      · exact .inr ⟨rfl, tget_tput_same _ _ _ _⟩
      · exact .inl rfl
  · left
    split_ifs <;> first | rfl | exact tget_tput_other _ _ _ he

/-- Writing bytes changes the memory list and the sectors' keys, and nothing else. -/
theorem putAll_shape (key : Nat) (ws : List (Nat × Byte)) (s : State) : ∃ m k, s.putAll key ws = { s with mem := m, keyOf := k } := by
  induction ws generalizing s with
  | nil => exact ⟨s.mem, s.keyOf, rfl⟩
  | cons w t ih =>
    have h1 : ∃ m k, s.wrByte key w.1 w.2 = { s with mem := m, keyOf := k } := by
      unfold State.wrByte State.rekey
      generalize s.rdBytes key (w.1 / 256 * 256) 256 = bs
      dsimp only
      split_ifs <;> exact ⟨_, _, rfl⟩
    obtain ⟨m, k, h2⟩ := ih (s.wrByte key w.1 w.2)
    obtain ⟨m', k', h3⟩ := h1
    exact ⟨m, k, by show (s.wrByte key w.1 w.2).putAll key t = _; rw [h2, h3]⟩

/-- Bytes written one after the other leave another location and the key of another sector, where their sectors are under the key already
or have none. -/
theorem putAll_other (key n sec : Nat) (ws : List (Nat × Byte)) (s : State) (h : Memory.wf s.mem = true)
    (hk : ∀ e ∈ ws, tget 0 s.keyOf (e.1 / 256) = key ∨ tget 0 s.keyOf (e.1 / 256) = 0)
    (hn : ∀ e ∈ ws, n ≠ s.links.home e.1 ∧ sec ≠ e.1 / 256) :
    Memory.get (s.putAll key ws).mem n = Memory.get s.mem n ∧ tget 0 (s.putAll key ws).keyOf sec = tget 0 s.keyOf sec := by
  induction ws generalizing s with
  | nil => exact ⟨rfl, rfl⟩
  | cons w t ih =>
    have hl : (s.wrByte key w.1 w.2).links = s.links := by
      unfold State.wrByte State.rekey
      generalize s.rdBytes key (w.1 / 256 * 256) 256 = bs
      dsimp only
      split_ifs <;> rfl
    have h0 : w ∈ w :: t := List.mem_cons_self
    have := ih (s.wrByte key w.1 w.2) (wf_wrByte s key w.1 w.2 h)
      (fun e he => by
        rcases keyOf_wrByte s key w.1 (e.1 / 256) w.2 with h1 | h1
        · rw [h1]; exact hk e (List.mem_cons_of_mem _ he)
        · exact .inl h1.2)
      (fun e he => by rw [hl]; exact hn e (List.mem_cons_of_mem _ he))
    refine ⟨this.1.trans (get_wrByte_other s key w.1 n w.2 h (hk w h0) (hn w h0).1), this.2.trans ?_⟩
    rcases keyOf_wrByte s key w.1 sec w.2 with h1 | h1
    · exact h1
    · exact absurd h1.1 (hn w h0).2

end Sys2Proof.Machine
end

