-- ==== Sys2Proof/Laws/State.lean ====
section
/-!
SUPPORT. Each update of the state seen through each field and each accessor.
-/

namespace Sys2Proof.Machine

variable (s : State) (k n : Nat)

/-! ## Gang -/

@[simp] theorem setGang_now (v : Gang) : (s.setGang k v).now = s.now := rfl
@[simp] theorem modGang_now (u : Gang → Gang) : (s.modGang k u).now = s.now := rfl
@[simp] theorem setGang_cur (v : Gang) : (s.setGang k v).cur = s.cur := rfl
@[simp] theorem modGang_cur (u : Gang → Gang) : (s.modGang k u).cur = s.cur := rfl
@[simp] theorem setGang_agenda (v : Gang) : (s.setGang k v).agenda = s.agenda := rfl
@[simp] theorem modGang_agenda (u : Gang → Gang) : (s.modGang k u).agenda = s.agenda := rfl
@[simp] theorem setGang_fresh (v : Gang) : (s.setGang k v).fresh = s.fresh := rfl
@[simp] theorem modGang_fresh (u : Gang → Gang) : (s.modGang k u).fresh = s.fresh := rfl
@[simp] theorem setGang_cores (v : Gang) : (s.setGang k v).cores = s.cores := rfl
@[simp] theorem modGang_cores (u : Gang → Gang) : (s.modGang k u).cores = s.cores := rfl
@[simp] theorem setGang_quads (v : Gang) : (s.setGang k v).quads = s.quads := rfl
@[simp] theorem modGang_quads (u : Gang → Gang) : (s.modGang k u).quads = s.quads := rfl
@[simp] theorem setGang_clus (v : Gang) : (s.setGang k v).clus = s.clus := rfl
@[simp] theorem modGang_clus (u : Gang → Gang) : (s.modGang k u).clus = s.clus := rfl
@[simp] theorem setGang_slices (v : Gang) : (s.setGang k v).slices = s.slices := rfl
@[simp] theorem modGang_slices (u : Gang → Gang) : (s.modGang k u).slices = s.slices := rfl
@[simp] theorem setGang_ctxs (v : Gang) : (s.setGang k v).ctxs = s.ctxs := rfl
@[simp] theorem modGang_ctxs (u : Gang → Gang) : (s.modGang k u).ctxs = s.ctxs := rfl
@[simp] theorem setGang_vfs (v : Gang) : (s.setGang k v).vfs = s.vfs := rfl
@[simp] theorem modGang_vfs (u : Gang → Gang) : (s.modGang k u).vfs = s.vfs := rfl
@[simp] theorem setGang_mem (v : Gang) : (s.setGang k v).mem = s.mem := rfl
@[simp] theorem modGang_mem (u : Gang → Gang) : (s.modGang k u).mem = s.mem := rfl
@[simp] theorem setGang_keyOf (v : Gang) : (s.setGang k v).keyOf = s.keyOf := rfl
@[simp] theorem setGang_fused (v : Gang) : (s.setGang k v).fused = s.fused := rfl
@[simp] theorem modGang_keyOf (u : Gang → Gang) : (s.modGang k u).keyOf = s.keyOf := rfl
@[simp] theorem modGang_fused (u : Gang → Gang) : (s.modGang k u).fused = s.fused := rfl
@[simp] theorem setGang_farHist (v : Gang) : (s.setGang k v).farHist = s.farHist := rfl
@[simp] theorem setGang_sole (v : Gang) : (s.setGang k v).sole = s.sole := rfl
@[simp] theorem setGang_errs (v : Gang) : (s.setGang k v).errs = s.errs := rfl
@[simp] theorem modGang_farHist (u : Gang → Gang) : (s.modGang k u).farHist = s.farHist := rfl
@[simp] theorem modGang_sole (u : Gang → Gang) : (s.modGang k u).sole = s.sole := rfl
@[simp] theorem modGang_errs (u : Gang → Gang) : (s.modGang k u).errs = s.errs := rfl
@[simp] theorem setGang_fabs (v : Gang) : (s.setGang k v).fabs = s.fabs := rfl
@[simp] theorem modGang_fabs (u : Gang → Gang) : (s.modGang k u).fabs = s.fabs := rfl
@[simp] theorem setGang_mgmt (v : Gang) : (s.setGang k v).mgmt = s.mgmt := rfl
@[simp] theorem modGang_mgmt (u : Gang → Gang) : (s.modGang k u).mgmt = s.mgmt := rfl
@[simp] theorem setGang_clock (v : Gang) : (s.setGang k v).clock = s.clock := rfl
@[simp] theorem modGang_clock (u : Gang → Gang) : (s.modGang k u).clock = s.clock := rfl
@[simp] theorem setGang_mesh (v : Gang) : (s.setGang k v).mesh = s.mesh := rfl
@[simp] theorem modGang_mesh (u : Gang → Gang) : (s.modGang k u).mesh = s.mesh := rfl
@[simp] theorem setGang_colls (v : Gang) : (s.setGang k v).colls = s.colls := rfl
@[simp] theorem modGang_colls (u : Gang → Gang) : (s.modGang k u).colls = s.colls := rfl
@[simp] theorem setGang_links (v : Gang) : (s.setGang k v).links = s.links := rfl
@[simp] theorem modGang_links (u : Gang → Gang) : (s.modGang k u).links = s.links := rfl
@[simp] theorem setGang_ochre (v : Gang) : (s.setGang k v).ochre = s.ochre := rfl
@[simp] theorem modGang_ochre (u : Gang → Gang) : (s.modGang k u).ochre = s.ochre := rfl
@[simp] theorem setGang_dies (v : Gang) : (s.setGang k v).dies = s.dies := rfl
@[simp] theorem modGang_dies (u : Gang → Gang) : (s.modGang k u).dies = s.dies := rfl
@[simp] theorem setGang_power (v : Gang) : (s.setGang k v).power = s.power := rfl
@[simp] theorem modGang_power (u : Gang → Gang) : (s.modGang k u).power = s.power := rfl
@[simp] theorem setGang_own (v : Gang) : (s.setGang k v).gangs = tput s.gangs k v := rfl
@[simp] theorem modGang_own (u : Gang → Gang) : (s.modGang k u).gangs = tput s.gangs k (u (s.gang k)) := rfl
@[simp] theorem setGang_gang_same (v : Gang) : (s.setGang k v).gang k = v := tget_tput_same _ _ _ _
theorem setGang_gang_other (v : Gang) (h : n ≠ k) : (s.setGang k v).gang n = s.gang n := tget_tput_other _ _ _ h
@[simp] theorem modGang_gang_same (u : Gang → Gang) : (s.modGang k u).gang k = u (s.gang k) := tget_tput_same _ _ _ _
theorem modGang_gang_other (u : Gang → Gang) (h : n ≠ k) : (s.modGang k u).gang n = s.gang n := tget_tput_other _ _ _ h
@[simp] theorem setGang_core (v : Gang) : (s.setGang k v).core n = s.core n := rfl
@[simp] theorem modGang_core (u : Gang → Gang) : (s.modGang k u).core n = s.core n := rfl
@[simp] theorem setGang_quad (v : Gang) : (s.setGang k v).quad n = s.quad n := rfl
@[simp] theorem modGang_quad (u : Gang → Gang) : (s.modGang k u).quad n = s.quad n := rfl
@[simp] theorem setGang_cluster (v : Gang) : (s.setGang k v).cluster n = s.cluster n := rfl
@[simp] theorem modGang_cluster (u : Gang → Gang) : (s.modGang k u).cluster n = s.cluster n := rfl
@[simp] theorem setGang_slice (v : Gang) : (s.setGang k v).slice n = s.slice n := rfl
@[simp] theorem modGang_slice (u : Gang → Gang) : (s.modGang k u).slice n = s.slice n := rfl
@[simp] theorem setGang_ctx (v : Gang) : (s.setGang k v).ctx n = s.ctx n := rfl
@[simp] theorem modGang_ctx (u : Gang → Gang) : (s.modGang k u).ctx n = s.ctx n := rfl
@[simp] theorem setGang_vf (v : Gang) : (s.setGang k v).vf n = s.vf n := rfl
@[simp] theorem modGang_vf (u : Gang → Gang) : (s.modGang k u).vf n = s.vf n := rfl

/-! ## Core -/

@[simp] theorem setCore_now (v : Core) : (s.setCore k v).now = s.now := rfl
@[simp] theorem modCore_now (u : Core → Core) : (s.modCore k u).now = s.now := rfl
@[simp] theorem setCore_cur (v : Core) : (s.setCore k v).cur = s.cur := rfl
@[simp] theorem modCore_cur (u : Core → Core) : (s.modCore k u).cur = s.cur := rfl
@[simp] theorem setCore_agenda (v : Core) : (s.setCore k v).agenda = s.agenda := rfl
@[simp] theorem modCore_agenda (u : Core → Core) : (s.modCore k u).agenda = s.agenda := rfl
@[simp] theorem setCore_fresh (v : Core) : (s.setCore k v).fresh = s.fresh := rfl
@[simp] theorem modCore_fresh (u : Core → Core) : (s.modCore k u).fresh = s.fresh := rfl
@[simp] theorem setCore_gangs (v : Core) : (s.setCore k v).gangs = s.gangs := rfl
@[simp] theorem modCore_gangs (u : Core → Core) : (s.modCore k u).gangs = s.gangs := rfl
@[simp] theorem setCore_quads (v : Core) : (s.setCore k v).quads = s.quads := rfl
@[simp] theorem modCore_quads (u : Core → Core) : (s.modCore k u).quads = s.quads := rfl
@[simp] theorem setCore_clus (v : Core) : (s.setCore k v).clus = s.clus := rfl
@[simp] theorem modCore_clus (u : Core → Core) : (s.modCore k u).clus = s.clus := rfl
@[simp] theorem setCore_slices (v : Core) : (s.setCore k v).slices = s.slices := rfl
@[simp] theorem modCore_slices (u : Core → Core) : (s.modCore k u).slices = s.slices := rfl
@[simp] theorem setCore_ctxs (v : Core) : (s.setCore k v).ctxs = s.ctxs := rfl
@[simp] theorem modCore_ctxs (u : Core → Core) : (s.modCore k u).ctxs = s.ctxs := rfl
@[simp] theorem setCore_vfs (v : Core) : (s.setCore k v).vfs = s.vfs := rfl
@[simp] theorem modCore_vfs (u : Core → Core) : (s.modCore k u).vfs = s.vfs := rfl
@[simp] theorem setCore_mem (v : Core) : (s.setCore k v).mem = s.mem := rfl
@[simp] theorem modCore_mem (u : Core → Core) : (s.modCore k u).mem = s.mem := rfl
@[simp] theorem setCore_keyOf (v : Core) : (s.setCore k v).keyOf = s.keyOf := rfl
@[simp] theorem setCore_fused (v : Core) : (s.setCore k v).fused = s.fused := rfl
@[simp] theorem modCore_keyOf (u : Core → Core) : (s.modCore k u).keyOf = s.keyOf := rfl
@[simp] theorem modCore_fused (u : Core → Core) : (s.modCore k u).fused = s.fused := rfl
@[simp] theorem setCore_farHist (v : Core) : (s.setCore k v).farHist = s.farHist := rfl
@[simp] theorem setCore_sole (v : Core) : (s.setCore k v).sole = s.sole := rfl
@[simp] theorem setCore_errs (v : Core) : (s.setCore k v).errs = s.errs := rfl
@[simp] theorem modCore_farHist (u : Core → Core) : (s.modCore k u).farHist = s.farHist := rfl
@[simp] theorem modCore_sole (u : Core → Core) : (s.modCore k u).sole = s.sole := rfl
@[simp] theorem modCore_errs (u : Core → Core) : (s.modCore k u).errs = s.errs := rfl
@[simp] theorem setCore_fabs (v : Core) : (s.setCore k v).fabs = s.fabs := rfl
@[simp] theorem modCore_fabs (u : Core → Core) : (s.modCore k u).fabs = s.fabs := rfl
@[simp] theorem setCore_mgmt (v : Core) : (s.setCore k v).mgmt = s.mgmt := rfl
@[simp] theorem modCore_mgmt (u : Core → Core) : (s.modCore k u).mgmt = s.mgmt := rfl
@[simp] theorem setCore_clock (v : Core) : (s.setCore k v).clock = s.clock := rfl
@[simp] theorem modCore_clock (u : Core → Core) : (s.modCore k u).clock = s.clock := rfl
@[simp] theorem setCore_mesh (v : Core) : (s.setCore k v).mesh = s.mesh := rfl
@[simp] theorem modCore_mesh (u : Core → Core) : (s.modCore k u).mesh = s.mesh := rfl
@[simp] theorem setCore_colls (v : Core) : (s.setCore k v).colls = s.colls := rfl
@[simp] theorem modCore_colls (u : Core → Core) : (s.modCore k u).colls = s.colls := rfl
@[simp] theorem setCore_links (v : Core) : (s.setCore k v).links = s.links := rfl
@[simp] theorem modCore_links (u : Core → Core) : (s.modCore k u).links = s.links := rfl
@[simp] theorem setCore_ochre (v : Core) : (s.setCore k v).ochre = s.ochre := rfl
@[simp] theorem modCore_ochre (u : Core → Core) : (s.modCore k u).ochre = s.ochre := rfl
@[simp] theorem setCore_dies (v : Core) : (s.setCore k v).dies = s.dies := rfl
@[simp] theorem modCore_dies (u : Core → Core) : (s.modCore k u).dies = s.dies := rfl
@[simp] theorem setCore_power (v : Core) : (s.setCore k v).power = s.power := rfl
@[simp] theorem modCore_power (u : Core → Core) : (s.modCore k u).power = s.power := rfl
@[simp] theorem setCore_own (v : Core) : (s.setCore k v).cores = tput s.cores k v := rfl
@[simp] theorem modCore_own (u : Core → Core) : (s.modCore k u).cores = tput s.cores k (u (s.core k)) := rfl
@[simp] theorem setCore_core_same (v : Core) : (s.setCore k v).core k = v := tget_tput_same _ _ _ _
theorem setCore_core_other (v : Core) (h : n ≠ k) : (s.setCore k v).core n = s.core n := tget_tput_other _ _ _ h
@[simp] theorem modCore_core_same (u : Core → Core) : (s.modCore k u).core k = u (s.core k) := tget_tput_same _ _ _ _
theorem modCore_core_other (u : Core → Core) (h : n ≠ k) : (s.modCore k u).core n = s.core n := tget_tput_other _ _ _ h
@[simp] theorem setCore_gang (v : Core) : (s.setCore k v).gang n = s.gang n := rfl
@[simp] theorem modCore_gang (u : Core → Core) : (s.modCore k u).gang n = s.gang n := rfl
@[simp] theorem setCore_quad (v : Core) : (s.setCore k v).quad n = s.quad n := rfl
@[simp] theorem modCore_quad (u : Core → Core) : (s.modCore k u).quad n = s.quad n := rfl
@[simp] theorem setCore_cluster (v : Core) : (s.setCore k v).cluster n = s.cluster n := rfl
@[simp] theorem modCore_cluster (u : Core → Core) : (s.modCore k u).cluster n = s.cluster n := rfl
@[simp] theorem setCore_slice (v : Core) : (s.setCore k v).slice n = s.slice n := rfl
@[simp] theorem modCore_slice (u : Core → Core) : (s.modCore k u).slice n = s.slice n := rfl
@[simp] theorem setCore_ctx (v : Core) : (s.setCore k v).ctx n = s.ctx n := rfl
@[simp] theorem modCore_ctx (u : Core → Core) : (s.modCore k u).ctx n = s.ctx n := rfl
@[simp] theorem setCore_vf (v : Core) : (s.setCore k v).vf n = s.vf n := rfl
@[simp] theorem modCore_vf (u : Core → Core) : (s.modCore k u).vf n = s.vf n := rfl

/-! ## Quad -/

@[simp] theorem setQuad_now (v : Quad) : (s.setQuad k v).now = s.now := rfl
@[simp] theorem modQuad_now (u : Quad → Quad) : (s.modQuad k u).now = s.now := rfl
@[simp] theorem setQuad_cur (v : Quad) : (s.setQuad k v).cur = s.cur := rfl
@[simp] theorem modQuad_cur (u : Quad → Quad) : (s.modQuad k u).cur = s.cur := rfl
@[simp] theorem setQuad_agenda (v : Quad) : (s.setQuad k v).agenda = s.agenda := rfl
@[simp] theorem modQuad_agenda (u : Quad → Quad) : (s.modQuad k u).agenda = s.agenda := rfl
@[simp] theorem setQuad_fresh (v : Quad) : (s.setQuad k v).fresh = s.fresh := rfl
@[simp] theorem modQuad_fresh (u : Quad → Quad) : (s.modQuad k u).fresh = s.fresh := rfl
@[simp] theorem setQuad_gangs (v : Quad) : (s.setQuad k v).gangs = s.gangs := rfl
@[simp] theorem modQuad_gangs (u : Quad → Quad) : (s.modQuad k u).gangs = s.gangs := rfl
@[simp] theorem setQuad_cores (v : Quad) : (s.setQuad k v).cores = s.cores := rfl
@[simp] theorem modQuad_cores (u : Quad → Quad) : (s.modQuad k u).cores = s.cores := rfl
@[simp] theorem setQuad_clus (v : Quad) : (s.setQuad k v).clus = s.clus := rfl
@[simp] theorem modQuad_clus (u : Quad → Quad) : (s.modQuad k u).clus = s.clus := rfl
@[simp] theorem setQuad_slices (v : Quad) : (s.setQuad k v).slices = s.slices := rfl
@[simp] theorem modQuad_slices (u : Quad → Quad) : (s.modQuad k u).slices = s.slices := rfl
@[simp] theorem setQuad_ctxs (v : Quad) : (s.setQuad k v).ctxs = s.ctxs := rfl
@[simp] theorem modQuad_ctxs (u : Quad → Quad) : (s.modQuad k u).ctxs = s.ctxs := rfl
@[simp] theorem setQuad_vfs (v : Quad) : (s.setQuad k v).vfs = s.vfs := rfl
@[simp] theorem modQuad_vfs (u : Quad → Quad) : (s.modQuad k u).vfs = s.vfs := rfl
@[simp] theorem setQuad_mem (v : Quad) : (s.setQuad k v).mem = s.mem := rfl
@[simp] theorem modQuad_mem (u : Quad → Quad) : (s.modQuad k u).mem = s.mem := rfl
@[simp] theorem setQuad_keyOf (v : Quad) : (s.setQuad k v).keyOf = s.keyOf := rfl
@[simp] theorem setQuad_fused (v : Quad) : (s.setQuad k v).fused = s.fused := rfl
@[simp] theorem modQuad_keyOf (u : Quad → Quad) : (s.modQuad k u).keyOf = s.keyOf := rfl
@[simp] theorem modQuad_fused (u : Quad → Quad) : (s.modQuad k u).fused = s.fused := rfl
@[simp] theorem setQuad_farHist (v : Quad) : (s.setQuad k v).farHist = s.farHist := rfl
@[simp] theorem setQuad_sole (v : Quad) : (s.setQuad k v).sole = s.sole := rfl
@[simp] theorem setQuad_errs (v : Quad) : (s.setQuad k v).errs = s.errs := rfl
@[simp] theorem modQuad_farHist (u : Quad → Quad) : (s.modQuad k u).farHist = s.farHist := rfl
@[simp] theorem modQuad_sole (u : Quad → Quad) : (s.modQuad k u).sole = s.sole := rfl
@[simp] theorem modQuad_errs (u : Quad → Quad) : (s.modQuad k u).errs = s.errs := rfl
@[simp] theorem setQuad_fabs (v : Quad) : (s.setQuad k v).fabs = s.fabs := rfl
@[simp] theorem modQuad_fabs (u : Quad → Quad) : (s.modQuad k u).fabs = s.fabs := rfl
@[simp] theorem setQuad_mgmt (v : Quad) : (s.setQuad k v).mgmt = s.mgmt := rfl
@[simp] theorem modQuad_mgmt (u : Quad → Quad) : (s.modQuad k u).mgmt = s.mgmt := rfl
@[simp] theorem setQuad_clock (v : Quad) : (s.setQuad k v).clock = s.clock := rfl
@[simp] theorem modQuad_clock (u : Quad → Quad) : (s.modQuad k u).clock = s.clock := rfl
@[simp] theorem setQuad_mesh (v : Quad) : (s.setQuad k v).mesh = s.mesh := rfl
@[simp] theorem modQuad_mesh (u : Quad → Quad) : (s.modQuad k u).mesh = s.mesh := rfl
@[simp] theorem setQuad_colls (v : Quad) : (s.setQuad k v).colls = s.colls := rfl
@[simp] theorem modQuad_colls (u : Quad → Quad) : (s.modQuad k u).colls = s.colls := rfl
@[simp] theorem setQuad_links (v : Quad) : (s.setQuad k v).links = s.links := rfl
@[simp] theorem modQuad_links (u : Quad → Quad) : (s.modQuad k u).links = s.links := rfl
@[simp] theorem setQuad_ochre (v : Quad) : (s.setQuad k v).ochre = s.ochre := rfl
@[simp] theorem modQuad_ochre (u : Quad → Quad) : (s.modQuad k u).ochre = s.ochre := rfl
@[simp] theorem setQuad_dies (v : Quad) : (s.setQuad k v).dies = s.dies := rfl
@[simp] theorem modQuad_dies (u : Quad → Quad) : (s.modQuad k u).dies = s.dies := rfl
@[simp] theorem setQuad_power (v : Quad) : (s.setQuad k v).power = s.power := rfl
@[simp] theorem modQuad_power (u : Quad → Quad) : (s.modQuad k u).power = s.power := rfl
@[simp] theorem setQuad_own (v : Quad) : (s.setQuad k v).quads = tput s.quads k v := rfl
@[simp] theorem modQuad_own (u : Quad → Quad) : (s.modQuad k u).quads = tput s.quads k (u (s.quad k)) := rfl
@[simp] theorem setQuad_quad_same (v : Quad) : (s.setQuad k v).quad k = v := tget_tput_same _ _ _ _
theorem setQuad_quad_other (v : Quad) (h : n ≠ k) : (s.setQuad k v).quad n = s.quad n := tget_tput_other _ _ _ h
@[simp] theorem modQuad_quad_same (u : Quad → Quad) : (s.modQuad k u).quad k = u (s.quad k) := tget_tput_same _ _ _ _
theorem modQuad_quad_other (u : Quad → Quad) (h : n ≠ k) : (s.modQuad k u).quad n = s.quad n := tget_tput_other _ _ _ h
@[simp] theorem setQuad_gang (v : Quad) : (s.setQuad k v).gang n = s.gang n := rfl
@[simp] theorem modQuad_gang (u : Quad → Quad) : (s.modQuad k u).gang n = s.gang n := rfl
@[simp] theorem setQuad_core (v : Quad) : (s.setQuad k v).core n = s.core n := rfl
@[simp] theorem modQuad_core (u : Quad → Quad) : (s.modQuad k u).core n = s.core n := rfl
@[simp] theorem setQuad_cluster (v : Quad) : (s.setQuad k v).cluster n = s.cluster n := rfl
@[simp] theorem modQuad_cluster (u : Quad → Quad) : (s.modQuad k u).cluster n = s.cluster n := rfl
@[simp] theorem setQuad_slice (v : Quad) : (s.setQuad k v).slice n = s.slice n := rfl
@[simp] theorem modQuad_slice (u : Quad → Quad) : (s.modQuad k u).slice n = s.slice n := rfl
@[simp] theorem setQuad_ctx (v : Quad) : (s.setQuad k v).ctx n = s.ctx n := rfl
@[simp] theorem modQuad_ctx (u : Quad → Quad) : (s.modQuad k u).ctx n = s.ctx n := rfl
@[simp] theorem setQuad_vf (v : Quad) : (s.setQuad k v).vf n = s.vf n := rfl
@[simp] theorem modQuad_vf (u : Quad → Quad) : (s.modQuad k u).vf n = s.vf n := rfl

/-! ## Cluster -/

@[simp] theorem setCluster_now (v : Cluster) : (s.setCluster k v).now = s.now := rfl
@[simp] theorem modCluster_now (u : Cluster → Cluster) : (s.modCluster k u).now = s.now := rfl
@[simp] theorem setCluster_cur (v : Cluster) : (s.setCluster k v).cur = s.cur := rfl
@[simp] theorem modCluster_cur (u : Cluster → Cluster) : (s.modCluster k u).cur = s.cur := rfl
@[simp] theorem setCluster_agenda (v : Cluster) : (s.setCluster k v).agenda = s.agenda := rfl
@[simp] theorem modCluster_agenda (u : Cluster → Cluster) : (s.modCluster k u).agenda = s.agenda := rfl
@[simp] theorem setCluster_fresh (v : Cluster) : (s.setCluster k v).fresh = s.fresh := rfl
@[simp] theorem modCluster_fresh (u : Cluster → Cluster) : (s.modCluster k u).fresh = s.fresh := rfl
@[simp] theorem setCluster_gangs (v : Cluster) : (s.setCluster k v).gangs = s.gangs := rfl
@[simp] theorem modCluster_gangs (u : Cluster → Cluster) : (s.modCluster k u).gangs = s.gangs := rfl
@[simp] theorem setCluster_cores (v : Cluster) : (s.setCluster k v).cores = s.cores := rfl
@[simp] theorem modCluster_cores (u : Cluster → Cluster) : (s.modCluster k u).cores = s.cores := rfl
@[simp] theorem setCluster_quads (v : Cluster) : (s.setCluster k v).quads = s.quads := rfl
@[simp] theorem modCluster_quads (u : Cluster → Cluster) : (s.modCluster k u).quads = s.quads := rfl
@[simp] theorem setCluster_slices (v : Cluster) : (s.setCluster k v).slices = s.slices := rfl
@[simp] theorem modCluster_slices (u : Cluster → Cluster) : (s.modCluster k u).slices = s.slices := rfl
@[simp] theorem setCluster_ctxs (v : Cluster) : (s.setCluster k v).ctxs = s.ctxs := rfl
@[simp] theorem modCluster_ctxs (u : Cluster → Cluster) : (s.modCluster k u).ctxs = s.ctxs := rfl
@[simp] theorem setCluster_vfs (v : Cluster) : (s.setCluster k v).vfs = s.vfs := rfl
@[simp] theorem modCluster_vfs (u : Cluster → Cluster) : (s.modCluster k u).vfs = s.vfs := rfl
@[simp] theorem setCluster_mem (v : Cluster) : (s.setCluster k v).mem = s.mem := rfl
@[simp] theorem modCluster_mem (u : Cluster → Cluster) : (s.modCluster k u).mem = s.mem := rfl
@[simp] theorem setCluster_keyOf (v : Cluster) : (s.setCluster k v).keyOf = s.keyOf := rfl
@[simp] theorem setCluster_fused (v : Cluster) : (s.setCluster k v).fused = s.fused := rfl
@[simp] theorem modCluster_keyOf (u : Cluster → Cluster) : (s.modCluster k u).keyOf = s.keyOf := rfl
@[simp] theorem modCluster_fused (u : Cluster → Cluster) : (s.modCluster k u).fused = s.fused := rfl
@[simp] theorem setCluster_farHist (v : Cluster) : (s.setCluster k v).farHist = s.farHist := rfl
@[simp] theorem setCluster_sole (v : Cluster) : (s.setCluster k v).sole = s.sole := rfl
@[simp] theorem setCluster_errs (v : Cluster) : (s.setCluster k v).errs = s.errs := rfl
@[simp] theorem modCluster_farHist (u : Cluster → Cluster) : (s.modCluster k u).farHist = s.farHist := rfl
@[simp] theorem modCluster_sole (u : Cluster → Cluster) : (s.modCluster k u).sole = s.sole := rfl
@[simp] theorem modCluster_errs (u : Cluster → Cluster) : (s.modCluster k u).errs = s.errs := rfl
@[simp] theorem setCluster_fabs (v : Cluster) : (s.setCluster k v).fabs = s.fabs := rfl
@[simp] theorem modCluster_fabs (u : Cluster → Cluster) : (s.modCluster k u).fabs = s.fabs := rfl
@[simp] theorem setCluster_mgmt (v : Cluster) : (s.setCluster k v).mgmt = s.mgmt := rfl
@[simp] theorem modCluster_mgmt (u : Cluster → Cluster) : (s.modCluster k u).mgmt = s.mgmt := rfl
@[simp] theorem setCluster_clock (v : Cluster) : (s.setCluster k v).clock = s.clock := rfl
@[simp] theorem modCluster_clock (u : Cluster → Cluster) : (s.modCluster k u).clock = s.clock := rfl
@[simp] theorem setCluster_mesh (v : Cluster) : (s.setCluster k v).mesh = s.mesh := rfl
@[simp] theorem modCluster_mesh (u : Cluster → Cluster) : (s.modCluster k u).mesh = s.mesh := rfl
@[simp] theorem setCluster_colls (v : Cluster) : (s.setCluster k v).colls = s.colls := rfl
@[simp] theorem modCluster_colls (u : Cluster → Cluster) : (s.modCluster k u).colls = s.colls := rfl
@[simp] theorem setCluster_links (v : Cluster) : (s.setCluster k v).links = s.links := rfl
@[simp] theorem modCluster_links (u : Cluster → Cluster) : (s.modCluster k u).links = s.links := rfl
@[simp] theorem setCluster_ochre (v : Cluster) : (s.setCluster k v).ochre = s.ochre := rfl
@[simp] theorem modCluster_ochre (u : Cluster → Cluster) : (s.modCluster k u).ochre = s.ochre := rfl
@[simp] theorem setCluster_dies (v : Cluster) : (s.setCluster k v).dies = s.dies := rfl
@[simp] theorem modCluster_dies (u : Cluster → Cluster) : (s.modCluster k u).dies = s.dies := rfl
@[simp] theorem setCluster_power (v : Cluster) : (s.setCluster k v).power = s.power := rfl
@[simp] theorem modCluster_power (u : Cluster → Cluster) : (s.modCluster k u).power = s.power := rfl
@[simp] theorem setCluster_own (v : Cluster) : (s.setCluster k v).clus = tput s.clus k v := rfl
@[simp] theorem modCluster_own (u : Cluster → Cluster) : (s.modCluster k u).clus = tput s.clus k (u (s.cluster k)) := rfl
@[simp] theorem setCluster_cluster_same (v : Cluster) : (s.setCluster k v).cluster k = v := tget_tput_same _ _ _ _
theorem setCluster_cluster_other (v : Cluster) (h : n ≠ k) : (s.setCluster k v).cluster n = s.cluster n := tget_tput_other _ _ _ h
@[simp] theorem modCluster_cluster_same (u : Cluster → Cluster) : (s.modCluster k u).cluster k = u (s.cluster k) := tget_tput_same _ _ _ _
theorem modCluster_cluster_other (u : Cluster → Cluster) (h : n ≠ k) : (s.modCluster k u).cluster n = s.cluster n := tget_tput_other _ _ _ h
@[simp] theorem setCluster_gang (v : Cluster) : (s.setCluster k v).gang n = s.gang n := rfl
@[simp] theorem modCluster_gang (u : Cluster → Cluster) : (s.modCluster k u).gang n = s.gang n := rfl
@[simp] theorem setCluster_core (v : Cluster) : (s.setCluster k v).core n = s.core n := rfl
@[simp] theorem modCluster_core (u : Cluster → Cluster) : (s.modCluster k u).core n = s.core n := rfl
@[simp] theorem setCluster_quad (v : Cluster) : (s.setCluster k v).quad n = s.quad n := rfl
@[simp] theorem modCluster_quad (u : Cluster → Cluster) : (s.modCluster k u).quad n = s.quad n := rfl
@[simp] theorem setCluster_slice (v : Cluster) : (s.setCluster k v).slice n = s.slice n := rfl
@[simp] theorem modCluster_slice (u : Cluster → Cluster) : (s.modCluster k u).slice n = s.slice n := rfl
@[simp] theorem setCluster_ctx (v : Cluster) : (s.setCluster k v).ctx n = s.ctx n := rfl
@[simp] theorem modCluster_ctx (u : Cluster → Cluster) : (s.modCluster k u).ctx n = s.ctx n := rfl
@[simp] theorem setCluster_vf (v : Cluster) : (s.setCluster k v).vf n = s.vf n := rfl
@[simp] theorem modCluster_vf (u : Cluster → Cluster) : (s.modCluster k u).vf n = s.vf n := rfl

/-! ## Slice -/

@[simp] theorem setSlice_now (v : Slice) : (s.setSlice k v).now = s.now := rfl
@[simp] theorem modSlice_now (u : Slice → Slice) : (s.modSlice k u).now = s.now := rfl
@[simp] theorem setSlice_cur (v : Slice) : (s.setSlice k v).cur = s.cur := rfl
@[simp] theorem modSlice_cur (u : Slice → Slice) : (s.modSlice k u).cur = s.cur := rfl
@[simp] theorem setSlice_agenda (v : Slice) : (s.setSlice k v).agenda = s.agenda := rfl
@[simp] theorem modSlice_agenda (u : Slice → Slice) : (s.modSlice k u).agenda = s.agenda := rfl
@[simp] theorem setSlice_fresh (v : Slice) : (s.setSlice k v).fresh = s.fresh := rfl
@[simp] theorem modSlice_fresh (u : Slice → Slice) : (s.modSlice k u).fresh = s.fresh := rfl
@[simp] theorem setSlice_gangs (v : Slice) : (s.setSlice k v).gangs = s.gangs := rfl
@[simp] theorem modSlice_gangs (u : Slice → Slice) : (s.modSlice k u).gangs = s.gangs := rfl
@[simp] theorem setSlice_cores (v : Slice) : (s.setSlice k v).cores = s.cores := rfl
@[simp] theorem modSlice_cores (u : Slice → Slice) : (s.modSlice k u).cores = s.cores := rfl
@[simp] theorem setSlice_quads (v : Slice) : (s.setSlice k v).quads = s.quads := rfl
@[simp] theorem modSlice_quads (u : Slice → Slice) : (s.modSlice k u).quads = s.quads := rfl
@[simp] theorem setSlice_clus (v : Slice) : (s.setSlice k v).clus = s.clus := rfl
@[simp] theorem modSlice_clus (u : Slice → Slice) : (s.modSlice k u).clus = s.clus := rfl
@[simp] theorem setSlice_ctxs (v : Slice) : (s.setSlice k v).ctxs = s.ctxs := rfl
@[simp] theorem modSlice_ctxs (u : Slice → Slice) : (s.modSlice k u).ctxs = s.ctxs := rfl
@[simp] theorem setSlice_vfs (v : Slice) : (s.setSlice k v).vfs = s.vfs := rfl
@[simp] theorem modSlice_vfs (u : Slice → Slice) : (s.modSlice k u).vfs = s.vfs := rfl
@[simp] theorem setSlice_mem (v : Slice) : (s.setSlice k v).mem = s.mem := rfl
@[simp] theorem modSlice_mem (u : Slice → Slice) : (s.modSlice k u).mem = s.mem := rfl
@[simp] theorem setSlice_keyOf (v : Slice) : (s.setSlice k v).keyOf = s.keyOf := rfl
@[simp] theorem setSlice_fused (v : Slice) : (s.setSlice k v).fused = s.fused := rfl
@[simp] theorem modSlice_keyOf (u : Slice → Slice) : (s.modSlice k u).keyOf = s.keyOf := rfl
@[simp] theorem modSlice_fused (u : Slice → Slice) : (s.modSlice k u).fused = s.fused := rfl
@[simp] theorem setSlice_farHist (v : Slice) : (s.setSlice k v).farHist = s.farHist := rfl
@[simp] theorem setSlice_sole (v : Slice) : (s.setSlice k v).sole = s.sole := rfl
@[simp] theorem setSlice_errs (v : Slice) : (s.setSlice k v).errs = s.errs := rfl
@[simp] theorem modSlice_farHist (u : Slice → Slice) : (s.modSlice k u).farHist = s.farHist := rfl
@[simp] theorem modSlice_sole (u : Slice → Slice) : (s.modSlice k u).sole = s.sole := rfl
@[simp] theorem modSlice_errs (u : Slice → Slice) : (s.modSlice k u).errs = s.errs := rfl
@[simp] theorem setSlice_fabs (v : Slice) : (s.setSlice k v).fabs = s.fabs := rfl
@[simp] theorem modSlice_fabs (u : Slice → Slice) : (s.modSlice k u).fabs = s.fabs := rfl
@[simp] theorem setSlice_mgmt (v : Slice) : (s.setSlice k v).mgmt = s.mgmt := rfl
@[simp] theorem modSlice_mgmt (u : Slice → Slice) : (s.modSlice k u).mgmt = s.mgmt := rfl
@[simp] theorem setSlice_clock (v : Slice) : (s.setSlice k v).clock = s.clock := rfl
@[simp] theorem modSlice_clock (u : Slice → Slice) : (s.modSlice k u).clock = s.clock := rfl
@[simp] theorem setSlice_mesh (v : Slice) : (s.setSlice k v).mesh = s.mesh := rfl
@[simp] theorem modSlice_mesh (u : Slice → Slice) : (s.modSlice k u).mesh = s.mesh := rfl
@[simp] theorem setSlice_colls (v : Slice) : (s.setSlice k v).colls = s.colls := rfl
@[simp] theorem modSlice_colls (u : Slice → Slice) : (s.modSlice k u).colls = s.colls := rfl
@[simp] theorem setSlice_links (v : Slice) : (s.setSlice k v).links = s.links := rfl
@[simp] theorem modSlice_links (u : Slice → Slice) : (s.modSlice k u).links = s.links := rfl
@[simp] theorem setSlice_ochre (v : Slice) : (s.setSlice k v).ochre = s.ochre := rfl
@[simp] theorem modSlice_ochre (u : Slice → Slice) : (s.modSlice k u).ochre = s.ochre := rfl
@[simp] theorem setSlice_dies (v : Slice) : (s.setSlice k v).dies = s.dies := rfl
@[simp] theorem modSlice_dies (u : Slice → Slice) : (s.modSlice k u).dies = s.dies := rfl
@[simp] theorem setSlice_power (v : Slice) : (s.setSlice k v).power = s.power := rfl
@[simp] theorem modSlice_power (u : Slice → Slice) : (s.modSlice k u).power = s.power := rfl
@[simp] theorem setSlice_own (v : Slice) : (s.setSlice k v).slices = tput s.slices k v := rfl
@[simp] theorem modSlice_own (u : Slice → Slice) : (s.modSlice k u).slices = tput s.slices k (u (s.slice k)) := rfl
@[simp] theorem setSlice_slice_same (v : Slice) : (s.setSlice k v).slice k = v := tget_tput_same _ _ _ _
theorem setSlice_slice_other (v : Slice) (h : n ≠ k) : (s.setSlice k v).slice n = s.slice n := tget_tput_other _ _ _ h
@[simp] theorem modSlice_slice_same (u : Slice → Slice) : (s.modSlice k u).slice k = u (s.slice k) := tget_tput_same _ _ _ _
theorem modSlice_slice_other (u : Slice → Slice) (h : n ≠ k) : (s.modSlice k u).slice n = s.slice n := tget_tput_other _ _ _ h
@[simp] theorem setSlice_gang (v : Slice) : (s.setSlice k v).gang n = s.gang n := rfl
@[simp] theorem modSlice_gang (u : Slice → Slice) : (s.modSlice k u).gang n = s.gang n := rfl
@[simp] theorem setSlice_core (v : Slice) : (s.setSlice k v).core n = s.core n := rfl
@[simp] theorem modSlice_core (u : Slice → Slice) : (s.modSlice k u).core n = s.core n := rfl
@[simp] theorem setSlice_quad (v : Slice) : (s.setSlice k v).quad n = s.quad n := rfl
@[simp] theorem modSlice_quad (u : Slice → Slice) : (s.modSlice k u).quad n = s.quad n := rfl
@[simp] theorem setSlice_cluster (v : Slice) : (s.setSlice k v).cluster n = s.cluster n := rfl
@[simp] theorem modSlice_cluster (u : Slice → Slice) : (s.modSlice k u).cluster n = s.cluster n := rfl
@[simp] theorem setSlice_ctx (v : Slice) : (s.setSlice k v).ctx n = s.ctx n := rfl
@[simp] theorem modSlice_ctx (u : Slice → Slice) : (s.modSlice k u).ctx n = s.ctx n := rfl
@[simp] theorem setSlice_vf (v : Slice) : (s.setSlice k v).vf n = s.vf n := rfl
@[simp] theorem modSlice_vf (u : Slice → Slice) : (s.modSlice k u).vf n = s.vf n := rfl

/-! ## Ctx -/

@[simp] theorem setCtx_now (v : Ctx) : (s.setCtx k v).now = s.now := rfl
@[simp] theorem modCtx_now (u : Ctx → Ctx) : (s.modCtx k u).now = s.now := rfl
@[simp] theorem setCtx_cur (v : Ctx) : (s.setCtx k v).cur = s.cur := rfl
@[simp] theorem modCtx_cur (u : Ctx → Ctx) : (s.modCtx k u).cur = s.cur := rfl
@[simp] theorem setCtx_agenda (v : Ctx) : (s.setCtx k v).agenda = s.agenda := rfl
@[simp] theorem modCtx_agenda (u : Ctx → Ctx) : (s.modCtx k u).agenda = s.agenda := rfl
@[simp] theorem setCtx_fresh (v : Ctx) : (s.setCtx k v).fresh = s.fresh := rfl
@[simp] theorem modCtx_fresh (u : Ctx → Ctx) : (s.modCtx k u).fresh = s.fresh := rfl
@[simp] theorem setCtx_gangs (v : Ctx) : (s.setCtx k v).gangs = s.gangs := rfl
@[simp] theorem modCtx_gangs (u : Ctx → Ctx) : (s.modCtx k u).gangs = s.gangs := rfl
@[simp] theorem setCtx_cores (v : Ctx) : (s.setCtx k v).cores = s.cores := rfl
@[simp] theorem modCtx_cores (u : Ctx → Ctx) : (s.modCtx k u).cores = s.cores := rfl
@[simp] theorem setCtx_quads (v : Ctx) : (s.setCtx k v).quads = s.quads := rfl
@[simp] theorem modCtx_quads (u : Ctx → Ctx) : (s.modCtx k u).quads = s.quads := rfl
@[simp] theorem setCtx_clus (v : Ctx) : (s.setCtx k v).clus = s.clus := rfl
@[simp] theorem modCtx_clus (u : Ctx → Ctx) : (s.modCtx k u).clus = s.clus := rfl
@[simp] theorem setCtx_slices (v : Ctx) : (s.setCtx k v).slices = s.slices := rfl
@[simp] theorem modCtx_slices (u : Ctx → Ctx) : (s.modCtx k u).slices = s.slices := rfl
@[simp] theorem setCtx_vfs (v : Ctx) : (s.setCtx k v).vfs = s.vfs := rfl
@[simp] theorem modCtx_vfs (u : Ctx → Ctx) : (s.modCtx k u).vfs = s.vfs := rfl
@[simp] theorem setCtx_mem (v : Ctx) : (s.setCtx k v).mem = s.mem := rfl
@[simp] theorem modCtx_mem (u : Ctx → Ctx) : (s.modCtx k u).mem = s.mem := rfl
@[simp] theorem setCtx_keyOf (v : Ctx) : (s.setCtx k v).keyOf = s.keyOf := rfl
@[simp] theorem setCtx_fused (v : Ctx) : (s.setCtx k v).fused = s.fused := rfl
@[simp] theorem modCtx_keyOf (u : Ctx → Ctx) : (s.modCtx k u).keyOf = s.keyOf := rfl
@[simp] theorem modCtx_fused (u : Ctx → Ctx) : (s.modCtx k u).fused = s.fused := rfl
@[simp] theorem setCtx_farHist (v : Ctx) : (s.setCtx k v).farHist = s.farHist := rfl
@[simp] theorem setCtx_sole (v : Ctx) : (s.setCtx k v).sole = s.sole := rfl
@[simp] theorem setCtx_errs (v : Ctx) : (s.setCtx k v).errs = s.errs := rfl
@[simp] theorem modCtx_farHist (u : Ctx → Ctx) : (s.modCtx k u).farHist = s.farHist := rfl
@[simp] theorem modCtx_sole (u : Ctx → Ctx) : (s.modCtx k u).sole = s.sole := rfl
@[simp] theorem modCtx_errs (u : Ctx → Ctx) : (s.modCtx k u).errs = s.errs := rfl
@[simp] theorem setCtx_fabs (v : Ctx) : (s.setCtx k v).fabs = s.fabs := rfl
@[simp] theorem modCtx_fabs (u : Ctx → Ctx) : (s.modCtx k u).fabs = s.fabs := rfl
@[simp] theorem setCtx_mgmt (v : Ctx) : (s.setCtx k v).mgmt = s.mgmt := rfl
@[simp] theorem modCtx_mgmt (u : Ctx → Ctx) : (s.modCtx k u).mgmt = s.mgmt := rfl
@[simp] theorem setCtx_clock (v : Ctx) : (s.setCtx k v).clock = s.clock := rfl
@[simp] theorem modCtx_clock (u : Ctx → Ctx) : (s.modCtx k u).clock = s.clock := rfl
@[simp] theorem setCtx_mesh (v : Ctx) : (s.setCtx k v).mesh = s.mesh := rfl
@[simp] theorem modCtx_mesh (u : Ctx → Ctx) : (s.modCtx k u).mesh = s.mesh := rfl
@[simp] theorem setCtx_colls (v : Ctx) : (s.setCtx k v).colls = s.colls := rfl
@[simp] theorem modCtx_colls (u : Ctx → Ctx) : (s.modCtx k u).colls = s.colls := rfl
@[simp] theorem setCtx_links (v : Ctx) : (s.setCtx k v).links = s.links := rfl
@[simp] theorem modCtx_links (u : Ctx → Ctx) : (s.modCtx k u).links = s.links := rfl
@[simp] theorem setCtx_ochre (v : Ctx) : (s.setCtx k v).ochre = s.ochre := rfl
@[simp] theorem modCtx_ochre (u : Ctx → Ctx) : (s.modCtx k u).ochre = s.ochre := rfl
@[simp] theorem setCtx_dies (v : Ctx) : (s.setCtx k v).dies = s.dies := rfl
@[simp] theorem modCtx_dies (u : Ctx → Ctx) : (s.modCtx k u).dies = s.dies := rfl
@[simp] theorem setCtx_power (v : Ctx) : (s.setCtx k v).power = s.power := rfl
@[simp] theorem modCtx_power (u : Ctx → Ctx) : (s.modCtx k u).power = s.power := rfl
@[simp] theorem setCtx_own (v : Ctx) : (s.setCtx k v).ctxs = tput s.ctxs k v := rfl
@[simp] theorem modCtx_own (u : Ctx → Ctx) : (s.modCtx k u).ctxs = tput s.ctxs k (u (s.ctx k)) := rfl
@[simp] theorem setCtx_ctx_same (v : Ctx) : (s.setCtx k v).ctx k = v := tget_tput_same _ _ _ _
theorem setCtx_ctx_other (v : Ctx) (h : n ≠ k) : (s.setCtx k v).ctx n = s.ctx n := tget_tput_other _ _ _ h
@[simp] theorem modCtx_ctx_same (u : Ctx → Ctx) : (s.modCtx k u).ctx k = u (s.ctx k) := tget_tput_same _ _ _ _
theorem modCtx_ctx_other (u : Ctx → Ctx) (h : n ≠ k) : (s.modCtx k u).ctx n = s.ctx n := tget_tput_other _ _ _ h
@[simp] theorem setCtx_gang (v : Ctx) : (s.setCtx k v).gang n = s.gang n := rfl
@[simp] theorem modCtx_gang (u : Ctx → Ctx) : (s.modCtx k u).gang n = s.gang n := rfl
@[simp] theorem setCtx_core (v : Ctx) : (s.setCtx k v).core n = s.core n := rfl
@[simp] theorem modCtx_core (u : Ctx → Ctx) : (s.modCtx k u).core n = s.core n := rfl
@[simp] theorem setCtx_quad (v : Ctx) : (s.setCtx k v).quad n = s.quad n := rfl
@[simp] theorem modCtx_quad (u : Ctx → Ctx) : (s.modCtx k u).quad n = s.quad n := rfl
@[simp] theorem setCtx_cluster (v : Ctx) : (s.setCtx k v).cluster n = s.cluster n := rfl
@[simp] theorem modCtx_cluster (u : Ctx → Ctx) : (s.modCtx k u).cluster n = s.cluster n := rfl
@[simp] theorem setCtx_slice (v : Ctx) : (s.setCtx k v).slice n = s.slice n := rfl
@[simp] theorem modCtx_slice (u : Ctx → Ctx) : (s.modCtx k u).slice n = s.slice n := rfl
@[simp] theorem setCtx_vf (v : Ctx) : (s.setCtx k v).vf n = s.vf n := rfl
@[simp] theorem modCtx_vf (u : Ctx → Ctx) : (s.modCtx k u).vf n = s.vf n := rfl

/-! ## Vf -/

@[simp] theorem setVf_now (v : Vf) : (s.setVf k v).now = s.now := rfl
@[simp] theorem modVf_now (u : Vf → Vf) : (s.modVf k u).now = s.now := rfl
@[simp] theorem setVf_cur (v : Vf) : (s.setVf k v).cur = s.cur := rfl
@[simp] theorem modVf_cur (u : Vf → Vf) : (s.modVf k u).cur = s.cur := rfl
@[simp] theorem setVf_agenda (v : Vf) : (s.setVf k v).agenda = s.agenda := rfl
@[simp] theorem modVf_agenda (u : Vf → Vf) : (s.modVf k u).agenda = s.agenda := rfl
@[simp] theorem setVf_fresh (v : Vf) : (s.setVf k v).fresh = s.fresh := rfl
@[simp] theorem modVf_fresh (u : Vf → Vf) : (s.modVf k u).fresh = s.fresh := rfl
@[simp] theorem setVf_gangs (v : Vf) : (s.setVf k v).gangs = s.gangs := rfl
@[simp] theorem modVf_gangs (u : Vf → Vf) : (s.modVf k u).gangs = s.gangs := rfl
@[simp] theorem setVf_cores (v : Vf) : (s.setVf k v).cores = s.cores := rfl
@[simp] theorem modVf_cores (u : Vf → Vf) : (s.modVf k u).cores = s.cores := rfl
@[simp] theorem setVf_quads (v : Vf) : (s.setVf k v).quads = s.quads := rfl
@[simp] theorem modVf_quads (u : Vf → Vf) : (s.modVf k u).quads = s.quads := rfl
@[simp] theorem setVf_clus (v : Vf) : (s.setVf k v).clus = s.clus := rfl
@[simp] theorem modVf_clus (u : Vf → Vf) : (s.modVf k u).clus = s.clus := rfl
@[simp] theorem setVf_slices (v : Vf) : (s.setVf k v).slices = s.slices := rfl
@[simp] theorem modVf_slices (u : Vf → Vf) : (s.modVf k u).slices = s.slices := rfl
@[simp] theorem setVf_ctxs (v : Vf) : (s.setVf k v).ctxs = s.ctxs := rfl
@[simp] theorem modVf_ctxs (u : Vf → Vf) : (s.modVf k u).ctxs = s.ctxs := rfl
@[simp] theorem setVf_mem (v : Vf) : (s.setVf k v).mem = s.mem := rfl
@[simp] theorem modVf_mem (u : Vf → Vf) : (s.modVf k u).mem = s.mem := rfl
@[simp] theorem setVf_keyOf (v : Vf) : (s.setVf k v).keyOf = s.keyOf := rfl
@[simp] theorem setVf_fused (v : Vf) : (s.setVf k v).fused = s.fused := rfl
@[simp] theorem modVf_keyOf (u : Vf → Vf) : (s.modVf k u).keyOf = s.keyOf := rfl
@[simp] theorem modVf_fused (u : Vf → Vf) : (s.modVf k u).fused = s.fused := rfl
@[simp] theorem setVf_farHist (v : Vf) : (s.setVf k v).farHist = s.farHist := rfl
@[simp] theorem setVf_sole (v : Vf) : (s.setVf k v).sole = s.sole := rfl
@[simp] theorem setVf_errs (v : Vf) : (s.setVf k v).errs = s.errs := rfl
@[simp] theorem modVf_farHist (u : Vf → Vf) : (s.modVf k u).farHist = s.farHist := rfl
@[simp] theorem modVf_sole (u : Vf → Vf) : (s.modVf k u).sole = s.sole := rfl
@[simp] theorem modVf_errs (u : Vf → Vf) : (s.modVf k u).errs = s.errs := rfl
@[simp] theorem setVf_fabs (v : Vf) : (s.setVf k v).fabs = s.fabs := rfl
@[simp] theorem modVf_fabs (u : Vf → Vf) : (s.modVf k u).fabs = s.fabs := rfl
@[simp] theorem setVf_mgmt (v : Vf) : (s.setVf k v).mgmt = s.mgmt := rfl
@[simp] theorem modVf_mgmt (u : Vf → Vf) : (s.modVf k u).mgmt = s.mgmt := rfl
@[simp] theorem setVf_clock (v : Vf) : (s.setVf k v).clock = s.clock := rfl
@[simp] theorem modVf_clock (u : Vf → Vf) : (s.modVf k u).clock = s.clock := rfl
@[simp] theorem setVf_mesh (v : Vf) : (s.setVf k v).mesh = s.mesh := rfl
@[simp] theorem modVf_mesh (u : Vf → Vf) : (s.modVf k u).mesh = s.mesh := rfl
@[simp] theorem setVf_colls (v : Vf) : (s.setVf k v).colls = s.colls := rfl
@[simp] theorem modVf_colls (u : Vf → Vf) : (s.modVf k u).colls = s.colls := rfl
@[simp] theorem setVf_links (v : Vf) : (s.setVf k v).links = s.links := rfl
@[simp] theorem modVf_links (u : Vf → Vf) : (s.modVf k u).links = s.links := rfl
@[simp] theorem setVf_ochre (v : Vf) : (s.setVf k v).ochre = s.ochre := rfl
@[simp] theorem modVf_ochre (u : Vf → Vf) : (s.modVf k u).ochre = s.ochre := rfl
@[simp] theorem setVf_dies (v : Vf) : (s.setVf k v).dies = s.dies := rfl
@[simp] theorem modVf_dies (u : Vf → Vf) : (s.modVf k u).dies = s.dies := rfl
@[simp] theorem setVf_power (v : Vf) : (s.setVf k v).power = s.power := rfl
@[simp] theorem modVf_power (u : Vf → Vf) : (s.modVf k u).power = s.power := rfl
@[simp] theorem setVf_own (v : Vf) : (s.setVf k v).vfs = tput s.vfs k v := rfl
@[simp] theorem modVf_own (u : Vf → Vf) : (s.modVf k u).vfs = tput s.vfs k (u (s.vf k)) := rfl
@[simp] theorem setVf_vf_same (v : Vf) : (s.setVf k v).vf k = v := tget_tput_same _ _ _ _
theorem setVf_vf_other (v : Vf) (h : n ≠ k) : (s.setVf k v).vf n = s.vf n := tget_tput_other _ _ _ h
@[simp] theorem modVf_vf_same (u : Vf → Vf) : (s.modVf k u).vf k = u (s.vf k) := tget_tput_same _ _ _ _
theorem modVf_vf_other (u : Vf → Vf) (h : n ≠ k) : (s.modVf k u).vf n = s.vf n := tget_tput_other _ _ _ h
@[simp] theorem setVf_gang (v : Vf) : (s.setVf k v).gang n = s.gang n := rfl
@[simp] theorem modVf_gang (u : Vf → Vf) : (s.modVf k u).gang n = s.gang n := rfl
@[simp] theorem setVf_core (v : Vf) : (s.setVf k v).core n = s.core n := rfl
@[simp] theorem modVf_core (u : Vf → Vf) : (s.modVf k u).core n = s.core n := rfl
@[simp] theorem setVf_quad (v : Vf) : (s.setVf k v).quad n = s.quad n := rfl
@[simp] theorem modVf_quad (u : Vf → Vf) : (s.modVf k u).quad n = s.quad n := rfl
@[simp] theorem setVf_cluster (v : Vf) : (s.setVf k v).cluster n = s.cluster n := rfl
@[simp] theorem modVf_cluster (u : Vf → Vf) : (s.modVf k u).cluster n = s.cluster n := rfl
@[simp] theorem setVf_slice (v : Vf) : (s.setVf k v).slice n = s.slice n := rfl
@[simp] theorem modVf_slice (u : Vf → Vf) : (s.modVf k u).slice n = s.slice n := rfl
@[simp] theorem setVf_ctx (v : Vf) : (s.setVf k v).ctx n = s.ctx n := rfl
@[simp] theorem modVf_ctx (u : Vf → Vf) : (s.modVf k u).ctx n = s.ctx n := rfl

/-! ## advance -/

@[simp] theorem advance_cur : (s.advance k).cur = s.cur := rfl
@[simp] theorem advance_agenda : (s.advance k).agenda = s.agenda := rfl
@[simp] theorem advance_fresh : (s.advance k).fresh = s.fresh := rfl
@[simp] theorem advance_gangs : (s.advance k).gangs = s.gangs := rfl
@[simp] theorem advance_cores : (s.advance k).cores = s.cores := rfl
@[simp] theorem advance_quads : (s.advance k).quads = s.quads := rfl
@[simp] theorem advance_clus : (s.advance k).clus = s.clus := rfl
@[simp] theorem advance_slices : (s.advance k).slices = s.slices := rfl
@[simp] theorem advance_ctxs : (s.advance k).ctxs = s.ctxs := rfl
@[simp] theorem advance_vfs : (s.advance k).vfs = s.vfs := rfl
@[simp] theorem advance_mem : (s.advance k).mem = s.mem := rfl
@[simp] theorem advance_keyOf : (s.advance k).keyOf = s.keyOf := rfl
@[simp] theorem advance_fused : (s.advance k).fused = s.fused := rfl
@[simp] theorem advance_farHist : (s.advance k).farHist = s.farHist := rfl
@[simp] theorem advance_sole : (s.advance k).sole = s.sole := rfl
@[simp] theorem advance_errs : (s.advance k).errs = s.errs := rfl
@[simp] theorem advance_fabs : (s.advance k).fabs = s.fabs := rfl
@[simp] theorem advance_mgmt : (s.advance k).mgmt = s.mgmt := rfl
@[simp] theorem advance_mesh : (s.advance k).mesh = s.mesh := rfl
@[simp] theorem advance_colls : (s.advance k).colls = s.colls := rfl
@[simp] theorem advance_links : (s.advance k).links = s.links := rfl
@[simp] theorem advance_ochre : (s.advance k).ochre = s.ochre := rfl
@[simp] theorem advance_dies : (s.advance k).dies = s.dies := rfl
@[simp] theorem advance_power : (s.advance k).power = s.power := rfl
@[simp] theorem advance_gang : (s.advance k).gang n = s.gang n := rfl
@[simp] theorem advance_core : (s.advance k).core n = s.core n := rfl
@[simp] theorem advance_quad : (s.advance k).quad n = s.quad n := rfl
@[simp] theorem advance_cluster : (s.advance k).cluster n = s.cluster n := rfl
@[simp] theorem advance_slice : (s.advance k).slice n = s.slice n := rfl
@[simp] theorem advance_ctx : (s.advance k).ctx n = s.ctx n := rfl
@[simp] theorem advance_vf : (s.advance k).vf n = s.vf n := rfl

/-! ## bump -/

@[simp] theorem bump_now : (s.bump).now = s.now := rfl
@[simp] theorem bump_cur : (s.bump).cur = s.cur := rfl
@[simp] theorem bump_agenda : (s.bump).agenda = s.agenda := rfl
@[simp] theorem bump_gangs : (s.bump).gangs = s.gangs := rfl
@[simp] theorem bump_cores : (s.bump).cores = s.cores := rfl
@[simp] theorem bump_quads : (s.bump).quads = s.quads := rfl
@[simp] theorem bump_clus : (s.bump).clus = s.clus := rfl
@[simp] theorem bump_slices : (s.bump).slices = s.slices := rfl
@[simp] theorem bump_ctxs : (s.bump).ctxs = s.ctxs := rfl
@[simp] theorem bump_vfs : (s.bump).vfs = s.vfs := rfl
@[simp] theorem bump_mem : (s.bump).mem = s.mem := rfl
@[simp] theorem bump_keyOf : (s.bump).keyOf = s.keyOf := rfl
@[simp] theorem bump_fused : (s.bump).fused = s.fused := rfl
@[simp] theorem bump_farHist : (s.bump).farHist = s.farHist := rfl
@[simp] theorem bump_sole : (s.bump).sole = s.sole := rfl
@[simp] theorem bump_errs : (s.bump).errs = s.errs := rfl
@[simp] theorem bump_fabs : (s.bump).fabs = s.fabs := rfl
@[simp] theorem bump_mgmt : (s.bump).mgmt = s.mgmt := rfl
@[simp] theorem bump_clock : (s.bump).clock = s.clock := rfl
@[simp] theorem bump_mesh : (s.bump).mesh = s.mesh := rfl
@[simp] theorem bump_colls : (s.bump).colls = s.colls := rfl
@[simp] theorem bump_links : (s.bump).links = s.links := rfl
@[simp] theorem bump_ochre : (s.bump).ochre = s.ochre := rfl
@[simp] theorem bump_dies : (s.bump).dies = s.dies := rfl
@[simp] theorem bump_power : (s.bump).power = s.power := rfl
@[simp] theorem bump_gang : (s.bump).gang n = s.gang n := rfl
@[simp] theorem bump_core : (s.bump).core n = s.core n := rfl
@[simp] theorem bump_quad : (s.bump).quad n = s.quad n := rfl
@[simp] theorem bump_cluster : (s.bump).cluster n = s.cluster n := rfl
@[simp] theorem bump_slice : (s.bump).slice n = s.slice n := rfl
@[simp] theorem bump_ctx : (s.bump).ctx n = s.ctx n := rfl
@[simp] theorem bump_vf : (s.bump).vf n = s.vf n := rfl

@[simp] theorem advance_now : (s.advance k).now = s.now + k := rfl
@[simp] theorem bump_fresh : s.bump.fresh = s.fresh + 1 := rfl

end Sys2Proof.Machine
end

