-- ==== Sys2Proof/Laws/Regs.lean ====
section
/-!
SUPPORT. What landing a register write does to each register, and what the shared register-writing operation does.
-/

namespace Sys2Proof.Machine

/-! ## Places -/

/-- The value at a place of a lane. -/
def Lane.placeVal (x : Lane) : Dest → Word
  | .ent k => tget 0#64 x.ent k
  | .hi n => tget 0#64 x.hi n
  | .pr n => if x.p.getLsbD n then 1#64 else 0#64

@[simp] theorem put_base (x : Lane) (d : Dest) (v : Word) : (x.put d v).base = x.base := by cases d <;> rfl
@[simp] theorem put_tidx (x : Lane) (d : Dest) (v : Word) : (x.put d v).tidx = x.tidx := by cases d <;> rfl
@[simp] theorem put_still (x : Lane) (d : Dest) (v : Word) : (x.put d v).still = x.still := by cases d <;> rfl
@[simp] theorem put_fflags (x : Lane) (d : Dest) (v : Word) : (x.put d v).fflags = x.fflags := by cases d <;> rfl

theorem put_ent_same (x : Lane) (k : Nat) (v : Word) : tget 0#64 (x.put (.ent k) v).ent k = v := by simp [Lane.put]
theorem put_hi_same (x : Lane) (k : Nat) (v : Word) : tget 0#64 (x.put (.hi k) v).hi k = v := by simp [Lane.put]

theorem put_ent_other (x : Lane) (d : Dest) (v : Word) (k : Nat) (h : d ≠ .ent k) : tget 0#64 (x.put d v).ent k = tget 0#64 x.ent k := by
  cases d with
  | ent j => simp [Lane.put]; exact tget_tput_other _ _ _ (fun e => h (by rw [e]))
  | hi j => rfl
  | pr j => rfl

theorem put_hi_other (x : Lane) (d : Dest) (v : Word) (k : Nat) (h : d ≠ .hi k) : tget 0#64 (x.put d v).hi k = tget 0#64 x.hi k := by
  cases d with
  | ent j => rfl
  | hi j => simp [Lane.put]; exact tget_tput_other _ _ _ (fun e => h (by rw [e]))
  | pr j => rfl

/-- A register keeps its value when another place is written. -/
theorem put_rdW_other (x : Lane) (d : Dest) (v : Word) (l n : Nat) (h : x.destW n ≠ some d) : (x.put d v).rdW l n = x.rdW l n := by
  unfold Lane.rdW
  unfold Lane.destW at h
  split_ifs at h ⊢ with h1 h2 h3 h4 <;> try rfl
  all_goals try (simp_all; done)
  · simp only [Lane.entOf, put_base] at *
    exact put_ent_other _ _ _ _ (fun e => h (by rw [e]))
  · exact put_hi_other _ _ _ _ (fun e => h (by rw [e]))

/-- A register holds what is written to its place. -/
theorem put_rdW_same (x : Lane) (d : Dest) (v : Word) (l n : Nat) (h : x.destW n = some d) : (x.put d v).rdW l n = v := by
  unfold Lane.destW at h
  unfold Lane.rdW
  split_ifs at h ⊢ with h1 h2 h3 h4 <;> simp_all
  · subst h; simp [Lane.entOf, put_ent_same]
  · subst h; exact put_hi_same _ _ _

theorem bit_small (n k : Nat) (hk : k < 8) (hn : n < 8) : (BitVec.ofNat 8 (2 ^ n)).getLsbD k = decide (k = n) := by
  interval_cases n <;> interval_cases k <;> decide

theorem put_rdP_other (x : Lane) (d : Dest) (v : Word) (n : Nat) (hn : n < 8) (h : destP n ≠ some d) :
    (x.put d v).rdP n = x.rdP n := by
  cases d with
  | ent k => rfl
  | hi k => rfl
  | pr k =>
    by_cases h0 : n = 0
    · simp [Lane.rdP, h0]
    · have hne : n ≠ k := by
        intro e
        exact h (by simp [destP, e]; omega)
      have hb : (BitVec.ofNat 8 (2 ^ k)).getLsbD n = false := by
        by_cases hk : k < 8
        · rw [bit_small k n hn hk]; simpa using hne
        · have : BitVec.ofNat 8 (2 ^ k) = 0#8 := by
            apply BitVec.eq_of_toNat_eq
            obtain ⟨j, rfl⟩ : ∃ j, k = 8 + j := ⟨k - 8, by omega⟩
            simp [Nat.pow_add]
          rw [this]; simp
      unfold Lane.rdP Lane.put
      by_cases hv : v.getLsbD 0 = true
      · simp only [hv, if_true, BitVec.getLsbD_or, hb, Bool.or_false]
      · simp only [hv, Bool.false_eq_true, if_false, BitVec.getLsbD_and, BitVec.getLsbD_not, hb, hn, decide_true,
          Bool.not_false, Bool.and_true]

theorem put_rdP_same (x : Lane) (v : Word) (n : Nat) (hn : n < 8) (h0 : n ≠ 0) : (x.put (.pr n) v).rdP n = v.getLsbD 0 := by
  have hb := bit_small n n hn hn
  have hz : (n == 0) = false := by simpa using h0
  unfold Lane.rdP Lane.put
  by_cases hv : v.getLsbD 0 = true
  · simp only [hv, if_true, BitVec.getLsbD_or, hb, decide_true, Bool.or_true]
  · simp only [hv, Bool.false_eq_true, if_false, BitVec.getLsbD_and, BitVec.getLsbD_not, hb, decide_true, hn, Bool.not_true, Bool.and_false,
      hz, Bool.or_false]

/-! ## Landing lists of writes -/

theorem regs_put_lane (r : Regs) (l n : Nat) (d : Dest) (v : Word) :
    (r.put l d v).lane n = if n = l then (r.lane l).put d v else r.lane n := by
  unfold Regs.put Regs.modLane Regs.setLane Regs.lane
  exact tget_tput _ _ _ _ _

@[simp] theorem landAll_nil (r : Regs) (vs : List Word) : r.landAll [] vs = r := by cases vs <;> rfl

theorem landAll_cons (r : Regs) (l : Nat) (d : Dest) (ds : List (Nat × Dest)) (v : Word) (vs : List Word) :
    r.landAll ((l, d) :: ds) (v :: vs) = (r.put l d v).landAll ds vs := rfl

/-- What a property of lanes that no register write changes gives for a list of them. -/
theorem landAll_keeps {β : Type} (q : Lane → β) (hq : ∀ x d v, q (Lane.put x d v) = q x) (r : Regs) (ds : List (Nat × Dest))
    (vs : List Word) (l : Nat) : q ((r.landAll ds vs).lane l) = q (r.lane l) := by
  induction ds generalizing r vs with
  | nil => simp
  | cons e ds ih =>
    obtain ⟨k, d⟩ := e
    cases vs with
    | nil => rfl
    | cons v vs =>
      rw [landAll_cons, ih, regs_put_lane]
      split
      · next h => rw [hq, h]
      · rfl

theorem landAll_base (r : Regs) (ds : List (Nat × Dest)) (vs : List Word) (l : Nat) : ((r.landAll ds vs).lane l).base = (r.lane l).base :=
  landAll_keeps Lane.base put_base r ds vs l

theorem landAll_destW (r : Regs) (ds : List (Nat × Dest)) (vs : List Word) (l n : Nat) :
    ((r.landAll ds vs).lane l).destW n = (r.lane l).destW n := by
  simp [Lane.destW, Lane.entOf, landAll_base]

/-- Landing changes the lanes alone. -/
theorem landAll_rest (r : Regs) (ds : List (Nat × Dest)) (vs : List Word) : { r.landAll ds vs with lanes := r.lanes } = r := by
  induction ds generalizing r vs with
  | nil => simp
  | cons e ds ih =>
    obtain ⟨k, d⟩ := e
    cases vs with
    | nil => rfl
    | cons v vs =>
      have h := ih (r.put k d v) vs
      rw [landAll_cons]
      have h2 : (r.put k d v) = { r with lanes := (r.put k d v).lanes } := rfl
      rw [h2] at h ⊢
      simpa using congrArg (fun x : Regs => { x with lanes := r.lanes }) h

/-- A register that no write of the list names keeps its value. -/
theorem landAll_rdW_other (r : Regs) (ds : List (Nat × Dest)) (vs : List Word) (l n : Nat)
    (h : ∀ e ∈ ds, e.1 = l → (r.lane l).destW n ≠ some e.2) : (r.landAll ds vs).rdW l n = r.rdW l n := by
  induction ds generalizing r vs with
  | nil => simp
  | cons e ds ih =>
    obtain ⟨k, d⟩ := e
    cases vs with
    | nil => rfl
    | cons v vs =>
      have hd : ((r.put k d v).lane l).destW n = (r.lane l).destW n := by
        rw [regs_put_lane]
        split
        · next hl => subst hl; simp [Lane.destW, Lane.entOf]
        · rfl
      rw [landAll_cons, ih]
      · unfold Regs.rdW
        rw [regs_put_lane]
        split
        · next hl => subst hl; exact put_rdW_other _ _ _ _ _ (h (l, d) (by simp) rfl)
        · rfl
      · intro e he hl
        rw [hd]
        exact h e (by simp [he]) hl

theorem landAll_rdP_other (r : Regs) (ds : List (Nat × Dest)) (vs : List Word) (l n : Nat) (hn : n < 8)
    (h : ∀ e ∈ ds, e.1 = l → destP n ≠ some e.2) : (r.landAll ds vs).rdP l n = r.rdP l n := by
  induction ds generalizing r vs with
  | nil => simp
  | cons e ds ih =>
    obtain ⟨k, d⟩ := e
    cases vs with
    | nil => rfl
    | cons v vs =>
      rw [landAll_cons, ih]
      · unfold Regs.rdP
        rw [regs_put_lane]
        split
        · next hl => subst hl; exact put_rdP_other _ _ _ _ hn (h (l, d) (by simp) rfl)
        · rfl
      · intro e he hl
        exact h e (by simp [he]) hl

/-- A list of writes of `wd` in some lanes. -/
theorem destsW_cons (r : Regs) (d l : Nat) (v : Word) (vs : List (Nat × Word)) :
    r.destsW d ((l, v) :: vs) = match (r.lane l).destW d with
      | none => r.destsW d vs
      | some x => ((l, x) :: (r.destsW d vs).1, v :: (r.destsW d vs).2) := by
  unfold Regs.destsW
  cases h : (r.lane l).destW d <;> simp [h]

theorem destsW_mem (r : Regs) (d : Nat) (vs : List (Nat × Word)) (e : Nat × Dest) (h : e ∈ (r.destsW d vs).1) :
    (r.lane e.1).destW d = some e.2 := by
  simp only [Regs.destsW, List.mem_map, List.mem_filterMap, Option.map_eq_some_iff] at h
  obtain ⟨x, ⟨y, _, z, hz, rfl⟩, rfl⟩ := h
  exact hz

theorem destsW_congr (r q : Regs) (d : Nat) (vs : List (Nat × Word)) (h : ∀ l, (q.lane l).destW d = (r.lane l).destW d) :
    q.destsW d vs = r.destsW d vs := by simp [Regs.destsW, h]

/-- Two places of a register of one lane are one. -/
theorem destW_inj (x : Lane) (n d : Nat) (p : Dest) (hn : x.destW n = some p) (hd : x.destW d = some p) (h1 : n < 32) (h2 : d < 32) : n = d := by
  unfold Lane.destW Lane.entOf at hn hd
  split_ifs at hn hd <;> simp_all
  · subst hn
    have hm : ∀ a b : Int, a.emod b = a % b := fun _ _ => rfl
    simp only [Dest.ent.injEq, hm] at hd
    omega
  · subst hn; simp at hd
  · subst hn; simp at hd
  · subst hn; simpa using hd.symm

/-- After `wd` of some lanes is written, it holds the value written; every other register is as before. -/
theorem landAll_destsW (r : Regs) (d : Nat) (hd : d < 32) (lanes : List Nat) (f : Nat → Word) (l n : Nat) (hn : n < 32) :
    (r.landAll (r.destsW d (lanes.map (fun k => (k, f k)))).1 (r.destsW d (lanes.map (fun k => (k, f k)))).2).rdW l n =
      (intoW d lanes f l n).getD (r.rdW l n) := by
  induction lanes generalizing r with
  | nil => simp [Regs.destsW, intoW]
  | cons k t ih =>
    rw [List.map_cons, destsW_cons]
    cases hx : (r.lane k).destW d with
    | none =>
      have hig : d = 24 ∨ d = 25 ∨ d = 31 := by
        unfold Lane.destW at hx
        split_ifs at hx; assumption
      simp only [ih]
      have : intoW d (k :: t) f l n = intoW d t f l n := by
        unfold intoW
        rcases hig with h | h | h <;> subst h <;> by_cases hh : n = 24 <;> by_cases h2 : n = 25 <;> by_cases h3 : n = 31 <;> simp_all
      rw [this]
    | some x =>
      simp only [landAll_cons]
      have hc : r.destsW d (t.map (fun k => (k, f k))) = (r.put k x (f k)).destsW d (t.map (fun k => (k, f k))) := by
        symm; apply destsW_congr
        intro j
        rw [regs_put_lane]
        split
        · next h => subst h; simp [Lane.destW, Lane.entOf]
        · rfl
      rw [hc, ih]
      have hok : d ≠ 24 ∧ d ≠ 25 ∧ d ≠ 31 := by
        unfold Lane.destW at hx
        split_ifs at hx <;> omega
      have hlane : (r.put k x (f k)).rdW l n = if n = d ∧ l = k then f k else r.rdW l n := by
        unfold Regs.rdW
        rw [regs_put_lane]
        by_cases hl : l = k
        · subst hl
          by_cases hnd : n = d
          · subst hnd; simp [put_rdW_same _ _ _ _ _ hx]
          · simp only [if_true, hnd, false_and, if_false]
            exact put_rdW_other _ _ _ _ _ (fun e => hnd (destW_inj _ _ _ _ e hx hn hd))
        · simp [hl]
      rw [hlane]
      unfold intoW
      by_cases hnd : n = d
      · subst hnd
        by_cases hl : l = k
        · subst hl
          by_cases hm : l ∈ t <;> simp [hok, hm]
        · by_cases hm : l ∈ t <;> simp [hok, hm, hl]
      · simp [hnd]

theorem landAll_destsW_P (r : Regs) (d : Nat) (vs : List (Nat × Word)) (l n : Nat) (hn : n < 8) :
    (r.landAll (r.destsW d vs).1 (r.destsW d vs).2).rdP l n = r.rdP l n := by
  apply landAll_rdP_other _ _ _ _ _ hn
  intro e he _ hp
  have h1 := destsW_mem r d vs e he
  have : ∃ k, e.2 = .pr k := by
    unfold destP at hp
    split_ifs at hp
    exact ⟨n, by simpa using hp.symm⟩
  obtain ⟨k, hk⟩ := this
  unfold Lane.destW at h1
  split_ifs at h1 <;> simp_all

/-! ## Landing what is in flight -/

/-- Lands a list of pending writes, in order. -/
def landList (ws : List PendWrite) (r : Regs) : Regs := ws.foldl (fun r w => r.landAll w.dst w.vals) r

theorem view_eq (g : Gang) : g.view = landList (g.pend.filter (fun w => w.land.isSome)) g.r := rfl

@[simp] theorem landList_nil (r : Regs) : landList [] r = r := rfl
theorem landList_cons (w : PendWrite) (ws : List PendWrite) (r : Regs) : landList (w :: ws) r = landList ws (r.landAll w.dst w.vals) := rfl
theorem landList_append (ws vs : List PendWrite) (r : Regs) : landList (ws ++ vs) r = landList vs (landList ws r) := by
  simp [landList, List.foldl_append]

theorem landList_destW (ws : List PendWrite) (r : Regs) (l n : Nat) : ((landList ws r).lane l).destW n = (r.lane l).destW n := by
  induction ws generalizing r with
  | nil => rfl
  | cons w ws ih => rw [landList_cons, ih, landAll_destW]

theorem landAll_rdW_congr (r q : Regs) (ds : List (Nat × Dest)) (vs : List Word) (l n : Nat) (hb : ∀ k, (q.lane k).destW n = (r.lane k).destW n)
    (h : q.rdW l n = r.rdW l n) : (q.landAll ds vs).rdW l n = (r.landAll ds vs).rdW l n := by
  induction ds generalizing r q vs with
  | nil => simpa using h
  | cons e ds ih =>
    obtain ⟨k, d⟩ := e
    cases vs with
    | nil => exact h
    | cons v vs =>
      rw [landAll_cons, landAll_cons]
      apply ih
      · intro j
        have e1 : ((q.put k d v).lane j).destW n = (q.lane j).destW n := landAll_destW q [(k, d)] [v] j n
        have e2 : ((r.put k d v).lane j).destW n = (r.lane j).destW n := landAll_destW r [(k, d)] [v] j n
        rw [e1, e2, hb]
      · by_cases hl : l = k
        · subst hl
          unfold Regs.rdW
          rw [regs_put_lane, regs_put_lane]
          simp only [if_true]
          by_cases hx : (r.lane l).destW n = some d
          · rw [put_rdW_same _ _ _ _ _ hx, put_rdW_same _ _ _ _ _ ((hb l).trans hx)]
          · rw [put_rdW_other _ _ _ _ _ hx, put_rdW_other _ _ _ _ _ (by rw [hb l]; exact hx)]
            exact h
        · unfold Regs.rdW at h ⊢
          rw [regs_put_lane, regs_put_lane]
          simpa [hl] using h

theorem landList_rdW_congr (ws : List PendWrite) (r q : Regs) (l n : Nat) (hb : ∀ k, (q.lane k).destW n = (r.lane k).destW n)
    (h : q.rdW l n = r.rdW l n) : (landList ws q).rdW l n = (landList ws r).rdW l n := by
  induction ws generalizing r q with
  | nil => exact h
  | cons w ws ih =>
    rw [landList_cons, landList_cons]
    exact ih _ _ (fun k => by rw [landAll_destW, landAll_destW, hb]) (landAll_rdW_congr r q _ _ _ _ hb h)

theorem landList_rdW_other (ws : List PendWrite) (r : Regs) (l n : Nat)
    (h : ∀ w ∈ ws, ∀ e ∈ w.dst, e.1 = l → (r.lane l).destW n ≠ some e.2) : (landList ws r).rdW l n = r.rdW l n := by
  induction ws generalizing r with
  | nil => rfl
  | cons w ws ih =>
    rw [landList_cons, ih]
    · exact landAll_rdW_other _ _ _ _ _ (h w (by simp))
    · intro v hv e he hl
      rw [landAll_destW]
      exact h v (by simp [hv]) e he hl

theorem landAll_rdP_congr (r q : Regs) (ds : List (Nat × Dest)) (vs : List Word) (l n : Nat) (hn : n < 8) (h : q.rdP l n = r.rdP l n) :
    (q.landAll ds vs).rdP l n = (r.landAll ds vs).rdP l n := by
  induction ds generalizing r q vs with
  | nil => simpa using h
  | cons e ds ih =>
    obtain ⟨k, d⟩ := e
    cases vs with
    | nil => exact h
    | cons v vs =>
      rw [landAll_cons, landAll_cons]
      apply ih
      unfold Regs.rdP at h ⊢
      rw [regs_put_lane, regs_put_lane]
      by_cases hl : l = k
      · subst hl
        simp only [if_true]
        by_cases hx : destP n = some d
        · have h0 : n ≠ 0 := by
            intro e; simp [destP, e] at hx
          have : d = .pr n := by simpa [destP, h0] using hx.symm
          subst this
          rw [put_rdP_same _ _ _ hn h0, put_rdP_same _ _ _ hn h0]
        · rw [put_rdP_other _ _ _ _ hn hx, put_rdP_other _ _ _ _ hn hx]; exact h
      · simpa [hl] using h

theorem landList_rdP_congr (ws : List PendWrite) (r q : Regs) (l n : Nat) (hn : n < 8) (h : q.rdP l n = r.rdP l n) :
    (landList ws q).rdP l n = (landList ws r).rdP l n := by
  induction ws generalizing r q with
  | nil => exact h
  | cons w ws ih =>
    rw [landList_cons, landList_cons]
    exact ih _ _ (landAll_rdP_congr r q _ _ _ _ hn h)

theorem landList_rdP_other (ws : List PendWrite) (r : Regs) (l n : Nat) (hn : n < 8)
    (h : ∀ w ∈ ws, ∀ e ∈ w.dst, e.1 = l → destP n ≠ some e.2) : (landList ws r).rdP l n = r.rdP l n := by
  induction ws generalizing r with
  | nil => rfl
  | cons w ws ih =>
    rw [landList_cons, ih]
    · exact landAll_rdP_other _ _ _ _ _ hn (h w (by simp))
    · intro v hv e he hl
      exact h v (by simp [hv]) e he hl

/-! ## The shared register-writing operation -/

theorem next_still (r : Regs) : r.next.still = r.still := by
  have hb : ∀ k (r : Regs), (Regs.loopBack k r).still = r.still := by
    intro k
    induction k with
    | zero => intro r; rfl
    | succ k ih =>
      intro r
      unfold Regs.loopBack
      split
      · rfl
      · split
        · rw [ih]; rfl
        · rfl
  unfold Regs.next
  split
  · exact hb _ _
  · split_ifs
    · rfl
    · rfl
    · rw [hb]; rfl

theorem next_lanes (r : Regs) : r.next.lanes = r.lanes := by
  have hb : ∀ k (r : Regs), (Regs.loopBack k r).lanes = r.lanes := by
    intro k
    induction k with
    | zero => intro r; rfl
    | succ k ih =>
      intro r
      unfold Regs.loopBack
      split
      · rfl
      · split
        · rw [ih]
        · rfl
  unfold Regs.next
  split
  · exact hb _ _
  · split_ifs
    · rfl
    · rfl
    · rw [hb]

/-- The next word does not depend on the lanes. -/
theorem next_withLanes (r : Regs) (x : Tab Lane) : ({ r with lanes := x } : Regs).next = { r.next with lanes := x } := by
  have hb : ∀ k (r : Regs), Regs.loopBack k { r with lanes := x } = { Regs.loopBack k r with lanes := x } := by
    intro k
    induction k with
    | zero => intro r; rfl
    | succ k ih =>
      intro r
      have hdl : Regs.dueLevel { r with lanes := x } r.pc = r.dueLevel r.pc := rfl
      unfold Regs.loopBack
      dsimp only
      rw [hdl]
      cases r.dueLevel r.pc with
      | none => rfl
      | some e =>
        obtain ⟨j, lv⟩ := e
        dsimp only
        split
        · exact ih { r with loops := tput r.loops j { lv with active := false } }
        · rfl
  rcases r with ⟨thr, act, pc, blk, lanes, xc, div, loops, seq, rep, sb, tr⟩
  unfold Regs.next
  cases rep with
  | none => exact hb 4 ⟨thr, act, pc, blk, lanes, xc, div, loops, seq, none, sb, tr⟩
  | some f =>
    dsimp only
    split_ifs
    · rfl
    · rfl
    · exact hb 4 ⟨thr, act, pc, blk, lanes, xc, div, loops, seq, none, sb, tr⟩

/-- What the end of a word that is not the 512th of its chunk does. -/
theorem retire_early (s : State) (st : BitVec 3) (r : Regs) (h : s.early) :
    s.retire st r = (s.modCore (ckOfGk s.cur) (fun c => { c with nextIssue := s.now + 1, lastIssued := slotOfGk s.cur })).modGang s.cur
      (fun g => { g with r := r, ch := { g.ch with count := g.ch.count + 1 }, readyAt := s.now + 1 + st.toNat, yielded := false
                         wait := none, prog := 0, aw := none, sent := tdel g.sent (g.r.tr.tlvl + 1) }) := by
  unfold State.retire
  simp only [modGang_gang_same, modCore_gang]
  have : ¬ 512 ≤ (s.gang s.cur).ch.count + 1 := by unfold State.early at h; omega
  simp [this]

/-- The frame of a word that writes lane registers and goes on. -/
theorem goes_of (s : State) (st : BitVec 3) (g' : Gang) (n : Nat) (r' : Regs) (he : s.early)
    (hg : g'.still = (s.gang s.cur).still) (hc : g'.ch.count = (s.gang s.cur).ch.count)
    (hr : g'.r = { (s.gang s.cur).r with lanes := g'.r.lanes })
    (hl : ∀ l, (g'.r.lane l).still = (s.regs.lane l).still) (hf : ∀ l, (g'.r.lane l).fflags = (s.regs.lane l).fflags)
    (hp : g'.pend.filter (fun w => w.land.isNone) = (s.gang s.cur).pend.filter (fun w => w.land.isNone)) (hr' : r' = g'.r.next) :
    Goes s (({ s.modGang s.cur (fun _ => g') with fresh := n } : State).retire st r') st s.regs.next noFlags := by
  subst hr'
  have hcur : ({ s.modGang s.cur (fun _ => g') with fresh := n } : State).gang s.cur = g' := modGang_gang_same s s.cur (fun _ => g')
  have he2 : ({ s.modGang s.cur (fun _ => g') with fresh := n } : State).early := by
    unfold State.early at he ⊢
    rw [show ({ s.modGang s.cur (fun _ => g') with fresh := n } : State).cur = s.cur from rfl, hcur, hc]; exact he
  rw [retire_early _ _ _ he2]
  set u : State := { s.modGang s.cur (fun _ => g') with fresh := n } with hu
  have hug : u.gang s.cur = g' := hcur
  have hucur : u.cur = s.cur := rfl
  have hnow : u.now = s.now := rfl
  have hnext : g'.r.next = { s.regs.next with lanes := g'.r.lanes } := by
    rw [hr]; exact next_withLanes _ _
  refine ⟨?_, ?_, ?_, ?_, ?_, ?_, ?_, ?_, ?_, ?_, ?_⟩
  · unfold State.still
    simp only [modGang_cur, modCore_cur, hucur, modGang_own, modCore_gangs, modGang_cores, modCore_own, modGang_core, modCore_core_same,
      tput_tput_same]
    rw [show u.gangs = tput s.gangs s.cur g' from rfl, tput_tput_same]
    rfl
  · simp only [hucur, modGang_gang_same, modCore_gang, hug]
    rw [← hg]
    simp [Gang.still]
  · unfold State.regs
    simp only [modGang_cur, modCore_cur, hucur, modGang_gang_same]
    rw [next_still, hr]; rfl
  · unfold State.regs
    simp only [modGang_cur, modCore_cur, hucur, modGang_gang_same]
    rw [hnext]; rfl
  · unfold State.regs
    simp only [modGang_cur, modCore_cur, hucur, modGang_gang_same]
    rw [hnext]; rfl
  · unfold State.regs
    simp only [modGang_cur, modCore_cur, hucur, modGang_gang_same]
    rw [hnext]; rfl
  · intro l
    unfold State.regs
    simp only [modGang_cur, modCore_cur, hucur, modGang_gang_same]
    have : (g'.r.next).lane l = g'.r.lane l := by unfold Regs.lane; rw [next_lanes]
    rw [this]; exact hl l
  · intro l
    have : (g'.r.next).lane l = g'.r.lane l := by unfold Regs.lane; rw [next_lanes]
    conv_lhs => unfold State.regs
    simp only [modGang_cur, modCore_cur, hucur, modGang_gang_same, noFlags]
    rw [this, hf l]; simp
  · simp only [hucur, modGang_gang_same, modCore_gang, hug, hc]
  · simp only [hucur, modGang_gang_same, hnow]
  · simp only [hucur, modGang_gang_same, modCore_gang, hug, hp]

/-- The registers seen after the end of a word. -/
theorem retire_view (s : State) (st : BitVec 3) (g' : Gang) (n : Nat) (he : s.early) (hc : g'.ch.count = (s.gang s.cur).ch.count) :
    (({ s.modGang s.cur (fun _ => g') with fresh := n } : State).retire st g'.r.next).cur = s.cur ∧
    ((({ s.modGang s.cur (fun _ => g') with fresh := n } : State).retire st g'.r.next).gang s.cur).r = g'.r.next ∧
    ((({ s.modGang s.cur (fun _ => g') with fresh := n } : State).retire st g'.r.next).gang s.cur).pend = g'.pend := by
  have hcur : ({ s.modGang s.cur (fun _ => g') with fresh := n } : State).gang s.cur = g' := modGang_gang_same s s.cur (fun _ => g')
  have he2 : ({ s.modGang s.cur (fun _ => g') with fresh := n } : State).early := by
    unfold State.early at he ⊢
    rw [show ({ s.modGang s.cur (fun _ => g') with fresh := n } : State).cur = s.cur from rfl, hcur, hc]; exact he
  rw [retire_early _ _ _ he2]
  set u : State := { s.modGang s.cur (fun _ => g') with fresh := n } with hu
  have hug : u.gang s.cur = g' := hcur
  have hucur : u.cur = s.cur := rfl
  refine ⟨rfl, ?_, ?_⟩
  · simp only [hucur, modGang_gang_same]
  · simp only [hucur, modGang_gang_same, modCore_gang, hug]

theorem landList_lane_congr (ws : List PendWrite) (r q : Regs) (h : r.lanes = q.lanes) : (landList ws r).lanes = (landList ws q).lanes := by
  have hone : ∀ (ds : List (Nat × Dest)) (vs : List Word) (r q : Regs), r.lanes = q.lanes → (r.landAll ds vs).lanes = (q.landAll ds vs).lanes := by
    intro ds
    induction ds with
    | nil => intro vs r q h; simpa using h
    | cons e ds ih =>
      intro vs r q h
      cases vs with
      | nil => exact h
      | cons v vs =>
        rw [landAll_cons, landAll_cons]
        apply ih
        simp [Regs.put, Regs.modLane, Regs.setLane, Regs.lane, h]
  induction ws generalizing r q with
  | nil => exact h
  | cons w ws ih => exact ih _ _ (hone _ _ _ _ h)

theorem landList_rdW_lanes (ws : List PendWrite) (r q : Regs) (h : r.lanes = q.lanes) (l n : Nat) :
    (landList ws r).rdW l n = (landList ws q).rdW l n := by
  unfold Regs.rdW Regs.lane
  rw [landList_lane_congr ws r q h]

theorem landList_rdP_lanes (ws : List PendWrite) (r q : Regs) (h : r.lanes = q.lanes) (l n : Nat) :
    (landList ws r).rdP l n = (landList ws q).rdP l n := by
  unfold Regs.rdP Regs.lane
  rw [landList_lane_congr ws r q h]

/-- The gang after a register write of a latency, and the counter of free values. -/
def Gang.wrote (g : Gang) (fresh now lat : Nat) (dst : List (Nat × Dest)) (vals : List Word) : Gang :=
  if lat ≤ 1 then { g with r := g.r.landAll dst vals }
  else { g with pend := g.pend ++ [{ id := fresh, land := some (now + lat), ctr := none, tcm := false, ready := true, dst := dst
                                     vals := vals }] }

theorem writeRegs_eq (s : State) (lat : Nat) (dst : List (Nat × Dest)) (vals : List Word) :
    s.writeRegs lat dst vals = { s.modGang s.cur (fun _ => (s.gang s.cur).wrote s.fresh s.now lat dst vals) with
      fresh := if lat ≤ 1 then s.fresh else s.fresh + 1 } := by
  unfold State.writeRegs Gang.wrote
  by_cases h : lat ≤ 1
  · simp only [h, if_true]; rfl
  · simp only [h, if_false]; rfl

theorem wrote_still (g : Gang) (fresh now lat : Nat) (dst : List (Nat × Dest)) (vals : List Word) :
    (g.wrote fresh now lat dst vals).still = g.still ∧ (g.wrote fresh now lat dst vals).ch = g.ch ∧
    (g.wrote fresh now lat dst vals).pend.filter (fun w => w.land.isNone) = g.pend.filter (fun w => w.land.isNone) := by
  unfold Gang.wrote
  by_cases h : lat ≤ 1
  · simp [h, Gang.still]
  · simp [h, Gang.still, List.filter_append]

theorem wrote_r (g : Gang) (fresh now lat : Nat) (dst : List (Nat × Dest)) (vals : List Word) :
    (g.wrote fresh now lat dst vals).r = { g.r with lanes := (g.wrote fresh now lat dst vals).r.lanes } ∧
    (∀ l, ((g.wrote fresh now lat dst vals).r.lane l).still = (g.r.lane l).still) ∧
    (∀ l, ((g.wrote fresh now lat dst vals).r.lane l).fflags = (g.r.lane l).fflags) := by
  unfold Gang.wrote
  by_cases h : lat ≤ 1
  · simp only [h, if_true]
    refine ⟨?_, fun l => landAll_keeps _ put_still _ _ _ _, fun l => landAll_keeps _ put_fflags _ _ _ _⟩
    have := landAll_rest g.r dst vals
    have h2 : ∀ q : Regs, { q with lanes := g.r.lanes } = g.r → q = { g.r with lanes := q.lanes } := by
      intro q hq
      rw [← hq]
    exact h2 _ this
  · simp [h]

/-- The frame of a word that writes lane registers and does nothing else. -/
theorem finish_goes (s : State) (st : BitVec 3) (lat : Nat) (dst : List (Nat × Dest)) (vals : List Word) (he : s.early) :
    Goes s ((s.writeRegs lat dst vals).finish st) st s.regs.next noFlags := by
  rw [writeRegs_eq]
  unfold State.finish
  have hw := wrote_still (s.gang s.cur) s.fresh s.now lat dst vals
  have hr := wrote_r (s.gang s.cur) s.fresh s.now lat dst vals
  refine goes_of s st _ _ _ he hw.1 (by rw [hw.2.1]) hr.1 hr.2.1 hr.2.2 hw.2.2 ?_
  congr 2
  exact modGang_gang_same s s.cur (fun _ => (s.gang s.cur).wrote s.fresh s.now lat dst vals)

/-- The registers in view after such a word. -/
theorem finish_view (s : State) (st : BitVec 3) (lat : Nat) (dst : List (Nat × Dest)) (vals : List Word) (he : s.early) (l n : Nat) :
    ((s.writeRegs lat dst vals).finish st).W l n = ((s.gang s.cur).wrote s.fresh s.now lat dst vals).view.rdW l n ∧
    ((s.writeRegs lat dst vals).finish st).P l n = ((s.gang s.cur).wrote s.fresh s.now lat dst vals).view.rdP l n := by
  have hw := wrote_still (s.gang s.cur) s.fresh s.now lat dst vals
  rw [writeRegs_eq]
  unfold State.finish
  set g' := (s.gang s.cur).wrote s.fresh s.now lat dst vals with hg'
  set m := (if lat ≤ 1 then s.fresh else s.fresh + 1) with hm
  have hgg : (({ s.modGang s.cur (fun _ => g') with fresh := m } : State).gang s.cur) = g' :=
    modGang_gang_same s s.cur (fun _ => g')
  have hv := retire_view s st g' m he (by rw [hg', hw.2.1])
  have hrn : (({ s.modGang s.cur (fun _ => g') with fresh := m } : State).gang
      ({ s.modGang s.cur (fun _ => g') with fresh := m } : State).cur).r.next = g'.r.next := by
    rw [show ({ s.modGang s.cur (fun _ => g') with fresh := m } : State).cur = s.cur from rfl, hgg]
  rw [hrn]
  unfold State.W State.P
  rw [hv.1, view_eq, view_eq, hv.2.1, hv.2.2]
  exact ⟨landList_rdW_lanes _ _ _ (next_lanes _) _ _, landList_rdP_lanes _ _ _ (next_lanes _) _ _⟩

/-- What writing `wd` of some lanes and going on does. -/
theorem put_results (s : State) (st : BitVec 3) (lat d : Nat) (lanes : List Nat) (f : Nat → Word) (hd : d < 32) (hf : s.freeW d)
    (he : s.early) :
    Goes s (s.put st lat d (lanes.map (fun l => (l, f l)))) st s.regs.next noFlags ∧
    (∀ l n, n < 32 → (s.put st lat d (lanes.map (fun l => (l, f l)))).W l n = (intoW d lanes f l n).getD (s.W l n)) ∧
    (∀ l n, n < 8 → (s.put st lat d (lanes.map (fun l => (l, f l)))).P l n = s.P l n) := by
  unfold State.put
  set g := s.gang s.cur with hg
  set x := g.r.destsW d (lanes.map (fun l => (l, f l))) with hx
  refine ⟨finish_goes s st lat _ _ he, ?_, ?_⟩
  · intro l n hn
    rw [(finish_view s st lat _ _ he l n).1]
    unfold State.W
    rw [← hg, view_eq, view_eq]
    unfold Gang.wrote
    by_cases h : lat ≤ 1
    · simp only [h, if_true]
      have hone := landAll_destsW g.r d hd lanes f l n hn
      by_cases hnd : n = d
      · subst hnd
        have hfree : ∀ (r : Regs), (∀ k, (r.lane k).destW n = (g.r.lane k).destW n) →
            (landList (g.pend.filter (fun w => w.land.isSome)) r).rdW l n = r.rdW l n := by
          intro r hr
          apply landList_rdW_other
          intro w hw e hee hl
          rw [hr, ← hl]
          exact hf w (List.mem_of_mem_filter hw) e hee
        rw [hfree _ (fun k => landAll_destW _ _ _ _ _), hfree g.r (fun _ => rfl)]
        exact hone
      · have hno : intoW d lanes f l n = none := by simp [intoW, hnd]
        rw [hno] at hone ⊢
        exact landList_rdW_congr _ _ _ _ _ (fun k => landAll_destW _ _ _ _ _) hone
    · simp only [h, if_false, List.filter_append, List.filter_cons, Option.isSome_some, if_true, List.filter_nil, landList_append,
        landList_cons, landList_nil]
      have hc : x = (landList (g.pend.filter (fun w => w.land.isSome)) g.r).destsW d (lanes.map (fun l => (l, f l))) := by
        rw [hx]; symm; apply destsW_congr
        intro k; exact landList_destW _ _ _ _
      rw [hc]
      exact landAll_destsW _ d hd lanes f l n hn
  · intro l n hn
    rw [(finish_view s st lat _ _ he l n).2]
    unfold State.P
    rw [← hg, view_eq, view_eq]
    unfold Gang.wrote
    by_cases h : lat ≤ 1
    · simp only [h, if_true]
      exact landList_rdP_congr _ _ _ _ _ hn (landAll_destsW_P g.r d _ l n hn)
    · simp only [h, if_false, List.filter_append, List.filter_cons, Option.isSome_some, if_true, List.filter_nil, landList_append,
        landList_cons, landList_nil]
      have hc : x = (landList (g.pend.filter (fun w => w.land.isSome)) g.r).destsW d (lanes.map (fun l => (l, f l))) := by
        rw [hx]; symm; apply destsW_congr
        intro k; exact landList_destW _ _ _ _
      rw [hc]
      exact landAll_destsW_P _ d _ l n hn

end Sys2Proof.Machine
end

