-- ==== Sys2Proof/Laws/Results.lean ====
section
/-!
SUPPORT. What the shared shapes of register words do: integer, compare, predicate and floating-point words.
-/

namespace Sys2Proof.Machine

/-! ## Predicates -/

theorem destsP_mem (d : Nat) (vs : List (Nat × Bool)) (e : Nat × Dest) (h : e ∈ (Regs.destsP d vs).1) : destP d = some e.2 := by
  unfold Regs.destsP at h
  cases hd : destP d with
  | none => rw [hd] at h; simp at h
  | some x =>
    rw [hd] at h
    simp only [List.mem_map] at h
    obtain ⟨y, _, rfl⟩ := h
    rfl

theorem landAll_destsP_W (r : Regs) (d : Nat) (vs : List (Nat × Bool)) (l n : Nat) :
    (r.landAll (Regs.destsP d vs).1 (Regs.destsP d vs).2).rdW l n = r.rdW l n := by
  apply landAll_rdW_other
  intro e he _ hw
  have h1 := destsP_mem d vs e he
  unfold destP at h1
  split_ifs at h1
  simp only [Option.some.injEq] at h1
  unfold Lane.destW at hw
  split_ifs at hw <;> simp [← h1] at hw

theorem landAll_destsP (r : Regs) (d : Nat) (hd : d < 8) (lanes : List Nat) (f : Nat → Bool) (l n : Nat) (hn : n < 8) :
    (r.landAll (Regs.destsP d (lanes.map (fun k => (k, f k)))).1 (Regs.destsP d (lanes.map (fun k => (k, f k)))).2).rdP l n =
      (intoP d lanes f l n).getD (r.rdP l n) := by
  by_cases h0 : d = 0
  · subst h0
    have : ¬ (n = 0 ∧ n ≠ 0 ∧ l ∈ lanes) := fun h => h.2.1 h.1
    simp only [Regs.destsP, destP, if_true, intoP, if_neg this, landAll_nil, Option.getD_none]
  · have hdp : destP d = some (.pr d) := by simp [destP, h0]
    induction lanes generalizing r with
    | nil => simp [Regs.destsP, hdp, intoP]
    | cons k t ih =>
      have hc : Regs.destsP d ((k :: t).map (fun k => (k, f k))) =
          ((k, .pr d) :: (Regs.destsP d (t.map (fun k => (k, f k)))).1,
           (if f k then 1#64 else 0#64) :: (Regs.destsP d (t.map (fun k => (k, f k)))).2) := by
        simp [Regs.destsP, hdp]
      rw [hc]
      simp only [landAll_cons]
      rw [ih]
      have hlane : (r.put k (.pr d) (if f k then 1#64 else 0#64)).rdP l n = if n = d ∧ l = k then f k else r.rdP l n := by
        unfold Regs.rdP
        rw [regs_put_lane]
        by_cases hl : l = k
        · subst hl
          by_cases hnd : n = d
          · subst hnd
            simp only [if_true, and_self]
            rw [put_rdP_same _ _ _ hn h0]
            cases f l <;> rfl
          · simp only [if_true, hnd, false_and, if_false]
            apply put_rdP_other _ _ _ _ hn
            unfold destP
            split
            · simp
            · simpa using hnd
        · simp [hl]
      rw [hlane]
      unfold intoP
      by_cases hnd : n = d
      · subst hnd
        by_cases hl : l = k
        · subst hl
          by_cases hm : l ∈ t <;> simp [h0, hm]
        · by_cases hm : l ∈ t <;> simp [h0, hm, hl]
      · simp [hnd]

/-- What writing `pd` of some lanes and going on does. -/
theorem putP_results (s : State) (st : BitVec 3) (lat d : Nat) (lanes : List Nat) (f : Nat → Bool) (hd : d < 8) (hf : s.freeP d)
    (he : s.early) :
    Goes s (s.putP st lat d (lanes.map (fun l => (l, f l)))) st s.regs.next noFlags ∧
    (∀ l n, n < 32 → (s.putP st lat d (lanes.map (fun l => (l, f l)))).W l n = s.W l n) ∧
    (∀ l n, n < 8 → (s.putP st lat d (lanes.map (fun l => (l, f l)))).P l n = (intoP d lanes f l n).getD (s.P l n)) := by
  unfold State.putP
  set g := s.gang s.cur with hg
  set x := Regs.destsP d (lanes.map (fun l => (l, f l))) with hx
  refine ⟨finish_goes s st lat _ _ he, ?_, ?_⟩
  · intro l n hn
    rw [(finish_view s st lat _ _ he l n).1]
    unfold State.W
    rw [← hg, view_eq, view_eq]
    unfold Gang.wrote
    by_cases h : lat ≤ 1
    · simp only [h, if_true]
      exact landList_rdW_congr _ _ _ _ _ (fun k => landAll_destW _ _ _ _ _) (landAll_destsP_W g.r d _ l n)
    · simp only [h, if_false, List.filter_append, List.filter_cons, Option.isSome_some, if_true, List.filter_nil, landList_append,
        landList_cons, landList_nil]
      exact landAll_destsP_W _ d _ l n
  · intro l n hn
    rw [(finish_view s st lat _ _ he l n).2]
    unfold State.P
    rw [← hg, view_eq, view_eq]
    unfold Gang.wrote
    by_cases h : lat ≤ 1
    · simp only [h, if_true]
      have hone := landAll_destsP g.r d hd lanes f l n hn
      by_cases hnd : n = d
      · subst hnd
        have hfree : ∀ (r : Regs), (landList (g.pend.filter (fun w => w.land.isSome)) r).rdP l n = r.rdP l n := by
          intro r
          apply landList_rdP_other _ _ _ _ hn
          intro w hw e hee hl
          exact hf w (List.mem_of_mem_filter hw) e hee
        rw [hfree _, hfree g.r]
        exact hone
      · have hno : intoP d lanes f l n = none := by simp [intoP, hnd]
        rw [hno] at hone ⊢
        exact landList_rdP_congr _ _ _ _ _ hn hone
    · simp only [h, if_false, List.filter_append, List.filter_cons, Option.isSome_some, if_true, List.filter_nil, landList_append,
        landList_cons, landList_nil]
      exact landAll_destsP _ d hd lanes f l n hn

/-! ## Flags -/

/-- The flags that a list of lanes and flags raises in a lane. -/
def raised (fs : List (Nat × Flags5)) (l : Nat) : Flags5 := fs.foldl (fun acc e => if e.1 = l then acc ||| e.2 else acc) 0#5

/-- Raises the flags of a list in registers. -/
def Regs.raise (r : Regs) (fs : List (Nat × Flags5)) : Regs := fs.foldl (fun r e => r.modLane e.1 (fun x => x.orFlags e.2)) r

theorem raised_cons (e : Nat × Flags5) (fs : List (Nat × Flags5)) (l : Nat) :
    raised (e :: fs) l = (if e.1 = l then e.2 else 0#5) ||| raised fs l := by
  have h : ∀ (fs : List (Nat × Flags5)) (a : Flags5), fs.foldl (fun acc e => if e.1 = l then acc ||| e.2 else acc) a = a ||| raised fs l := by
    intro fs
    induction fs with
    | nil => intro a; simp [raised]
    | cons x t ih =>
      intro a
      unfold raised
      simp only [List.foldl_cons]
      rw [ih, ih]
      split
      · rw [← BitVec.or_assoc]; simp
      · simp
  unfold raised
  simp only [List.foldl_cons]
  rw [h]
  split <;> simp [raised]

theorem raise_lane (r : Regs) (fs : List (Nat × Flags5)) (l : Nat) :
    (r.raise fs).lane l = { r.lane l with fflags := (r.lane l).fflags ||| raised fs l } := by
  induction fs generalizing r with
  | nil => simp [Regs.raise, raised]
  | cons e t ih =>
    have hs : r.raise (e :: t) = (r.modLane e.1 (fun x => x.orFlags e.2)).raise t := rfl
    rw [hs, ih, raised_cons]
    have hl : (r.modLane e.1 (fun x => x.orFlags e.2)).lane l = if l = e.1 then (r.lane l).orFlags e.2 else r.lane l := by
      unfold Regs.modLane Regs.setLane Regs.lane
      rw [tget_tput]
      split
      · next h => rw [h]
      · rfl
    rw [hl]
    by_cases h : l = e.1
    · subst h; simp [Lane.orFlags, BitVec.or_assoc]
    · simp [h, Ne.symm h]

theorem raise_rest (r : Regs) (fs : List (Nat × Flags5)) : r.raise fs = { r with lanes := (r.raise fs).lanes } := by
  induction fs generalizing r with
  | nil => rfl
  | cons e t ih =>
    have hs : r.raise (e :: t) = (r.modLane e.1 (fun x => x.orFlags e.2)).raise t := rfl
    rw [hs]
    exact ih _

theorem flagLanes_eq (s : State) (fs : List (Nat × Flags5)) :
    s.flagLanes fs = s.modGang s.cur (fun g => { g with r := g.r.raise fs }) := rfl

theorem landAll_raise_W (r q : Regs) (h : ∀ l, (q.lane l).base = (r.lane l).base) (h2 : ∀ l n, q.rdW l n = r.rdW l n) (ws : List PendWrite)
    (l n : Nat) : (landList ws q).rdW l n = (landList ws r).rdW l n :=
  landList_rdW_congr ws r q l n (fun k => by simp [Lane.destW, Lane.entOf, h k]) (h2 l n)

/-- A word that raises flags in some lanes and writes `wd` of some lanes. -/
theorem flagPut_results (s : State) (st : BitVec 3) (lat d : Nat) (fs : List (Nat × Flags5)) (lanes : List Nat) (f : Nat → Word) (hd : d < 32)
    (hf : s.freeW d) (he : s.early) :
    Goes s ((s.flagLanes fs).put st lat d (lanes.map (fun l => (l, f l)))) st s.regs.next (raised fs) ∧
    (∀ l n, n < 32 → ((s.flagLanes fs).put st lat d (lanes.map (fun l => (l, f l)))).W l n = (intoW d lanes f l n).getD (s.W l n)) ∧
    (∀ l n, n < 8 → ((s.flagLanes fs).put st lat d (lanes.map (fun l => (l, f l)))).P l n = s.P l n) := by
  have hlane : ∀ l, ((s.flagLanes fs).regs.lane l) = { s.regs.lane l with fflags := (s.regs.lane l).fflags ||| raised fs l } := by
    intro l
    unfold State.regs
    rw [flagLanes_eq]
    simp only [modGang_cur, modGang_gang_same]
    exact raise_lane _ _ _
  have hgang : (s.flagLanes fs).gang s.cur = { s.gang s.cur with r := (s.gang s.cur).r.raise fs } := by
    rw [flagLanes_eq, modGang_gang_same]
  have hcur : (s.flagLanes fs).cur = s.cur := rfl
  have hfree : (s.flagLanes fs).freeW d := by
    intro w hw e hee
    rw [hcur, hgang] at hw
    rw [hlane]
    exact hf w hw e hee
  have hearly : (s.flagLanes fs).early := by
    unfold State.early at he ⊢
    rw [hcur, hgang]; exact he
  obtain ⟨h1, h2, h3⟩ := put_results (s.flagLanes fs) st lat d lanes f hd hfree hearly
  set t := (s.flagLanes fs).put st lat d (lanes.map (fun l => (l, f l))) with ht
  have hregs : (s.flagLanes fs).regs = s.regs.raise fs := by
    unfold State.regs
    rw [hcur, hgang]
  have hW : ∀ l n, (s.flagLanes fs).W l n = s.W l n := by
    intro l n
    unfold State.W
    rw [hcur, hgang, view_eq, view_eq]
    refine landAll_raise_W _ _ (fun k => by rw [raise_lane]) (fun k m => ?_) _ _ _
    unfold Regs.rdW
    rw [raise_lane]; rfl
  have hP : ∀ l n, n < 8 → (s.flagLanes fs).P l n = s.P l n := by
    intro l n hn
    unfold State.P
    rw [hcur, hgang, view_eq, view_eq]
    refine landList_rdP_congr _ _ _ _ _ hn ?_
    unfold Regs.rdP
    rw [raise_lane]; rfl
  refine ⟨?_, fun l n hn => by rw [h2 l n hn, hW], fun l n hn => by rw [h3 l n hn, hP l n hn]⟩
  have hnext : (s.flagLanes fs).regs.next = { s.regs.next with lanes := (s.regs.raise fs).lanes } := by
    rw [hregs, raise_rest]; exact next_withLanes _ _
  refine ⟨?_, ?_, ?_, ?_, ?_, ?_, ?_, ?_, ?_, ?_, ?_⟩
  · rw [h1.outside, flagLanes_eq]
    unfold State.still
    simp only [modGang_cur, modGang_own, tput_tput_same, modGang_cores, modGang_core]
    rfl
  · have := h1.gang
    rw [hcur, hgang] at this
    rw [this]; rfl
  · rw [h1.regs, hregs, raise_rest]; rfl
  · rw [h1.pc, hnext]
  · rw [h1.loops, hnext]
  · rw [h1.rep, hnext]
  · intro l; rw [h1.lanes, hlane]; rfl
  · intro l
    rw [h1.flags, hlane]; simp [noFlags]
  · have := h1.counted
    rw [hcur, hgang] at this
    exact this
  · have := h1.stall
    rw [hcur] at this
    exact this
  · have := h1.slow
    rw [hcur, hgang] at this
    exact this

theorem raised_map (lanes : List Nat) (fl : Nat → Flags5) (hn : lanes.Nodup) (l : Nat) :
    raised (lanes.map (fun k => (k, fl k))) l = if l ∈ lanes then fl l else 0#5 := by
  induction lanes with
  | nil => simp [raised]
  | cons k t ih =>
    rw [List.map_cons, raised_cons, ih (List.nodup_cons.mp hn).2]
    have hk := (List.nodup_cons.mp hn).1
    by_cases h : k = l
    · subst h; simp [hk]
    · simp [h, Ne.symm h]

theorem selected_nodup (r : Regs) (g : BitVec 4) : (r.selected g).Nodup := by
  unfold Regs.selected Regs.active lanesOf
  exact List.Nodup.filter _ (List.Nodup.filter _ List.nodup_range)

theorem active_nodup (r : Regs) : r.active.Nodup := by
  unfold Regs.active lanesOf
  exact List.Nodup.filter _ List.nodup_range

/-- A floating word: the flags and the results of its selected lanes. -/
theorem fp_results (s : State) (st : BitVec 3) (lat : Nat) (d : BitVec 5) (g : BitVec 4) (f : Nat → Nat → Word × Flags5)
    (hf : s.freeW d.toNat) (he : s.early) :
    Goes s (s.fp st lat d g f) st s.regs.next (fun l => if l ∈ s.regs.selected g then (f (s.regs.lane l).mode l).2 else 0#5) ∧
    (∀ l n, n < 32 → (s.fp st lat d g f).W l n =
      (intoW d.toNat (s.regs.selected g) (fun l => (f (s.regs.lane l).mode l).1) l n).getD (s.W l n)) ∧
    (∀ l n, n < 8 → (s.fp st lat d g f).P l n = s.P l n) := by
  have h := flagPut_results s st lat d.toNat ((s.regs.selected g).map (fun l => (l, (f (s.regs.lane l).mode l).2))) (s.regs.selected g)
    (fun l => (f (s.regs.lane l).mode l).1) (by omega) hf he
  have hr : raised ((s.regs.selected g).map (fun l => (l, (f (s.regs.lane l).mode l).2))) =
      (fun l => if l ∈ s.regs.selected g then (f (s.regs.lane l).mode l).2 else 0#5) := by
    funext l
    exact raised_map _ (fun l => (f (s.regs.lane l).mode l).2) (selected_nodup _ _) l
  rw [hr] at h
  have hfp : s.fp st lat d g f = (s.flagLanes ((s.regs.selected g).map (fun l => (l, (f (s.regs.lane l).mode l).2)))).put st lat d.toNat
      ((s.regs.selected g).map (fun l => (l, (f (s.regs.lane l).mode l).1))) := by
    unfold State.fp
    simp [List.map_map, Function.comp_def]
  rw [hfp]
  exact h

end Sys2Proof.Machine
end

