-- ==== Sys2Proof/Tests/Slice0.lean ====
section
/-!
SUPPORT. Tests: ill-formed terms that each check refuses, words written out from the encoding tables of spec/08 to 13 that decode to what
they stand for, and for each statement with premises a machine and operands that meet them. The last part of each heading shows the
clauses at the ends of their ranges.
-/

open Sys2Proof Sys2Proof.Machine

namespace Sys2Proof.Tests

/-! ## Ill-formed terms and words (08:R205, R212): one for each check -/

theorem test_short_word : decode [0#8, 0#8, 0#8] = .error .shortWord := by decide
theorem test_reserved_major : decodeWord 0xffffffff#32 = .error .reservedMajor := by decide
/-- Member 10 of major 0x00. -/
theorem test_reserved_member : decodeWord 0x000000a0#32 = .error .reservedMember := by decide
theorem test_reserved_guard : (Instr.add 0#3 1#5 2#5 3#5 8#4).ill = some .reservedGuard := by decide
theorem test_reserved_guard_word : decodeWord 0x010000a8#32 = .error .reservedGuard := by decide
/-- Bit 9 of `nop`. -/
theorem test_nonzero_field : decodeWord 0x00000200#32 = .error .nonzeroField := by decide
theorem test_trap_code_zero : (Instr.trap 0#3 0#5 0#4).ill = some .trapCodeZero := by decide
theorem test_loop_length_zero : (Instr.loop 0#3 2#2 7#5 0#14).ill = some .loopLengthZero ∧ decodeWord 0x108e0000#32 = .error .loopLengthZero := by decide
theorem test_reserved_size : (Instr.natomAdd 0#3 4#5 5#5 6#5 3#2).ill = some .reservedSize := by decide
theorem test_odd_pair : (Instr.natomSwap 0#3 5#5 6#5 8#5 2#2).ill = some .oddPair ∧ (Instr.natomSwap 0#3 4#5 6#5 8#5 2#2).ill = none := by decide
theorem test_unused_dest : (Instr.fatomAdd 0#3 4#5 5#5 6#5 1#3 1#2).ill = some .unusedDest ∧ (Instr.fatomAdd 0#3 0#5 5#5 6#5 1#3 1#2).ill = none := by decide
theorem test_unassigned_csr : (Instr.csrr 0#3 9#5 0x003#12).ill = some .unassignedCsr ∧ (Instr.csrr 0#3 9#5 0x010#12).ill = none := by decide
theorem test_stop_mask_zero : (Instr.dstop 0#3 0#4).ill = some .stopMaskZero := by decide
theorem test_decode_sys :
    decodeWord 0xa0000000#32 = .ok (.nop 5#3) ∧
    decodeWord 0xa000001a#32 = .ok (.end_ 5#3 10#4) ∧
    decodeWord 0xa0000020#32 = .ok (.yield 5#3) ∧
    decodeWord 0xa0000030#32 = .ok (.chunk 5#3) ∧
    decodeWord 0xa0000040#32 = .ok (.brk 5#3) ∧
    decodeWord 0xa000045a#32 = .ok (.trap 5#3 2#5 10#4) ∧
    decodeWord 0xa0000060#32 = .ok (.eret 5#3) ∧
    decodeWord 0xa0000070#32 = .ok (.join 5#3) ∧
    decodeWord 0xa0000080#32 = .ok (.ret 5#3) ∧
    decodeWord 0xa0058090#32 = .ok (.tlbinv 5#3 22#5) := by
  repeat (first | rfl | refine ⟨rfl, ?_⟩)

theorem test_decode_ialu :
    decodeWord 0xa16d960a#32 = .ok (.add 5#3 13#5 22#5 11#5 10#4) ∧
    decodeWord 0xa16d961a#32 = .ok (.sub 5#3 13#5 22#5 11#5 10#4) ∧
    decodeWord 0xa16d962a#32 = .ok (.and 5#3 13#5 22#5 11#5 10#4) ∧
    decodeWord 0xa16d963a#32 = .ok (.or 5#3 13#5 22#5 11#5 10#4) ∧
    decodeWord 0xa16d964a#32 = .ok (.xor 5#3 13#5 22#5 11#5 10#4) ∧
    decodeWord 0xa16d965a#32 = .ok (.andn 5#3 13#5 22#5 11#5 10#4) ∧
    decodeWord 0xa16d966a#32 = .ok (.shl 5#3 13#5 22#5 11#5 10#4) ∧
    decodeWord 0xa16d967a#32 = .ok (.shr 5#3 13#5 22#5 11#5 10#4) ∧
    decodeWord 0xa16d968a#32 = .ok (.sar 5#3 13#5 22#5 11#5 10#4) ∧
    decodeWord 0xa16d969a#32 = .ok (.rol 5#3 13#5 22#5 11#5 10#4) ∧
    decodeWord 0xa16d96aa#32 = .ok (.min 5#3 13#5 22#5 11#5 10#4) ∧
    decodeWord 0xa16d96ba#32 = .ok (.max 5#3 13#5 22#5 11#5 10#4) ∧
    decodeWord 0xa16d96ca#32 = .ok (.minu 5#3 13#5 22#5 11#5 10#4) ∧
    decodeWord 0xa16d96da#32 = .ok (.maxu 5#3 13#5 22#5 11#5 10#4) ∧
    decodeWord 0xa16d96ea#32 = .ok (.adds 5#3 13#5 22#5 11#5 10#4) ∧
    decodeWord 0xa16d96fa#32 = .ok (.subs 5#3 13#5 22#5 11#5 10#4) ∧
    decodeWord 0xa16d810a#32 = .ok (.neg 5#3 13#5 22#5 10#4) ∧
    decodeWord 0xa16d811a#32 = .ok (.abs 5#3 13#5 22#5 10#4) ∧
    decodeWord 0xa16d812a#32 = .ok (.clz 5#3 13#5 22#5 10#4) ∧
    decodeWord 0xa16d813a#32 = .ok (.ctz 5#3 13#5 22#5 10#4) ∧
    decodeWord 0xa16d814a#32 = .ok (.popc 5#3 13#5 22#5 10#4) ∧
    decodeWord 0xa16d815a#32 = .ok (.sext8 5#3 13#5 22#5 10#4) ∧
    decodeWord 0xa16d816a#32 = .ok (.sext16 5#3 13#5 22#5 10#4) ∧
    decodeWord 0xa16d817a#32 = .ok (.sext32 5#3 13#5 22#5 10#4) ∧
    decodeWord 0xa16d818a#32 = .ok (.zext32 5#3 13#5 22#5 10#4) ∧
    decodeWord 0xa16d819a#32 = .ok (.brev 5#3 13#5 22#5 10#4) ∧
    decodeWord 0xa16d81aa#32 = .ok (.mov 5#3 13#5 22#5 10#4) ∧
    decodeWord 0xa16d97ba#32 = .ok (.sel 5#3 13#5 22#5 11#5 10#4) := by
  repeat (first | rfl | refine ⟨rfl, ?_⟩)

theorem test_decode_ialu32 :
    decodeWord 0xa26d960a#32 = .ok (.add32 5#3 13#5 22#5 11#5 10#4) ∧
    decodeWord 0xa26d961a#32 = .ok (.sub32 5#3 13#5 22#5 11#5 10#4) ∧
    decodeWord 0xa26d962a#32 = .ok (.and32 5#3 13#5 22#5 11#5 10#4) ∧
    decodeWord 0xa26d963a#32 = .ok (.or32 5#3 13#5 22#5 11#5 10#4) ∧
    decodeWord 0xa26d964a#32 = .ok (.xor32 5#3 13#5 22#5 11#5 10#4) ∧
    decodeWord 0xa26d965a#32 = .ok (.andn32 5#3 13#5 22#5 11#5 10#4) ∧
    decodeWord 0xa26d966a#32 = .ok (.shl32 5#3 13#5 22#5 11#5 10#4) ∧
    decodeWord 0xa26d967a#32 = .ok (.shr32 5#3 13#5 22#5 11#5 10#4) ∧
    decodeWord 0xa26d968a#32 = .ok (.sar32 5#3 13#5 22#5 11#5 10#4) ∧
    decodeWord 0xa26d969a#32 = .ok (.rol32 5#3 13#5 22#5 11#5 10#4) ∧
    decodeWord 0xa26d96aa#32 = .ok (.min32 5#3 13#5 22#5 11#5 10#4) ∧
    decodeWord 0xa26d96ba#32 = .ok (.max32 5#3 13#5 22#5 11#5 10#4) ∧
    decodeWord 0xa26d96ca#32 = .ok (.minu32 5#3 13#5 22#5 11#5 10#4) ∧
    decodeWord 0xa26d96da#32 = .ok (.maxu32 5#3 13#5 22#5 11#5 10#4) ∧
    decodeWord 0xa26d96ea#32 = .ok (.adds32 5#3 13#5 22#5 11#5 10#4) ∧
    decodeWord 0xa26d96fa#32 = .ok (.subs32 5#3 13#5 22#5 11#5 10#4) ∧
    decodeWord 0xa26d810a#32 = .ok (.neg32 5#3 13#5 22#5 10#4) ∧
    decodeWord 0xa26d811a#32 = .ok (.abs32 5#3 13#5 22#5 10#4) ∧
    decodeWord 0xa26d812a#32 = .ok (.clz32 5#3 13#5 22#5 10#4) ∧
    decodeWord 0xa26d813a#32 = .ok (.ctz32 5#3 13#5 22#5 10#4) ∧
    decodeWord 0xa26d814a#32 = .ok (.popc32 5#3 13#5 22#5 10#4) ∧
    decodeWord 0xa26d819a#32 = .ok (.brev32 5#3 13#5 22#5 10#4) ∧
    decodeWord 0xa26d81aa#32 = .ok (.mov32 5#3 13#5 22#5 10#4) ∧
    decodeWord 0xa26d97ba#32 = .ok (.sel32 5#3 13#5 22#5 11#5 10#4) := by
  repeat (first | rfl | refine ⟨rfl, ?_⟩)

theorem test_decode_ialui :
    decodeWord 0xa36d8298#32 = .ok (.addi 5#3 13#5 22#5 664#11) ∧
    decodeWord 0xa36d8f96#32 = .ok (.andi 5#3 13#5 22#5 1942#11) ∧
    decodeWord 0xa36d9135#32 = .ok (.ori 5#3 13#5 22#5 309#11) ∧
    decodeWord 0xa36d9b29#32 = .ok (.xori 5#3 13#5 22#5 809#11) ∧
    decodeWord 0xa36da02a#32 = .ok (.shli 5#3 13#5 22#5 42#6) ∧
    decodeWord 0xa36da804#32 = .ok (.shri 5#3 13#5 22#5 4#6) ∧
    decodeWord 0xa36db005#32 = .ok (.sari 5#3 13#5 22#5 5#6) ∧
    decodeWord 0xa36dbe92#32 = .ok (.slti 5#3 13#5 22#5 1682#11) := by
  repeat (first | rfl | refine ⟨rfl, ?_⟩)

theorem test_decode_movw :
    decodeWord 0xa46b1819#32 = .ok (.movz 5#3 13#5 3#2 6169#16) ∧
    decodeWord 0xa46e9532#32 = .ok (.movk 5#3 13#5 2#2 38194#16) := by
  repeat (first | rfl | refine ⟨rfl, ?_⟩)

theorem test_decode_imul :
    decodeWord 0xa56d960a#32 = .ok (.mul 5#3 13#5 22#5 11#5 10#4) ∧
    decodeWord 0xa56d961a#32 = .ok (.mulh 5#3 13#5 22#5 11#5 10#4) ∧
    decodeWord 0xa56d962a#32 = .ok (.mulhu 5#3 13#5 22#5 11#5 10#4) ∧
    decodeWord 0xa56d963a#32 = .ok (.div 5#3 13#5 22#5 11#5 10#4) ∧
    decodeWord 0xa56d964a#32 = .ok (.divu 5#3 13#5 22#5 11#5 10#4) ∧
    decodeWord 0xa56d965a#32 = .ok (.rem 5#3 13#5 22#5 11#5 10#4) ∧
    decodeWord 0xa56d966a#32 = .ok (.remu 5#3 13#5 22#5 11#5 10#4) ∧
    decodeWord 0xa56d967a#32 = .ok (.mul32 5#3 13#5 22#5 11#5 10#4) ∧
    decodeWord 0xa56d968a#32 = .ok (.div32 5#3 13#5 22#5 11#5 10#4) ∧
    decodeWord 0xa56d969a#32 = .ok (.divu32 5#3 13#5 22#5 11#5 10#4) ∧
    decodeWord 0xa56d96aa#32 = .ok (.rem32 5#3 13#5 22#5 11#5 10#4) ∧
    decodeWord 0xa56d96ba#32 = .ok (.remu32 5#3 13#5 22#5 11#5 10#4) ∧
    decodeWord 0xa56d96ca#32 = .ok (.mulw 5#3 13#5 22#5 11#5 10#4) ∧
    decodeWord 0xa56d96da#32 = .ok (.mulwu 5#3 13#5 22#5 11#5 10#4) := by
  repeat (first | rfl | refine ⟨rfl, ?_⟩)

theorem test_decode_cmp :
    decodeWord 0xa60d960a#32 = .ok (.cmpEq 5#3 1#3 22#5 11#5 10#4) ∧
    decodeWord 0xa62d961a#32 = .ok (.cmpNe 5#3 5#3 22#5 11#5 10#4) ∧
    decodeWord 0xa615962a#32 = .ok (.cmpLt 5#3 2#3 22#5 11#5 10#4) ∧
    decodeWord 0xa60d963a#32 = .ok (.cmpLe 5#3 1#3 22#5 11#5 10#4) ∧
    decodeWord 0xa60d964a#32 = .ok (.cmpLtu 5#3 1#3 22#5 11#5 10#4) ∧
    decodeWord 0xa625965a#32 = .ok (.cmpLeu 5#3 4#3 22#5 11#5 10#4) ∧
    decodeWord 0xa625966a#32 = .ok (.fcmpEq 5#3 4#3 22#5 11#5 10#4) ∧
    decodeWord 0xa60d967a#32 = .ok (.fcmpLt 5#3 1#3 22#5 11#5 10#4) ∧
    decodeWord 0xa615968a#32 = .ok (.fcmpLe 5#3 2#3 22#5 11#5 10#4) ∧
    decodeWord 0xa60d969a#32 = .ok (.fcmpUn 5#3 1#3 22#5 11#5 10#4) ∧
    decodeWord 0xa62902aa#32 = .ok (.pand 5#3 5#3 4#3 1#3 10#4) ∧
    decodeWord 0xa63942ba#32 = .ok (.por 5#3 7#3 5#3 1#3 10#4) ∧
    decodeWord 0xa6118cca#32 = .ok (.pxor 5#3 2#3 6#3 6#3 10#4) ∧
    decodeWord 0xa6284ada#32 = .ok (.pandn 5#3 5#3 1#3 5#3 10#4) := by
  repeat (first | rfl | refine ⟨rfl, ?_⟩)

theorem test_decode_fp :
    decodeWord 0xa76d960a#32 = .ok (.fadd 5#3 13#5 22#5 11#5 10#4) ∧
    decodeWord 0xa76d961a#32 = .ok (.fsub 5#3 13#5 22#5 11#5 10#4) ∧
    decodeWord 0xa76d962a#32 = .ok (.fmul 5#3 13#5 22#5 11#5 10#4) ∧
    decodeWord 0xa76d963a#32 = .ok (.fma 5#3 13#5 22#5 11#5 10#4) ∧
    decodeWord 0xa76d964a#32 = .ok (.fms 5#3 13#5 22#5 11#5 10#4) ∧
    decodeWord 0xa76d965a#32 = .ok (.fnma 5#3 13#5 22#5 11#5 10#4) ∧
    decodeWord 0xa76d966a#32 = .ok (.fmin 5#3 13#5 22#5 11#5 10#4) ∧
    decodeWord 0xa76d967a#32 = .ok (.fmax 5#3 13#5 22#5 11#5 10#4) ∧
    decodeWord 0xa76d808a#32 = .ok (.fabs 5#3 13#5 22#5 10#4) ∧
    decodeWord 0xa76d809a#32 = .ok (.fneg 5#3 13#5 22#5 10#4) ∧
    decodeWord 0xa76d96aa#32 = .ok (.fdiv 5#3 13#5 22#5 11#5 10#4) ∧
    decodeWord 0xa76d80ba#32 = .ok (.fsqrt 5#3 13#5 22#5 10#4) ∧
    decodeWord 0xa76d80ca#32 = .ok (.frcp 5#3 13#5 22#5 10#4) ∧
    decodeWord 0xa76d80da#32 = .ok (.frsq 5#3 13#5 22#5 10#4) ∧
    decodeWord 0xa76d80ea#32 = .ok (.fexp2 5#3 13#5 22#5 10#4) ∧
    decodeWord 0xa76d80fa#32 = .ok (.flog2 5#3 13#5 22#5 10#4) ∧
    decodeWord 0xa76d810a#32 = .ok (.fsinpi 5#3 13#5 22#5 10#4) ∧
    decodeWord 0xa76d811a#32 = .ok (.fcospi 5#3 13#5 22#5 10#4) ∧
    decodeWord 0xa76d972a#32 = .ok (.fcpys 5#3 13#5 22#5 11#5 10#4) ∧
    decodeWord 0xa76d813a#32 = .ok (.fclass 5#3 13#5 22#5 10#4) := by
  repeat (first | rfl | refine ⟨rfl, ?_⟩)

theorem test_decode_fcvt :
    decodeWord 0xa86d800a#32 = .ok (.cvtF32Bf16 5#3 13#5 22#5 10#4) ∧
    decodeWord 0xa86da01a#32 = .ok (.cvtBf16F32 5#3 13#5 22#5 1#1 10#4) ∧
    decodeWord 0xa86d802a#32 = .ok (.cvtF32F16 5#3 13#5 22#5 10#4) ∧
    decodeWord 0xa86da03a#32 = .ok (.cvtF16F32 5#3 13#5 22#5 1#1 10#4) ∧
    decodeWord 0xa86d804a#32 = .ok (.cvtF32E4m3 5#3 13#5 22#5 10#4) ∧
    decodeWord 0xa86da05a#32 = .ok (.cvtE4m3F32 5#3 13#5 22#5 1#1 10#4) ∧
    decodeWord 0xa86d806a#32 = .ok (.cvtF32E5m2 5#3 13#5 22#5 10#4) ∧
    decodeWord 0xa86da07a#32 = .ok (.cvtE5m2F32 5#3 13#5 22#5 1#1 10#4) ∧
    decodeWord 0xa86d808a#32 = .ok (.cvtF32I32 5#3 13#5 22#5 10#4) ∧
    decodeWord 0xa86d809a#32 = .ok (.cvtI32F32 5#3 13#5 22#5 10#4) ∧
    decodeWord 0xa86d80aa#32 = .ok (.cvtF32I64 5#3 13#5 22#5 10#4) ∧
    decodeWord 0xa86d80ba#32 = .ok (.cvtI64F32 5#3 13#5 22#5 10#4) ∧
    decodeWord 0xa86d80ca#32 = .ok (.cvtF32U32 5#3 13#5 22#5 10#4) ∧
    decodeWord 0xa86d80da#32 = .ok (.cvtU32F32 5#3 13#5 22#5 10#4) ∧
    decodeWord 0xa86da0ea#32 = .ok (.packBf16 5#3 13#5 22#5 1#1 10#4) ∧
    decodeWord 0xa86da0fa#32 = .ok (.packE4m3 5#3 13#5 22#5 1#1 10#4) := by
  repeat (first | rfl | refine ⟨rfl, ?_⟩)

theorem test_decode_ld :
    decodeWord 0xa96d9b18#32 = .ok (.ld 5#3 13#5 22#5 108#8 1#2 2#2) ∧
    decodeWord 0xa96d8959#32 = .ok (.ldSx 5#3 13#5 22#5 37#8 1#2 2#2) ∧
    decodeWord 0xa96da2da#32 = .ok (.ldNa 5#3 13#5 22#5 139#8 1#2 2#2) ∧
    decodeWord 0xa96864db#32 = .ok (.ldDesc 5#3 13#5 1#3 147#8 1#2 2#2) := by
  repeat (first | rfl | refine ⟨rfl, ?_⟩)

theorem test_decode_st :
    decodeWord 0xaa6d93d0#32 = .ok (.st 5#3 13#5 22#5 79#8 1#2) ∧
    decodeWord 0xaa6da411#32 = .ok (.stNa 5#3 13#5 22#5 144#8 1#2) ∧
    decodeWord 0xaa69ebd2#32 = .ok (.stDesc 5#3 13#5 7#3 175#8 1#2) := by
  repeat (first | rfl | refine ⟨rfl, ?_⟩)

theorem test_decode_natom :
    decodeWord 0xab6d9601#32 = .ok (.natomAdd 5#3 13#5 22#5 11#5 1#2) ∧
    decodeWord 0xab6d9605#32 = .ok (.natomAnd 5#3 13#5 22#5 11#5 1#2) ∧
    decodeWord 0xab6d9609#32 = .ok (.natomOr 5#3 13#5 22#5 11#5 1#2) ∧
    decodeWord 0xab6d960d#32 = .ok (.natomXor 5#3 13#5 22#5 11#5 1#2) ∧
    decodeWord 0xab6d9611#32 = .ok (.natomSmin 5#3 13#5 22#5 11#5 1#2) ∧
    decodeWord 0xab6d9615#32 = .ok (.natomSmax 5#3 13#5 22#5 11#5 1#2) ∧
    decodeWord 0xab6d9619#32 = .ok (.natomUmin 5#3 13#5 22#5 11#5 1#2) ∧
    decodeWord 0xab6d961d#32 = .ok (.natomUmax 5#3 13#5 22#5 11#5 1#2) ∧
    decodeWord 0xab6d9621#32 = .ok (.natomSwap 5#3 13#5 22#5 11#5 1#2) ∧
    decodeWord 0xab6d9625#32 = .ok (.natomCas 5#3 13#5 22#5 11#5 1#2) ∧
    decodeWord 0xab6d9629#32 = .ok (.natomFadd 5#3 13#5 22#5 11#5 1#2) := by
  repeat (first | rfl | refine ⟨rfl, ?_⟩)

theorem test_decode_fatom :
    decodeWord 0xac6d96c1#32 = .ok (.fatomAdd 5#3 13#5 22#5 11#5 3#3 1#2) ∧
    decodeWord 0xac6d96c5#32 = .ok (.fatomAnd 5#3 13#5 22#5 11#5 3#3 1#2) ∧
    decodeWord 0xac6d96c9#32 = .ok (.fatomOr 5#3 13#5 22#5 11#5 3#3 1#2) ∧
    decodeWord 0xac6d96cd#32 = .ok (.fatomXor 5#3 13#5 22#5 11#5 3#3 1#2) ∧
    decodeWord 0xac6d96d1#32 = .ok (.fatomSmin 5#3 13#5 22#5 11#5 3#3 1#2) ∧
    decodeWord 0xac6d96d5#32 = .ok (.fatomSmax 5#3 13#5 22#5 11#5 3#3 1#2) ∧
    decodeWord 0xac6d96d9#32 = .ok (.fatomUmin 5#3 13#5 22#5 11#5 3#3 1#2) ∧
    decodeWord 0xac6d96dd#32 = .ok (.fatomUmax 5#3 13#5 22#5 11#5 3#3 1#2) ∧
    decodeWord 0xac6d96e1#32 = .ok (.fatomSwap 5#3 13#5 22#5 11#5 3#3 1#2) ∧
    decodeWord 0xac6d96e5#32 = .ok (.fatomCas 5#3 13#5 22#5 11#5 3#3 1#2) ∧
    decodeWord 0xac6d96e9#32 = .ok (.fatomFadd 5#3 13#5 22#5 11#5 3#3 1#2) ∧
    decodeWord 0xac6d80ed#32 = .ok (.fatomLoad 5#3 13#5 22#5 3#3 1#2) ∧
    decodeWord 0xac0596f1#32 = .ok (.fatomStore 5#3 22#5 11#5 3#3 1#2) := by
  repeat (first | rfl | refine ⟨rfl, ?_⟩)

theorem test_decode_sync :
    decodeWord 0xad000400#32 = .ok (.fence 5#3 2#2) ∧
    decodeWord 0xad00c410#32 = .ok (.barj 5#3 3#4 2#2) ∧
    decodeWord 0xad008420#32 = .ok (.barl 5#3 2#4 2#2) ∧
    decodeWord 0xad6a8430#32 = .ok (.bara 5#3 13#5 10#4 2#2) ∧
    decodeWord 0xad6a8440#32 = .ok (.barw 5#3 13#5 10#4 2#2) ∧
    decodeWord 0xad6ac450#32 = .ok (.baraw 5#3 13#5 11#4 2#2) ∧
    decodeWord 0xad690c60#32 = .ok (.barm 5#3 13#5 4#4 6#4) ∧
    decodeWord 0xadd08470#32 = .ok (.itinit 5#3 13#4 2#4 2#2) ∧
    decodeWord 0xadd24480#32 = .ok (.getchunk 5#3 13#4 9#4 2#2) ∧
    decodeWord 0xad058490#32 = .ok (.twaitf 5#3 22#5 2#2) ∧
    decodeWord 0xad0584a0#32 = .ok (.twaite 5#3 22#5 2#2) ∧
    decodeWord 0xad0584b0#32 = .ok (.tsetf 5#3 22#5 2#2) ∧
    decodeWord 0xad0584c0#32 = .ok (.tsete 5#3 22#5 2#2) := by
  repeat (first | rfl | refine ⟨rfl, ?_⟩)

theorem test_decode_br :
    decodeWord 0xaea2d934#32 = .ok (.br 5#3 10#4 186676#18) ∧
    decodeWord 0xaea4404c#32 = .ok (.bru 5#3 10#4 16460#18) ∧
    decodeWord 0xae0a41ea#32 = .ok (.call 5#3 147946#18) := by
  repeat (first | rfl | refine ⟨rfl, ?_⟩)

theorem test_decode_xfer :
    decodeWord 0xaf0f430a#32 = .ok (.jmpe 5#3 3907#16 10#4) ∧
    decodeWord 0xaf9e781a#32 = .ok (.calle 5#3 40568#16 10#4) ∧
    decodeWord 0xaf34ba2a#32 = .ok (.spawn 5#3 13498#16 10#4) ∧
    decodeWord 0xaf7f163a#32 = .ok (.tspawn 5#3 32534#16 10#4) ∧
    decodeWord 0xafae2f4a#32 = .ok (.sende 5#3 44591#16 10#4) ∧
    decodeWord 0xaf00125a#32 = .ok (.jmpi 5#3 18#5 10#4) ∧
    decodeWord 0xaf000e6a#32 = .ok (.calli 5#3 14#5 10#4) ∧
    decodeWord 0xaf00007a#32 = .ok (.rete 5#3 10#4) ∧
    decodeWord 0xaf00198a#32 = .ok (.launch 5#3 25#5 10#4) := by
  repeat (first | rfl | refine ⟨rfl, ?_⟩)

theorem test_decode_loop :
    decodeWord 0xb0ac1dcd#32 = .ok (.loop 5#3 2#2 22#5 7629#14) ∧
    decodeWord 0xb0ec4000#32 = .ok (.lstep 5#3 3#2 22#5) ∧
    decodeWord 0xb02c8004#32 = .ok (.xbase 5#3 22#5 4#3) ∧
    decodeWord 0xb0acc003#32 = .ok (.xcoef 5#3 2#2 22#5 3#3) ∧
    decodeWord 0xb041000e#32 = .ok (.lbrk 5#3 1#2 1#1 6#3) ∧
    decodeWord 0xb05b4000#32 = .ok (.lind 5#3 1#2 13#5) := by
  repeat (first | rfl | refine ⟨rfl, ?_⟩)

theorem test_decode_mail :
    decodeWord 0xb16d960a#32 = .ok (.putm 5#3 13#5 22#5 11#5 10#4) ∧
    decodeWord 0xb1681610#32 = .ok (.getm 5#3 13#5 11#5) ∧
    decodeWord 0xb1681620#32 = .ok (.peekm 5#3 13#5 11#5) ∧
    decodeWord 0xb1681630#32 = .ok (.tstm 5#3 13#5 11#5) ∧
    decodeWord 0xb1001640#32 = .ok (.clrm 5#3 11#5) := by
  repeat (first | rfl | refine ⟨rfl, ?_⟩)

theorem test_decode_lane :
    decodeWord 0xb26d960a#32 = .ok (.shfl 5#3 13#5 22#5 11#5 10#4) ∧
    decodeWord 0xb26d961a#32 = .ok (.shflx 5#3 13#5 22#5 11#5 10#4) ∧
    decodeWord 0xb26d962a#32 = .ok (.bcast 5#3 13#5 22#5 11#5 10#4) ∧
    decodeWord 0xb209403a#32 = .ok (.voteAny 5#3 1#3 5#3 10#4) ∧
    decodeWord 0xb219404a#32 = .ok (.voteAll 5#3 3#3 5#3 10#4) ∧
    decodeWord 0xb269005a#32 = .ok (.ballot 5#3 13#5 4#3 10#4) ∧
    decodeWord 0xb26d806a#32 = .ok (.redadd 5#3 13#5 22#5 10#4) ∧
    decodeWord 0xb26d807a#32 = .ok (.fredadd 5#3 13#5 22#5 10#4) ∧
    decodeWord 0xb26d808a#32 = .ok (.scanadd 5#3 13#5 22#5 10#4) ∧
    decodeWord 0xb268009a#32 = .ok (.laneid 5#3 13#5 10#4) ∧
    decodeWord 0xb26800aa#32 = .ok (.actmask 5#3 13#5 10#4) := by
  repeat (first | rfl | refine ⟨rfl, ?_⟩)

theorem test_decode_accw :
    decodeWord 0xb305800a#32 = .ok (.clrw 5#3 22#5 10#4) ∧
    decodeWord 0xb305961a#32 = .ok (.addwf 5#3 22#5 11#5 10#4) ∧
    decodeWord 0xb305962a#32 = .ok (.addwi 5#3 22#5 11#5 10#4) ∧
    decodeWord 0xb36d963a#32 = .ok (.maddw 5#3 13#5 22#5 11#5 10#4) ∧
    decodeWord 0xb305964a#32 = .ok (.addww 5#3 22#5 11#5 10#4) ∧
    decodeWord 0xb36d805a#32 = .ok (.rndw 5#3 13#5 22#5 10#4) ∧
    decodeWord 0xb3d5806a#32 = .ok (.rndw2 5#3 13#4 22#5 10#4) := by
  repeat (first | rfl | refine ⟨rfl, ?_⟩)

theorem test_decode_mx :
    decodeWord 0xb40b1600#32 = .ok (.bload 5#3 1#1 12#4 11#5) ∧
    decodeWord 0xb4258010#32 = .ok (.mzero 5#3 4#3 22#5) ∧
    decodeWord 0xb41a8220#32 = .ok (.mma 5#3 3#3 10#4 1#1) ∧
    decodeWord 0xb40a4230#32 = .ok (.mmas 5#3 1#3 9#4 1#1) ∧
    decodeWord 0xb4134040#32 = .ok (.mrd 5#3 2#3 13#4) ∧
    decodeWord 0xb418c050#32 = .ok (.mwt 5#3 3#3 3#4) ∧
    decodeWord 0xb4690060#32 = .ok (.mflag 5#3 13#5 4#3) := by
  repeat (first | rfl | refine ⟨rfl, ?_⟩)

theorem test_decode_cp :
    decodeWord 0xb56dac00#32 = .ok (.cpy 5#3 13#5 22#5 11#4) ∧
    decodeWord 0xb569d610#32 = .ok (.cpyx 5#3 13#4 7#4 11#5) ∧
    decodeWord 0xb56d9620#32 = .ok (.cpgat 5#3 13#5 22#5 11#5) ∧
    decodeWord 0xb505ac30#32 = .ok (.cpmeta 5#3 22#5 11#4) ∧
    decodeWord 0xb5001640#32 = .ok (.cpstop 5#3 11#5) ∧
    decodeWord 0xb5d5ac50#32 = .ok (.cprem 5#3 13#4 22#5 11#4) := by
  repeat (first | rfl | refine ⟨rfl, ?_⟩)

theorem test_decode_sf :
    decodeWord 0xb6259600#32 = .ok (.sfcall 5#3 1#3 22#5 11#5) ∧
    decodeWord 0xb6059610#32 = .ok (.gload 5#3 22#5 11#5) ∧
    decodeWord 0xb6001620#32 = .ok (.gdrop 5#3 11#5) := by
  repeat (first | rfl | refine ⟨rfl, ?_⟩)

theorem test_decode_ma :
    decodeWord 0xb7058600#32 = .ok (.dcfg 5#3 22#5 3#2) ∧
    decodeWord 0xb7058010#32 = .ok (.dpatch 5#3 22#5) ∧
    decodeWord 0xb705962a#32 = .ok (.dsety 5#3 22#5 11#5 10#4) ∧
    decodeWord 0xb705963a#32 = .ok (.dsetr 5#3 22#5 11#5 10#4) ∧
    decodeWord 0xb7058040#32 = .ok (.dsave 5#3 22#5) ∧
    decodeWord 0xb7058050#32 = .ok (.drest 5#3 22#5) ∧
    decodeWord 0xb7058260#32 = .ok (.dstep 5#3 22#5 1#2) ∧
    decodeWord 0xb7001a70#32 = .ok (.dstop 5#3 13#4) ∧
    decodeWord 0xb705828a#32 = .ok (.dinj 5#3 22#5 1#1 10#4) ∧
    decodeWord 0xb76d829a#32 = .ok (.drdo 5#3 13#5 22#5 1#1 10#4) ∧
    decodeWord 0xb76d80aa#32 = .ok (.drdy 5#3 13#5 22#5 10#4) := by
  repeat (first | rfl | refine ⟨rfl, ?_⟩)

theorem test_decode_eng :
    decodeWord 0xb8d00600#32 = .ok (.epop 5#3 13#4 3#2) ∧
    decodeWord 0xb8680410#32 = .ok (.epeek 5#3 13#5 2#2) ∧
    decodeWord 0xb808a620#32 = .ok (.sbwait 5#3 51#6 2#2) ∧
    decodeWord 0xb8688030#32 = .ok (.sbrd 5#3 13#5 2#2) := by
  repeat (first | rfl | refine ⟨rfl, ?_⟩)

theorem test_decode_repf :
    decodeWord 0xb9d0a1e0#32 = .ok (.repf 5#3 13#4 2#6 4#3 1#3 7#3) := by
  rfl

theorem test_decode_csr :
    decodeWord 0xba680011#32 = .ok (.csrr 5#3 13#5 17#12) ∧
    decodeWord 0xba059011#32 = .ok (.csrw 5#3 22#5 17#12) ∧
    decodeWord 0xba05a011#32 = .ok (.csrs 5#3 22#5 17#12) ∧
    decodeWord 0xba05b011#32 = .ok (.csrc 5#3 22#5 17#12) := by
  repeat (first | rfl | refine ⟨rfl, ?_⟩)

theorem test_decode_strm :
    decodeWord 0xbb6d8000#32 = .ok (.sopen 5#3 13#5 22#5) ∧
    decodeWord 0xbb680610#32 = .ok (.sput 5#3 13#5 3#2) ∧
    decodeWord 0xbb683220#32 = .ok (.sget 5#3 13#5 6#3 1#2) ∧
    decodeWord 0xbb680230#32 = .ok (.sclose 5#3 13#5 1#2) := by
  repeat (first | rfl | refine ⟨rfl, ?_⟩)
/-! ## A small machine

A gang of two lanes in slot 0 of core 0 of slice 0, which runs context 0, with one code object loaded. -/

/-- Lane k: `wn` holds n + 100 k, but `w1` to `w3` hold addresses, `w7` a word index, and `w8` and `w27` the handle of entry 1. -/
def lane (k : Nat) : Lane :=
  { ent := (List.range 24).map (fun n => (n, BitVec.ofNat 64 (
      if n = 1 then 0x10000 + 128 * k else if n = 2 then 0x100000000 + 32 * k else if n = 3 then 0x100020000 + 64 * k
      else if n = 7 then 12 else if n = 8 then 0x10001000 else n + 100 * k)))
    floor := -16, tidx := BitVec.ofNat 64 k, hi := [(26, 0x10100#64), (27, 0x10001000#64), (30, 0x3f800000#64)], p := 3#8, xb := [(1, BitVec.ofNat 64 (0x10000 + 128 * k))] }

def regs : Regs :=
  { thr := 3#32, act := 3#32, pc := 10, blk := { start := 8, len := 50 }, lanes := [(0, lane 0), (1, lane 1)] }

def gang : Gang := { live := true, actId := 3, launch := 7, r := regs }

def obj : Obj :=
  { entries := [{ sym := 0, live := 0#32, flags := 0, block := 0, word := 0 }, { sym := 0, live := 3#32, flags := 0, block := 0, word := 3 }]
    blocks := [List.replicate 50 0#32], reps := [[0]], hots := [[]], slots := [0, 1], lnkVa := 0x100000000, lnkPa := 0x1000000 }

/-- Pages: plain, host, memory-side. -/
def tlb : List TlbEnt :=
  [{ ctx := 0, vpage := 0x10000, ipage := 0x100, ppage := 0x100, w1 := true, tl := false, ms := false, w2 := true, d := true },
   { ctx := 0, vpage := 0x10001, ipage := 0x101, ppage := 0x80000001, w1 := true, tl := false, ms := false, w2 := true, d := true },
   { ctx := 0, vpage := 0x10002, ipage := 0x102, ppage := 0x102, w1 := true, tl := false, ms := true, w2 := true, d := true }]

def s0 : State :=
  { State.reset with
    now := 40, power := { step := 6 }, gangs := [(0, gang)], quads := [(0, { exts := [⟨8, 50, 0, 0, false, false⟩], tlb := tlb })],
    slices := [(0, { nclus := 2, sites := [0, 1], units := [5, 6], running := some 0 })],
    ctxs := [(0, { live := true, vf := 2, key := some 9, objs := [(0, { gen := 1, obj := some obj })] })], vfs := [(2, { slots := 1 })] }

/-- The machine with other registers, or with another gang, in the slot. -/
def onRegs (f : Regs → Regs) : State := s0.modGang 0 (fun g => { g with r := f g.r })
def onGang (f : Gang → Gang) : State := s0.modGang 0 f

/-- The gang in a handler of level 1, which began a frame below its lanes' bases. -/
def sTrap : State :=
  let h : Held := { mark := 0, bases := [(0, -16), (1, -16)], blk := { start := 8, len := 50 } }
  onRegs (fun r => { r with tr := { r.tr with tlvl := 1, tmk1 := 3#64 <<< 32, tpc1 := 11#64, held1 := h } })

/-- The gang as one lane pair of crew 0 of its launch, and a barrier of the crew. -/
def crew : CrewRes := { launch := 7, crew := 0, size := 2, alive := 2, packets := [] }
def sCrew (b : Barrier) : State :=
  (onGang (fun g => { g with crew := some 0 })).modCluster 0 (fun c => { c with crews := [crew], bars := [(2, b)] })
def bar : Barrier := { bound := some (7, 0), member := 3#1024 }

/-! ## The terms the statements share -/

theorem s0_early : s0.early := by unfold State.early; decide
theorem s0_freeW : s0.freeW 4 := by unfold State.freeW; decide
theorem s0_freeP : s0.freeP 3 := by unfold State.freeP; decide
theorem s0_opens : s0.Opens := by constructor <;> decide
theorem s0_ready : s0.Ready := by constructor <;> decide
theorem s0_pushes : s0.Pushes := ⟨s0_opens, by decide⟩
theorem s0_noTasks : s0.NoTasks (some 0) ∧ s0.NoTasks none ∧ s0.MemOk := by
  unfold State.NoTasks State.MemOk; decide

/-! ## Integer words, compares and predicates -/

/-- Premises of the words that write a register or a predicate; selected lanes with divisors that are not zero. -/
theorem test_word_premises : s0.freeW (4#5).toNat ∧ s0.freeP (3#3).toNat ∧ s0.early ∧
    (∀ l ∈ s0.regs.selected 0#4, s0.regs.rdW l (5#5).toNat ≠ 0#64) ∧
    (∀ l ∈ s0.regs.selected 0#4, (s0.regs.rdW l (5#5).toNat).setWidth 32 ≠ 0#32) :=
  ⟨s0_freeW, s0_freeP, s0_early, by decide, by decide⟩

/-! ## Floating words -/

theorem test_rounding_premises : (3 : Nat) ≤ 4 ∧ (4 : Nat) ≤ 4 ∧ 0 < 7 := by decide

/-- Finite operands, a NaN, infinities and zeros, as patterns. -/
theorem test_pattern_classes : (unpack 0 0x3f800000).isFin = true ∧ (unpack 0 0).isFin = true ∧ (unpack 0 0x7fc00001).isNan = true ∧
    (unpack 0 0x7f800000).isInf = true ∧ (unpack 0 0x80000000).isZero = true ∧ unpack 0 0xff800000 = .inf true ∧
    unpack 0 0x7f800000 = .inf false := by decide

/-- 0.25 and 2, as operands of the functions: neither is 1, nor a whole number or a half. -/
theorem test_function_premises : (unpack 0 0x3e800000).isFin = true ∧ (unpack 0 0x3e800000).val = 1 / 4 ∧
    ((1 / 4 : ℚ)).den ≠ 1 ∧ ((1 / 4 : ℚ)).den ≠ 2 ∧ ((0 : ℚ)) < 1 / 4 ∧ ((1 / 4 : ℚ)) ≠ 1 ∧ (false = true ↔ Real.sin (Real.pi * ((1 / 4 : ℚ) : ℝ)) < 0) := by
  have h : 0 < Real.sin (Real.pi * ((1 / 4 : ℚ) : ℝ)) := by
    have := Real.pi_pos
    apply Real.sin_pos_of_pos_of_lt_pi <;> push_cast <;> linarith
  refine ⟨by decide, by rw [show unpack 0 0x3e800000 = .fin false 8388608 (-25) by decide]; norm_num [FVal.val], ?_, ?_, ?_, ?_, ?_⟩
  · norm_num
  · norm_num
  · norm_num
  · norm_num
  · exact ⟨(fun h => nomatch h), fun k => absurd k (not_lt.2 h.le)⟩

theorem test_lane_sum_premises : (0 : Nat) ≤ 4 ∧ [0x3f800000, 0x40000000] ≠ ([] : List Nat) := by decide

/-! ## Control flow -/

theorem test_plain_control_premises : s0.early ∧ (s0.ctx (s0.gangCx s0.cur)).dbg.bpen = false ∧ s0.regs.selected 8#4 = [] :=
  ⟨s0_early, by decide, by decide⟩

def sBrk : State := s0.modCtx 0 (fun c => { c with dbg := { c.dbg with bpen := true } })
theorem test_break_premises : sBrk.early ∧ (sBrk.ctx (sBrk.gangCx sBrk.cur)).dbg.bpen = true := by
  unfold State.early; decide

def sBuf : State := onGang (fun g => { g with ch := { g.ch with count := 2, wbuf := [(0x1000010, 7#8)], wsec := [0x80000] } })
theorem test_chunk_premises : (sBuf.gang sBuf.cur).spec = false ∧ (sBuf.gang sBuf.cur).wait = none ∧ sBuf.commitBlocked sBuf.cur = false ∧
    (sBuf.gang sBuf.cur).ch.exts = [] ∧ (∀ e ∈ sBuf.gangs, e.2.task = none) := by decide

/-- Lane 0 has p2, lane 1 has not: a split. -/
def sSplit : State := onRegs (fun r => r.setLane 1 { lane 1 with p := 7#8 })
theorem test_branch_premises : sSplit.early ∧ sSplit.regs.inside (sSplit.regs.pc + (5#18).toInt) ∧
    sSplit.regs.those (sSplit.regs.sel 2#4) ≠ sSplit.regs.act ∧ sSplit.regs.those (sSplit.regs.sel 2#4) ≠ 0#32 ∧
    sSplit.regs.div.length < 24 ∧ sSplit.regs.those (sSplit.regs.sel 1#4) = sSplit.regs.act ∧
    sSplit.regs.those (sSplit.regs.sel 9#4) = 0#32 ∧ (∀ l ∈ sSplit.regs.active, sSplit.regs.sel 1#4 l = sSplit.regs.sel 1#4 sSplit.regs.l0) ∧
    sSplit.regs.sel 1#4 sSplit.regs.l0 = true ∧ sSplit.regs.sel 9#4 sSplit.regs.l0 = false := by
  unfold State.early Regs.inside; decide

/-- The last and the first word of a block are inside it, the words beside them are not. -/
theorem test_branch_bounds : regs.inside 57 ∧ regs.inside 8 ∧ ¬ regs.inside 58 ∧ ¬ regs.inside 7 := by
  unfold Regs.inside; decide

def sJoin (m : Bool) : State :=
  onRegs (fun r => { r with div := [{ all := 3#32, park := 2#32, merging := m, jset := m, join := 10, tgt := 14 }] })
theorem test_join_premises : (sJoin false).early ∧ (sJoin true).early ∧ s0.regs.div.length ≤ s0.regs.markDepth ∧
    (∃ e rest, (sJoin false).regs.markDepth < (sJoin false).regs.div.length ∧ (sJoin false).regs.div = e :: rest ∧ e.merging = false ∧
      e.park ≠ 0#32) ∧
    ∃ e rest, (sJoin true).regs.div = e :: rest ∧ e.merging = true ∧ (e.jset = false ∨ e.join = (sJoin true).regs.pc) ∧
      ∀ l ∈ lanesOf e.all, ((sJoin true).regs.lane l).base = ((sJoin true).regs.lane (lowLane e.all)).base := by
  unfold State.early
  refine ⟨by decide, by decide, by decide, ⟨_, _, by decide, rfl, ?_⟩, ⟨_, _, rfl, ?_⟩⟩ <;> decide

theorem test_loop_premises : s0.early ∧ (s0.regs.level (1#2).toNat).active = false ∧ s0.regs.inside (s0.regs.pc + (47#14).toNat) ∧
    (s0.regs.rdW s0.regs.l0 (0#5).toNat).toNat % 2 ^ 32 = 0 ∧ (s0.regs.rdW s0.regs.l0 (4#5).toNat).toNat % 2 ^ 32 ≠ 0 := by
  unfold State.early Regs.inside; decide

def inLoop (left : Nat) : Regs := { regs with loops := [(1, { active := true, first := 9, last := 10, left := left })] }
theorem test_loop_end_premises : (inLoop 0).rep = none ∧ ((inLoop 0).level 1).active = true ∧ ((inLoop 0).level 1).held = 0 ∧
    ((inLoop 0).level 1).last = (inLoop 0).pc ∧ ((inLoop 0).loops.map Prod.fst).Nodup ∧
    (∀ e ∈ (inLoop 0).loops, e.1 ≠ 1 → e.2.active = false ∨ e.2.held ≠ 0 ∨ e.2.last ≠ (inLoop 0).pc) ∧
    ((inLoop 0).level 1).left = 0 ∧ ((inLoop 3).level 1).left ≠ 0 := by decide

def sLoop : State := onRegs (fun _ => inLoop 3)
theorem test_loop_break_premises : sLoop.early ∧ (sLoop.regs.level (1#2).toNat).active = true ∧ (sLoop.regs.level (1#2).toNat).held = 0 ∧
    sLoop.regs.active ≠ [] ∧ (∀ k ∈ sLoop.regs.active, sLoop.regs.rdP k (1#3).toNat = decide ((0#1) = 0#1)) ∧
    (∀ k ∈ sLoop.regs.active, ¬ sLoop.regs.rdP k (2#3).toNat = decide ((0#1) = 0#1)) ∧ (s0.regs.level (1#2).toNat).active = false := by
  unfold State.early; decide

theorem test_repeat_premises : s0.early ∧ s0.regs.inside (s0.regs.pc + (15#4).toNat + 1) := by
  unfold State.early Regs.inside; decide

theorem test_call_premises : s0.early ∧ (s0.gang s0.cur).pend = [] ∧ (s0.gang s0.cur).ch.room [] = true ∧
    s0.regs.inside (s0.regs.pc + (20#18).toInt) ∧ (∀ l ∈ s0.regs.active, (s0.regs.lane l).base + 40 ≤ (s0.regs.lane l).floor + 64) ∧
    (∀ l ∈ s0.regs.active, (s0.regs.lane l).floor ≤ (s0.regs.lane l).base - 16 ∧ s0.regs.rdW l 7 = s0.regs.rdW s0.regs.l0 7) ∧
    (s0.regs.rdW s0.regs.l0 7).toNat < 2 ^ 14 ∧ s0.regs.inside (s0.regs.rdW s0.regs.l0 7).toNat := by
  unfold State.early Regs.inside; decide

theorem test_spill_premises : (lane 0).base + 24 ≤ (lane 0).floor + 64 ∧ (lane 0).floor ≤ ((lane 0).retSlide 0).base ∧
    (({ lane 0 with floor := 0 } : Lane).retSlide 0).base < 0 ∧
    (({ lane 0 with base := 40, floor := 0 } : Lane).callSlide 0).spills ≠ [] := by decide

theorem test_trap_premises : s0.Ready ∧ s0.regs.selected 0#4 ≠ [] ∧ s0.regs.pc + 1 < 2 ^ 14 := ⟨s0_ready, by decide, by decide⟩

theorem test_divide_by_zero_premises : s0.Ready ∧ s0.regs.pc < 2 ^ 14 ∧
    s0.regs.those (fun l => s0.regs.sel 0#4 l && decide (s0.regs.rdW l (0#5).toNat = 0#64)) ≠ 0#32 ∧
    s0.regs.those (fun l => s0.regs.sel 0#4 l && decide ((s0.regs.rdW l (0#5).toNat).setWidth 32 = 0#32)) ≠ 0#32 :=
  ⟨s0_ready, by decide, by decide, by decide⟩

/-- Each form just outside the block, and a return word that no word index equals. -/
theorem test_form_misuse_premises : s0.Ready ∧ s0.regs.pc < 2 ^ 14 ∧ ¬ s0.regs.inside (s0.regs.pc + (48#14).toNat) ∧
    ¬ s0.regs.inside (s0.regs.pc + (48#18).toInt) ∧ s0.regs.tr.tlvl = 0 ∧
    (let r := (onRegs (fun r => { r with pc := 43 })).regs; ¬ r.inside (r.pc + (15#4).toNat + 1)) ∧
    (let r := (onRegs (fun r => r.wrW 0 7 0x4000#64)).regs; 2 ^ 14 ≤ (r.rdW r.l0 7).toNat) := by
  refine ⟨s0_ready, by decide, ?_⟩
  unfold Regs.inside; decide

/-- Lanes 0 and 1 differ in p2, which guards `bru` and ends an `lbrk`, and in the return word. -/
def sDiffer : State := onRegs (fun _ => ((inLoop 3).setLane 1 { lane 1 with p := 7#8 }).wrW 1 7 13#64)
theorem test_disagreeing_premises : sDiffer.Ready ∧ sDiffer.regs.pc < 2 ^ 14 ∧ sDiffer.regs.inside (sDiffer.regs.pc + (5#18).toInt) ∧
    sDiffer.regs.those (fun k => sDiffer.regs.sel 2#4 k != sDiffer.regs.sel 2#4 sDiffer.regs.l0) ≠ 0#32 ∧
    (sDiffer.regs.level 1).active = true ∧ (sDiffer.regs.level 1).held = 0 ∧
    sDiffer.regs.those (fun k => sDiffer.regs.rdP k 2 != sDiffer.regs.rdP sDiffer.regs.l0 2) ≠ 0#32 ∧
    (sDiffer.regs.rdW sDiffer.regs.l0 7).toNat < 2 ^ 14 ∧ sDiffer.regs.inside (sDiffer.regs.rdW sDiffer.regs.l0 7).toNat ∧
    sDiffer.regs.those (fun k => sDiffer.regs.rdW k 7 != sDiffer.regs.rdW sDiffer.regs.l0 7) ≠ 0#32 := by
  refine ⟨by constructor <;> decide, by decide, ?_⟩
  unfold Regs.inside; decide

theorem test_trap_return_premises : sTrap.regs.tr.tlvl = 1 ∧ (sTrap.gang sTrap.cur).sent = [] ∧ (sTrap.gang sTrap.cur).ch.fresh = true ∧ (sTrap.gang sTrap.cur).ch.wsec = [] ∧
    (sTrap.gang sTrap.cur).pend = [] ∧
    (∀ l ∈ lanesOf ((sTrap.regs.tr.tmk1 >>> 32).setWidth 32 : W32), (sTrap.regs.lane l).base = tget 0 sTrap.regs.tr.held1.bases l + 16 ∧
      (sTrap.regs.lane l).floor ≤ (sTrap.regs.lane l).base - 16) ∧
    sTrap.regs.tr.held1.blk.start ≤ sTrap.regs.tr.tpc1.toNat % 2 ^ 14 ∧ sTrap.regs.tr.tpc1.toNat % 2 ^ 14 < 8 + 50 := by decide

theorem test_trap_and_return_premises : s0.Ready ∧ s0.regs.selected 0#4 ≠ [] ∧ s0.regs.inside (s0.regs.pc + 1) ∧
    (s0.gang s0.cur).sent = [] ∧ (∀ l ∈ s0.regs.active, s0.regs.thr.getLsbD l = true ∧ (s0.regs.lane l).floor ≤ (s0.regs.lane l).base) ∧
    (∀ k, (s0.regs.level k).held ≤ s0.regs.tr.tlvl) ∧ (s0.regs.loops.map Prod.fst).Nodup := by
  refine ⟨s0_ready, by decide, by unfold Regs.inside; decide, by decide, by decide, fun _ => Nat.le_refl 0, by decide⟩

theorem test_end_premises : s0.early ∧ (s0.gang s0.cur).spec = false ∧ (s0.gang s0.cur).crew = none ∧ (s0.gang s0.cur).ch.fresh = true ∧
    (s0.gang s0.cur).ch.wsec = [] ∧ s0.regs.those (s0.regs.sel 2#4) ≠ s0.regs.act ∧ s0.regs.those (s0.regs.sel 0#4) = s0.regs.act ∧
    s0.regs.div = [] ∧ s0.regs.tr.tlvl = 0 := by
  unfold State.early; decide

/-! ## Loads, stores and atomics -/

def tcmAt (l : Nat) : Place := { space := .tcm, loc := tcmLoc 0 (128 * l) }
def globAt (l : Nat) : Place := { space := .glob, loc := 0x1000000 + 32 * l }
def msAt (l : Nat) : Place := { space := .ms, loc := 0x1020000 + 64 * l }

theorem test_load_premises : s0.early ∧ tget 0 (s0.gang s0.cur).sb (1#2).toNat < 63 ∧
    s0.Reaches (fun l => (s0.regs.rdW l (1#5).toNat + (3#8).signExtend 64 * 4#64).toNat) 4 false .plain
      (fun l => { tcmAt l with loc := (tcmAt l).loc + 12 }) ∧
    s0.Reaches (fun l => (s0.regs.xaddr (1#3).toNat l + (0#8).signExtend 64 * 8#64).toNat) 8 false .plain tcmAt ∧
    (∀ l ∈ s0.regs.active, (tcmAt l).far = false) ∧ s0.MaySend (fun l => { tcmAt l with loc := (tcmAt l).loc + 12 }) ∧ s0.MaySend globAt := by
  unfold State.early State.Reaches State.MaySend; decide

theorem test_store_premises : s0.Reaches (fun l => (s0.regs.rdW l (2#5).toNat).toNat) 8 true .plain globAt ∧
    (∀ l ∈ s0.regs.active, (globAt l).space ≠ .ms) ∧
    ((s0.regs.active.flatMap (fun l => (globAt l).wsecs 8)) ++ s0.wrote).dedup.length ≤ 64 ∧
    (s0.gang s0.cur).ch.wsec.Nodup := by
  unfold State.Reaches; decide

theorem test_far_access_premises : s0.early ∧ s0.Opens ∧ tget 0 (s0.gang s0.cur).sb (0#2).toNat < 63 ∧ s0.regs.active ≠ [] ∧
    s0.injOff (slOfGk s0.cur) = false ∧ s0.Reaches (fun l => (s0.regs.rdW l (3#5).toNat).toNat) 8 false .plain msAt ∧ (∃ l ∈ s0.regs.active, (msAt l).far = true) ∧
    s0.Reaches (fun l => (s0.regs.rdW l (3#5).toNat).toNat) 8 true .plain msAt ∧ (∀ l ∈ s0.regs.active, (msAt l).space = .ms) := by
  refine ⟨s0_early, s0_opens, ?_⟩
  unfold State.Reaches; decide

theorem test_window_premises : ({ space := .win, loc := 0, fmt := 4, elem := 7, ext := 64 } : Place).space = .win ∧ (1 : Nat) ≤ 4 ∧
    (tcmAt 0).space ≠ .win := by decide

/-- One lane that meets row 3 after one that meets row 5, and a lane that waits for the hypervisor. -/
theorem test_check_rows : verdict [⟨0, 64, .bad 5 7⟩, ⟨1, 72, .bad 3 9⟩] = .trap 9 3#32 72 ∧
    verdict [⟨0, 64, .bad 5 7⟩, ⟨1, 72, .bad 5 7⟩] = .trap 7 3#32 64 ∧ verdict [⟨0, 64, .stage2 8 false true⟩] = .stage2 64 8 false true := by
  decide

/-- Lanes 0 and 1 load, store and swap a doubleword that is not aligned. -/
theorem test_failed_check_premises : s0.Ready ∧ s0.regs.pc < 2 ^ 14 ∧
    (let u := onRegs (fun r => r.wrW 1 1 0x10004#64)
     verdict (u.laneChks u.regs.active (fun l => (u.regs.rdW l (1#5).toNat + (0#8).signExtend 64 * 8#64).toNat) 8 false .plain)
       = .trap 5 2#32 0x10004 ∧
     verdict (u.laneChks u.regs.active (fun l => (u.regs.rdW l (1#5).toNat + (0#8).signExtend 64 * 8#64).toNat) 8 true .plain)
       = .trap 5 2#32 0x10004 ∧
     verdict (u.laneChks u.regs.active (fun l => (u.regs.rdW l (1#5).toNat).toNat) 8 true .natom) = .trap 5 2#32 0x10004) :=
  ⟨s0_ready, by decide, by decide⟩

/-- The ends of TCM: its last word, the first of the system area, and a word across the two. -/
theorem test_local_spaces : s0.check 0 0x16ff8 8 true .plain 0 = .ok { space := .tcm, loc := tcmLoc 0 0x6ff8 } ∧
    s0.check 0 0x17000 8 true .plain 0 = .bad 3 9 ∧ s0.check 0 0xfff8 8 true .plain 0 = .bad 3 9 ∧
    s0.check 0 0x16ffc 8 true .plain 0 = .bad 1 6 := by decide

theorem test_natom_premises : s0.early ∧ (1#2) ≠ 3#2 ∧ tget 0 (s0.gang s0.cur).sb 3 < 63 ∧
    s0.Reaches (fun l => (s0.regs.rdW l (1#5).toNat).toNat) 8 true .natom tcmAt ∧ s0.MaySend tcmAt ∧
    (s0.regs.active.flatMap (fun l => sectorsOf (tcmAt l).loc 8) ++ s0.wrote).dedup.length ≤ 64 := by
  unfold State.early State.Reaches State.MaySend; decide

theorem test_fatom_premises : s0.Opens ∧ tget 0 (s0.gang s0.cur).sb 3 < 63 ∧ (s0.gang s0.cur).farDone = true ∧
    (∀ e ∈ s0.links.unacked, e.gk ≠ s0.cur) ∧ s0.injOff (slOfGk s0.cur) = false ∧ s0.Reaches (fun l => (s0.regs.rdW l (3#5).toNat).toNat) 8 true .fatom msAt ∧
    s0.Reaches (fun l => (s0.regs.rdW l (2#5).toNat).toNat) 16 false .fatom globAt := by
  refine ⟨s0_opens, ?_⟩
  unfold State.Reaches; decide

/-! ## Synchronisation and mailboxes -/

theorem test_fence_premises : s0.Opens ∧ s0.drained (0#2).toNat = true ∧ s0.drained (3#2).toNat = true := ⟨s0_opens, by decide, by decide⟩

set_option exponentiation.threshold 1024 in
set_option maxRecDepth 4000 in
/-- A barrier that is free, one of the crew, one that turns at this arrival, and one whose phase is past the waiter's. -/
theorem test_barrier_premises : (sCrew bar).early ∧ (sCrew bar).Opens ∧ (sCrew bar).drained (2#2).toNat = true ∧
    (sCrew bar).crewOf = some crew ∧ ((sCrew bar).bar (1#4).toNat).bound = none ∧ ((sCrew bar).bar (2#4).toNat).bound = some (7, 0) ∧
    (∀ l ∈ (sCrew bar).regs.active, bar.member.getLsbD ((sCrew bar).crewIdx crew l) = true ∧
      bar.arrived.getLsbD ((sCrew bar).crewIdx crew l) = false) ∧ (sCrew bar).regs.active ≠ [] ∧
    (sCrew bar).regs.active.foldl (fun v l => v ||| BitVec.ofNat 1024 (2 ^ (sCrew bar).crewIdx crew l)) bar.arrived = bar.member ∧
    bar.phase + 1#32 ≠ bar.phase ∧
    (∀ l ∈ (sCrew bar).regs.active, ((sCrew bar).regs.rdW l (4#5).toNat).setWidth 32 ≠ ((sCrew bar).bar (2#4).toNat).phase) := by
  refine ⟨?_, by constructor <;> decide, ?_⟩
  · unfold State.early; decide
  · decide

set_option exponentiation.threshold 1024 in
set_option maxRecDepth 4000 in
/-- No crew, an object of another crew, and a second arrival. -/
theorem test_barrier_misuse_premises : s0.Ready ∧ s0.Opens ∧ s0.crewOf = none ∧
    (let u := sCrew { bar with bound := some (7, 1) }; u.crewOf = some crew ∧ (u.bar 2).bound ≠ some (crew.launch, crew.crew) ∧
      (u.bar 2).bound ≠ none) ∧
    (let u := sCrew { bar with arrived := 1#1024 }
     ∃ l ∈ u.regs.active, (u.bar 2).member.getLsbD (u.crewIdx crew l) = false ∨ (u.bar 2).arrived.getLsbD (u.crewIdx crew l) = true) :=
  ⟨s0_ready, s0_opens, by decide, by decide, by decide⟩

theorem test_iteration_premises : s0.early ∧ s0.Opens ∧ s0.drained (1#2).toNat = true := ⟨s0_early, s0_opens, by decide⟩

/-- A context with eight tiles, the one named in `w4` empty or full. -/
def sTile (full : Bool) : State :=
  let s := s0.modCtx 0 (fun c => { c with ntiles := 8, tilePa := 0x2000000 })
  if full then s.setTile 0 4 { full := true, wclaim := false, cclaim := false, rd := 0, seq := 1 } else s
/-- A context whose first stage-2 entry holds nothing has no leaf for its first pages. -/
theorem no_leaf (u : State) (va : Nat) (hv : va < 65536) (h1 : (u.ctx 0).s1root = 0#64) (h2 : (u.ctx 0).s2root = 0) (hr : u.rdNat u.ochre.devKey 0 8 = 0) :
    u.leafSector 0 va = none := by
  have hg : u.s2Walk 0 0 = none := by
    unfold State.s2Walk State.s2Go
    rw [h2]
    show (if badPte zeroFields2 (u.rdNat u.ochre.devKey 0 8) 0 = true then _ else _) = _
    rw [hr]; rfl
  have hw : u.walk 0 va = .s2 0 true false := by
    unfold State.walk State.s1Go
    rw [h1]
    dsimp only
    have : nbits va (lvlShift 0) (lvlBits 0) = 0 := by
      show va / 2 ^ 39 % 2 ^ 9 = 0
      omega
    rw [this, show wbits 0#64 12 36 * 4096 + 8 * 0 = 0 by decide, hg]
  unfold State.leafSector
  rw [hw]

/-- Bytes written within one sector that is under the key already, or under none, leave eight bytes of a clear sector at zero. -/
theorem zero_kept (S : State) (key dk a : Nat) (bs : List Byte) (hb : bs.length = 8) (ha : a % 256 ≤ 248) (hs : 256 ≤ a) (hl : a < 2 ^ 39)
    (hm : Memory.wf S.mem = true) (hk : tget 0 S.keyOf (a / 256) = key ∨ tget 0 S.keyOf (a / 256) = 0) (h0 : tget 0 S.keyOf 0 = 0) (hz : ∀ n, n < 8 → Memory.get S.mem n = 0#8) :
    (S.wrBytes key a bs).rdNat dk 0 8 = 0 := by
  have hw : ∀ n, n < 8 → Memory.get (S.wrBytes key a bs).mem n = 0#8 ∧ tget 0 (S.wrBytes key a bs).keyOf 0 = 0 := by
    intro n hn
    unfold State.wrBytes State.wrAll
    generalize hws : ((List.range bs.length).zip bs).map (fun e => (a + e.1, e.2)) = ws
    have hin : ∀ e ∈ ws, a ≤ e.1 ∧ e.1 < a + 8 := by
      intro e he
      subst hws
      obtain ⟨x, hx, rfl⟩ := List.mem_map.1 he
      have : x.1 < 8 := hb ▸ List.mem_range.1 (List.of_mem_zip hx).1
      exact ⟨by show a ≤ a + x.1; omega, by show a + x.1 < a + 8; omega⟩
    have h := putAll_other key n 0 ws (S.remember key (ws.map (fun e => e.1))) hm
      (fun e he => by
        have := hin e he
        show tget 0 S.keyOf (e.1 / 256) = key ∨ tget 0 S.keyOf (e.1 / 256) = 0
        rw [show e.1 / 256 = a / 256 by omega]; exact hk)
      (fun e he => by
        have := hin e he
        refine ⟨?_, by show 0 ≠ e.1 / 256; omega⟩
        show n ≠ S.links.home e.1
        unfold Links.home
        rw [if_neg (by omega)]; omega)
    exact ⟨h.1.trans (hz n hn), h.2.trans h0⟩
  have hb8 : ∀ n, n < 8 → (S.wrBytes key a bs).rdByte dk (0 + n) = 0#8 := by
    intro n hn
    unfold State.rdByte
    dsimp only
    rw [show (0 + n) / 256 = 0 by omega, if_pos (.inr (.inl (hw n hn).2))]
    unfold Links.home
    rw [if_neg (by omega), Nat.zero_add]
    exact (hw n hn).1
  unfold State.rdNat State.rdBytes
  rw [show (List.range 8) = [0, 1, 2, 3, 4, 5, 6, 7] from rfl]
  simp only [List.map, hb8 0 (by omega), hb8 1 (by omega), hb8 2 (by omega), hb8 3 (by omega), hb8 4 (by omega), hb8 5 (by omega),
    hb8 6 (by omega), hb8 7 (by omega)]
  rfl

/-- A context whose tables hold nothing has no leaf for a tile header's page, whatever the header holds. -/
theorem apart_of (S : State) (i a va : Nat) (h1 : (S.ctx 0).s1root = 0#64) (h2 : (S.ctx 0).s2root = 0) (h3 : S.keyNo 0 = 9)
    (h4 : S.tileAt 0 i = a) (h5 : (S.ctx 0).tilb + 64 * i = va) (hv : va < 65536) (ha : a % 8 = 0 ∧ a % 256 ≤ 248 ∧ 256 ≤ a ∧ a < 2 ^ 39)
    (hm : Memory.wf S.mem = true) (hk : (tget 0 S.keyOf (a / 256) = 9 ∨ tget 0 S.keyOf (a / 256) = 0) ∧ tget 0 S.keyOf 0 = 0)
    (hz : ∀ n, n < 8 → Memory.get S.mem n = 0#8) : S.TileApart 0 i := by
  refine ⟨by rw [h4]; exact ha.1, fun bs k hb _ => ?_⟩
  unfold State.tileLeaf
  rw [h3, h4, h5]
  have hz := zero_kept S 9 S.ochre.devKey a bs hb ha.2.1 ha.2.2.1 ha.2.2.2 hm hk.1 hk.2 hz
  have hc : (S.wrBytes 9 a bs).ctx 0 = S.ctx 0 ∧ (S.wrBytes 9 a bs).ochre = S.ochre := by
    unfold State.wrBytes State.wrAll
    generalize ((List.range bs.length).zip bs).map (fun e => (a + e.1, e.2)) = ws
    obtain ⟨m, k', hs⟩ := putAll_shape 9 ws (S.remember 9 (ws.map (fun e => e.1)))
    rw [hs]; exact ⟨rfl, rfl⟩
  rw [no_leaf _ va hv (hc.1 ▸ h1) (hc.1 ▸ h2) (hc.2 ▸ hz)]
  exact nofun

/-- The tables of the context hold nothing, so that no page of it has a leaf, whatever a header holds. -/
theorem sTile_apart : (sTile true).TileApart 0 4 := by
  apply apart_of _ 4 0x2000100 256 <;> decide

theorem test_tile_premises : (sTile true).Opens ∧ (sTile true).Ready ∧ (sTile true).drained 2 = true ∧ (sTile true).arbFree = true ∧
    (sTile true).TileApart 0 4 ∧ (sTile true).MemOk ∧
    (∀ e ∈ (sTile true).gangs, e.2.task = none) ∧
    ((sTile true).regs.rdW (sTile true).regs.l0 (4#5).toNat).toNat < ((sTile true).ctx ((sTile true).gangCx 0)).ntiles ∧
    (sTile true).tile 0 4 = { full := true, wclaim := false, cclaim := false, rd := 0, seq := 1 } ∧
    (sTile false).tile 0 4 = { full := false, wclaim := false, cclaim := false, rd := 0, seq := 0 } ∧
    ((sTile true).ctx ((sTile true).gangCx 0)).ntiles ≤ ((sTile true).regs.rdW (sTile true).regs.l0 (9#5).toNat).toNat := by
  refine ⟨by constructor <;> decide, by constructor <;> decide, by decide, by decide, sTile_apart, by unfold State.MemOk; decide, ?_⟩
  decide

/-- A full mailbox; both lanes send to core 4 and core 104, or lane 0 alone to core 4. -/
def sMail : State := s0.modCore 0 (fun c => { c with mail := [(5, { val := 9#64, pres := true })] })
theorem test_mail_premises : sMail.early ∧ sMail.freeW (4#5).toNat ∧ (tget {} (sMail.core 0).mail (5#5).toNat).pres = true ∧
    (sMail.gang sMail.cur).ch.mcons.contains (mbOf 0 5) = false := by
  unfold State.early State.freeW; decide

theorem test_putm_premises : s0.Opens ∧ s0.drained 2 = true ∧ s0.injOff (slOfGk s0.cur) = false ∧
    (let u := onRegs (fun r => r.wrW 1 4 6#64)
     ∀ l ∈ u.regs.selected 0#4, (u.regs.rdW l (4#5).toNat).toNat < (u.slice (slOfGk u.cur)).ncores) ∧
    ∀ ck', (s0.core ck').mbuf.length + (s0.core ck').inbox.length +
      ((s0.regs.selected 0#4).filter (fun l => ckOf 0 (s0.regs.rdW l 4).toNat == ck')).length ≤ 16 := by
  refine ⟨s0_opens, by decide, by decide, by decide, fun ck' => ?_⟩
  have h : (s0.regs.selected 0#4).length = 2 := by decide
  have : (s0.core ck').mbuf.length + (s0.core ck').inbox.length = 0 := rfl
  have := List.length_filter_le (fun l => ckOf 0 (s0.regs.rdW l 4).toNat == ck') (s0.regs.selected 0#4)
  omega

/-! ## Transfers -/

/-- The link table is written: slot 0 names entry 0, slot 1 entry 1. -/
def sLink : State := sSplit.wrBytes (sSplit.keyNo 0) 0x1000000 (leBytes 8 0x10000000 ++ leBytes 8 0x10001000)
def target : Target := ⟨0, 1, obj, { sym := 0, live := 3#32, flags := 0, block := 0, word := 3 }⟩

theorem test_transfer_premises : sLink.early ∧ sLink.Opens ∧ sLink.regs.tr.tlvl = 0 ∧ (sLink.gang sLink.cur).crew = none ∧
    (sLink.gang sLink.cur).task = none ∧ (sLink.quad (qkOfGk sLink.cur)).resend.length < 32 ∧
    sLink.regs.those (sLink.regs.sel 2#4) ≠ sLink.regs.act ∧ sLink.regs.selected 2#4 = [1] ∧ sLink.linkSlot 1 = sLink.regs.rdW 1 8 ∧
    (∀ l ∈ sLink.regs.selected 2#4, sLink.resolve (sLink.gangCx sLink.cur) (sLink.linkSlot 1) = some target) ∧
    (∀ l ∈ sLink.regs.selected 2#4, target.rec_.flags % 2 = 0 ∧
      sLink.QuadExists .jmp target (sLink.regs.lane l).tidx.toNat ∧ sLink.QuadExists .copy target (sLink.regs.lane l).tidx.toNat ∧
      sLink.QuadExists .spawn target (sLink.regs.lane l).tidx.toNat ∧ sLink.QuadExists .tspawn target (sLink.regs.lane l).tidx.toNat ∧
      sLink.handleReg 8#5 l = sLink.regs.rdW 1 8) ∧
    (sLink.core (ckOfGk sLink.cur)).deque.length + (sLink.regs.selected 2#4).length ≤ 88 ∧ (sLink.core (ckOfGk sLink.cur)).dqBy ≤ sLink.now := by
  unfold State.early State.QuadExists
  and_intros <;> first | decide | exact fun l _ => rfl | (constructor <;> decide)

/-- The same with no frame below the windows. -/
def sCall : State := sLink.modGang 0 (fun g => { g with r := { g.r with lanes := g.r.lanes.map (fun e => (e.1, { e.2 with floor := 0 })) } })
theorem test_transfer_call_premises : sCall.MemOk ∧ sCall.early ∧ sCall.Opens ∧ sCall.regs.tr.tlvl = 0 ∧ (∀ x ∈ sCall.gangs, x.2.task = none) ∧
    (sCall.quad (qkOfGk sCall.cur)).resend.length < 32 ∧ sCall.sole = [] ∧ (∀ x ∈ sCall.gangs, x.2.ch.asked = none) ∧ sCall.regs.those (sCall.regs.sel 2#4) ≠ sCall.regs.act ∧
    (∀ l ∈ sCall.regs.selected 2#4, (sCall.regs.lane l).floor = (sCall.regs.lane l).base) ∧ sCall.returnEntry = some 1 ∧
    (∀ l ∈ sCall.regs.selected 2#4, sCall.resolve (sCall.gangCx sCall.cur) (sCall.regs.rdW 1 27) = some target) ∧
    (∀ l ∈ sCall.regs.selected 2#4,
      sCall.QuadExists .call target (sCall.regs.lane l).tidx.toNat ∧ sCall.QuadExists .ret target (sCall.regs.lane l).tidx.toNat) ∧
    (∀ l ∈ sCall.regs.selected 2#4,
      sCall.check (ckOfGk sCall.cur) (sCall.regs.rdW l 26).toNat 8 true .plain 0 = .ok { space := .tcm, loc := tcmLoc 0 0x100 } ∧
      sCall.check (ckOfGk sCall.cur) (sCall.regs.rdW l 26 - 8#64).toNat 8 false .plain 0 = .ok { space := .tcm, loc := tcmLoc 0 0xf8 }) := by
  unfold State.MemOk State.early State.QuadExists
  and_intros <;> first | decide | exact fun l _ => rfl | (constructor <;> decide)

theorem test_transfer_fault_premises : s0.Ready ∧ s0.Opens ∧ s0.regs.pc < 2 ^ 14 ∧ s0.regs.tr.tlvl = 0 ∧ s0.regs.selected 0#4 ≠ [] ∧
    s0.resolve (s0.gangCx s0.cur) (s0.linkSlot 2) = none ∧ s0.cur ∉ (s0.quad (qkOfGk s0.cur)).port.getters ∧
    sTrap.cur ∉ (sTrap.quad (qkOfGk sTrap.cur)).port.getters ∧ sTrap.Ready ∧ sTrap.Opens ∧ 1 ≤ sTrap.regs.tr.tlvl :=
  ⟨s0_ready, s0_opens, by decide, by decide, by decide, rfl, by decide, by decide, by constructor <;> decide, by constructor <;> decide, by decide⟩

set_option maxRecDepth 4000 in
/-- Both records fit, just so beside 254 others, and only one does beside 255. -/
theorem test_launch_premises : s0.Opens ∧ (s0.gang s0.cur).prog = 0 ∧
    (let k (n : Nat) :=
      let u := s0.modSlice 0 (fun x => { x with devq := List.replicate n 0#64 })
      min (u.regs.selected 0#4).length (min (256 - (u.slice (slOfGk u.cur)).devq.length) (if u.mgmt.arbAt = u.now then 2 - u.mgmt.arbN else 2))
     k 0 = 2 ∧ k 254 = 2 ∧ k 255 = 1) := ⟨s0_opens, by decide, by decide⟩

/-! ## Streams, control registers, records and counters -/

def flit : Flit := { words := List.replicate 8 5#64, mark := true }
def sStream : State := s0.modQuad 0 (fun q => { q with port := { holder := some 0, dst := 2, no := 1, opened := true, credit := 1, slots := [flit] } })
theorem test_stream_premises : s0.early ∧ s0.Opens ∧ (s0.quad 0).port.holder = none ∧ (s0.quad 0).port.closing = false ∧ s0.injOff 0 = false ∧ 2 < (s0.slice 0).nquads ∧
    (∃ ls, (s0.takeSide 2).streamLinks 0 = some ls ∧ ls.Nodup ∧ ∀ l ∈ ls, (s0.takeSide 2).linkFree l = true) ∧ sStream.loopStop 0 = false ∧ (onRegs (fun r => r.wrW 0 4 2#64)).regs.rdW 0 (4#5).toNat = 2#64 ∧ 2 ≠ quadOfQk (qkOfGk s0.cur) ∧
    (s0.quad 2).port.src = none ∧ (s0.quad 2).port.waiting = [] ∧ (sStream.quad 0).port.getBy ≤ sStream.now ∧
    (sStream.quad 0).port.getters.head?.getD sStream.cur = sStream.cur ∧
    (sStream.quad 0).port.holder = some sStream.cur ∧ (sStream.quad 0).port.audit = none ∧ (sStream.quad 0).port.credit ≠ 0 ∧
    (sStream.quad 0).port.dst ≠ quadOfQk 0 ∧ (sStream.quad 0).port.slots = [flit] ∧ flit.words.length = 8 :=
  ⟨s0_early, s0_opens, by decide, by decide, by decide, by decide, ⟨_, rfl, by decide, by decide⟩, by decide⟩

/-- A register with fields that a program writes, and one that it only reads. -/
theorem test_control_register_premises : s0.Opens ∧ (s0.gang s0.cur).pend = [] ∧ (0x078#12).toNat < 0x120 ∧ s0.regs.tr.tlvl ≤ 2 ∧
    s0.regs.active ≠ [] ∧
    (∀ l ∈ s0.regs.active, csrMask 0x078 0 ≠ 0#64 → s0.csrRead s0.regs.l0 0x078 &&& ~~~(csrMask 0x078 0) = 0#64) ∧ csrMask 0x001 0 = 0#64 ∧
    (∀ l ∈ s0.regs.active, csrMask 0x010 0 ≠ 0#64 → s0.csrRead l 0x010 &&& ~~~(csrMask 0x010 0) = 0#64) :=
  ⟨s0_opens, by decide⟩

def sRec : State := onGang (fun g => { g with cq := [(2, [⟨1#64, 2#64⟩])] })
theorem test_record_premises : sRec.early ∧ tget [] (sRec.gang sRec.cur).cq (2#2).toNat = [⟨1#64, 2#64⟩] ∧ tget 0 (sRec.gang sRec.cur).sb 2 < 63 ∧
    (∀ w ∈ (sRec.gang sRec.cur).pend, w.id < sRec.fresh) ∧ tget 0 (sRec.gang sRec.cur).sb (1#2).toNat ≤ (0#6).toNat ∧
    s0.Ready ∧ tget [] (s0.gang s0.cur).cq (2#2).toNat = [] ∧ tget [] (s0.gang s0.cur).cqHeld (2#2).toNat = [] ∧
    tget 0 (s0.gang s0.cur).owed (2#2).toNat = 0 := by
  refine ⟨by unfold State.early; decide, by decide, by decide, by decide, by decide, s0_ready, by decide⟩

/-! ## Wide accumulators -/

theorem test_accumulator_premises : s0.early ∧
    (∀ l ∈ s0.regs.selected 0#4, s0.check (ckOfGk s0.cur) (s0.regs.rdW l (1#5).toNat).toNat 128 true .accw s0.regs.tr.tlvl = .ok (tcmAt l)) ∧
    (∀ l ∈ s0.regs.selected 0#4, s0.check (ckOfGk s0.cur) (s0.regs.rdW l (1#5).toNat).toNat 128 false .accw s0.regs.tr.tlvl = .ok (tcmAt l)) ∧
    ((s0.regs.selected 0#4).flatMap (fun l => sectorsOf (tcmAt l).loc 96) ++ s0.wrote).dedup.length ≤ 64 ∧
    (s0.gang s0.cur).ch.wsec.Nodup := ⟨s0_early, by decide, by decide, by decide, by decide⟩

/-! ## Engine pushes -/

def lane0 (n : Nat) (v : Word) : State := onRegs (fun r => r.wrW 0 n v)

/-- Descriptor 1 is FP8 (code 3), descriptor 2 F32; tile 1 belongs to core 0. -/
def sMx : State :=
  (s0.modCore 0 (fun c => { c with t := [(1, 0x100_0010_0010_0003_0000_0001_0000#128), (2, 0x400_0010_0010_0000_0000_0001_0000#128)] })).modCluster 0
    (fun c => { c with zalloc := 0x80#64 })
theorem test_matrix_push_premises : sMx.Pushes ∧ (sMx.core (ckOfGk sMx.cur)).mxq.length < 2 ∧ sMx.TileOk (1#3).toNat ∧ ¬ sMx.TileOk (2#3).toNat ∧
    tdFmt (tget 0#128 (sMx.core 0).t 1) ∈ [1, 3, 4, 7] ∧ tdFmt (tget 0#128 (sMx.core 0).t 2) ∈ [0, 1, 11] ∧
    tdAddr (tget 0#128 (sMx.core 0).t 2) % elemBytes (tdFmt (tget 0#128 (sMx.core 0).t 2)) = 0 ∧
    tdStride (tget 0#128 (sMx.core 0).t 2) % elemBytes (tdFmt (tget 0#128 (sMx.core 0).t 2)) = 0 ∧
    -512 ≤ (sMx.regs.rdW sMx.regs.l0 (4#5).toNat).toInt ∧ (sMx.regs.rdW sMx.regs.l0 (4#5).toNat).toInt ≤ 511 := by
  refine ⟨⟨by constructor <;> decide, by decide⟩, ?_⟩
  unfold State.TileOk; decide

def cell (l v : Nat) : FarLane := { lane := l, loc := v, v := 0, c := 0 }
def sAsked : State := onGang (fun g => { g with ch := { g.ch with log :=
  [{ word := s0.issueWord s0.cur, act := 3#32, ops := [{ lane := 0, loc := 0, v := 1, c := 0 }], done := true, res := [7, 8] }] } })
theorem test_query_premises : sMx.Pushes ∧ (sMx.gang sMx.cur).prog = 0 ∧ (sMx.core 0).mad.q.length < 4 ∧ sMx.TileOk (1#3).toNat ∧
    (sAsked.gang sAsked.cur).spec = false ∧ (sAsked.gang sAsked.cur).ch.fresh = true ∧
    (sAsked.gang sAsked.cur).ch.log = [{ word := sAsked.issueWord sAsked.cur, act := sAsked.regs.act, ops :=
      [{ lane := 0, loc := 0, v := (1#3).toNat, c := 0 }], done := true, res := [7, 8] }] ∧ [7, 8].length = (sAsked.regs.selected 0#4).length := by
  refine ⟨⟨by constructor <;> decide, by decide⟩, ?_⟩
  unfold State.TileOk; decide

/-- A copy of 100 bytes on channel 1; a control word with a reserved bit meets condition 1. -/
def copy (s : State) (ctl : Word) : CpCmd :=
  { who := s.pusher (s.issueWord s.cur), kind := 0, dst := s.regs.rdW 0 2, src := s.regs.rdW 0 1, len := 100, ctl := ctl, peer := 0, td := 0#128,
    ta := 0#128, taken := 0, moved := 0, started := false, gat := none }
def sCopy : State := s0.modCore 0 (fun c => { c with chans := [(1, [copy s0 1#64])] })
theorem test_copy_push_premises : s0.Pushes ∧ s0.copyCheck (copy s0 1#64) = 0 ∧ (tget [] (s0.core 0).chans 1).length < 4 ∧
    (tget [] (sCopy.core 0).chans 1).length ≤ 4 ∧ tget [] (sCopy.core 0).chans 1 = [copy s0 1#64] ∧
    (sCopy.gang (copy s0 1#64).who.gk).live = true ∧ (sCopy.gang (copy s0 1#64).who.gk).actId = (copy s0 1#64).who.actId :=
  ⟨s0_pushes, by decide⟩

/-- A call of slot 1 with one operand on fabric 0, and a load of slot 1 on the whole group. -/
theorem test_fabric_push_premises : s0.Pushes ∧ (s0.core 0).fabq.length < 4 ∧ s0.FabricWordOk true 0x1100#64 ∧
    (lane0 4 0x1100#64).regs.rdW 0 4 = 0x1100#64 ∧ s0.frozen (slOfGk s0.cur) = false ∧ s0.injOff (slOfGk s0.cur) = false ∧ (s0.core 0).fabq = [] ∧
    s0.FabricWordOk false 1#64 ∧ ¬ s0.FabricWordOk false 2#64 := by
  refine ⟨s0_pushes, ?_⟩
  unfold State.FabricWordOk; decide

theorem test_madder_push_premises : s0.Pushes ∧ (s0.core (ckOfGk s0.cur)).mad.q.length < 4 := ⟨s0_pushes, by decide⟩

/-- A tile the core does not own, Ez just out of range, a format without a bank, an address between elements, a reserved copy bit. -/
theorem test_push_check_premises : sMx.Pushes ∧ sMx.Ready ∧ ¬ sMx.TileOk (2#3).toNat ∧ sMx.TileOk (1#3).toNat ∧
    511 < ((lane0 4 512#64).regs.rdW 0 4).toInt ∧ tdFmt (tget 0#128 (sMx.core 0).t 2) ∉ [1, 3, 4, 5, 6, 7] ∧
    tdAddr (0x400_0010_0010_0000_0000_0001_0002#128) % elemBytes 0 ≠ 0 ∧ s0.copyCheck (copy s0 0x81#64) = 1 ∧ ¬ s0.FabricWordOk false 0#64 := by
  refine ⟨⟨by constructor <;> decide, by decide⟩, by constructor <;> decide, ?_⟩
  unfold State.TileOk State.FabricWordOk; decide

theorem test_translation_word_premises : s0.Opens ∧ s0.regs.tr.tlvl = 0 ∧ s0.Ready ∧ sTrap.Pushes ∧ 1 ≤ sTrap.regs.tr.tlvl ∧
    (sTrap.gang sTrap.cur).prog ≠ 2 ∧
    (let u := sTrap.modGang 0 (fun g => { g with prog := 2 }); u.Opens ∧ 1 ≤ u.regs.tr.tlvl ∧ (u.gang u.cur).prog = 2) :=
  ⟨s0_opens, by decide, s0_ready, ⟨by constructor <;> decide, by decide⟩, by decide, by decide, by constructor <;> decide, by decide⟩

/-! ## Events outside issue -/

/-- A chunk of 512 words with a buffered byte, and a finished task that holds the lowest timestamp. -/
def sFull : State := onGang (fun g => { g with ch := { g.ch with count := 512, snap := some g.r, wbuf := [(0x1000010, 7#8)], wsec := [0x80000] } })
def sTask : State := onGang (fun g => { g with
  task := some { stamp := 5#64, spec := true, aborts := 0, held := [[(true, 0, {}), (false, 1, {})]], carried := [], finished := true, waitLow := false } })
theorem test_commit_premises : sFull.MemOk ∧ (sFull.gang 0).live = true ∧ (sFull.gang 0).stopped = false ∧ sFull.mayRun (slOfGk 0) = true ∧
    sFull.commitBlocked 0 = false ∧ sFull.NoTasks (some 0) ∧ sFull.ExtsOk 0 ∧ (∀ b ∈ (sFull.gang 0).ch.wbuf, spaceOfLoc b.1 ≠ 1) ∧
    (sFull.gang 0).task = none ∧ (sFull.gang 0).ch.snap.isSome = true ∧ 512 ≤ (sFull.gang 0).ch.count ∧
    sTask.NoTasks (some 0) ∧ (∃ k, (sTask.gang 0).task = some k ∧ k.spec = true ∧ k.finished = true ∧
      (sTask.core (ckOfGk 0)).deque.length + (k.held.flatMap (fun h => (h.filter (fun e => e.1)).map (fun e => e.2.2))).length ≤ 88 ∧
      (sTask.core (ckOfGk 0)).dqBy ≤ sTask.now) ∧
    sTask.holdsLowest 0 = true := by
  unfold State.MemOk State.NoTasks State.ExtsOk
  and_intros <;> decide

/-- A far operation of two lanes at one location, to be performed, and one performed whose result waits. -/
def farOp (id : Nat) (perf : Bool) : FarOp :=
  { id := id, op := 0, use := 2, size := 8, lanes := [{ lane := 0, loc := 0x1020000, v := 1, c := 0 }, { lane := 1, loc := 0x1020000, v := 2, c := 0 }],
    got := if perf then [(0, 0), (1, 1)] else [], perf := perf, logAt := none, frms := [0#3, 0#3], prior := [], ext := 0, word := 0#32, actId := 3, launch := 7,
    pid := if perf then some 6 else none, slots := [(0, 0, 0), (1, 1, 0)] }
def flying (id : Nat) (land : Option Nat) (tcm : Bool) : PendWrite :=
  { id := id, land := land, ctr := some 3, tcm := tcm, ready := true, dst := [(0, .ent 4), (1, .ent 4)], vals := [1#64, 2#64] }
def sFar : State := onGang (fun g => { g with far := [farOp 4 true, farOp 5 false], pend := [flying 6 none false], sb := [(3, 1)] })
/-- Both lanes are at one location, the only one, so that it is picked whatever the free value. -/
theorem far_group : (farOp 5 false).nextGroup (sFar.farMay 0 (farOp 5 false)) sFar.fresh = (0, { lane := 0, loc := 0x1020000, v := 1, c := 0 }) ::
    [(1, { lane := 1, loc := 0x1020000, v := 2, c := 0 })] := by
  have h : (farOp 5 false).locsLeft.filter (sFar.farMay 0 (farOp 5 false)) = [0x1020000] := by decide
  unfold FarOp.nextGroup
  rw [h]
  show (match ([0x1020000] : List Nat)[_ % 1]? with | none => _ | some loc => _) = _
  rw [Nat.mod_one]
  decide

theorem test_far_operation_premises : sFar.MemOk ∧ sFar.NoTasks none ∧
    (sFar.gang 0).far.find? (fun o => o.id == 5 && !o.perf) = some (farOp 5 false) ∧
    (∃ x rest, (farOp 5 false).nextGroup (sFar.farMay 0 (farOp 5 false)) sFar.fresh = x :: rest ∧ sFar.specHolder 0 x.2.loc 8 = none) ∧
    (let u := onGang (fun g => { g with far := [farOp 4 false, farOp 5 false] })
     (u.gang 0).far.find? (fun o => o.id == 5 && !o.perf) = some (farOp 5 false) ∧ 2 ≤ (farOp 5 false).use ∧ (farOp 5 false).left ≠ [] ∧
       ∀ y ∈ (farOp 5 false).left, ∃ p ∈ farBefore 5 (u.gang 0).far, ∃ z ∈ p.left, overlaps z.2.loc p.size y.2.loc 8 = true) ∧
    (sFar.gang 0).far.find? (fun o => o.id == 4 && o.perf) = some (farOp 4 true) ∧ (farOp 4 true).pid = some (flying 6 none false).id ∧
    (sFar.gang 0).pend.find? (fun p => p.id == 6) = some (flying 6 none false) ∧ (flying 6 none false).dst ≠ [] ∧
    (∀ w ∈ (sFar.gang 0).pend, (farOp 4 true).pid = some w.id → (sFar.gang 0).tcmMay sFar.now w = true) := by
  unfold State.MemOk State.NoTasks
  refine ⟨by decide, by decide, by decide, ⟨_, _, far_group, by decide⟩, by decide⟩

/-- Two loads from TCM in flight, a result due at cycle 40 and one due at 41, a held record, an accumulator update. -/
def sFlight : State :=
  (onGang (fun g => { g with pend := [flying 1 none true, flying 2 none true, flying 3 (some 40) false, flying 4 (some 41) false],
                             cqHeld := [(1, [⟨1#64, 2#64⟩])] })).modCore 0 (fun c => { c with accq := [(2, 41)] })
theorem test_landing_premises :
    (sFlight.gang 0).pend.find? (fun p => p.id == 1 && p.land == none && p.ready) = some (flying 1 none true) ∧
    ((sFlight.gang 0).pend.find? (fun p => p.tcm)).map PendWrite.id = some 1 ∧
    (sFlight.gang 0).pend.find? (fun p => p.id == 2 && p.land == none && p.ready) = some (flying 2 none true) ∧
    (sFlight.gang 0).pend.find? (fun p => p.id == 3) = some (flying 3 (some 40) false) ∧ 40 ≤ sFlight.now ∧
    (sFlight.gang 0).pend.find? (fun p => p.id == 4) = some (flying 4 (some 41) false) ∧ sFlight.now < 41 ∧
    tget [] (sFlight.gang 0).cqHeld 1 = [⟨1#64, 2#64⟩] ∧
    (tget [] (sFlight.gang 0).cq 1).length + ((sFlight.gang 0).ch.pops.filter (fun x => x.1 == 1)).length < 8 ∧
    (sFlight.core (ckOf 0 0)).accq = [(2, 41)] ∧ (flying 1 none true).after ≤ sFlight.now ∧ sFlight.now < ({ flying 1 none true with after := 41 } : PendWrite).after := by decide

/-- Mail for an empty mailbox, a gang that waits for it to be full and may wake, and a recorded engine fault. -/
def sWait : State :=
  (onGang (fun g => { g with wait := some .grant, efaults := [{ word := 0#32, cause := 18, detail := 0, flt := 3#32, va := 64#64 }] })).modCore 0
    (fun c => { c with inbox := [{ mb := 5, v := 9#64 }] })
theorem test_delivery_premises : (sWait.core 0).inbox = { mb := 5, v := 9#64 } :: [] ∧ (tget {} (sWait.core 0).mail 5).pres = false ∧
    sWait.sentBefore (qkOfCk 0) 0 0 = false ∧ mbOf 0 5 ∉ sWait.soleMails ∧
    (let u := sMail.modCore 0 (fun c => { c with inbox := [{ mb := 5, v := 9#64 }] });
      (u.core 0).inbox = { mb := 5, v := 9#64 } :: [] ∧ u.sentBefore (qkOfCk 0) 0 0 = false ∧ (tget {} (u.core 0).mail 5).pres = true ∧ (u.core 0).mbuf.length < 16) ∧
    (sWait.gang 0).wait = some .grant ∧ (sWait.gang 0).live = true ∧ (sWait.gang 0).stopped = false ∧ s0.held 0 .grant = false ∧
    s0.mayWake 0 .grant = true ∧ (sWait.gang 0).efaults ≠ [] ∧ (sWait.gang 0).trapDue = none ∧ (sWait.gang 0).r.tr.tlvl = 0 ∧
    (sWait.gang 0).r.pc < 2 ^ 14 ∧ 18 < 256 ∧ sWait.mayRun (slOfGk 0) = true ∧ sWait.held 0 .grant = false ∧ ({ sWait with cur := 0 } : State).Ready ∧ s0.links.fjoadDown = false ∧ s0.MemOk ∧
    s0.NoTasks none ∧ spaceOfLoc 0x1000000 = 0 ∧ s0.anyCovered (sectorsOf 0x1000000 2) = false ∧ 95 ∉ s0.links.portsDown := by
  unfold State.MemOk State.NoTasks
  and_intros <;> first | decide | (constructor <;> decide)

/-! ## Launches -/

/-- A queue of two records that is empty, one that is full, and one that is disabled. -/
def queue (en : Bool) (head : Nat) : WorkQueue := { ring := 0x2000000, ldep := 1, vf := 2, ctx := 0, en := en, head := head, tail := 0 }
def sQueues : State := { s0 with mgmt := { s0.mgmt with queues := [(1, queue true 0), (2, queue true 1), (3, queue false 0)] } }
theorem test_append_premises : sQueues.links.fjoadDown = false ∧ (64 : Nat) % 64 = 0 ∧ (List.replicate 64 0#8).length = 64 ∧
    ((tget {} sQueues.mgmt.queues 1).tail + 1) % 2 ^ (tget {} sQueues.mgmt.queues 1).ldep ≠ (tget {} sQueues.mgmt.queues 1).head ∧
    ((tget {} sQueues.mgmt.queues 2).tail + 1) % 2 ^ (tget {} sQueues.mgmt.queues 2).ldep = (tget {} sQueues.mgmt.queues 2).head ∧
    (tget {} sQueues.mgmt.queues 3).en = false ∧ (3 : Nat) < 64 ∧ 3 ≠ (tget {} sQueues.mgmt.queues 1).vf ∧ (65 : Nat) % 64 ≠ 0 ∧ sQueues.MemOk ∧
    sQueues.NoTasks none ∧ sQueues.arbFree = true := by
  unfold State.MemOk State.NoTasks; decide

def head (broken : Nat) (since : Option Nat) : HeadRec :=
  { src := devSrc, desc := { entry := 0x10000000#64, count := 1, tin := [1], tout := [2] }, tag := 5#64, tabEnt := none, broken := broken, unread := false,
    since := since }
def sHead (h : HeadRec) : State :=
  (s0.modSlice 0 (fun x => { x with heads := [h] })).modCtx 0 (fun c => { c with ntiles := 8, tilePa := 0x2000000 })
theorem sHead_apart (h : HeadRec) : (sHead h).TileApart 0 1 ∧ (sHead h).TileApart 0 2 := by
  have clear : ∀ n, n < 8 → Memory.get s0.mem n = 0#8 := by decide
  exact ⟨apart_of _ 1 0x2000040 64 rfl rfl rfl rfl rfl (by decide) (by decide) rfl ⟨.inr rfl, rfl⟩ clear,
    apart_of _ 2 0x2000080 128 rfl rfl rfl rfl rfl (by decide) (by decide) rfl ⟨.inr rfl, rfl⟩ clear⟩

theorem test_selection_premises : (sHead (head 0 (some 0))).MemOk ∧ (sHead (head 0 (some 0))).NoTasks none ∧
    (sHead (head 0 (some 0))).selects 0 = true ∧ ((sHead (head 0 (some 0))).slice 0).launches.length < 65536 ∧
    (sHead (head 0 (some 0))).frontHeads 0 = [head 0 (some 0)] ∧ (head 0 (some 0)).since.isSome = true ∧ ([1] ++ [2]).Nodup ∧
    ((sHead (head 0 (some 0))).tile 0 1).rd < 255 ∧ (sHead (head 3 none)).selects 0 = true ∧ (sHead (head 3 none)).frontHeads 0 = [head 3 none] ∧
    (head 3 none).broken ≠ 0 ∧ (sHead (head 0 (some 0))).arbFree = true ∧ ((sHead (head 0 (some 0))).slice 0).selBy ≤ 40 ∧
    ((sHead (head 0 (some 0))).ctx ((sHead (head 0 (some 0))).runCx 0)).submits = [] ∧
    (∀ d ∈ [{ (head 0 none).desc with tout := [] }, { (head 0 none).desc with tin := [] }],
      let h := { head 0 (some 0) with desc := d }; (sHead h).frontHeads 0 = [h] ∧ (sHead h).selects 0 = true) := by
  unfold State.MemOk State.NoTasks; decide

/-- A place of a completion record. -/
theorem test_record_place : s0.RecordPlace 0 0x100000040 { space := .glob, loc := 0x1000040 } :=
  ⟨by decide, by decide, by decide, .inr ⟨by decide, _, rfl, by decide⟩⟩

/-- Entry e of the table with an overrun rule, instances that run, and an action. -/
def slotOf (ctl running : Nat) : TabEntry := { period := 1000, offset := 50, target := 1, ctl := ctl, slice := 0, vf := 2, running := running }
def sTable (x : TabEntry) (ns : Nat) : State :=
  { s0 with mgmt := { s0.mgmt with table := [(4, x)] }, clock := { s0.clock with ns := BitVec.ofNat 64 ns, source := 1 } }
/-- The first slot is due from 50 ns on; a step from 40 to 2100 ns passes three and fires the third; one fired before waits; two of one time
come in the order of their entries. -/
theorem test_table_slot_premises : (let x := slotOf 1 0;
      nbits x.ctl 0 1 = 1 ∧ nbits x.ctl 1 2 = 0 ∧ (sTable x 1100).clock.source ≠ 0 ∧ x.late = [] ∧ x.next = some 0 ∧ x.period ≠ 0 ∧
      (sTable x 49).slotDue x = none ∧ ((sTable x 50).slotDue x).isSome = true ∧ (sTable x 50).slotBehind 4 (s0.clock.run) = false ∧
      (sTable x 50).slotBehind 5 (s0.clock.run) = true ∧ (sTable x 1100).arbFree = true ∧
      40 < x.slotTime 0 ∧ x.slotTime (0 + 2) ≤ 2100 ∧ 2100 < x.slotTime (0 + 2 + 1) ∧
      (sTable x 49).slotDue { x with late := [3] } = some 3) ∧
    (let x := slotOf 0x11 1;
      nbits x.ctl 0 1 = 1 ∧ nbits x.ctl 1 2 = 0 ∧ nbits x.ctl 3 2 = 2 ∧ x.running ≠ 0 ∧ x.pending = 0 ∧ ((sTable x 1100).slotDue x).isSome = true ∧
      (sTable x 1100).slotBehind 4 (((sTable x 1100).slotDue x).getD 0) = false ∧
      ((sTable x 1100).slice x.slice).sw.step = .idle ∧ ((sTable x 1100).ctx ((sTable x 1100).runCx x.slice)).vf = x.vf ∧
      ((sTable x 1100).slice x.slice).running = some 0) ∧
    (let x := slotOf 3 0;
      nbits x.ctl 1 2 = 1 ∧ ((sTable x 1100).slotDue x).isSome = true ∧ ((sTable x 1100).slice x.slice).sw.busy = false ∧
      (sTable x 1100).slotBehind 4 (((sTable x 1100).slotDue x).getD 0) = false ∧ (sTable x 1100).arbFree = true ∧
      (((sTable x 1100).modSlice 0 (fun y => { y with sw := { y.sw with step := .soft } })).slice x.slice).sw.busy = true ∧
      ((sTable x 1100).ctx (cxOf x.slice 0)).dbg.hlt = false) := by
  decide

/-- A launch all of whose threads have ended, with one tile in and one out. -/
def launch : Launch :=
  { num := 9, ctx := 0, desc := { count := 1, tin := [1], tout := [2] }, tag := 5#64, tabEnt := none, injected := 1, lastClus := 0, unack := [],
    entered := [], prio := 0, set := [0], live := 3#32 }
def sLaunched : State := (sHead (head 0 none)).modSlice 0 (fun x => { x with heads := [], launches := [launch] })
theorem sLaunched_apart : sLaunched.TileApart 0 1 ∧ sLaunched.TileApart 0 2 := by
  have clear : ∀ n, n < 8 → Memory.get s0.mem n = 0#8 := by decide
  exact ⟨apart_of _ 1 0x2000040 64 rfl rfl rfl rfl rfl (by decide) (by decide) rfl ⟨.inr rfl, rfl⟩ clear,
    apart_of _ 2 0x2000080 128 rfl rfl rfl rfl rfl (by decide) (by decide) rfl ⟨.inr rfl, rfl⟩ clear⟩

theorem test_completion_premises : sLaunched.MemOk ∧ sLaunched.NoTasks none ∧
    (sLaunched.slice 0).launches.find? (fun l => l.num == 9) = some launch ∧ sLaunched.launchDone 0 launch = true ∧
    (sLaunched.slice 0).running.isSome = true ∧ sLaunched.preempted 0 = false ∧ launch.desc.done = 0 ∧
    (launch.desc.tin ++ launch.desc.tout).Nodup ∧ sLaunched.arbFree = true := by
  unfold State.MemOk State.NoTasks; decide

/-! ## Injection, crews, packets, queues and rings -/

theorem test_injection_premises : (sLaunched.slice 0).launches.find? (fun l => l.num == 9) = some launch ∧ sLaunched.injects 0 = true ∧
    launch.desc.crewsz = 0 ∧ launch.set ≠ [] := by decide

def crewLaunch : Launch := { launch with desc := { entry := 0x10000000#64, count := 2, crewsz := 2 }, injected := 1, lastClus := 0 }
def sCrews : State := s0.modSlice 0 (fun x => { x with launches := [crewLaunch] })
/-- From cluster 1, which does not hold the object, the round comes to cluster 0. -/
theorem test_crew_placement_premises : (sCrews.slice 0).launches.find? (fun l => l.num == 9) = some crewLaunch ∧ sCrews.injects 0 = true ∧
    crewLaunch.desc.crewsz ≠ 0 ∧ crewLaunch.injected < crewLaunch.desc.count ∧ sCrews.launchObj 0 crewLaunch = some (0, obj) ∧
    1 < (sCrews.slice 0).nclus ∧ (crewLaunch.lastClus + 1 + 1) % (sCrews.slice 0).nclus = 0 ∧
    0 ∈ sCrews.crewClusters 0 crewLaunch.desc 0 obj ∧ 1 ∉ sCrews.crewClusters 0 crewLaunch.desc 0 obj ∧
    (((sCrews.cluster (clkOf 0 0)).crews.map CrewRes.size).foldl (· + ·) 0) + crewLaunch.desc.crewsz ≤ 1024 ∧
    (∀ m ∈ (sCrews.slice 0).launches, m.num ≠ 9 → m.crewLeft = true) := by decide

theorem test_train_departure_premises : (s0.slice (slOfGk 0)).draining = false ∧ (s0.slice (slOfGk 0)).injStopped = false ∧
    ((s0.modSlice 0 (fun x => { x with draining := true })).slice 0).draining = true := by decide

/-- A packet for entry 0 of the object, a train of it from quad 3, an injected one, and one of a crew thread. -/
def packet : Packet := { entry := 0x10000000#64, tidx := 5#32, launch := 9 }
def train : Train := { injected := false, src := 3, launch := 9, packets := [packet] }
def onQuad (f : Quad → Quad) : State := s0.modQuad 0 f
/-- An injected train beside one of quad 3; a message sent before one that waits; a refused packet sent again; and the ends of the store of 32. -/
theorem test_train_entry_premises : 0 < 2048 ∧ (let x := (onQuad (fun q => { q with trains := [train, { train with injected := true }] })).quad (qkOf 0 0);
      x.trains = [train] ++ { train with injected := true } :: [] ∧ (∀ y ∈ [train], trainKey y ≠ 0) ∧ x.entered = none ∧
      train.waits 40 = false ∧ (∀ p ∈ ({ train with injected := true } : Train).packets, p.crew = false ∧ p.came = false) ∧ (∀ p ∈ x.aq ++ x.ring, p.seq < x.entrySeq) ∧
      x.ring.length + 1 ≤ 8192) ∧
    (let u := onQuad (fun q => { q with trains := [train], entered := some (40, 5) }); u.sentBefore (qkOf 0 0) 3 0 = false ∧ 3 + 1 < 5 ∧
      ((u.modQuad 0 (fun q => { q with trains := [{ train with no := 1 }, train] })).sentBefore (qkOf 0 0) 3 1 = true)) ∧
    ({ train with packets := [{ packet with crew := true }] } : Train).packets = [{ packet with crew := true }] ∧
    (let tr : Train := { train with packets := [{ packet with came := true }], again := true };
      tr.waits 40 = false ∧ (∀ p ∈ tr.packets, p.crew = false ∧ p.came = true)) ∧
    ¬ 32 ≤ ((onQuad (fun q => { q with resend := List.replicate 31 (1, packet) })).quad 0).resend.length ∧
    32 ≤ ((onQuad (fun q => { q with resend := List.replicate 32 (1, packet) })).quad 0).resend.length ∧
    8192 ≤ ((onQuad (fun q => { q with ring := List.replicate 8192 packet })).quad 0).ring.length := by
  refine ⟨by decide, by decide, by decide, by decide, by decide, by decide, by decide, ?_⟩
  show 8192 ≤ (List.replicate 8192 packet).length
  rw [List.length_replicate]

theorem test_ring_premises : (let x := (onQuad (fun q => { q with aq := [packet], ring := [{ packet with seq := 1 }] })).quad 0;
      (x.aq ++ x.ring).Pairwise (fun a b => a.seq < b.seq)) ∧
    (let u := onQuad (fun q => { q with resend := [(1, packet)], ringFull := some 0 });
      (u.slice 0).draining = false ∧ (u.slice 0).injStopped = false ∧ (∀ e ∈ (u.quad 0).resend, e.1 = 1 ∧ e.2.due ≤ u.now) ∧ (u.quad 1).ring = [] ∧
      (u.quad 1).aq.length + (u.quad 0).resend.length ≤ 256 ∧ (u.quad 0).ringFull = some 0 ∧ (u.quad 0).ringTold = false ∧
      0 + 1000000 ≤ ({ u with clock := { u.clock with run := 1000000 } } : State).clock.run ∧ u.clock.run < 0 + 1000000) ∧
    (let u := onQuad (fun q => { q with resend := [(1, { packet with due := 41 })] }); ∀ e ∈ (u.quad 0).resend, u.now < e.2.due) := by decide

/-! ## Gangs formed and stolen -/

def entry0 : EntryRec := { sym := 0, live := 0#32, flags := 0, block := 0, word := 0 }
def block0 : BlkRef := { start := 8, len := 50, obj := 0, idx := 0 }
/-- A packet that came in cycle 0, seen at cycle 40, before `gangwait`, and at cycle 100; and one in the deque of core 0. -/
def sYoung : State := onQuad (fun q => { q with aq := [packet] })
def sRipe : State := { sYoung with now := 100 }
def sDeque : State := s0.modCore 0 (fun c => { c with deque := [packet], annEmpty := false })

/-- A quad whose only group is one packet. -/
theorem oldest_of_one (s : State) (test : List Packet → Bool) (h : s.groups 0 = [[packet]]) (t : test [packet] = true) :
    s.Oldest 0 test packet [] := by
  refine ⟨by rw [h]; exact List.mem_singleton.mpr rfl, t, fun g hg _ hn => ?_⟩
  rw [h] at hg
  exact absurd (List.mem_singleton.mp hg) hn

theorem test_formation_premises : sRipe.mayForm (ckOf 0 0) = true ∧ sRipe.freeSlots (ckOf 0 0) = 1 :: [2, 3] ∧
    sRipe.Enters (ckOf 0 0) packet entry0 block0 ∧ sRipe.Oldest 0 (sRipe.ripe 0) packet [] ∧ (sRipe.quad 0).tookBy ≤ sRipe.now ∧
    sRipe.served 0 = some 0 ∧ (∀ g ∈ sYoung.groups 0, sYoung.ripe 0 g = false) ∧ (sYoung.core 0).deque = [] ∧
    sYoung.Oldest 0 (fun _ => true) packet [] ∧ (∀ g ∈ sDeque.groups 0, sDeque.ripe 0 g = false) ∧ (sDeque.core 0).deque = packet :: [] ∧ (sDeque.core 0).dqBy ≤ sDeque.now := by
  unfold State.Enters
  exact ⟨by decide, by decide, by decide, oldest_of_one _ _ (by decide) (by decide), by decide, by decide, by decide, by decide,
    oldest_of_one _ _ (by decide) rfl, by decide⟩

theorem test_gangwait_premises : sYoung.Oldest (qkOf 0 0) (fun g => !sYoung.ripe 0 g) packet [] ∧
    sYoung.calm (packet.at_ + (sYoung.ctx (sYoung.runCx 0)).gangwait - sYoung.now) = true :=
  ⟨oldest_of_one _ _ (by decide) (by decide), by decide⟩

/-- Core 1 finds nothing and core 0 of its replica group holds a record; core 0, whose slots are full, is asked by core 1. -/
def sThief : State := { sDeque.modCore 0 (fun c => { c with thieves := [1] }) with gangs := [(0, gang), (1, gang), (2, gang), (3, gang)] }
theorem test_steal_premises : sDeque.mayForm (ckOf 0 1) = true ∧ (sDeque.core (ckOf 0 1)).asked = none ∧ sDeque.groups (qkOfCk (ckOf 0 1)) = [] ∧
    (sDeque.core (ckOf 0 1)).deque = [] ∧ sDeque.victim (ckOf 0 1) = some 0 ∧ (sThief.core 0).thieves = 1 :: [] ∧
    (sThief.slice 0).running.isSome = true ∧ sThief.mayRun 0 = true ∧ (sThief.slice 0).sw.step = .idle ∧
    sThief.freeSlots (ckOf 0 1) = 0 :: [1, 2, 3] ∧ (sThief.core 0).deque.head? = some packet ∧ sThief.Enters (ckOf 0 1) packet entry0 block0 ∧
    (sThief.core 0).dqBy ≤ sThief.now ∧ sThief.pops 0 = false ∧ (1 : Nat) ≠ 0 := by
  unfold State.Enters; decide

/-! ## Routes, hot-code replication, loading -/

theorem test_route_premises : s0.resolve (s0.runCx 0) 0#64 = none ∧ s0.resolve (s0.runCx 0) 0x10001000#64 = some target ∧
    (∀ x ∈ (s0.quad (qkOf 0 0)).routes, ¬ (x.obj = target.slot ∧ x.entry = target.entry)) := ⟨rfl, rfl, by decide⟩

theorem test_sample_premises : (s0.slice 0).running.isSome = true ∧ ((s0.ctx (s0.runCx 0)).objs.map Prod.fst).Nodup ∧
    s0.obj (s0.runCx 0) 0 = some obj ∧ (tget {} (s0.ctx (s0.runCx 0)).objs 0).dying = false ∧ 0 < obj.blocks.length ∧
    s0.now < (s0.slice 0).sampledAt + 1024 ∧ (let u : State := { s0 with now := 1024 }; (u.slice 0).sampledAt + 1024 ≤ u.now) := by decide

/-- A block hot and cold since 0 in a device of 1 ms, a copy in quad 1 to take away, an update to order, and an extent to free. -/
def sHot : State :=
  ({ s0 with clock := { s0.clock with run := 1000000 } }.modSlice 0 (fun x => { x with
    hot := [{ obj := 0, blk := 0, hotSince := some 0, coldSince := some 0 }] })).modQuad 1 (fun q => { q with exts := [⟨8, 50, 0, 0, true, true⟩] })
theorem test_replica_premises : (sHot.slice 0).running.isSome = true ∧ sHot.obj (sHot.runCx 0) 0 = some obj ∧
    ((sHot.slice 0).hotOf 0 0).hotSince = some 0 ∧ 0 + wbits (sHot.ctx (sHot.runCx 0)).hotwin 32 32 ≤ sHot.clock.run ∧
    (obj.hots.getD 0 []).length < wbits (sHot.ctx (sHot.runCx 0)).hotcfg 48 16 ∧ obj.blocks[0]? = some (List.replicate 50 0#32) ∧
    (sHot.replicaQuad 0 0 0 obj).isSome = true ∧ (sHot.modSlice 0 (fun x => { x with nclus := 1 })).replicaQuad 0 0 0 obj = none ∧ ((sHot.slice 0).hotOf 0 0).coldSince = some 0 ∧
    0 + wbits (sHot.ctx (sHot.runCx 0)).hotwin 0 32 ≤ sHot.clock.run ∧ ({ obj with hots := [[1]] } : Obj).hots.getD 0 [] = 1 :: [] ∧
    (∃ e ∈ (sHot.quad (qkOf 0 1)).exts, e.obj = 0 ∧ e.blk = 0 ∧ e.dying = true) ∧
    (∀ p ∈ sHot.quadPackets 0 1 ++ sHot.heldBack 0, sHot.packetFor (sHot.runCx 0) 0 0 p = false) ∧
    (∀ e ∈ sHot.gangs, qkOfGk e.1 = qkOf 0 1 → e.2.runs (fun b => b.obj == 0 && b.idx == 0) = false) ∧
    sHot.reachable 0 0 0 1 = false ∧ sHot.trapNeeded 0 1 0 0 = false ∧
    (sHot.modQuad 1 (fun q => { q with exts := q.exts ++ [⟨60, 5, 0, 1, false, true⟩] })).trapNeeded 0 1 0 0 = true ∧ (∀ u ∈ (sHot.slice 0).hotPending, ¬ (u.1 = 0 ∧ u.2.1 = 0)) ∧ sHot.arbFree = true := by decide

/-- An object of one block of one word, its trap entry, and one symbol. -/
def body : List Byte :=
  let seg (kind count off size : Nat) : List Byte := leBytes 2 kind ++ leBytes 2 0 ++ leBytes 4 count ++ leBytes 8 off ++ leBytes 8 size ++ leBytes 8 0
  seg 1 1 320 4 ++ seg 3 1 324 17 ++ seg 4 1 341 16 ++ seg 5 0 357 0 ++ seg 6 0 357 0 ++ seg 7 1 357 16 ++
    leBytes 4 0x10 ++ (leBytes 4 16 ++ leBytes 2 1 ++ [1#8, 0#8] ++ leBytes 8 0 ++ [97#8]) ++
    (leBytes 4 0 ++ leBytes 2 0 ++ leBytes 2 1 ++ leBytes 8 0) ++ (leBytes 2 0 ++ leBytes 2 1 ++ leBytes 12 0)
/-- The SHA-384 digest of the object from byte 128 on. -/
def digest : List Byte := beBytes 48 0x20bdb65e94a2e9f025176fdb49fc165cc94ed5322d7c6b972a057decb0be7f0aa6569495c5a827b71050b53f418043d6
def image : List Byte :=
  leBytes 4 0x434c444e ++ leBytes 2 1 ++ leBytes 2 6 ++ leBytes 8 0 ++ digest ++ leBytes 64 0 ++ body
/-- The record of a launch of the object's entry: two threads, no tiles, one integer argument. -/
def line0 : LaunchLine := { entry := 0, threads := 2, crews := 0, crewsz := 0, nquad := 0, prio := 0, tin := [], consume := [], tout := [], args := [.int 5#64], descVa := 0x200000100, descPa := 0x3000100 }
def place : LoadPlace := { copies := [[(1, 100)]], extVa := 0x200000000, extPa := 0x3000000, lnkVa := 0x200000000, lnkPa := 0x3000000, tabs := [], launches := [] }

/-- The example of FIPS 180-4, and that of FIPS 197 for a key of 256 bits. -/
theorem test_digest_and_cipher : sha384 [97#8, 98#8, 99#8] = beBytes 48 0xcb00753f45a35e8bb5a03d699ac65007272c32ab0eded1631a8b605a43ff5bed8086072ba1e7cc2358baeca134c825a7 ∧
    aesEnc (beBytes 32 0x000102030405060708090a0b0c0d0e0f101112131415161718191a1b1c1d1e1f) (beBytes 16 0x00112233445566778899aabbccddeeff) =
      beBytes 16 0x8ea2b7ca516745bfeafc49904b496089 := by
  decide +kernel

theorem image_sound : objectOk image 4 = true := by decide +kernel

theorem test_load_object_premises : (s0.slice 0).running.isSome = true ∧ (tget {} (s0.ctx (s0.runCx 0)).objs 1).retired = false ∧
    (tget {} (s0.ctx (s0.runCx 0)).objs 1).obj = none ∧ objectOk image (s0.slice 0).nquads = true ∧
    layoutOk (s0.ctx (s0.runCx 0)).shmib { regs := [], used := [], glob := 0 } = true ∧ (rawRegions image).isEmpty = true ∧
    resolves (s0.loaded (s0.runCx 0)) 1 (objOf image place [] 0) = true ∧ place.extVa % 65536 = 0 ∧ place.extPa % 65536 = 0 ∧
    copiesOk image 0 place.copies = true ∧
    (s0.placeCode 0 1 (blocksOf image) [(0, 1, 100)]).any (fun u => u.hintsKept 0 1 image (objOf image place [] 0) &&
      (u.placeTabs 0 place).loadMapped 0 place (extentSize place.extVa 0 []) (objOf image place [] 0).slots.length &&
      u.besideTiles 0 place (extentSize place.extVa 0 []) (objOf image place [] 0).slots.length && (u.placeTabs 0 place).tilesAs u 0) = true ∧
    line0.descVa % 64 = 0 ∧
    (tget {} (s0.ctx (s0.runCx 0)).objs 0).obj = some obj :=
  ⟨by decide, by decide, by decide, image_sound, by decide⟩

/-- The loader has a queue for a launch line, with room or full, or none. -/
theorem test_launch_line_premises : ({ place with launches := [line0] } : LoadPlace).launches = [line0] ∧ sQueues.loaderQueue (sQueues.runCx 0) = some 1 ∧
    (tget {} sQueues.mgmt.queues 1).isFull = false ∧ (sQueues.ctx (sQueues.runCx 0)).submits = [] ∧ s0.loaderQueue (s0.runCx 0) = none ∧
    sQueues.MemOk ∧ sQueues.NoTasks none ∧ 0x2000000 + 64 * 0 + 64 ≤ 2 ^ 47 ∧
    (let u : State := { s0 with mgmt := { s0.mgmt with queues := [(2, queue true 1)] } };
      u.loaderQueue (u.runCx 0) = some 2 ∧ (tget {} u.mgmt.queues 2).isFull = true) := by
  unfold State.MemOk State.NoTasks; decide

def sDying : State := s0.modCtx 0 (fun c => { c with objs := tput c.objs 1 { gen := 0xfffff, obj := some { obj with lnkPa := 0x4000000 }, dying := true } })
theorem test_unload_premises : (s0.slice 0).running.isSome = true ∧ (tget {} (s0.ctx (s0.runCx 0)).objs 0).obj.isSome = true ∧
    (tget {} (s0.ctx (s0.runCx 0)).objs 0).dying = false ∧ s0.unloadBlocked (s0.runCx 0) 0 = false ∧ s0.arbFree = true ∧
    (tget {} (sDying.ctx (sDying.runCx 0)).objs 1).dying = true ∧
    (∀ q, q < (sDying.slice 0).nquads → ∀ p ∈ sDying.quadPackets 0 q, ¬ wbits p.entry 0 12 = 1) ∧
    (∀ p ∈ sDying.heldBack 0, ¬ wbits p.entry 0 12 = 1) ∧
    (∀ e ∈ sDying.gangs, slOfGk e.1 = 0 → e.2.runs (fun b => b.obj == 1) = false) ∧
    (∀ l ∈ (sDying.slice 0).launches, l.injected < l.desc.count → wbits l.desc.entry 0 12 ≠ 1) ∧
    (∃ l ∈ (sCrews.slice 0).launches, l.injected < l.desc.count ∧ wbits l.desc.entry 0 12 = 0) := by decide

/-! ## The directory, walks, invalidation and the hypervisor's commands -/

/-- A line with four sharers whose fifth has raised the handler's trap; with a record free and with none. -/
def sDir (recs : List DirLine) : State :=
  s0.modCluster (s0.homeOf 0 7) (fun c => { c with dir := ⟨7, false, [0, 1, 2, 3], false, false, 0⟩ :: recs, dirTraps := [(7, 4)] })
theorem test_directory_premises : (s0.slice 0).nclus ≠ 0 ∧ (7, 4) ∉ (s0.cluster (s0.homeOf 0 7)).dirTraps ∧ (sDir []).MemOk ∧
    (let x := (sDir []).cluster ((sDir []).homeOf 0 7); (7, 4) ∈ x.dirTraps ∧ x.dir.find? (fun d => d.line == 7) = some ⟨7, false, [0, 1, 2, 3], false, false, 0⟩ ∧
      ∀ e ∈ x.dir, ¬ (e.ext = true ∧ e.rec_ = 0)) := by
  have h : (sDir []).cluster ((sDir []).homeOf 0 7) = { dir := [⟨7, false, [0, 1, 2, 3], false, false, 0⟩], dirTraps := [(7, 4)] } := by
    show (sDir []).cluster (s0.homeOf 0 7) = _
    unfold sDir
    generalize s0.homeOf 0 7 = k
    unfold State.modCluster State.setCluster State.cluster
    exact tget_tput_same _ _ _ _
  rw [h]
  exact ⟨by decide, List.not_mem_nil, rfl, by decide⟩
set_option maxRecDepth 4000 in
theorem test_directory_full : let recs := (List.range 204).map (fun k => (⟨8 + k, false, [], true, false, k⟩ : DirLine))
    ∀ k, k < 204 → ¬ ∀ e ∈ recs, ¬ (e.ext = true ∧ e.rec_ = k) := by
  intro recs k hk h
  exact h ⟨8 + k, false, [], true, false, k⟩ (List.mem_map.2 ⟨k, List.mem_range.2 hk, rfl⟩) ⟨rfl, rfl⟩

/-- Stage 1: from 0x180000000 a leaf of 1 GiB at IPA 0, then one at an IPA that nothing maps. Stage 2: a leaf of 1 GiB, writable and dirty or
neither. -/
def sWalk (leaf : Nat) : State :=
  let s := s0.modCtx 0 (fun c => { c with s1root := 0x20000#64, s2root := 0x10000 })
  let w (s : State) (k a v : Nat) : State := s.wrBytes k a (leBytes 8 v)
  w (w (w (w (w s 0 0x10000 0x11003) 0 0x11000 leaf) 9 0x20000 0x21003) 9 0x21030 5) 9 0x21038 0x40000005
def walked (w2 d : Bool) : TlbEnt :=
  { ctx := 0, vpage := 0x18000, ipage := 0, ppage := 0, w1 := true, tl := false, ms := false, w2 := w2, d := d, sz1 := 16384 }
set_option maxRecDepth 20000 in
theorem test_walk_premises : (s0.slice 0).running.isSome = true ∧ rangeOf (0x180000040#64).toNat = 4 ∧
    s0.tlbHit (qkOf 0 1) (s0.runCx 0) (0x180000040#64).toNat = none ∧ (sWalk 0xd).walk 0 (0x180000040#64).toNat = .ok (walked true true) ∧
    (sWalk 1).walk 0 (0x180000040#64).toNat = .ok (walked false false) ∧
    (sWalk 0xd).walk 0 (0x1c0000040#64).toNat = .s2 0x40000040 false false ∧ (sWalk 0xd).walk 0 (0x200000040#64).toNat = .s1 ∧
    s0.walk 0 0x180000040 = .s2 0 true false ∧ 1 < 2048 ∧ (s0.vf 2).s2q = [] ∧ (s0.vf 2).s2over = [] ∧
    (let r : S2Rec := { ipa := 0x40000000, va := 0#64, dtc := 0#64, ctx := 0, kind := 0, core := 0, gslot := 0, joined := [] }
     let u := s0.modVf 2 (fun v => { v with s2q := [(0, r)] })
     ∃ e ∈ (u.vf 2).s2q, e.2.ipa = 0x40000040 / 65536 * 65536 ∧ e.2.ctx = 0 % 8) := by decide

theorem test_retry_premises : s0.booted = true ∧ 0 < ((s0.modVf 2 (fun v => { v with s2next := 1 })).vf 2).s2next ∧
    ({ s0 with power := { s0.power with step := 5 } } : State).booted = false := by decide

set_option maxRecDepth 20000 in
/-- The one leaf of the function's context translates the page; a gang's chunk has a byte there, or none. -/
theorem test_clean_premises : (sWalk 0xd).booted = true ∧ (sWalk 0xd).MemOk ∧ (sWalk 0xd).leaves 2 [0] = [⟨0x11000, 0, 2 ^ 30⟩] ∧
    (let in_ (loc : Nat) : Bool := [(⟨0x11000, 0, 2 ^ 30⟩ : Leaf)].any (fun l => decide (l.base ≤ loc) && decide (loc < l.base + l.size));
      (∀ e ∈ (sWalk 0xd).gangs, e.2.quiet in_ = true) ∧ (∀ e ∈ (sWalk 0xd).clus, e.2.quiet in_ = true) ∧ (∀ e ∈ (sWalk 0xd).links.unacked, in_ e.pa = false) ∧
      (∀ c ∈ (sWalk 0xd).ctxs, c.2.image = none) ∧
      (sFull.gang 0).quiet in_ = false) := by
  unfold State.MemOk; decide

def sInv : State := sTrap.modGang 0 (fun g => { g with wait := some .tlbinv })
theorem test_invalidation_premises : (sInv.gang 0).wait = some .tlbinv ∧ (sInv.gang 0).stopped = false ∧ sInv.held 0 .tlbinv = false ∧
    (∀ e ∈ sInv.gangs, slOfGk e.1 = slOfGk 0 → e.2.quietVa (fun _ => true) = true) ∧ sInv.clus = [] ∧ sInv.links.unacked = [] := by decide

/-! ## Stream flits, tokens and audits; the mesh -/

def tok : Token := { st := 2048, count := 3, src := 3, no := 0 }
def onPort (f : StreamPort → StreamPort) : State := onQuad (fun q => { q with port := f q.port })
theorem test_flit_premises :
    (let p := ((onPort (fun p => { p with inflight := [(2051, flit)], tokens := [tok], src := none, no := 1 })).quad (qkOf 0 0)).port;
      p.inflight = [] ++ (2051, flit) :: [] ∧ p.src = none ∧ p.slots.length < 16 ∧ p.tokens = tok :: [] ∧ p.closing = false ∧ tok.st = p.no * 2048 + 0) ∧
    (onPort (fun p => { p with inflight := [(2051, flit)] })).sentBefore (qkOf 0 0) (2051 % 2048) 0 = false ∧
    (onPort (fun p => { p with inflight := [(2051, { flit with no := 1 }), (2051, flit)] })).sentBefore (qkOf 0 0) (2051 % 2048) 1 = true ∧
    (onPort (fun p => { p with tokens := [tok] })).sentBefore (qkOf 0 0) tok.src tok.no = false ∧
    (onPort (fun p => { p with tokens := [tok], inflight := [(2051, flit)] })).sentBefore (qkOf 0 0) tok.src 1 = true ∧
    (let u := onPort (fun p => { p with tokens := [tok], no := 1, closing := true });
      (u.quad 0).port.closing = true ∧ 0 < 2048 ∧ tok.st = (u.quad 0).port.no * 2048 + 0 ∧ 0 < tok.count ∧ u.loopStop 0 = false) ∧
    (let p := ((onPort (fun p => { p with slots := List.replicate 16 flit, src := some 3, unreturned := 1 })).quad (qkOf 0 0)).port;
      16 ≤ p.slots.length ∧ p.src = some 3 ∧ p.unreturned ≠ 0) := by decide

/-- Quad 1 receives the first stream of quad 0: two flits consumed, of which the credits tell, or tell of one. -/
def sAudit (credited : Nat) : State :=
  (onPort (fun p => { p with no := 1, holder := some 0, credited := credited, copies := [flit, flit] })).modQuad 1
    (fun q => { q with port := { q.port with src := some 2048, consumed := 2 } })
theorem test_audit_premises : ((sAudit 2).quad (qkOf 0 1)).port.src = some 2048 ∧
    ((sAudit 2).quad (qkOf 0 (2048 % 2048))).port.no * 2048 + 2048 % 2048 = 2048 ∧ ((sAudit 2).quad 0).port.tokens = [] ∧
    ((sAudit 2).quad 1).port.unreturned = 0 ∧ ((sAudit 2).quad 0).port.credited % 2 ^ 32 = ((sAudit 2).quad 1).port.consumed ∧
    ((sAudit 1).quad 0).port.credited % 2 ^ 32 ≠ ((sAudit 1).quad 1).port.consumed ∧ (sAudit 2).now < ((sAudit 2).quad 1).port.auditAt + 2048 ∧
    ((sAudit 1).quad 0).port.closing = false ∧
    (let u := (sAudit 1).modQuad 0 (fun q => { q with port := { q.port with closing := true } });
      (u.quad 0).port.closing = true ∧ ((u.quad 0).port.copies.drop ((2 + 2 ^ 32 - 1 % 2 ^ 32) % 2 ^ 32)).length < 16 ∧ u.loopStop 0 = false) ∧
    (let u : State := { sAudit 2 with now := 2048 }; (u.quad 1).port.auditAt + 2048 ≤ u.now) := by decide

def sOpen : State := onPort (fun p => { p with holder := some 0, dst := 2, opened := false })
theorem test_back_off_premises : (sOpen.quad (qkOf 0 0)).port.holder.isSome = true ∧ (sOpen.quad (qkOf 0 0)).port.opened = false ∧
    (sOpen.quad (qkOf 0 0)).port.backoff = none ∧
    2 * (2047 - (sOpen.quad 0).port.waitFrom) < 4096 ∧ 4096 ≤ 2 * (2048 - (sOpen.quad 0).port.waitFrom) := by decide

theorem test_recovery_premises : [5, 21] ≠ ([] : List Nat) ∧ [5, 21].length ≤ 64 ∧ s0.booted = true ∧
    (let u : State := { s0 with mesh := { s0.mesh with recs := [{ bufs := [5, 21], steps := 4096, looped := false }] } };
      ∃ r, u.mesh.recs[0]? = some r ∧ r.looped = false ∧ 4096 ≤ r.steps ∧ r.at_ + 2 ≤ u.now ∧ ({ u with now := 1 } : State).now < r.at_ + 2) ∧
    (let u : State := { s0 with now := 2048 }; ∀ b ∈ [5, 21], tget 0 u.mesh.moved b + 2048 ≤ u.now ∧ ∀ r ∈ u.mesh.recs, b ∉ r.bufs) ∧
    ¬ (tget 0 s0.mesh.moved 5 + 2048 ≤ s0.now) :=
  ⟨by decide, by decide, by decide, ⟨_, rfl, rfl, by decide, by decide, by decide⟩, by decide, by decide⟩

theorem test_route_table_premises : s0.booted = true ∧ 607 < 608 ∧ 15 < 16 ∧ 5 < 6 ∧ (s0.slice 0).draining = false ∧
    (let u := s0.modSlice 15 (fun x => { x with draining := true }); (u.slice 15).draining = true ∧ u.drainedPart 15 = true) := by decide

/-! ## Engines -/

/-- A channel whose copy has moved its 100 bytes, and one whose source is unmapped. -/
def ended : CpCmd := { copy s0 1#64 with started := true, taken := 100, moved := 100 }
def stray : CpCmd := { copy s0 2#64 with started := true, src := 0x20000#64 }
def remote : CpCmd := { copy s0 3#64 with kind := 5, taken := 64, sent := 64, started := true }
def sChans : State := s0.modCore 0 (fun c => { c with chans := [(1, [ended]), (2, [stray]), (3, [remote])] })
theorem test_copy_end_premises : tget [] (sChans.core (ckOf 0 0)).chans 1 = ended :: [] ∧ sChans.s2Held 0 (.chan 0 1) = false ∧ sChans.preempted 0 = false ∧ sChans.frozen 0 = false ∧
    ended.started = true ∧ ended.kind ≠ 2 ∧ ended.taken = ended.total ∧ tget [] (sChans.core (ckOf 0 0)).chans 2 = stray :: [] ∧
    (∃ d va, sChans.cpNext 0 { stray with started := true } = .bad d va) ∧ tget [] (sChans.core (ckOf 0 0)).chans 3 = remote :: [] ∧
    remote.peer + 1 = (2 ^ 64 + remote.dst.toNat) / 2 ^ 64 ∧ (remote.dst.toNat + remote.moved) % 2 ^ 64 = (2 ^ 64 + remote.dst.toNat) % 2 ^ 64 ∧
    remote.moved < remote.sent ∧ 2 ^ 64 ≤ 2 ^ 64 + remote.dst.toNat ∧
    (∀ e ∈ sChans.cores, ∀ q ∈ e.2.chans, ∀ y ∈ q.2.head?, y.kind = 5 → e.1 = ckOf 0 0 ∧ q.1 = 3 ∧ y = remote) :=
  by and_intros <;> first | decide | exact ⟨_, _, rfl⟩

def pusher : Pusher := { gk := 0, actId := 3, word := 0#32, act := 3#32, launch := 7 }
def mxCmd (kind : Nat) : MxCmd := { who := pusher, kind := kind, reg := 1, bank := 0, desc := 0#128, opnd := 5#64, frm := 0#3, seq := 4 }
def sUnit (kind : Nat) : State := s0.modCluster 0 (fun u => { u with mxqs := [(7, [mxCmd kind])], turn := 1 })
theorem test_unit_start_premises : ((sUnit 1).cluster (clkOf 0 0)).rr < 8 ∧
    tget [] (((sUnit 1).mxMoveAll (clkOf 0 0)).cluster (clkOf 0 0)).mxqs ((sUnit 1).cluster (clkOf 0 0)).rr = mxCmd 1 :: [] ∧
    ((sUnit 1).cluster 0).arrayFree ≤ (sUnit 1).now ∧ (sUnit 1).preempted 0 = false ∧ (sUnit 1).gateOpen = true ∧ ((sUnit 1).cluster 0).turn ≠ 0 ∧
    ((sUnit 1).mxMoveAll 0).mxReady (ckOfClk 0 7) (mxCmd 1) = true ∧ ((sUnit 1).cluster 0).mxErr = 0 ∧
    ((sUnit 1).mxMoveAll 0).s2Held (slOfCk (ckOfClk 0 7)) (.matrix (ckOfClk 0 7)) = false ∧ ((sUnit 1).mxMoveAll 0).injOff (slOfCk (ckOfClk 0 7)) = false ∧ ((sUnit 6).mxMoveAll 0).mxReady (ckOfClk 0 7) (mxCmd 6) = true ∧
    (∃ t cycles bytes, ((sUnit 6).mxMoveAll 0).mxStartCmd (ckOfClk 0 7) (mxCmd 6) = .run t cycles bytes) ∧ ((sUnit 2).mxMoveAll 0).mxReady (ckOfClk 0 7) (mxCmd 2) = true ∧
    (∃ d cause va, ((sUnit 2).mxMoveAll 0).mxStartCmd (ckOfClk 0 7) { mxCmd 2 with desc := 0x100_0010_0001_0003_0000_0002_0000#128 } = .fail d cause va) :=
  by and_intros <;> first | decide | exact ⟨_, _, _, rfl⟩

def mxRun (kind done : Nat) : MxRun :=
  { core := 0, cmd := mxCmd kind, cycles := 16, free := 16, done := done, status := 0, bytes := if kind = 4 then [(0x1000000, 1#8)] else [] }
def sRuns (r : MxRun) : State :=
  (onGang (fun g => { g with ch := { g.ch with log := [{ word := 0#32, act := 3#32, ops := [], done := false, res := [] }] } })).modCluster 0
    (fun u => { u with runs := [r] })
theorem test_unit_end_premises : ((sRuns (mxRun 4 40)).cluster (clkOf 0 0)).runs = mxRun 4 40 :: [] ∧ (mxRun 4 40).done ≤ (sRuns (mxRun 4 40)).now ∧ (sRuns (mxRun 4 40)).injOff 0 = false ∧
    (sRuns (mxRun 4 40)).engHeld pusher (secsOf (mxRun 4 40).bytes) = false ∧ (sRuns (mxRun 4 40)).NoTasks none ∧
    ((sRuns (mxRun 4 40)).gang 0).ch.pops = [] ∧ (sRuns (mxRun 4 40)).MemOk ∧ ((mxRun 4 40).bytes.map (fun e => (sRuns (mxRun 4 40)).links.home e.1)).Nodup ∧
    (sRuns (mxRun 4 40)).now < (mxRun 4 41).done ∧ (mxRun 6 40).cmd.kind = 6 ∧ ((sRuns (mxRun 6 40)).gang 0).live = true ∧
    ((sRuns (mxRun 6 40)).gang 0).actId = pusher.actId ∧
    ∃ e more, ((sRuns (mxRun 6 40)).gang 0).ch.log = e :: more ∧ e.done = false ∧ e.word = pusher.word ∧ e.act = pusher.act := by
  unfold State.NoTasks State.MemOk
  and_intros <;> first | decide | exact ⟨_, _, rfl, by decide⟩

theorem test_matrix_step_premises : (unpack 1 (0x3f80#16).toNat).isFin = true ∧ (15 : Nat) < 16 ∧ (255 : Nat) < 256 ∧
    (({} : ZTile).get 0 0) ≠ BitVec.ofNat 96 (2 ^ 95) := by decide

/-- Width 63 and width 1; a cell whose residue leaves its range, and one whose integrand leaves 64 bits. -/
theorem test_cell_premises : (1 : Nat) ≤ peNw (63#64 <<< 52) ∧ peNw (63#64 <<< 52) < 64 ∧ (3 : Nat) < 2 ^ peNw (63#64 <<< 52) ∧
    1 ≤ peNw (1#64 <<< 52) ∧ (1 : Nat) < 2 ^ peNw (1#64 <<< 52) := by decide

def dstep : DStep := { who := pusher, n := 1, done := 0, next := 40, prev := 39 }
def sMad (m : Madder) : State := s0.modCore 0 (fun c => { c with mad := m })
def domRuns : Madder := { doms := [(0, { run := some dstep })] }
set_option maxRecDepth 50000 in
theorem test_domain_premises : (domRuns.dom 0).run = some dstep ∧ dstep.next = 40 ∧ (∀ k, k < 4 → k ≠ 0 → (domRuns.dom k).run = none) ∧
    40 ≤ (sMad domRuns).now ∧ (sMad domRuns).frozen 0 = false ∧ dstep.done + 1 = dstep.n ∧ domRuns.spoilt [0] = false ∧
    ({ domRuns with cells := [(5, { bad := true })], patch := [(5, 1#64)] } : Madder).spoilt [0] = true ∧ (∃ next, domRuns.stepDoms [0] = .ok next) := by
  and_intros <;> first | decide | exact ⟨_, rfl⟩

def maCmd (kind : Nat) : MaCmd := { who := pusher, kind := kind, dom := 1, opnd := 0x10000#64, sel := 3, lanes := [(0, 5, 9#64)] }
theorem test_array_command_premises : (let u := sMad { q := [maCmd 0] }; let m := (u.core 0).mad;
      (∀ d, d < 4 → (m.dom d).run = none) ∧ m.free ≤ u.now ∧ u.frozen 0 = false ∧ m.q = maCmd 0 :: [] ∧ (∀ y ∈ m.q, y.kind = 7 → u.now ≤ y.at_) ∧
      m.reading = none) ∧ (maCmd 7).at_ < s0.now ∧ s0.now ≤ ({ maCmd 7 with at_ := 40 } : MaCmd).at_ ∧
    [maCmd 6, maCmd 7, maCmd 0] = [maCmd 6] ++ maCmd 7 :: [maCmd 0] ∧ (∀ y ∈ [maCmd 6], y.kind ≠ 7) ∧ (maCmd 2).lanes = [(0, 5, 9#64)] ∧
    (∃ ps, s0.maTcm 0 (maCmd 4) = .ok ps) ∧ (∃ ps, s0.maTcm 0 (maCmd 1) = .ok ps) ∧ wbits (maCmd 6).opnd 0 32 ≠ 0 ∧
    (let m : Madder := { doms := [(1, { run := some { dstep with next := 41 } })] };
      (m.dom (maCmd 6).dom).run.isSome = true ∧ (m.dom (maCmd 6).dom).pend = none ∧
        ∀ d, d < 4 → ∀ r, (m.dom d).run = some r → (sMad m).now < r.next) ∧ (({} : Madder).cell 5).port = 0 := by
  refine ⟨by decide, by decide, by decide, by decide, by decide, by decide, ⟨_, rfl⟩, ⟨_, rfl⟩, by decide, ⟨by decide, by decide, ?_⟩, by decide⟩
  intro d hd r hr
  have h : d = 1 ∨ d ≠ 1 := by omega
  rcases h with h | h
  · subst h
    have : r = { dstep with next := 41 } := (Option.some.inj hr).symm
    subst this
    decide
  · have : ∀ d, d < 4 → d ≠ 1 → (({ doms := [(1, { run := some { dstep with next := 41 } })] } : Madder).dom d).run = none := by decide
    rw [this d hd h] at hr
    cases hr

/-- A table of zeros is sound; a first word with a bit of its zero field set is not. A snapshot that has been written. -/
def sTable0 : State := (sMad { reading := some (maCmd 1, 40, []), saving := [(maCmd 4, 40, [1#8, 2#8])] }).wrBytes (s0.keyNo 0) (tcmLoc 0 7) [4#8]
set_option maxRecDepth 50000 in
theorem test_table_premises : (sTable0.core 0).mad.reading = some (maCmd 1, 40, []) ∧ 40 ≤ sTable0.now ∧ sTable0.preempted 0 = false ∧
    (∃ ps, sTable0.maTcm 0 (maCmd 1) = .ok ps ∧ peOk (BitVec.ofNat 64 (bytesAt (sTable0.engBytes (sTable0.runCx 0) ps) 0 8)) = false) ∧
    (∀ j, j < 0 → peOk 0#64 = true) ∧ peOk 0#64 = true ∧ (sTable0.core 0).mad.saving = [(maCmd 4, 40, [1#8, 2#8])] ∧
    sTable0.engHeld pusher (secsOf (([1#8, 2#8] : List Byte).zipIdx.map (fun e => (tcmLoc 0 (8510 + e.2), e.1)))) = false ∧ 39 < 40 ∧ sTable0.MemOk ∧
    sTable0.NoTasks none ∧ (sTable0.gang 0).ch.pops = [] := by
  unfold State.MemOk State.NoTasks
  exact ⟨by decide, by decide, by decide, ⟨_, rfl, by decide⟩, by decide⟩

/-- A call of slot 1 that a fabric holds, its slot empty or with a graph of one node. -/
def call : FabCall := { ck := 0, who := pusher, slot := 1, mbox := 5, ops := [7#64] }
def graph : Graph := { nodes := [1#64], consts := [], ratio := 0, wide := false, banks := 1 }
def fab (slots : Tab Graph) : Fabric := { calls := [call], slots := slots }
theorem test_fabric_premises : (fab []).held = [] ∧ (fab []).calls = call :: [] ∧ (fab []).graph call.slot = none ∧
    (fab [(1, graph)]).graph call.slot = some graph ∧ (s0.core call.ck).mbuf.length + (s0.core call.ck).inbox.length < 16 ∧
    (let u := sMail.modCore 0 (fun c => { c with mbuf := List.replicate 16 (5, 1#64) });
      ¬ ((u.core 0).mbuf.length + (u.core 0).inbox.length < 16) ∧ (tget {} (u.core 0).mail call.mbox).pres = true) := by decide

/-- A drop of slot 1 and a load of it from zeros, which are no graph. -/
def sfCmd (kind : Nat) : SfCmd := { who := pusher, kind := kind, mbox := 0, ctl := 1#64, addr := 0x100000000#64, ops := [] }
def sLoad (kind : Nat) : State := s0.modCore 0 (fun c => { c with fabq := [sfCmd kind] })
set_option maxRecDepth 50000 in
theorem test_graph_load_premises : ((sLoad 2).core (ckOf 0 0)).fabq = sfCmd 2 :: [] ∧ (sLoad 2).frozen 0 = false ∧ (sLoad 2).s2Held 0 (.fabric (ckOf 0 0)) = false ∧ (sLoad 2).injOff 0 = false ∧ (sfCmd 1).kind = 1 ∧
    (∃ ps o, (sLoad 1).objRange (ckOf 0 0) (sfCmd 1).addr.toNat 1216 true = .ok ps ∧
      parseGraph ((sLoad 1).engBytes ((sLoad 1).runCx 0) ps) = .error o) ∧
    (∀ f ∈ List.range 16, ((sLoad 1).fab f).clash 1 1 = false) :=
  ⟨by decide, by decide, by decide, by decide, by decide, ⟨_, 0, rfl, rfl⟩, by decide⟩

/-! ## Contexts, the pre-emption ladder, images, scrub and tokens -/

def onSlice (f : Slice → Slice) : State := s0.modSlice 0 f
def onSwitch (f : Switch → Switch) : State := onSlice (fun x => { x with sw := f x.sw })

set_option maxRecDepth 20000 in
theorem test_context_premises : s0.booted = true ∧ (List.replicate 128 (0#8 : Byte)).length = 128 ∧ (s0.ctx (cxOf 15 7)).live = false ∧
    s0.ochre.drbgBad = false ∧ s0.ochre.keysUsed < 128 ∧ 128 ≤ ({ s0 with ochre := { s0.ochre with keysUsed := 128 } } : State).ochre.keysUsed ∧
    (let u := s0.modCtx 1 (fun c => { c with live := true }); (u.ctx (cxOf 0 1)).live = true ∧ (u.slice 0).running ≠ some 1) := by decide

/-- The hypervisor's tables map the first 1 GiB; the loader's map a pool of one page, the save range of 16 cores and the tile headers. -/
def sBare : State := (s0.wrBytes 0 0x10000 (leBytes 8 0x11003)).wrBytes 0 0x11000 (leBytes 8 0xd)
def ctxDesc : List Byte := List.replicate 96 0#8 ++ leBytes 8 0x20000 ++ leBytes 8 (2 ^ 48) ++ leBytes 8 0 ++ leBytes 8 0x10000
def ctxPlace (tabs : List (Nat × BitVec 64)) : CtxPlace := { tilb := 0x182000000, tilePa := 0x2000000, rings := 0x8000000, tabs := tabs }
def goodPlace : CtxPlace := ctxPlace [(0x20000, 0x21003#64), (0x21030, 1#64), (0x20ff8, 0x22003#64), (0x22e00, 0x15#64), (0x22c00, 0x23003#64),
  (0x23000, 0x24003#64), (0x24000, 0x40015#64)]
def created (p : CtxPlace) : State :=
  (({ sBare with ochre := { sBare.ochre with nextKey := 2, keysUsed := 1 } }.setCtx 1 (newCtx 2 1 ctxDesc p)).modVf 2
    (fun v => { v with ways := bytesAt ctxDesc 94 2 })).writeTabs 1 p.tabs
theorem test_context_placed : sBare.booted = true ∧ ctxDesc.length = 128 ∧ (sBare.ctx (cxOf 0 1)).live = false ∧ (sBare.vf 2).slice = 0 ∧
    sBare.ochre.drbgBad = false ∧ sBare.ochre.nextKey = 1 ∧ sBare.ochre.keysUsed = 0 ∧ (created goodPlace).placed 1 = true ∧
    (created (ctxPlace [])).placed 1 = false := by decide +kernel

/-- The running context at each step of the ladder, at time 0 of its request, seen 2 ms and 1 s later. -/
def ladder (k : LadderStep) (run : Nat) : State :=
  let s := onSwitch (fun w => { w with step := k, out := some 0, inn := some 1 })
  { s.modGang 0 (fun g => { g with wait := some .barrier }) with clock := { s.clock with run := run } }
theorem test_ladder_premises : s0.booted = true ∧ (s0.slice 0).sw.step = .idle ∧ (s0.slice 0).running = some 0 ∧ (s0.ctx (cxOf 0 0)).dbg.hlt = false ∧
    ((ladder .soft 2000).slice 0).sw.step = .soft ∧
    ((ladder .soft 2000).slice 0).sw.since + ((ladder .soft 2000).ctx (cxOf 0 0)).grace ≤ (ladder .soft 2000).clock.run ∧
    (ladder .soft 1999).clock.run < 0 + ((ladder .soft 1999).ctx (cxOf 0 0)).grace ∧
    (∀ e ∈ (ladder .soft 0).gangs, slOfGk e.1 = 0 → e.2.live = true → (ladder .soft 0).atBoundary e.1 = true) ∧
    ((ladder .soft 0).gang 0).ch.fresh = true ∧ ((ladder .soft 0).gang 0).spec = false ∧ ((ladder .soft 0).gang 0).task = none ∧
    (sFull.gang 0).ch.fresh = false ∧ (sFull.gang 0).ch.snap.isSome = true ∧
    ((ladder .saving 1000002).slice 0).sw.since + 1000 * ((ladder .saving 1000002).ctx (cxOf 0 0)).kill + 2 ≤ (ladder .saving 1000002).clock.run ∧
    (ladder .halting 1000001).clock.run < 0 + 1000 * ((ladder .halting 1000001).ctx (cxOf 0 0)).kill + 2 ∧ (s0.ctx (cxOf 0 0)).live = true ∧
    (s0.ctx (cxOf 0 1)).live = false := by decide

def img (n : Nat) : Image :=
  { gangs := [(0, gang)], cores := [], quads := [], clus := [], local_ := [], slice := {}, fabs := [], colls := [], seq := n, at_ := 0, unacked := [], run := 0 }
/-- Context 1 with its image and header of save n, to be restored where its count is 1. -/
def sRestore (n : Nat) : State :=
  let s := (onSwitch (fun w => { w with step := .restoring, inn := some 1 })).modCtx 1 (fun c =>
    { c with live := true, saves := 1, image := some (img n), imageAt := 0x4000000, key := some 11 })
  (s.modSlice 0 (fun x => { x with running := none })).wrBytes (s.keyNo 1) 0x4000000 (imageHeader 2 n)
set_option maxRecDepth 20000 in
theorem test_image_premises : ((ladder .saving 0).slice 0).sw.step = .saving ∧ ((ladder .saving 0).slice 0).running = some 0 ∧
    (ladder .saving 0).collsBusy 0 = false ∧ (ladder .saving 0).MemOk ∧ ((ladder .saving 0).ctx 0).imageAt + 64 ≤ 2 ^ 39 ∧
    ((sRestore 1).slice 0).sw.step = .restoring ∧ ((sRestore 1).slice 0).sw.inn = some 1 ∧ (sRestore 1).power.hot = false ∧
    ((sRestore 1).ctx (cxOf 0 1)).live = true ∧ ((sRestore 1).ctx (cxOf 0 1)).image = some (img 1) ∧
    imageBad ((sRestore 1).rdBytes ((sRestore 1).keyNo 1) 0x4000000 64) 2 1 = none ∧ (sRestore 1).MemOk ∧ Memory.wf (img 1).local_ = true ∧
    imageBad ((sRestore 2).rdBytes ((sRestore 2).keyNo 1) 0x4000000 64) 2 1 = some (3, 2) ∧ ((sRestore 2).slice 0).running = none := by
  unfold State.MemOk; decide

/-- The token of the scrub before context 0, which demands it, and one whose scrub was slice 3's. -/
def tokReq (sl : Nat) : TokReq :=
  { sl := sl, inn := 0, inTenant := [], nonce := [], tokbuf := 0x2000, demand := true, outTenant := [], bitmap := 0x1ffff, dtc := 0#64 }
def sSigning : State := { onSwitch (fun w => { w with step := .restoring, inn := some 0 }) with ochre := { s0.ochre with signing := some (tokReq 0) } }
theorem test_scrub_premises : ((onSwitch (fun w => { w with step := .scrubbing, inn := some 0 })).slice 0).sw.step = .scrubbing ∧
    (let u : State := { s0 with ochre := { s0.ochre with waiting := [tokReq 0, tokReq 3] } }; u.ochre.signing = none ∧ u.ochre.waiting = tokReq 0 :: [tokReq 3]) ∧
    sSigning.ochre.signing = some (tokReq 0) ∧ (sSigning.slice 0).sw.inn = some 0 ∧ (sSigning.slice 0).sw.scrubDtc = (tokReq 0).dtc ∧
    ({ tokReq 0 with bitmap := 0 } : TokReq).bitmap ≠ 0x1ffff ∧ ¬ (((s0.slice 0).running = some 1 ∨ (s0.slice 0).sw.inn = some 1)) ∧ nbits (1 : Nat) 0 1 = 1 ∧
    ((onSwitch (fun w => { w with rescrub := true })).slice 0).sw.rescrub = true := by decide

/-- A token's buffer that stage 2 does not map, and one that it maps writable. -/
theorem test_token_no_buffer (bs : List Byte) (h : bs ≠ []) : s0.writeIpa 0 0x2000 bs = none := by
  unfold State.writeIpa
  rw [if_neg]
  intro hall
  have h0 := List.all_eq_true.mp hall 0 (List.mem_range.mpr (List.length_pos_iff.mpr h))
  revert h0
  decide

/-! ## Sessions, quotes, queue records and clusters -/

def sSession (x : Session) : State := { s0 with ochre := { s0.ochre with sessions := [(3, x)] } }
theorem test_session_premises : s0.links.fjoadDown = false ∧ (s0.ctx (cxOf 0 0)).live = true ∧ (tget {} s0.ochre.sessions 3).opened = false ∧
    s0.ochre.drbgBad = false ∧
    (let x := tget {} (sSession { ck := 0, opened := true, inNo := 7, fails := 15, inKey := 2 ^ 32 - 1 }).ochre.sessions 3;
      x.opened = true ∧ x.ck = cxOf 0 0 ∧ 7 = x.inNo ∧ 8 ≠ x.inNo ∧ 16 ≤ x.fails + 1 ∧ x.inKey < 2 ^ 32 ∧ x.outKey < 2 ^ 32 ∧ 2 ^ 32 ≤ x.inKey + 1) := by
  decide

theorem test_quote_and_queue_premises : (s0.ctx (cxOf 0 0)).live = true ∧ (List.replicate 32 (0#8 : Byte)).length = 32 ∧ s0.booted = true ∧
    (tget {} sQueues.mgmt.queues 3).en = false ∧ (tget {} sQueues.mgmt.queues 3).head = (tget {} sQueues.mgmt.queues 3).tail ∧
    (∀ n ∈ some 16, 4 ≤ n ∧ n ≤ 16) ∧ (s0.slice 1).running = none ∧ (s0.slice 1).sw.step = .idle ∧ [607, 3].Nodup ∧ (∀ y ∈ [607, 3], y < 608) ∧
    (∀ e ∈ s0.slices, e.1 ≠ 1 → ∀ y ∈ [607, 3], y ∉ e.2.sites) ∧ (∀ y ∈ [607, 3], y ∉ ({ s0 with fused := [1, 9] } : State).fused) := by decide
/-- No loader of a context that exists has records yet to submit, so none has. -/
theorem test_no_submits : ∀ c, (sQueues.ctx c).submits = [] := by
  have h : ∀ (x : Ctx) (c : Nat), x.submits = [] → (tget ({} : Ctx) [(0, x)] c).submits = [] := by
    intro x c hx
    unfold tget
    split
    · exact hx
    · rfl
  exact fun c => h _ c rfl

/-! ## Collectives, links and the time counter -/

def coll : Collective := { vf := 2, parts := 2, steps := 3, step := 1, begun := 1, posted := true }
def sColl (c : Collective) : State := { s0 with colls := [(4, c)] }
theorem test_collective_premises : s0.booted = true ∧ ¬ ((s0.coll 4).posted = true ∧ (s0.coll 4).state = 0) ∧ ((sColl coll).coll 4).posted = true ∧
    ((sColl coll).coll 4).state = 0 ∧ coll.saved = false ∧ coll.agreed = true ∧ (coll.paused = true → coll.step < coll.top) ∧ (s0.vf 2).slice = 0 ∧
    (∀ q ∈ s0.links.cut, 2 ≤ q) ∧ (∃ q ∈ ({ s0.links with portsDown := List.range 96, peers := [(1, [3])] } : Links).cut, q < 2) ∧
    (∀ e ∈ s0.ctxs, ∀ im, e.2.image = some im → ¬ ((tget {} im.colls 4).posted = true ∧ (tget {} im.colls 4).state = 0)) ∧
    1 < coll.parts ∧ 1 ∉ coll.got ∧ (∀ e ∈ coll.early, ¬ (e.1 = 1 ∧ e.2.1 = coll.step)) ∧ coll.step < coll.steps ∧ coll.got.length + 1 < coll.parts ∧
    (let c := ((sColl { coll with got := [0], early := [(0, 2, [5#32])] }).coll 4); 1 ∉ c.got ∧ c.parts ≤ c.got.length + 1 ∧
      c.early = [(0, c.step + 1, [5#32])] ∧ c.step + 1 < c.steps ∧ 1 < c.parts) ∧
    (let c := ((sColl { coll with paused := true }).coll 4); ¬ (c.paused = true → c.step < c.top) ∧ 1 ∉ c.got) ∧
    (let c := ((sColl { coll with restoredAt := some 0, agreed := false }).coll 4);
      c.restoredAt.isSome = true ∧ c.agreed = false ∧ (∃ k ∈ [1, 2], k ≠ c.step) ∧ (∀ k ∈ [1, 1], k = c.step) ∧ [1, 2].length = c.parts ∧ [1, 1].length = c.parts) := by decide

theorem test_collective_timer_premises :
    (let c := { coll with paused := true }; c.posted = true ∧ c.state = 0 ∧ c.paused = true ∧ c.saved = false ∧ c.agreed = true ∧ c.begun ≤ c.step ∧ (c.told.length < c.parts ∨ c.step < c.top) ∧
      (s0.slice 0).sw.since + (s0.ctx (cxOf 0 ((s0.slice 0).sw.out.getD 0))).grace ≤ 2000) ∧
    ({ coll with restoredAt := some 5 } : Collective).restoredAt = some 5 ∧ 5 + 1000 * (s0.ctx (s0.runCx 0)).kill ≤ 1000005 := by decide

theorem test_link_premises : 31 ∉ s0.links.lanesLost ∧ 8 ≤ 31 - s0.links.lanesLost.length ∧ 95 ∉ s0.links.portsDown ∧
    (let l : Links := { s0.links with lanesLost := List.range 24 }; 31 - l.lanesLost.length < 8 ∧ l.lanesLost.length < 25 ∧ 31 ∉ l.lanesLost) ∧
    (∀ e ∈ s0.colls, e.2.posted = false ∨ e.2.state ≠ 0) ∧
    ({ s0.links with portsDown := [3], peers := [(1, [3])] } : Links).noTransfer = true ∧
    (let c : Clock := { source := 3, present := [3] }; c.source = 3 ∧ c.failedAt = none) := by decide

/-- A far operation on host memory, a store that waits for its acknowledgement, and a remote copy. -/
def hostOp : FarOp := { farOp 5 false with lanes := [{ lane := 0, loc := 2 ^ 47 + 65536, v := 1, c := 0 }] }
def sAway : State :=
  { onGang (fun g => { g with far := [hostOp] }) with links := { s0.links with unacked := [⟨0, 2 ^ 47 + 8, 64, 9#8, false, 0⟩] }, clock := { s0.clock with run := 100000 } }
theorem test_timeout_premises : (sAway.gang 0).far.find? (fun o => o.id == 5 && !o.perf) = some hostOp ∧
    sAway.unanswered hostOp = (0, { lane := 0, loc := 2 ^ 47 + 65536, v := 1, c := 0 }) :: [] ∧ ({ sAway with clock := { s0.clock with run := 99999 } } : State).unanswered hostOp = [] ∧
    (sAway.gang 0).far.find? (fun o => o.id == 6 && !o.perf) = none ∧
    sAway.links.unacked.filter (fun e => e.gk == 0 && sAway.outOfTime e.pa e.at_ && !e.far) = ⟨0, 2 ^ 47 + 8, 64, 9#8, false, 0⟩ :: [] ∧ sAway.MemOk ∧ spaceOfLoc (2 ^ 47 + 8) = 1 ∧
    tget [] (sChans.core (ckOfGk 0)).chans 3 = remote :: [] ∧ remote.kind = 5 ∧ remote.moved < remote.sent ∧
    (∀ e ∈ s0.links.portsOf 0, e ∈ s0.links.portsDown) ∧ (let l : Links := { s0.links with peers := [(0, [7])] }; ∃ e ∈ l.portsOf 0, e ∉ l.portsDown) ∧
    s0.clock.run < remote.at_ + 200000 := by
  unfold State.MemOk; decide

/-- Errors at 1 ms and just above, and a clock on source 2 with source 1 back, or failed. -/
theorem test_time_source_premises : (1000000 : Int).natAbs ≤ 1000000 ∧ ¬ (-1000001 : Int).natAbs ≤ 1000000 ∧ s0.clock.source = 0 ∧
    (let c : Clock := { source := 2, present := [1, 2] }; c.source ≠ 0 ∧ c.source ≠ 4 ∧ c.failedAt = none ∧ 1 < c.source ∧ c.source ≠ 1 ∧ c.source < 3) ∧
    (let c : Clock := { source := 2, failedAt := some 5, present := [1, 3] };
      c.failedAt.isSome = true ∧ (∀ n, 1 ≤ n → n < 1 → n ∉ c.present) ∧ ¬ (∀ n, 1 ≤ n → n < 3 → n ∉ c.present)) ∧
    (let c : Clock := { source := 3, failedAt := some 5, present := [1, 2] }; 2 < c.source ∧ ¬ (∀ n, 1 ≤ n → n < 2 → n ∉ c.present)) ∧
    s0.links.noTransfer = false ∧ ({ s0.links with portsDown := [3], peers := [(1, [3])] } : Links).noTransfer = true := by decide


/-! ## Debug, health, power and management registers -/

/-- Context 0 with a halt request, or halted. -/
def sDbg (d : DebugCtl) : State := s0.modCtx 0 (fun c => { c with dbg := d })
theorem test_debugger_premises : s0.booted = true ∧ (s0.ctx (cxOf 0 0)).live = true ∧ (s0.ctx (cxOf 15 7)).live = false ∧ (s0.slice 0).running = some 0 ∧
    ((sDbg { hreq := true }).ctx (cxOf 0 0)).dbg.hreq = true ∧
    (∀ e ∈ (sDbg { hreq := true }).gangs, slOfGk e.1 = 0 → e.2.live = true → ∀ w ∈ ((sDbg { hreq := true }).gang e.1).pend, ∃ k ∈ w.land, k ≤ 40) ∧
    (s0.ctx (cxOf 0 0)).dbg.hreq = false ∧ ((sDbg { hlt := true }).gang 0).live = true ∧
    ((sDbg { hlt := true }).ctx ((sDbg { hlt := true }).gangCx 0)).dbg.hlt = true ∧
    ((sDbg { hlt := true }).slice (slOfGk 0)).running.isSome = true ∧
    (∀ n ∈ [8, 57], ∀ e ∈ (s0.quad (qkOfGk 0)).exts,
      (s0.quad (qkOfGk 0)).exts.filter (fun e => decide (e.start ≤ wbits (BitVec.ofNat 64 n) 0 14) &&
        decide (wbits (BitVec.ofNat 64 n) 0 14 < e.start + e.len)) = [e]) ∧
    (∀ n ∈ [7, 58], ∀ e ∈ (s0.quad (qkOfGk 0)).exts,
      ¬ (e.start ≤ wbits (BitVec.ofNat 64 n) 0 14 ∧ wbits (BitVec.ofNat 64 n) 0 14 < e.start + e.len)) ∧
    (s0.ctx (s0.gangCx 0)).dbg.hlt = false ∧ (∀ n ∈ [0x021, 0x028], 0x021 ≤ n ∧ n ≤ 0x028) ∧ 7 < 8 ∧ 3 < 4 ∧ 0x1f < 0x20 := by decide

/-- The package with power on, `run` nanoseconds in, with dies at the temperatures. -/
def sPower (run : Nat) (dies : List (Nat × Die)) : State :=
  { s0 with power := { s0.power with on := true, last := 0 }, clock := { s0.clock with run := run }, dies := dies }
theorem test_power_gate_premises : (sPower 10000 []).power.on = true ∧ (sPower 10000 []).power.last + 10000 ≤ (sPower 10000 []).clock.run ∧
    (sPower 9999 []).clock.run < (sPower 9999 []).power.last + 10000 ∧ s0.booted = true ∧ (∀ w ∈ [600, 2300], 600 ≤ w % 4096 ∧ w % 4096 ≤ 2300) ∧
    599 % 4096 < 600 ∧ 2300 < 2301 % 4096 := by decide

theorem test_heat_premises : (sPower 0 [(0, { temp := 114 }), (1, { temp := 90 })]).power.on = true ∧
    ((sPower 0 [(0, { temp := 114 }), (1, { temp := 90 })]).dies.map Prod.fst).Nodup ∧
    (let t0 (temp : Nat) := ((sPower 0 [(0, { temp := 94 }), (1, { temp := 90 })]).dies.filter (fun e => e.1 != 1)).foldl (fun m e => max m e.2.temp) temp;
      t0 90 = 94 ∧ t0 95 = 95 ∧ t0 114 < 115 ∧ 115 ≤ t0 115 ∧ 115 ≤ t0 124) ∧
    (s0.slices.map Prod.fst).Nodup ∧ (s0.slice 0).running = some 0 ∧ (s0.slice 0).sw.step = .idle ∧ ((ladder .soft 0).slice 0).sw.step = .soft ∧
    (sPower 0 []).MemOk ∧ s0.booted = true ∧ ({ s0 with power := { s0.power with step := 5 } } : State).booted = false := by unfold State.MemOk; decide
/-- The sixth die has a temperature of its own, and a seventh is none; bring-up fails at step 5 on lane 31 or port 95. -/
theorem test_die_bounds : (5 : Nat) < 6 ∧ ¬ 6 < 6 ∧ (5 + 8 * 31) % 8 = 5 ∧ (5 + 8 * 31) / 8 < 32 ∧ (5 + 8 * 127) % 8 = 5 ∧ 32 ≤ (5 + 8 * 127) / 8 ∧
    (5 + 8 * 127) / 8 < 128 := by decide
/-- Whether the firmware's signatures verify is open, and both cases are stated. -/
theorem test_firmware_cases : firmwareAccepted = true ∨ firmwareAccepted = false := Bool.eq_false_or_eq_true _ |>.symm.elim .inr .inl

theorem test_life_premises : (let s := sPower (3600 * 10 ^ 9) []; s.booted = true ∧ (tget {} s.dies 3).at_ + 3600 * 10 ^ 9 ≤ s.clock.run) ∧
    (let s := sPower (3600 * 10 ^ 9 - 1) []; s.booted = true ∧ s.clock.run < (tget {} s.dies 3).at_ + 3600 * 10 ^ 9) := by decide

/-- A cycle that ends with a comparison due, and one that ends with an error in a context that is live, or no more. -/
def sPassing (f : State → State) : State := f { s0 with power := { s0.power with on := true, last := 0 }, agenda := [.tick 1] }
theorem test_passing_premises :
    (let s := sPassing (fun s => { s with dies := [(3, { cmp := true })] });
      s.power.on = true ∧ s.agenda = .tick 1 :: [] ∧ s.booted = true ∧ (tget {} s.dies 3).cmp = true ∧ s.errs = [] ∧ (s.dies.map Prod.fst).Nodup ∧
      (∀ e ∈ s.dies, e.1 ≠ 3 → e.2.cmp = false) ∧ ({ s with agenda := [] } : State).cycleEnd.calm 1 = true) ∧
    (let s := sPassing (fun s => { s with errs := [cxOf 0 0] });
      (s.ctx (cxOf 0 0)).live = true ∧ 0 < 8 ∧ ({ s with agenda := [] } : State).cycleEnd.calm 1 = true) ∧
    (let s := sPassing (fun s => { s with errs := [cxOf 0 1] });
      (s.ctx (cxOf 0 1)).live = false ∧ ({ s with agenda := [] } : State).cycleEnd.calm 1 = true) := by decide

theorem test_management_premises : (s0.ctx (cxOf 0 0)).live = true ∧ s0.booted = true ∧ ({ s0 with power := { s0.power with on := false } } : State).booted = false ∧
    (∀ u ∈ [0, 127], u < 128) ∧ [0, 127].Nodup ∧ (∀ e ∈ s0.slices, e.1 ≠ 1 → ∀ u ∈ [0, 127], u ∉ e.2.units) ∧
    (∀ e ∈ s0.vfs, e.1 ≠ 2 → Nat.land e.2.slots (255 % 256) = 0) ∧ (∀ n ∈ [0, 95], n < 96) ∧
    (∀ e ∈ s0.ctxs, e.2.live = true → e.2.vf = 2 → e.1 / 8 = 0) ∧ 65535 < 65536 ∧ 1 < 2 := by decide

/-! ## Encodings, steps and the whole machine -/

theorem test_round_trip_premises : (Instr.add 1#3 2#5 3#5 4#5 0#4).ill = none ∧ encode (.add 1#3 2#5 3#5 4#5 0#4) = some 0x2110c800#32 := by decide
theorem test_legal_word_premises : decodeWord 0x2110c800#32 = .ok (.add 1#3 2#5 3#5 4#5 0#4) := by decide
theorem test_short_bytes_premises : ([1#8, 2#8, 3#8] : List Byte).length < 4 := by decide
/-- One word for each ground of R212 that the statement lists, at an end of the reserved range where there is one. -/
theorem test_reserved_words_premises :
    (let op (w : W32) : Nat := wbits (w.setWidth 64) 24 5;
     let part (w : W32) (lo n : Nat) : Nat := wbits (w.setWidth 64) lo n;
     0x1c ≤ op 0x1c000000#32 ∧ op 0x000000a0#32 = 0 ∧ 10 ≤ part 0x000000a0#32 4 5 ∧ op 0x02000180#32 = 2 ∧ part 0x02000180#32 4 5 = 24 ∧
     op 0x0a000003#32 = 0x0a ∧ part 0x0a000003#32 0 2 = 3 ∧ op 0x0b000040#32 = 0x0b ∧ part 0x0b000040#32 6 3 ≠ 0 ∧ op 0x0c000034#32 = 0x0c ∧
     13 ≤ part 0x0c000034#32 2 4 ∧ op 0x0e0c0000#32 = 0x0e ∧ part 0x0e0c0000#32 18 2 = 3 ∧ op 0x0e800000#32 = 0x0e ∧ part 0x0e800000#32 20 4 = 8 ∧
     op 0x0f000090#32 = 0x0f ∧ 9 ≤ part 0x0f000090#32 4 4 ∧ op 0x10018000#32 = 0x10 ∧ 6 ≤ part 0x10018000#32 14 3 ∧ op 0x1a000003#32 = 0x1a ∧
     csrAssigned (part 0x1a000003#32 0 12) = false ∧ op 0x06400000#32 = 6 ∧ part 0x06400000#32 22 2 ≠ 0 ∧ op 0x08000200#32 = 8 ∧
     part 0x08000200#32 9 4 ≠ 0 ∧ op 0x09020003#32 = 9 ∧ part 0x09020003#32 17 2 ≠ 0 ∧ op 0x0f002050#32 = 0x0f ∧ part 0x0f002050#32 4 4 = 5 ∧
     part 0x0f002050#32 13 11 ≠ 0 ∧ op 0x19000001#32 = 0x19 ∧ part 0x19000001#32 0 5 ≠ 0 ∧
     part 0x01000008#32 0 4 = 8 ∧ part 0x0b000003#32 0 2 = 3 ∧ part 0x0b080002#32 0 2 = 2 ∧ part 0x0b080002#32 19 1 = 1 ∧
     part 0x0c080040#32 6 3 = 1 ∧ part 0x0c080040#32 19 5 ≠ 0 ∧ part 0x00000050#32 4 5 = 5 ∧ part 0x00000050#32 9 5 = 0 ∧
     part 0x10000000#32 14 3 = 0 ∧ part 0x10000000#32 0 14 = 0 ∧ part 0x17000070#32 4 5 = 7 ∧ part 0x17000070#32 9 4 = 0) := by decide
/-- The same words, each with the ground that names it. -/
theorem test_reserved_words_illegal : decodeWord 0x01000008#32 = .error .reservedGuard ∧ decodeWord 0x0b000003#32 = .error .reservedSize ∧
    decodeWord 0x0b080002#32 = .error .oddPair ∧ decodeWord 0x0c080040#32 = .error .unusedDest ∧ decodeWord 0x00000050#32 = .error .trapCodeZero ∧
    decodeWord 0x10000000#32 = .error .loopLengthZero ∧ decodeWord 0x17000070#32 = .error .stopMaskZero := by
  and_intros <;> rfl

/-- The small machine with the words in its instruction store. -/
theorem test_step_premises : s0.power.on = true ∧ s0.agenda = [] ∧ s0.pickSlot (ckOfGk s0.cur) = some (slotOfGk s0.cur) ∧ (s0.gang s0.cur).efaults = [] ∧
    (s0.gang s0.cur).ch.count < 512 ∧ (s0.gang s0.cur).r.blk.start ≤ (s0.gang s0.cur).r.pc ∧
    (s0.gang s0.cur).r.pc < (s0.gang s0.cur).r.blk.start + (s0.gang s0.cur).r.blk.len ∧ decodeWord (s0.issueWord s0.cur) = .ok (.nop 0#3) ∧
    (s0.gang s0.cur).r.rep = none ∧ s0.calm (s0.issueAt s0.cur - s0.now) = true ∧ (s0.gang s0.cur).trapDue = none ∧
    (let v := s0.toIssue s0.cur; v.mayRun (slOfGk s0.cur) = true ∧ (v.gang s0.cur).canIssue = true ∧ v.cur = s0.cur ∧ (v.gang v.cur).trapDue = none) ∧
    (let u := onGang (fun g => { g with trapDue := some { word := 0#32, ret := 10, cause := 0x0d, flt := 3#32, va := 0#64 } });
      let v := u.toIssue u.cur; v.mayRun (slOfGk u.cur) = true ∧ (v.gang u.cur).canIssue = true ∧ (v.gang v.cur).trapDue.isSome = true) := by decide
/-- The machine in which the gang in focus issues (the statement's own term). -/
def sIssue : State := (s0.toIssue s0.cur).modGang s0.cur (fun g => g.openChunk (s0.toIssue s0.cur).fresh)
theorem test_issue_premises : sIssue.shortStall (s0.issueWord s0.cur) = false ∧ sIssue.badCapture (s0.issueWord s0.cur) = false ∧
    (sIssue.gang s0.cur).outstanding (s0.issueWord s0.cur) (operandsOf (s0.issueWord s0.cur)).wr = [] ∧ (sIssue.gang s0.cur).acquiring = false ∧
    accesses (s0.issueWord s0.cur) = false := by decide
/-- The quad's store holds a word of a reserved major where the pc stands. -/
def sBadWord : State := s0.modQuad 0 (fun q => { q with code := [(10, 0xffffffff#32)] })
theorem test_reserved_word_at_pc : sBadWord.issueWord sBadWord.cur = 0xffffffff#32 ∧ sBadWord.pickSlot (ckOfGk sBadWord.cur) = some (slotOfGk sBadWord.cur) := by
  decide
/-- An event that the agenda names, and a choice that waits one cycle. -/
theorem test_event_premises : (let s : State := { s0 with agenda := [.event .powerLoss] }; s.power.on = true ∧ s.agenda = .event .powerLoss :: []) ∧
    encode .powerLoss = none := by decide
theorem test_canonical_memory_premises :
    let s : State := { s0 with agenda := [.tick 1] }
    s.MemOk ∧ step s = .next (({ s with agenda := [] } : State).advance 1) := ⟨s0_noTasks.2.2, rfl⟩

/-- 18:R394: the kill record is 64 bytes, with `core` at 12 and `tva` at 48. -/
theorem test_kill_record_bytes :
    (let k : KillRec := { dtc := 1#64, slice := 2, ctx := 3, cause := 0x15, last := 9, core := 0x0102, gslot := 3, tc := 0#64, tpc := 0#64
                          tmk := 0#64, tva := 7#64 }
     (k.bytes.length, k.bytes[10]!, k.bytes[12]!, k.bytes[13]!, k.bytes[48]!)) = (64, 0x15#8, 2#8, 1#8, 7#8) := by decide

/-- 07:R187: the queue record is 32 bytes, with `en` at 11 and `tail` at 14. -/
theorem test_queue_record_bytes :
    (let q : WorkQueue := { ring := 0x40, ldep := 4, vf := 5, ctx := 6, en := true, head := 1, tail := 2 }
     (q.bytes.length, q.bytes[8]!, q.bytes[11]!, q.bytes[14]!)) = (32, 4#8, 1#8, 2#8) := by decide
end Sys2Proof.Tests
end

section
/-!
Which words are legal (08:R212): what the fields of a word that decodes hold, and that the bytes of a word are read lowest first (00:R4).
-/

namespace Sys2Proof

/-! ## Fields of a word (08:R205) -/

@[simp] theorem toNat_fld (w : W32) (lo n : Nat) : (fld w lo n).toNat = w.toNat / 2 ^ lo % 2 ^ n := by
  simp [fld]

/-- The statements read a field from the word widened to 64 bits; the decoder reads the same number. -/
@[simp] theorem wbits_setWidth (w : W32) (lo n : Nat) : Machine.wbits (w.setWidth 64) lo n = w.toNat / 2 ^ lo % 2 ^ n := by
  have h : w.toNat % 2 ^ 64 = w.toNat := Nat.mod_eq_of_lt (by omega)
  rw [Machine.wbits, Machine.nbits, BitVec.toNat_setWidth, h]

theorem fld_eq_iff (w : W32) (lo n : Nat) (v : BitVec n) : fld w lo n = v ↔ w.toNat / 2 ^ lo % 2 ^ n = v.toNat := by
  rw [← BitVec.toNat_inj, toNat_fld]

theorem getLsbD_zero_fld (w : W32) (lo n : Nat) (hn : 0 < n) : (fld w lo n).getLsbD 0 = true ↔ w.toNat / 2 ^ lo % 2 ^ 1 = 1 := by
  rw [fld, BitVec.getLsbD_ofNat, Nat.testBit_zero]
  simp [hn]

/-- The bits of the field of `n` bits at `lo`. -/
def fieldMask (lo n : Nat) : Nat := (2 ^ n - 1) <<< lo

/-- The bits of the fields, written (hi, lo), that a row of the opcode table marks zero. -/
def zeroMask : List (Nat × Nat) → Nat
  | [] => 0
  | (hi, lo) :: rest => fieldMask lo (hi + 1 - lo) ||| zeroMask rest

theorem land_fieldMask (x lo n : Nat) : x &&& fieldMask lo n = (x / 2 ^ lo % 2 ^ n) <<< lo := by
  apply Nat.eq_of_testBit_eq
  intro i
  by_cases hi : lo ≤ i
  · simp [fieldMask, Nat.testBit_div_two_pow, hi, Bool.and_comm]
  · simp [fieldMask, hi]

theorem zeroFields_cons (w : W32) (hi lo : Nat) (fs : List (Nat × Nat)) :
    zeroFields w ((hi, lo) :: fs) = true ↔ w.toNat / 2 ^ lo % 2 ^ (hi + 1 - lo) = 0 ∧ zeroFields w fs = true := by
  simp [zeroFields]

theorem land_zeroMask (w : W32) (fs : List (Nat × Nat)) (h : zeroFields w fs = true) : w.toNat &&& zeroMask fs = 0 := by
  induction fs with
  | nil => simp [zeroMask]
  | cons f fs ih =>
    obtain ⟨hf, hfs⟩ := (zeroFields_cons w f.1 f.2 fs).mp h
    simp [zeroMask, Nat.and_or_distrib_left, land_fieldMask, hf, ih hfs]

theorem zeroFields_of_mem (w : W32) (fs : List (Nat × Nat)) (hi lo : Nat) (h : zeroFields w fs = true) (hm : (hi, lo) ∈ fs) :
    w.toNat / 2 ^ lo % 2 ^ (hi + 1 - lo) = 0 := by
  induction fs with
  | nil => cases hm
  | cons f fs ih =>
    obtain ⟨hf, hfs⟩ := (zeroFields_cons w f.1 f.2 fs).mp h
    rcases List.mem_cons.mp hm with rfl | hm
    · exact hf
    · exact ih hfs hm

/-! ## Rows of the opcode table (08:R211) -/

/-- A word holds the value of some row of the opcode table under the row's mask. -/
def InTable (w : W32) : Prop := ∃ e ∈ Says.opcodeRows, ∃ v ∈ e.2, w.toNat.land e.1 = v

/-- The opcode table has the row that major opcode `op` and member `m`, at `lo` and below `k`, name, with exactly the fields `fs` marked zero. -/
abbrev HasRow (op lo k m : Nat) (fs : List (Nat × Nat)) : Prop :=
  2 ^ k.log2 = k ∧ ∃ e ∈ Says.opcodeRows, e.1 = fieldMask 24 5 ||| fieldMask lo k.log2 ||| zeroMask fs ∧ op <<< 24 ||| m <<< lo ∈ e.2

theorem inTable_of_hasRow {w : W32} {op lo k m : Nat} {fs : List (Nat × Nat)} (hop : w.toNat / 2 ^ 24 % 2 ^ 5 = op)
    (hm : w.toNat / 2 ^ lo % k = m) (hz : zeroFields w fs = true) (hrow : HasRow op lo k m fs) : InTable w := by
  obtain ⟨hk, e, he, hmask, hv⟩ := hrow
  refine ⟨e, he, _, hv, ?_⟩
  change w.toNat &&& e.1 = _
  rw [hmask, Nat.and_or_distrib_left, Nat.and_or_distrib_left, land_fieldMask, land_fieldMask, land_zeroMask w fs hz, hop, hk, hm, Nat.or_zero]

theorem zeros_eq_ok {w : W32} {fs : List (Nat × Nat)} {i j : Instr} : zeros w fs i = .ok j ↔ zeroFields w fs = true ∧ i = j := by
  unfold zeros
  split <;> simp [*]

/-- A word with no field marked zero is one whose list of such fields is empty. -/
theorem ok_eq_ok (w : W32) {i j : Instr} : (Except.ok i : Except Illegal Instr) = .ok j ↔ zeroFields w [] = true ∧ i = j := by
  simp [zeroFields]

/-- By the branches of the decoder, first the major opcode, then the member: each names its row and marks the row's zero fields. -/
theorem inTable_of_decodeForm {w : W32} {i : Instr} (h : decodeForm w = .ok i) : InTable w := by
  unfold decodeForm at h
  split at h
  case h_26 hop =>
    rw [decodeRepf, zeros_eq_ok] at h
    exact inTable_of_hasRow (lo := 0) hop (Nat.mod_one _) h.1 (by decide)
  all_goals
    simp only [decodeSys, decodeIalu, decodeIalu32, decodeIalui, decodeMovw, decodeImul, decodeCmp, decodeFp, decodeFcvt, decodeLd, decodeSt,
      decodeNatom, decodeFatom, decodeSync, decodeBr, decodeXfer, decodeLoop, decodeMail, decodeLane, decodeAccw, decodeMx, decodeCp, decodeSf,
      decodeMa, decodeEng, decodeCsr, decodeStrm, reduceCtorEq] at h
  all_goals split at h
  all_goals simp only [zeros_eq_ok, ok_eq_ok w, reduceCtorEq] at h
  all_goals exact inTable_of_hasRow ‹w.toNat / 2 ^ 24 % 32 = _› ‹_› h.1 (by decide)

/-! ## Guards (08:R206) -/

/-- The major opcodes whose members hold a guard at bits 3 to 0 or mark those bits zero. -/
def guardedMajors : List Nat := [0x00, 0x01, 0x02, 0x05, 0x06, 0x07, 0x08, 0x0d, 0x0f, 0x11, 0x12, 0x13, 0x14, 0x15, 0x16, 0x17, 0x18, 0x1b]

/-- Where bits 3 to 0 hold the reserved guard, a row that marks them zero is not spelled. -/
theorem ill_of_reservedGuard {w : W32} {fs : List (Nat × Nat)} {i j : Instr} (hg : fld w 0 4 = 8#4) (h : zeroFields w fs = true ∧ i = j)
    (hbad : (decide ((3, 0) ∈ fs) || i.ill.isSome) = true) : j.ill ≠ none := by
  obtain ⟨hz, rfl⟩ := h
  rcases Bool.or_eq_true_iff.mp hbad with hmem | hill
  · have h0 := zeroFields_of_mem w fs 3 0 hz (of_decide_eq_true hmem)
    have h8 := (fld_eq_iff w 0 4 8#4).mp hg
    exact absurd (h0.symm.trans h8) (by decide)
  · exact Option.isSome_iff_ne_none.mp hill

/-- Each member of these majors either checks its guard or marks bits 3 to 0 zero: by the majors, then by their members. -/
theorem ill_of_decodeForm_guard {w : W32} {i : Instr} (hop : w.toNat / 2 ^ 24 % 32 ∈ guardedMajors) (hg : fld w 0 4 = 8#4)
    (h : decodeForm w = .ok i) : i.ill ≠ none := by
  unfold decodeForm at h
  simp only [guardedMajors, List.mem_cons, List.not_mem_nil, or_false] at hop
  rcases hop with hop | hop | hop | hop | hop | hop | hop | hop | hop | hop | hop | hop | hop | hop | hop | hop | hop | hop
  all_goals
    simp only [hop, decodeSys, decodeIalu, decodeIalu32, decodeImul, decodeCmp, decodeFp, decodeFcvt, decodeSync, decodeXfer, decodeMail,
      decodeLane, decodeAccw, decodeMx, decodeCp, decodeSf, decodeMa, decodeEng, decodeStrm, hg] at h
  all_goals split at h
  all_goals simp only [zeros_eq_ok, ok_eq_ok w, reduceCtorEq] at h
  all_goals exact ill_of_reservedGuard hg h rfl

/-! ## The other checks of well-formedness (08:R212) -/

@[simp] theorem firstIll_nil : firstIll [] = none := rfl

@[simp] theorem firstIll_cons_eq_none (bad : Bool) (r : Illegal) (rest : List (Bool × Illegal)) :
    firstIll ((bad, r) :: rest) = none ↔ bad = false ∧ firstIll rest = none := by
  cases bad <;> simp [firstIll]

theorem illNatom_eq_none (z : BitVec 2) (d b : BitVec 5) :
    illNatom z d b = none ↔ z ≠ 3#2 ∧ (z = 2#2 → d.getLsbD 0 = false) ∧ (z = 2#2 → b.getLsbD 0 = false) := by
  simp [illNatom, illPair]

theorem illFatom_eq_none (z : BitVec 2) (u : BitVec 3) (d b : BitVec 5) :
    illFatom z u d b = none ↔ illNatom z d b = none ∧ (u = 1#3 → d = 0#5) := by
  simp [illFatom, illNatom, illPair, and_assoc]

theorem ill_of_decodeNatom {w : W32} {i : Instr} (h : decodeNatom w = .ok i) : i.ill = illNatom (fld w 0 2) (fld w 19 5) (fld w 9 5) := by
  unfold decodeNatom at h
  split at h
  all_goals simp only [zeros_eq_ok, reduceCtorEq] at h
  all_goals
    obtain ⟨-, rfl⟩ := h
    rfl

/-- The members that leave out one of `wd` and `wb` mark its field zero, so their check reads the field all the same. -/
theorem ill_of_decodeFatom {w : W32} {i : Instr} (h : decodeFatom w = .ok i) :
    i.ill = illFatom (fld w 0 2) (fld w 6 3) (fld w 19 5) (fld w 9 5) := by
  unfold decodeFatom at h
  split at h
  all_goals simp only [zeros_eq_ok, ok_eq_ok w, reduceCtorEq] at h
  all_goals obtain ⟨hz, rfl⟩ := h
  case h_12 =>
    have hb : fld w 9 5 = 0#5 := (fld_eq_iff w 9 5 0#5).mpr (zeroFields_of_mem w _ 13 9 hz (by simp))
    rw [hb]
    rfl
  case h_13 =>
    have hd : fld w 19 5 = 0#5 := (fld_eq_iff w 19 5 0#5).mpr (zeroFields_of_mem w _ 23 19 hz (by simp))
    rw [hd]
    rfl
  all_goals rfl

theorem ill_of_decodeCsr {w : W32} {i : Instr} (h : decodeCsr w = .ok i) :
    i.ill = firstIll [(!csrAssigned (fld w 0 12).toNat, .unassignedCsr)] := by
  unfold decodeCsr at h
  split at h
  all_goals simp only [zeros_eq_ok, reduceCtorEq] at h
  all_goals
    obtain ⟨-, rfl⟩ := h
    rfl

theorem ill_of_decodeBr {w : W32} {i : Instr} (hm : w.toNat / 2 ^ 18 % 4 < 2) (h : decodeBr w = .ok i) : i.ill = illGuard (fld w 20 4) := by
  unfold decodeBr at h
  split at h
  case h_3 hm2 => omega
  all_goals simp only [ok_eq_ok w, reduceCtorEq] at h
  all_goals
    obtain ⟨-, rfl⟩ := h
    rfl

theorem ill_of_decodeSys_trap {w : W32} {i : Instr} (hm : w.toNat / 2 ^ 4 % 32 = 5) (h : decodeSys w = .ok i) :
    i.ill = firstIll [(fld w 0 4 == 8#4, .reservedGuard), (fld w 9 5 == 0#5, .trapCodeZero)] := by
  rw [decodeSys, hm] at h
  obtain ⟨-, rfl⟩ := zeros_eq_ok.mp h
  rfl

theorem ill_of_decodeLoop_loop {w : W32} {i : Instr} (hm : w.toNat / 2 ^ 14 % 8 = 0) (h : decodeLoop w = .ok i) :
    i.ill = firstIll [(fld w 0 14 == 0#14, .loopLengthZero)] := by
  rw [decodeLoop, hm] at h
  obtain ⟨-, rfl⟩ := (ok_eq_ok w).mp h
  rfl

theorem ill_of_decodeMa_dstop {w : W32} {i : Instr} (hm : w.toNat / 2 ^ 4 % 32 = 7) (h : decodeMa w = .ok i) :
    i.ill = firstIll [(fld w 9 4 == 0#4, .stopMaskZero)] := by
  rw [decodeMa, hm] at h
  obtain ⟨-, rfl⟩ := zeros_eq_ok.mp h
  rfl

/-! ## Words that are refused -/

/-- A word is refused when whatever its fields spell fails a check. -/
theorem refused_of_ill {w : W32} (h : ∀ i, decodeForm w = .ok i → i.ill ≠ none) : ∃ r, decodeWord w = .error r := by
  unfold decodeWord
  split
  case h_1 r _ => exact ⟨r, rfl⟩
  case h_2 i hi =>
    obtain ⟨r, hr⟩ := Option.ne_none_iff_exists'.mp (h i hi)
    exact ⟨r, by rw [hr]⟩

theorem refused_of_not_inTable {w : W32} (h : ¬ InTable w) : ∃ r, decodeWord w = .error r :=
  refused_of_ill fun _ hi => absurd (inTable_of_decodeForm hi) h

theorem refused_of_guard {w : W32} (hop : w.toNat / 2 ^ 24 % 32 ∈ guardedMajors) (hg : w.toNat / 2 ^ 0 % 2 ^ 4 = 8) :
    ∃ r, decodeWord w = .error r :=
  refused_of_ill fun _ => ill_of_decodeForm_guard hop ((fld_eq_iff w 0 4 8#4).mpr hg)

theorem refused_of_branch_condition {w : W32} (hop : w.toNat / 2 ^ 24 % 32 = 0x0e) (hm : w.toNat / 2 ^ 18 % 4 < 2)
    (hc : w.toNat / 2 ^ 20 % 2 ^ 4 = 8) : ∃ r, decodeWord w = .error r := by
  refine refused_of_ill fun i hi => ?_
  rw [decodeForm, hop] at hi
  rw [ill_of_decodeBr hm hi, (fld_eq_iff w 20 4 8#4).mpr hc]
  decide

/-- A size of 3, or 128 bits at an odd register of a pair, is refused by the check that both atomic majors share. -/
theorem illNatom_ne_none {w : W32} (h : w.toNat / 2 ^ 0 % 2 ^ 2 = 3 ∨
    w.toNat / 2 ^ 0 % 2 ^ 2 = 2 ∧ (w.toNat / 2 ^ 19 % 2 ^ 1 = 1 ∨ w.toNat / 2 ^ 9 % 2 ^ 1 = 1)) :
    illNatom (fld w 0 2) (fld w 19 5) (fld w 9 5) ≠ none := by
  rw [Ne, illNatom_eq_none]
  rintro ⟨hsize, hd, hb⟩
  rcases h with h3 | ⟨h2, hodd | hodd⟩
  · exact hsize ((fld_eq_iff w 0 2 3#2).mpr h3)
  · exact Bool.eq_false_iff.mp (hd ((fld_eq_iff w 0 2 2#2).mpr h2)) ((getLsbD_zero_fld w 19 5 (by decide)).mpr hodd)
  · exact Bool.eq_false_iff.mp (hb ((fld_eq_iff w 0 2 2#2).mpr h2)) ((getLsbD_zero_fld w 9 5 (by decide)).mpr hodd)

theorem refused_of_atomic_size {w : W32} (hop : w.toNat / 2 ^ 24 % 32 = 0x0b ∨ w.toNat / 2 ^ 24 % 32 = 0x0c)
    (h : w.toNat / 2 ^ 0 % 2 ^ 2 = 3 ∨ w.toNat / 2 ^ 0 % 2 ^ 2 = 2 ∧ (w.toNat / 2 ^ 19 % 2 ^ 1 = 1 ∨ w.toNat / 2 ^ 9 % 2 ^ 1 = 1)) :
    ∃ r, decodeWord w = .error r := by
  refine refused_of_ill fun i hi => ?_
  rcases hop with hop | hop <;> rw [decodeForm, hop] at hi
  · rw [ill_of_decodeNatom hi]
    exact illNatom_ne_none h
  · rw [ill_of_decodeFatom hi, Ne, illFatom_eq_none]
    exact fun hnone => illNatom_ne_none h hnone.1

theorem refused_of_unused_destination {w : W32} (hop : w.toNat / 2 ^ 24 % 32 = 0x0c) (hu : w.toNat / 2 ^ 6 % 2 ^ 3 = 1)
    (hd : w.toNat / 2 ^ 19 % 2 ^ 5 ≠ 0) : ∃ r, decodeWord w = .error r := by
  refine refused_of_ill fun i hi => ?_
  rw [decodeForm, hop] at hi
  rw [ill_of_decodeFatom hi, Ne, illFatom_eq_none]
  exact fun hnone => hd ((fld_eq_iff w 19 5 0#5).mp (hnone.2 ((fld_eq_iff w 6 3 1#3).mpr hu)))

theorem refused_of_trap_code {w : W32} (hop : w.toNat / 2 ^ 24 % 32 = 0x00) (hm : w.toNat / 2 ^ 4 % 32 = 5)
    (hc : w.toNat / 2 ^ 9 % 2 ^ 5 = 0) : ∃ r, decodeWord w = .error r := by
  refine refused_of_ill fun i hi => ?_
  rw [decodeForm, hop] at hi
  simp [ill_of_decodeSys_trap hm hi, (fld_eq_iff w 9 5 0#5).mpr hc]

theorem refused_of_loop_length {w : W32} (hop : w.toNat / 2 ^ 24 % 32 = 0x10) (hm : w.toNat / 2 ^ 14 % 8 = 0)
    (hn : w.toNat / 2 ^ 0 % 2 ^ 14 = 0) : ∃ r, decodeWord w = .error r := by
  refine refused_of_ill fun i hi => ?_
  rw [decodeForm, hop] at hi
  simp [ill_of_decodeLoop_loop hm hi, (fld_eq_iff w 0 14 0#14).mpr hn]

theorem refused_of_stop_mask {w : W32} (hop : w.toNat / 2 ^ 24 % 32 = 0x17) (hm : w.toNat / 2 ^ 4 % 32 = 7)
    (hn : w.toNat / 2 ^ 9 % 2 ^ 4 = 0) : ∃ r, decodeWord w = .error r := by
  refine refused_of_ill fun i hi => ?_
  rw [decodeForm, hop] at hi
  simp [ill_of_decodeMa_dstop hm hi, (fld_eq_iff w 9 4 0#4).mpr hn]

theorem refused_of_csr {w : W32} (hop : w.toNat / 2 ^ 24 % 32 = 0x1a) (hc : csrAssigned (w.toNat / 2 ^ 0 % 2 ^ 12) = false) :
    ∃ r, decodeWord w = .error r := by
  refine refused_of_ill fun i hi => ?_
  rw [decodeForm, hop] at hi
  rw [ill_of_decodeCsr hi, toNat_fld, hc]
  decide

theorem reservedWordsAreIllegal : Says.ReservedWordsAreIllegal := by
  intro w
  simp only [wbits_setWidth]
  rintro (hrow | ⟨hop, hg⟩ | ⟨hop, hm, hc⟩ | ⟨hop, hz⟩ | ⟨hop, hu, hd⟩ | ⟨hop, hm, hc⟩ | ⟨hop, hm, hn⟩ | ⟨hop, hm, hn⟩ | ⟨hop, hc⟩)
  · exact refused_of_not_inTable fun ⟨e, he, v, hv, hev⟩ => hrow e he v hv hev
  · exact refused_of_guard hop hg
  · exact refused_of_branch_condition hop hm hc
  · exact refused_of_atomic_size hop hz
  · exact refused_of_unused_destination hop hu hd
  · exact refused_of_trap_code hop hm hc
  · exact refused_of_loop_length hop hm hn
  · exact refused_of_stop_mask hop hm hn
  · exact refused_of_csr hop hc

/-! ## Bytes of a word (00:R4, 08:R204) -/

theorem wordOfBytes_fld (w : W32) : wordOfBytes (fld w 0 8) (fld w 8 8) (fld w 16 8) (fld w 24 8) = w := by
  apply BitVec.eq_of_toNat_eq
  have hw := w.isLt
  simp only [wordOfBytes, toNat_fld, BitVec.toNat_ofNat]
  omega

/-- The decoder of words stands as a variable `f` in the proof: the kernel would otherwise evaluate it at bytes that are not known. -/
theorem decode_four_bytes (b0 b1 b2 b3 : Byte) (rest : List Byte) :
    decode (b0 :: b1 :: b2 :: b3 :: rest) = (decodeWord (wordOfBytes b0 b1 b2 b3)).map (fun i => (i, rest)) := by
  obtain ⟨f, hf⟩ : ∃ f, f = decodeWord := ⟨_, rfl⟩
  rw [decode.eq_def, ← hf]
  cases hw : f (wordOfBytes b0 b1 b2 b3) <;> simp [hw, Except.map]

theorem decode_bytesOfWord_append (w : W32) (rest : List Byte) :
    decode (bytesOfWord w ++ rest) = (decodeWord w).map (fun i => (i, rest)) := by
  rw [bytesOfWord, List.cons_append, List.cons_append, List.cons_append, List.cons_append, List.nil_append, decode_four_bytes, wordOfBytes_fld]

theorem decode_short : (bs : List Byte) → bs.length < 4 → decode bs = .error .shortWord
  | [], _ | [_], _ | [_, _], _ | [_, _, _], _ => rfl
  | _ :: _ :: _ :: _ :: _, h => by simp at h; omega

/-- Settles O4: a word that decodes is of a row of the opcode table, by the branches of the decoder, and passes the check of its form. -/
theorem illegalWordsAreRefused : Obligations.IllegalWordsAreRefused :=
  ⟨⟨decode_bytesOfWord_append, decode_short⟩, reservedWordsAreIllegal⟩

end Sys2Proof
end

section
/-!
Route caches, the timing of blocks, and code stores: what the operations of hot-code replication give and leave unchanged (02:R24, R30, R36 to R39).
-/

namespace Sys2Proof.Machine

/-! ## Route caches (02:R30) -/

theorem exec_routeCacheFill (sl q : Nat) (h : BitVec 64) (s : State) : exec (.routeCacheFill sl q h) s = execRouteCacheFill sl q h s := by
  rfl

theorem execRouteCacheFill_none {s : State} {sl q : Nat} {h : BitVec 64} (hr : s.resolve (s.runCx sl) h = none) :
    execRouteCacheFill sl q h s = .next s := by
  simp [execRouteCacheFill, hr]

theorem execRouteCacheFill_some {s : State} {sl q : Nat} {h : BitVec 64} {g : Target} (hr : s.resolve (s.runCx sl) h = some g) :
    execRouteCacheFill sl q h s = .next (s.routeFill (qkOf sl q) g) := by
  simp [execRouteCacheFill, hr]

theorem routeFill_of_mem {s : State} {qk : Nat} {g : Target} (h : ∃ x ∈ (s.quad qk).routes, x.obj = g.slot ∧ x.entry = g.entry) :
    s.routeFill qk g = s := by
  rw [State.routeFill, if_pos (by simpa using h)]

theorem routeFill_of_not_mem {s : State} {qk : Nat} {g : Target} (h : ∀ x ∈ (s.quad qk).routes, ¬ (x.obj = g.slot ∧ x.entry = g.entry)) :
    s.routeFill qk g = s.modQuad qk (fun q => { q with routes :=
      ({ obj := g.slot, entry := g.entry, live := g.rec_.live, quads := g.obj.replicas g.rec_.block } :: q.routes).take 256 }) := by
  rw [State.routeFill, if_neg (by simpa using h)]
  rfl

theorem routeCachesTakeEntriesIn : Says.RouteCachesTakeEntriesIn := by
  intro s sl q h g
  dsimp only
  rw [exec_routeCacheFill]
  refine ⟨execRouteCacheFill_none, fun hr => ?_⟩
  rw [execRouteCacheFill_some hr]
  refine ⟨fun hm => by rw [routeFill_of_mem hm], fun hn => ⟨_, rfl, ?_⟩⟩
  rw [routeFill_of_not_mem hn]
  exact ⟨by simp, fun k hk => modQuad_quad_other _ _ _ _ hk⟩

/-! ## The timing of a block (02:R36) -/

theorem hotOf_key (x : Slice) (obj blk : Nat) : (x.hotOf obj blk).obj = obj ∧ (x.hotOf obj blk).blk = blk := by
  unfold Slice.hotOf
  cases hf : x.hot.find? (fun h => h.obj == obj && h.blk == blk) with
  | none => exact ⟨rfl, rfl⟩
  | some h => simpa using List.find?_some hf

theorem hotOf_setHot_same (x : Slice) (h : HotBlk) : (x.setHot h).hotOf h.obj h.blk = h := by
  simp [Slice.hotOf, Slice.setHot]

theorem hotOf_setHot_other (x : Slice) (h : HotBlk) (obj blk : Nat) (hne : ¬ (h.obj = obj ∧ h.blk = blk)) :
    (x.setHot h).hotOf obj blk = x.hotOf obj blk := by
  have hhead : (h.obj == obj && h.blk == blk) = false := by simpa using hne
  simp only [Slice.hotOf, Slice.setHot, List.find?_cons, hhead, List.find?_filter]
  congr 2
  funext k
  by_cases hk : k.obj = obj ∧ k.blk = blk
  · obtain ⟨rfl, rfl⟩ := hk
    have hkeep : ¬ (k.obj = h.obj ∧ k.blk = h.blk) := fun ⟨ho, hb⟩ => hne ⟨ho.symm, hb.symm⟩
    simpa using not_and_or.mp hkeep
  · have : (k.obj == obj && k.blk == blk) = false := by simpa using hk
    simp [this]

/-- The timing that a sample of a block leaves, in terms of the state before it. -/
def State.timed (s : State) (sl obj blk : Nat) (o : Obj) : HotBlk :=
  let h := (s.slice sl).hotOf obj blk
  let occ := (o.replicas blk).map (s.occupancy sl obj blk)
  { h with hotSince := if occ.all (fun n => decide (s.hiq sl ≤ n)) then some (h.hotSince.getD s.clock.run) else none
           coldSince := if occ.all (fun n => decide (n ≤ s.loq sl)) then some (h.coldSince.getD s.clock.run) else none }

theorem sampleBlk_eq (s : State) (sl obj blk : Nat) (o : Obj) :
    s.sampleBlk sl obj blk o = s.modSlice sl (fun x => x.setHot (s.timed sl obj blk o)) := rfl

theorem timed_key (s : State) (sl obj blk : Nat) (o : Obj) : (s.timed sl obj blk o).obj = obj ∧ (s.timed sl obj blk o).blk = blk :=
  hotOf_key _ obj blk

theorem timed_hotSince (s : State) (sl obj blk : Nat) (o : Obj) : (s.timed sl obj blk o).hotSince =
    if ∀ q ∈ o.replicas blk, s.hiq sl ≤ s.occupancy sl obj blk q then some (((s.slice sl).hotOf obj blk).hotSince.getD s.clock.run) else none := by
  simp [State.timed]

theorem timed_coldSince (s : State) (sl obj blk : Nat) (o : Obj) : (s.timed sl obj blk o).coldSince =
    if ∀ q ∈ o.replicas blk, s.occupancy sl obj blk q ≤ s.loq sl then some (((s.slice sl).hotOf obj blk).coldSince.getD s.clock.run) else none := by
  simp [State.timed]

/-- Two states hold the same of what a sample of a slice reads, but for the timings. -/
structure SameLoad (sl : Nat) (s t : State) : Prop where
  quads : t.quads = s.quads
  ctxs : t.ctxs = s.ctxs
  clock : t.clock = s.clock
  running : (t.slice sl).running = (s.slice sl).running

/-- What samples of blocks leave alone. -/
structure Sampled (sl : Nat) (s t : State) : Prop extends SameLoad sl s t where
  sampledAt : (t.slice sl).sampledAt = (s.slice sl).sampledAt

theorem Sampled.refl (sl : Nat) (s : State) : Sampled sl s s := ⟨⟨rfl, rfl, rfl, rfl⟩, rfl⟩

theorem Sampled.trans {sl : Nat} {s t u : State} (h : Sampled sl s t) (k : Sampled sl t u) : Sampled sl s u :=
  ⟨⟨k.quads.trans h.quads, k.ctxs.trans h.ctxs, k.clock.trans h.clock, k.running.trans h.running⟩, k.sampledAt.trans h.sampledAt⟩

theorem sampleBlk_sampled (s : State) (sl obj blk : Nat) (o : Obj) : Sampled sl s (s.sampleBlk sl obj blk o) := by
  rw [sampleBlk_eq]
  exact ⟨⟨rfl, rfl, rfl, by simp [Slice.setHot]⟩, by simp [Slice.setHot]⟩

theorem packetFor_congr {s t : State} (hc : t.ctxs = s.ctxs) (cx obj blk : Nat) : t.packetFor cx obj blk = s.packetFor cx obj blk := by
  funext p
  simp only [State.packetFor, State.packetEntry, State.obj, State.ctx, hc]

theorem occupancy_congr {sl : Nat} {s t : State} (h : SameLoad sl s t) (obj blk q : Nat) : t.occupancy sl obj blk q = s.occupancy sl obj blk q := by
  simp only [State.occupancy, State.quad, State.runCx, h.quads, h.running, packetFor_congr h.ctxs]

/-- What a sample leaves depends on the timing of its block and on what samples do not change. -/
theorem timed_congr {sl obj blk : Nat} {s t : State} (h : SameLoad sl s t) (hk : (t.slice sl).hotOf obj blk = (s.slice sl).hotOf obj blk)
    (o : Obj) : t.timed sl obj blk o = s.timed sl obj blk o := by
  have hocc : t.occupancy sl obj blk = s.occupancy sl obj blk := funext (occupancy_congr h obj blk)
  have hiq : t.hiq sl = s.hiq sl := by simp only [State.hiq, State.ctx, State.runCx, h.ctxs, h.running]
  have loq : t.loq sl = s.loq sl := by simp only [State.loq, State.ctx, State.runCx, h.ctxs, h.running]
  simp only [State.timed, hk, hocc, hiq, loq, h.clock]

theorem sampleBlk_hotOf_same (s : State) (sl obj blk : Nat) (o : Obj) :
    ((s.sampleBlk sl obj blk o).slice sl).hotOf obj blk = s.timed sl obj blk o := by
  obtain ⟨ho, hb⟩ := timed_key s sl obj blk o
  have := hotOf_setHot_same (s.slice sl) (s.timed sl obj blk o)
  rw [ho, hb] at this
  rw [sampleBlk_eq, modSlice_slice_same, this]

theorem sampleBlk_hotOf_other (s : State) (sl obj blk obj' blk' : Nat) (o : Obj) (hne : ¬ (obj = obj' ∧ blk = blk')) :
    ((s.sampleBlk sl obj blk o).slice sl).hotOf obj' blk' = (s.slice sl).hotOf obj' blk' := by
  obtain ⟨ho, hb⟩ := timed_key s sl obj blk o
  rw [sampleBlk_eq, modSlice_slice_same, hotOf_setHot_other _ _ _ _ (by rwa [ho, hb])]

/-! ## A sample of a slice (02:R36) -/

/-- Samples some blocks of an object. -/
def State.sampleBlks (s : State) (sl obj : Nat) (o : Obj) (bs : List Nat) : State := bs.foldl (fun t b => t.sampleBlk sl obj b o) s

theorem sampleBlks_sampled (sl obj : Nat) (o : Obj) (bs : List Nat) (s : State) : Sampled sl s (s.sampleBlks sl obj o bs) := by
  induction bs generalizing s with
  | nil => exact .refl sl s
  | cons b bs ih => exact (sampleBlk_sampled s sl obj b o).trans (ih _)

theorem sampleBlks_hotOf_other (sl obj obj' blk : Nat) (o : Obj) (bs : List Nat) (s : State) (hne : obj = obj' → blk ∉ bs) :
    ((s.sampleBlks sl obj o bs).slice sl).hotOf obj' blk = (s.slice sl).hotOf obj' blk := by
  induction bs generalizing s with
  | nil => rfl
  | cons b bs ih =>
    have hb : ¬ (obj = obj' ∧ b = blk) := fun ⟨ho, hb⟩ => hne ho (by simp [hb])
    exact (ih _ (fun ho hm => hne ho (List.mem_cons_of_mem _ hm))).trans (sampleBlk_hotOf_other s sl obj b obj' blk o hb)

theorem sampleBlks_hotOf_mem (sl obj blk : Nat) (o : Obj) (bs : List Nat) (s : State) (hn : bs.Nodup) (hm : blk ∈ bs) :
    ((s.sampleBlks sl obj o bs).slice sl).hotOf obj blk = s.timed sl obj blk o := by
  induction bs generalizing s with
  | nil => cases hm
  | cons b bs ih =>
    obtain ⟨hb, hn⟩ := List.nodup_cons.mp hn
    rcases List.mem_cons.mp hm with rfl | hm
    · exact (sampleBlks_hotOf_other sl obj obj blk o bs _ (fun _ => hb)).trans (sampleBlk_hotOf_same s sl obj blk o)
    · have hne : ¬ (obj = obj ∧ b = blk) := fun ⟨_, he⟩ => hb (he ▸ hm)
      exact (ih _ hn hm).trans (timed_congr (sampleBlk_sampled s sl obj b o).toSameLoad (sampleBlk_hotOf_other s sl obj b obj blk o hne) o)

/-- Samples every block of the object in a slot of the object table. -/
def State.sampleSlot (s : State) (sl : Nat) (e : Nat × ObjSlot) : State :=
  match e.2.obj with
  | none => s
  | some o => if e.2.dying then s else s.sampleBlks sl e.1 o (List.range o.blocks.length)

theorem sampleSlot_sampled (s : State) (sl : Nat) (e : Nat × ObjSlot) : Sampled sl s (s.sampleSlot sl e) := by
  unfold State.sampleSlot
  split
  · exact .refl sl s
  · split
    · exact .refl sl s
    · exact sampleBlks_sampled _ _ _ _ _

theorem sampleSlot_hotOf_other (s : State) (sl slot blk : Nat) (e : Nat × ObjSlot) (hne : e.1 ≠ slot) :
    ((s.sampleSlot sl e).slice sl).hotOf slot blk = (s.slice sl).hotOf slot blk := by
  unfold State.sampleSlot
  split
  · rfl
  · split
    · rfl
    · exact sampleBlks_hotOf_other sl e.1 slot blk _ _ s (fun h => absurd h hne)

theorem sampleSlot_hotOf_same (s : State) (sl slot blk : Nat) (x : ObjSlot) (o : Obj) (ho : x.obj = some o) (hd : x.dying = false)
    (hb : blk < o.blocks.length) : ((s.sampleSlot sl (slot, x)).slice sl).hotOf slot blk = s.timed sl slot blk o := by
  simp only [State.sampleSlot, ho, hd]
  exact sampleBlks_hotOf_mem sl slot blk o _ s List.nodup_range (List.mem_range.mpr hb)

/-- Samples some slots of an object table. -/
def State.sampleSlots (s : State) (sl : Nat) (es : Tab ObjSlot) : State := es.foldl (fun t e => t.sampleSlot sl e) s

theorem sampleSlots_sampled (sl : Nat) (es : Tab ObjSlot) (s : State) : Sampled sl s (s.sampleSlots sl es) := by
  induction es generalizing s with
  | nil => exact .refl sl s
  | cons e es ih => exact (sampleSlot_sampled s sl e).trans (ih _)

theorem sampleSlots_hotOf_other (sl slot blk : Nat) (es : Tab ObjSlot) (s : State) (hne : slot ∉ es.map Prod.fst) :
    ((s.sampleSlots sl es).slice sl).hotOf slot blk = (s.slice sl).hotOf slot blk := by
  induction es generalizing s with
  | nil => rfl
  | cons e es ih =>
    obtain ⟨he, hes⟩ : slot ≠ e.1 ∧ slot ∉ es.map Prod.fst := by simpa using hne
    exact (ih _ hes).trans (sampleSlot_hotOf_other s sl slot blk e (Ne.symm he))

theorem sampleSlots_hotOf (sl slot blk : Nat) (o : Obj) (es : Tab ObjSlot) (s : State) (hn : (es.map Prod.fst).Nodup)
    (ho : (tget {} es slot).obj = some o) (hd : (tget {} es slot).dying = false) (hb : blk < o.blocks.length) :
    ((s.sampleSlots sl es).slice sl).hotOf slot blk = s.timed sl slot blk o := by
  induction es generalizing s with
  | nil => cases ho
  | cons e es ih =>
    obtain ⟨j, x⟩ := e
    obtain ⟨hj, hn⟩ := List.nodup_cons.mp hn
    by_cases hjs : j = slot
    · subst hjs
      simp only [tget, if_true] at ho hd
      exact (sampleSlots_hotOf_other sl j blk es _ hj).trans (sampleSlot_hotOf_same s sl j blk x o ho hd hb)
    · simp only [tget, if_neg hjs] at ho hd
      exact (ih _ hn ho hd).trans (timed_congr (sampleSlot_sampled s sl (j, x)).toSameLoad (sampleSlot_hotOf_other s sl slot blk (j, x) hjs) o)

theorem exec_hotSample (sl : Nat) (s : State) : exec (.hotSample sl) s = .next (s.hotSample sl) := by
  rfl

/-- Notes in a slice that it is sampled now. -/
def State.markSample (s : State) (sl : Nat) : State := s.modSlice sl (fun x => { x with sampledAt := s.now })

theorem markSample_sameLoad (s : State) (sl : Nat) : SameLoad sl s (s.markSample sl) := ⟨rfl, rfl, rfl, by simp [State.markSample]⟩

theorem markSample_sampledAt (s : State) (sl : Nat) : ((s.markSample sl).slice sl).sampledAt = s.now := by
  simp [State.markSample]

theorem markSample_hotOf (s : State) (sl obj blk : Nat) : ((s.markSample sl).slice sl).hotOf obj blk = (s.slice sl).hotOf obj blk := by
  simp [State.markSample, Slice.hotOf]

theorem hotSample_early {s : State} {sl : Nat} (h : s.now < (s.slice sl).sampledAt + 1024) : s.hotSample sl = s := by
  rw [State.hotSample, if_pos (by simp [h])]

theorem hotSample_due {s : State} {sl : Nat} (hr : (s.slice sl).running.isSome = true) (h : (s.slice sl).sampledAt + 1024 ≤ s.now) :
    s.hotSample sl = (s.markSample sl).sampleSlots sl (s.ctx (s.runCx sl)).objs := by
  have hnot : ¬ ((s.slice sl).running.isNone = true ∨ s.now < (s.slice sl).sampledAt + 1024) := by
    simp [Option.isSome_iff_ne_none.mp hr, h]
  have hcx : (s.markSample sl).runCx sl = s.runCx sl := by simp only [State.runCx, (markSample_sameLoad s sl).running]
  rw [State.hotSample, if_neg hnot, ← hcx]
  rfl

theorem samplesTimeHotAndColdBlocks : Says.SamplesTimeHotAndColdBlocks := by
  intro s sl slot blk o
  dsimp only
  intro hr hn ho hd hb
  rw [exec_hotSample]
  refine ⟨fun h => by rw [hotSample_early h], fun h => ⟨_, rfl, ?_⟩⟩
  have hs := sampleSlots_sampled sl (s.ctx (s.runCx sl)).objs (s.markSample sl)
  have ht := (sampleSlots_hotOf sl slot blk o _ (s.markSample sl) hn ho hd hb).trans
    (timed_congr (markSample_sameLoad s sl) (markSample_hotOf s sl slot blk) o)
  rw [hotSample_due hr h, ht]
  exact ⟨hs.sampledAt.trans (markSample_sampledAt s sl), hs.quads, timed_hotSince s sl slot blk o, timed_coldSince s sl slot blk o⟩

end Sys2Proof.Machine
end

section
/-!
Hot-code replication: where a further copy of a block lies, how an update is taken in, and when a removed copy is freed (02:R27, R37 to R39).
-/

namespace Sys2Proof.Machine

/-! ## Words and extents of a code store (02:R24) -/

theorem putWords_outside (ws : List W32) (c : Tab W32) (a k : Nat) (h : k < a ∨ a + ws.length ≤ k) :
    tget 0#32 (putWords c a ws) k = tget 0#32 c k := by
  induction ws generalizing c a with
  | nil => rfl
  | cons w ws ih =>
    simp only [List.length_cons] at h
    exact (ih _ _ (by omega)).trans (tget_tput_other _ _ _ (by omega))

theorem putWords_inside (ws : List W32) (c : Tab W32) (a i : Nat) (h : i < ws.length) :
    tget 0#32 (putWords c a ws) (a + i) = ws.getD i 0#32 := by
  induction ws generalizing c a i with
  | nil => cases h
  | cons w ws ih =>
    cases i with
    | zero => exact (putWords_outside ws _ _ _ (by omega)).trans (tget_tput_same _ _ _ _)
    | succ i =>
      rw [show a + (i + 1) = a + 1 + i by omega, List.getD_cons_succ]
      exact ih _ _ i (by simpa using h)

theorem findExtent_free {x : Quad} {len a : Nat} (h : x.findExtent len = some a) : x.extentFree a len = true := by
  have := List.find?_some h
  exact this

theorem apart_of_extentFree {x : Quad} {a len : Nat} (h : x.extentFree a len = true) (e : Extent) (he : e ∈ x.exts) :
    a + len ≤ e.start ∨ e.start + e.len ≤ a := by
  rw [Quad.extentFree, Bool.and_eq_true, List.all_eq_true] at h
  simpa using h.2 e he

theorem findAny_place_new {x : Quad} {a obj blk : Nat} {hot : Bool} {ws : List W32} (h : x.findAny obj blk = none) :
    (x.place a obj blk hot ws).findAny obj blk = some { start := a, len := ws.length, obj := obj, idx := blk } := by
  have hnone : x.exts.find? (fun e => e.obj == obj && e.blk == blk) = none := by simpa [Quad.findAny] using h
  simp [Quad.findAny, Quad.place, List.find?_append, hnone]

theorem findAny_place_old {x : Quad} {a obj blk obj' blk' : Nat} {hot : Bool} {ws : List W32} {r : BlkRef} (h : x.findAny obj' blk' = some r) :
    (x.place a obj blk hot ws).findAny obj' blk' = some r := by
  obtain ⟨e, he, hr⟩ := Option.map_eq_some_iff.mp h
  simp [Quad.findAny, Quad.place, List.find?_append, he, hr]

/-! ## A further copy of a block (02:R27, R37) -/

/-- Places a copy of one block of an object at the lowest free extent. -/
def Quad.putCopy (x : Quad) (obj blk : Nat) (o : Obj) : Option Quad :=
  (x.findExtent (o.blocks.getD blk []).length).map (fun a => x.place a obj blk true (o.blocks.getD blk []))

/-- A quad takes a copy of the block, and one of the object's trap block where it holds none. -/
theorem addCopy_cases {x z : Quad} {obj blk : Nat} {o : Obj} (h : x.addCopy obj blk o = some z) :
    ∃ y, x.putCopy obj blk o = some y ∧ ((z = y ∧ ∀ b, o.trapBlk = some b → (y.findAny obj b).isSome = true) ∨
      ∃ b, o.trapBlk = some b ∧ y.findAny obj b = none ∧ y.putCopy obj b o = some z) := by
  change (match x.putCopy obj blk o with
    | none => none
    | some y => match o.trapBlk with
      | none => some y
      | some t => if (y.findAny obj t).isSome then some y else y.putCopy obj t o) = some z at h
  cases hy : x.putCopy obj blk o with
  | none => simp [hy] at h
  | some y =>
    refine ⟨y, rfl, ?_⟩
    cases ht : o.trapBlk with
    | none =>
      simp only [hy, ht, Option.some.injEq] at h
      exact .inl ⟨h.symm, by simp⟩
    | some b =>
      simp only [hy, ht] at h
      split at h
      · next hb =>
        simp only [Option.some.injEq] at h
        exact .inl ⟨h.symm, by simpa using hb⟩
      · next hb => exact .inr ⟨b, rfl, by simpa using hb, h⟩

/-- A quad holds the words of a block from a place on, and finds the block there. -/
structure Quad.Holds (x : Quad) (obj blk a : Nat) (ws : List W32) : Prop where
  words : ∀ i, i < ws.length → tget 0#32 x.code (a + i) = ws.getD i 0#32
  found : x.findAny obj blk = some { start := a, len := ws.length, obj := obj, idx := blk }

theorem putCopy_holds {x y : Quad} {obj blk : Nat} {o : Obj} (hx : x.findAny obj blk = none) (h : x.putCopy obj blk o = some y) :
    ∃ a, y.Holds obj blk a (o.blocks.getD blk []) := by
  obtain ⟨a, -, rfl⟩ := Option.map_eq_some_iff.mp h
  exact ⟨a, putWords_inside _ _ a, findAny_place_new hx⟩

/-- A block that a quad finds at a place has an extent there. -/
theorem Quad.Holds.extent {x : Quad} {obj blk a : Nat} {ws : List W32} (h : x.Holds obj blk a ws) :
    ∃ e ∈ x.exts, e.start = a ∧ e.len = ws.length := by
  obtain ⟨e, he, hr⟩ := Option.map_eq_some_iff.mp h.found
  simp only [BlkRef.mk.injEq] at hr
  exact ⟨e, List.mem_of_find?_eq_some he, hr.1, hr.2.1⟩

/-- A further copy lies in a free extent, so it leaves the words of the blocks that the quad holds. -/
theorem Quad.Holds.putCopy {x y : Quad} {obj blk a b : Nat} {ws : List W32} {o : Obj} (h : x.Holds obj blk a ws)
    (hy : x.putCopy obj b o = some y) : y.Holds obj blk a ws := by
  obtain ⟨c, hc, rfl⟩ := Option.map_eq_some_iff.mp hy
  obtain ⟨e, he, hstart, hlen⟩ := h.extent
  have hapart := apart_of_extentFree (findExtent_free hc) e he
  exact ⟨fun i hi => (putWords_outside _ _ _ _ (by omega)).trans (h.words i hi), findAny_place_old h.found⟩

theorem addCopy_holds {x z : Quad} {obj blk : Nat} {o : Obj} (hx : x.findAny obj blk = none) (h : x.addCopy obj blk o = some z) :
    (∃ a, z.Holds obj blk a (o.blocks.getD blk [])) ∧ ∀ b, o.trapBlk = some b → (z.findAny obj b).isSome = true := by
  obtain ⟨y, hy, ⟨rfl, ht⟩ | ⟨b, hb, hnone, hz⟩⟩ := addCopy_cases h
  · exact ⟨putCopy_holds hx hy, ht⟩
  · obtain ⟨a, ha⟩ := putCopy_holds hx hy
    obtain ⟨c, hc⟩ := putCopy_holds hnone hz
    refine ⟨⟨a, ha.putCopy hz⟩, fun b' hb' => ?_⟩
    obtain rfl : b = b' := by simpa [hb] using hb'
    rw [hc.found]
    rfl

theorem minBy_mem {α : Type} {key : α → Nat} {l : List α} {x : α} (h : minBy key l = some x) : x ∈ l := by
  induction l generalizing x with
  | nil => cases h
  | cons y l ih =>
    unfold minBy at h
    split at h
    · simp only [Option.some.injEq] at h
      exact h ▸ List.mem_cons_self
    · next z hz =>
      split at h <;> simp only [Option.some.injEq] at h <;> subst h
      · exact List.mem_cons_of_mem _ (ih hz)
      · exact List.mem_cons_self

/-- The quad chosen for a further replica holds none yet, and what it will hold is what it holds with the copy. -/
theorem replicaQuad_some {s : State} {sl obj blk q : Nat} {o : Obj} {y : Quad} (h : s.replicaQuad sl obj blk o = some (q, y)) :
    (s.quad (qkOf sl q)).findAny obj blk = none ∧ (s.quad (qkOf sl q)).addCopy obj blk o = some y := by
  obtain ⟨p, -, hp⟩ := List.mem_filterMap.mp (minBy_mem h)
  dsimp only at hp
  split at hp
  · cases hp
  · next hnone =>
    obtain ⟨z, hz, heq⟩ := Option.map_eq_some_iff.mp hp
    simp only [Prod.mk.injEq] at heq
    obtain ⟨rfl, rfl⟩ := heq
    exact ⟨by simpa using hnone, hz⟩

/-! ## Submitting an update (02:R37, R38) -/

/-- Submits an update of a block to the launch arbiter. -/
def State.submitUpd (s : State) (sl : Nat) (u : Nat × Nat × Nat × Bool) : State :=
  s.modSlice sl (fun x => { x with hotPending := x.hotPending ++ [u] })

theorem submitUpd_hotPending (s : State) (sl : Nat) (u : Nat × Nat × Nat × Bool) :
    ((s.submitUpd sl u).slice sl).hotPending = (s.slice sl).hotPending ++ [u] := by
  simp [State.submitUpd]

theorem updPending_false {s : State} {sl obj blk : Nat} (h : ∀ u ∈ (s.slice sl).hotPending, ¬ (u.1 = obj ∧ u.2.1 = blk)) :
    s.updPending sl obj blk = false := by
  simpa [State.updPending] using h

theorem exec_addReplica (sl obj blk : Nat) (s : State) : exec (.addReplica sl obj blk) s = execAddReplica sl obj blk s := by
  rfl

theorem exec_removeReplica (sl obj blk : Nat) (s : State) : exec (.removeReplica sl obj blk) s = execRemoveReplica sl obj blk s := by
  rfl

theorem execAddReplica_due {s : State} {sl obj blk since : Nat} {o : Obj} {ws : List W32} (hr : (s.slice sl).running.isSome = true)
    (ho : s.obj (s.runCx sl) obj = some o) (hs : ((s.slice sl).hotOf obj blk).hotSince = some since) (hw : o.blocks[blk]? = some ws)
    (ht : since + s.hotns sl ≤ s.clock.run) (hm : (o.hots.getD blk []).length < s.maxrep sl) (hf : s.updPending sl obj blk = false) :
    execAddReplica sl obj blk s = .next (match s.replicaQuad sl obj blk o with
      | none => s.restartHotOnly sl obj blk
      | some (q, x) => (s.setQuad (qkOf sl q) x).submitUpd sl (obj, blk, q, true)) := by
  have hgo : ((s.slice sl).running.isNone || decide (s.clock.run < since + s.hotns sl) || decide (s.maxrep sl ≤ (o.hots.getD blk []).length)
      || s.updPending sl obj blk) = false := by
    simp [hr, ht, hm, hf, -List.getD_eq_getElem?_getD]
  simp only [execAddReplica, ho, hs, hw, hgo, Bool.false_eq_true, if_false]
  rfl

theorem execRemoveReplica_due {s : State} {sl obj blk since q : Nat} {rest : List Nat} {o : Obj} (hr : (s.slice sl).running.isSome = true)
    (ho : s.obj (s.runCx sl) obj = some o) (hs : ((s.slice sl).hotOf obj blk).coldSince = some since) (hq : o.hots.getD blk [] = q :: rest)
    (ht : since + s.coldns sl ≤ s.clock.run) (hf : s.updPending sl obj blk = false) :
    execRemoveReplica sl obj blk s = .next (s.submitUpd sl (obj, blk, q, false)) := by
  have hgo : ((s.slice sl).running.isNone || decide (s.clock.run < since + s.coldns sl) || s.updPending sl obj blk) = false := by
    simp [hr, ht, hf]
  simp only [execRemoveReplica, ho, hs, hq, hgo, Bool.false_eq_true, if_false]
  rfl

theorem restartHotOnly_hotOf (s : State) (sl obj blk : Nat) :
    ((s.restartHotOnly sl obj blk).slice sl).hotOf obj blk = { (s.slice sl).hotOf obj blk with hotSince := none } := by
  obtain ⟨hobj, hblk⟩ := hotOf_key (s.slice sl) obj blk
  have := hotOf_setHot_same (s.slice sl) { (s.slice sl).hotOf obj blk with hotSince := none }
  rw [State.restartHotOnly, modSlice_slice_same]
  simpa only [hobj, hblk] using this

theorem restartHot_hotOf (s : State) (sl obj blk : Nat) : ((s.restartHot sl obj blk).slice sl).hotOf obj blk =
    { obj := obj, blk := blk, hotSince := none, coldSince := none } := by
  rw [State.restartHot, modSlice_slice_same]
  exact hotOf_setHot_same _ { obj := obj, blk := blk, hotSince := none, coldSince := none }

theorem restartHot_hotPending (s : State) (sl obj blk : Nat) :
    ((s.restartHot sl obj blk).slice sl).hotPending = (s.slice sl).hotPending := by
  simp [State.restartHot, Slice.setHot]

theorem restartHot_quad (s : State) (sl obj blk k : Nat) : (s.restartHot sl obj blk).quad k = s.quad k := rfl

/-! ## An update is taken in (02:R37 to R39) -/

theorem modObj_obj (s : State) (cx slot : Nat) (f : Obj → Obj) : (s.modObj cx slot f).obj cx slot = (s.obj cx slot).map f := by
  simp [State.obj, State.modObj]

theorem setHots_getD {o : Obj} {blk : Nat} (h : blk < o.blocks.length) (f : List Nat → List Nat) :
    (o.setHots blk f).hots.getD blk [] = f (o.hots.getD blk []) := by
  simp [Obj.setHots, h]

theorem tget_map {α : Type} (d : α) (f : Nat → α → α) (t : Tab α) (k : Nat) (hd : f k d = d) :
    tget d (t.map (fun e => (e.1, f e.1 e.2))) k = f k (tget d t k) := by
  induction t with
  | nil => exact hd.symm
  | cons e t ih =>
    by_cases hk : e.1 = k
    · subst hk; simp [tget]
    · simp [tget, hk, ih]

/-- A quad without the route-cache entries of an object that satisfy a test. -/
def Quad.dropRoutes (x : Quad) (obj : Nat) (p : Nat → Bool) : Quad :=
  { x with routes := x.routes.filter (fun r => !(r.obj == obj && p r.entry)) }

theorem dropRoutes_quad (s : State) (sl obj k : Nat) (p : Nat → Bool) :
    (s.dropRoutes sl obj p).quad k = if slOfQk k = sl then (s.quad k).dropRoutes obj p else s.quad k := by
  have hmap : (s.dropRoutes sl obj p).quads =
      s.quads.map (fun e => (e.1, if slOfQk e.1 = sl then e.2.dropRoutes obj p else e.2)) := by
    refine List.map_congr_left fun e _ => ?_
    by_cases hs : slOfQk e.1 = sl <;> simp [hs, Quad.dropRoutes]
  rw [State.quad, hmap]
  exact tget_map {} (fun j x => if slOfQk j = sl then x.dropRoutes obj p else x) s.quads k (by split <;> rfl)

theorem dropRoutes_slice (s : State) (sl obj k : Nat) (p : Nat → Bool) : (s.dropRoutes sl obj p).slice k = s.slice k := rfl

theorem dropRoutes_exts (s : State) (sl obj k : Nat) (p : Nat → Bool) : ((s.dropRoutes sl obj p).quad k).exts = (s.quad k).exts := by
  rw [dropRoutes_quad]
  split <;> rfl

/-- The test that finds the entries of a block. -/
def Obj.inBlk (o : Obj) (blk i : Nat) : Bool := (o.entries[i]?).any (fun e => e.block == blk)

/-- An update of a block's list of added replicas leaves the queue of updates and enters the object. -/
def State.takeUpd (s : State) (sl obj blk q : Nat) (add : Bool) (rest : List (Nat × Nat × Nat × Bool)) : State :=
  (s.modSlice sl (fun x => { x with hotPending := rest })).modObj (s.runCx sl) obj
    (fun o => o.setHots blk (fun l => if add then q :: l else l.filter (fun x => x != q)))

theorem takeUpd_hotPending (s : State) (sl obj blk q : Nat) (add : Bool) (rest : List (Nat × Nat × Nat × Bool)) :
    ((s.takeUpd sl obj blk q add rest).slice sl).hotPending = rest := by
  simp [State.takeUpd, State.modObj]

theorem takeUpd_obj (s : State) (sl obj blk q : Nat) (add : Bool) (rest : List (Nat × Nat × Nat × Bool)) :
    (s.takeUpd sl obj blk q add rest).obj (s.runCx sl) obj =
      (s.obj (s.runCx sl) obj).map (fun o => o.setHots blk (fun l => if add then q :: l else l.filter (fun x => x != q))) :=
  modObj_obj _ _ _ _

/-- A quad's copies of a block await their release where the update takes the quad away. -/
def State.releaseExts (s : State) (qk obj blk : Nat) (add : Bool) : State :=
  if add then s
  else s.modQuad qk (fun x => { x with exts := x.exts.map (fun e => if e.obj = obj ∧ e.blk = blk then { e with dying := true } else e) })

theorem releaseExts_slice (s : State) (qk obj blk sl : Nat) (add : Bool) : (s.releaseExts qk obj blk add).slice sl = s.slice sl := by
  cases add <;> rfl

theorem releaseExts_obj (s : State) (qk obj blk cx slot : Nat) (add : Bool) : (s.releaseExts qk obj blk add).obj cx slot = s.obj cx slot := by
  cases add <;> rfl

theorem releaseExts_dying (s : State) (qk obj blk : Nat) (e : Extent) (he : e ∈ ((s.releaseExts qk obj blk false).quad qk).exts)
    (ho : e.obj = obj) (hb : e.blk = blk) : e.dying = true := by
  simp only [State.releaseExts, Bool.false_eq_true, if_false, modQuad_quad_same, List.mem_map] at he
  obtain ⟨d, -, rfl⟩ := he
  by_cases hd : d.obj = obj ∧ d.blk = blk
  · rw [if_pos hd]
  · rw [if_neg hd] at ho hb
    exact absurd ⟨ho, hb⟩ hd

theorem exec_replicaUpdate (sl : Nat) (s : State) : exec (.replicaUpdate sl) s = execReplicaUpdate sl s := by
  rfl

theorem execReplicaUpdate_due {s : State} {sl obj blk q : Nat} {add : Bool} {rest : List (Nat × Nat × Nat × Bool)} {o : Obj}
    (hp : (s.slice sl).hotPending = (obj, blk, q, add) :: rest) (ha : s.arbFree = true) (ho : s.obj (s.runCx sl) obj = some o) :
    execReplicaUpdate sl s = .next ((((s.arbTake.takeUpd sl obj blk q add rest).releaseExts (qkOf sl q) obj blk add).dropRoutes sl obj
      (o.inBlk blk)).restartHot sl obj blk) := by
  have hobj : ((s.arbTake.takeUpd sl obj blk q add rest).releaseExts (qkOf sl q) obj blk add).obj (s.runCx sl) obj =
      some (o.setHots blk (fun l => if add then q :: l else l.filter (fun x => x != q))) := by
    rw [releaseExts_obj]
    exact (takeUpd_obj s.arbTake sl obj blk q add rest).trans (congrArg (Option.map _) ho)
  have hdrop : execReplicaUpdate sl s = .next (State.restartHot
      (match ((s.arbTake.takeUpd sl obj blk q add rest).releaseExts (qkOf sl q) obj blk add).obj (s.runCx sl) obj with
        | none => (s.arbTake.takeUpd sl obj blk q add rest).releaseExts (qkOf sl q) obj blk add
        | some u => ((s.arbTake.takeUpd sl obj blk q add rest).releaseExts (qkOf sl q) obj blk add).dropRoutes sl obj (u.inBlk blk))
      sl obj blk) := by
    simp only [execReplicaUpdate, hp, State.atArbiter, ha, if_true]
    rfl
  rw [hdrop, hobj]
  rfl

theorem slOfQk_qkOf {sl q : Nat} (h : q < 2048) : slOfQk (qkOf sl q) = sl := by
  unfold slOfQk qkOf
  omega

/-- No quad of the slice keeps a route-cache entry of a block whose update has been taken in. -/
theorem not_mem_dropRoutes {s : State} {sl obj blk k : Nat} {o : Obj} (hk : k < 2048) {r : Route}
    (hr : r ∈ ((s.dropRoutes sl obj (o.inBlk blk)).quad (qkOf sl k)).routes) :
    ¬ (r.obj = obj ∧ ∃ e, o.entries[r.entry]? = some e ∧ e.block = blk) := by
  rw [dropRoutes_quad, if_pos (slOfQk_qkOf hk)] at hr
  rintro ⟨hobj, e, he, hblk⟩
  have hkeep := (List.mem_filter.mp hr).2
  simp [Obj.inBlk, hobj, he, hblk] at hkeep

/-! ## A removed copy is freed (02:R38) -/

theorem exec_extentFree (sl q obj blk : Nat) (s : State) : exec (.extentFree sl q obj blk) s = execExtentFree sl q obj blk s := by
  rfl

theorem execExtentFree_reachable {s : State} {sl q obj blk : Nat} (h : s.reachable sl obj blk q = true) :
    execExtentFree sl q obj blk s = .next s := by
  simp [execExtentFree, h]

theorem execExtentFree_trapNeeded {s : State} {sl q obj blk : Nat} (h : s.trapNeeded sl q obj blk = true) :
    execExtentFree sl q obj blk s = .next s := by
  simp [execExtentFree, h]

theorem execExtentFree_unused {s : State} {sl q obj blk : Nat}
    (hd : ∃ e ∈ (s.quad (qkOf sl q)).exts, e.obj = obj ∧ e.blk = blk ∧ e.dying = true)
    (hp : ∀ p ∈ s.quadPackets sl q ++ s.heldBack sl, s.packetFor (s.runCx sl) obj blk p = false) (hr : s.reachable sl obj blk q = false)
    (ht : s.trapNeeded sl q obj blk = false)
    (hg : ∀ e ∈ s.gangs, qkOfGk e.1 = qkOf sl q → e.2.runs (fun b => b.obj == obj && b.idx == blk) = false) :
    execExtentFree sl q obj blk s = .next (s.modQuad (qkOf sl q)
      (fun x => { x with exts := x.exts.filter (fun e => !(e.obj == obj && e.blk == blk && e.dying)) })) := by
  have hdying : (s.quad (qkOf sl q)).exts.any (fun e => e.obj == obj && e.blk == blk && e.dying) = true := by
    simpa [and_assoc] using hd
  have hpackets : (s.quadPackets sl q ++ s.heldBack sl).any (s.packetFor (s.runCx sl) obj blk) = false := by
    simpa only [List.any_eq_false, Bool.not_eq_true] using hp
  have hgangs : s.gangs.any (fun e => qkOfGk e.1 == qkOf sl q && e.2.runs (fun b => b.obj == obj && b.idx == blk)) = false := by
    simpa only [List.any_eq_false, Bool.and_eq_true, beq_iff_eq, not_and, Bool.not_eq_true] using hg
  simp only [execExtentFree, hdying, hpackets, hr, ht, hgangs, Bool.not_true, Bool.or_false, Bool.false_eq_true, if_false]

/-! ## Gaining and losing replicas (02:R37 to R39, R27) -/

theorem hotBlocksGainAndLoseReplicas : Says.HotBlocksGainAndLoseReplicas := by
  intro s sl slot blk q o
  dsimp only
  intro hr ho
  refine ⟨fun since ws hs ht hm hf hw => ?_, fun since rest hs ht hq hf => ?_, fun add rest hp hb ha => ?_, fun hd => ?_⟩
  · have hdue := execAddReplica_due hr ho hs hw ht hm (updPending_false hf)
    have hws : o.blocks.getD blk [] = ws := by simp [hw]
    rw [exec_addReplica]
    refine ⟨fun y hy => ?_, fun hnone => ?_⟩
    · obtain ⟨hnew, hcopy⟩ := replicaQuad_some hy
      obtain ⟨⟨a, ha⟩, htrap⟩ := addCopy_holds hnew hcopy
      rw [hy] at hdue
      rw [hws] at ha
      refine ⟨_, a, hdue, submitUpd_hotPending _ _ _, ?_⟩
      have hquad : ((s.setQuad (qkOf sl q) y).submitUpd sl (slot, blk, q, true)).quad (qkOf sl q) = y := setQuad_quad_same _ _ _
      rw [hquad]
      exact ⟨ha.words, ha.found, htrap⟩
    · rw [hnone] at hdue
      exact ⟨_, hdue, rfl, restartHotOnly_hotOf s sl slot blk⟩
  · rw [exec_removeReplica]
    exact ⟨_, execRemoveReplica_due hr ho hs hq ht (updPending_false hf), submitUpd_hotPending _ _ _, rfl⟩
  · rw [exec_replicaUpdate, execReplicaUpdate_due hp ha ho]
    have hobj := (takeUpd_obj s.arbTake sl slot blk q add rest).trans (congrArg (Option.map _) ho)
    refine ⟨_, _, rfl, ?_, (releaseExts_obj _ _ _ _ _ _ _).trans hobj, rfl, ?_, fun k hk r hmem => ?_, fun hadd e he => ?_, ?_, ?_⟩
    · rw [restartHot_hotPending, dropRoutes_slice, releaseExts_slice, takeUpd_hotPending]
    · exact setHots_getD hb _
    · exact not_mem_dropRoutes hk hmem
    · subst hadd
      rw [restartHot_quad, dropRoutes_exts] at he
      exact releaseExts_dying _ _ slot blk e he
    · rw [restartHot_hotOf]
    · rw [restartHot_hotOf]
  · rw [exec_extentFree]
    refine ⟨execExtentFree_reachable, execExtentFree_trapNeeded, fun hp hreach htrap hg => ?_⟩
    exact ⟨_, execExtentFree_unused hd hp hreach htrap hg, by rw [modQuad_quad_same]⟩

end Sys2Proof.Machine
end

section
/-!
The directory handler takes in a further sharer (04:R117), and what a record in a scratchpad reads as once it has been written.
-/

namespace Sys2Proof.Machine

/-! ## Bytes in a scratchpad -/

theorem Memory.get_setBytes_outside (bs : List Byte) (m : List Host.Cell) (loc k : Nat) (h : Memory.wf m = true)
    (hk : k < loc ∨ loc + bs.length ≤ k) : Memory.get (Memory.setBytes m loc bs) k = Memory.get m k := by
  induction bs generalizing m loc with
  | nil => rfl
  | cons b bs ih =>
    simp only [List.length_cons] at hk
    exact (ih _ _ (wf_set m loc b h) (by omega)).trans (get_set_other m loc k b (by omega) none h)

theorem Memory.get_setBytes_inside (bs : List Byte) (m : List Host.Cell) (loc j : Nat) (h : Memory.wf m = true) (hj : j < bs.length) :
    Memory.get (Memory.setBytes m loc bs) (loc + j) = bs.getD j 0#8 := by
  induction bs generalizing m loc j with
  | nil => cases hj
  | cons b bs ih =>
    cases j with
    | zero =>
      exact (Memory.get_setBytes_outside bs _ _ _ (wf_set m loc b h) (by omega)).trans (get_set_same m loc b none h)
    | succ j =>
      rw [show loc + (j + 1) = loc + 1 + j by omega, List.getD_cons_succ]
      exact ih _ _ j (wf_set m loc b h) (by simpa using hj)

/-- The locations from the scratchpads up stand under no key. -/
theorem encrypted_of_le {loc : Nat} (h : 2 ^ 50 ≤ loc) : encrypted loc = false := by
  have h47 : ¬ loc < 2 ^ 47 := by omega
  have h48 : ¬ loc < 2 ^ 48 := by omega
  have h50 : ¬ loc < 2 ^ 50 := by omega
  unfold encrypted spaceOfLoc
  by_cases h80 : 2 ^ 80 ≤ loc
  · simp only [if_pos h80]; rfl
  · by_cases h52 : loc < 2 ^ 52
    · simp only [if_neg h80, if_neg h47, if_neg h48, if_neg h50, if_pos h52]; rfl
    · simp only [if_neg h80, if_neg h47, if_neg h48, if_neg h50, if_neg h52]; rfl

theorem home_of_le (l : Links) {loc : Nat} (h : 2 ^ 50 ≤ loc) : l.home loc = loc := by
  rw [Links.home, if_neg (by omega)]

theorem rdByte_of_le (s : State) (key : Nat) {loc : Nat} (h : 2 ^ 50 ≤ loc) : s.rdByte key loc = Memory.get s.mem loc := by
  simp only [State.rdByte, encrypted_of_le h, true_or, if_true, home_of_le s.links h]

theorem wrByte_of_le (s : State) (key : Nat) {loc : Nat} (b : Byte) (h : 2 ^ 50 ≤ loc) :
    s.wrByte key loc b = { s with mem := Memory.set s.mem loc b } := by
  simp only [State.wrByte, encrypted_of_le h, Bool.false_eq_true, if_false, home_of_le s.links h]

theorem zip_range_cons (b : Byte) (bs : List Byte) (loc : Nat) :
    ((List.range (b :: bs).length).zip (b :: bs)).map (fun e => (loc + e.1, e.2)) =
      (loc, b) :: ((List.range bs.length).zip bs).map (fun e => (loc + 1 + e.1, e.2)) := by
  simp only [List.length_cons, List.range_succ_eq_map, List.zip_cons_cons, List.map_cons, Nat.add_zero, List.zip_map_left, List.map_map]
  congr 2
  funext e
  show (loc + (e.1 + 1), e.2) = (loc + 1 + e.1, e.2)
  congr 1
  omega

theorem putAll_of_le (key : Nat) (bs : List Byte) (s : State) (loc : Nat) (h : 2 ^ 50 ≤ loc) :
    s.putAll key (((List.range bs.length).zip bs).map (fun e => (loc + e.1, e.2))) = { s with mem := Memory.setBytes s.mem loc bs } := by
  induction bs generalizing s loc with
  | nil => rfl
  | cons b bs ih =>
    rw [zip_range_cons, State.putAll, wrByte_of_le s key b h, ih _ _ (by omega)]
    rfl

theorem rdByte_wrBytes_of_le (s : State) (key key' loc j : Nat) (bs : List Byte) (h : 2 ^ 50 ≤ loc) (hm : s.MemOk) (hj : j < bs.length) :
    (s.wrBytes key loc bs).rdByte key' (loc + j) = bs.getD j 0#8 := by
  rw [rdByte_of_le _ _ (by omega), State.wrBytes, State.wrAll, putAll_of_le key bs _ loc h]
  exact Memory.get_setBytes_inside bs s.mem loc j hm hj

theorem wrBytes_cluster (s : State) (key loc clk : Nat) (bs : List Byte) : (s.wrBytes key loc bs).cluster clk = s.cluster clk := by
  obtain ⟨m, k, h⟩ := putAll_shape key (((List.range bs.length).zip bs).map (fun e => (loc + e.1, e.2)))
    (s.remember key ((((List.range bs.length).zip bs).map (fun e => (loc + e.1, e.2))).map (fun e => e.1)))
  rw [State.wrBytes, State.wrAll, h]
  rfl

theorem rdByte_wrBytes_scrLoc (s : State) (key key' clk b j : Nat) (bs : List Byte) (hm : s.MemOk) (hj : j < bs.length) :
    (s.wrBytes key (scrLoc clk b) bs).rdByte key' (scrLoc clk (b + j)) = bs.getD j 0#8 := by
  have hle : 2 ^ 50 ≤ scrLoc clk b := by
    unfold scrLoc
    omega
  rw [show scrLoc clk (b + j) = scrLoc clk b + j from (Nat.add_assoc _ _ _).symm]
  exact rdByte_wrBytes_of_le s key key' _ j bs hle hm hj

/-! ## Lines of a directory (04:R115 to R117) -/

theorem find_cons_dirDrop_same (d : DirLine) (dir : List DirLine) : (d :: dirDrop d.line dir).find? (fun e => e.line == d.line) = some d := by
  simp

theorem find_cons_dirDrop_other (d : DirLine) (dir : List DirLine) {k : Nat} (h : k ≠ d.line) :
    (d :: dirDrop d.line dir).find? (fun e => e.line == k) = dir.find? (fun e => e.line == k) := by
  have hhead : (d.line == k) = false := by simpa using Ne.symm h
  simp only [List.find?_cons, hhead, dirDrop, List.find?_filter]
  congr 1
  funext e
  by_cases he : e.line = k
  · subst he; simp [h]
  · simp [he]

theorem mem_addSet (ys s : List Nat) (m : Nat) : m ∈ addSet s ys ↔ m ∈ s ∨ m ∈ ys := by
  induction ys generalizing s with
  | nil => simp [addSet]
  | cons y ys ih =>
    rw [addSet, ih]
    by_cases hy : s.contains y = true
    · have hmem : m = y → m ∈ s := fun h => h ▸ by simpa using hy
      rw [if_pos hy, List.mem_cons]
      tauto
    · rw [if_neg hy, List.mem_append, List.mem_singleton, List.mem_cons, or_assoc]

theorem leBytes_length (n v : Nat) : (leBytes n v).length = n := by
  induction n generalizing v with
  | zero => rfl
  | succ n ih => simp [leBytes, ih]

theorem record_length (d : DirLine) : d.record.length = 160 := by
  rw [DirLine.record, List.length_append, leBytes_length, leBytes_length]

theorem freeRec_free {c : Cluster} {k : Nat} (h : c.freeRec = some k) : k < 204 ∧ ∀ e ∈ c.dir, ¬ (e.ext = true ∧ e.rec_ = k) := by
  have hfree := List.find?_some h
  refine ⟨List.mem_range.mp (List.mem_of_find?_eq_some h), fun e he ⟨hext, hrec⟩ => ?_⟩
  simpa [hext, hrec] using List.all_eq_true.mp hfree e he

theorem freeRec_none {c : Cluster} (h : c.freeRec = none) (k : Nat) (hk : k < 204) : ¬ ∀ e ∈ c.dir, ¬ (e.ext = true ∧ e.rec_ = k) := by
  have hused := List.find?_eq_none.mp h k (List.mem_range.mpr hk)
  simpa using hused

/-! ## The handler of a fifth sharer (04:R117) -/

/-- The cluster with a trap of its directory handler served, and a line as it stands then. -/
def Cluster.served (c : Cluster) (line q : Nat) (d : DirLine) : Cluster :=
  { c with dirTraps := c.dirTraps.filter (fun e => e != (line, q)), dir := d :: dirDrop line c.dir }

/-- A line with a further sharer. -/
def DirLine.withSharer (d : DirLine) (q : Nat) : DirLine := { d with exclusive := false, sharers := addSet d.sharers [q] }

theorem mem_withSharer (d : DirLine) (q m : Nat) : m ∈ (d.withSharer q).sharers ↔ m = q ∨ m ∈ d.sharers := by
  rw [DirLine.withSharer, mem_addSet, List.mem_singleton, or_comm]

theorem served_find_same (c : Cluster) (q : Nat) (d : DirLine) : (c.served d.line q d).dir.find? (fun e => e.line == d.line) = some d :=
  find_cons_dirDrop_same d c.dir

theorem served_find_other (c : Cluster) (q : Nat) (d : DirLine) {k : Nat} (h : k ≠ d.line) :
    (c.served d.line q d).dir.find? (fun e => e.line == k) = c.dir.find? (fun e => e.line == k) :=
  find_cons_dirDrop_other d c.dir h

theorem not_mem_served_dirTraps (c : Cluster) (line q : Nat) (d : DirLine) : (line, q) ∉ (c.served line q d).dirTraps := by
  simp [Cluster.served]

/-- The record that a line has or takes. -/
def Cluster.recFor (c : Cluster) (d : DirLine) : Option Nat := if d.ext then some d.rec_ else c.freeRec

theorem recFor_some {c : Cluster} {d : DirLine} {k : Nat} (h : c.recFor d = some k) :
    if d.ext then k = d.rec_ else k < 204 ∧ ∀ e ∈ c.dir, ¬ (e.ext = true ∧ e.rec_ = k) := by
  unfold Cluster.recFor at h
  split at h
  · next hext => simpa [hext] using h.symm
  · next hext =>
    rw [if_neg hext]
    exact freeRec_free h

theorem recFor_none {c : Cluster} {d : DirLine} (h : c.recFor d = none) :
    d.ext = false ∧ ∀ k, k < 204 → ¬ ∀ e ∈ c.dir, ¬ (e.ext = true ∧ e.rec_ = k) := by
  unfold Cluster.recFor at h
  split at h
  · cases h
  · next hext => exact ⟨by simpa using hext, freeRec_none h⟩

theorem exec_directoryHandlerTrap (sl line q : Nat) (s : State) :
    exec (.directoryHandlerTrap sl line q) s = execDirectoryHandlerTrap sl line q s := by
  rfl

theorem execDirectoryHandlerTrap_idle {s : State} {sl line q : Nat} (h : (line, q) ∉ (s.cluster (s.homeOf sl line)).dirTraps) :
    execDirectoryHandlerTrap sl line q s = .next s := by
  have : (s.cluster (s.homeOf sl line)).dirTraps.contains (line, q) = false := by simpa using h
  simp only [execDirectoryHandlerTrap, this, or_true, if_true]

/-- A trap that is raised is served: the line takes its record, or is marked broadcast where there is none. -/
theorem execDirectoryHandlerTrap_raised {s : State} {sl line q : Nat} {old : DirLine} (hn : (s.slice sl).nclus ≠ 0)
    (ht : (line, q) ∈ (s.cluster (s.homeOf sl line)).dirTraps)
    (ho : (s.cluster (s.homeOf sl line)).dir.find? (fun d => d.line == line) = some old) :
    execDirectoryHandlerTrap sl line q s = .next (match (s.cluster (s.homeOf sl line)).recFor old with
      | none => s.setCluster (s.homeOf sl line) ((s.cluster (s.homeOf sl line)).served line q { old.withSharer q with broadcast := true })
      | some k => (s.setCluster (s.homeOf sl line) ((s.cluster (s.homeOf sl line)).served line q
          { old.withSharer q with ext := true, rec_ := k })).wrBytes 0 (scrLoc (s.homeOf sl line) (0x7_8000 + 160 * k))
          ({ old.withSharer q with ext := true, rec_ := k } : DirLine).record) := by
  have hraised : ¬ ((s.slice sl).nclus = 0 ∨ (s.cluster (s.homeOf sl line)).dirTraps.contains (line, q) = false) := by
    simp [hn, ht]
  simp only [execDirectoryHandlerTrap, if_neg hraised, ho]
  rfl

theorem theFifthSharerTraps : Says.TheFifthSharerTraps := by
  intro s sl line q old hn
  dsimp only
  rw [exec_directoryHandlerTrap]
  refine ⟨execDirectoryHandlerTrap_idle, fun ht ho => ?_⟩
  rw [execDirectoryHandlerTrap_raised hn ht ho]
  obtain rfl : old.line = line := by simpa using List.find?_some ho
  cases hk : (s.cluster (s.homeOf sl old.line)).recFor old with
  | none =>
    obtain ⟨hext, hfull⟩ := recFor_none hk
    refine ⟨_, { old.withSharer q with broadcast := true }, rfl, ?_⟩
    rw [setCluster_cluster_same]
    refine ⟨served_find_same _ _ { old.withSharer q with broadcast := true }, not_mem_served_dirTraps _ _ _ _, rfl, mem_withSharer old q,
      fun k => served_find_other _ _ { old.withSharer q with broadcast := true }, fun hroom => ?_, fun _ _ => ⟨rfl, rfl⟩⟩
    rcases hroom with hroom | ⟨k, hlt, hfree⟩
    · rw [hext] at hroom
      cases hroom
    · exact absurd hfree (hfull k hlt)
  | some k =>
    refine ⟨_, { old.withSharer q with ext := true, rec_ := k }, rfl, ?_⟩
    rw [wrBytes_cluster, setCluster_cluster_same]
    refine ⟨served_find_same _ _ { old.withSharer q with ext := true, rec_ := k }, not_mem_served_dirTraps _ _ _ _, rfl, mem_withSharer old q,
      fun k' => served_find_other _ _ { old.withSharer q with ext := true, rec_ := k }, fun _ => ⟨rfl, recFor_some hk, fun hm j hj => ?_⟩,
      fun hext hfull => ?_⟩
    · exact rdByte_wrBytes_scrLoc _ 0 0 _ _ j _ hm (by rwa [record_length])
    · have hfree := recFor_some hk
      rw [hext] at hfree
      exact absurd hfree.2 (hfull k hfree.1)

/-- Settles O50, part by part: for a sample, by induction over the slots of the object table; for a further copy, since a free extent overlaps no
other; for an extended record, since what is written to a scratchpad reads back. -/
theorem routesAndReplicasFollowTheLoad : Obligations.RoutesAndReplicasFollowTheLoad :=
  ⟨routeCachesTakeEntriesIn, samplesTimeHotAndColdBlocks, hotBlocksGainAndLoseReplicas, theFifthSharerTraps⟩

end Sys2Proof.Machine
end

section
/-!
Window slides (03:R75): what a slide whose frames stay in the core does to each register, and how many frames a slide spills.
-/

namespace Sys2Proof.Machine

/-- One value written at several keys: what a key holds that is one of them, or none. -/
theorem tget_foldl_tput {α β : Type} (d v : α) (f : β → Nat) (ks : List β) (t : Tab α) (n : Nat) :
    ((∃ k ∈ ks, n = f k) → tget d (ks.foldl (fun e k => tput e (f k) v) t) n = v) ∧
    ((∀ k ∈ ks, n ≠ f k) → tget d (ks.foldl (fun e k => tput e (f k) v) t) n = tget d t n) := by
  induction ks generalizing t with
  | nil => simp
  | cons k ks ih =>
    obtain ⟨hin, hout⟩ := ih (tput t (f k) v)
    simp only [List.foldl_cons]
    refine ⟨fun h => ?_, fun h => ?_⟩
    · by_cases ht : ∃ j ∈ ks, n = f j
      · exact hin ht
      · obtain rfl : n = f k := by simpa [ht] using h
        rw [hout (fun j hj e => ht ⟨j, hj, e⟩), tget_tput_same]
    · rw [hout (fun j hj => h j (List.mem_cons_of_mem _ hj)), tget_tput_other _ _ _ (h k List.mem_cons_self)]

/-! ## One lane -/

/-- A slide moves no frame between the core and memory. -/
def Slide.InCore (p : Slide) : Prop := p.spills = [] ∧ p.fill = none

/-- The 16 stack entries that a `call` clears, counted from the callee's `w8` (03:R75). -/
def clearedEnts : List Int := do
  let k ← List.range 16
  pure (k : Int)

theorem mem_clearedEnts (x : Int) : x ∈ clearedEnts ↔ 0 ≤ x ∧ x < 16 := by
  simp only [clearedEnts, List.bind_eq_flatMap, List.pure_def, List.mem_flatMap, List.mem_range, List.mem_singleton]
  exact ⟨by omega, fun h => ⟨x.toNat, by omega, by omega⟩⟩

/-- A lane once such a slide has been performed, as `State.doSlide` leaves it. -/
def Lane.slid (l : Lane) (zero : Bool) (p : Slide) : Lane :=
  let l := { l with base := p.base, floor := p.floor, hi := tput l.hi 26 p.w26 }
  if zero then { l with ent := clearedEnts.foldl (fun e k => tput e ((p.base + 8 + k).emod 64).toNat 0#64) l.ent } else l

@[simp] theorem slid_base (l : Lane) (zero : Bool) (p : Slide) : (l.slid zero p).base = p.base := by simp only [Lane.slid]; split <;> rfl
@[simp] theorem slid_hi (l : Lane) (zero : Bool) (p : Slide) : (l.slid zero p).hi = tput l.hi 26 p.w26 := by simp only [Lane.slid]; split <;> rfl
@[simp] theorem slid_tidx (l : Lane) (zero : Bool) (p : Slide) : (l.slid zero p).tidx = l.tidx := by simp only [Lane.slid]; split <;> rfl
@[simp] theorem slid_p (l : Lane) (zero : Bool) (p : Slide) : (l.slid zero p).p = l.p := by simp only [Lane.slid]; split <;> rfl

/-- The stack entries of a lane that a `call` has slid: those it clears, and the others. -/
theorem tget_slid_ent (l : Lane) (p : Slide) (n : Nat) :
    ((∃ k ∈ clearedEnts, n = ((p.base + 8 + k).emod 64).toNat) → tget 0#64 (l.slid true p).ent n = 0#64) ∧
    ((∀ k ∈ clearedEnts, n ≠ ((p.base + 8 + k).emod 64).toNat) → tget 0#64 (l.slid true p).ent n = tget 0#64 l.ent n) := by
  have hent : (l.slid true p).ent = clearedEnts.foldl (fun e k => tput e ((p.base + 8 + k).emod 64).toNat 0#64) l.ent := by
    simp only [Lane.slid, if_true]
  rw [hent]
  exact tget_foldl_tput 0#64 0#64 (fun k : Int => ((p.base + 8 + k).emod 64).toNat) clearedEnts l.ent n

theorem slid_rdP (l : Lane) (zero : Bool) (p : Slide) (n : Nat) : (l.slid zero p).rdP n = l.rdP n := by simp [Lane.rdP]

/-- `w24` to `w31` never move, and a slide that moves no frame leaves `w26` as it is (03:R74, R75). -/
theorem slid_rdW_fixed (l : Lane) (zero : Bool) (p : Slide) (k n : Nat) (hn : 24 ≤ n) (hw : p.w26 = tget 0#64 l.hi 26) :
    (l.slid zero p).rdW k n = l.rdW k n := by
  have hhi : tget 0#64 (tput l.hi 26 p.w26) n = tget 0#64 l.hi n := by
    rw [tget_tput]
    split
    · next h => rw [h, hw]
    · rfl
  simp [Lane.rdW, Nat.not_lt.mpr hn, hhi]

/-- A register of the window is the stack entry its logical number names. -/
theorem rdW_window (l : Lane) (k n : Nat) (hn : n < 24) : l.rdW k n = tget 0#64 l.ent ((l.base + n).emod 64).toNat := by
  simp [Lane.rdW, Lane.entOf, hn]

/-- A register that stands below the entries a slide clears holds the entry it names before. -/
theorem slid_rdW_kept (l : Lane) (zero : Bool) (p : Slide) (k n m : Nat) (hn : n < 24) (hm : m < 24) (hz : zero = true → n < 8)
    (h : p.base + n = l.base + m) : (l.slid zero p).rdW k n = l.rdW k m := by
  rw [rdW_window _ _ _ hn, rdW_window _ _ _ hm, slid_base, h]
  cases zero with
  | false => rfl
  | true =>
    have hn8 := hz rfl
    refine (tget_slid_ent l p _).2 (fun j hj he => ?_)
    rw [mem_clearedEnts] at hj
    have hmod : ∀ x : Int, x.emod 64 = x % 64 := fun _ => rfl
    rw [hmod, hmod] at he
    omega

/-- The callee's `w8` to `w23` start at 0 (03:R75). -/
theorem slid_rdW_cleared (l : Lane) (p : Slide) (k n : Nat) (h8 : 8 ≤ n) (hn : n < 24) : (l.slid true p).rdW k n = 0#64 := by
  rw [rdW_window _ _ _ hn, slid_base]
  refine (tget_slid_ent l p _).1 ⟨n - 8, (mem_clearedEnts _).mpr (by omega), ?_⟩
  rw [show p.base + 8 + ((n : Int) - 8) = p.base + n by omega]

/-! ## Which frames a slide moves -/

theorem framesFrom_length (floor : Int) (w26 : Word) (n : Nat) : (framesFrom floor w26 n).length = n := by simp [framesFrom]

theorem callSlide_inCore (l : Lane) (k : Nat) (h : l.base + 40 ≤ l.floor + 64) :
    (l.callSlide k).InCore ∧ (l.callSlide k).w26 = tget 0#64 l.hi 26 := by
  have hn : ((l.base + 16 + 24 - l.floor - 64 + 15) / 16).toNat = 0 := by omega
  simp [Slide.InCore, Lane.callSlide, framesFrom, hn]

theorem retSlide_stays (l : Lane) (k : Nat) (h : l.floor ≤ l.base - 16) : l.retSlide k =
    { lane := k, spills := [], fill := none, base := l.base - 16, floor := l.floor, w26 := tget 0#64 l.hi 26 } :=
  if_neg (Int.not_lt.mpr h)

theorem retSlide_fills (l : Lane) (k : Nat) (h : l.base - 16 < l.floor) : l.retSlide k =
    { lane := k, spills := [], fill := some (l.base - 16, (tget 0#64 l.hi 26 - 128#64).toNat), base := l.base - 16, floor := l.base - 16
      w26 := tget 0#64 l.hi 26 - 128#64 } :=
  if_pos h

theorem retSlide_always (l : Lane) (k : Nat) : (l.retSlide k).lane = k ∧ (l.retSlide k).base = l.base - 16 ∧ (l.retSlide k).spills = [] := by
  rcases lt_or_ge (l.base - 16) l.floor with h | h
  · simp [retSlide_fills l k h]
  · simp [retSlide_stays l k h]

theorem retSlide_inCore (l : Lane) (k : Nat) (h : l.floor ≤ l.base - 16) :
    (l.retSlide k).InCore ∧ (l.retSlide k).w26 = tget 0#64 l.hi 26 := by
  simp [Slide.InCore, retSlide_stays l k h]

theorem slidesSpillTheOldestFrames : Says.SlidesSpillTheOldestFrames := by
  intro l k hroom c r w26
  have hlen : c.spills.length = ((l.base + 16 + 24 - l.floor - 64 + 15) / 16).toNat := framesFrom_length _ _ _
  have hfloor : c.floor = l.floor + 16 * (c.spills.length : Int) := by rw [hlen]; rfl
  have hcbase : c.base = l.base + 16 := rfl
  have hw : w26 = tget 0#64 l.hi 26 := rfl
  obtain ⟨-, (hrbase : r.base = l.base - 16), hrspills⟩ := retSlide_always l k
  refine ⟨hcbase, by omega, hfloor, by rw [hlen]; rfl, fun hne => ?_, fun n hn => ?_, rfl, hrbase, hrspills, fun h => ?_, fun h => ?_⟩
  · have := List.length_pos_iff.mpr hne
    omega
  · rw [hlen] at hn
    change (framesFrom _ _ _)[n]? = _
    simp [framesFrom, hn, hw]
  · have hstay := retSlide_stays l k (by omega)
    simp [r, hstay, hw]
  · have hfill := retSlide_fills l k (by omega)
    simp [r, hfill, hw]

/-! ## The lanes of a gang -/

/-- The registers of a gang once slides that move no frame have been performed. -/
def Regs.slidAll (r : Regs) (zero : Bool) (ps : List Slide) : Regs := ps.foldl (fun r p => r.modLane p.lane (fun l => l.slid zero p)) r

theorem modLane_lane (r : Regs) (k n : Nat) (f : Lane → Lane) : (r.modLane k f).lane n = if n = k then f (r.lane k) else r.lane n :=
  tget_tput _ _ _ _ _

theorem slidAll_act (r : Regs) (zero : Bool) (ps : List Slide) : (r.slidAll zero ps).act = r.act := by
  induction ps generalizing r with
  | nil => rfl
  | cons p ps ih => exact ih _

/-- Each lane is slid once, by its own slide, and the others stay. -/
theorem slidAll_lane (r : Regs) (zero : Bool) (f : Nat → Slide) (hf : ∀ l, (f l).lane = l) (ls : List Nat) (hn : ls.Nodup) (n : Nat) :
    (r.slidAll zero (ls.map f)).lane n = if n ∈ ls then (r.lane n).slid zero (f n) else r.lane n := by
  induction ls generalizing r with
  | nil => rfl
  | cons l ls ih =>
    obtain ⟨hl, hn⟩ := List.nodup_cons.mp hn
    have hcons : r.slidAll zero ((l :: ls).map f) = (r.modLane l (fun x => x.slid zero (f l))).slidAll zero (ls.map f) := by
      simp only [Regs.slidAll, List.map_cons, List.foldl_cons, hf]
    rw [hcons, ih _ hn, modLane_lane]
    by_cases hnl : n = l
    · subst hnl; simp [hl]
    · simp [hnl]

/-! ## The state -/

theorem doSlide_inCore {s : State} {tl : Nat} {zero : Bool} {res : Tab Nat} {p : Slide} (hp : p.InCore) :
    s.doSlide tl zero res p = s.modGang s.cur (fun g => { g with r := g.r.modLane p.lane (fun l => l.slid zero p) }) := by
  obtain ⟨hs, hf⟩ := hp
  unfold State.doSlide
  rw [hs, hf]
  rfl

/-- Slides that move no frame change the lanes of the gang in focus alone. -/
theorem doSlides_inCore {tl : Nat} {zero : Bool} {res : Tab Nat} (ps : List Slide) (hp : ∀ p ∈ ps, p.InCore) (s : State) :
    let t := ps.foldl (fun t p => t.doSlide tl zero res p) s
    t.cur = s.cur ∧ t.mem = s.mem ∧ t.gang s.cur = { s.gang s.cur with r := (s.gang s.cur).r.slidAll zero ps } := by
  induction ps generalizing s with
  | nil => exact ⟨rfl, rfl, rfl⟩
  | cons p ps ih =>
    have h := ih (fun q hq => hp q (List.mem_cons_of_mem _ hq)) (s.doSlide tl zero res p)
    rw [List.foldl_cons]
    rw [doSlide_inCore (hp p List.mem_cons_self)] at h ⊢
    simpa [Regs.slidAll] using h

theorem slideChecks_inCore {s : State} {tl : Nat} {ps : List Slide} (hp : ∀ p ∈ ps, p.InCore) : s.slideChecks tl ps = [] := by
  refine List.flatMap_eq_nil_iff.mpr (fun p h => ?_)
  obtain ⟨hs, hf⟩ := hp p h
  rw [hs, hf]
  rfl

theorem slideAccs_inCore {r : Regs} {ps : List Slide} (hp : ∀ p ∈ ps, p.InCore) : r.slideAccs ps = [] := by
  refine List.flatMap_eq_nil_iff.mpr (fun p h => ?_)
  obtain ⟨hs, hf⟩ := hp p h
  rw [hs, hf]
  rfl

theorem spillSecs_inCore {s : State} {tl : Nat} {ps : List Slide} (hp : ∀ p ∈ ps, p.InCore) : s.spillSecs tl ps = [] := by
  unfold State.spillSecs
  rw [slideChecks_inCore]
  · rfl
  · intro q hq
    obtain ⟨p, h, rfl⟩ := List.mem_map.mp hq
    exact ⟨(hp p h).1, rfl⟩

/-- Slides that move no frame access nothing, so nothing holds them up (03:R75). -/
theorem slideThen_inCore {s : State} {ps : List Slide} {zero : Bool} {k : State → State} (hp : ∀ p ∈ ps, p.InCore)
    (hroom : (s.gang s.cur).ch.room [] = true) :
    s.slideThen ps zero k = k (ps.foldl (fun t p => t.doSlide s.regs.tr.tlvl zero [] p) s) := by
  unfold State.slideThen State.sectorRoom State.slideWait State.slides State.slideFar State.fillsKept
  simp [slideChecks_inCore hp, slideVerdict, spillSecs_inCore hp, hroom, slideAccs_inCore hp, State.farAccs]

/-- With no write outstanding, a word goes on at once. -/
theorem landed_nil (s : State) (k : State → State) (h : (s.gang s.cur).pend = []) : s.landed [] k = k (s.modGang s.cur (fun g => g)) := by
  have hland : (s.gang s.cur).landDue s.now = s.gang s.cur := by simp [Gang.landDue, h]
  simp only [State.landed, List.any_nil, Bool.false_eq_true, if_false, List.foldl_nil, lt_irrefl, State.modGang, hland]

theorem entPending_nil {g : Gang} (h : g.pend = []) (lo : Int) (n : Nat) : g.entPending lo n = [] := by simp [Gang.entPending, h]

/-! ## `call` and `ret` -/

theorem exec_call (st : BitVec 3) (o : BitVec 18) (s : State) : exec (.call st o) s = execCall st o s := rfl
theorem exec_ret (st : BitVec 3) (s : State) : exec (.ret st) s = execRet st s := rfl

theorem inBlock_of_inside {r : Regs} {w : Int} (h : r.inside w) : r.inBlock w = true := by
  obtain ⟨hlo, hhi⟩ := h
  simp [Regs.inBlock, hlo, hhi]

theorem target_of_inside {s : State} {o : BitVec 18} {k : Nat → State} (h : s.regs.inside (s.regs.pc + o.toInt)) :
    s.target o k = k ((s.regs.pc : Int) + o.toInt).toNat := by
  simp [State.target, inBlock_of_inside h]

/-- The state in which the slides of a word that finds no write outstanding have been performed. -/
def State.slidBy (s : State) (zero : Bool) (ps : List Slide) : State :=
  ps.foldl (fun t p => t.doSlide s.regs.tr.tlvl zero [] p) (s.modGang s.cur (fun g => g))

theorem slidBy_inCore {s : State} {zero : Bool} {ps : List Slide} (hp : ∀ p ∈ ps, p.InCore) :
    (s.slidBy zero ps).cur = s.cur ∧ (s.slidBy zero ps).mem = s.mem ∧
    (s.slidBy zero ps).gang s.cur = { s.gang s.cur with r := s.regs.slidAll zero ps } := by
  have h := doSlides_inCore ps hp (s.modGang s.cur (fun g => g)) (tl := s.regs.tr.tlvl) (zero := zero) (res := [])
  simp only [modGang_cur, modGang_gang_same] at h
  exact h

theorem slidBy_early {s : State} {zero : Bool} {ps : List Slide} (hp : ∀ p ∈ ps, p.InCore) (h : s.early) : (s.slidBy zero ps).early := by
  obtain ⟨hcur, -, hgang⟩ := slidBy_inCore (s := s) (zero := zero) hp
  unfold State.early
  rw [hcur, hgang]
  exact h

theorem slidBy_regs {s : State} {zero : Bool} {ps : List Slide} (hp : ∀ p ∈ ps, p.InCore) :
    (s.slidBy zero ps).regs = s.regs.slidAll zero ps := by
  obtain ⟨hcur, -, hgang⟩ := slidBy_inCore (s := s) (zero := zero) hp
  rw [State.regs, hcur, hgang]

/-- The slides of `call` in the active lanes, and those of `ret`. -/
def Regs.callSlides (r : Regs) : List Slide := r.active.map (fun l => (r.lane l).callSlide l)
def Regs.retSlides (r : Regs) : List Slide := r.active.map (fun l => (r.lane l).retSlide l)

theorem callSlides_inCore {r : Regs} (h : ∀ l ∈ r.active, (r.lane l).base + 40 ≤ (r.lane l).floor + 64) : ∀ p ∈ r.callSlides, p.InCore := by
  intro p hp
  obtain ⟨l, hl, rfl⟩ := List.mem_map.mp hp
  exact (callSlide_inCore _ _ (h l hl)).1

theorem retSlides_inCore {r : Regs} (h : ∀ l ∈ r.active, (r.lane l).floor ≤ (r.lane l).base - 16) : ∀ p ∈ r.retSlides, p.InCore := by
  intro p hp
  obtain ⟨l, hl, rfl⟩ := List.mem_map.mp hp
  exact (retSlide_inCore _ _ (h l hl)).1

theorem execCall_inCore {s : State} {st : BitVec 3} {o : BitVec 18} (ht : s.regs.inside (s.regs.pc + o.toInt))
    (hin : ∀ p ∈ s.regs.callSlides, p.InCore) (hpend : (s.gang s.cur).pend = []) (hroom : (s.gang s.cur).ch.room [] = true) :
    execCall st o s = .next (((s.slidBy true s.regs.callSlides).holdW 7
      (s.regs.active.map (fun l => (l, BitVec.ofNat 64 (s.regs.pc + 1))))).finishAt st ((s.regs.pc : Int) + o.toInt).toNat) := by
  have hnone : s.regs.callSlides.any (fun p => !p.spills.isEmpty) = false := by
    rw [List.any_eq_false]
    intro p h
    simp [(hin p h).1]
  unfold Regs.callSlides at hin hnone ⊢
  simp only [execCall, target_of_inside ht, entPending_nil hpend, hnone, Bool.false_eq_true, if_false, List.append_nil]
  rw [landed_nil _ _ hpend, slideThen_inCore hin]
  · simp [State.slidBy, State.regs]
  · simpa using hroom

theorem execRet_inCore {s : State} {st : BitVec 3} (hin : ∀ p ∈ s.regs.retSlides, p.InCore)
    (hp : ∀ l ∈ s.regs.active, s.regs.rdW l 7 = s.regs.rdW s.regs.l0 7) (hw : (s.regs.rdW s.regs.l0 7).toNat < 2 ^ 14)
    (hb : s.regs.inside (s.regs.rdW s.regs.l0 7).toNat) (hpend : (s.gang s.cur).pend = []) (hroom : (s.gang s.cur).ch.room [] = true) :
    execRet st s = .next ((s.slidBy false s.regs.retSlides).finishAt st (s.regs.rdW s.regs.l0 7).toNat) := by
  have hnone : s.regs.retSlides.any (fun p => p.fill.isSome) = false := by
    rw [List.any_eq_false]
    intro p h
    simp [(hin p h).2]
  have hhigh : wbits (s.regs.rdW s.regs.l0 7) 14 50 = 0 := by
    unfold wbits nbits
    rw [Nat.div_eq_of_lt hw, Nat.zero_mod]
  have hbad : s.regs.active.filter (fun l => s.regs.rdW l 7 != s.regs.rdW s.regs.l0 7) = [] := by
    rw [List.filter_eq_nil_iff]
    intro l hl
    simp [hp l hl]
  unfold Regs.retSlides at hin hnone ⊢
  simp only [execRet, Regs.gangOp, hhigh, inBlock_of_inside hb, hbad, hnone, ne_eq, not_true_eq_false, Bool.not_true, Bool.false_eq_true, or_self,
    if_false, List.isEmpty_nil]
  rw [landed_nil _ _ hpend, slideThen_inCore hin]
  · simp [State.slidBy, State.regs]
  · simpa using hroom

/-- The word after one that is not the 512th of its chunk begins at the target with the registers as they stand. -/
theorem finishAt_early {s : State} (st : BitVec 3) (t : Nat) (h : s.early) :
    (s.finishAt st t).regs = { s.regs with pc := t } ∧ (s.finishAt st t).mem = s.mem := by
  unfold State.finishAt State.regs
  rw [retire_early _ _ _ h]
  simp

theorem landAll_lane_other (r : Regs) (ds : List (Nat × Dest)) (vs : List Word) (l : Nat) (h : ∀ e ∈ ds, e.1 ≠ l) :
    (r.landAll ds vs).lane l = r.lane l := by
  induction ds generalizing r vs with
  | nil => simp
  | cons e ds ih =>
    obtain ⟨k, d⟩ := e
    cases vs with
    | nil => rfl
    | cons v vs =>
      rw [landAll_cons, ih _ _ (fun e he => h e (List.mem_cons_of_mem _ he)), regs_put_lane,
        if_neg (Ne.symm (h (k, d) List.mem_cons_self))]

theorem destsW_lane {r : Regs} {d : Nat} {vs : List (Nat × Word)} {e : Nat × Dest} (h : e ∈ (r.destsW d vs).1) : ∃ v, (e.1, v) ∈ vs := by
  simp only [Regs.destsW, List.mem_map, List.mem_filterMap, Option.map_eq_some_iff] at h
  obtain ⟨_, ⟨⟨l, v⟩, hv, _, _, rfl⟩, rfl⟩ := h
  exact ⟨v, hv⟩

/-- Landing writes leaves everything beside the lanes as it is. -/
theorem landAll_act (r : Regs) (ds : List (Nat × Dest)) (vs : List Word) : (r.landAll ds vs).act = r.act :=
  (congrArg Regs.act (landAll_rest r ds vs) :)

/-- A word that writes registers at once and stays at its place in the chunk. -/
theorem holdW_regs (s : State) (d : Nat) (vs : List (Nat × Word)) :
    (s.holdW d vs).regs = s.regs.landAll (s.regs.destsW d vs).1 (s.regs.destsW d vs).2 ∧ (s.holdW d vs).mem = s.mem ∧
    ((s.holdW d vs).early ↔ s.early) := by
  unfold State.holdW State.regs State.early
  simp

/-- The registers of a lane that `call` has slid, before `w7` is written. -/
theorem callSlid_reads (x : Lane) (l : Nat) (h : x.base + 40 ≤ x.floor + 64) :
    (∀ n, n < 7 → (x.slid true (x.callSlide l)).rdW l n = x.rdW l (n + 16)) ∧
    (∀ n, 8 ≤ n → n < 24 → (x.slid true (x.callSlide l)).rdW l n = 0#64) ∧
    (∀ n, 24 ≤ n → (x.slid true (x.callSlide l)).rdW l n = x.rdW l n) := by
  obtain ⟨-, hw⟩ := callSlide_inCore x l h
  refine ⟨fun n hn => slid_rdW_kept _ _ _ _ _ _ (by omega) (by omega) (fun _ => by omega) ?_, fun n h8 hn => slid_rdW_cleared _ _ _ _ h8 hn,
    fun n hn => slid_rdW_fixed _ _ _ _ _ hn hw⟩
  change x.base + 16 + (n : Int) = x.base + ((n + 16 : Nat) : Int)
  omega

/-- The registers of a lane that `ret` has slid back. -/
theorem retSlid_reads (x : Lane) (l : Nat) (h : x.floor ≤ x.base - 16) :
    (∀ n, n < 8 → (x.slid false (x.retSlide l)).rdW l (n + 16) = x.rdW l n) ∧
    (∀ n, 24 ≤ n → (x.slid false (x.retSlide l)).rdW l n = x.rdW l n) := by
  obtain ⟨-, hw⟩ := retSlide_inCore x l h
  refine ⟨fun n hn => slid_rdW_kept _ _ _ _ _ _ (by omega) (by omega) (by simp) ?_, fun n hn => slid_rdW_fixed _ _ _ _ _ hn hw⟩
  rw [(retSlide_always x l).2.1]
  omega

theorem callSlides_lane (r : Regs) (l : Nat) :
    (r.slidAll true r.callSlides).lane l = if l ∈ r.active then (r.lane l).slid true ((r.lane l).callSlide l) else r.lane l :=
  slidAll_lane r true (fun l => (r.lane l).callSlide l) (fun _ => rfl) r.active (active_nodup r) l

theorem retSlides_lane (r : Regs) (l : Nat) :
    (r.slidAll false r.retSlides).lane l = if l ∈ r.active then (r.lane l).slid false ((r.lane l).retSlide l) else r.lane l :=
  slidAll_lane r false (fun l => (r.lane l).retSlide l) (fun l => (retSlide_always _ l).1) r.active (active_nodup r) l

/-- The registers that `call` leaves, beside the pc: the windows slid, and the return word in `w7`. -/
def Regs.called (r : Regs) : Regs :=
  let q := r.slidAll true r.callSlides
  let x := q.destsW 7 (r.active.map (fun l => (l, BitVec.ofNat 64 (r.pc + 1))))
  q.landAll x.1 x.2

theorem called_act (r : Regs) : r.called.act = r.act := (landAll_act _ _ _).trans (slidAll_act _ _ _)

theorem called_rdW (r : Regs) {l n : Nat} (hl : l ∈ r.active) (hn : n < 32) : r.called.rdW l n =
    if n = 7 then BitVec.ofNat 64 (r.pc + 1) else ((r.lane l).slid true ((r.lane l).callSlide l)).rdW l n := by
  refine (landAll_destsW _ 7 (by decide) r.active (fun _ => BitVec.ofNat 64 (r.pc + 1)) l n hn).trans ?_
  by_cases h7 : n = 7
  · simp [intoW, h7, hl]
  · simp [intoW, h7, Regs.rdW, callSlides_lane, hl]

theorem called_rdP (r : Regs) {l n : Nat} (hl : l ∈ r.active) (hn : n < 8) : r.called.rdP l n = r.rdP l n := by
  refine (landAll_destsW_P _ _ _ _ _ hn).trans ?_
  rw [Regs.rdP, callSlides_lane, if_pos hl, slid_rdP, Regs.rdP]

theorem called_lane_other (r : Regs) {l : Nat} (hl : l ∉ r.active) : r.called.lane l = r.lane l := by
  refine (landAll_lane_other _ _ _ _ (fun e he => ?_)).trans (by rw [callSlides_lane, if_neg hl])
  obtain ⟨v, hv⟩ := destsW_lane he
  obtain ⟨k, hk, heq⟩ := List.mem_map.mp hv
  rintro rfl
  cases heq
  exact hl hk

theorem exec_call_regs {s : State} (st : BitVec 3) {o : BitVec 18} (hearly : s.early) (hpend : (s.gang s.cur).pend = [])
    (hroom : (s.gang s.cur).ch.room [] = true) (ht : s.regs.inside (s.regs.pc + o.toInt))
    (hp : ∀ l ∈ s.regs.active, (s.regs.lane l).base + 40 ≤ (s.regs.lane l).floor + 64) :
    ∃ u, exec (.call st o) s = .next u ∧ u.regs = { s.regs.called with pc := ((s.regs.pc : Int) + o.toInt).toNat } ∧ u.mem = s.mem := by
  have hin := callSlides_inCore hp
  obtain ⟨-, hmem, -⟩ := slidBy_inCore (s := s) (zero := true) hin
  obtain ⟨hheld, hheldMem, hheldEarly⟩ := holdW_regs (s.slidBy true s.regs.callSlides) 7
    (s.regs.active.map (fun l => (l, BitVec.ofNat 64 (s.regs.pc + 1))))
  obtain ⟨hregs, hmem'⟩ := finishAt_early st ((s.regs.pc : Int) + o.toInt).toNat (hheldEarly.mpr (slidBy_early hin hearly))
  refine ⟨_, (exec_call _ _ _).trans (execCall_inCore ht hin hpend hroom), ?_, hmem'.trans (hheldMem.trans hmem)⟩
  rw [hregs, hheld, slidBy_regs hin]
  rfl

theorem exec_ret_regs {s : State} (st : BitVec 3) (hearly : s.early) (hpend : (s.gang s.cur).pend = [])
    (hroom : (s.gang s.cur).ch.room [] = true)
    (hp : ∀ l ∈ s.regs.active, (s.regs.lane l).floor ≤ (s.regs.lane l).base - 16 ∧ s.regs.rdW l 7 = s.regs.rdW s.regs.l0 7)
    (hw : (s.regs.rdW s.regs.l0 7).toNat < 2 ^ 14) (hb : s.regs.inside (s.regs.rdW s.regs.l0 7).toNat) :
    ∃ u, exec (.ret st) s = .next u ∧
      u.regs = { s.regs.slidAll false s.regs.retSlides with pc := (s.regs.rdW s.regs.l0 7).toNat } ∧ u.mem = s.mem := by
  have hin := retSlides_inCore (fun l hl => (hp l hl).1)
  obtain ⟨-, hmem, -⟩ := slidBy_inCore (s := s) (zero := false) hin
  obtain ⟨hregs, hmem'⟩ := finishAt_early st (s.regs.rdW s.regs.l0 7).toNat (slidBy_early hin hearly)
  refine ⟨_, (exec_ret _ _).trans (execRet_inCore hin (fun l hl => (hp l hl).2) hw hb hpend hroom), ?_, hmem'.trans hmem⟩
  rw [hregs, slidBy_regs hin]

theorem localCallAndReturnSlideTheWindow : Says.LocalCallAndReturnSlideTheWindow := by
  intro s st o hearly hpend hroom r t
  refine ⟨fun ht hp => ?_, fun hp hw hb => ?_⟩
  · obtain ⟨u, hu, hregs, hmem⟩ := exec_call_regs st hearly hpend hroom ht hp
    refine ⟨u, hu, by rw [hregs], hmem, by rw [hregs]; exact called_act r, fun l hl => ?_, fun l hl => by rw [hregs]; exact called_lane_other r hl⟩
    obtain ⟨hkept, hcleared, hfixed⟩ := callSlid_reads (r.lane l) l (hp l hl)
    have hread : ∀ n, n < 32 → n ≠ 7 → u.regs.rdW l n = ((r.lane l).slid true ((r.lane l).callSlide l)).rdW l n := fun n hn h7 => by
      rw [hregs]
      exact (called_rdW r hl hn).trans (if_neg h7)
    refine ⟨fun n hn => ?_, ?_, fun n h8 hn => ?_, fun n h24 hn => ?_, fun n hn => by rw [hregs]; exact called_rdP r hl hn⟩
    · rw [hread n (by omega) (by omega), hkept n hn, Regs.rdW]
    · rw [hregs]
      exact (called_rdW r hl (by omega)).trans (if_pos rfl)
    · rw [hread n (by omega) (by omega), hcleared n h8 hn]
    · rw [hread n hn (by omega), hfixed n h24, Regs.rdW]
  · obtain ⟨u, hu, hregs, hmem⟩ := exec_ret_regs st hearly hpend hroom hp hw hb
    have hlane : ∀ l, u.regs.lane l = if l ∈ r.active then (r.lane l).slid false ((r.lane l).retSlide l) else r.lane l := fun l => by
      rw [hregs]
      exact retSlides_lane r l
    refine ⟨u, hu, by rw [hregs], hmem, by rw [hregs]; exact slidAll_act _ _ _, fun l hl => ?_, fun l hl => by rw [hlane, if_neg hl]⟩
    obtain ⟨hkept, hfixed⟩ := retSlid_reads (r.lane l) l (hp l hl).1
    simp only [Regs.rdW, Regs.rdP, hlane, if_pos hl, slid_rdP]
    exact ⟨hkept, fun n h24 _ => hfixed n h24, fun _ _ => trivial⟩

/-- Settles O25, part by part: for `call` and `ret` by the registers that slides within the core leave; for the spills by counting frames. -/
theorem callsSlideAndSpillTheWindow : Obligations.CallsSlideAndSpillTheWindow :=
  ⟨localCallAndReturnSlideTheWindow, slidesSpillTheOldestFrames⟩

end Sys2Proof.Machine
end

section
/-!
Spilled divergence entries over a memory list that is not canonical (03:R72): why two statements that read back what a spill has written
fail without `State.MemOk`.
-/

namespace Sys2Proof.Machine

/-- The first byte of the slot's divergence area is that of the oldest entry that has spilled. -/
theorem State.SpillsDiv.firstByte {s t : State} {div : List DivEntry} {e : DivEntry} (h : s.SpillsDiv t div)
    (he : (div.drop 8).reverse[0]? = some e) :
    Memory.get t.mem (tcmLoc (ckOfGk s.cur) (0x7000 + 256 * slotOfGk s.cur)) = BitVec.ofNat 8 e.word.toNat := by
  obtain ⟨hbytes, -⟩ := h
  simpa using hbytes 0 e he 0 (by decide)

/-- An entry whose 16 bytes are 0. -/
def zeroEntry : DivEntry := { all := 0#32, park := 0#32, merging := false, jset := false, join := 0, tgt := 0 }

/-- Two lanes, lane 1 with `p2`, below a stack of n such entries. The memory list names two bytes of the slot's divergence area with the
higher location first, so a write of 0 to the lower one, which looks for an entry to drop in front of the higher one, leaves its byte. -/
def fallingMemory (n : Nat) : State :=
  { State.reset with
    mem := [(tcmLoc 0 0x7001, 1#8), (tcmLoc 0 0x7000, 1#8)]
    gangs := [(0, { live := true
                    r := { thr := 3#32, act := 3#32, pc := 10, blk := { start := 8, len := 50 }, lanes := [(1, { p := 5#8 })]
                           div := List.replicate n zeroEntry } })] }

theorem fallingMemory_early (n : Nat) : (fallingMemory n).early := by
  change 0 < 511
  decide

/-- `br` on `p2` splits the lanes with eight entries below, and `end` under `p2` takes lane 1 away above nine: one entry spills, and the
byte stays 1. -/
theorem fallingMemory_br : ∃ t, exec (.br 0#3 2#4 5#18) (fallingMemory 8) = .next t ∧ Memory.get t.mem (tcmLoc 0 0x7000) = 1#8 :=
  ⟨_, rfl, by decide⟩
theorem fallingMemory_end : ∃ t, exec (.end_ 0#3 2#4) (fallingMemory 9) = .next t ∧ Memory.get t.mem (tcmLoc 0 0x7000) = 1#8 ∧
    t.regs.div = List.replicate 9 zeroEntry := ⟨_, rfl, by decide, by decide⟩

theorem not_branchesFollowTheLanes : ¬ Says.BranchesFollowTheLanes := by
  intro h
  obtain ⟨t, ht, hbyte⟩ := fallingMemory_br
  obtain ⟨-, -, hsplit, -⟩ := h (fallingMemory 8) 0#3 2#4 5#18 (fallingMemory_early 8) (by unfold Regs.inside; decide)
  obtain ⟨u, hu, -, hspill, -⟩ := hsplit (by decide) (by decide) (by decide)
  obtain rfl : t = u := by simpa [ht] using hu
  have hzero := hspill.firstByte (e := zeroEntry) rfl
  exact absurd (hbyte.symm.trans hzero) (by decide)

/-- Refutes O22: a `br` that splits the lanes of `fallingMemory 8` spills an entry of zeros, and the divergence area does not read as 0. The
statement reads back what the spill wrote, which holds of a memory in canonical form only, and it has no premise `State.MemOk`. -/
theorem not_branchAndJoinFollowTheLanes : ¬ Obligations.BranchAndJoinFollowTheLanes := fun h => not_branchesFollowTheLanes h.1

/-- Refutes O30: an `end` of one lane of `fallingMemory 9` spills an entry of zeros, and the divergence area does not read as 0. As in O22, the
statement reads back what the spill wrote and has no premise `State.MemOk`. -/
theorem not_endTakesLanesAway : ¬ Obligations.EndTakesLanesAway := by
  intro h
  obtain ⟨t, ht, hbyte, hdiv⟩ := fallingMemory_end
  obtain ⟨hstay, -⟩ := h (fallingMemory 9) 0#3 2#4 (fallingMemory_early 9) rfl rfl rfl rfl
  obtain ⟨u, hu, -, -, -, -, -, hspill, -⟩ := hstay (by decide)
  obtain rfl : t = u := by simpa [ht] using hu
  rw [hdiv] at hspill
  have hzero := hspill.firstByte (e := zeroEntry) rfl
  exact absurd (hbyte.symm.trans hzero) (by decide)

end Sys2Proof.Machine
end

section
/-!
The interlock of 08:R215 beside the lanes of a word: a write in flight to the word's destination in a parked lane holds the word.
-/

namespace Sys2Proof.Machine

/-- Lane 0 is active and lane 1 parked, with a load to `w2` of lane 1 in flight; the word at the pc is `add w2, w3, w4 ^1`. -/
def parkedLoad : State :=
  { State.reset with
    gangs := [(0, { live := true
                    r := { thr := 3#32, act := 1#32, pc := 10, blk := { start := 8, len := 50 } }
                    pend := [{ id := 0, land := none, ctr := some 0, tcm := false, ready := false, dst := [(1, .ent 2)], vals := [0#64] }] })]
    quads := [(0, { code := [(10, 0x2110c800#32)] })] }

/-- The pc of the gang in focus after an outcome. -/
def nextPc : Outcome → Option Nat
  | .next t => some t.regs.pc
  | _ => none

/-- The word waits for the load, and its meaning would go on to the next word. -/
theorem nextPc_step_parkedLoad : nextPc (step parkedLoad) = some 10 := rfl
theorem nextPc_exec_parkedLoad : nextPc (exec (.add 1#3 2#5 3#5 4#5 0#4) (Says.issuing parkedLoad)) = some 11 := rfl

/-- Refutes O5: in `parkedLoad` no write in flight names the destination in a lane of the word, so the statement has the step perform the
word. The machine holds it, since 08:R215 holds a word while a write to its destination is outstanding in whatever lane
(`Gang.writing`); the statement asks for `Gang.outstanding` alone. -/
theorem not_aStepRunsTheDecodedInstruction : ¬ Obligations.AStepRunsTheDecodedInstruction := by
  intro h
  obtain ⟨hissue, -⟩ := h parkedLoad (.add 1#3 2#5 3#5 4#5 0#4)
  obtain ⟨hrun, -⟩ := hissue rfl rfl (by decide)
  obtain ⟨-, hword⟩ := hrun ⟨by decide, by decide⟩ (by decide)
  obtain ⟨hlegal, -⟩ := hword (by decide) (.inl (by decide)) (by decide) (by decide)
  obtain ⟨hexec, -⟩ := hlegal (by decide) (by decide) (by decide)
  have hpc := congrArg nextPc (hexec (by decide) (.inl (by decide)))
  rw [nextPc_step_parkedLoad, nextPc_exec_parkedLoad] at hpc
  exact absurd hpc (by decide)

end Sys2Proof.Machine
end

section
/-!
Gangs formed and stolen (03:R62, R65, R67, R79 to R82): the oldest group, the gang that packets form, and what a take or a steal leaves.
-/

namespace Sys2Proof.Machine

/-! ## The oldest group (03:R82) -/

/-- The order compares time, kind, and then numbers, so no two packets come before each other. -/
theorem older_asymm {a b : Packet} (h : a.older b = true) : b.older a = false := by
  unfold Packet.older at h ⊢
  rcases eq_or_ne a.at_ b.at_ with hat | hat
  · rcases eq_or_ne a.crew b.crew with hcrew | hcrew
    · cases hfree : b.crew with
      | false => simp [hat, hcrew, hfree] at h ⊢; omega
      | true =>
        rcases eq_or_ne a.crewNo b.crewNo with hno | hno
        · simp [hat, hcrew, hfree, hno] at h ⊢; omega
        · simp [hat, hcrew, hfree, hno, hno.symm] at h ⊢; omega
    · simp [hat, hcrew, hcrew.symm] at h ⊢; simpa [h] using hcrew.symm
  · simp [hat, hat.symm] at h ⊢; omega

theorem older_irrefl (p : Packet) : p.older p = false := by simp [Packet.older]

/-- The older of the group kept so far and the next one, as `oldestGroup` chooses. -/
def olderGroup (m : Option (List Packet)) (g : List Packet) : Option (List Packet) :=
  match m, g with
  | some (a :: t), b :: u => if b.older a then some (b :: u) else some (a :: t)
  | _, g => some g

theorem oldestGroup_eq (gs : List (List Packet)) : oldestGroup gs = gs.foldl olderGroup none := rfl

/-- A group is the one given, or younger than it. -/
def NotBefore (p : Packet) (rest h : List Packet) : Prop := h = p :: rest ∨ ∃ x y, h = x :: y ∧ p.older x = true

theorem olderGroup_keeps {p : Packet} {rest h : List Packet} (hh : NotBefore p rest h) : olderGroup (some (p :: rest)) h = some (p :: rest) := by
  rcases hh with rfl | ⟨x, y, rfl, hx⟩
  · simp [olderGroup, older_irrefl]
  · simp [olderGroup, older_asymm hx]

theorem olderGroup_takes {p : Packet} {rest : List Packet} {m : Option (List Packet)} (hm : ∀ h ∈ m, NotBefore p rest h) :
    olderGroup m (p :: rest) = some (p :: rest) := by
  cases m with
  | none => rfl
  | some h =>
    rcases hm h rfl with rfl | ⟨x, y, rfl, hx⟩
    · simp [olderGroup, older_irrefl]
    · simp [olderGroup, hx]

theorem olderGroup_notBefore {p : Packet} {rest h : List Packet} {m : Option (List Packet)} (hm : ∀ h ∈ m, NotBefore p rest h)
    (hh : NotBefore p rest h) : ∀ x ∈ olderGroup m h, NotBefore p rest x := by
  intro x hx
  unfold olderGroup at hx
  split at hx
  · next a t b u =>
    split at hx
    · cases hx; exact hh
    · cases hx; exact hm _ rfl
  · cases hx; exact hh

theorem foldl_olderGroup {p : Packet} {rest : List Packet} (gs : List (List Packet)) (hgs : ∀ h ∈ gs, NotBefore p rest h)
    (m : Option (List Packet)) (hm : ∀ h ∈ m, NotBefore p rest h) (hin : m = some (p :: rest) ∨ p :: rest ∈ gs) :
    gs.foldl olderGroup m = some (p :: rest) := by
  induction gs generalizing m with
  | nil => simpa using hin
  | cons g gs ih =>
    have hg := hgs g List.mem_cons_self
    refine ih (fun h hh => hgs h (List.mem_cons_of_mem _ hh)) _ (olderGroup_notBefore hm hg) ?_
    rcases hin with rfl | hin
    · exact .inl (olderGroup_keeps hg)
    · rcases List.mem_cons.mp hin with rfl | hin
      · exact .inl (olderGroup_takes hm)
      · exact .inr hin

theorem oldestGroup_of_oldest {s : State} {qk : Nat} {test : List Packet → Bool} {p : Packet} {rest : List Packet}
    (h : s.Oldest qk test p rest) : oldestGroup ((s.groups qk).filter test) = some (p :: rest) := by
  obtain ⟨hmem, htest, hold⟩ := h
  rw [oldestGroup_eq]
  refine foldl_olderGroup _ (fun g hg => ?_) none (by simp) (.inr (List.mem_filter.mpr ⟨hmem, htest⟩))
  obtain ⟨hg, hgt⟩ := List.mem_filter.mp hg
  by_cases he : g = p :: rest
  · exact .inl he
  · exact .inr (hold g hg hgt he)

/-! ## Time that passes where nothing falls due -/

theorem pass_of_calm {s : State} {n : Nat} (h : s.calm n = true) : s.pass n = s.advance n := by
  obtain ⟨hcycle, hnext⟩ : s.cycleDue = false ∧ s.nextAct.all (fun t => decide (s.now + n < t)) = true := by
    simpa [State.calm] using h
  obtain ⟨herrs, hdies⟩ : s.errs = [] ∧ ∀ e ∈ s.dies, ¬ e.2.cmp = true := by
    simpa [State.cycleDue] using hcycle
  have hend : s.cycleEnd = s := by
    have hfilter : s.dies.filter (fun e => e.2.cmp) = [] := List.filter_eq_nil_iff.mpr hdies
    have hsame : ({ s with errs := [] } : State) = s := by rw [← herrs]
    simp only [State.cycleEnd, herrs, List.foldl_nil, hsame, hfilter, List.map_nil]
  have hpass : s.pass n = State.passTo (s.now + n) (n + 2) s.now s := by
    unfold State.pass
    rw [hend, ite_self]
  rw [hpass, State.passTo, Nat.add_sub_cancel_left]
  cases hn : s.nextAct with
  | none => rfl
  | some t =>
    rw [hn] at hnext
    have hlt : s.now + n < t := by simpa using hnext
    exact if_pos (by omega)

theorem exec_gangwaitExpiry (sl q : Nat) (s : State) : exec (.gangwaitExpiry sl q) s = execGangwaitExpiry sl q s := rfl

theorem groupsWaitForGangwait : Says.GroupsWaitForGangwait := by
  intro s sl q p rest hold hcalm
  have hexec : execGangwaitExpiry sl q s = .next (s.advance (p.at_ + (s.ctx (s.runCx sl)).gangwait - s.now)) := by
    simp only [execGangwaitExpiry, oldestGroup_of_oldest hold, pass_of_calm hcalm]
  refine ⟨_, (exec_gangwaitExpiry _ _ _).trans hexec, ?_, rfl, ?_⟩
  · rw [advance_now]
    omega
  · have hctx : (s.advance (p.at_ + (s.ctx (s.runCx sl)).gangwait - s.now)).runCx sl = s.runCx sl := rfl
    simp only [State.ripe, hctx, advance_ctx, advance_now, List.any_cons, Bool.or_eq_true, decide_eq_true_eq]
    omega

/-! ## The gang that packets form (03:R62, R67) -/

theorem getLsbD_maskOf (ls : List Nat) {l : Nat} (hl : l < 32) : (maskOf ls).getLsbD l = decide (l ∈ ls) := by
  induction ls with
  | nil => simp [maskOf]
  | cons k ls ih =>
    have hbit : (BitVec.ofNat 32 (2 ^ k)).getLsbD l = decide (l = k) := by
      rw [BitVec.getLsbD_ofNat, Nat.testBit_two_pow]
      simp [hl, eq_comm]
    rw [maskOf, BitVec.getLsbD_or, ih, hbit]
    simp

theorem tget_filter {α : Type} (d : α) (q : Nat → Bool) (t : Tab α) {n : Nat} (hn : q n = true) :
    tget d (t.filter (fun e => q e.1)) n = tget d t n := by
  induction t with
  | nil => rfl
  | cons e t ih =>
    obtain ⟨k, v⟩ := e
    by_cases hk : k = n
    · subst hk; simp [hn, tget]
    · by_cases hq : q k = true <;> simp [hq, tget, hk, ih]

theorem tget_zip_of_not_mem {α : Type} (d : α) (ks : List Nat) (vs : List α) {n : Nat} (hn : n ∉ ks) : tget d (ks.zip vs) n = d := by
  induction ks generalizing vs with
  | nil => rfl
  | cons k ks ih =>
    obtain ⟨hk, hn⟩ := not_or.mp (mt List.mem_cons.mpr hn)
    cases vs with
    | nil => rfl
    | cons v vs => simp [tget, Ne.symm hk, ih vs hn]

theorem tget_zip {α : Type} (d : α) (ks : List Nat) (vs : List α) (hnd : ks.Nodup) {j n : Nat} (hn : ks[j]? = some n) :
    tget d (ks.zip vs) n = vs.getD j d := by
  induction ks generalizing vs j with
  | nil => simp at hn
  | cons k ks ih =>
    obtain ⟨hk, hnd⟩ := List.nodup_cons.mp hnd
    cases vs with
    | nil => simp [tget]
    | cons v vs =>
      cases j with
      | zero =>
        obtain rfl : k = n := by simpa using hn
        simp [tget]
      | succ j =>
        have hj : ks[j]? = some n := by simpa using hn
        have hne : k ≠ n := fun h => hk (h ▸ List.mem_of_getElem? hj)
        simp [tget, hne, ih vs hnd hj]

theorem liveRegs_nodup (m : W32) : (liveRegs m).Nodup := List.Nodup.filter _ (by decide)

/-- A register of the live range holds what the packet carries for it (03:R62). -/
theorem packetLane_rdW (p : Packet) (live : W32) (i : Nat) {n : Nat} (hn : n < 24 ∨ 28 ≤ n ∧ n < 31) :
    (p.lane live).rdW i n = tget 0#64 ((liveRegs live).zip p.live) n := by
  rcases hn with hn | ⟨hlo, hhi⟩
  · have hent : ((0 + (n : Int)).emod 64).toNat = n := by
      have hmod : (0 + (n : Int)).emod 64 = (0 + (n : Int)) % 64 := rfl
      omega
    rw [Lane.rdW, if_pos hn, Lane.entOf]
    change tget 0#64 (((liveRegs live).zip p.live).filter (fun e => decide (e.1 < 24))) ((0 + (n : Int)).emod 64).toNat = _
    rw [hent]
    exact tget_filter 0#64 (fun k => decide (k < 24)) _ (by simpa using hn)
  · rw [Lane.rdW, if_neg (by omega), if_neg (by omega), if_neg (by omega), if_neg (by omega)]
    change tget 0#64 ((26, p.bsp) :: (27, p.link) :: ((liveRegs live).zip p.live).filter (fun e => decide (24 ≤ e.1))) n = _
    rw [tget, if_neg (by omega), tget, if_neg (by omega)]
    exact tget_filter 0#64 (fun k => decide (24 ≤ k)) _ (by simpa using (by omega : 24 ≤ n))

theorem packetLane_rdP (p : Packet) (live : W32) {n : Nat} : (p.lane live).rdP n = (p.pred ||| 1#8).getLsbD n := by
  change (n == 0 || (p.pred ||| 1#8).getLsbD n) = _
  by_cases hn : n = 0
  · subst hn; simp
  · simp [hn]

/-- The gang that some packets form, the first of them p, in a slot that held `old`. -/
def Gang.formed (old : Gang) (now : Nat) (ps : List Packet) (p : Packet) (e : EntryRec) (b : BlkRef) : Gang :=
  { live := true, actId := old.actId + 1, launch := p.launch, far := old.far
    crew := if p.crew then some p.crewNo else none
    task := if p.ts then
        some { stamp := p.stamp, spec := true, aborts := 0, held := [], carried := ps, finished := false, waitLow := false }
      else none
    r := { thr := maskOf (List.range ps.length), act := maskOf (List.range ps.length), pc := b.start + e.word, blk := b
           lanes := (List.range ps.length).zip (ps.map (fun p => p.lane e.live)) }
    readyAt := now }

theorem form_eq {s : State} {gk : Nat} {p : Packet} {rest : List Packet} {e : EntryRec} {b : BlkRef}
    (he : s.packetEntry (s.gangCx gk) p = some e) (hb : (s.quad (qkOfGk gk)).findAny (wbits p.entry 0 12) e.block = some b) :
    s.form gk (p :: rest) = some (s.setGang gk ((s.gang gk).formed s.now (p :: rest) p e b)) := by
  simp only [State.form, he, hb]
  rfl

theorem formed_lane (old : Gang) (now : Nat) (ps : List Packet) (q : Packet) (e : EntryRec) (b : BlkRef) {i : Nat} {p : Packet}
    (hp : ps[i]? = some p) : (old.formed now ps q e b).r.lane i = p.lane e.live := by
  have hi : (List.range ps.length)[i]? = some i := by
    obtain ⟨hlt, -⟩ := List.getElem?_eq_some_iff.mp hp
    simp [hlt]
  refine (tget_zip ({} : Lane) _ _ List.nodup_range hi).trans ?_
  simp [List.getD_eq_getElem?_getD, hp]

/-- A slot that holds that gang is formed as 03:R62 and R67 say. -/
theorem formed_of_gang {s t : State} {gk : Nat} {p : Packet} {rest : List Packet} {e : EntryRec} {b : BlkRef}
    (h : t.gang gk = (s.gang gk).formed s.now (p :: rest) p e b) : Formed s t gk (p :: rest) e b := by
  constructor
  all_goals rw [h]
  case act | live | new => rfl
  case lanes =>
    intro l hl
    exact (getLsbD_maskOf _ hl).trans (by simp)
  case point => exact ⟨rfl, rfl⟩
  case launch =>
    rintro q ⟨⟩
    rfl
  case idle => exact ⟨rfl, rfl, rfl, rfl, rfl⟩
  case regs =>
    intro i q hq _
    simp only [Regs.rdW, Regs.rdP, formed_lane _ _ _ _ _ _ hq]
    refine ⟨rfl, rfl, rfl, fun j n hj hn => ?_, fun n hn hdead => ?_, fun n _ => packetLane_rdP q e.live, rfl, rfl⟩
    · rw [packetLane_rdW q e.live i hn, tget_zip _ _ _ (liveRegs_nodup _) hj]
    · rw [packetLane_rdW q e.live i hn, tget_zip_of_not_mem _ _ _ hdead]
  case task =>
    rintro q ⟨⟩ hts
    exact ⟨_, if_pos hts, rfl, rfl, rfl⟩

/-! ## What a take leaves -/

theorem ckOf_parts {sl c : Nat} (hc : c < 8192) : slOfCk (ckOf sl c) = sl ∧ coreOfCk (ckOf sl c) = c ∧ qkOfCk (ckOf sl c) = qkOf sl (c / 4) := by
  unfold slOfCk coreOfCk qkOfCk ckOf qkOf
  omega

theorem gkOf_parts {sl c k : Nat} (hc : c < 8192) (hk : k < 4) :
    slOfGk (gkOf (ckOf sl c) k) = sl ∧ qkOfGk (gkOf (ckOf sl c) k) = qkOfCk (ckOf sl c) := by
  unfold slOfGk qkOfGk gkOf qkOfCk ckOf
  omega

theorem freeSlots_lt {s : State} {ck k : Nat} {slots : List Nat} (h : s.freeSlots ck = k :: slots) : k < 4 := by
  have hk : k ∈ s.freeSlots ck := h ▸ List.mem_cons_self
  exact (by decide : ∀ j ∈ [0, 1, 2, 3], j < 4) k (List.mem_of_mem_filter hk)

/-- The gang of packets whose entry and block a core's quad holds. -/
theorem form_of_enters {s : State} {sl c k : Nat} {p : Packet} {rest : List Packet} {e : EntryRec} {b : BlkRef} (hc : c < 8192) (hk : k < 4)
    (h : s.Enters (ckOf sl c) p e b) : s.form (gkOf (ckOf sl c) k) (p :: rest) =
      some (s.setGang (gkOf (ckOf sl c) k) ((s.gang (gkOf (ckOf sl c) k)).formed s.now (p :: rest) p e b)) := by
  obtain ⟨he, hb⟩ := h
  obtain ⟨hsl, hqk⟩ := gkOf_parts (sl := sl) hc hk
  rw [(ckOf_parts hc).1] at he
  exact form_eq (by rw [State.gangCx, hsl]; exact he) (by rw [hqk]; exact hb)

theorem takeGroup_frame (s : State) (qk : Nat) (ps : List Packet) :
    (s.takeGroup qk ps).gangs = s.gangs ∧ (s.takeGroup qk ps).cores = s.cores := by
  cases ps with
  | nil => exact ⟨rfl, rfl⟩
  | cons p ps =>
    unfold State.takeGroup
    dsimp only
    split <;> exact ⟨rfl, rfl⟩

theorem noteRing_aq (q : Quad) (run : Nat) : (q.noteRing run).aq = q.aq := by
  unfold Quad.noteRing
  split <;> rfl

/-- The packets of a take leave the arrival queue, and no other does (03:R66). -/
theorem takeGroup_aq {s : State} {qk : Nat} {p : Packet} {rest : List Packet} (hp : p.crew = false) :
    ((s.takeGroup qk (p :: rest)).quad qk).aq =
      (s.quad qk).aq.filter (fun x => !(x.like p && (p :: rest).any (fun y => y.seq == x.seq))) := by
  have hqk : qkOf (slOfQk qk) (quadOfQk qk) = qk := by
    unfold qkOf slOfQk quadOfQk
    omega
  simp only [State.takeGroup, hp, Bool.false_eq_true, if_false, State.settleQuad, hqk, modQuad_quad_same, noteRing_aq, Quad.announce]

/-- The gang that is put into a slot stands there while the gangs stay, and a core while the cores do. -/
theorem gang_of_gangs {s t : State} {gk : Nat} {g : Gang} (h : t.gangs = (s.setGang gk g).gangs) : t.gang gk = g :=
  (congrArg (fun x : Tab Gang => tget ({} : Gang) x gk) h).trans (setGang_gang_same s gk g)

theorem core_of_cores {s t : State} {ck : Nat} (h : t.cores = s.cores) : t.core ck = s.core ck :=
  congrArg (fun x : Tab Core => tget ({} : Core) x ck) h

theorem wrBytes_frame (s : State) (key loc : Nat) (bs : List Byte) :
    (s.wrBytes key loc bs).gangs = s.gangs ∧ (s.wrBytes key loc bs).cores = s.cores ∧ (s.wrBytes key loc bs).quads = s.quads := by
  obtain ⟨m, k, h⟩ := putAll_shape key (((List.range bs.length).zip bs).map (fun e => (loc + e.1, e.2)))
    (s.remember key ((((List.range bs.length).zip bs).map (fun e => (loc + e.1, e.2))).map (fun e => e.1)))
  rw [State.wrBytes, State.wrAll, h]
  exact ⟨rfl, rfl, rfl⟩

theorem foldl_wrBytes_frame {α : Type} (key : Nat) (loc : α → Nat) (bs : α → List Byte) (xs : List α) (s : State) :
    let t := xs.foldl (fun t x => t.wrBytes key (loc x) (bs x)) s
    t.gangs = s.gangs ∧ t.cores = s.cores ∧ t.quads = s.quads := by
  induction xs generalizing s with
  | nil => exact ⟨rfl, rfl, rfl⟩
  | cons x xs ih =>
    obtain ⟨hg, hc, hq⟩ := ih (s.wrBytes key (loc x) (bs x))
    obtain ⟨hg', hc', hq'⟩ := wrBytes_frame s key (loc x) (bs x)
    exact ⟨hg.trans hg', hc.trans hc', hq.trans hq'⟩

/-- What lies in memory of a deque changes no gang, core or quad (03:R78). -/
theorem spillDeque_frame (s : State) (ck : Nat) :
    (s.spillDeque ck).gangs = s.gangs ∧ (s.spillDeque ck).cores = s.cores ∧ (s.spillDeque ck).quads = s.quads :=
  foldl_wrBytes_frame 0 (fun e : Packet × Nat => tcmLoc ck (0x7400 + 128 * e.2)) (fun e => e.1.bytes) _ s

/-- A core with the deque that a take leaves, and its announcement (03:R80). -/
def Core.withDeque (c : Core) (d : List Packet) (now : Nat) : Core := { c with deque := d, annEmpty := d.isEmpty, dqBy := now + 1 }

theorem setDeque_frame (s : State) (ck : Nat) (d : List Packet) :
    (s.setDeque ck d).gangs = s.gangs ∧ (s.setDeque ck d).quads = s.quads ∧ (s.setDeque ck d).core ck = (s.core ck).withDeque d s.now ∧
    ∀ k, k ≠ ck → (s.setDeque ck d).core k = s.core k := by
  obtain ⟨hg, hc, hq⟩ := spillDeque_frame (s.modCore ck (fun c => c.withDeque d s.now)) ck
  have hcore : ∀ k, (s.setDeque ck d).core k = (s.modCore ck (fun c => c.withDeque d s.now)).core k := fun k =>
    core_of_cores hc
  exact ⟨hg, hq, (hcore ck).trans (modCore_core_same _ _ _), fun k hk => (hcore k).trans (modCore_core_other _ _ _ _ hk)⟩

/-! ## Formation (03:R82, R79) -/

theorem exec_gangFormation (sl c : Nat) (s : State) : exec (.gangFormation sl c) s = execGangFormation sl c s := rfl

/-- The oldest ripe group comes first; where none is ripe and the deque is empty, the oldest group of all. -/
theorem source_group {s : State} {ck : Nat} {p : Packet} {rest : List Packet}
    (h : s.Oldest (qkOfCk ck) (s.ripe (slOfCk ck)) p rest ∨
      (∀ g ∈ s.groups (qkOfCk ck), s.ripe (slOfCk ck) g = false) ∧ (s.core ck).deque = [] ∧ s.Oldest (qkOfCk ck) (fun _ => true) p rest) :
    s.source ck = .group (p :: rest) := by
  rcases h with h | ⟨hnone, hempty, h⟩
  · simp only [State.source, oldestGroup_of_oldest h]
  · have hripe : (s.groups (qkOfCk ck)).filter (s.ripe (slOfCk ck)) = [] := by simpa [List.filter_eq_nil_iff] using hnone
    have hall : oldestGroup (s.groups (qkOfCk ck)) = some (p :: rest) := by simpa using oldestGroup_of_oldest h
    simp only [State.source, hripe, hempty, hall, List.isEmpty_nil, Bool.not_true, Bool.false_eq_true, if_false]
    rfl

theorem source_deque {s : State} {ck : Nat} (hnone : ∀ g ∈ s.groups (qkOfCk ck), s.ripe (slOfCk ck) g = false)
    (hd : (s.core ck).deque ≠ []) : s.source ck = .deque := by
  have hripe : (s.groups (qkOfCk ck)).filter (s.ripe (slOfCk ck)) = [] := by simpa [List.filter_eq_nil_iff] using hnone
  simp [State.source, hripe, oldestGroup, hd]

/-- A core that is served takes up to 32 packets of the group (03:R66, R82). -/
theorem execGangFormation_group {s : State} {sl c k : Nat} {slots : List Nat} {p : Packet} {rest : List Packet} {e : EntryRec} {b : BlkRef}
    (hc : c < 8192) (hmay : s.mayForm (ckOf sl c) = true) (hfree : s.freeSlots (ckOf sl c) = k :: slots) (henter : s.Enters (ckOf sl c) p e b)
    (hsource : s.source (ckOf sl c) = .group (p :: rest)) (htook : (s.quad (qkOfCk (ckOf sl c))).tookBy ≤ s.now)
    (hserved : s.served (qkOfCk (ckOf sl c)) = some (c % 4)) :
    execGangFormation sl c s = .next (((s.setGang (gkOf (ckOf sl c) k)
      ((s.gang (gkOf (ckOf sl c) k)).formed s.now (p :: rest.take 31) p e b)).takeGroup (qkOfCk (ckOf sl c)) (p :: rest.take 31)).modQuad
        (qkOfCk (ckOf sl c)) (fun q => { q with lastTaker := c % 4, tookBy := s.now + 1 })) := by
  have hlate : ¬ (s.now + 1 ≤ (s.quad (qkOfCk (ckOf sl c))).tookBy) := by omega
  simp only [execGangFormation, hmay, hfree, hsource, hserved, hlate, ne_eq, not_true_eq_false, or_self, Bool.not_true, Bool.false_eq_true,
    if_false, List.take_succ_cons, form_of_enters hc (freeSlots_lt hfree) henter, Option.map_some, Option.getD_some]

theorem topRun_cons (p : Packet) (rest : List Packet) :
    topRun (p :: rest) = p :: rest.take (min 31 (rest.takeWhile (fun x => x.like p)).length) := by
  have hsplit : rest.takeWhile (fun x => x.like p) ++ rest.dropWhile (fun x => x.like p) = rest := List.takeWhile_append_dropWhile
  have htake := List.take_append_of_le_length (l₂ := rest.dropWhile (fun x => x.like p))
    (Nat.min_le_right 31 (rest.takeWhile (fun x => x.like p)).length)
  rw [hsplit] at htake
  rw [topRun, List.take_succ_cons, htake, List.take_eq_take_min (i := 31)]

theorem execGangFormation_deque {s : State} {sl c k : Nat} {slots : List Nat} {p : Packet} {rest : List Packet} {e : EntryRec} {b : BlkRef}
    (hc : c < 8192) (hmay : s.mayForm (ckOf sl c) = true) (hfree : s.freeSlots (ckOf sl c) = k :: slots) (henter : s.Enters (ckOf sl c) p e b)
    (hsource : s.source (ckOf sl c) = .deque) (hd : (s.core (ckOf sl c)).deque = p :: rest) (hby : (s.core (ckOf sl c)).dqBy ≤ s.now) :
    let n := min 31 (rest.takeWhile (fun x => x.like p)).length
    execGangFormation sl c s = .next ((s.setGang (gkOf (ckOf sl c) k)
      ((s.gang (gkOf (ckOf sl c) k)).formed s.now (p :: rest.take n) p e b)).setDeque (ckOf sl c) (rest.drop n)) := by
  intro n
  have hn : n ≤ rest.length := (Nat.min_le_right _ _).trans (List.takeWhile_sublist _).length_le
  have hrun : topRun (s.core (ckOf sl c)).deque = p :: rest.take n := by rw [hd, topRun_cons]
  have hdrop : (s.core (ckOf sl c)).deque.drop (topRun (s.core (ckOf sl c)).deque).length = rest.drop n := by
    rw [hrun, hd, List.length_cons, List.length_take_of_le hn, List.drop_succ_cons]
  simp only [execGangFormation, hmay, hfree, hsource, hdrop, Nat.not_lt.mpr hby, Bool.not_true, Bool.false_eq_true, if_false]
  rw [hrun]
  simp only [form_of_enters hc (freeSlots_lt hfree) henter, Option.map_some, Option.getD_some]

theorem gangsFormFromPackets : Says.GangsFormFromPackets := by
  intro s sl c k slots p rest e b hc ck qk ripe i hmay hfree henter
  have hsl : slOfCk ck = sl := (ckOf_parts hc).1
  refine ⟨fun hold htook hserved => ?_, fun hnone hd hby => ?_⟩
  · have hsource : s.source ck = .group (p :: rest) := source_group (by rw [hsl]; exact hold)
    have hps : (p :: rest).take 32 = p :: rest.take 31 := List.take_succ_cons
    rw [hps]
    refine ⟨_, (exec_gangFormation _ _ _).trans (execGangFormation_group hc hmay hfree henter hsource htook hserved), ?_⟩
    obtain ⟨hgangs, hcores⟩ := takeGroup_frame (s.setGang (gkOf ck k) ((s.gang (gkOf ck k)).formed s.now (p :: rest.take 31) p e b)) qk
      (p :: rest.take 31)
    refine ⟨formed_of_gang (gang_of_gangs hgangs), ?_, ?_, congrArg Core.deque (core_of_cores hcores), fun hp x => ?_⟩
    · rw [modQuad_quad_same]
    · rw [modQuad_quad_same]
    · rw [modQuad_quad_same, takeGroup_aq hp, List.mem_filter]
      refine and_congr_right (fun _ => ?_)
      rw [Bool.not_eq_true', ← Bool.not_eq_true, Bool.and_eq_true, List.any_eq_true]
      simp only [beq_iff_eq]
  · have hsource : s.source ck = .deque := source_deque (by rw [hsl]; exact hnone) (by rw [hd]; simp)
    intro n
    refine ⟨_, (exec_gangFormation _ _ _).trans (execGangFormation_deque hc hmay hfree henter hsource hd hby), ?_⟩
    obtain ⟨hgangs, hquads, hcore, -⟩ := setDeque_frame (s.setGang (gkOf ck k) ((s.gang (gkOf ck k)).formed s.now (p :: rest.take n) p e b)) ck
      (rest.drop n)
    exact ⟨formed_of_gang (gang_of_gangs hgangs), by rw [hcore]; rfl, by rw [hcore]; rfl, hquads⟩

/-! ## Steals (03:R80, R81) -/

theorem exec_stealRequest (sl c : Nat) (s : State) : exec (.stealRequest sl c) s = execStealRequest sl c s := rfl
theorem exec_stealAnswer (sl c : Nat) (s : State) : exec (.stealAnswer sl c) s = execStealAnswer sl c s := rfl

theorem ckOf_ne {sl c v : Nat} (h : v ≠ c) : ckOf sl v ≠ ckOf sl c := by
  unfold ckOf
  omega

/-- The core asked is another one of the replica group that is not announced empty (03:R80). -/
theorem victim_some {s : State} {ck v : Nat} (h : s.victim ck = some v) :
    v ≠ coreOfCk ck ∧ (s.core (ckOf (slOfCk ck) v)).annEmpty = false ∧ v ∈ s.replicaGroup ck := by
  obtain ⟨hother, hfull⟩ : v ≠ coreOfCk ck ∧ (s.core (ckOf (slOfCk ck) v)).annEmpty = false := by simpa using List.find?_some h
  have hmem := List.mem_of_find?_eq_some h
  refine ⟨hother, hfull, ?_⟩
  cases hl : (s.core ck).lastAsked with
  | none => simpa [hl] using hmem
  | some w =>
    rw [hl] at hmem
    exact (List.mem_append.mp hmem).elim List.mem_of_mem_filter List.mem_of_mem_filter

theorem source_none {s : State} {ck : Nat} (hg : s.groups (qkOfCk ck) = []) (hd : (s.core ck).deque = []) : s.source ck = .none := by
  simp [State.source, hg, hd, oldestGroup]

/-- The records of a steal as the statement writes them (03:R80). -/
theorem bottomRun_eq (d : List Packet) : bottomRun d =
    ((d.reverse.head?.toList ++ (d.reverse.drop 1).takeWhile (fun y => (d.reverse.head?).any (fun p => y.like p))).take 32).take
      ((d.length + 1) / 2) := by
  unfold bottomRun
  cases d.reverse with
  | nil => rfl
  | cons p t => simp [topRun]

/-- The state in which a core has heard its first thief, which may form a gang again. -/
def State.heard (s : State) (ck tk : Nat) (rest : List Nat) : State :=
  (s.modCore ck (fun x => { x with thieves := rest, dqBy := s.now + 1 })).modCore tk (fun x => { x with asked := none })

theorem heard_core {s : State} {ck tk : Nat} (rest : List Nat) (h : tk ≠ ck) :
    (s.heard ck tk rest).core ck = { s.core ck with thieves := rest, dqBy := s.now + 1 } ∧ ((s.heard ck tk rest).core tk).asked = none := by
  unfold State.heard
  rw [modCore_core_other _ _ _ _ h.symm, modCore_core_same, modCore_core_same]
  exact ⟨rfl, rfl⟩

/-- What a core answers the first thief that waits (03:R80, R81). -/
theorem execStealAnswer_eq {s : State} {sl c v : Nat} {rest : List Nat} (hne : v ≠ c) (ht : (s.core (ckOf sl c)).thieves = v :: rest)
    (hby : (s.core (ckOf sl c)).dqBy ≤ s.now) (hpops : s.pops (ckOf sl c) = false) :
    let u := s.heard (ckOf sl c) (ckOf sl v) rest
    let d := (s.core (ckOf sl c)).deque
    execStealAnswer sl c s = .next (
      if !u.mayForm (ckOf sl v) then u
      else
        match s.freeSlots (ckOf sl v) with
        | [] => u
        | k :: _ => ((u.form (gkOf (ckOf sl v) k) (bottomRun d)).map (fun w =>
            w.setDeque (ckOf sl c) (d.take (d.length - (bottomRun d).length)))).getD u) := by
  intro u d
  have hd : (u.core (ckOf sl c)).deque = d := by rw [(heard_core rest (ckOf_ne hne)).1]
  rw [← hd]
  simp only [execStealAnswer, Nat.not_lt.mpr hby, decide_false, hpops, Bool.or_self, Bool.false_eq_true, if_false, ht] <;> rfl

/-- With an empty deque the thief is answered with nothing. -/
theorem execStealAnswer_empty {s : State} {sl c v : Nat} {rest : List Nat} (hne : v ≠ c) (ht : (s.core (ckOf sl c)).thieves = v :: rest)
    (hby : (s.core (ckOf sl c)).dqBy ≤ s.now) (hpops : s.pops (ckOf sl c) = false) (hd : (s.core (ckOf sl c)).deque = []) :
    execStealAnswer sl c s = .next (s.heard (ckOf sl c) (ckOf sl v) rest) := by
  rw [execStealAnswer_eq hne ht hby hpops, hd]
  split
  · rfl
  · split <;> rfl

/-- A thief that may form gangs again takes the records into its lowest free slot. -/
theorem execStealAnswer_some {s : State} {sl c v k : Nat} {rest slots : List Nat} {p : Packet} {ps : List Packet} {e : EntryRec} {b : BlkRef}
    (hv : v < 8192) (hne : v ≠ c) (ht : (s.core (ckOf sl c)).thieves = v :: rest) (hby : (s.core (ckOf sl c)).dqBy ≤ s.now)
    (hpops : s.pops (ckOf sl c) = false) (hrun : (s.slice sl).running.isSome = true) (hmay : s.mayRun sl = true)
    (hidle : (s.slice sl).sw.step = .idle) (hfree : s.freeSlots (ckOf sl v) = k :: slots) (henter : s.Enters (ckOf sl v) p e b)
    (hps : bottomRun (s.core (ckOf sl c)).deque = p :: ps) :
    let gk := gkOf (ckOf sl v) k
    let d := (s.core (ckOf sl c)).deque
    execStealAnswer sl c s = .next (((s.heard (ckOf sl c) (ckOf sl v) rest).setGang gk ((s.gang gk).formed s.now (p :: ps) p e b)).setDeque
      (ckOf sl c) (d.take (d.length - (p :: ps).length))) := by
  have hform : (s.heard (ckOf sl c) (ckOf sl v) rest).mayForm (ckOf sl v) = true := by
    have hasked := (heard_core (s := s) rest (ckOf_ne (sl := sl) hne)).2
    have hslots : (s.heard (ckOf sl c) (ckOf sl v) rest).freeSlots (ckOf sl v) = k :: slots := hfree
    have hmay' : (s.heard (ckOf sl c) (ckOf sl v) rest).mayRun sl = true := hmay
    have hslice : (s.heard (ckOf sl c) (ckOf sl v) rest).slice sl = s.slice sl := rfl
    simp [State.mayForm, (ckOf_parts hv).1, hasked, hslots, hmay', hslice, hrun, hidle]
  have henter' : (s.heard (ckOf sl c) (ckOf sl v) rest).Enters (ckOf sl v) p e b := henter
  rw [execStealAnswer_eq hne ht hby hpops]
  simp only [hform, hfree, hps, form_of_enters hv (freeSlots_lt hfree) henter', Bool.not_true, Bool.false_eq_true, if_false, Option.map_some,
    Option.getD_some]
  rfl

/-- A core with nothing to take asks its victim (03:R80). -/
theorem execStealRequest_some {s : State} {sl c v : Nat} (hmay : s.mayForm (ckOf sl c) = true) (hasked : (s.core (ckOf sl c)).asked = none)
    (hsource : s.source (ckOf sl c) = .none) (hv : s.victim (ckOf sl c) = some v) :
    execStealRequest sl c s = .next ((s.modCore (ckOf sl c) (fun x => { x with asked := some v, lastAsked := some v })).modCore (ckOf sl v)
      (fun x => { x with thieves := x.thieves ++ [c] })) := by
  simp only [execStealRequest, hmay, hasked, hsource, hv, Option.isSome_none, Bool.not_true, Bool.or_self, Bool.false_eq_true, if_false]

theorem stealsTakeTheOldestRecords : Says.StealsTakeTheOldestRecords := by
  intro s sl c v hc hv ck x
  obtain ⟨hsl, hcore, -⟩ := ckOf_parts (sl := sl) hc
  refine ⟨fun hmay hasked hgroups hdeque hvictim => ?_, fun rest ht hne hby hpops => ?_⟩
  · obtain ⟨hother, hann, hgroup⟩ := victim_some hvictim
    rw [hsl] at hann
    rw [hcore] at hother
    have hkey := ckOf_ne (sl := sl) hother
    refine ⟨hother, hann, hgroup, _, (exec_stealRequest _ _ _).trans (execStealRequest_some hmay hasked (source_none hgroups hdeque) hvictim),
      ?_, ?_, ?_⟩
    · rw [modCore_core_other _ _ _ _ hkey.symm, modCore_core_same]
    · rw [modCore_core_other _ _ _ _ hkey.symm, modCore_core_same]
    · rw [modCore_core_same, modCore_core_other _ _ _ _ hkey]
  · intro tk d ps
    have hkey : tk ≠ ck := ckOf_ne hne
    obtain ⟨hheard, hasked⟩ := heard_core (s := s) rest hkey
    refine ⟨fun hd => ?_, fun k slots p e b hrun hmay hidle hfree hhead henter => ?_⟩
    · refine ⟨_, (exec_stealAnswer _ _ _).trans (execStealAnswer_empty hne ht hby hpops hd), ?_, hasked, rfl⟩
      rw [hheard]
    · obtain ⟨qs, hps⟩ : ∃ qs, ps = p :: qs := List.head?_eq_some_iff.mp hhead
      have hbottom : bottomRun d = p :: qs := (bottomRun_eq d).trans hps
      rw [hps]
      refine ⟨_, (exec_stealAnswer _ _ _).trans (execStealAnswer_some hv hne ht hby hpops hrun hmay hidle hfree henter hbottom), ?_⟩
      obtain ⟨hgangs, -, hset, hsetOther⟩ := setDeque_frame ((s.heard ck tk rest).setGang (gkOf tk k)
        ((s.gang (gkOf tk k)).formed s.now (p :: qs) p e b)) ck (d.take (d.length - (p :: qs).length))
      rw [setGang_core, hheard] at hset
      rw [hset, hsetOther tk hkey]
      exact ⟨rfl, hasked, formed_of_gang (gang_of_gangs hgangs), rfl⟩

/-- Settles O49, part by part: the oldest group is the one that no other comes before; a formed gang is read off its packets; a take, a pop and a
steal leave what is not taken. -/
theorem gangsFormAndStealsAnswer : Obligations.GangsFormAndStealsAnswer :=
  ⟨gangsFormFromPackets, groupsWaitForGangwait, stealsTakeTheOldestRecords⟩

end Sys2Proof.Machine
end

section
/-!
What keeps the memory list canonical (04:R107): the rules for the operations on the state that all meanings share, for each of them once.
A rule has the name of its operation.
-/

namespace Sys2Proof.Machine

/-- The memory of the state that an outcome goes on with, if any, is in canonical form. -/
def NextMemOk : Outcome → Prop
  | .next t => t.MemOk
  | .fault _ => True
  | .refused _ => True

theorem NextMemOk.next {t : State} (h : t.MemOk) : NextMemOk (.next t) := h

variable {s t : State}

theorem State.MemOk.of_next {o : Outcome} (ho : NextMemOk o) (e : o = .next t) : t.MemOk := by
  subst e
  exact ho

/-! ## How states and outcomes are put together -/

theorem State.MemOk.ite {c : Prop} [Decidable c] (hs : s.MemOk) (ht : t.MemOk) : (if c then s else t).MemOk := by
  split
  · exact hs
  · exact ht

theorem NextMemOk.ite {c : Prop} [Decidable c] {o p : Outcome} (ho : NextMemOk o) (hp : NextMemOk p) : NextMemOk (if c then o else p) := by
  split
  · exact ho
  · exact hp

theorem State.MemOk.foldl {α : Type} {f : State → α → State} {l : List α} (hf : ∀ t x, t.MemOk → (f t x).MemOk) (h : s.MemOk) :
    (l.foldl f s).MemOk := by
  induction l generalizing s with
  | nil => exact h
  | cons x l ih => exact ih (hf s x h)

theorem State.MemOk.foldl_snd {α β : Type} {f : β × State → α → β × State} {l : List α} {b : β} (hf : ∀ p x, p.2.MemOk → (f p x).2.MemOk)
    (h : s.MemOk) : (l.foldl f (b, s)).2.MemOk := by
  induction l generalizing b s with
  | nil => exact h
  | cons x l ih => exact ih (hf (b, s) x h)

theorem State.MemOk.getD {o : Option State} (ho : ∀ u, o = some u → u.MemOk) (h : s.MemOk) : (o.getD s).MemOk := by
  cases o with
  | none => exact h
  | some u => exact ho u rfl

/-! ## Changes of other fields -/

theorem State.MemOk.setGang {k v} (h : s.MemOk) : (s.setGang k v).MemOk := h

theorem State.MemOk.modGang {k u} (h : s.MemOk) : (s.modGang k u).MemOk := h

theorem State.MemOk.modCore {k u} (h : s.MemOk) : (s.modCore k u).MemOk := h

theorem State.MemOk.setQuad {k v} (h : s.MemOk) : (s.setQuad k v).MemOk := h

theorem State.MemOk.modQuad {k u} (h : s.MemOk) : (s.modQuad k u).MemOk := h

theorem State.MemOk.modCluster {k u} (h : s.MemOk) : (s.modCluster k u).MemOk := h

theorem State.MemOk.modSlice {k u} (h : s.MemOk) : (s.modSlice k u).MemOk := h

theorem State.MemOk.modCtx {k u} (h : s.MemOk) : (s.modCtx k u).MemOk := h

theorem State.MemOk.modVf {k u} (h : s.MemOk) : (s.modVf k u).MemOk := h

theorem State.MemOk.disableWork {cx mine} (h : s.MemOk) : (s.disableWork cx mine).MemOk := h

theorem State.MemOk.dropTokens {sl c} (h : s.MemOk) : (s.dropTokens sl c).MemOk := h

theorem State.MemOk.s2Leave {cx p} (h : s.MemOk) : (s.s2Leave cx p).MemOk := h

theorem State.MemOk.stopSlice {sl} (h : s.MemOk) : (s.stopSlice sl).MemOk := h

theorem State.MemOk.meetAll {mine p} (h : s.MemOk) : (s.meetAll mine p).MemOk := h

theorem State.MemOk.refreshHeads {sl} (h : s.MemOk) : (s.refreshHeads sl).MemOk := h

theorem State.MemOk.sentDone {ops vs} (h : s.MemOk) : (s.sentDone ops vs).MemOk := h

theorem State.MemOk.setPower {p} (h : s.MemOk) : (s.setPower p).MemOk := h

theorem State.MemOk.afterSave {sl} (h : s.MemOk) : (s.afterSave sl).MemOk := h

theorem State.MemOk.noToken {sl} (h : s.MemOk) : (s.noToken sl).MemOk := h

theorem State.MemOk.bump (h : s.MemOk) : s.bump.MemOk := h

theorem State.MemOk.note {k v} (h : s.MemOk) : (s.note k v).MemOk := h

/-! ## The operations that write memory -/

theorem State.MemOk.wrByte {key loc b} (h : s.MemOk) : (s.wrByte key loc b).MemOk := wf_wrByte s key loc b h

theorem State.MemOk.putAll {key ws} (h : s.MemOk) : (s.putAll key ws).MemOk := wf_putAll s key ws h

theorem State.MemOk.wrAll {key ws} (h : s.MemOk) : (s.wrAll key ws).MemOk := wf_wrAll s key ws h

theorem State.MemOk.wrBytes {key loc bs} (h : s.MemOk) : (s.wrBytes key loc bs).MemOk := wf_wrBytes s key loc bs h

/-- What the host writes keeps the canonical form (06:R157). -/
theorem State.MemOk.wrHost {key loc bs} (h : s.MemOk) : (s.wrHost key loc bs).MemOk := wf_setBytes _ _ _ h

/-- The scrub of a slice drops its locations (14:R365). -/
theorem State.MemOk.clearSlice {sl own} (h : s.MemOk) : (s.clearSlice sl own).MemOk := wf_filter _ _ h

/-- A restore puts back what an image holds of the slice's own memories (14:R361). -/
theorem State.MemOk.putImage {sl im} (h : s.MemOk) : (s.putImage sl im).MemOk := wf_setAll _ _ h

/-- Of a package without power host and peer memory stay (24:R472). -/
theorem State.MemOk.dark {trip} (h : s.MemOk) : (s.dark trip).MemOk := wf_filter _ _ h

/-! ## Translation and dirty pages (04:R111, R112, 14:R370) -/

theorem State.MemOk.atArbiter {k : State → State} (hk : ∀ t, t.MemOk → (k t).MemOk) (h : s.MemOk) : (s.atArbiter k).MemOk := .ite (hk _ h) h

theorem State.MemOk.event {kind sl cx vf detail value} (h : s.MemOk) : (s.event kind sl cx vf detail value).MemOk := .ite h h

theorem State.MemOk.dirtyLog {cx ipage} (h : s.MemOk) : (s.dirtyLog cx ipage).MemOk := .ite h (.ite h (.event h))

theorem State.MemOk.setD {cx ipa} (h : s.MemOk) : (s.setD cx ipa).MemOk := by
  unfold State.setD
  split
  · exact .ite (.wrByte (.dirtyLog h)) h
  · exact h

theorem State.MemOk.dirtyVa {cx va} (h : s.MemOk) : (s.dirtyVa cx va).MemOk := by
  unfold State.dirtyVa
  split
  · exact .setD h
  · exact h

theorem State.MemOk.noteAccess {qk cx va wr} (h : s.MemOk) : (s.noteAccess qk cx va wr).MemOk := by
  dsimp only [State.noteAccess]
  split
  · exact .modCluster (.modQuad (.ite (.setD h) h))
  · exact h

/-! ## Reports and kills (18:R393, 21:R437 to R442) -/

theorem State.MemOk.closeSession {id detail} (h : s.MemOk) : (s.closeSession id detail).MemOk := .ite (.event h) h

theorem State.MemOk.retireKey {cx} (h : s.MemOk) : (s.retireKey cx).MemOk := by
  dsimp only [State.retireKey]
  split <;> exact .foldl (fun _ _ h => .closeSession h) h

theorem State.MemOk.lostAt {sl cx vf pa} (h : s.MemOk) : (s.lostAt sl cx vf pa).MemOk := .event h

theorem State.MemOk.killPart {cx p bs} (h : s.MemOk) : (s.killPart cx p bs).MemOk := .ite (.wrBytes (.setD h)) (.lostAt (.setD h))

theorem State.MemOk.killDone {cx l} (h : s.MemOk) : (s.killDone cx l).MemOk := by
  refine .ite h ?_
  split
  · exact .killPart (.killPart h)
  · exact h

theorem State.MemOk.dropSole {p} (h : s.MemOk) : (s.dropSole p).MemOk := by
  dsimp only [State.dropSole]
  split
  · exact .ite h h
  · exact h

theorem State.MemOk.killRecord {sl cx cause last core gslot tc tpc tmk tva} (h : s.MemOk) :
    (s.killRecord sl cx cause last core gslot tc tpc tmk tva).MemOk :=
  .event h

theorem State.MemOk.killDones {cx} {ls : List Launch} (h : s.MemOk) : (ls.foldl (fun t l => t.killDone cx l) s).MemOk := .foldl (fun _ _ h => .killDone h) h

theorem State.MemOk.kill {cx cause last core gslot tc tpc tmk tva} (h : s.MemOk) :
    (s.kill cx cause last core gslot tc tpc tmk tva).MemOk :=
  .ite (.modSlice (.dropSole (.stopSlice (.dropTokens (.modCtx (.s2Leave (.retireKey (.disableWork (.killDones (.killRecord h))))))))))
    (.dropTokens (.modCtx (.s2Leave (.retireKey (.disableWork (.killDones (.killRecord h)))))))

theorem State.MemOk.killPlain {cx cause} (h : s.MemOk) : (s.killPlain cx cause).MemOk := .kill h

/-! ## Squashes and aborts (06:R150, R151) -/

theorem State.MemOk.writeRegs {lat dst vals} (h : s.MemOk) : (s.writeRegs lat dst vals).MemOk := .ite h h

theorem State.MemOk.undoOne {key size loc old} (h : s.MemOk) : (s.undoOne key size loc old).MemOk := .putAll h

theorem State.MemOk.undoSpec {gk} (h : s.MemOk) : (s.undoSpec gk).MemOk := .modGang (.foldl (fun _ _ h => .foldl (fun _ _ h => .undoOne h) h) h)

theorem State.MemOk.abortTask {gk t} (h : s.MemOk) : (s.abortTask gk t).MemOk := .modSlice (.modGang (.undoSpec h))

theorem State.MemOk.squashChunk {gk} (h : s.MemOk) : (s.squashChunk gk).MemOk := .ite h (.ite (.ite h h) h)

theorem State.MemOk.squashGang {gk} (h : s.MemOk) : (s.squashGang gk).MemOk := by
  dsimp only [State.squashGang]
  split
  · exact h
  · exact .ite (.abortTask h) (.squashChunk h)
  · exact .squashChunk h

theorem State.MemOk.squashList {gks} (h : s.MemOk) : (s.squashList gks).MemOk := by
  induction gks generalizing s with
  | nil => exact h
  | cons gk t ih => exact ih (.squashGang h)

theorem State.MemOk.squashReaders {except_ secs} (h : s.MemOk) : (s.squashReaders except_ secs).MemOk := .squashList h

theorem State.MemOk.squashUsers {secs} (h : s.MemOk) : (s.squashUsers secs).MemOk := .squashList h

theorem State.MemOk.squashMail {except_ mb} (h : s.MemOk) : (s.squashMail except_ mb).MemOk := .squashList h

/-! ## Commits, and the next word (06:R153 to R156) -/

theorem State.MemOk.consumeMail {gk ck m} (h : s.MemOk) : (s.consumeMail gk ck m).MemOk := by
  refine .ite ?_ h
  split <;> exact .squashMail h

theorem State.MemOk.recordFault {who cause detail flt va} (h : s.MemOk) : (s.recordFault who cause detail flt va).MemOk := .ite h h

theorem State.MemOk.doExts {gk exts} (h : s.MemOk) : (s.doExts gk exts).MemOk := by
  dsimp only [State.doExts]
  split
  · exact .wrAll h
  · exact .recordFault (.lostAt (.wrAll h))

theorem State.MemOk.dirAll {sl f secs} (h : s.MemOk) : (s.dirAll sl f secs).MemOk := .foldl (fun _ _ h => h) h

theorem State.MemOk.uncacheAll {secs} (h : s.MemOk) : (s.uncacheAll secs).MemOk := .foldl (fun _ _ h => .dirAll h) h

theorem State.MemOk.dirRead {gk secs} (h : s.MemOk) : (s.dirRead gk secs).MemOk := .dirAll h

theorem State.MemOk.dirWrite {gk secs} (h : s.MemOk) : (s.dirWrite gk secs).MemOk := .dirAll h

theorem State.MemOk.releaseSole {gk} (h : s.MemOk) : (s.releaseSole gk).MemOk := .dropSole h

theorem State.MemOk.commitNow {gk} (h : s.MemOk) : (s.commitNow gk).MemOk :=
  .foldl (fun _ _ h => .consumeMail h) (.squashReaders (.releaseSole (.modGang (.doExts (.dirAll (.dirWrite (.wrAll h)))))))

theorem State.MemOk.taskToLow {gk} (h : s.MemOk) : (s.taskToLow gk).MemOk := .modGang (.undoSpec h)

theorem State.MemOk.before {k : State → State} (hk : ∀ t, t.MemOk → (k t).MemOk) (h : s.MemOk) : (s.before k).MemOk :=
  .ite (.taskToLow h) (.ite (hk _ h) (.ite h (hk _ (.modGang (.commitNow h)))))

theorem State.MemOk.retire {st r} (h : s.MemOk) : (s.retire st r).MemOk := .ite (.commitNow h) h

theorem State.MemOk.finish {st} (h : s.MemOk) : (s.finish st).MemOk := .retire h

theorem State.MemOk.finishAt {st target} (h : s.MemOk) : (s.finishAt st target).MemOk := .retire h

theorem State.MemOk.retireEnd {st r} (h : s.MemOk) : (s.retireEnd st r).MemOk := .retire h

theorem State.MemOk.finishEnd {st} (h : s.MemOk) : (s.finishEnd st).MemOk := .retireEnd h

/-! ## Stage-2 faults, stores into the chunk, far accesses (19:R406, 10:R265) -/

theorem State.MemOk.s2Enter {v sl r} (h : s.MemOk) : (s.s2Enter v sl r).MemOk := .ite h (.ite h h)

theorem State.MemOk.stage2Record {u gk va ipa wr table perm eng} (h : s.MemOk) : (s.stage2Record u gk va ipa wr table perm eng).MemOk := .s2Enter h

theorem State.MemOk.stage2Wait {va ipa wr table perm} (h : s.MemOk) : (s.stage2Wait va ipa wr table perm).MemOk := .modGang (.stage2Record h)

theorem State.MemOk.sectorRoom {secs} {k : State → State} (hk : ∀ t, t.MemOk → (k t).MemOk) (h : s.MemOk) : (s.sectorRoom secs k).MemOk :=
  .ite (hk _ h) (.before hk h)

theorem State.MemOk.storeLane {size e v} (h : s.MemOk) : (s.storeLane size e v).MemOk := .ite h h

theorem State.MemOk.logRoom {k : State → State} (hk : ∀ t, t.MemOk → (k t).MemOk) (h : s.MemOk) : (s.logRoom k).MemOk := .ite (.before hk h) (hk _ h)

theorem State.MemOk.of_some (e : some s = some t) (h : s.MemOk) : t.MemOk := Option.some.inj e ▸ h

theorem State.MemOk.of_specGate {gk loc size} (h : s.MemOk) (e : s.specGate gk loc size = some t) : t.MemOk := by
  unfold State.specGate at e
  cases hk : s.specHolder gk loc size with
  | none =>
    rw [hk] at e
    exact .of_some e h
  | some k =>
    rw [hk] at e
    obtain ⟨-, e⟩ := Option.ite_none_right_eq_some.mp e
    split at e
    · exact .of_some e (.abortTask h)
    · cases e

theorem State.MemOk.farNow {xs} (h : s.MemOk) : (s.farNow xs).2.MemOk := by
  induction xs generalizing s with
  | nil => exact h
  | cons x t ih =>
    have hgate : ((s.specGate s.cur x.loc 8).getD s).MemOk := .getD (fun _ => .of_specGate h) h
    exact ih (.ite (.squashUsers (.wrBytes hgate)) hgate)

theorem State.MemOk.spillOne {tl lane a v} (h : s.MemOk) : (s.spillOne tl lane a v).MemOk := by
  dsimp only [State.spillOne]
  split
  · exact .ite (.ite (.noteAccess h) h) (.storeLane (.ite (.noteAccess h) h))
  · exact h

theorem State.MemOk.fillOne {tl a res} (h : s.MemOk) : (s.fillOne tl a res).2.MemOk := by
  dsimp only [State.fillOne]
  split
  · split
    · exact .ite (.noteAccess h) h
    · exact .dirRead (.modGang (.ite (.noteAccess h) h))
  · exact h

theorem State.MemOk.spillFrame {tl lane f} (h : s.MemOk) : (s.spillFrame tl lane f).MemOk := .foldl (fun _ _ h => .spillOne h) h

theorem State.MemOk.fillFrame {tl lane res f} (h : s.MemOk) : (s.fillFrame tl lane res f).MemOk := by
  refine .foldl (fun _ _ h => .modGang ?_) h
  dsimp only
  split
  · split
    · exact .ite (.noteAccess h) h
    · exact .dirRead (.modGang (.ite (.noteAccess h) h))
  · exact h

theorem State.MemOk.doSlide {tl zero res p} (h : s.MemOk) : (s.doSlide tl zero res p).MemOk := by
  refine .modGang ?_
  split
  · exact .foldl (fun _ _ h => .spillFrame h) h
  · exact .fillFrame (.foldl (fun _ _ h => .spillFrame h) h)

theorem State.MemOk.slideFar {tl as} (h : s.MemOk) : (s.slideFar tl as).2.MemOk := by
  dsimp only [State.slideFar]
  split
  · exact h
  · split
    · exact h
    · exact .modGang (.farNow h)

theorem State.MemOk.slides {tl zero ps} (h : s.MemOk) : (s.slides tl zero ps).MemOk := .foldl (fun _ _ => .doSlide) (.slideFar h)

theorem State.MemOk.slideWait {tl ps} {k : State → State} (hk : ∀ t, t.MemOk → (k t).MemOk) (h : s.MemOk) : (s.slideWait tl ps k).MemOk :=
  .ite h (.ite (hk _ h) (.ite h (.logRoom hk h)))

/-! ## Traps and the return from one (18:R384 to R391) -/

theorem State.MemOk.killFor {gk cause last v} (h : s.MemOk) : (s.killFor gk cause last v).MemOk := .kill h

theorem State.MemOk.leaveLine {gk} (h : s.MemOk) : (s.leaveLine gk).MemOk := .ite h h

theorem State.MemOk.dueDone {gk} (h : s.MemOk) : (s.dueDone gk).MemOk := by
  dsimp only [State.dueDone]
  split <;> exact h

theorem State.MemOk.enterTrap {cause v} (h : s.MemOk) : (s.enterTrap cause v).MemOk := by
  dsimp only [State.enterTrap]
  split
  · exact .killFor h
  · exact .stage2Wait h
  · exact .ite h (.ite h (.modGang (.dueDone (.leaveLine (.commitNow (.slides h))))))

theorem State.MemOk.takeDue (h : s.MemOk) : (s.takeDue).MemOk := by
  dsimp only [State.takeDue]
  split
  · exact h
  · refine .ite (.killFor h) (.ite h (.ite (.modGang ?_) (.ite (.modGang ?_) (.enterTrap (.modGang ?_)))))
    all_goals exact .ite h (.commitNow h)

theorem State.MemOk.trapWith {word ret cause flt va src} (h : s.MemOk) : (s.trapWith word ret cause flt va src).MemOk :=
  .ite (.taskToLow h) (.takeDue h)

theorem State.MemOk.trap {cause flt va src} (h : s.MemOk) : (s.trap cause flt va src).MemOk := .trapWith h

theorem State.MemOk.trapAll {cause} (h : s.MemOk) : (s.trapAll cause).MemOk := .trap h

/-! ## The end of lanes and gangs (03:R71) -/

theorem State.MemOk.spillDiv {gk div} (h : s.MemOk) : (s.spillDiv gk div).MemOk := .foldl (fun _ _ h => .wrBytes h) h

theorem State.MemOk.closeStream {qk} (h : s.MemOk) : (s.closeStream qk).MemOk := .ite h h

theorem State.MemOk.endGang {gk} (h : s.MemOk) : (s.endGang gk).MemOk := .setGang (.leaveLine (.releaseSole (.ite (.closeStream h) h)))

theorem State.MemOk.settle {st r} (h : s.MemOk) : (s.settle st r).MemOk := by
  refine .ite (.ite h (.endGang (.retire h))) ?_
  split
  · exact .retire h
  · exact .trap (.retire h)

theorem State.MemOk.eretAt {st k} (h : s.MemOk) : (s.eretAt st k).MemOk := by
  refine .ite (.trapAll h) (.ite (.trapAll h) ?_)
  dsimp only
  split
  · exact .trap h
  · exact .stage2Wait h
  · exact .slideWait (fun _ h => .retireEnd (.slides h)) h

end Sys2Proof.Machine
end

section
/-!
The canonical form of memory under the meanings of words. A meaning that is one rule applied stands in the table of `exec_memOk` alone.
-/

namespace Sys2Proof.Machine

variable {s t : State}

/-! ## Register words (09:R237 to R242, 11:R288) -/

theorem State.MemOk.put {st lat d vs} (h : s.MemOk) : (s.put st lat d vs).MemOk := .finish (.writeRegs h)

theorem State.MemOk.alu {st lat d g f} (h : s.MemOk) : (s.alu st lat d g f).MemOk := .put h

theorem State.MemOk.alu2 {st lat d a b g f} (h : s.MemOk) : (s.alu2 st lat d a b g f).MemOk := .alu h

theorem State.MemOk.alu1 {st lat d a g f} (h : s.MemOk) : (s.alu1 st lat d a g f).MemOk := .alu h

theorem State.MemOk.aluSel {st d a b g f} (h : s.MemOk) : (s.aluSel st d a b g f).MemOk := .put h

theorem State.MemOk.aluI {st d a f} (h : s.MemOk) : (s.aluI st d a f).MemOk := .put h

theorem State.MemOk.divide {st d a b g w f} (h : s.MemOk) : (s.divide st d a b g w f).MemOk := .ite (.alu2 h) (.trap h)

theorem State.MemOk.putP {st lat d vs} (h : s.MemOk) : (s.putP st lat d vs).MemOk := .finish (.writeRegs h)

theorem State.MemOk.cmp {st d a b g f} (h : s.MemOk) : (s.cmp st d a b g f).MemOk := .putP h

theorem State.MemOk.fcmp {st d a b g f} (h : s.MemOk) : (s.fcmp st d a b g f).MemOk := .putP h

theorem State.MemOk.plogic {st d a b g f} (h : s.MemOk) : (s.plogic st d a b g f).MemOk := .putP h

theorem State.MemOk.fp {st lat d g f} (h : s.MemOk) : (s.fp st lat d g f).MemOk := .put h

theorem State.MemOk.fp2 {st lat d a b g f} (h : s.MemOk) : (s.fp2 st lat d a b g f).MemOk := .fp h

theorem State.MemOk.fp1 {st lat d a g f} (h : s.MemOk) : (s.fp1 st lat d a g f).MemOk := .fp h

theorem State.MemOk.fp3 {st d a b g np nd} (h : s.MemOk) : (s.fp3 st d a b g np nd).MemOk := .fp h

theorem State.MemOk.cvtWide {st d a g fmt n} (h : s.MemOk) : (s.cvtWide st d a g fmt n).MemOk := .fp h

theorem State.MemOk.cvtNarrow {st d a t g fmt} (h : s.MemOk) : (s.cvtNarrow st d a t g fmt).MemOk := .fp h

theorem State.MemOk.cvtFromInt {st d a g f} (h : s.MemOk) : (s.cvtFromInt st d a g f).MemOk := .fp h

theorem State.MemOk.cvtToInt {st d a g w lo hi} (h : s.MemOk) : (s.cvtToInt st d a g w lo hi).MemOk := .fp h

theorem State.MemOk.cvtPack {st d a t g fmt n} (h : s.MemOk) : (s.cvtPack st d a t g fmt n).MemOk := .fp h

/-! ## Loads, stores and atomics (10:R262 to R272) -/

theorem State.MemOk.checked {cs wr} {k : State → State} (hk : ∀ t, t.MemOk → (k t).MemOk) (h : s.MemOk) : (s.checked cs wr k).MemOk := by
  dsimp only [State.checked]
  split
  · exact hk _ h
  · exact .trap h
  · exact .stage2Wait h

theorem State.MemOk.noteAll {wr ps} (h : s.MemOk) : (s.noteAll wr ps).MemOk := .foldl (fun _ _ h => .ite (.noteAccess h) h) h

theorem State.MemOk.counted {ctr} {k : State → State} (hk : ∀ t, t.MemOk → (k t).MemOk) (h : s.MemOk) : (s.counted ctr k).MemOk := by
  dsimp only [State.counted]
  split
  · exact hk _ h
  · exact .ite h (hk _ h)

theorem State.MemOk.farIssue {op use size ext lanes ctr dst vals slots tcm after} (h : s.MemOk) :
    (s.farIssue op use size ext lanes ctr dst vals slots tcm after).MemOk := by
  dsimp only [State.farIssue]
  split
  · exact .ite h h
  · exact .bump (.modGang (.ite h h))

theorem State.MemOk.injecting {k : State → State} (hk : ∀ t, t.MemOk → (k t).MemOk) (h : s.MemOk) : (s.injecting k).MemOk := .ite h (hk _ h)

theorem State.MemOk.sending {ps} {k : State → State} (hk : ∀ t, t.MemOk → (k t).MemOk) (h : s.MemOk) : (s.sending ps k).MemOk :=
  .ite (.injecting hk h) (hk _ h)

theorem State.MemOk.load {st d va size ctr sx na} (h : s.MemOk) : (s.load st d va size ctr sx na).MemOk := by
  refine .counted (fun _ h => .checked (fun _ h => .sending (fun _ h => .ite ?_ (.logRoom (fun _ h => ?_) h)) h) h) h
  all_goals refine .finish (.ite (.bump (.modGang ?_)) (.farIssue ?_))
  all_goals exact .ite (.modGang (.noteAll h)) (.dirRead (.modGang (.noteAll h)))

theorem State.MemOk.store {st d va size na} (h : s.MemOk) : (s.store st d va size na).MemOk := by
  refine .checked (fun _ h => .sectorRoom (fun _ h => .ite ?_ (.injecting (fun _ h => .logRoom (fun _ h => ?_) h) h)) h) h
  all_goals refine .finish (.ite ?_ (.farIssue ?_))
  all_goals exact .ite (.modGang (.foldl (fun _ _ h => .storeLane h) (.noteAll h))) (.foldl (fun _ _ h => .storeLane h) (.noteAll h))

theorem State.MemOk.natom {st op d a b z} (h : s.MemOk) : (s.natom st op d a b z).MemOk :=
  .counted (fun _ => .checked fun _ => .sectorRoom fun _ => .sending fun _ h =>
    .finish (.foldl_snd (fun _ _ h => h) (.dirRead (.noteAll h)))) h

theorem State.MemOk.fatom {st op d a b u z} (h : s.MemOk) : (s.fatom st op d a b u z).MemOk :=
  .ite (.trapAll h) (.counted (fun _ h => .checked (fun _ h => .injecting (fun _ h => .ite (.before (fun _ h => .ite h (.finish (.farIssue (.noteAll
    h)))) h) (.logRoom (fun _ h => .ite h (.finish (.farIssue (.noteAll h)))) h)) h) h) h)

/-! ## Words that send and wait: barriers, counters and tiles (10:R274 to R280) -/

theorem State.MemOk.sentOnce {ops release} {replay : List Nat → State → State} {k : State → State} (hreplay : ∀ x t, t.MemOk → (replay x t).MemOk)
    (hk : ∀ t, t.MemOk → (k t).MemOk) (h : s.MemOk) :
    (s.sentOnce ops release replay k).MemOk := by
  refine .before (fun _ h => ?_) h
  dsimp only
  split
  · exact .ite (hreplay _ _ h) (hk _ h)
  · split
    · exact hk _ h
    · exact .ite (hk _ h) h

theorem State.MemOk.barrier {k free_} {f : CrewRes → Barrier → State → State} (hf : ∀ x y t, t.MemOk → (f x y t).MemOk) (h : s.MemOk) :
    (s.barrier k free_ f).MemOk := by
  dsimp only [State.barrier]
  split
  · exact .trapAll h
  · exact .ite (hf _ _ _ h) (.trapAll h)

theorem State.MemOk.arrive {k x b} {f : W32 → State → State} (hf : ∀ x t, t.MemOk → (f x t).MemOk) (h : s.MemOk) : (s.arrive k x b f).MemOk :=
  .ite (.trapAll h) (hf _ _ h)

theorem State.MemOk.waiting {ops kind} {done k : State → State} (hdone : ∀ t, t.MemOk → (done t).MemOk) (hk : ∀ t, t.MemOk → (k t).MemOk)
    (h : s.MemOk) : (s.waiting ops kind done k).MemOk := by
  dsimp only [State.waiting]
  split
  · exact .ite (hdone _ h) h
  · exact hk _ h

theorem execBaraw_memOk {st d k c} (h : s.MemOk) : NextMemOk (execBaraw st d k c s) :=
  .next (.sentOnce (fun _ _ h => .finish h) (fun _ h => .waiting (fun _ h => .finish h) (fun _ h => .barrier (fun _ _ _ h => .arrive (fun _ _ h =>
    .ite (.finish h) h) h) h) h) h)

theorem State.MemOk.setTile {cx i x} (h : s.MemOk) : (s.setTile cx i x).MemOk := by
  unfold State.setTile
  exact .ite (.refreshHeads (.meetAll (.squashUsers (.dirtyVa (.wrBytes h))))) (.meetAll (.squashUsers (.dirtyVa (.wrBytes h))))

theorem State.MemOk.arbitrate {k : State → State} (hk : ∀ t, t.MemOk → (k t).MemOk) (h : s.MemOk) : (s.arbitrate k).MemOk := .ite (hk _ h) h

theorem State.MemOk.tileOp {st a release} {out : State → State} {k : List FarLane → Nat → TileSt → State → State}
    (hout : ∀ t, t.MemOk → (out t).MemOk) (hk : ∀ x y z t, t.MemOk → (k x y z t).MemOk) (h : s.MemOk) :
    (s.tileOp st a release out k).MemOk :=
  .sentOnce (fun _ _ h => .finish (hout _ h)) (fun _ h => .waiting (fun _ h => .finish (hout _ h)) (fun _ h => .ite (.trapAll h) (hk _ _ _ _ h)) h)
    h

theorem State.MemOk.tileWait {st a full} (h : s.MemOk) : (s.tileWait st a full).MemOk :=
  .tileOp (fun _ h => h) (fun _ _ _ _ h => .ite (.finish h) h) h

theorem State.MemOk.tileSet {st a c f} (h : s.MemOk) : (s.tileSet st a c f).MemOk := by
  refine .tileOp (fun _ h => h) (fun _ _ _ _ h => .arbitrate (fun _ h => ?_) h) h
  split
  · exact .trapAll h
  · exact .finish (.sentDone (.setTile h))

/-! ## Mailboxes (10:R281) -/

theorem State.MemOk.of_enterMail {ck m v} (h : s.MemOk) (e : s.enterMail ck m v = some t) : t.MemOk := by
  unfold State.enterMail at e
  dsimp only at e
  split at e
  · split at e
    · cases e
    · exact .of_some e (.squashMail h)
  · split at e
    · cases e
    · exact .of_some e h

theorem State.MemOk.of_enterHeld {qk ck m v} (h : s.MemOk) (e : s.enterHeld qk ck m v = some t) : t.MemOk := by
  unfold State.enterHeld at e
  split at e
  · cases e
  · exact .of_enterMail h e

theorem State.MemOk.putmGo {b held ws n} (h : s.MemOk) : (s.putmGo b held ws n).2.MemOk := by
  induction ws generalizing s held n with
  | nil => exact h
  | cons w ws ih =>
    unfold State.putmGo
    split
    · exact h
    · split
      · split
        · exact h
        · next e => exact ih (.of_enterHeld h e)
      · exact ih h

theorem execPutm_memOk {st d a b g} (h : s.MemOk) : NextMemOk (execPutm st d a b g s) := by
  refine .next ?_
  dsimp only
  split
  · exact .trap h
  · exact .sentOnce (fun _ _ h => .finish h) (fun _ h => .ite (.finish (.modGang (.putmGo h))) (.modGang (.modGang (.putmGo h)))) h

/-! ## The wide accumulator (11:R293 to R295) -/

theorem State.MemOk.accUpdate {st a g clr f} (h : s.MemOk) : (s.accUpdate st a g clr f).MemOk :=
  .checked (fun _ h => .sectorRoom (fun _ h => .finish (.foldl (fun _ _ h => h) h)) h) h

theorem State.MemOk.accHold {n} (h : s.MemOk) : (s.accHold n).MemOk := .ite h (.modGang (.foldl (fun _ _ h => h) h))

theorem State.MemOk.accRound {st a g f} (h : s.MemOk) : (s.accRound st a g f).MemOk :=
  .checked (fun _ h => .accHold (.finish (.foldl (fun _ _ h => .foldl (fun _ _ h => h) h) h))) h

/-! ## Control and loops (09:R244 to R255) -/

theorem State.MemOk.landed {ps} {k : State → State} (hk : ∀ t, t.MemOk → (k t).MemOk) (h : s.MemOk) : (s.landed ps k).MemOk :=
  .ite h (.ite h (hk _ h))

theorem State.MemOk.endLanes {st m} (h : s.MemOk) : (s.endLanes st m).MemOk := by
  refine .ite (.settle (.spillDiv ?_)) (.retire (.spillDiv ?_))
  · split <;> exact h
  · split <;> exact h

theorem execJoin_memOk {st} (h : s.MemOk) : NextMemOk (execJoin st s) := by
  refine .next (.ite (.finish h) ?_)
  dsimp only
  split
  · exact .finish h
  · exact .ite (.settle h) (.ite (.ite (.trap h) (.retire h)) (.trapAll h))

theorem State.MemOk.slideThen {ps zero} {k : State → State} (hk : ∀ t, t.MemOk → (k t).MemOk) (h : s.MemOk) : (s.slideThen ps zero k).MemOk := by
  dsimp only [State.slideThen]
  split
  · exact .trap h
  · exact .stage2Wait h
  · exact .sectorRoom (fun _ h => .slideWait (fun _ h => hk _ (.slides h)) h) h

theorem State.MemOk.target {o} {k : Nat → State} (hk : ∀ n, (k n).MemOk) (h : s.MemOk) : (s.target o k).MemOk := .ite (hk _) (.trapAll h)

theorem State.MemOk.jump {st t} (h : s.MemOk) : (s.jump st t).MemOk := .retire h

theorem State.MemOk.regOp {st f} (h : s.MemOk) : (s.regOp st f).MemOk := .finish h

/-! ## Launch heads and routes (07:R184, 02:R30) -/

theorem State.MemOk.selFault {u sl va ipa wr table perm} (h : s.MemOk) : (s.selFault u sl va ipa wr table perm).MemOk := .stage2Record h

theorem State.MemOk.addHead {sl c hs} (h : s.MemOk) : (s.addHead sl c hs).MemOk := .ite h h

theorem State.MemOk.readHead {sl c src desc tag args flagsBad tabEnt} (h : s.MemOk) : (s.readHead sl c src desc tag args flagsBad tabEnt).MemOk := by
  refine .ite h ?_
  dsimp only
  split
  · exact h
  · exact .addHead h

theorem State.MemOk.queueHead {sl c n q} (h : s.MemOk) : (s.queueHead sl c n q).MemOk := .ite h (.readHead h)

theorem State.MemOk.devHead {sl} (h : s.MemOk) : (s.devHead sl).MemOk := by
  dsimp only [State.devHead]
  split
  · exact h
  · exact .ite h (.readHead h)

theorem State.MemOk.tabHead {sl e} (h : s.MemOk) : (s.tabHead sl e).MemOk := by
  dsimp only [State.tabHead]
  split
  · exact h
  · exact .ite h (.readHead h)

theorem State.MemOk.allHeads {sl} (h : s.MemOk) : (s.allHeads sl).MemOk := by
  dsimp only [State.allHeads]
  split
  · exact h
  · exact .foldl (fun _ _ h => .foldl (fun _ _ h => .tabHead h) h) (.devHead (.foldl (fun _ _ h => .ite (.queueHead h) h) h))

/-! ## Transfers (09:R245 to R250) -/

theorem State.MemOk.routeFill {qk t} (h : s.MemOk) : (s.routeFill qk t).MemOk := .ite h h

theorem State.MemOk.spillDeque {ck} (h : s.MemOk) : (s.spillDeque ck).MemOk := .foldl (fun _ _ h => .wrBytes h) h

theorem State.MemOk.pushDeque {ck ps} (h : s.MemOk) : (s.pushDeque ck ps).2.MemOk := by
  induction ps generalizing s with
  | nil => exact h
  | cons p ps ih =>
    unfold State.pushDeque
    dsimp only
    split
    · exact ih h
    · exact ih (.spillDeque h)

theorem State.MemOk.release {qk ck dq far} (h : s.MemOk) : (s.release qk ck dq far).MemOk := .modQuad (.ite (.pushDeque h) (.modCore (.pushDeque h)))

theorem State.MemOk.fillAll {lanes hs} (h : s.MemOk) : (s.fillAll lanes hs).MemOk := by
  refine .foldl (fun _ _ h => ?_) h
  split
  · exact .routeFill h
  · exact h

theorem State.MemOk.sendAll {kind lanes hs link} (h : s.MemOk) : (s.sendAll kind lanes hs link).MemOk :=
  .ite (.modGang (.fillAll h)) (.release (.fillAll h))

theorem State.MemOk.backLane {kind res l} (h : s.MemOk) : (s.backLane kind res l).2.MemOk := by
  unfold State.backLane
  split <;> dsimp only
  · exact .modGang (.spillOne (.doSlide h))
  · exact .modGang (.fillOne h)

theorem State.MemOk.backing {kind lanes} {k : (Nat → Word) → State → State} (hk : ∀ f t, t.MemOk → (k f t).MemOk) (h : s.MemOk) :
    (s.backing kind lanes k).MemOk := by
  cases kind with
  | call | ret =>
    dsimp only [State.backing]
    split
    · exact .trap h
    · exact .stage2Wait h
    · refine .ite h (.ite h (hk _ _ (.modGang (.commitNow ?_))))
      exact .foldl_snd (fun _ _ h => .backLane h) (.slideFar h)
  | _ => exact hk _ _ h

theorem State.MemOk.transfer {st g kind hs} (h : s.MemOk) : (s.transfer st g kind hs).MemOk := by
  dsimp only [State.transfer]
  split
  · exact .trap h
  · exact .ite h (.ite h (.backing (fun _ _ h => .ite (.ite (.settle (.spillDiv (.sendAll h))) (.retire (.spillDiv (.sendAll h)))) (.finish
      (.sendAll h))) h))

theorem State.MemOk.xfer {st g kind} {hs : State → Nat → Word} (h : s.MemOk) : (s.xfer st g kind hs).MemOk :=
  .ite (.trapAll h) (.ite (.transfer h) (.before (fun _ h => .transfer h) h))

theorem State.MemOk.devAppend {sl ds n} (h : s.MemOk) : (s.devAppend sl ds n).2.MemOk := by
  induction ds generalizing s n with
  | nil => exact h
  | cons d ds ih =>
    unfold State.devAppend
    split
    · exact h
    · exact ih (.devHead h)

/-! ## Streams (10:R284, R285) -/

theorem State.MemOk.audited {k : State → State} (hk : ∀ t, t.MemOk → (k t).MemOk) (h : s.MemOk) : (s.audited k).MemOk := by
  dsimp only [State.audited]
  split
  · exact .ite (.trap h) (hk _ h)
  · exact hk _ h

theorem State.MemOk.takeLinks {qk ls} (h : s.MemOk) : (s.takeLinks qk ls).MemOk := by
  induction ls generalizing s with
  | nil => exact h
  | cons l t ih => exact .ite (ih h) h

theorem State.MemOk.openRoute (h : s.MemOk) : (s.openRoute).MemOk := by
  refine .ite h ?_
  split
  · exact h
  · exact .takeLinks h

theorem execSopen_memOk {st d a} (h : s.MemOk) : NextMemOk (execSopen st d a s) := by
  refine .next (.sentOnce (fun _ _ h => .finish h) (fun _ h => .ite (.audited (fun _ h => ?_) h) ?_) h)
  · exact .ite (.finish (.modGang (.modQuad (.modQuad (.openRoute h))))) (.modGang (.modGang (.openRoute h)))
  · refine .ite (.audited (fun _ h => .trapAll h) h) (.ite (.trap h) (.ite h ?_))
    exact .ite (.finish (.modGang (.modQuad (.modQuad (.openRoute h))))) (.modGang (.modGang (.openRoute h)))

theorem State.MemOk.streamSend {st d g last} (h : s.MemOk) : (s.streamSend st d g last).MemOk :=
  .sentOnce (fun _ _ h => .finish h) (fun _ h => .ite (.trapAll h) (.audited (fun _ h => .ite h (.finish (.modGang (.ite h h)))) h)) h

theorem execSget_memOk {st d p g} (h : s.MemOk) : NextMemOk (execSget st d p g s) := by
  refine .next (.sentOnce (fun _ _ h => .finish h) (fun _ h => .audited (fun _ h => .ite ?_ h) h) h)
  dsimp only
  split
  · exact h
  · exact .finish (.modGang (.modGang (.modGang (.modGang (.modQuad (.leaveLine h))))))

/-! ## Control registers, records and counters (09:R257 to R260) -/

theorem State.MemOk.csrWrite {i v} (h : s.MemOk) : (s.csrWrite i v).MemOk :=
  .ite (.ite h h) (.ite h (.ite (.ite h h) (.ite (.ite h h) (.ite (.ite h h) (.ite h (.ite h h))))))

theorem State.MemOk.flagsDone {i} {k : State → State} (hk : ∀ t, t.MemOk → (k t).MemOk) (h : s.MemOk) : (s.flagsDone i k).MemOk :=
  .ite (.ite h (.ite h (hk _ h))) (hk _ h)

theorem State.MemOk.csrMod {st a i f} (h : s.MemOk) : (s.csrMod st a i f).MemOk :=
  .ite (.flagsDone (fun _ h => .finish h) h) (.before (fun _ h => .finish (.csrWrite h)) h)

/-! ## Engines (20:R422) -/

theorem execEpop_memOk {st d e} (h : s.MemOk) : NextMemOk (execEpop st d e s) := by
  refine .next (.ite (.counted (fun _ h => ?_) h) (.ite (.trapAll h) (.before (fun _ h => .counted (fun _ h => ?_) h) h)))
  · dsimp only
    split
    · exact h
    · exact .finish h
  · dsimp only
    split
    · exact h
    · exact .finish h

theorem State.MemOk.push {st ops} {chk : State → Option (Nat × W32 × Word)} {room : State → Bool} {go : State → State}
    (hgo : ∀ t, t.MemOk → (go t).MemOk) (h : s.MemOk) :
    (s.push st ops chk room go).MemOk := by
  refine .sentOnce (fun _ _ h => .finish h) (fun _ h => ?_) h
  split
  · exact .trap h
  · exact .ite (.finish (.modGang (hgo _ h))) h

theorem State.MemOk.pushAsk {st ops} {chk : State → Option (Nat × W32 × Word)} {room : State → Bool} {go : State → State}
    {out : List Nat → State → State} (hgo : ∀ t, t.MemOk → (go t).MemOk) (hout : ∀ x t, t.MemOk → (out x t).MemOk) (h : s.MemOk) :
    (s.pushAsk st ops chk room go out).MemOk :=
    by
  refine .sentOnce (fun _ _ h => .finish (hout _ _ h)) (fun _ h => .ite h ?_) h
  split
  · exact .trap h
  · exact .ite (.modGang (.modGang (hgo _ h))) h

theorem State.MemOk.engNote {ck wr ps} (h : s.MemOk) : (s.engNote ck wr ps).MemOk :=
  .foldl (fun _ _ h => .ite (.lostAt (.ite (.noteAccess h) h)) (.ite (.noteAccess h) h)) h

theorem State.MemOk.engWrite {sl ws} (h : s.MemOk) : (s.engWrite sl ws).MemOk := .squashUsers (.wrAll h)

theorem State.MemOk.takeFault (h : s.MemOk) : (s.takeFault).MemOk := by
  dsimp only [State.takeFault]
  split
  · exact h
  · exact .ite h (.trapWith h)

/-! ## The matrix unit (11:R297 to R307) -/

theorem State.MemOk.mxMove {ck n} (h : s.MemOk) : (s.mxMove ck n).MemOk := by
  induction n generalizing s with
  | zero => exact h
  | succ n ih =>
    unfold State.mxMove
    dsimp only
    split
    · exact h
    · exact .ite h (ih h)

theorem State.MemOk.mxPut {kind reg bank desc opnd} (h : s.MemOk) : (s.mxPut kind reg bank desc opnd).MemOk := .mxMove (.ite h h)

theorem State.MemOk.mxPush {st kind reg bank desc opnd} {chk : State → Option (Nat × W32 × Word)} (h : s.MemOk) :
    (s.mxPush st kind reg bank desc opnd chk).MemOk :=
  .push (fun _ h => .mxPut h) h

/-- The memory of the state that a start leads to, if any, is in canonical form. -/
def MxStart.MemOk : MxStart → Prop
  | .run t _ _ => t.MemOk
  | _ => True

theorem MxStart.MemOk.run {cycles bytes} (h : s.MemOk) : (MxStart.run s cycles bytes).MemOk := h

theorem State.MemOk.of_run {m : MxStart} {cycles bytes} (hm : m.MemOk) (e : m = .run t cycles bytes) : t.MemOk := by
  subst e
  exact hm

theorem MxStart.MemOk.mxFail {d wr c} : (mxFail d wr c).MemOk := by
  cases c <;> trivial

theorem MxStart.MemOk.startBload {ck c} (h : s.MemOk) : (s.startBload ck c).MemOk := by
  unfold State.startBload
  dsimp only
  split
  · exact .mxFail
  · split
    · exact .mxFail
    · exact .run (.modCluster (.engNote h))

theorem MxStart.MemOk.startMma {ck c mask} (h : s.MemOk) : (s.startMma ck c mask).MemOk := by
  unfold State.startMma
  dsimp only
  split
  · exact .mxFail
  · exact .run (.modCluster (.engNote h))

theorem MxStart.MemOk.startMrd {ck c} (h : s.MemOk) : (s.startMrd ck c).MemOk := by
  unfold State.startMrd
  dsimp only
  split
  · exact .mxFail
  · exact .run (.engNote h)

theorem MxStart.MemOk.startMwt {ck c} (h : s.MemOk) : (s.startMwt ck c).MemOk := by
  unfold State.startMwt
  dsimp only
  split
  · exact .mxFail
  · exact .run (.modCluster (.engNote h))

theorem MxStart.MemOk.mxStartCmd {ck c} (h : s.MemOk) : (s.mxStartCmd ck c).MemOk := by
  unfold State.mxStartCmd
  split
  · exact .startBload h
  · exact .run h
  · exact .startMma h
  · exact .startMma h
  · exact .startMrd h
  · exact .startMwt h
  · exact .run h

theorem State.MemOk.mxTake {ck c} (h : s.MemOk) : (s.mxTake ck c).MemOk := .ite (.modCluster (.mxMove (.ite h h))) (.mxMove (.ite h h))

theorem State.MemOk.countMx {ck n} (h : s.MemOk) : (s.countMx ck n).MemOk := .ite h h

theorem State.MemOk.mxGo {ck c} (h : s.MemOk) : (s.mxGo ck c).2.MemOk := by
  unfold State.mxGo
  dsimp only
  split
  · exact .stage2Record h
  · exact .recordFault (.mxTake h)
  · split
    · exact .countMx (.recordFault (.modCluster (.mxTake h)))
    · exact h

theorem State.MemOk.of_mxGo_snd {ck c o} (h : s.MemOk) (e : s.mxGo ck c = (o, t)) : t.MemOk := by
  have ht := State.MemOk.mxGo (ck := ck) (c := c) h
  rwa [e] at ht

theorem State.MemOk.of_mxGo {ck c} (h : s.MemOk) (e : (s.mxGo ck c).1 = some t) : t.MemOk := by
  unfold State.mxGo at e
  dsimp only at e
  split at e
  · cases e
  · exact .of_some e (.modCluster (.recordFault (.mxTake h)))
  · next hrun =>
    have hu := State.MemOk.of_run (.mxStartCmd h) hrun
    split at e
    · exact .of_some e (.modCluster (.countMx (.recordFault (.modCluster (.mxTake h)))))
    · exact .of_some e (.modCluster (.mxTake (.ite (.countMx (.modCluster hu)) hu)))

theorem State.MemOk.mxVisit {clk n} (h : s.MemOk) : (s.mxVisit clk n).MemOk := by
  induction n generalizing s with
  | zero => exact h
  | succ n ih =>
    unfold State.mxVisit
    dsimp only
    split
    · exact ih h
    · split
      · exact ih h
      · split
        · next e => exact .of_mxGo h (congrArg Prod.fst e)
        · next e => exact ih (.modCluster (.of_mxGo_snd h e))

theorem State.MemOk.mxMoveAll {clk} (h : s.MemOk) : (s.mxMoveAll clk).MemOk := .foldl (fun _ _ h => .mxMove h) h

theorem execMxCommandComplete_memOk {sl clus} (h : s.MemOk) : NextMemOk (execMxCommandComplete sl clus s) := by
  refine .next ?_
  dsimp only
  split
  · exact h
  · exact .ite h (.ite (.modGang (.engWrite h)) (.ite (.modGang (.engWrite h)) (.ite (.modGang (.engWrite h)) (.engWrite h))))

/-! ## Stream fabrics (13:R346 to R353) -/

theorem State.MemOk.sfMove {ck n} (h : s.MemOk) : (s.sfMove ck n).MemOk := by
  induction n generalizing s with
  | zero => exact h
  | succ n ih =>
    unfold State.sfMove
    dsimp only
    split
    · exact h
    · exact .ite h (ih h)

theorem State.MemOk.sfPush {st cmd} (h : s.MemOk) : (s.sfPush st cmd).MemOk := .push (fun _ h => .sfMove (.ite h h)) h

theorem State.MemOk.sendHeld {l keep} (h : s.MemOk) : (s.sendHeld l keep).1.MemOk := by
  induction l generalizing s keep with
  | nil => exact h
  | cons e l ih =>
    unfold State.sendHeld
    split
    · exact ih h
    · exact ih h

theorem execFabricFiring_memOk {f} (h : s.MemOk) : NextMemOk (execFabricFiring f s) := by
  unfold execFabricFiring
  refine .next ?_
  split
  · exact .sendHeld h
  · split
    · exact .recordFault (.sendHeld h)
    · exact .sendHeld (.sendHeld h)

theorem State.MemOk.sfEnd {ck c bytes status fabs} (h : s.MemOk) : (s.sfEnd ck c bytes status fabs).MemOk := .sfMove h

theorem State.MemOk.of_readImages {ck va l w n} (h : s.MemOk) (e : s.readImages ck va l = .ok (w, n, t)) : t.MemOk := by
  induction l generalizing s w n with
  | nil => cases e; exact h
  | cons x l ih =>
    unfold State.readImages at e
    split at e
    · dsimp only at e
      split at e
      · next hrest => cases e; exact ih (.engNote h) hrest
      · cases e
    · cases e

theorem State.MemOk.objFail {ck c got a} (h : s.MemOk) : (s.objFail ck c got a).MemOk := by
  dsimp only [State.objFail]
  split
  · exact .sfEnd (.recordFault h)
  · exact .stage2Record h
  · exact h

theorem State.MemOk.doGload {ck c} (h : s.MemOk) : (s.doGload ck c).MemOk := by
  unfold State.doGload
  dsimp only
  split
  · split
    · exact .sfEnd (.recordFault (.engNote h))
    · split
      · exact .objFail (.engNote h)
      · next e =>
        have hu := State.MemOk.of_readImages (.engNote h) e
        split
        · exact .sfEnd (.foldl (fun _ _ h => h) hu)
        · exact .sfEnd (.recordFault (.foldl (fun _ _ h => h) hu))
  · exact .objFail h

theorem execGloadComplete_memOk {sl c} (h : s.MemOk) : NextMemOk (execGloadComplete sl c s) := by
  refine .next ?_
  dsimp only
  split
  · exact h
  · exact .ite h (.ite (.doGload h) (.ite (.sfEnd (.foldl (fun _ _ h => h) h)) (.sfMove h)))

/-! ## Copies (11:R309 to R312) -/

theorem State.MemOk.cpPush {st cmd} (h : s.MemOk) : (s.cpPush st cmd).MemOk := .push (fun _ h => h) h

theorem State.MemOk.cpEnd {ck ch status} (h : s.MemOk) : (s.cpEnd ck ch status).MemOk := by
  dsimp only [State.cpEnd]
  split <;> exact h

theorem State.MemOk.cpDiscard {ck ch n} (h : s.MemOk) : (s.cpDiscard ck ch n).MemOk := by
  induction n generalizing s with
  | zero => exact h
  | succ n ih => exact ih (.cpEnd h)

/-- The memory of the state that the next unit of a transfer leads to, if any, is in canonical form. -/
def CpNext.MemOk : CpNext → Prop
  | .read _ t => t.MemOk
  | .bytes _ _ _ t => t.MemOk
  | .entry _ t => t.MemOk
  | .peer _ _ t => t.MemOk
  | _ => True

/-- The memory of the state that a firing leads to, if any, is in canonical form. -/
def CpFired.MemOk : CpFired → Prop
  | .not x => x.MemOk
  | .ran _ _ _ _ t => t.MemOk

theorem CpNext.MemOk.ite {c : Prop} [Decidable c] {x y : CpNext} (hx : x.MemOk) (hy : y.MemOk) : (if c then x else y).MemOk := by
  split
  · exact hx
  · exact hy

theorem CpFired.MemOk.ite {c : Prop} [Decidable c] {x y : CpFired} (hx : x.MemOk) (hy : y.MemOk) : (if c then x else y).MemOk := by
  split
  · exact hx
  · exact hy

theorem CpNext.MemOk.of_eq {x y : CpNext} (hx : x.MemOk) (e : x = y) : y.MemOk := e ▸ hx

theorem CpFired.MemOk.of_eq {x y : CpFired} (hx : x.MemOk) (e : x = y) : y.MemOk := e ▸ hx

theorem CpNext.MemOk.cpBad {wr c} : (cpBad wr c).MemOk := by
  cases c <;> trivial

theorem State.MemOk.graphWrite {c secs} (h : s.MemOk) : (s.graphWrite c secs).MemOk := .ite (.uncacheAll h) h

theorem CpNext.MemOk.cpPlain {ck c} (h : s.MemOk) : (s.cpPlain ck c).MemOk := by
  unfold State.cpPlain
  dsimp only
  split
  · split
    · exact .ite trivial (State.MemOk.engNote (.engNote h))
    · exact .cpBad
  · exact .cpBad

theorem CpFired.MemOk.cpFire {ck c} (h : s.MemOk) : (s.cpFire ck c).MemOk := by
  unfold State.cpFire
  dsimp only
  split
  · trivial
  · trivial
  · refine .ite trivial ?_
    split
    · trivial
    · refine .ite trivial ?_
      split
      · split
        · exact State.MemOk.engNote (.engNote h)
        · exact CpNext.MemOk.cpBad
      · exact CpNext.MemOk.cpBad

theorem CpNext.MemOk.cpGraph {ck c} (h : s.MemOk) : (s.cpGraph ck c).MemOk := by
  unfold State.cpGraph
  split
  · next e => exact CpFired.MemOk.of_eq (.cpFire h) e
  · next t e =>
    have ht : t.MemOk := CpFired.MemOk.of_eq (.cpFire h) e
    exact .ite ht (.ite trivial (State.MemOk.graphWrite ht))

theorem CpNext.MemOk.cpOrder {ck c} (h : s.MemOk) : (s.cpOrder ck c).MemOk := by
  unfold State.cpOrder
  dsimp only
  split
  · split
    · exact .ite trivial h
    · exact .cpBad
  · split
    · trivial
    · split
      · next e => exact CpFired.MemOk.of_eq (.cpFire h) e
      · next t e =>
        have ht : t.MemOk := CpFired.MemOk.of_eq (.cpFire h) e
        exact .ite ht (.ite trivial (State.MemOk.graphWrite ht))

theorem CpNext.MemOk.of_cpGat {ck c x} (h : s.MemOk) (e : s.cpGat ck c = some x) : x.MemOk := by
  unfold State.cpGat at e
  dsimp only at e
  split at e
  · cases e
    split
    · exact .ite trivial h
    · exact .cpBad
  · split at e
    · split at e
      · cases e
      · split at e
        · cases e; exact h
        · obtain ⟨-, e⟩ := Option.ite_none_left_eq_some.mp e
          cases e
          exact .cpBad
    · obtain ⟨-, e⟩ := Option.ite_none_left_eq_some.mp e
      cases e
      split
      · exact h
      · exact .cpBad

theorem CpNext.MemOk.cpMeta {ck c} (h : s.MemOk) : (s.cpMeta ck c).MemOk := by
  unfold State.cpMeta
  dsimp only
  refine .ite trivial ?_
  split
  · exact .ite trivial (State.MemOk.engNote h)
  · exact .cpBad

theorem CpNext.MemOk.cpPeer {ck c} (h : s.MemOk) : (s.cpPeer ck c).MemOk := by
  unfold State.cpPeer
  refine .ite trivial (.ite trivial (.ite (.cpGraph h) ?_))
  split
  · exact State.MemOk.engNote h
  · exact .cpBad

theorem CpNext.MemOk.settles {c : CpCmd} {x : CpNext} (hx : x.MemOk) : (c.settles x).MemOk := by
  unfold CpCmd.settles
  split
  · exact .ite trivial trivial
  · exact hx

theorem CpNext.MemOk.cpNext {ck c} (h : s.MemOk) : (s.cpNext ck c).MemOk := by
  unfold State.cpNext
  split
  · next e =>
    split at e
    · exact .of_cpGat h e
    · cases e
  · exact .ite trivial (.ite (.cpMeta h) (.ite (.settles (.cpPeer h)) (.ite (.cpOrder h) (.ite (.cpGraph h) (.cpPlain h)))))

theorem State.MemOk.cpFail {ck ch c detail va} (h : s.MemOk) : (s.cpFail ck ch c detail va).MemOk :=
  .cpDiscard (.cpEnd (.recordFault (.ite (.event h) h)))

theorem State.MemOk.peerBytes {peer addr bs} (h : s.MemOk) : (s.peerBytes peer addr bs).MemOk := .wrAll h

theorem State.MemOk.cpSector {ck ch} (h : s.MemOk) : (s.cpSector ck ch).MemOk := by
  unfold State.cpSector
  split
  · exact h
  · refine .ite h ?_
    dsimp only
    split
    · exact h
    · exact .cpFail h
    · exact .stage2Record h
    · exact h
    · next e => exact CpNext.MemOk.of_eq (.cpNext h) e
    · next t e =>
      have ht : t.MemOk := CpNext.MemOk.of_eq (.cpNext h) e
      exact State.MemOk.modCore (.modCore (.engWrite ht))
    · next e => exact CpNext.MemOk.of_eq (.cpNext h) e
    · next t e =>
      have ht : t.MemOk := CpNext.MemOk.of_eq (.cpNext h) e
      exact State.MemOk.modCore (.peerBytes ht)

theorem execCopyTransferEnd_memOk {sl c ch} (h : s.MemOk) : NextMemOk (execCopyTransferEnd sl c ch s) := by
  unfold execCopyTransferEnd
  refine .next ?_
  split
  · exact h
  · refine .ite h ?_
    split
    · exact .cpEnd h
    · exact .cpFail h
    · next t e =>
      have ht : t.MemOk := CpNext.MemOk.of_eq (.cpNext h) e
      exact .ite h (.ite (.cpEnd ht) ht)
    · exact h

theorem execPeerAcknowledgement_memOk {pa n} (h : s.MemOk) : NextMemOk (execPeerAcknowledgement pa n s) := by
  refine .next (.ite h ?_)
  dsimp only
  repeat' split
  all_goals exact h

/-! ## The Madder array (12:R315 to R330) -/

theorem State.MemOk.endSlots {ck d status} (h : s.MemOk) : (s.endSlots ck d status).MemOk := by
  dsimp only [State.endSlots]
  split
  · refine .modGang ?_
    split <;> exact h
  · split <;> exact h

theorem State.MemOk.slotStep {ck t d} (h : s.MemOk) : (s.slotStep ck t d).MemOk := by
  dsimp only [State.slotStep]
  split
  · exact h
  · exact .ite h h

theorem State.MemOk.madFail {ck f} (h : s.MemOk) : (s.madFail ck f).MemOk := by
  refine .foldl (fun _ _ h => .endSlots h) ?_
  split
  · exact h
  · exact .recordFault h

theorem State.MemOk.madStep {ck} (h : s.MemOk) : (s.madStep ck).MemOk := by
  dsimp only [State.madStep]
  split
  · exact h
  · refine .ite h (.ite (.killPlain h) ?_)
    split
    · exact .madFail h
    · exact .foldl (fun _ _ h => .slotStep h) h

theorem execMadderStep_memOk {sl c} (h : s.MemOk) : NextMemOk (execMadderStep sl c s) := .next (.madStep h)

theorem State.MemOk.maPut {cmd} (h : s.MemOk) : (s.maPut cmd).MemOk := .ite h h

theorem State.MemOk.maPush {st cmd} (h : s.MemOk) : (s.maPush st cmd).MemOk := .push (fun _ h => .maPut h) h

theorem State.MemOk.maAsk {st d cmd} (h : s.MemOk) : (s.maAsk st d cmd).MemOk := .pushAsk (fun _ h => .maPut h) (fun _ _ h => h) h

theorem State.MemOk.maFail {c cause detail va} (h : s.MemOk) : (s.maFail c cause detail va).MemOk := .recordFault h

theorem State.MemOk.maDo {ck c} (h : s.MemOk) : (s.maDo ck c).MemOk := by
  dsimp only [State.maDo]
  split
  · exact h
  · exact h
  · exact h
  · split
    · exact h
    · exact .maFail h
    · exact h
  · exact .ite h (.ite h h)
  · split
    · exact h
    · exact .recordFault h
  · exact h
  · exact h
  · exact h

theorem State.MemOk.doDstop {ck i c} (h : s.MemOk) : (s.doDstop ck i c).MemOk := .foldl (fun _ _ h => h) (.foldl (fun _ _ h => .endSlots h) h)

theorem State.MemOk.madStop {ck} (h : s.MemOk) : (s.madStop ck).MemOk := by
  refine .ite h ?_
  split
  · exact .doDstop h
  · exact h

theorem execMadderCommand_memOk {sl cc} (h : s.MemOk) : NextMemOk (execMadderCommand sl cc s) := by
  refine .next (.ite h ?_)
  dsimp only
  split
  · exact .madStop h
  · split
    · exact h
    · refine .ite h (.ite ?_ (.maDo h))
      split
      · exact .maFail h
      · exact h

theorem execMadderReadDone_memOk {sl cc} (h : s.MemOk) : NextMemOk (execMadderReadDone sl cc s) := by
  refine .next ?_
  dsimp only
  split
  · exact h
  · refine .ite h ?_
    split
    · refine .ite h (.ite ?_ ?_)
      · split
        · exact .maFail h
        · exact h
      · split
        · exact .maFail h
        · exact h
    · exact h

theorem State.MemOk.saveOn {ck e} (h : s.MemOk) : (s.saveOn ck e).MemOk := .ite h (.ite (.modGang (.engWrite h)) (.modCore (.engWrite h)))

end Sys2Proof.Machine
end

section
/-!
The canonical form of memory under what the device, its engines, the host and the outside do.
-/

namespace Sys2Proof.Machine

variable {s t : State}

/-! ## Commits, far operations and writes from outside (06:R153, 19:R408) -/

theorem State.MemOk.sendHeldBack {gk held} (h : s.MemOk) : (s.sendHeldBack gk held).MemOk := .foldl (fun _ _ h => .release h) h

theorem execTaskCommit_memOk {gk} (h : s.MemOk) : NextMemOk (execTaskCommit gk s) := by
  refine .next ?_
  dsimp only
  split
  · exact .ite (.endGang (.sendHeldBack (.modGang (.modGang (.commitNow h))))) h
  · exact h

theorem State.MemOk.farLane {gk o i x} (h : s.MemOk) : (s.farLane gk o i x).2.2.MemOk := by
  dsimp only [State.farLane]
  split
  · exact .bump (.modGang (.ite (.wrBytes h) h))
  · exact .bump (.ite (.wrBytes h) h)

theorem State.MemOk.farLanes {gk o xs} (h : s.MemOk) : (s.farLanes gk o xs).2.2.MemOk := by
  induction xs generalizing s with
  | nil => exact h
  | cons x xs ih => exact ih (.farLane h)

theorem execFarOpPerformed_memOk {gk id} (h : s.MemOk) : NextMemOk (execFarOpPerformed gk id s) := by
  unfold execFarOpPerformed
  refine .next ?_
  split
  · exact h
  · next o _ =>
    split
    · exact .ite h h
    · next i x xs _ =>
      split
      · exact h
      · next t e =>
        have hgo : ((t.dirAll (slOfGk gk) Cluster.uncache (sectorsOf x.loc o.size)).farLanes gk o ((i, x) :: xs)).2.2.MemOk :=
          .farLanes (.dirAll (.of_specGate h e))
        exact .ite (.squashUsers (.ite hgo hgo)) (.ite hgo hgo)

theorem execFarResultReturn_memOk {gk id} (h : s.MemOk) : NextMemOk (execFarResultReturn gk id s) := by
  refine .next ?_
  dsimp only
  split
  · exact h
  · exact .ite h h

theorem execMailDelivery_memOk {sl c} (h : s.MemOk) : NextMemOk (execMailDelivery sl c s) := by
  unfold execMailDelivery
  refine .next ?_
  split
  · exact h
  · refine .ite h (.getD (fun t e => .of_enterMail ?_ e) h)
    exact h

theorem execGangWake_memOk {gk} (h : s.MemOk) : NextMemOk (execGangWake gk s) := by
  refine .next ?_
  split
  · exact h
  · refine .ite ?_ h
    split
    · exact h
    · exact .ite h h
    · exact h

/-! ## Queues, launches and table slots (07:R184 to R201) -/

theorem State.MemOk.seeQueue {n} (h : s.MemOk) : (s.seeQueue n).MemOk := by
  dsimp only [State.seeQueue]
  split
  · exact h
  · exact .queueHead h

theorem State.MemOk.appendRec {n bytes} (h : s.MemOk) : (s.appendRec n bytes).MemOk := .seeQueue (.squashReaders (.wrBytes h))

theorem State.MemOk.loaderAppend {cx ds} (h : s.MemOk) : (s.loaderAppend cx ds).MemOk := by
  induction ds generalizing s with
  | nil => exact h
  | cons d ds ih =>
    unfold State.loaderAppend
    split
    · exact h
    · exact .ite h (ih (.appendRec h))

theorem State.MemOk.loaderSubmits {cx} (h : s.MemOk) : (s.loaderSubmits cx).MemOk := .ite h (.loaderAppend h)

theorem State.MemOk.dropAppend {n why} (h : s.MemOk) : (s.dropAppend n why).MemOk := .event h

theorem execHostAppend_memOk {off vf bytes} (h : s.MemOk) : NextMemOk (execHostAppend off vf bytes s) :=
  .next (.ite h (.ite (.dropAppend h) (.ite (.dropAppend h) (.ite (.dropAppend h) (.ite (.dropAppend h) (.atArbiter (fun _ h => .appendRec h)
    h))))))

theorem State.MemOk.donePart {sl a p bs} (h : s.MemOk) : (s.donePart sl a p bs).MemOk := by
  have hn : ∀ c [Decidable c], (if c then s.noteAccess (qkOfCk (ckOf sl 0)) (s.runCx sl) a true else s).MemOk := fun _ => .ite (.noteAccess h) h
  unfold State.donePart
  exact .ite (.ite (.wrBytes (hn _)) (.lostAt (hn _))) (.squashUsers (.wrBytes (hn _)))

theorem State.MemOk.of_tryDone {sl a bs} (h : s.MemOk) (e : s.tryDone sl a bs = .ok t) : t.MemOk := by
  unfold State.tryDone at e
  split at e
  · cases e
    exact .donePart (.donePart h)
  all_goals cases e

theorem State.MemOk.putDone {sl a bs counts} (h : s.MemOk) : (s.putDone sl a bs counts).MemOk := by
  unfold State.putDone
  refine .ite h ?_
  split
  · next e => exact .of_tryDone h e
  · exact .ite h h
  · exact .modSlice (.selFault h)

theorem State.MemOk.submit {e} (h : s.MemOk) : (s.submit e).MemOk := .tabHead h

theorem State.MemOk.instanceEnds {tabEnt} (h : s.MemOk) : (s.instanceEnds tabEnt).MemOk := by
  dsimp only [State.instanceEnds]
  split
  · exact h
  · exact .foldl (fun _ _ h => .submit h) h

theorem State.MemOk.popHead {sl src} (h : s.MemOk) : (s.popHead sl src).MemOk := .ite (.loaderSubmits (.queueHead h)) (.ite (.devHead h) h)

theorem State.MemOk.claimTiles {cx d} (h : s.MemOk) : (s.claimTiles cx d).MemOk :=
  .foldl (fun _ _ h => .setTile h) (.foldl (fun _ _ h => .setTile h) h)

theorem execSelection_memOk {sl} (h : s.MemOk) : NextMemOk (execSelection sl s) := by
  refine .next (.ite h ?_)
  dsimp only
  split
  · exact h
  · exact .atArbiter (fun _ h => .popHead (.modSlice (.claimTiles h))) h

theorem execRefusal_memOk {sl} (h : s.MemOk) : NextMemOk (execRefusal sl s) := by
  refine .next (.ite h ?_)
  dsimp only
  split
  · exact h
  · exact .atArbiter (fun _ h => .instanceEnds (.popHead (.ite h (.putDone h)))) h

theorem State.MemOk.startSwitch {sl inn hard} (h : s.MemOk) : (s.startSwitch sl inn hard).MemOk := by
  dsimp only [State.startSwitch]
  split
  · exact .ite h h
  · exact h

theorem execLaunchSlot_memOk {e} (h : s.MemOk) : NextMemOk (execLaunchSlot e s) := by
  refine .next (.ite h ?_)
  dsimp only
  split
  · exact h
  · refine .ite h (.atArbiter (fun _ h => .ite (.submit h) ?_) h)
    split
    · exact h
    · exact .ite h h
    · exact .ite (.startSwitch h) h
    · exact .ite (.submit h) h

theorem execSwitchSlot_memOk {e} (h : s.MemOk) : NextMemOk (execSwitchSlot e s) := by
  refine .next (.ite h ?_)
  dsimp only
  split
  · exact h
  · exact .ite h (.atArbiter (fun _ h => .ite h (.startSwitch h)) h)

theorem State.MemOk.injectTrains {sl n ps} (h : s.MemOk) : (s.injectTrains sl n ps).MemOk := .foldl (fun _ _ h => h) h

theorem execInjection_memOk {sl n} (h : s.MemOk) : NextMemOk (execInjection sl n s) := by
  refine .next ?_
  dsimp only
  split
  · exact h
  · exact .ite h (.modSlice (.injectTrains h))

theorem execCrewPlacement_memOk {sl n} (h : s.MemOk) : NextMemOk (execCrewPlacement sl n s) := by
  refine .next ?_
  dsimp only
  split
  · exact h
  · refine .ite h ?_
    split
    · exact h
    · exact .modSlice (.modSlice (.injectTrains h))

theorem State.MemOk.releaseTiles {cx d} (h : s.MemOk) : (s.releaseTiles cx d).MemOk :=
  .foldl (fun _ _ h => .setTile h) (.foldl (fun _ _ h => .setTile h) h)

theorem execLaunchCompletion_memOk {sl n} (h : s.MemOk) : NextMemOk (execLaunchCompletion sl n s) := by
  refine .next ?_
  dsimp only
  split
  · exact h
  · exact .ite h (.atArbiter (fun _ h => .instanceEnds (.putDone (.modSlice (.releaseTiles h)))) h)

/-! ## Packets, gangs and steals (03:R62 to R82) -/

theorem State.MemOk.putRing {cx ipa p} (h : s.MemOk) : (s.putRing cx ipa p).MemOk := by
  unfold State.putRing
  split
  · exact h
  · exact .wrBytes (.setD h)

theorem State.MemOk.storeRing {qk old} (h : s.MemOk) : (s.storeRing qk old).MemOk := .foldl (fun _ _ h => .putRing h) h

theorem State.MemOk.crewArrive {sl q p} (h : s.MemOk) : (s.crewArrive sl q p).MemOk := by
  dsimp only [State.crewArrive]
  split
  · exact h
  · exact .modCluster (.wrBytes h)

theorem State.MemOk.refuse {sl q t p} (h : s.MemOk) : (s.refuse sl q t p).MemOk := .ite h h

theorem State.MemOk.accepted {sl q t p} (h : s.MemOk) : (s.accepted sl q t p).MemOk := .ite h h

theorem State.MemOk.enterAll {sl q tr ps} (h : s.MemOk) : (s.enterAll sl q tr ps).2.MemOk := by
  induction ps generalizing s with
  | nil => exact h
  | cons p ps ih =>
    unfold State.enterAll
    dsimp only
    refine ih ?_
    split
    · exact .crewArrive h
    · split
      · exact .accepted (.storeRing h)
      · split
        · exact h
        · exact .refuse h

theorem State.MemOk.trainIn {sl q key} (h : s.MemOk) : (s.trainIn sl q key).MemOk := by
  dsimp only [State.trainIn]
  split
  · exact h
  · exact .ite h (.ite (.modSlice (.ite (.modQuad (.enterAll h)) (.modQuad (.modQuad (.enterAll h))))) (.ite (.modQuad (.enterAll h)) (.modQuad
      (.modQuad (.enterAll h)))))

theorem execRingFullNotification_memOk {sl q} (h : s.MemOk) : NextMemOk (execRingFullNotification sl q s) := by
  refine .next ?_
  split
  · exact h
  · exact .ite h h

theorem State.MemOk.of_form {gk ps} (h : s.MemOk) (e : s.form gk ps = some t) : t.MemOk := by
  unfold State.form at e
  split at e
  · cases e
  · dsimp only at e
    split at e
    · cases e
    · split at e
      · cases e
      · exact .of_some e h

theorem State.MemOk.form {gk ps f} (h : s.MemOk) (hf : ∀ t, t.MemOk → State.MemOk (f t)) : (((s.form gk ps).map f).getD s).MemOk := by
  cases e : s.form gk ps with
  | none => exact h
  | some t => exact hf t (.of_form h e)

theorem State.MemOk.takeGroup {qk ps} (h : s.MemOk) : (s.takeGroup qk ps).MemOk := by
  dsimp only [State.takeGroup]
  split
  · exact h
  · exact .ite h h

theorem State.MemOk.setDeque {ck d} (h : s.MemOk) : (s.setDeque ck d).MemOk := .spillDeque h

theorem execGangFormation_memOk {sl c} (h : s.MemOk) : NextMemOk (execGangFormation sl c s) := by
  unfold execGangFormation
  refine .next (.ite h ?_)
  split
  · exact h
  · split
    · exact h
    · exact .ite h (.form h fun _ h => .setDeque h)
    · exact .ite h (.form h fun _ h => .modQuad (.takeGroup h))

theorem execStealRequest_memOk {sl c} (h : s.MemOk) : NextMemOk (execStealRequest sl c s) := by
  refine .next (.ite h ?_)
  dsimp only
  repeat' split
  all_goals exact h

theorem execStealAnswer_memOk {sl c} (h : s.MemOk) : NextMemOk (execStealAnswer sl c s) := by
  unfold execStealAnswer
  refine .next (.ite h ?_)
  split
  · exact h
  · refine .ite h ?_
    split
    · exact h
    · refine .form ?_ fun _ h => .setDeque h
      exact h

/-! ## Replicas (02:R36 to R39) -/

theorem execRouteCacheFill_memOk {sl q hs} (h : s.MemOk) : NextMemOk (execRouteCacheFill sl q hs s) := by
  refine .next ?_
  split
  · exact h
  · exact .routeFill h

theorem State.MemOk.hotSample {sl} (h : s.MemOk) : (s.hotSample sl).MemOk := by
  refine .ite h (.foldl (fun _ _ h => ?_) h)
  split
  · exact h
  · exact .ite h (.foldl (fun _ _ h => h) h)

theorem execAddReplica_memOk {sl obj blk} (h : s.MemOk) : NextMemOk (execAddReplica sl obj blk s) := by
  refine .next ?_
  dsimp only
  split
  · exact h
  · split
    · refine .ite h ?_
      split <;> exact h
    · exact h

theorem execRemoveReplica_memOk {sl obj blk} (h : s.MemOk) : NextMemOk (execRemoveReplica sl obj blk s) := by
  refine .next ?_
  split
  · exact h
  · split
    · exact .ite h h
    · exact h

theorem execReplicaUpdate_memOk {sl} (h : s.MemOk) : NextMemOk (execReplicaUpdate sl s) := by
  refine .next ?_
  dsimp only
  split
  · exact h
  · refine .atArbiter (fun _ h => .modSlice ?_) h
    split <;> exact .ite h h

/-! ## Loading objects (02:R24 to R39) -/

theorem State.MemOk.loadRegion {sl cx p a space bs} (h : s.MemOk) : (s.loadRegion sl cx p a space bs).MemOk := by
  dsimp only [State.loadRegion]
  split
  · exact .foldl (fun _ _ h => .wrBytes h) h
  · exact .foldl (fun _ _ h => .wrBytes h) h
  · exact .wrAll h
  · exact .wrBytes h

theorem State.MemOk.loadRegions {sl cx p b rs qs} (h : s.MemOk) : (s.loadRegions sl cx p b rs qs).MemOk := by
  induction rs generalizing s qs with
  | nil => exact h
  | cons r rs ih =>
    cases qs with
    | nil => exact h
    | cons q qs => exact ih (.ite h (.loadRegion h))

theorem State.MemOk.loadTile {cx p t} (h : s.MemOk) : (s.loadTile cx p t).MemOk := .wrBytes (.wrBytes h)

theorem State.MemOk.linkObj {cx os slot o} (h : s.MemOk) : (s.linkObj cx os slot o).MemOk := by
  refine .foldl (fun _ _ h => ?_) h
  dsimp only
  split
  · exact h
  · exact .ite h (.squashReaders (.wrBytes h))

theorem State.MemOk.linkAll {cx} (h : s.MemOk) : (s.linkAll cx).MemOk := .foldl (fun _ _ h => .linkObj h) h

theorem State.MemOk.of_placeCode {sl slot blocks cs} (h : s.MemOk) (e : s.placeCode sl slot blocks cs = some t) : t.MemOk := by
  induction cs generalizing s with
  | nil => cases e; exact h
  | cons c cs ih =>
    unfold State.placeCode at e
    dsimp only at e
    split at e
    · exact ih (.setQuad h) e
    · cases e

theorem State.MemOk.launchLines {cx slot ls} (h : s.MemOk) : (s.launchLines cx slot ls).MemOk := by
  dsimp only [State.launchLines]
  split
  · exact h
  · refine .loaderSubmits (.modCtx (.foldl (fun _ _ h => ?_) h))
    split
    · exact h
    · exact .wrBytes h

theorem State.MemOk.placeTabs {cx p} (h : s.MemOk) : (s.placeTabs cx p).MemOk := .foldl (fun _ _ h => .wrBytes h) h

theorem execObjectLoad_memOk {sl slot img place} (h : s.MemOk) : NextMemOk (execObjectLoad sl slot img place s) := by
  unfold execObjectLoad
  dsimp only
  refine .next (.ite h (.ite h ?_))
  split
  · exact h
  · next u e =>
    have hu : (u.placeTabs (s.runCx sl) place).MemOk := .placeTabs (.of_placeCode h e)
    exact .ite h (.ite h (.ite (.linkAll (.modCtx (.foldl (fun _ _ h => .loadTile h) (.loadRegions hu))))
      (.ite h (.launchLines (.linkAll (.modCtx (.foldl (fun _ _ h => .loadTile h) (.loadRegions hu))))))))

/-! ## The directory, walks and invalidation (04:R111 to R117) -/

theorem execDirectoryHandlerTrap_memOk {sl line q} (h : s.MemOk) : NextMemOk (execDirectoryHandlerTrap sl line q s) := by
  refine .next (.ite h ?_)
  dsimp only
  split
  · exact h
  · split
    · exact h
    · exact .wrBytes h

theorem exec_tlbWalk (sl q : Nat) (va : BitVec 64) (wr : Bool) (s : State) : exec (.tlbWalk sl q va wr) s = execTlbWalk sl q va wr s := by
  rfl

theorem execTlbWalk_memOk {sl q va wr} (h : s.MemOk) : NextMemOk (execTlbWalk sl q va wr s) := by
  unfold execTlbWalk
  refine .next (.ite h (.ite h ?_))
  split
  · exact h
  · exact .stage2Record h
  · exact .ite (.stage2Record h) (.noteAccess h)

theorem State.MemOk.retryDones {sl} (h : s.MemOk) : (s.retryDones sl).MemOk := .foldl (fun _ _ h => .putDone h) h

theorem State.MemOk.s2Fill {v} (h : s.MemOk) : (s.s2Fill v).MemOk := .foldl (fun _ _ h => .s2Enter h) h

theorem State.MemOk.readAll {vf} (h : s.MemOk) : (s.readAll vf).MemOk :=
  .foldl (fun _ _ h => .ite (.foldl (fun _ _ h => .tabHead h) h) h) (.foldl (fun _ _ h => .ite (.seeQueue h) h) h)

theorem execRetryCommand_memOk {vf i} (h : s.MemOk) : NextMemOk (execRetryCommand vf i s) :=
  .ite (.next h) (.next (.foldl (fun _ _ h => .ite (.retryDones (.devHead h)) h) (.readAll (.s2Fill h))))

theorem State.MemOk.clearD {l} (h : s.MemOk) : (s.clearD l).MemOk := .wrByte h

/-! ## Stream flits and the mesh (04:R122 to R126) -/

theorem execToken_memOk {sl q} (h : s.MemOk) : NextMemOk (execToken sl q s) := by
  refine .next ?_
  split
  · exact h
  · exact .ite h (.closeStream h)

theorem State.MemOk.returnToken {sl q} (h : s.MemOk) : (s.returnToken sl q).MemOk := by
  dsimp only [State.returnToken]
  split
  · exact h
  · exact .ite h h

theorem execStreamAudit_memOk {sl q} (h : s.MemOk) : NextMemOk (execStreamAudit sl q s) := by
  refine .next ?_
  dsimp only
  split
  · exact h
  · exact .ite h (.ite (.modQuad (.modQuad (.returnToken h))) (.modSlice (.closeStream (.modQuad (.modQuad (.modQuad (.modQuad (.returnToken h))))))))

theorem State.MemOk.countIn {ps f} (h : s.MemOk) : (s.countIn ps f).MemOk := .foldl (fun _ _ h => h) h

theorem execRecoveryStep_memOk {i} (h : s.MemOk) : NextMemOk (execRecoveryStep i s) := by
  refine .next ?_
  dsimp only
  split
  · exact h
  · exact .ite h h

theorem execRoutingLoop_memOk {i} (h : s.MemOk) : NextMemOk (execRoutingLoop i s) := by
  refine .next ?_
  dsimp only
  split
  · exact h
  · exact .ite h (.note (.countIn h))

theorem State.MemOk.closeAll {sl} (h : s.MemOk) : (s.closeAll sl).MemOk := .foldl (fun _ _ h => .closeStream h) h

/-! ## Tenancy (14:R358 to R371) -/

theorem State.MemOk.writeTabs {k tabs} (h : s.MemOk) : (s.writeTabs k tabs).MemOk := .foldl (fun _ _ h => .wrBytes h) h

theorem execHardRequest_memOk {sl cx} (h : s.MemOk) : NextMemOk (execHardRequest sl cx s) := by
  refine .next (.ite h ?_)
  dsimp only
  split
  · exact .startSwitch h
  · exact h
  · exact h

theorem State.MemOk.haltGang {gk} (h : s.MemOk) : (s.haltGang gk).MemOk := .modGang (.ite (.undoSpec h) h)

theorem execTokenStart_memOk {sl} (h : s.MemOk) : NextMemOk (execTokenStart sl s) := by
  refine .next ?_
  dsimp only
  split
  · exact .ite h h
  · exact h

theorem State.MemOk.of_writeIpa {cx ipa bs} (h : s.MemOk) (e : s.writeIpa cx ipa bs = some t) : t.MemOk := by
  unfold State.writeIpa at e
  dsimp only at e
  split at e
  · exact .of_some e (.squashReaders (.wrAll (.foldl (fun _ _ h => .setD h) h)))
  · cases e

theorem exec_tokenWritten (sl : Nat) (s : State) : exec (.tokenWritten sl) s = execTokenWritten sl s := by
  rfl

theorem execTokenWritten_memOk {sl} (h : s.MemOk) : NextMemOk (execTokenWritten sl s) := by
  unfold execTokenWritten
  dsimp only
  refine .next ?_
  split
  · exact h
  · refine .ite h ?_
    split
    · next t e =>
      have ht : t.MemOk := by
        refine .of_writeIpa ?_ e
        exact h
      exact .ite (.event (.modSlice (.ite (.modSlice ht) ht))) (.ite (.modSlice ht) ht)
    · refine .ite ?_ (.event h)
      exact .ite (.modSlice (.killPlain (.ite (.noToken h) h))) (.killPlain (.ite (.noToken h) h))

theorem execRescrubCommand_memOk {sl} (h : s.MemOk) : NextMemOk (execRescrubCommand sl s) := by
  refine .next ?_
  dsimp only
  split
  · exact h
  · exact .ite h h

theorem State.MemOk.startCtx {sl c} (h : s.MemOk) : (s.startCtx sl c).MemOk := .retryDones (.allHeads h)

theorem execRestoreComplete_memOk {sl} (h : s.MemOk) : NextMemOk (execRestoreComplete sl s) := by
  refine .next ?_
  dsimp only
  split
  · exact h
  · refine .ite h (.ite h ?_)
    split
    · exact .startCtx (.clearSlice h)
    · split
      · exact .modSlice (.killPlain (.modSlice (.event h)))
      · exact .startCtx (.putImage (.clearSlice h))

theorem execQueueRecordWrite_memOk {q ring ldep vf ctx en} (h : s.MemOk) : NextMemOk (execQueueRecordWrite q ring ldep vf ctx en s) := by
  refine .next (.ite h (.ite ?_ ?_))
  · dsimp only
    split
    · exact .loaderSubmits (.seeQueue h)
    · exact .seeQueue h
  · dsimp only
    split
    · exact .loaderSubmits (.seeQueue h)
    · exact .seeQueue h

/-! ## Collectives (14:R368, R369) -/

theorem State.MemOk.abortColl {u state} (h : s.MemOk) : (s.abortColl u state).MemOk := .event h

theorem execParticipantTimeout_memOk {u} (h : s.MemOk) : NextMemOk (execParticipantTimeout u s) := by
  refine .next ?_
  split
  · exact h
  · exact .ite h (.abortColl h)

/-! ## Time that passes -/

theorem State.MemOk.compareLife {die} (h : s.MemOk) : (s.compareLife die).MemOk := .ite (.note (.ite h h)) (.ite h h)

theorem State.MemOk.cycleEnd (h : s.MemOk) : (s.cycleEnd).MemOk :=
  .foldl (fun _ _ h => .compareLife h) (.foldl (fun _ _ h => .ite (.killPlain h) h) h)

theorem State.MemOk.madRun {ck} (h : s.MemOk) : (s.madRun ck).MemOk := .madStop (.madStep h)

theorem State.MemOk.takeSlot {ns e} (h : s.MemOk) : (State.takeSlot ns s e).MemOk := by
  unfold State.takeSlot
  refine .ite ?_ h
  split
  · next he => exact .of_next (.ite (execLaunchSlot_memOk h) (execSwitchSlot_memOk h)) he
  · exact h

theorem State.MemOk.takeSlots {ns} (h : s.MemOk) : (s.takeSlots ns).MemOk := .foldl (fun _ _ h => .takeSlot h) h

theorem State.MemOk.sampleAll (h : s.MemOk) : (s.sampleAll).MemOk := .foldl (fun _ _ h => .hotSample h) h

theorem State.MemOk.act (h : s.MemOk) : (s.act).MemOk := .sampleAll (.takeSlots (.foldl (fun _ _ h => .madRun h) h))

theorem State.MemOk.passTo {e n c} (h : s.MemOk) : (State.passTo e n c s).MemOk := by
  induction n generalizing s c with
  | zero => exact h
  | succ n ih =>
    unfold State.passTo
    split
    · exact h
    · exact .ite h (ih (.act h))

theorem State.MemOk.pass {n} (h : s.MemOk) : (s.pass n).MemOk := .passTo (.ite h (.cycleEnd h))

theorem execGangwaitExpiry_memOk {sl q} (h : s.MemOk) : NextMemOk (execGangwaitExpiry sl q s) := by
  refine .next ?_
  split
  · exact .pass h
  · exact h

/-! ## Links and the clock (14:R372 to R374) -/

theorem execFjoadLaneLost_memOk {lane} (h : s.MemOk) : NextMemOk (execFjoadLaneLost lane s) :=
  .next (.ite h (.ite (.foldl (fun _ _ h => .closeSession h) (.event (.event h))) (.event h)))

theorem State.MemOk.loseTransfer (h : s.MemOk) : (s.loseTransfer).MemOk := .ite h h

theorem execPortDown_memOk {port} (h : s.MemOk) : NextMemOk (execPortDown port s) :=
  .next (.ite h (.foldl (fun _ _ h => .abortColl h) (.loseTransfer (.event h))))

theorem State.MemOk.farLost {gk o} (h : s.MemOk) : (s.farLost gk o).MemOk := by
  dsimp only [State.farLost]
  split
  · exact h
  · exact .recordFault (.modGang (.lostAt h))

theorem State.MemOk.takeBack {ws} (h : s.MemOk) : (s.takeBack ws).MemOk := .wrAll h

theorem State.MemOk.storesLost {gk} (h : s.MemOk) : (s.storesLost gk).MemOk := by
  dsimp only [State.storesLost]
  split
  · exact h
  · exact .recordFault (.lostAt (.takeBack h))

theorem execAccessTimeout_memOk {gk id} (h : s.MemOk) : NextMemOk (execAccessTimeout gk id s) := by
  refine .next (.ite ?_ ?_)
  · dsimp only
    split
    · exact h
    · exact .ite (.cpFail h) h
  · split
    · exact .farLost h
    · exact .storesLost h

theorem execPeerAccess_memOk {port loc wr} (h : s.MemOk) : NextMemOk (execPeerAccess port loc wr s) := by
  refine .next ?_
  dsimp only
  split
  · exact h
  · exact .ite h (.squashReaders (.wrHost (.uncacheAll h)))

theorem State.MemOk.stepDtc {err} (h : s.MemOk) : (s.stepDtc err).MemOk := .event h

theorem State.MemOk.correct {err} (h : s.MemOk) : (s.correct err).MemOk := .ite h (.stepDtc h)

theorem State.MemOk.adopt {c src err} (h : s.MemOk) : (s.adopt c src err).MemOk := .correct (.event h)

/-! ## Debugging (18:R398 to R403) -/

theorem State.MemOk.thaw {sl} (h : s.MemOk) : (s.thaw sl).MemOk := .foldl (fun _ _ h => .mxMoveAll h) h

theorem execDebugRegisterWrite_memOk {gk lane reg v} (h : s.MemOk) : NextMemOk (execDebugRegisterWrite gk lane reg v s) := by
  refine .next (.ite h ?_)
  split
  · exact .ite h h
  · exact h

/-! ## Health and power (24:R464 to R472) -/

theorem State.MemOk.saveAway {sl} (h : s.MemOk) : (s.saveAway sl).MemOk := by
  refine .ite h ?_
  dsimp only
  split
  · exact .startSwitch h
  · exact h
  · exact h

theorem State.MemOk.bootActs {n} (h : s.MemOk) : (s.bootActs n).MemOk := .ite (.ite h h) (.ite h h)

theorem State.MemOk.trainFail {k} (h : s.MemOk) : (s.trainFail k).MemOk := by
  unfold State.trainFail
  split
  · next he => exact .of_next (.ite (execFjoadLaneLost_memOk h) (execPortDown_memOk h)) he
  · exact h

theorem execPowerOn_memOk {fail} (h : s.MemOk) : NextMemOk (execPowerOn fail s) := by
  have hd : (s.dark false).MemOk := .dark h
  unfold execPowerOn
  dsimp only
  refine .next (.ite (.trainFail (.setPower (.bootActs (.ite ?_ hd)))) (.setPower (.bootActs (.ite ?_ hd))))
  · exact hd
  · exact hd

theorem State.MemOk.countUe {die} (h : s.MemOk) : (s.countUe die).MemOk := .ite h h

theorem execUncorrectedError_memOk {die sl site} (h : s.MemOk) : NextMemOk (execUncorrectedError die sl site s) := by
  refine .next ?_
  dsimp only
  split
  · exact .ite (.countUe h) (.countUe h)
  · exact .countUe h
  · exact .modQuad (.countUe h)
  · exact .modCluster (.countUe h)
  · exact h
  · exact h
  · exact .countUe h

theorem State.MemOk.mgmtWrite {reg v} (h : s.MemOk) : (s.mgmtWrite reg v).MemOk := by
  dsimp only [State.mgmtWrite]
  split
  · exact .ite h h
  · exact .ite h h
  · exact .ite h h
  · exact .ite h h
  · exact .ite (.ite (.thaw h) h) h
  · exact .ite h h
  · exact .ite h h
  · exact .ite h h
  · exact h

end Sys2Proof.Machine
end

section
/-!
Every step keeps the memory list canonical: no instruction and no event breaks it, and so does no issue of a gang.
-/

namespace Sys2Proof.Machine

variable {s t : State}

/-- No instruction and no event breaks the canonical form. -/
theorem exec_memOk (i : Instr) (h : s.MemOk) : NextMemOk (exec i s) := by
  cases i with
  | nop | clrm => exact .next (.finish h)
  | end_ => exact .next (.ite (.endLanes h) (.before (fun _ h => .endLanes h) h))
  | yield => exact .next (.modGang (.finish h))
  | chunk => exact .next (.ite (.taskToLow h) (.finishEnd h))
  | brk => exact .next (.ite (.modCtx (.finish h)) (.finish h))
  | trap => exact .next (.ite (.finish h) (.trapWith h))
  | eret => exact .next (.ite (.trapAll h) (.landed (fun _ h => .eretAt h) h))
  | join => exact execJoin_memOk h
  | ret => exact .next (.ite (.trapAll h) (.ite (.trap h) (.landed (fun _ h => .slideThen (fun _ h => .finishAt h) h) h)))
  | tlbinv => exact .next (.ite (.trapAll h) (.before (fun _ h => .ite (.finishEnd h) (.ite h h)) h))
  | add | sub | and | or | xor | andn | shl | shr | sar | rol | min | max | minu | maxu | adds | subs | add32 | sub32 | and32 | or32 | xor32 |
    andn32 | shl32 | shr32 | sar32 | rol32 | min32 | max32 | minu32 | maxu32 | adds32 | subs32 | mul | mulh | mulhu | mul32 | mulw | mulwu =>
    exact .next (.alu2 h)
  | neg | abs | clz | ctz | popc | sext8 | sext16 | sext32 | zext32 | brev | mov | neg32 | abs32 | clz32 | ctz32 | popc32 | brev32 | mov32 =>
    exact .next (.alu1 h)
  | sel | sel32 => exact .next (.aluSel h)
  | addi | andi | ori | xori | shli | shri | sari | slti | movz | movk => exact .next (.aluI h)
  | div | divu | rem | remu | div32 | divu32 | rem32 | remu32 => exact .next (.divide h)
  | cmpEq | cmpNe | cmpLt | cmpLe | cmpLtu | cmpLeu => exact .next (.cmp h)
  | fcmpEq | fcmpLt | fcmpLe | fcmpUn => exact .next (.fcmp h)
  | pand | por | pxor | pandn => exact .next (.plogic h)
  | fadd | fsub | fmul | fmin | fmax | fdiv | fcpys => exact .next (.fp2 h)
  | fma | fms | fnma => exact .next (.fp3 h)
  | fabs | fneg | fsqrt | frcp | frsq | fexp2 | flog2 | fsinpi | fcospi | fclass => exact .next (.fp1 h)
  | cvtF32Bf16 | cvtF32F16 | cvtF32E4m3 | cvtF32E5m2 => exact .next (.cvtWide h)
  | cvtBf16F32 | cvtF16F32 | cvtE4m3F32 | cvtE5m2F32 => exact .next (.cvtNarrow h)
  | cvtF32I32 | cvtF32I64 | cvtF32U32 => exact .next (.cvtFromInt h)
  | cvtI32F32 | cvtI64F32 | cvtU32F32 => exact .next (.cvtToInt h)
  | packBf16 | packE4m3 => exact .next (.cvtPack h)
  | ld | ldSx | ldNa | ldDesc => exact .next (.load h)
  | st | stNa | stDesc => exact .next (.store h)
  | natomAdd | natomAnd | natomOr | natomXor | natomSmin | natomSmax | natomUmin | natomUmax | natomSwap | natomCas | natomFadd =>
    exact .next (.natom h)
  | fatomAdd | fatomAnd | fatomOr | fatomXor | fatomSmin | fatomSmax | fatomUmin | fatomUmax | fatomSwap | fatomCas | fatomFadd | fatomLoad |
    fatomStore =>
    exact .next (.fatom h)
  | fence => exact .next (.before (fun _ h => .ite (.finishEnd h) h) h)
  | barj => exact .next (.sentOnce (fun _ _ h => .finish h) (fun _ h => .barrier (fun _ _ _ h => .finish (.modGang (.ite h h))) h) h)
  | barl | barm => exact .next (.sentOnce (fun _ _ h => .finish h) (fun _ h => .barrier (fun _ _ _ h => .finish h) h) h)
  | bara => exact .next (.sentOnce (fun _ _ h => .finish h) (fun _ h => .barrier (fun _ _ _ h => .arrive (fun _ _ h => .finish h) h) h) h)
  | barw =>
    exact .next (.sentOnce (fun _ _ h => .finish h) (fun _ h => .waiting (fun _ h => .finish h) (fun _ h => .barrier (fun _ _ _ h => .ite (.finish
      h) h) h) h) h)
  | baraw => exact execBaraw_memOk h
  | itinit | getchunk => exact .next (.sentOnce (fun _ _ h => .finish h) (fun _ h => .finish h) h)
  | twaitf | twaite => exact .next (.tileWait h)
  | tsetf | tsete => exact .next (.tileSet h)
  | br => exact .next (.target (fun _ => .ite (.jump h) (.ite (.finish h) (.ite (.trap h) (.retire (.spillDiv h))))) h)
  | bru => exact .next (.target (fun _ => .ite (.trap h) (.ite (.jump h) (.finish h))) h)
  | call => exact .next (.target (fun _ => .landed (fun _ h => .slideThen (fun _ h => .finishAt h) h) h) h)
  | jmpe | calle | spawn | tspawn | sende | jmpi | calli | rete => exact .next (.xfer h)
  | launch => exact .next (.ite (.trapAll h) (.before (fun _ h => .ite (.finish (.devAppend h)) (.modGang (.modGang (.devAppend h)))) h))
  | loop => exact .next (.ite (.trapAll h) (.ite (.trapAll h) (.ite (.retire h) (.retire h))))
  | lstep | xbase | xcoef => exact .next (.regOp h)
  | lbrk => exact .next (.ite (.finish h) (.ite (.trap h) (.ite (.retire h) (.finish h))))
  | lind | peekm | tstm | sbrd => exact .next (.put h)
  | putm => exact execPutm_memOk h
  | getm => exact .next (.ite (.finish h) (.before (fun _ h => .ite (.finish h) h) h))
  | shfl | shflx | bcast | ballot | redadd | scanadd | laneid | actmask => exact .next (.alu h)
  | voteAny | voteAll => exact .next (.putP h)
  | fredadd => exact .next (.fp h)
  | clrw | addwf | addwi | maddw => exact .next (.accUpdate h)
  | addww => exact .next (.checked (fun _ h => .sectorRoom (fun _ h => .finish (.foldl (fun _ _ h => h) h)) h) h)
  | rndw | rndw2 => exact .next (.accRound h)
  | bload | mzero | mma | mmas | mrd | mwt => exact .next (.mxPush h)
  | mflag => exact .next (.pushAsk (fun _ h => .mxPut h) (fun _ _ h => h) h)
  | cpy | cpyx | cpgat | cpmeta | cprem => exact .next (.cpPush h)
  | cpstop => exact .next (.push (fun _ h => .cpDiscard h) h)
  | sfcall | gload | gdrop => exact .next (.sfPush h)
  | dcfg | dpatch | dsety | dsetr | dsave | drest | dstep | dstop | dinj => exact .next (.maPush h)
  | drdo | drdy => exact .next (.maAsk h)
  | epop => exact execEpop_memOk h
  | epeek => exact .next (.counted (fun _ h => .finish h) h)
  | sbwait => exact .next (.ite (.finish h) h)
  | repf => exact .next (.ite (.trapAll h) (.retire h))
  | csrr => exact .next (.flagsDone (fun _ h => .put h) h)
  | csrw | csrs | csrc => exact .next (.csrMod h)
  | sopen => exact execSopen_memOk h
  | sput | sclose => exact .next (.streamSend h)
  | sget => exact execSget_memOk h
  | hostAppend => exact execHostAppend_memOk h
  | selection => exact execSelection_memOk h
  | refusal => exact execRefusal_memOk h
  | launchSlot => exact execLaunchSlot_memOk h
  | switchSlot => exact execSwitchSlot_memOk h
  | launchCompletion => exact execLaunchCompletion_memOk h
  | injection => exact execInjection_memOk h
  | injectionAck | ringRefill | loadComplete | sopenRetry | recordEnters | flitCrcFail | accwUpdateDone | fixedLatencyWrite | drbgErrorState =>
    exact .next h
  | crewPlacement => exact execCrewPlacement_memOk h
  | packetSend | resend => exact .next (.ite h (.foldl (fun _ _ h => h) h))
  | trainEntry => exact .next (.trainIn h)
  | ringFullNotification => exact execRingFullNotification_memOk h
  | gangFormation => exact execGangFormation_memOk h
  | gangwaitExpiry => exact execGangwaitExpiry_memOk h
  | stealRequest => exact execStealRequest_memOk h
  | stealAnswer => exact execStealAnswer_memOk h
  | routeCacheFill => exact execRouteCacheFill_memOk h
  | hotSample => exact .next (.hotSample h)
  | addReplica => exact execAddReplica_memOk h
  | replicaUpdate => exact execReplicaUpdate_memOk h
  | removeReplica => exact execRemoveReplica_memOk h
  | extentFree | objectExtentFree | tlbinvComplete | streamFlit | sopenTimeout | routeTableWrite | graceExpiry | attestationQuote | timeSourceFail |
    haltRequest | powerInterval | pwrlimWrite | lifeEstimate | eolalrWrite | eolstsClear | correctedError | remapTableWrite =>
    exact .next (.ite h h)
  | objectLoad => exact execObjectLoad_memOk h
  | objectUnload => exact .next (.ite h (.atArbiter (fun _ h => .linkAll h) h))
  | chunkCommit => exact .next (.ite (.ite (.modGang (.commitNow h)) (.commitNow h)) h)
  | taskCommit => exact execTaskCommit_memOk h
  | farOpPerformed => exact execFarOpPerformed_memOk h
  | farResultReturn => exact execFarResultReturn_memOk h
  | directoryHandlerTrap => exact execDirectoryHandlerTrap_memOk h
  | tlbWalk =>
    rw [exec_tlbWalk]
    exact execTlbWalk_memOk h
  | retryCommand => exact execRetryCommand_memOk h
  | hostClean => exact .next (.ite h (.modVf (.foldl (fun _ _ h => .clearD h) h)))
  | hostDeviceWrite => exact .next (.ite h (.squashReaders (.wrHost (.uncacheAll h))))
  | mailDelivery => exact execMailDelivery_memOk h
  | gangWake => exact execGangWake_memOk h
  | token => exact execToken_memOk h
  | tokenTimer => exact .next (.returnToken h)
  | streamAudit => exact execStreamAudit_memOk h
  | deadlockDetect => exact .next (.ite h (.countIn h))
  | recoveryStep => exact execRecoveryStep_memOk h
  | routingLoop => exact execRoutingLoop_memOk h
  | partitionDrain => exact .next (.ite h (.ite (.closeAll h) (.closeAll h)))
  | copyTransferEnd => exact execCopyTransferEnd_memOk h
  | engineFaultTaken => exact .next (.ite (.takeFault h) h)
  | mxCommandStart => exact .next (.ite (.mxVisit (.mxMoveAll h)) (.mxMoveAll h))
  | mxCommandComplete => exact execMxCommandComplete_memOk h
  | madderStep => exact execMadderStep_memOk h
  | madderCommand => exact execMadderCommand_memOk h
  | dsaveWritten => exact .next (.ite h (.foldl (fun _ _ h => .saveOn h) h))
  | fabricFiring => exact execFabricFiring_memOk h
  | gloadComplete => exact execGloadComplete_memOk h
  | contextCreate => exact .next (.ite h (.ite (.event h) (.ite (.event h) (.ite (.writeTabs h) h))))
  | softRequest => exact .next (.ite h (.startSwitch h))
  | hardRequest => exact execHardRequest_memOk h
  | haltComplete => exact .next (.ite h (.modSlice (.dropSole (.foldl (fun _ _ h => .haltGang h) h))))
  | killTimerExpiry => exact .next (.ite (.killPlain h) h)
  | killCommand => exact .next (.ite h (.ite (.modSlice (.killPlain (.ite h h))) (.killPlain (.ite h h))))
  | imageSaveComplete => exact .next (.ite h (.ite (.killPlain h) (.afterSave (.s2Leave (.clearSlice (.modCtx (.wrBytes h)))))))
  | scrubComplete => exact .next (.ite h (.modSlice (.ite (.clearSlice h) (.event (.clearSlice h)))))
  | tokenStart => exact execTokenStart_memOk h
  | tokenWritten =>
    rw [exec_tokenWritten]
    exact execTokenWritten_memOk h
  | restoreComplete => exact execRestoreComplete_memOk h
  | rescrubCommand => exact execRescrubCommand_memOk h
  | collectivePost => exact .next (.ite h (.ite (.abortColl h) h))
  | collectiveResume => exact .next (.ite h (.ite h (.abortColl h)))
  | exchangeTimeout => exact .next (.ite h (.event h))
  | participantTimeout => exact execParticipantTimeout_memOk h
  | sessionKeyAgreement => exact .next (.ite h (.ite (.event h) h))
  | sessionRecord => exact .next (.ite h (.ite h (.ite (.ite (.closeSession h) h) (.ite (.closeSession h) h))))
  | fjoadLaneLost => exact execFjoadLaneLost_memOk h
  | portDown => exact execPortDown_memOk h
  | accessTimeout => exact execAccessTimeout_memOk h
  | sourceChange => exact .next (.ite h (.bump (.event h)))
  | dtcStep => exact .next (.ite h (.stepDtc h))
  | queueRecordWrite => exact execQueueRecordWrite_memOk h
  | haltDone => exact .next (.ite h (.modCtx (.foldl (fun _ _ h => h) h)))
  | resume => exact .next (.ite h (.ite (.thaw h) h))
  | debugRegisterWrite => exact execDebugRegisterWrite_memOk h
  | thermalEvent => exact .next (.ite h (.ite (.dark h) (.ite (.foldl (fun _ _ h => .saveAway h) h) h)))
  | thermalTrip | powerLoss => exact .next (.dark h)
  | uncorrectedError => exact execUncorrectedError_memOk h
  | powerOn => exact execPowerOn_memOk h
  | mgmtRegisterWrite => exact .next (.ite (.mgmtWrite h) h)
  | madderReadDone => exact execMadderReadDone_memOk h
  | peerAcknowledgement => exact execPeerAcknowledgement_memOk h
  | peerAccess => exact execPeerAccess_memOk h
  | collectiveContribution => exact .next (.ite h (.ite h (.ite h (.ite h h))))
  | timeSourceInput => exact .next (.ite h (.ite (.correct h) (.ite (.adopt h) (.ite (.correct h) h))))
  | timeSourceRecovery => exact .next (.ite h (.ite (.adopt h) h))
  | contextRetire => exact .next (.ite h (.s2Leave (.dropTokens (.modCtx (.retireKey h)))))

/-! ## Issue and step (03:R83, 20:R418) -/

theorem NextMemOk.perform {w i} (h : s.MemOk) : NextMemOk (s.perform w i) := .ite (.next h) (.ite (.next h) (.ite (.next h) (exec_memOk _ h)))

theorem NextMemOk.issueWordNow (h : s.MemOk) : NextMemOk s.issueWordNow := by
  unfold State.issueWordNow
  dsimp only
  refine .ite (.next (.takeDue h)) (.ite (.next (.takeFault h)) (.ite (.next (.trapWith h)) ?_))
  split
  · exact .next (.trapAll h)
  · exact .ite (.next (.trapAll h)) (.ite (.next (.trapAll h)) (.perform h))

theorem NextMemOk.enterChunk {k : State → Outcome} (hk : ∀ t, t.MemOk → NextMemOk (k t)) (h : s.MemOk) : NextMemOk (s.enterChunk k) :=
  .ite (hk _ h) (.ite (.next (.taskToLow h)) (.ite (.next h) (hk _ (.modGang (.commitNow h)))))

theorem State.MemOk.toIssue {gk} (h : s.MemOk) : (s.toIssue gk).MemOk := .modGang (.pass h)

theorem NextMemOk.issue {gk} (h : s.MemOk) : NextMemOk (s.issue gk) :=
  .ite (NextMemOk.enterChunk (fun _ h => NextMemOk.issueWordNow h) (.toIssue h)) (.next (.toIssue h))

theorem NextMemOk.choose {a} (h : s.MemOk) : NextMemOk (s.choose a) := by
  dsimp only [State.choose]
  split
  · exact .ite (exec_memOk _ h) (.next h)
  · exact .ite (NextMemOk.issue h) (.next h)
  · exact .next (.cpSector h)
  · exact .next (.pass h)

theorem NextMemOk.idle (h : s.MemOk) : NextMemOk (s.idle) := by
  refine .ite (execMadderStep_memOk h) ?_
  split
  · exact .next h
  · split
    · exact execFarOpPerformed_memOk h
    · exact execFarResultReturn_memOk h
    · exact .ite (execGangWake_memOk h) (.next (.pass h))

/-- One step keeps the canonical form. -/
theorem step_memOk (h : s.MemOk) : NextMemOk (step s) := by
  unfold step
  dsimp only
  refine .ite trivial ?_
  split
  · exact .choose h
  · split
    · exact .issue h
    · exact .idle h

/-- Settles O6: every operation on the state keeps the canonical form, so every meaning does, and with them issue, events and waiting. -/
theorem memoryStaysCanonical : Obligations.MemoryStaysCanonical := fun _ _ h hstep => .of_next (step_memOk h) hstep

/-- Settles O7: memory lists nothing at reset. -/
theorem resetMemoryIsCanonical : Obligations.ResetMemoryIsCanonical := wf_nil

end Sys2Proof.Machine
end

section
/-!
What leaves a stage-2 queue (19:R406): while a retry takes one number out, every operation that reads heads and writes records again keeps the
other records and gives that number to none.
-/

namespace Sys2Proof.Machine

/-- The queue holds each of some records but the one with number `k`, under its number and its page; it holds no `k`, nor will a new record get
that number. -/
structure Vf.KeepsRecs (k : Nat) (recs : List (Nat × S2Rec)) (x : Vf) : Prop where
  next : k < x.s2next
  gone : ∀ e ∈ x.s2q, e.1 ≠ k
  kept : ∀ e ∈ recs, e.1 ≠ k → ∃ f ∈ x.s2q, f.1 = e.1 ∧ f.2.ipa = e.2.ipa

section
variable {k : Nat} {recs : List (Nat × S2Rec)} {x y : Vf}

/-- The number and the page of each record decide; who has joined it does not. -/
theorem Vf.KeepsRecs.of_map {g : Nat × S2Rec → Nat × S2Rec} (h : x.KeepsRecs k recs) (hn : y.s2next = x.s2next) (hq : y.s2q = x.s2q.map g)
    (hg : ∀ e, (g e).1 = e.1 ∧ (g e).2.ipa = e.2.ipa) : y.KeepsRecs k recs where
  next := hn ▸ h.next
  gone e he := by
    rw [hq] at he
    obtain ⟨e', he', rfl⟩ := List.mem_map.mp he
    rw [(hg e').1]
    exact h.gone e' he'
  kept e he hk := by
    obtain ⟨f, hf, hnum, hipa⟩ := h.kept e he hk
    obtain ⟨hg1, hg2⟩ := hg f
    exact ⟨g f, hq ▸ List.mem_map_of_mem hf, hg1.trans hnum, hg2.trans hipa⟩

theorem Vf.KeepsRecs.letGo {c p} (h : x.KeepsRecs k recs) : (x.letGo c p).KeepsRecs k recs := by
  refine h.of_map rfl rfl fun e => ?_
  split <;> exact ⟨rfl, rfl⟩

theorem Vf.KeepsRecs.join {r} (h : x.KeepsRecs k recs) : (x.join r).KeepsRecs k recs := by
  refine h.of_map rfl rfl fun e => ?_
  split <;> exact ⟨rfl, rfl⟩

theorem Vf.KeepsRecs.append {r} (h : x.KeepsRecs k recs) :
    ({ x with s2q := x.s2q ++ [(x.s2next, r)], s2next := x.s2next + 1 } : Vf).KeepsRecs k recs where
  next := Nat.lt_succ_of_lt h.next
  gone e he := by
    rcases List.mem_append.mp he with he | he
    · exact h.gone e he
    · rw [List.mem_singleton.mp he]
      exact Nat.ne_of_gt h.next
  kept e he hk := by
    obtain ⟨f, hf, hsame⟩ := h.kept e he hk
    exact ⟨f, List.mem_append_left _ hf, hsame⟩

/-- A retry takes the records of one number out. -/
theorem Vf.KeepsRecs.filter (hk : k < x.s2next) : ({ x with s2q := x.s2q.filter (fun e => e.1 != k) } : Vf).KeepsRecs k x.s2q where
  next := hk
  gone e he := by simpa using (List.mem_filter.mp he).2
  kept e he hne := ⟨e, List.mem_filter.mpr ⟨he, by simpa using hne⟩, rfl, rfl⟩

end

/-- The queue of a function keeps its records. -/
def State.KeepsRecs (v k : Nat) (recs : List (Nat × S2Rec)) (s : State) : Prop := (s.vf v).KeepsRecs k recs

variable {v k : Nat} {recs : List (Nat × S2Rec)} {s t : State}

theorem State.KeepsRecs.ite {c : Prop} [Decidable c] (hs : s.KeepsRecs v k recs) (ht : t.KeepsRecs v k recs) :
    (if c then s else t).KeepsRecs v k recs := by
  split
  · exact hs
  · exact ht

theorem State.KeepsRecs.foldl {α : Type} {f : State → α → State} {l : List α}
    (hf : ∀ t x, t.KeepsRecs v k recs → (f t x).KeepsRecs v k recs) (h : s.KeepsRecs v k recs) : (l.foldl f s).KeepsRecs v k recs := by
  induction l generalizing s with
  | nil => exact h
  | cons x l ih => exact ih (hf s x h)

/-- Only the functions' tables count. -/
theorem State.KeepsRecs.of_vfs (hv : t.vfs = s.vfs) (h : s.KeepsRecs v k recs) : t.KeepsRecs v k recs := by
  rwa [State.KeepsRecs, State.vf, hv]

theorem State.KeepsRecs.modVf {n u} (hu : ∀ x : Vf, x.KeepsRecs k recs → (u x).KeepsRecs k recs) (h : s.KeepsRecs v k recs) :
    (s.modVf n u).KeepsRecs v k recs := by
  unfold State.KeepsRecs
  by_cases hn : v = n
  · subst hn
    rw [modVf_vf_same]
    exact hu _ h
  · rw [modVf_vf_other _ _ _ _ hn]
    exact h

/-! ## Faults and their records (19:R406) -/

theorem State.KeepsRecs.s2Append {n sl r} (h : s.KeepsRecs v k recs) : (s.s2Append n sl r).KeepsRecs v k recs :=
  State.KeepsRecs.modVf (s := s) (u := fun f => { f with s2q := f.s2q ++ [(f.s2next, r)], s2next := f.s2next + 1 }) (fun _ h => h.append) h

theorem State.KeepsRecs.s2Enter {n sl r} (h : s.KeepsRecs v k recs) : (s.s2Enter n sl r).KeepsRecs v k recs :=
  .ite (.modVf (fun _ h => h.join) h) (.ite (.modVf (fun _ ⟨hn, hg, hk⟩ => ⟨hn, hg, hk⟩) h) (.s2Append h))

theorem State.KeepsRecs.stage2Record {u gk va ipa wr table perm eng} (h : s.KeepsRecs v k recs) :
    (s.stage2Record u gk va ipa wr table perm eng).KeepsRecs v k recs :=
  .s2Enter (.modVf (fun _ h => h.letGo) h)

theorem State.KeepsRecs.selFault {u sl va ipa wr table perm} (h : s.KeepsRecs v k recs) :
    (s.selFault u sl va ipa wr table perm).KeepsRecs v k recs := .stage2Record h

theorem State.KeepsRecs.s2Fill {n} (h : s.KeepsRecs v k recs) : (s.s2Fill n).KeepsRecs v k recs :=
  .foldl (fun _ _ h => .s2Enter h) (.modVf (fun _ ⟨hn, hg, hk⟩ => ⟨hn, hg, hk⟩) h)

/-! ## Memory and squashes -/

theorem State.KeepsRecs.putAll {key ws} (h : s.KeepsRecs v k recs) : (s.putAll key ws).KeepsRecs v k recs := by
  obtain ⟨m, ks, e⟩ := putAll_shape key ws s
  rw [e]
  exact h

theorem State.KeepsRecs.wrBytes {key loc bs} (h : s.KeepsRecs v k recs) : (s.wrBytes key loc bs).KeepsRecs v k recs :=
  State.KeepsRecs.putAll (s := s.remember key _) h

theorem State.KeepsRecs.event {kind sl cx vf detail value} (h : s.KeepsRecs v k recs) :
    (s.event kind sl cx vf detail value).KeepsRecs v k recs := .ite h h

theorem State.KeepsRecs.dirtyLog {cx ipage} (h : s.KeepsRecs v k recs) : (s.dirtyLog cx ipage).KeepsRecs v k recs :=
  .ite h (.ite (.modVf (u := fun x => { x with dlog := _ }) (fun _ ⟨hn, hg, hk⟩ => ⟨hn, hg, hk⟩) h)
    (.event (.modVf (u := fun x => { x with dovf := true }) (fun _ ⟨hn, hg, hk⟩ => ⟨hn, hg, hk⟩) h)))

theorem State.KeepsRecs.setD {cx ipa} (h : s.KeepsRecs v k recs) : (s.setD cx ipa).KeepsRecs v k recs := by
  unfold State.setD
  split
  · exact .ite (.putAll (ws := [(_, _)]) (.dirtyLog h)) h
  · exact h

theorem State.KeepsRecs.noteAccess {qk cx va wr} (h : s.KeepsRecs v k recs) : (s.noteAccess qk cx va wr).KeepsRecs v k recs := by
  unfold State.noteAccess
  split
  · exact State.KeepsRecs.ite (.setD h) h
  · exact h

theorem State.KeepsRecs.undoSpec {gk} (h : s.KeepsRecs v k recs) : (s.undoSpec gk).KeepsRecs v k recs :=
  State.KeepsRecs.foldl (fun _ _ h => .foldl (fun _ _ h => .putAll h) h) h

theorem State.KeepsRecs.abortTask {gk t} (h : s.KeepsRecs v k recs) : (s.abortTask gk t).KeepsRecs v k recs := h.undoSpec

theorem State.KeepsRecs.squashChunk {gk} (h : s.KeepsRecs v k recs) : (s.squashChunk gk).KeepsRecs v k recs := .ite h (.ite (.ite h h) h)

theorem State.KeepsRecs.squashGang {gk} (h : s.KeepsRecs v k recs) : (s.squashGang gk).KeepsRecs v k recs := by
  dsimp only [State.squashGang]
  split
  · exact h
  · exact .ite (.abortTask h) (.squashChunk h)
  · exact .squashChunk h

theorem State.KeepsRecs.squashList {gks} (h : s.KeepsRecs v k recs) : (s.squashList gks).KeepsRecs v k recs := by
  induction gks generalizing s with
  | nil => exact h
  | cons gk gks ih => exact ih (.squashGang h)

/-! ## Heads that are read again and records that are written again (19:R406) -/

theorem viewOf_vfs (s : State) (sl c : Nat) : (s.viewOf sl c).vfs = s.vfs := by
  dsimp only [State.viewOf]
  split
  · rfl
  · split <;> rfl

theorem State.KeepsRecs.addHead {sl c hs} (h : s.KeepsRecs v k recs) : (s.addHead sl c hs).KeepsRecs v k recs := .ite h h

theorem State.KeepsRecs.readHead {sl c src desc tag args flagsBad tabEnt} (h : s.KeepsRecs v k recs) :
    (s.readHead sl c src desc tag args flagsBad tabEnt).KeepsRecs v k recs := by
  refine .ite h ?_
  dsimp only
  split
  · exact State.KeepsRecs.of_vfs rfl (State.KeepsRecs.selFault (h.of_vfs (viewOf_vfs s sl c)))
  · exact .addHead h

theorem State.KeepsRecs.queueHead {sl c n q} (h : s.KeepsRecs v k recs) : (s.queueHead sl c n q).KeepsRecs v k recs := .ite h (.readHead h)

theorem State.KeepsRecs.seeQueue {n} (h : s.KeepsRecs v k recs) : (s.seeQueue n).KeepsRecs v k recs := by
  dsimp only [State.seeQueue]
  split
  · exact h
  · exact .queueHead h

theorem State.KeepsRecs.devHead {sl} (h : s.KeepsRecs v k recs) : (s.devHead sl).KeepsRecs v k recs := by
  dsimp only [State.devHead]
  split
  · exact h
  · exact .ite h (.readHead h)

theorem State.KeepsRecs.tabHead {sl e} (h : s.KeepsRecs v k recs) : (s.tabHead sl e).KeepsRecs v k recs := by
  dsimp only [State.tabHead]
  split
  · exact h
  · exact .ite h (State.KeepsRecs.readHead h)

theorem State.KeepsRecs.readAll {n} (h : s.KeepsRecs v k recs) : (s.readAll n).KeepsRecs v k recs :=
  .foldl (fun _ _ h => .ite (.foldl (fun _ _ h => .tabHead h) h) h) (.foldl (fun _ _ h => .ite (.seeQueue h) h) h)

theorem State.KeepsRecs.donePart {sl a p bs} (h : s.KeepsRecs v k recs) : (s.donePart sl a p bs).KeepsRecs v k recs := by
  have hnote : ∀ c [Decidable c], (if c then s.noteAccess (qkOfCk (ckOf sl 0)) (s.runCx sl) a true else s).KeepsRecs v k recs :=
    fun _ => .ite (.noteAccess h) h
  exact .ite (.ite (.wrBytes (hnote _)) (.event (hnote _))) (.squashList (.wrBytes (hnote _)))

theorem State.KeepsRecs.of_tryDone {sl a bs} (h : s.KeepsRecs v k recs) (e : s.tryDone sl a bs = .ok t) : t.KeepsRecs v k recs := by
  unfold State.tryDone at e
  split at e
  · cases e
    exact .donePart (.donePart h)
  all_goals cases e

theorem State.KeepsRecs.putDone {sl a bs counts} (h : s.KeepsRecs v k recs) : (s.putDone sl a bs counts).KeepsRecs v k recs := by
  unfold State.putDone
  refine .ite h ?_
  split
  · next e => exact .of_tryDone h e
  · exact .ite (.modVf (fun _ ⟨hn, hg, hk⟩ => ⟨hn, hg, hk⟩) h) h
  · exact State.KeepsRecs.selFault h

theorem State.KeepsRecs.retryDones {sl} (h : s.KeepsRecs v k recs) : (s.retryDones sl).KeepsRecs v k recs := .foldl (fun _ _ h => .putDone h) h

/-! ## The retry command (19:R406) -/

theorem exec_retryCommand (vf i : Nat) (s : State) : exec (.retryCommand vf i) s = execRetryCommand vf i s := by
  rfl

theorem execRetryCommand_keepsRecs (hb : s.booted = true) (hk : k < (s.vf v).s2next) :
    ∃ t, execRetryCommand v k s = .next t ∧ t.KeepsRecs v k (s.vf v).s2q := by
  have hout : (s.modVf v (fun x => { x with s2q := x.s2q.filter (fun e => e.1 != k) })).KeepsRecs v k (s.vf v).s2q := by
    unfold State.KeepsRecs
    rw [modVf_vf_same]
    exact .filter hk
  refine ⟨_, if_neg (by simp [hb]), ?_⟩
  exact .foldl (fun _ _ h => .ite (.retryDones (.devHead h)) h) (.readAll (.s2Fill hout))

theorem retriesReleaseTheirRecord : Says.RetriesReleaseTheirRecord := by
  intro s vf k
  rw [exec_retryCommand]
  refine ⟨fun hb => if_pos hb, fun hb hk => ?_⟩
  obtain ⟨t, ht, -, hgone, hkept⟩ := execRetryCommand_keepsRecs hb hk
  exact ⟨t, ht, hgone, hkept⟩

end Sys2Proof.Machine
end

section
/-!
A walk of a quad (04:R108, R111, R112, 19:R405, R406): what its entry holds, what it puts into the TLBs, and what it reports.
-/

namespace Sys2Proof.Machine

variable {s : State} {cx sl q qk va : Nat} {wr : Bool} {e : TlbEnt}

/-! ## The entry of a walk (04:R108) -/

theorem one_le_leafPages (lvl : Nat) : 1 ≤ 2 ^ lvlShift lvl / 65536 := by
  unfold lvlShift
  split <;> decide

/-- The entry is the context's and the page's, and its stage-1 page has one page of 64 KiB at least. -/
theorem s1Go_ok {tab : Nat} {lvls : List Nat} (h : s.s1Go cx va tab lvls = .ok e) : e.ctx = cx ∧ e.vpage = va / 65536 ∧ 1 ≤ e.sz1 := by
  induction lvls generalizing tab with
  | nil => cases h
  | cons lvl lvls ih =>
    unfold State.s1Go at h
    dsimp only at h
    split at h
    · cases h
    · split at h
      · cases h
      · split at h
        · exact ih h
        · split at h
          · cases h
          · cases h
            exact ⟨rfl, rfl, one_le_leafPages lvl⟩

theorem walk_ok (h : s.walk cx va = .ok e) : e.ctx = cx ∧ e.vpage = va / 65536 ∧ 1 ≤ e.sz1 := s1Go_ok h

/-! ## The TLBs (04:R111) -/

theorem tlbHit_modCluster (s : State) (qk cx va clk : Nat) (u : Cluster → Cluster) {f : TlbEnt} {l : List TlbEnt}
    (hl : (s.quad qk).tlb = f :: l) (hc : f.ctx = cx) (hv : f.vpage = va / 65536) : (s.modCluster clk u).tlbHit qk cx va = some f := by
  have hp : ((s.modCluster clk u).quad qk).tlb = f :: l := hl
  simp only [State.tlbHit, hp, List.find?_cons, hc, hv, beq_self_eq_true, Bool.and_self]

/-- An access that is translated fills the TLBs: with the dirty bit set for a write. -/
theorem noteAccess_fills (h : s.translate qk cx va wr = .ok e) (hc : e.ctx = cx) (hv : e.vpage = va / 65536) :
    ∃ f, (s.noteAccess qk cx va wr).tlbHit qk cx va = some f ∧ f.ppage = e.ppage ∧ f.ipage = e.ipage ∧ (wr = true → f.d = true) ∧
      (wr = false → (s.noteAccess qk cx va wr).mem = s.mem) := by
  unfold State.noteAccess
  simp only [h]
  cases hset : wr && !e.d with
  | true =>
    refine ⟨{ e with d := true }, ?_, rfl, rfl, fun _ => rfl, fun hw => by simp [hw] at hset⟩
    exact tlbHit_modCluster _ _ _ _ _ _ (congrArg Quad.tlb (modQuad_quad_same _ _ _)) hc hv
  | false =>
    refine ⟨e, ?_, rfl, rfl, fun hw => by simpa [hw] using hset, fun _ => rfl⟩
    exact tlbHit_modCluster _ _ _ _ _ _ (congrArg Quad.tlb (modQuad_quad_same _ _ _)) hc hv

/-! ## The walk of a quad (04:R111) -/

theorem translate_of_walks {va : BitVec 64} (h : Says.walks s sl q va wr) :
    s.translate (qkOf sl q) (s.runCx sl) va.toNat wr = s.walk (s.runCx sl) va.toNat := by
  obtain ⟨-, -, -, hmiss⟩ := h
  unfold State.translate
  split
  · next e he =>
    obtain ⟨hw, hd⟩ := hmiss e he
    exact if_pos (by simp [hw, hd])
  · rfl

/-- What a quad's walk leads to, by its outcome. -/
def State.afterWalk (s : State) (sl q : Nat) (va : BitVec 64) (wr : Bool) : Walk → State
  | .s1 => s
  | .s2 ipa table _ => s.stage2Record .walk (gkOf (4 * qkOf sl q) 0) va.toNat ipa wr table false false
  | .ok e =>
    if wr && e.w1 && !e.w2 then
      s.stage2Record .walk (gkOf (4 * qkOf sl q) 0) va.toNat (e.ipage * 65536 + va.toNat % 65536) true false true false
    else s.noteAccess (qkOf sl q) (s.runCx sl) va.toNat (wr && e.w1)

theorem execTlbWalk_of_walks {va : BitVec 64} (h : Says.walks s sl q va wr) :
    execTlbWalk sl q va wr s = .next (s.afterWalk sl q va wr (s.walk (s.runCx sl) va.toNat)) := by
  obtain ⟨-, hrun, hglob, hmiss⟩ := h
  unfold execTlbWalk
  dsimp only
  rw [if_neg (by simp [Option.isNone_eq_false_iff.mpr hrun, hglob])]
  revert hmiss
  generalize s.tlbHit (qkOf sl q) (s.runCx sl) va.toNat = hit
  generalize s.walk (s.runCx sl) va.toNat = w
  intro hmiss
  rw [if_neg]
  · cases w <;> rfl
  · cases hit with
    | none => simp
    | some e =>
      obtain ⟨hw, hd⟩ := hmiss e rfl
      simp [hw, hd]

theorem walksFillTheCaches : Says.WalksFillTheCaches := by
  intro s sl q va wr e h hwalk hmay
  obtain ⟨hc, hv, -⟩ := walk_ok hwalk
  have hgo : execTlbWalk sl q va wr s = .next (s.noteAccess (qkOf sl q) (s.runCx sl) va.toNat wr) := by
    rw [execTlbWalk_of_walks h, hwalk]
    cases wr with
    | false => rfl
    | true => simp [State.afterWalk, hmay rfl]
  obtain ⟨f, hf⟩ := noteAccess_fills ((translate_of_walks h).trans hwalk) hc hv
  exact ⟨_, f, hgo, hf⟩

/-! ## Reports (19:R405, R406) -/

/-- A stage-2 fault of a quad's walk (log 57). -/
def State.walkRec (s : State) (sl q : Nat) (va : BitVec 64) (ipa kind : Nat) : S2Rec :=
  { ipa := ipa / 65536 * 65536, va := va, dtc := s.dtc, ctx := s.runCx sl % 8, kind := kind, core := 4 * q, gslot := 0, joined := [.walk] }

theorem stage2Record_walk (s : State) (sl q ipa : Nat) (va : BitVec 64) (wr table perm : Bool) (hq : q < 2048) :
    s.stage2Record .walk (gkOf (4 * qkOf sl q) 0) va.toNat ipa wr table perm false =
      (s.s2Leave (s.runCx sl) (fun u => u == .walk)).s2Enter (s.ctx (s.runCx sl)).vf sl
        (s.walkRec sl q va ipa ((if wr then 1 else 0) + (if table then 2 else 0) + (if perm then 8 else 0))) := by
  have hsl : slOfGk (gkOf (4 * qkOf sl q) 0) = sl := by unfold slOfGk gkOf qkOf; omega
  have hcore : coreOfCk (ckOfGk (gkOf (4 * qkOf sl q) 0)) = 4 * q := by unfold coreOfCk ckOfGk gkOf qkOf; omega
  have hslot : slotOfGk (gkOf (4 * qkOf sl q) 0) = 0 := by unfold slotOfGk gkOf qkOf; omega
  have hcx : s.gangCx (gkOf (4 * qkOf sl q) 0) = s.runCx sl := by rw [State.gangCx, hsl]
  unfold State.stage2Record
  rw [hsl, hcore, hslot, hcx]
  simp only [BitVec.ofNat_toNat, BitVec.setWidth_eq, Bool.false_eq_true, if_false, Nat.add_zero]
  rfl

/-- Which pages have a record does not depend on who holds at them. -/
theorem hasRec_letGo (x : Vf) (c : Nat) (p : S2User → Bool) (r : S2Rec) : (x.letGo c p).hasRec r = x.hasRec r := by
  simp only [Vf.hasRec, Vf.letGo, List.any_map]
  congr 1
  funext e
  simp only [Function.comp_apply]
  split <;> rfl

/-- A fault of a page that a record stands for joins it. -/
theorem s2Leave_s2Enter_join {p : S2User → Bool} {r : S2Rec} (h : (s.vf (s.ctx cx).vf).hasRec r = true) :
    let t := (s.s2Leave cx p).s2Enter (s.ctx cx).vf sl r
    t.mem = s.mem ∧ (t.vf (s.ctx cx).vf).s2q = (((s.vf (s.ctx cx).vf).letGo (cx % 8) p).join r).s2q := by
  have hy : (s.s2Leave cx p).vf (s.ctx cx).vf = (s.vf (s.ctx cx).vf).letGo (cx % 8) p := modVf_vf_same _ _ _
  unfold State.s2Enter
  dsimp only
  rw [hy, hasRec_letGo, h, if_pos rfl, modVf_vf_same, hy]
  exact ⟨rfl, rfl⟩

/-- A fault of another page takes a record while the queue has room. -/
theorem s2Leave_s2Enter_append {p : S2User → Bool} {r : S2Rec} (h : (s.vf (s.ctx cx).vf).hasRec r = false)
    (hroom : (s.vf (s.ctx cx).vf).s2q.length < 256) (hover : (s.vf (s.ctx cx).vf).s2over = []) :
    let t := (s.s2Leave cx p).s2Enter (s.ctx cx).vf sl r
    let x := s.vf (s.ctx cx).vf
    (t.vf (s.ctx cx).vf).s2q = (x.letGo (cx % 8) p).s2q ++ [(x.s2next, r)] ∧ (t.vf (s.ctx cx).vf).s2next = x.s2next + 1 ∧
      (t.slice sl).ctrs.s2flt = (s.slice sl).ctrs.s2flt + 1 ∧ t.mem = s.mem := by
  have hy : (s.s2Leave cx p).vf (s.ctx cx).vf = (s.vf (s.ctx cx).vf).letGo (cx % 8) p := modVf_vf_same _ _ _
  have hfull : ¬ (256 ≤ ((s.vf (s.ctx cx).vf).letGo (cx % 8) p).s2q.length ∨ ((s.vf (s.ctx cx).vf).letGo (cx % 8) p).s2over ≠ []) := by
    simp [Vf.letGo, hover, hroom]
  unfold State.s2Enter
  dsimp only
  rw [hy, hasRec_letGo, h, if_neg (by simp), if_neg hfull]
  simp only [State.s2Append, modSlice_vf, modVf_vf_same, hy, modSlice_slice_same]
  exact ⟨rfl, rfl, rfl, rfl⟩

/-- Both ways in which a fault of a quad's walk is reported. -/
theorem walkReports {va : BitVec 64} {ipa : Nat} {w table perm : Bool} {kind : Nat} (hq : q < 2048)
    (hk : (if w then 1 else 0) + (if table then 2 else 0) + (if perm then 8 else 0) = kind) :
    let t := s.stage2Record .walk (gkOf (4 * qkOf sl q) 0) va.toNat ipa w table perm false
    let cx := s.runCx sl
    let x := s.vf (s.ctx cx).vf
    let y := x.letGo (cx % 8) (fun u => u == .walk)
    let r := s.walkRec sl q va ipa kind
    ((∃ e ∈ x.s2q, e.2.ipa = r.ipa ∧ e.2.ctx = cx % 8) → t.mem = s.mem ∧ (t.vf (s.ctx cx).vf).s2q = (y.join r).s2q) ∧
    ((∀ e ∈ x.s2q, ¬ (e.2.ipa = r.ipa ∧ e.2.ctx = cx % 8)) → x.s2q.length < 256 → x.s2over = [] →
      (t.vf (s.ctx cx).vf).s2q = y.s2q ++ [(x.s2next, r)] ∧ (t.vf (s.ctx cx).vf).s2next = x.s2next + 1 ∧
        (t.slice sl).ctrs.s2flt = (s.slice sl).ctrs.s2flt + 1 ∧ t.mem = s.mem) := by
  dsimp only
  rw [stage2Record_walk s sl q ipa va w table perm hq, hk]
  refine ⟨fun ⟨e, he, hipa, hctx⟩ => s2Leave_s2Enter_join ?_, fun hnew hroom hover => s2Leave_s2Enter_append ?_ hroom hover⟩
  · exact List.any_eq_true.mpr ⟨e, he, by simpa [State.walkRec] using ⟨hipa, hctx⟩⟩
  · refine List.any_eq_false.mpr fun e he hsame => hnew e he ?_
    simpa [State.walkRec] using hsame

theorem failedWalksReport : Says.FailedWalksReport := by
  intro s sl q va wr h
  have hq : q < 2048 := h.1
  dsimp only
  rw [exec_tlbWalk, execTlbWalk_of_walks h]
  refine ⟨fun hs1 => by rw [hs1, State.afterWalk], fun ipa table ms hs2 => ?_, fun e hok hw hw1 hw2 => ?_⟩
  · rw [hs2]
    obtain ⟨hjoin, hnew⟩ := walkReports (s := s) (sl := sl) (va := va) (ipa := ipa) (perm := false) hq rfl
    exact ⟨fun hr => ⟨_, rfl, hjoin hr⟩, fun hn hroom hover => ⟨_, rfl, hnew hn hroom hover⟩⟩
  · subst hw
    have hperm : (true && e.w1 && !e.w2) = true := by simp [hw1, hw2]
    rw [hok, State.afterWalk, if_pos hperm]
    obtain ⟨hjoin, hnew⟩ := walkReports (s := s) (sl := sl) (va := va) (ipa := e.ipage * 65536 + va.toNat % 65536)
      (w := true) (table := false) (perm := true) hq rfl
    exact ⟨fun hr => ⟨_, rfl, hjoin hr⟩, fun hn hroom hover => ⟨_, rfl, hnew hn hroom hover⟩⟩

end Sys2Proof.Machine
end

section
/-!
The host's clean command (14:R370, 21:R449): one byte as a key sees it after a write under that key, and with it the dirty bits of the leaves.
-/

namespace Sys2Proof.Machine

variable {s : State} {key loc a : Nat}

/-! ## Encrypted locations (14:R359, R372) -/

theorem encrypted_iff (loc : Nat) : encrypted loc = true ↔ loc < 2 ^ 47 ∨ 2 ^ 48 ≤ loc ∧ loc < 2 ^ 50 := by
  unfold encrypted spaceOfLoc
  split_ifs <;> simp <;> omega

/-- A sector is encrypted as a whole. -/
theorem encrypted_congr_sector (h : a / 256 = loc / 256) : encrypted a = encrypted loc := by
  rw [Bool.eq_iff_iff, encrypted_iff, encrypted_iff]
  omega

theorem home_of_encrypted (l : Links) (h : encrypted loc = true) : l.home loc = loc := by
  rw [encrypted_iff] at h
  rw [Links.home, if_neg (by omega)]

theorem le_peerLoc (peer addr : Nat) : 2 ^ 50 ≤ peerLoc peer addr := by
  unfold peerLoc
  omega

theorem encrypted_home (l : Links) (loc : Nat) : encrypted (l.home loc) = encrypted loc := by
  by_cases ha : 2 ^ 47 + 2 ^ 46 ≤ loc ∧ loc < 2 ^ 48
  · have hloc : encrypted loc = false := by
      rw [Bool.eq_false_iff, Ne, encrypted_iff]
      omega
    rw [Links.home, if_pos ha, hloc]
    exact encrypted_of_le (le_peerLoc _ _)
  · rw [Links.home, if_neg ha]

/-- What is kept in an encrypted sector is the sector's own. -/
theorem home_sector (l : Links) (h : encrypted loc = true) (hs : l.home a / 256 = loc / 256) : a = l.home a ∧ a / 256 = loc / 256 := by
  have ha : l.home a = a := home_of_encrypted l (by rw [← encrypted_home l a, encrypted_congr_sector hs, h])
  exact ⟨ha.symm, ha ▸ hs⟩

/-! ## One byte under a key (14:R359, R360) -/

/-- A byte read raw: outside the encrypted memory, or in a sector without a key or of the reader's. -/
theorem rdByte_raw (h : encrypted a = false ∨ tget 0 s.keyOf (a / 256) = 0 ∨ tget 0 s.keyOf (a / 256) = key) :
    s.rdByte key a = Memory.get s.mem (s.links.home a) := if_pos h

/-- A byte read in a sector of another key depends on that sector and its key only. -/
theorem rdByte_congr_garbled {t : State} (h : ¬ (encrypted a = false ∨ tget 0 s.keyOf (a / 256) = 0 ∨ tget 0 s.keyOf (a / 256) = key))
    (hk : tget 0 t.keyOf (a / 256) = tget 0 s.keyOf (a / 256)) (hmem : ∀ n, n / 256 = a / 256 → Memory.get t.mem n = Memory.get s.mem n) :
    t.rdByte key a = s.rdByte key a := by
  have hblk : (List.range 16).map (fun i => Memory.get t.mem (a / 16 * 16 + i)) =
      (List.range 16).map (fun i => Memory.get s.mem (a / 16 * 16 + i)) := by
    refine List.map_congr_left fun i hi => hmem _ ?_
    have := List.mem_range.mp hi
    omega
  unfold State.rdByte
  dsimp only
  rw [hk, if_neg h, if_neg h, hblk]

theorem rekey_links (s : State) (key sec : Nat) : (s.rekey key sec).links = s.links := by
  unfold State.rekey
  generalize s.rdBytes key (sec * 256) 256 = bs
  dsimp only
  split_ifs <;> rfl

theorem rekey_keyOf (s : State) (key sec n : Nat) : tget 0 (s.rekey key sec).keyOf n = if n = sec then key else tget 0 s.keyOf n := by
  unfold State.rekey
  generalize s.rdBytes key (sec * 256) 256 = bs
  dsimp only
  split_ifs with h1 h2 h3
  · rw [h2, h1]
  · rfl
  all_goals simp [tget_tput, *]

theorem rdBytes_length (s : State) (key loc n : Nat) : (s.rdBytes key loc n).length = n := by
  simp [State.rdBytes]

theorem rdBytes_getD (s : State) (key loc : Nat) {n j : Nat} (hj : j < n) : (s.rdBytes key loc n).getD j 0#8 = s.rdByte key (loc + j) := by
  simp [State.rdBytes, hj]

/-- Memory once a sector stands under a key: outside the sector as before, inside it as the key sees it. -/
theorem get_rekey (hm : s.MemOk) (key sec n : Nat) : Memory.get (s.rekey key sec).mem n =
    if n / 256 = sec ∧ tget 0 s.keyOf sec ≠ key ∧ tget 0 s.keyOf sec ≠ 0 then s.rdByte key n else Memory.get s.mem n := by
  have hlen := rdBytes_length s key (sec * 256) 256
  have hbyte := @rdBytes_getD s key (sec * 256) 256
  unfold State.rekey
  generalize s.rdBytes key (sec * 256) 256 = bs at hlen hbyte ⊢
  dsimp only
  by_cases h1 : tget 0 s.keyOf sec = key
  · rw [if_pos h1, if_neg (by simp [h1])]
  · by_cases h2 : tget 0 s.keyOf sec = 0
    · rw [if_neg h1, if_pos h2, if_neg (by simp [h2])]
    · rw [if_neg h1, if_neg h2]
      by_cases hn : n / 256 = sec
      · obtain ⟨j, hj, rfl⟩ : ∃ j, j < 256 ∧ n = sec * 256 + j := ⟨n % 256, by omega, by omega⟩
        rw [if_pos ⟨hn, h1, h2⟩, ← hbyte hj]
        exact Memory.get_setBytes_inside _ _ _ _ hm (by omega)
      · rw [if_neg (by simp [hn])]
        exact Memory.get_setBytes_outside _ _ _ _ hm (by omega)

/-- A sector that comes under a key reads under that key as it did. -/
theorem rdByte_rekey (hm : s.MemOk) (hloc : encrypted loc = true) : (s.rekey key (loc / 256)).rdByte key a = s.rdByte key a := by
  have hget := get_rekey hm key (loc / 256)
  have hkey := rekey_keyOf s key (loc / 256) (a / 256)
  by_cases ha : a / 256 = loc / 256
  · have hhome : s.links.home a = a := home_of_encrypted _ (encrypted_congr_sector ha ▸ hloc)
    rw [if_pos ha] at hkey
    rw [rdByte_raw (.inr (.inr hkey)), rekey_links, hhome, hget]
    split
    · rfl
    · next hn =>
      have hk : tget 0 s.keyOf (a / 256) = 0 ∨ tget 0 s.keyOf (a / 256) = key := by
        rw [ha]
        tauto
      rw [rdByte_raw (.inr hk), hhome]
  · rw [if_neg ha] at hkey
    by_cases hraw : encrypted a = false ∨ tget 0 s.keyOf (a / 256) = 0 ∨ tget 0 s.keyOf (a / 256) = key
    · rw [rdByte_raw hraw, rdByte_raw (by rwa [hkey]), rekey_links, hget, if_neg]
      exact fun h => ha (home_sector _ hloc h.1).2
    · refine rdByte_congr_garbled hraw hkey fun n hn => ?_
      rw [hget, if_neg (by omega)]

/-- One byte after a raw write of another, or of the same, in a sector that stands under the reader's key. -/
theorem rdByte_of_set {t : State} {b : Byte} (hm : s.MemOk) (hk : encrypted loc = true → tget 0 s.keyOf (loc / 256) = key)
    (hmem : t.mem = Memory.set s.mem (s.links.home loc) b) (hkey : t.keyOf = s.keyOf) (hlinks : t.links = s.links) :
    t.rdByte key a = if s.links.home a = s.links.home loc then b else s.rdByte key a := by
  have hget : ∀ n, Memory.get t.mem n = if n = s.links.home loc then b else Memory.get s.mem n := by
    intro n
    rw [hmem]
    split
    · next h => exact h ▸ get_set_same _ _ _ none hm
    · next h => exact get_set_other _ _ _ _ h none hm
  by_cases hraw : encrypted a = false ∨ tget 0 s.keyOf (a / 256) = 0 ∨ tget 0 s.keyOf (a / 256) = key
  · rw [rdByte_raw hraw, rdByte_raw (hkey ▸ hraw), hlinks, hget]
  · have hoff : ∀ n, n / 256 = a / 256 → n ≠ s.links.home loc := by
      rintro n hn rfl
      push Not at hraw
      obtain ⟨henc, -, hother⟩ := hraw
      obtain ⟨-, hsec⟩ := home_sector s.links (by simpa using henc) hn
      exact hother (hsec ▸ hk (by simpa [encrypted_congr_sector hsec] using henc))
    have ha : s.links.home a = a := home_of_encrypted _ (by simpa using fun h => hraw (.inl h))
    rw [ha, if_neg (hoff a rfl)]
    refine rdByte_congr_garbled hraw (by rw [hkey]) fun n hn => ?_
    rw [hget, if_neg (hoff n hn)]

/-- A byte written under a key reads under that key at every location that shows it, and no other location changes. -/
theorem rdByte_wrByte (hm : s.MemOk) (key loc a : Nat) (b : Byte) :
    (s.wrByte key loc b).rdByte key a = if s.links.home a = s.links.home loc then b else s.rdByte key a := by
  cases hloc : encrypted loc with
  | false => exact rdByte_of_set hm (by simp [hloc]) (by simp [State.wrByte, hloc]) (by simp [State.wrByte, hloc]) (by simp [State.wrByte, hloc])
  | true =>
    have hset : (s.wrByte key loc b).rdByte key a = _ :=
      rdByte_of_set (s := s.rekey key (loc / 256)) (b := b) (wf_rekey s _ _ hm) (fun _ => by rw [rekey_keyOf, if_pos rfl])
        (by simp only [State.wrByte, hloc, if_true]) (by simp only [State.wrByte, hloc, if_true]) (by simp only [State.wrByte, hloc, if_true])
    rwa [rekey_links, rdByte_rekey hm hloc] at hset

/-! ## The dirty bits of the leaves (14:R370) -/

theorem clearBit3 (b : Byte) : BitVec.ofNat 8 (insBits b.toNat 0 3 1) = b &&& 0xf7#8 := by
  revert b
  decide

theorem and_mask_idem (b : Byte) : b &&& 0xf7#8 &&& 0xf7#8 = b &&& 0xf7#8 := by
  rw [BitVec.and_assoc, BitVec.and_self]

theorem clearD_shape (s : State) (l : Leaf) : ∃ m k, s.clearD l = { s with mem := m, keyOf := k } :=
  putAll_shape s.ochre.devKey [(l.at_, BitVec.ofNat 8 (insBits (s.rdByte s.ochre.devKey l.at_).toNat 0 3 1))] s

/-- Clearing dirty bits changes the memory list and the sectors' keys, and nothing else. -/
theorem foldl_clearD_shape (ls : List Leaf) (s : State) : ∃ m k, ls.foldl State.clearD s = { s with mem := m, keyOf := k } := by
  induction ls generalizing s with
  | nil => exact ⟨s.mem, s.keyOf, rfl⟩
  | cons l ls ih =>
    obtain ⟨m, k, h⟩ := clearD_shape s l
    obtain ⟨m', k', h'⟩ := ih (s.clearD l)
    exact ⟨m', k', by rw [List.foldl_cons, h', h]⟩

/-- Two locations that show one byte read alike (14:R372). -/
theorem rdByte_congr_home (key : Nat) {b : Nat} (h : s.links.home a = s.links.home b) : s.rdByte key a = s.rdByte key b := by
  have henc : encrypted a = encrypted b := by rw [← encrypted_home s.links a, h, encrypted_home]
  cases hb : encrypted b with
  | false => rw [rdByte_raw (.inl (henc.trans hb)), rdByte_raw (.inl hb), h]
  | true =>
    rw [home_of_encrypted _ hb, home_of_encrypted _ (henc.trans hb)] at h
    rw [h]

/-- The byte of a leaf under the device key loses its dirty bit, and no other byte changes. -/
theorem rdByte_clearD (hm : s.MemOk) (l : Leaf) (a : Nat) : (s.clearD l).rdByte s.ochre.devKey a =
    if s.links.home a = s.links.home l.at_ then s.rdByte s.ochre.devKey a &&& 0xf7#8 else s.rdByte s.ochre.devKey a := by
  rw [State.clearD, rdByte_wrByte hm, clearBit3]
  split
  · next h => rw [rdByte_congr_home _ h]
  · rfl

theorem rdByte_foldl_clearD (hm : s.MemOk) (ls : List Leaf) (a : Nat) : (ls.foldl State.clearD s).rdByte s.ochre.devKey a =
    if s.links.home a ∈ ls.map (fun l => s.links.home l.at_) then s.rdByte s.ochre.devKey a &&& 0xf7#8 else s.rdByte s.ochre.devKey a := by
  induction ls generalizing s with
  | nil => rfl
  | cons l ls ih =>
    obtain ⟨m, k, h⟩ := clearD_shape s l
    have hlinks : (s.clearD l).links = s.links := by rw [h]
    have hochre : (s.clearD l).ochre = s.ochre := by rw [h]
    have hrest := ih (s := s.clearD l) (.clearD hm)
    rw [hlinks, hochre, rdByte_clearD hm] at hrest
    rw [List.foldl_cons, hrest, List.map_cons]
    by_cases hl : s.links.home a = s.links.home l.at_
    · rw [if_pos hl, and_mask_idem, ite_self, if_pos (List.mem_cons.mpr (.inl hl))]
    · simp only [hl, if_false, List.mem_cons, false_or]

/-! ## TLB entries that are dropped (04:R112, R113) -/

theorem dropTlb_quad (s : State) (p : TlbEnt → Bool) (qk : Nat) : ((s.dropTlb p).quad qk).tlb = (s.quad qk).tlb.filter (fun e => !p e) :=
  congrArg Quad.tlb (tget_map ({} : Quad) (fun _ x => { x with tlb := x.tlb.filter (fun e => !p e) }) s.quads qk rfl)

theorem dropTlb_cluster (s : State) (p : TlbEnt → Bool) (clk : Nat) :
    ((s.dropTlb p).cluster clk).tlb = (s.cluster clk).tlb.filter (fun e => !p e) :=
  congrArg Cluster.tlb (tget_map ({} : Cluster) (fun _ x => { x with tlb := x.tlb.filter (fun e => !p e) }) s.clus clk rfl)

/-! ## The clean command (14:R370, 21:R449) -/

theorem exec_hostClean (vf : Nat) (pages : List Nat) (rst : Bool) (s : State) :
    exec (.hostClean vf pages rst) s = execHostClean vf pages rst s := by
  rfl

/-- What a clean command does when nothing holds it. -/
def State.cleaned (s : State) (vf : Nat) (pages : List Nat) (rst : Bool) : State :=
  let drop (e : TlbEnt) : Bool := (s.ctxsOf vf).contains e.ctx &&
    ((s.s2Walk e.ctx (e.ipage * 65536)).any (fun w => (s.leaves vf pages).any (fun l => l.at_ == w.2.2)))
  ((s.leaves vf pages).foldl State.clearD (s.dropTlb drop)).modVf vf
    (fun v => if rst then { v with dlog := [], dovf := false, cleanAt := 0 } else { v with cleanAt := v.dlog.length })

/-- No write through a translation to some locations is outstanding: neither a program's, a matrix command's, nor one to host or peer memory that
has not been acknowledged. -/
def State.NoWrites (s : State) (in_ : Nat → Bool) : Prop :=
  (∀ e ∈ s.gangs, e.2.quiet in_ = true) ∧ (∀ e ∈ s.clus, e.2.quiet in_ = true) ∧ (∀ e ∈ s.links.unacked, in_ e.pa = false) ∧
    ∀ c ∈ s.ctxs, ∀ im, c.2.image = some im → ∀ w ∈ im.unacked, in_ w.pa = false

theorem noWrites_iff (s : State) (in_ : Nat → Bool) : ¬ s.NoWrites in_ ↔ s.gangs.any (fun e => !e.2.quiet in_) = true ∨
    s.clus.any (fun e => !e.2.quiet in_) = true ∨ s.links.unacked.any (fun e => in_ e.pa) = true ∨
    s.ctxs.any (fun e => e.2.image.any (fun im => im.unacked.any (fun w => in_ w.pa))) = true := by
  simp [State.NoWrites, -not_and, not_and_or, Option.any_eq_true]

/-- The locations that some leaves translate to. -/
def leavesCover (ls : List Leaf) (loc : Nat) : Bool := ls.any (fun l => decide (l.base ≤ loc) && decide (loc < l.base + l.size))

theorem execHostClean_waits {vf : Nat} {pages : List Nat} {rst : Bool}
    (h : s.booted = false ∨ ¬ s.NoWrites (leavesCover (s.leaves vf pages))) : execHostClean vf pages rst s = .next s := by
  rw [noWrites_iff] at h
  exact congrArg _ (if_pos h)

theorem execHostClean_cleans {vf : Nat} {pages : List Nat} {rst : Bool} (hb : s.booted = true)
    (hq : s.NoWrites (leavesCover (s.leaves vf pages))) : execHostClean vf pages rst s = .next (s.cleaned vf pages rst) := by
  have hgo : ¬ (s.booted = false ∨ ¬ s.NoWrites (leavesCover (s.leaves vf pages))) := not_or.mpr ⟨by simp [hb], not_not.mpr hq⟩
  rw [noWrites_iff] at hgo
  exact congrArg _ (if_neg hgo)

/-- A clean command leaves of a TLB what it does not drop. -/
theorem mem_cleaned_tlb {vf : Nat} {pages : List Nat} {rst : Bool} {qk : Nat} {e : TlbEnt} (he : e ∈ ((s.cleaned vf pages rst).quad qk).tlb) :
    e ∈ (s.quad qk).tlb ∧ ¬ (e.ctx ∈ s.ctxsOf vf ∧
      ∃ w l, s.s2Walk e.ctx (e.ipage * 65536) = some w ∧ l ∈ s.leaves vf pages ∧ l.at_ = w.2.2) := by
  unfold State.cleaned at he
  dsimp only at he
  obtain ⟨m, k, h⟩ := foldl_clearD_shape (s.leaves vf pages) (s.dropTlb _)
  rw [modVf_quad, h] at he
  obtain ⟨hin, hkeep⟩ := List.mem_filter.mp (dropTlb_quad s _ qk ▸ he)
  refine ⟨hin, fun ⟨hctx, w, l, hw, hl, hat⟩ => ?_⟩
  have hdrop : (s.leaves vf pages).any (fun l => l.at_ == w.2.2) = true := List.any_eq_true.mpr ⟨l, hl, by simp [hat]⟩
  simp [hctx, hw, hdrop] at hkeep

theorem cleaned_vf (s : State) (vf : Nat) (pages : List Nat) (rst : Bool) : (s.cleaned vf pages rst).vf vf =
    if rst then { s.vf vf with dlog := [], dovf := false, cleanAt := 0 } else { s.vf vf with cleanAt := (s.vf vf).dlog.length } := by
  unfold State.cleaned
  dsimp only
  obtain ⟨m, k, h⟩ := foldl_clearD_shape (s.leaves vf pages) (s.dropTlb _)
  rw [modVf_vf_same, h]
  rfl

theorem cleaningClearsDirtyBits : Says.CleaningClearsDirtyBits := by
  intro s vf pages rst
  dsimp only
  rw [exec_hostClean]
  refine ⟨execHostClean_waits, fun hb hq hm => ⟨_, execHostClean_cleans hb hq, ?_, fun qk e he => mem_cleaned_tlb he, ?_, ?_⟩⟩
  · exact fun a => rdByte_foldl_clearD (s := s.dropTlb _) hm (s.leaves vf pages) a
  · rintro rfl
    rw [cleaned_vf]
    exact ⟨rfl, rfl⟩
  · rintro rfl
    rw [cleaned_vf]
    exact ⟨rfl, rfl⟩

end Sys2Proof.Machine
end

section
/-!
An invalidation (04:R113), and with it the statement on translations.
-/

namespace Sys2Proof.Machine

variable {s : State}

theorem le_foldl_max (l : List Nat) (n : Nat) : n ≤ l.foldl max n := by
  induction l generalizing n with
  | nil => exact Nat.le_refl n
  | cons x l ih => exact (Nat.le_max_left n x).trans (ih _)

/-- A stage-1 page holds one page of 64 KiB at least. -/
theorem one_le_pageOf_snd (s : State) (cx page : Nat) : 1 ≤ (s.pageOf cx page).2 := by
  unfold State.pageOf
  refine Nat.le_trans ?_ (le_foldl_max _ _)
  split
  · split
    · next e he => exact (walk_ok he).2.2
    · exact Nat.le_refl 1
  · exact Nat.le_refl 1

/-- The stage-1 page of a page holds it. -/
theorem pageOf_holds (s : State) (cx page : Nat) :
    (s.pageOf cx page).1 ≤ page ∧ page < (s.pageOf cx page).1 + (s.pageOf cx page).2 := by
  have hn := one_le_pageOf_snd s cx page
  have hb : (s.pageOf cx page).1 = page / (s.pageOf cx page).2 * (s.pageOf cx page).2 := rfl
  rw [hb]
  exact ⟨Nat.div_mul_le_self _ _, Nat.lt_div_mul_add hn⟩

theorem exec_tlbinvComplete (gk : Nat) (s : State) : exec (.tlbinvComplete gk) s = execTlbinvComplete gk s := by
  rfl

/-- A range of pages. -/
def pagesIn (r : Nat × Nat) (p : Nat) : Bool := decide (r.1 ≤ p) && decide (p < r.1 + r.2)

/-- The stage-1 page that a gang's `tlbinv` names. -/
def State.invPage (s : State) (gk : Nat) : Nat × Nat :=
  s.pageOf (s.runCx (slOfGk gk)) (((s.gang gk).r.gangOp (nbits (s.issueWord gk).toNat 14 5)).toNat / 65536)

/-- The TLB entries that a gang's `tlbinv` drops. -/
def State.invDrops (s : State) (gk : Nat) (e : TlbEnt) : Bool := e.ctx == s.runCx (slOfGk gk) && pagesIn (s.invPage gk) e.vpage

/-- What the completion of a `tlbinv` leaves. -/
def State.invalidated (s : State) (gk : Nat) : State :=
  ((s.dropTlb (s.invDrops gk)).modGang gk (fun g => { g with prog := 2 })).ready gk

theorem execTlbinvComplete_drops {gk : Nat} (hw : (s.gang gk).wait = some .tlbinv) (hstop : (s.gang gk).stopped = false)
    (hheld : s.held gk .tlbinv = false) (hg : ∀ e ∈ s.gangs, slOfGk e.1 = slOfGk gk → e.2.quietVa (pagesIn (s.invPage gk)) = true)
    (hc : ∀ c ∈ s.clus, slOfClk c.1 = slOfGk gk → c.2.quiet (fun l => decide (spaceOfLoc l ≤ 1)) = true)
    (hu : ∀ e ∈ s.links.unacked, slOfGk e.gk = slOfGk gk → pagesIn (s.invPage gk) (e.va / 65536) = false) :
    execTlbinvComplete gk s = .next (s.invalidated gk) := by
  have hgangs : s.gangs.any (fun e => slOfGk e.1 == slOfGk gk && !e.2.quietVa (pagesIn (s.invPage gk))) = false := by
    simpa using hg
  have hclus : s.clus.any (fun c => slOfClk c.1 == slOfGk gk && !c.2.quiet (fun l => decide (spaceOfLoc l ≤ 1))) = false := by
    simpa using hc
  have hsent : s.links.unacked.any (fun e => slOfGk e.gk == slOfGk gk && pagesIn (s.invPage gk) (e.va / 65536)) = false := by
    simpa using hu
  have hgo : ((s.gang gk).wait != some .tlbinv || (s.gang gk).stopped || s.held gk .tlbinv
      || s.gangs.any (fun e => slOfGk e.1 == slOfGk gk && !e.2.quietVa (pagesIn (s.invPage gk)))
      || s.clus.any (fun c => slOfClk c.1 == slOfGk gk && !c.2.quiet (fun l => decide (spaceOfLoc l ≤ 1)))
      || s.links.unacked.any (fun e => slOfGk e.gk == slOfGk gk && pagesIn (s.invPage gk) (e.va / 65536))) = false := by
    rw [hgangs, hclus, hsent, hw, hstop, hheld]
    rfl
  exact congrArg _ (if_neg (ne_true_of_eq_false hgo))

theorem mem_invalidated_tlb {gk qk : Nat} {e : TlbEnt} :
    e ∈ ((s.invalidated gk).quad qk).tlb ↔ e ∈ (s.quad qk).tlb ∧ s.invDrops gk e = false := by
  have htlb : ((s.invalidated gk).quad qk).tlb = _ := dropTlb_quad s (s.invDrops gk) qk
  rw [htlb, List.mem_filter, Bool.not_eq_true']

theorem mem_invalidated_clusterTlb {gk clk : Nat} {e : TlbEnt} :
    e ∈ ((s.invalidated gk).cluster clk).tlb ↔ e ∈ (s.cluster clk).tlb ∧ s.invDrops gk e = false := by
  have htlb : ((s.invalidated gk).cluster clk).tlb = _ := dropTlb_cluster s (s.invDrops gk) clk
  rw [htlb, List.mem_filter, Bool.not_eq_true']

theorem invDrops_iff {gk : Nat} {e : TlbEnt} :
    s.invDrops gk e = true ↔ e.ctx = s.runCx (slOfGk gk) ∧ pagesIn (s.invPage gk) e.vpage = true := by
  rw [State.invDrops, Bool.and_eq_true, beq_iff_eq]

theorem invalidated_gang (s : State) (gk : Nat) : ((s.invalidated gk).gang gk).wait = none ∧ ((s.invalidated gk).gang gk).prog = 2 := by
  simp [State.invalidated, State.ready]

theorem invalidationDropsThePage : Says.InvalidationDropsThePage := by
  intro s gk
  dsimp only
  intro hw hstop hheld hg hc hu
  obtain ⟨hlow, hhigh⟩ := pageOf_holds s (s.runCx (slOfGk gk)) (((s.gang gk).r.gangOp (nbits (s.issueWord gk).toNat 14 5)).toNat / 65536)
  obtain ⟨hwait, hprog⟩ := invalidated_gang s gk
  rw [exec_tlbinvComplete]
  refine ⟨by simp [hlow, hhigh], s.invalidated gk, execTlbinvComplete_drops hw hstop hheld hg hc hu, ?_, ?_, hwait, hprog, rfl, ?_⟩
  · intro qk e he hmine
    exact Bool.eq_false_iff.mp (mem_invalidated_tlb.mp he).2 (invDrops_iff.mpr hmine)
  · intro clk e he hmine
    exact Bool.eq_false_iff.mp (mem_invalidated_clusterTlb.mp he).2 (invDrops_iff.mpr hmine)
  · intro qk e he hnot
    exact mem_invalidated_tlb.mpr ⟨he, Bool.eq_false_iff.mpr fun hdrop => hnot (invDrops_iff.mp hdrop)⟩

/-- Settles O52: a walk's entry is the page's, a queue keeps its other records over a retry, a leaf's byte alone changes under the device key, and
every TLB is filtered. -/
theorem translationsWalkAndReport : Obligations.TranslationsWalkAndReport :=
  ⟨walksFillTheCaches, failedWalksReport, retriesReleaseTheirRecord, cleaningClearsDirtyBits, invalidationDropsThePage⟩

end Sys2Proof.Machine
end

section
/-!
The state after reset (00 to 24): every table is empty, so every unit is a default one.
-/

namespace Sys2Proof.Machine

/-- The registers of a gang that was never formed read 0, and `p0` reads 1. -/
theorem default_gang_regs (l n : Nat) (h : n < 24 ∨ 28 ≤ n ∧ n < 32) :
    ({} : Gang).r.rdW l n = 0#64 ∧ ({} : Gang).r.rdP l 0 = true := by
  refine ⟨?_, rfl⟩
  show ({} : Lane).rdW l n = 0#64
  unfold Lane.rdW
  rcases h with h | h
  · rw [if_pos h]
    rfl
  · rw [if_neg (by omega), if_neg (by omega), if_neg (by omega)]
    split <;> rfl

/-- Settles O8: a unit of an empty table is the default one, whose fields hold the reset values. -/
theorem resetLeavesTheSpecsValues : Obligations.ResetLeavesTheSpecsValues := by
  unfold Obligations.ResetLeavesTheSpecsValues
  refine ⟨rfl, rfl, rfl, rfl, rfl, rfl, rfl, rfl, rfl, rfl, rfl, rfl, ?_, ?_, ?_, ?_, ?_, ?_⟩
  · intro gk l n _ hn
    obtain ⟨hw, hp⟩ := default_gang_regs l n hn
    exact ⟨rfl, hw, hp, rfl, rfl, rfl, rfl⟩
  · exact fun ck n => ⟨rfl, rfl, rfl, rfl⟩
  · exact fun clk => rfl
  · exact fun sl => ⟨rfl, rfl, rfl⟩
  · exact fun v => ⟨rfl, rfl⟩
  · exact fun d => ⟨rfl, rfl, rfl, rfl⟩

end Sys2Proof.Machine
end

section
/-!
Rounding over the rationals (05:R132): what the machine's integer rounding gives, said of the exact value alone.
-/

namespace Sys2Proof.Machine

/-! ## Rounding to an integer -/

/-- The rounded integer is the one above the floor: by the mode, the sign, whether the floor is odd, and the part beyond it. -/
def roundsUp (m : Nat) (neg odd : Bool) (t : ℚ) : Bool :=
  match m with
  | 0 => decide (1 / 2 < t) || (decide (t = 1 / 2) && odd)
  | 1 => false
  | 2 => !neg && decide (t ≠ 0)
  | 3 => neg && decide (t ≠ 0)
  | _ => decide (1 / 2 ≤ t)

theorem ceil_eq_floor_add (q : ℚ) : ⌈q⌉ = ⌊q⌋ + if Int.fract q ≠ 0 then 1 else 0 := by
  have hfract := Int.self_sub_floor q
  have h0 := Int.fract_nonneg q
  have h1 := Int.fract_lt_one q
  rw [Int.ceil_eq_iff]
  split
  · next h =>
    have hpos := lt_of_le_of_ne h0 (Ne.symm h)
    rw [Int.cast_add, Int.cast_one]
    constructor <;> linarith
  · next h =>
    rw [not_not.mp h] at hfract
    rw [Int.cast_add, Int.cast_zero]
    constructor <;> linarith

theorem floor_add_half (q : ℚ) : ⌊q + 1 / 2⌋ = ⌊q⌋ + if 1 / 2 ≤ Int.fract q then 1 else 0 := by
  have hfract := Int.self_sub_floor q
  have h0 := Int.fract_nonneg q
  have h1 := Int.fract_lt_one q
  rw [Int.floor_eq_iff]
  split
  · rw [Int.cast_add, Int.cast_one]
    constructor <;> linarith
  · rw [Int.cast_add, Int.cast_zero]
    constructor <;> linarith

theorem roundRat_eq (m : Nat) (neg : Bool) (q : ℚ) :
    roundRat m neg q = ⌊q⌋ + if roundsUp m neg (decide (⌊q⌋ % 2 = 1)) (Int.fract q) then 1 else 0 := by
  unfold roundRat
  rw [Int.self_sub_floor]
  match m with
  | 0 =>
    rcases lt_trichotomy (Int.fract q) (1 / 2) with h | h | h
    · rw [if_pos h]
      simp only [roundsUp, h.not_gt, h.ne, decide_false, Bool.false_and, Bool.or_self, Bool.false_eq_true, if_false, add_zero]
    · rcases Int.emod_two_eq_zero_or_one ⌊q⌋ with hp | hp <;> simp [roundsUp, h, hp]
    · rw [if_neg h.not_gt, if_pos h]
      simp only [roundsUp, h, decide_true, Bool.true_or, if_true]
  | 1 => simp [roundsUp]
  | 2 =>
    cases neg
    · simpa [roundsUp] using ceil_eq_floor_add q
    · simp [roundsUp]
  | 3 =>
    cases neg
    · simp [roundsUp]
    · simpa [roundsUp] using ceil_eq_floor_add q
  | k + 4 => simpa [roundsUp] using floor_add_half q

theorem floor_natDiv (num den : Nat) : ⌊(num : ℚ) / den⌋ = ((num / den : Nat) : Int) := by
  exact_mod_cast Rat.floor_natCast_div_natCast num den

/-- A fraction lies above its floor by the remainder. -/
theorem fract_natDiv (num : Nat) {den : Nat} (hd : 0 < den) : Int.fract ((num : ℚ) / den) = ((num % den : Nat) : ℚ) / den := by
  have hden : (den : ℚ) ≠ 0 := by positivity
  have h : (num : ℚ) = den * ((num / den : Nat) : ℚ) + ((num % den : Nat) : ℚ) := by
    exact_mod_cast (Nat.div_add_mod num den).symm
  rw [← Int.self_sub_floor, floor_natDiv, Int.cast_natCast]
  field_simp
  linarith

/-- The machine's `round_int` is the rule's. -/
theorem roundInt_eq (m : Nat) (neg : Bool) (num : Nat) {den : Nat} (hd : 0 < den) :
    (roundInt m neg num den : Int) = roundRat m neg ((num : ℚ) / den) := by
  have hden : (0 : ℚ) < den := by exact_mod_cast hd
  have hcmp : ∀ r : Nat, ((1 / 2 : ℚ) < r / den ↔ den < 2 * r) ∧ ((1 / 2 : ℚ) ≤ r / den ↔ den ≤ 2 * r) ∧
      ((r : ℚ) / den = 1 / 2 ↔ 2 * r = den) ∧ ((r : ℚ) / den = 0 ↔ r = 0) := by
    intro r
    rw [lt_div_iff₀ hden, le_div_iff₀ hden, div_eq_iff hden.ne', div_eq_zero_iff, or_iff_left hden.ne', Nat.cast_eq_zero,
      ← Nat.cast_lt (α := ℚ), ← Nat.cast_le (α := ℚ), ← Nat.cast_inj (R := ℚ)]
    push_cast
    refine ⟨?_, ?_, ?_, Iff.rfl⟩ <;> constructor <;> intro h <;> linarith
  obtain ⟨hlt, hle, heq, hzero⟩ := hcmp (num % den)
  rw [roundRat_eq, floor_natDiv, fract_natDiv num hd]
  unfold roundInt
  generalize num % den = r at *
  generalize num / den = k
  match m with
  | 0 =>
    simp only [roundsUp, Bool.or_eq_true, Bool.and_eq_true, decide_eq_true_eq, beq_iff_eq, hlt, heq]
    split_ifs <;> omega
  | 1 => simp [roundsUp]
  | 2 =>
    simp only [roundsUp, Bool.and_eq_true, decide_eq_true_eq, ne_eq, hzero]
    split_ifs <;> simp_all
  | 3 =>
    simp only [roundsUp, Bool.and_eq_true, decide_eq_true_eq, ne_eq, hzero]
    split_ifs <;> simp_all
  | n + 4 =>
    simp only [roundsUp, decide_eq_true_eq, hle]
    split_ifs <;> omega

/-! ## The exponent -/

theorem scale_eq (m : Nat) (e : Int) : (scaleNum m e : ℚ) / scaleDen e = m * 2 ^ e := by
  unfold scaleNum scaleDen
  rcases le_total 0 e with h | h
  · obtain ⟨k, rfl⟩ := Int.eq_ofNat_of_zero_le h
    simp
  · obtain ⟨k, hk⟩ := Int.eq_ofNat_of_zero_le (Int.neg_nonneg.mpr h)
    obtain rfl : e = -(k : Int) := by omega
    simp [div_eq_mul_inv]

theorem scaleDen_pos (e : Int) : 0 < scaleDen e := Nat.two_pow_pos _

theorem log2N_bounds {n : Nat} (h : n ≠ 0) : (2 : ℚ) ^ (log2N n : Int) ≤ n ∧ (n : ℚ) < 2 ^ ((log2N n : Int) + 1) := by
  constructor
  · rw [zpow_natCast]
    exact_mod_cast Nat.log2_self_le h
  · have := @Nat.lt_log2_self n
    have h2 : (n : ℚ) < ((2 ^ (n.log2 + 1) : Nat) : ℚ) := by exact_mod_cast this
    have : ((2 ^ (n.log2 + 1) : Nat) : ℚ) = (2 : ℚ) ^ ((log2N n : Int) + 1) := by
      push_cast
      rw [← zpow_natCast]
      rfl
    rwa [← this]

/-- The machine's exponent of a fraction is its binary logarithm rounded down. -/
theorem floorLog2_eq {num den : Nat} (hn : num ≠ 0) (hd : 0 < den) : floorLog2 num den = Int.log 2 ((num : ℚ) / den) := by
  have hden : (0 : ℚ) < den := by exact_mod_cast hd
  have hnum : (0 : ℚ) < num := by exact_mod_cast Nat.pos_of_ne_zero hn
  have hx : (0 : ℚ) < (num : ℚ) / den := by positivity
  obtain ⟨hnl, hnu⟩ := log2N_bounds hn
  obtain ⟨hdl, hdu⟩ := log2N_bounds hd.ne'
  set a : Int := (log2N num : Int) with ha
  set b : Int := (log2N den : Int) with hb
  have hcmp : num * scaleDen (a - b) < den * 2 ^ (a - b).toNat ↔ (num : ℚ) / den < 2 ^ (a - b) := by
    have h := scale_eq 1 (a - b)
    have hs : (0 : ℚ) < scaleDen (a - b) := by exact_mod_cast scaleDen_pos (a - b)
    simp only [Nat.cast_one, one_mul] at h
    rw [← h, div_lt_div_iff₀ hden hs]
    unfold scaleNum
    rw [← Nat.cast_lt (α := ℚ)]
    push_cast
    rw [one_mul, mul_comm (den : ℚ)]
  have hlog : ∀ k : Int, (2 : ℚ) ^ k ≤ (num : ℚ) / den → (num : ℚ) / den < 2 ^ (k + 1) → k = Int.log 2 ((num : ℚ) / den) := by
    intro k h1 h2
    have h3 := (Int.zpow_le_iff_le_log (b := 2) (by norm_num) hx (x := k)).mp (by exact_mod_cast h1)
    have h4 := (Int.lt_zpow_iff_log_lt (b := 2) (by norm_num) hx (x := k + 1)).mp (by exact_mod_cast h2)
    omega
  have hlow : (2 : ℚ) ^ (a - b - 1) ≤ (num : ℚ) / den := by
    rw [le_div_iff₀ hden]
    calc (2 : ℚ) ^ (a - b - 1) * den ≤ 2 ^ (a - b - 1) * 2 ^ (b + 1) := by gcongr
      _ = 2 ^ a := by rw [← zpow_add₀ (by norm_num)]; congr 1; ring
      _ ≤ num := hnl
  have hupp : (num : ℚ) / den < 2 ^ (a - b + 1) := by
    rw [div_lt_iff₀ hden]
    calc (num : ℚ) < 2 ^ (a + 1) := hnu
      _ = 2 ^ (a - b + 1) * 2 ^ b := by rw [← zpow_add₀ (by norm_num)]; congr 1; ring
      _ ≤ 2 ^ (a - b + 1) * den := by gcongr
  unfold floorLog2
  dsimp only
  rw [← ha, ← hb]
  split
  · next h => exact hlog _ hlow (by rw [sub_add_cancel]; exact hcmp.mp h)
  · next h => exact hlog _ (not_lt.mp fun hh => h (hcmp.mpr hh)) hupp

end Sys2Proof.Machine
end

section
/-!
`round_frm` over the rationals (05:R132): the pattern and the flags as a function of the exact magnitude, and what they say of it.
-/

namespace Sys2Proof.Machine

/-! ## The parameters of a format (05:R128) -/

/-- Every code has the parameters of one of the five. -/
theorem exists_format (f : Nat) : ∃ k, k < 5 ∧ fmtP f = fmtP k ∧ params f = params k := by
  rcases f with _ | _ | _ | _ | f
  · exact ⟨0, by norm_num, rfl, rfl⟩
  · exact ⟨1, by norm_num, rfl, rfl⟩
  · exact ⟨2, by norm_num, rfl, rfl⟩
  · exact ⟨3, by norm_num, rfl, rfl⟩
  · exact ⟨4, by norm_num, rfl, rfl⟩

theorem params_eq (f : Nat) : (params f).p = (fmtP f).mb + 1 ∧ (params f).emin = (fmtP f).emin ∧ (params f).nan = nanF f ∧
    (params f).width = (fmtP f).w ∧ (params f).maxfin = (fmtP f).maxm * 2 ^ ((fmtP f).emax - (fmtP f).mb) := by
  unfold nanF
  obtain ⟨k, hk, h1, h2⟩ := exists_format f
  rw [h1, h2]
  interval_cases k <;> norm_num [params, fmtP, zpow_neg, zpow_ofNat]

theorem params_p (f : Nat) : (params f).p = (fmtP f).mb + 1 := (params_eq f).1

theorem params_emin (f : Nat) : (params f).emin = (fmtP f).emin := (params_eq f).2.1

theorem params_nan (f : Nat) : (params f).nan = nanF f := (params_eq f).2.2.1

theorem params_width (f : Nat) : (params f).width = (fmtP f).w := (params_eq f).2.2.2.1

theorem params_maxfin (f : Nat) : (params f).maxfin = (fmtP f).maxm * 2 ^ ((fmtP f).emax - (fmtP f).mb) := (params_eq f).2.2.2.2

/-- The widths of the parts of a pattern, and its exponents. -/
theorem fmtP_shape (f : Nat) :
    (fmtP f).mb + 1 < (fmtP f).w ∧ (fmtP f).emin = 1 - (fmtP f).bias ∧ (fmtP f).emin < (fmtP f).emax ∧
    2 ^ (fmtP f).mb ≤ (fmtP f).maxm ∧ (fmtP f).maxm < 2 ^ ((fmtP f).mb + 1) := by
  obtain ⟨k, hk, h1, -⟩ := exists_format f
  rw [h1]
  interval_cases k <;> decide

/-! ## The rounded integer -/

theorem roundRat_intCast (m : Nat) (neg : Bool) (k : Int) : roundRat m neg k = k := by
  rw [roundRat_eq, Int.floor_intCast, Int.fract_intCast]
  have : roundsUp m neg (decide (k % 2 = 1)) 0 = false := by
    unfold roundsUp
    split <;> norm_num
  simp [this]

theorem roundsUp_mono (m : Nat) (neg odd : Bool) {t u : ℚ} (h0 : 0 ≤ t) (h : t ≤ u) (hu : roundsUp m neg odd t = true) :
    roundsUp m neg odd u = true := by
  have hpos : t ≠ 0 → u ≠ 0 := fun hne => (lt_of_lt_of_le (lt_of_le_of_ne h0 (Ne.symm hne)) h).ne'
  unfold roundsUp at *
  split at hu
  · simp only [Bool.or_eq_true, Bool.and_eq_true, decide_eq_true_eq] at *
    rcases hu with hu | ⟨hu, hodd⟩
    · exact .inl (hu.trans_le h)
    · rcases (hu ▸ h : (1 / 2 : ℚ) ≤ u).lt_or_eq with h1 | h1
      · exact .inl h1
      · exact .inr ⟨h1.symm, hodd⟩
  · exact hu
  · simp only [Bool.and_eq_true, decide_eq_true_eq] at *
    exact ⟨hu.1, hpos hu.2⟩
  · simp only [Bool.and_eq_true, decide_eq_true_eq] at *
    exact ⟨hu.1, hpos hu.2⟩
  · simp only [decide_eq_true_eq] at *
    exact hu.trans h

theorem roundRat_mono (m : Nat) (neg : Bool) {q r : ℚ} (h : q ≤ r) : roundRat m neg q ≤ roundRat m neg r := by
  rw [roundRat_eq, roundRat_eq]
  rcases (Int.floor_mono h).lt_or_eq with hlt | heq
  · have h1 : (if roundsUp m neg (decide (⌊q⌋ % 2 = 1)) (Int.fract q) then 1 else 0 : Int) ≤ 1 := by split <;> omega
    have h2 : (0 : Int) ≤ if roundsUp m neg (decide (⌊r⌋ % 2 = 1)) (Int.fract r) then 1 else 0 := by split <;> omega
    omega
  · have hfract : Int.fract q ≤ Int.fract r := by
      rw [← Int.self_sub_floor, ← Int.self_sub_floor, heq]
      exact sub_le_sub_right h _
    rw [heq]
    have := roundsUp_mono m neg (decide (⌊r⌋ % 2 = 1)) (Int.fract_nonneg q) hfract
    split
    · next hu => rw [if_pos (this hu)]
    · split <;> omega

theorem le_roundRat {m : Nat} {neg : Bool} {k : Int} {q : ℚ} (h : (k : ℚ) ≤ q) : k ≤ roundRat m neg q :=
  roundRat_intCast m neg k ▸ roundRat_mono m neg h

theorem roundRat_le {m : Nat} {neg : Bool} {k : Int} {q : ℚ} (h : q ≤ k) : roundRat m neg q ≤ k :=
  roundRat_intCast m neg k ▸ roundRat_mono m neg h

/-! ## The exponent and the quotient -/

section
variable {f : Nat} {x : ℚ}

theorem emin_le_expOf : (fmtP f).emin ≤ expOf f x := params_emin f ▸ le_max_right _ _

theorem lt_zpow_emin_iff (hx : 0 < x) : x < 2 ^ (params f).emin ↔ Int.log 2 x < (fmtP f).emin := by
  rw [params_emin]
  exact_mod_cast Int.lt_zpow_iff_log_lt (b := 2) (by norm_num) hx

theorem quoOf_eq : quoOf f x = x * 2 ^ (((fmtP f).mb : Int) - expOf f x) := by
  rw [quoOf, params_p]
  push_cast
  rw [add_sub_cancel_right]

theorem magOf_eq (m : Nat) (neg : Bool) : magOf f m neg x = roundRat m neg (quoOf f x) * 2 ^ (expOf f x - (fmtP f).mb) := by
  rw [magOf, params_p]
  push_cast
  congr 2
  ring

theorem quoOf_mul : quoOf f x * 2 ^ (expOf f x - (fmtP f).mb) = x := by
  rw [quoOf_eq, mul_assoc, ← zpow_add₀ (by norm_num)]
  simp

theorem quoOf_pos (hx : 0 < x) : 0 < quoOf f x := by
  rw [quoOf_eq]
  positivity

/-- Above the least exponent the quotient has all its bits. -/
theorem le_quoOf (hx : 0 < x) (h : (fmtP f).emin < expOf f x) : (2 : ℚ) ^ (fmtP f).mb ≤ quoOf f x := by
  have he : expOf f x = Int.log 2 x := by
    unfold expOf at *
    rw [params_emin] at *
    omega
  have hlog := Int.zpow_log_le_self (b := 2) (by norm_num) hx
  rw [quoOf_eq, he]
  calc (2 : ℚ) ^ (fmtP f).mb = 2 ^ (Int.log 2 x) * 2 ^ (((fmtP f).mb : Int) - Int.log 2 x) := by
        rw [← zpow_add₀ (by norm_num), add_sub_cancel, zpow_natCast]
    _ ≤ _ := by
        gcongr
        exact_mod_cast hlog

/-- The quotient stays below one bit more. -/
theorem quoOf_lt : quoOf f x < 2 ^ ((fmtP f).mb + 1) := by
  have hlog := Int.lt_zpow_succ_log_self (b := 2) (by norm_num) x
  have he : Int.log 2 x ≤ expOf f x := le_max_left _ _
  rw [quoOf_eq]
  calc x * 2 ^ (((fmtP f).mb : Int) - expOf f x)
      < 2 ^ (Int.log 2 x + 1) * 2 ^ (((fmtP f).mb : Int) - expOf f x) := by
        gcongr
        exact_mod_cast hlog
    _ ≤ 2 ^ (expOf f x + 1) * 2 ^ (((fmtP f).mb : Int) - expOf f x) := by
        gcongr
        norm_num
    _ = 2 ^ ((fmtP f).mb + 1) := by
        rw [← zpow_add₀ (by norm_num), ← zpow_natCast]
        congr 1
        push_cast
        ring

variable (m : Nat) (neg : Bool)

theorem roundRat_quoOf_nonneg (hx : 0 < x) : 0 ≤ roundRat m neg (quoOf f x) :=
  le_roundRat (by exact_mod_cast (quoOf_pos hx).le)

theorem le_roundRat_quoOf (hx : 0 < x) (h : (fmtP f).emin < expOf f x) : (2 : Int) ^ (fmtP f).mb ≤ roundRat m neg (quoOf f x) :=
  le_roundRat (by exact_mod_cast le_quoOf hx h)

theorem roundRat_quoOf_le : roundRat m neg (quoOf f x) ≤ 2 ^ ((fmtP f).mb + 1) :=
  roundRat_le (by exact_mod_cast (quoOf_lt).le)

theorem magOf_mono {y : ℚ} (hx : 0 < x) (h : x ≤ y) : magOf f m neg x ≤ magOf f m neg y := by
  have hy := hx.trans_le h
  have hexp : expOf f x ≤ expOf f y := max_le_max_right _ (Int.log_mono_right hx h)
  rw [magOf_eq, magOf_eq]
  rcases hexp.lt_or_eq with hlt | heq
  · have h1 : (roundRat m neg (quoOf f x) : ℚ) ≤ 2 ^ ((fmtP f).mb + 1) := by exact_mod_cast roundRat_quoOf_le m neg
    have h2 : (2 : ℚ) ^ (fmtP f).mb ≤ roundRat m neg (quoOf f y) := by
      exact_mod_cast le_roundRat_quoOf m neg hy (emin_le_expOf.trans_lt hlt)
    calc (roundRat m neg (quoOf f x) : ℚ) * 2 ^ (expOf f x - (fmtP f).mb)
        ≤ 2 ^ ((fmtP f).mb + 1) * 2 ^ (expOf f x - (fmtP f).mb) := by gcongr
      _ = 2 ^ (expOf f x + 1) := by
          rw [← zpow_natCast, ← zpow_add₀ (by norm_num)]
          congr 1
          push_cast
          ring
      _ ≤ 2 ^ expOf f y := zpow_le_zpow_right₀ (by norm_num) hlt
      _ = 2 ^ (fmtP f).mb * 2 ^ (expOf f y - (fmtP f).mb) := by
          rw [← zpow_natCast, ← zpow_add₀ (by norm_num), add_sub_cancel]
      _ ≤ _ := by gcongr
  · rw [heq]
    have : quoOf f x ≤ quoOf f y := by
      rw [quoOf_eq, quoOf_eq, heq]
      gcongr
    gcongr
    exact roundRat_mono m neg this

/-- The rounded integer is the quotient when the magnitude rounds to itself. -/
theorem roundRat_eq_quoOf_iff : (roundRat m neg (quoOf f x) : ℚ) = quoOf f x ↔ magOf f m neg x = x := by
  have hpos : (2 : ℚ) ^ (expOf f x - (fmtP f).mb) ≠ 0 := by positivity
  rw [magOf_eq, ← mul_left_inj' hpos, quoOf_mul]

/-! ## Overflow -/

/-- The rounded magnitude is beyond the greatest finite number, as the machine finds it. -/
def tooBig (f m : Nat) (neg : Bool) (x : ℚ) : Prop :=
  (fmtP f).emax < expOf f x ∨ expOf f x = (fmtP f).emax ∧ ((fmtP f).maxm : Int) < roundRat m neg (quoOf f x)

theorem tooBig_iff (hx : 0 < x) : tooBig f m neg x ↔ (params f).maxfin < magOf f m neg x := by
  obtain ⟨-, -, hexp, hlow, hmax⟩ := fmtP_shape f
  have hlow' : (2 : ℚ) ^ (fmtP f).mb ≤ (fmtP f).maxm := by exact_mod_cast hlow
  have hmax' : ((fmtP f).maxm : ℚ) < 2 ^ ((fmtP f).mb + 1) := by exact_mod_cast hmax
  rw [params_maxfin, magOf_eq, tooBig]
  rcases lt_trichotomy (expOf f x) (fmtP f).emax with h | h | h
  · have h1 : (roundRat m neg (quoOf f x) : ℚ) ≤ 2 ^ ((fmtP f).mb + 1) := by exact_mod_cast roundRat_quoOf_le m neg
    have : (roundRat m neg (quoOf f x) : ℚ) * 2 ^ (expOf f x - (fmtP f).mb) ≤ (fmtP f).maxm * 2 ^ ((fmtP f).emax - (fmtP f).mb) := by
      calc (roundRat m neg (quoOf f x) : ℚ) * 2 ^ (expOf f x - (fmtP f).mb)
          ≤ 2 ^ ((fmtP f).mb + 1) * 2 ^ ((fmtP f).emax - 1 - (fmtP f).mb) := by
            gcongr
            · norm_num
            · omega
        _ = 2 ^ (fmtP f).mb * 2 ^ ((fmtP f).emax - (fmtP f).mb) := by
            rw [← zpow_natCast, ← zpow_natCast, ← zpow_add₀ (by norm_num), ← zpow_add₀ (by norm_num)]
            congr 1
            push_cast
            ring
        _ ≤ _ := by gcongr
    exact iff_of_false (by omega) (not_lt.mpr this)
  · rw [h, mul_lt_mul_iff_left₀ (by positivity)]
    simp only [lt_irrefl, true_and, false_or]
    exact_mod_cast Iff.rfl
  · refine iff_of_true (.inl h) ?_
    have h2 : (2 : ℚ) ^ (fmtP f).mb ≤ roundRat m neg (quoOf f x) := by
      exact_mod_cast le_roundRat_quoOf m neg hx (hexp.trans h)
    calc ((fmtP f).maxm : ℚ) * 2 ^ ((fmtP f).emax - (fmtP f).mb)
        < 2 ^ ((fmtP f).mb + 1) * 2 ^ ((fmtP f).emax - (fmtP f).mb) := by gcongr
      _ = 2 ^ (fmtP f).mb * 2 ^ ((fmtP f).emax + 1 - (fmtP f).mb) := by
          rw [← zpow_natCast, ← zpow_natCast, ← zpow_add₀ (by norm_num), ← zpow_add₀ (by norm_num)]
          congr 1
          push_cast
          ring
      _ ≤ (roundRat m neg (quoOf f x) : ℚ) * 2 ^ ((fmtP f).emax + 1 - (fmtP f).mb) := by gcongr
      _ ≤ _ := by
          gcongr
          · exact_mod_cast roundRat_quoOf_nonneg m neg hx
          · norm_num
          · omega

end

end Sys2Proof.Machine
end

section
/-!
`round_frm` of a fraction (05:R132): the machine's branches in terms of the fraction's value.
-/

namespace Sys2Proof.Machine

section
variable (f m : Nat) (sat neg : Bool) (x : ℚ)

open Classical in
/-- `round_frm` of a positive rational as the machine answers it: the pattern and the flags. -/
noncomputable def frmOfRat : Nat × Flags5 :=
  (if tooBig f m neg x then (if toMax m sat neg then maxfinF f neg else if f = 3 then nanF f else infF f neg)
    else encodeF f neg (roundRat m neg (quoOf f x)).toNat (expOf f x),
    flagsOf (tooBig f m neg x ∧ f = 3 ∧ toMax m sat neg = false) False (tooBig f m neg x)
      (x < 2 ^ (params f).emin ∧ (roundRat m neg (quoOf f x) : ℚ) ≠ quoOf f x)
      ((roundRat m neg (quoOf f x) : ℚ) ≠ quoOf f x ∨ tooBig f m neg x))

end

theorem toMax_eq (m : Nat) (sat neg : Bool) : toMax m sat neg = (sat || m == 1 || (m == 2 && neg) || (m == 3 && !neg)) := by
  unfold toMax
  simp only [Bool.and_comm]
  rfl

/-- The machine's branches give the pattern and the flags of the rule. -/
theorem frm_answer (big tiny same isE4m3 : Prop) [Decidable big] [Decidable tiny] [Decidable same] [Decidable isE4m3] (top : Bool)
    (most nan inf number : Nat) :
    (if big then
      if top then (most, (if decide tiny && !decide same then (if same then 0#5 else flInexact) ||| flUnderflow
        else if same then 0#5 else flInexact) ||| flOverflow ||| flInexact)
      else if isE4m3 then (nan, (if decide tiny && !decide same then (if same then 0#5 else flInexact) ||| flUnderflow
        else if same then 0#5 else flInexact) ||| flOverflow ||| flInexact ||| flInvalid)
      else (inf, (if decide tiny && !decide same then (if same then 0#5 else flInexact) ||| flUnderflow
        else if same then 0#5 else flInexact) ||| flOverflow ||| flInexact)
    else (number, if decide tiny && !decide same then (if same then 0#5 else flInexact) ||| flUnderflow
      else if same then 0#5 else flInexact)) =
    (if big then (if top then most else if isE4m3 then nan else inf) else number,
      flagsOf (big ∧ isE4m3 ∧ top = false) False big (tiny ∧ ¬ same) (¬ same ∨ big)) := by
  unfold flagsOf
  by_cases hb : big <;> by_cases ht : tiny <;> by_cases hs : same <;> by_cases h3 : isE4m3 <;> cases top <;>
    simp [hb, ht, hs, h3, flInexact, flUnderflow, flOverflow, flInvalid]

/-- The machine's `round_frm` of a fraction depends on its value alone. -/
theorem roundFrm_eq (f m : Nat) (sat neg : Bool) {num den : Nat} (hn : num ≠ 0) (hd : 0 < den) :
    roundFrm f m sat neg num den = frmOfRat f m sat neg ((num : ℚ) / den) := by
  have hden : (0 : ℚ) < den := by exact_mod_cast hd
  have hnum : (0 : ℚ) < num := by exact_mod_cast Nat.pos_of_ne_zero hn
  have hx : (0 : ℚ) < (num : ℚ) / den := by positivity
  have hlog := floorLog2_eq hn hd
  have hexp : (if floorLog2 num den < (fmtP f).emin then (fmtP f).emin else floorLog2 num den) = expOf f ((num : ℚ) / den) := by
    rw [hlog, expOf, params_emin, max_def]
    split_ifs <;> omega
  have htiny := lt_zpow_emin_iff (f := f) hx
  rw [← hlog] at htiny
  set e := expOf f ((num : ℚ) / den) with he
  set sh : Int := ((fmtP f).mb : Int) - e with hsh
  have hden' : 0 < den * 2 ^ (-sh).toNat := Nat.mul_pos hd (Nat.two_pow_pos _)
  have hquo : ((num * 2 ^ sh.toNat : Nat) : ℚ) / ((den * 2 ^ (-sh).toNat : Nat) : ℚ) = quoOf f ((num : ℚ) / den) := by
    have := scale_eq 1 sh
    unfold scaleNum scaleDen at this
    rw [quoOf_eq, ← he, ← hsh]
    push_cast at this ⊢
    rw [mul_div_mul_comm, ← one_mul ((2 : ℚ) ^ sh.toNat), this, one_mul]
  have hround := roundInt_eq m neg (num * 2 ^ sh.toNat) hden'
  rw [hquo] at hround
  have hexact : (roundInt m neg (num * 2 ^ sh.toNat) (den * 2 ^ (-sh).toNat) * (den * 2 ^ (-sh).toNat) == num * 2 ^ sh.toNat) =
      decide ((roundRat m neg (quoOf f ((num : ℚ) / den)) : ℚ) = quoOf f ((num : ℚ) / den)) := by
    rw [Bool.eq_iff_iff, beq_iff_eq, decide_eq_true_eq, ← hround, ← hquo, eq_div_iff (by exact_mod_cast hden'.ne'), Int.cast_natCast]
    exact_mod_cast Iff.rfl
  unfold roundFrm frmOfRat tooBig
  simp only [hn, if_false, hexp, ← he, ← hsh, hexact, ← toMax_eq]
  rw [← hround]
  generalize roundInt m neg (num * 2 ^ sh.toNat) (den * 2 ^ (-sh).toNat) = n
  have hbig : (decide (e > (fmtP f).emax) || e == (fmtP f).emax && decide (n > (fmtP f).maxm)) =
      decide ((fmtP f).emax < e ∨ e = (fmtP f).emax ∧ ((fmtP f).maxm : Int) < n) := by
    rw [Bool.eq_iff_iff]
    simp
  simp only [hbig, htiny, Int.toNat_natCast, beq_iff_eq, decide_eq_true_eq]
  convert frm_answer ((fmtP f).emax < e ∨ e = (fmtP f).emax ∧ ((fmtP f).maxm : Int) < n) (floorLog2 num den < (fmtP f).emin)
    (((n : Int) : ℚ) = quoOf f ((num : ℚ) / den)) (f = 3) (toMax m sat neg) (maxfinF f neg) (nanF f) (infF f neg) (encodeF f neg n e)

end Sys2Proof.Machine
end

section
/-!
Patterns of a format (05:R127): the number of a pattern, the pattern of a number, and with them the rule of `round_frm` (05:R132).
-/

namespace Sys2Proof.Machine

/-! ## Parts of a pattern -/

/-- Sign, exponent field and mantissa of a pattern put together. -/
theorem nbits_parts (b E M mb ew : Nat) (hb : b < 2) (hE : E < 2 ^ ew) (hM : M < 2 ^ mb) :
    nbits (b * 2 ^ (ew + mb) + (E * 2 ^ mb + M)) (ew + mb) 1 = b ∧ nbits (b * 2 ^ (ew + mb) + (E * 2 ^ mb + M)) mb ew = E ∧
    nbits (b * 2 ^ (ew + mb) + (E * 2 ^ mb + M)) 0 mb = M := by
  have hlow : E * 2 ^ mb + M < 2 ^ (ew + mb) := by
    rw [pow_add]
    calc E * 2 ^ mb + M < (E + 1) * 2 ^ mb := by rw [add_mul, one_mul]; omega
      _ ≤ 2 ^ ew * 2 ^ mb := Nat.mul_le_mul_right _ hE
  have hsplit : b * 2 ^ (ew + mb) + (E * 2 ^ mb + M) = (b * 2 ^ ew + E) * 2 ^ mb + M := by ring
  have hmid : (b * 2 ^ (ew + mb) + (E * 2 ^ mb + M)) / 2 ^ mb = b * 2 ^ ew + E := by
    rw [hsplit, mul_comm, Nat.mul_add_div (Nat.two_pow_pos _), Nat.div_eq_of_lt hM, add_zero]
  refine ⟨?_, ?_, ?_⟩
  · rw [nbits, mul_comm, Nat.mul_add_div (Nat.two_pow_pos _), Nat.div_eq_of_lt hlow]
    omega
  · rw [nbits, hmid, Nat.mul_add_mod_self_right, Nat.mod_eq_of_lt hE]
  · rw [nbits, pow_zero, Nat.div_one, hsplit, Nat.mul_add_mod_self_right, Nat.mod_eq_of_lt hM]

/-- The exponent field of a format has this many bits. -/
def expBits (f : Nat) : Nat := (fmtP f).w - 1 - (fmtP f).mb

/-- The pattern of format f with these parts. -/
def patternOf (f : Nat) (neg : Bool) (E M : Nat) : Nat := (if neg then 2 ^ ((fmtP f).w - 1) else 0) + (E * 2 ^ (fmtP f).mb + M)

theorem patternOf_eq (f : Nat) (neg : Bool) (E M : Nat) :
    patternOf f neg E M = neg.toNat * 2 ^ (expBits f + (fmtP f).mb) + (E * 2 ^ (fmtP f).mb + M) := by
  have h : expBits f + (fmtP f).mb = (fmtP f).w - 1 := by
    have := (fmtP_shape f).1
    unfold expBits
    omega
  rw [patternOf, h]
  cases neg <;> simp

/-- What a pattern with these parts stands for. -/
theorem unpack_patternOf (f : Nat) (hf : f ≤ 4) (neg : Bool) {E M : Nat} (hE : E < 2 ^ expBits f) (hM : M < 2 ^ (fmtP f).mb) :
    unpack f (patternOf f neg E M) =
      if f = 3 then
        if E = 15 ∧ M = 7 then .nan false
        else if E = 0 then .fin neg M ((fmtP f).emin - (fmtP f).mb) else .fin neg (M + 2 ^ (fmtP f).mb) (E - (fmtP f).bias - (fmtP f).mb)
      else if E = 2 ^ expBits f - 1 then if M = 0 then .inf neg else .nan (f != 4 && decide (M < 2 ^ ((fmtP f).mb - 1)))
      else if E = 0 then .fin neg M ((fmtP f).emin - (fmtP f).mb) else .fin neg (M + 2 ^ (fmtP f).mb) (E - (fmtP f).bias - (fmtP f).mb) := by
  obtain ⟨hs, he, hm⟩ := nbits_parts neg.toNat E M (fmtP f).mb (expBits f) (by cases neg <;> decide) hE hM
  have hw : (fmtP f).w - 1 = expBits f + (fmtP f).mb := by
    have := (fmtP_shape f).1
    unfold expBits
    omega
  have hw' : expBits f + (fmtP f).mb - (fmtP f).mb = expBits f := by omega
  have hneg : (neg.toNat == 1) = neg := by cases neg <;> rfl
  unfold unpack
  rw [patternOf_eq]
  dsimp only
  rw [hw, hw', hs, he, hm, hneg]
  by_cases h3 : f = 3
  · subst h3
    simp [show expBits 3 = 4 from rfl]
  · simp [h3]

/-- The exponent field that the greatest exponent has. -/
theorem expBits_eq (f : Nat) :
    if f = 3 then 2 ^ expBits f = 16 ∧ (fmtP f).emax + (fmtP f).bias = 15 ∧ (fmtP f).mb = 3 ∧ (fmtP f).maxm = 14
    else ((2 ^ expBits f : Nat) : Int) = (fmtP f).emax + (fmtP f).bias + 2 := by
  rcases f with _ | _ | _ | _ | f
  · decide
  · decide
  · decide
  · decide
  · exact (by decide : ((2 ^ expBits 4 : Nat) : Int) = (fmtP 4).emax + (fmtP 4).bias + 2)

/-! ## The number of a pattern -/

/-- A finite pattern has few bits, and its exponent lies in the format's range. -/
theorem unpack_fin {f x : Nat} {neg : Bool} {k : Nat} {e : Int} (h : unpack f x = .fin neg k e) :
    k < 2 ^ ((fmtP f).mb + 1) ∧ (fmtP f).emin - (fmtP f).mb ≤ e ∧ e ≤ (fmtP f).emax - (fmtP f).mb := by
  obtain ⟨-, hbias, hexp, -⟩ := fmtP_shape f
  have hbits := expBits_eq f
  have hpow : 2 ^ ((fmtP f).mb + 1) = 2 * 2 ^ (fmtP f).mb := by ring
  have hM : nbits x 0 (fmtP f).mb < 2 ^ (fmtP f).mb := Nat.mod_lt _ (Nat.two_pow_pos _)
  have hE : nbits x (fmtP f).mb (expBits f) < 2 ^ expBits f := Nat.mod_lt _ (Nat.two_pow_pos _)
  unfold unpack at h
  dsimp only at h
  rw [show (fmtP f).w - 1 - (fmtP f).mb = expBits f from rfl] at h
  generalize nbits x 0 (fmtP f).mb = M at h hM
  generalize nbits x (fmtP f).mb (expBits f) = E at h hE
  rw [hpow]
  split at h
  · next h3 =>
    rw [if_pos (beq_iff_eq.mp h3)] at hbits
    simp only [beq_iff_eq, Bool.and_eq_true] at h
    split_ifs at h <;> simp only [FVal.fin.injEq] at h <;> omega
  · next h3 =>
    rw [if_neg (fun hh => h3 (beq_iff_eq.mpr hh))] at hbits
    simp only [beq_iff_eq] at h
    split_ifs at h <;> simp only [FVal.fin.injEq] at h <;> omega

/-! ## The pattern of a number -/

/-- An integer and an exponent that a pattern of format f holds, or that round up to the next exponent. -/
structure Representable (f n : Nat) (e : Int) : Prop where
  low : (fmtP f).emin ≤ e
  high : e < (fmtP f).emax ∧ n ≤ 2 ^ ((fmtP f).mb + 1) ∨ e = (fmtP f).emax ∧ n ≤ (fmtP f).maxm
  normal : (fmtP f).emin < e → 2 ^ (fmtP f).mb ≤ n

/-- The parts that hold a number: the exponent field and the mantissa below. -/
structure HeldBy (f E M n : Nat) (e : Int) : Prop where
  field : E < 2 ^ expBits f
  mantissa : M < 2 ^ (fmtP f).mb
  finite : if f = 3 then ¬ (E = 15 ∧ M = 7) else E ≠ 2 ^ expBits f - 1
  value : E = 0 ∧ M = n ∧ e = (fmtP f).emin ∨ 0 < E ∧ (E : Int) = e + (fmtP f).bias ∧ M + 2 ^ (fmtP f).mb = n ∨
    0 < E ∧ (E : Int) = e + 1 + (fmtP f).bias ∧ M = 0 ∧ n = 2 ^ ((fmtP f).mb + 1)

theorem encodeF_eq {f : Nat} (neg : Bool) {n : Nat} {e : Int} (h : Representable f n e) :
    ∃ E M, encodeF f neg n e = patternOf f neg E M ∧ HeldBy f E M n e := by
  obtain ⟨hw, hbias, hexp, hmin, hmax⟩ := fmtP_shape f
  obtain ⟨hlow, hhigh, hnormal⟩ := h
  have hbits := expBits_eq f
  have hpow : 2 ^ ((fmtP f).mb + 1) = 2 * 2 ^ (fmtP f).mb := by ring
  have hpos : 0 < 2 ^ (fmtP f).mb := Nat.two_pow_pos _
  have hn : n ≤ 2 ^ ((fmtP f).mb + 1) := by omega
  rcases lt_or_ge n (2 ^ (fmtP f).mb) with hsub | hnorm
  · have henc : encodeF f neg n e = patternOf f neg 0 n := by
      unfold encodeF patternOf
      simp [hsub]
    refine ⟨0, n, henc, Nat.two_pow_pos _, hsub, ?_, .inl ⟨rfl, rfl, ?_⟩⟩
    · split at hbits
      · rw [if_pos ‹_›]; omega
      · rw [if_neg ‹_›]; omega
    · by_contra hne
      exact absurd (hnormal (lt_of_le_of_ne hlow (Ne.symm hne))) (by omega)
  · obtain ⟨E, hE⟩ : ∃ E : Nat, (E : Int) = e + (fmtP f).bias := ⟨(e + (fmtP f).bias).toNat, by omega⟩
    have henc : ∀ F M, F * 2 ^ (fmtP f).mb + M = E * 2 ^ (fmtP f).mb + (n - 2 ^ (fmtP f).mb) → encodeF f neg n e = patternOf f neg F M := by
      intro F M hFM
      unfold encodeF patternOf
      rw [if_neg (by omega), hFM, ← hE, Int.toNat_natCast]
    rcases hn.lt_or_eq with hlt | heq
    · refine ⟨E, n - 2 ^ (fmtP f).mb, henc _ _ rfl, ?_, by omega, ?_, .inr (.inl ⟨by omega, hE, by omega⟩)⟩
      · split at hbits <;> omega
      · split at hbits
        · rw [if_pos ‹_›]
          obtain ⟨-, htop, hmb, hmaxm⟩ := hbits
          have : 2 ^ (fmtP f).mb = 8 := by rw [hmb]; rfl
          omega
        · rw [if_neg ‹_›]; omega
    · refine ⟨E + 1, 0, henc _ _ (by rw [heq, hpow, add_mul]; omega), ?_, hpos, ?_, .inr (.inr ⟨by omega, by push_cast; omega, rfl, heq⟩)⟩
      · split at hbits <;> omega
      · split at hbits
        · rw [if_pos ‹_›]; omega
        · rw [if_neg ‹_›]; omega

/-- A finite pattern, taken apart. -/
theorem HeldBy.unpack {f E M n : Nat} {e : Int} (hf : f ≤ 4) (neg : Bool) (h : HeldBy f E M n e) :
    ∃ (k : Nat) (d : Int), unpack f (patternOf f neg E M) = .fin neg k d ∧ (k : ℚ) * 2 ^ d = n * 2 ^ (e - (fmtP f).mb) := by
  obtain ⟨hE, hM, hfin, hval⟩ := h
  have hbias := (fmtP_shape f).2.1
  rw [unpack_patternOf f hf neg hE hM]
  have hun : ∀ v w : FVal, (if f = 3 then if E = 15 ∧ M = 7 then v else if E = 0 then
        .fin neg M ((fmtP f).emin - (fmtP f).mb) else .fin neg (M + 2 ^ (fmtP f).mb) (E - (fmtP f).bias - (fmtP f).mb)
      else if E = 2 ^ expBits f - 1 then w
      else if E = 0 then .fin neg M ((fmtP f).emin - (fmtP f).mb) else .fin neg (M + 2 ^ (fmtP f).mb) (E - (fmtP f).bias - (fmtP f).mb)) =
      if E = 0 then .fin neg M ((fmtP f).emin - (fmtP f).mb) else .fin neg (M + 2 ^ (fmtP f).mb) (E - (fmtP f).bias - (fmtP f).mb) := by
    intro v w
    split at hfin
    · rw [if_pos ‹_›, if_neg hfin]
    · rw [if_neg ‹_›, if_neg hfin]
  rw [hun]
  rcases hval with ⟨h0, rfl, rfl⟩ | ⟨hpos, hEe, rfl⟩ | ⟨hpos, hEe, rfl, rfl⟩
  · exact ⟨M, _, if_pos h0, rfl⟩
  · refine ⟨_, _, if_neg hpos.ne', ?_⟩
    rw [hEe, add_sub_cancel_right]
  · refine ⟨_, _, if_neg hpos.ne', ?_⟩
    rw [hEe, add_sub_cancel_right, zero_add, show e + 1 - ((fmtP f).mb : Int) = 1 + (e - (fmtP f).mb) by ring, zpow_add₀ (by norm_num)]
    push_cast
    ring

theorem patternOf_lt {f E M : Nat} (neg : Bool) (hE : E < 2 ^ expBits f) (hM : M < 2 ^ (fmtP f).mb) :
    patternOf f neg E M < 2 ^ (fmtP f).w := by
  have hw : (fmtP f).w = 1 + (expBits f + (fmtP f).mb) := by
    have := (fmtP_shape f).1
    unfold expBits
    omega
  have hlow : E * 2 ^ (fmtP f).mb + M < 2 ^ (expBits f + (fmtP f).mb) := by
    rw [pow_add]
    calc E * 2 ^ (fmtP f).mb + M < (E + 1) * 2 ^ (fmtP f).mb := by rw [add_mul, one_mul]; omega
      _ ≤ _ := Nat.mul_le_mul_right _ hE
  have hdouble : 2 ^ (1 + (expBits f + (fmtP f).mb)) = 2 * 2 ^ (expBits f + (fmtP f).mb) := by rw [pow_add, pow_one]
  rw [patternOf_eq, hw, hdouble]
  cases neg <;> simp only [Bool.toNat_false, Bool.toNat_true] <;> omega

/-- A finite pattern stands for its number. -/
theorem encodes_of_unpack {f r : Nat} {neg : Bool} {k : Nat} {d : Int} (hr : r < 2 ^ (fmtP f).w) (h : unpack f r = .fin neg k d) :
    Encodes f r neg (k * 2 ^ d) := by
  refine ⟨by rwa [params_width], by rw [h]; rfl, by rw [h]; rfl, ?_⟩
  rw [h, FVal.val]
  cases neg <;> simp

/-- The pattern of a representable number stands for it. -/
theorem encodes_encodeF {f : Nat} (hf : f ≤ 4) (neg : Bool) {n : Nat} {e : Int} (h : Representable f n e) :
    Encodes f (encodeF f neg n e) neg (n * 2 ^ (e - (fmtP f).mb)) := by
  obtain ⟨E, M, henc, hold⟩ := encodeF_eq neg h
  obtain ⟨k, d, hun, hval⟩ := hold.unpack hf neg
  rw [henc, ← hval]
  exact encodes_of_unpack (patternOf_lt neg hold.field hold.mantissa) hun

/-- Representable numbers of one value have one pattern. -/
theorem encodeF_congr {f : Nat} (neg : Bool) {n n' : Nat} {e e' : Int} (h : Representable f n e) (h' : Representable f n' e')
    (heq : (n : ℚ) * 2 ^ (e - (fmtP f).mb) = n' * 2 ^ (e' - (fmtP f).mb)) : encodeF f neg n e = encodeF f neg n' e' := by
  wlog hle : e ≤ e' generalizing n n' e e'
  · exact (this h' h heq.symm (le_of_not_ge hle)).symm
  obtain ⟨j, rfl⟩ : ∃ j : Nat, e' = e + j := ⟨(e' - e).toNat, by omega⟩
  have hn : n = n' * 2 ^ j := by
    rw [show e + (j : Int) - (fmtP f).mb = j + (e - (fmtP f).mb) by ring, zpow_add₀ (by norm_num), ← mul_assoc,
      mul_left_inj' (by positivity), zpow_natCast] at heq
    exact_mod_cast heq
  rcases Nat.eq_zero_or_pos j with rfl | hj
  · simp [hn]
  · obtain ⟨-, hbias, -, -, hmax⟩ := fmtP_shape f
    have hpow : 2 ^ ((fmtP f).mb + 1) = 2 * 2 ^ (fmtP f).mb := by ring
    have hpos : 0 < 2 ^ (fmtP f).mb := Nat.two_pow_pos _
    have hnorm : 2 ^ (fmtP f).mb ≤ n' := h'.normal (by have := h.low; omega)
    have hsmall : n ≤ 2 ^ ((fmtP f).mb + 1) := by
      rcases h.high with ⟨-, hh⟩ | ⟨-, hh⟩ <;> omega
    obtain rfl : j = 1 := by
      by_contra hne
      have h4 : 2 ^ 2 ≤ 2 ^ j := Nat.pow_le_pow_right (by norm_num) (by omega)
      have : 2 ^ (fmtP f).mb * 2 ^ 2 ≤ n' * 2 ^ j := Nat.mul_le_mul hnorm h4
      omega
    obtain rfl : n' = 2 ^ (fmtP f).mb := by omega
    obtain ⟨E, hE⟩ : ∃ E : Nat, (E : Int) = e + (fmtP f).bias := ⟨(e + (fmtP f).bias).toNat, by have := h.low; omega⟩
    have hE' : (e + ((1 : Nat) : Int) + (fmtP f).bias).toNat = E + 1 := by push_cast; omega
    unfold encodeF
    dsimp only
    rw [if_neg (show ¬ n < 2 ^ (fmtP f).mb by omega), if_neg (lt_irrefl _), ← hE, Int.toNat_natCast, hE', hn, add_mul]
    omega

end Sys2Proof.Machine
end

section
/-!
The rule of `round_frm` (05:R132), value, pattern and flags.
-/

namespace Sys2Proof.Machine

section
variable {f m : Nat} {neg : Bool} {x : ℚ}

/-- What does not overflow has a pattern. -/
theorem representable_of_not_tooBig (hx : 0 < x) (h : ¬ tooBig f m neg x) :
    Representable f (roundRat m neg (quoOf f x)).toNat (expOf f x) where
  low := emin_le_expOf
  high := by
    have hle := roundRat_quoOf_le (f := f) (x := x) m neg
    have h0 := roundRat_quoOf_nonneg (f := f) m neg hx
    unfold tooBig at h
    have hpow : ((2 ^ ((fmtP f).mb + 1) : Nat) : Int) = 2 ^ ((fmtP f).mb + 1) := by push_cast; rfl
    omega
  normal := fun hlt => by
    have := le_roundRat_quoOf (f := f) m neg hx hlt
    have hpow : ((2 ^ (fmtP f).mb : Nat) : Int) = 2 ^ (fmtP f).mb := by push_cast; rfl
    omega

theorem encodes_roundRat (hf : f ≤ 4) (hx : 0 < x) (h : ¬ tooBig f m neg x) :
    Encodes f (encodeF f neg (roundRat m neg (quoOf f x)).toNat (expOf f x)) neg (magOf f m neg x) := by
  have hmag : magOf f m neg x = ((roundRat m neg (quoOf f x)).toNat : ℚ) * 2 ^ (expOf f x - (fmtP f).mb) := by
    have h0 := Int.toNat_of_nonneg (roundRat_quoOf_nonneg (f := f) m neg hx)
    rw [magOf_eq]
    congr 1
    exact_mod_cast h0.symm
  rw [hmag]
  exact encodes_encodeF hf neg (representable_of_not_tooBig hx h)

end

theorem encodes_maxfinF {f : Nat} (hf : f ≤ 4) (neg : Bool) : Encodes f (maxfinF f neg) neg (params f).maxfin := by
  obtain ⟨-, -, hexp, hmin, -⟩ := fmtP_shape f
  rw [params_maxfin]
  exact encodes_encodeF hf neg ⟨hexp.le, .inr ⟨rfl, le_rfl⟩, fun _ => hmin⟩

theorem unpack_infF {f : Nat} (hf : f ≤ 4) (h3 : f ≠ 3) (neg : Bool) : unpack f (infF f neg) = .inf neg := by
  interval_cases f
  · cases neg <;> decide
  · cases neg <;> decide
  · cases neg <;> decide
  · exact absurd rfl h3
  · cases neg <;> decide

theorem encodes_zero {f : Nat} (hf : f ≤ 4) (neg : Bool) : Encodes f (if neg then 2 ^ ((fmtP f).w - 1) else 0) neg 0 := by
  have hexp := fmtP_shape f
  have h := encodes_encodeF hf neg (n := 0) (e := (fmtP f).emin) ⟨le_rfl, .inl ⟨hexp.2.2.1, Nat.zero_le _⟩, fun h => absurd h (lt_irrefl _)⟩
  simpa [encodeF] using h

/-- Flags are given by which of the five cases hold, however these are decided. -/
theorem flagsOf_congr {a b c d e a' b' c' d' e' : Prop} [Decidable a] [Decidable b] [Decidable c] [Decidable d] [Decidable e]
    [Decidable a'] [Decidable b'] [Decidable c'] [Decidable d'] [Decidable e'] (ha : a ↔ a') (hb : b ↔ b') (hc : c ↔ c') (hd : d ↔ d')
    (he : e ↔ e') : flagsOf a b c d e = flagsOf a' b' c' d' e' := by
  unfold flagsOf
  simp only [ha, hb, hc, hd, he]

/-- Settles O14: a fraction has the exponent and the rounded integer of its value, which decide pattern and flags. -/
theorem roundingFollowsTheRule : Obligations.RoundingFollowsTheRule := by
  intro f m sat neg num den hf hm hd
  dsimp only
  refine ⟨?_, ?_, ?_, ?_⟩
  · rintro rfl
    exact ⟨encodes_zero hf neg, rfl⟩
  · intro hn
    have hden : (0 : ℚ) < den := by exact_mod_cast hd
    have hnum : (0 : ℚ) < num := by exact_mod_cast Nat.pos_of_ne_zero hn
    have hx : (0 : ℚ) < (num : ℚ) / den := by positivity
    classical
    have hbig := tooBig_iff (f := f) m neg hx
    rw [roundFrm_eq f m sat neg hn hd, frmOfRat]
    refine ⟨flagsOf_congr (and_congr_left' hbig) Iff.rfl hbig Iff.rfl (or_congr_right hbig), ?_, ?_, ?_⟩
    · intro hnot
      rw [if_neg (hbig.not.mpr hnot)]
      exact encodes_roundRat hf hx (hbig.not.mpr hnot)
    · intro hb hmax
      rw [if_pos (hbig.mpr hb), if_pos hmax]
      exact encodes_maxfinF hf neg
    · intro hb hmax
      rw [if_pos (hbig.mpr hb), hmax]
      split
      · next h3 => rw [params_nan]; simp [h3]
      · next h3 => simpa [h3] using unpack_infF hf h3 neg
  · rintro rfl
    exact ⟨encodes_maxfinF hf neg, rfl⟩
  · rintro rfl
    split
    · next h3 => subst h3; rfl
    · next h3 =>
      have : roundFrmInf f false neg = (infF f neg, 0#5) := by simp [roundFrmInf, h3]
      rw [this]
      exact ⟨unpack_infF hf h3 neg, rfl⟩

end Sys2Proof.Machine
end

section
/-!
Numbers of a format that another rounds to itself, and the conversions (05:R133).
-/

namespace Sys2Proof.Machine

/-! ## One rounding of a value -/

theorem FVal.val_fin (neg : Bool) (k : Nat) (e : Int) : (FVal.fin neg k e).val = if neg then -((k : ℚ) * 2 ^ e) else k * 2 ^ e := by
  cases neg <;> simp [FVal.val]

theorem FVal.abs_val_fin (neg : Bool) (k : Nat) (e : Int) : |(FVal.fin neg k e).val| = k * 2 ^ e := by
  have h : (0 : ℚ) ≤ k * 2 ^ e := by positivity
  rw [FVal.val_fin]
  cases neg
  · simp
  · simp

/-- Fractions of one value round alike. -/
theorem roundFrm_congr (f m : Nat) (sat neg : Bool) {num den num' den' : Nat} (hd : 0 < den) (hd' : 0 < den')
    (h : (num : ℚ) / den = num' / den') : roundFrm f m sat neg num den = roundFrm f m sat neg num' den' := by
  have hden : (den : ℚ) ≠ 0 := by positivity
  have hden' : (den' : ℚ) ≠ 0 := by positivity
  by_cases hn : num = 0
  · subst hn
    have hn' : num' = 0 := by
      have : (num' : ℚ) / den' = 0 := by rw [← h]; simp
      simpa [hden'] using this
    subst hn'
    rfl
  · have hn' : num' ≠ 0 := by
      rintro rfl
      have : (num : ℚ) / den = 0 := by rw [h]; simp
      exact hn (by simpa [hden] using this)
    rw [roundFrm_eq _ _ _ _ hn hd, roundFrm_eq _ _ _ _ hn' hd', h]

theorem natAbs_div_den (x : ℚ) : ((x.num.natAbs : ℚ) / x.den) = |x| := by
  rw [Nat.cast_natAbs, Int.cast_abs]
  conv_rhs => rw [← Rat.num_div_den x, abs_div, Nat.abs_cast]

/-- Rounding a fraction is rounding any rational of that magnitude. -/
theorem roundFrm_eq_of_abs (f m : Nat) (sat neg : Bool) {num den : Nat} (hd : 0 < den) {x : ℚ} (h : (num : ℚ) / den = |x|) :
    roundFrm f m sat neg num den = roundFrm f m sat neg x.num.natAbs x.den :=
  roundFrm_congr f m sat neg hd x.den_pos (h.trans (natAbs_div_den x).symm)

theorem roundScaled_eq (f m : Nat) (sat neg : Bool) (k : Nat) (e : Int) {x : ℚ} (h : (k : ℚ) * 2 ^ e = |x|) :
    roundScaled f m sat neg k e = roundFrm f m sat neg x.num.natAbs x.den :=
  roundFrm_eq_of_abs f m sat neg (scaleDen_pos e) (by rw [scale_eq, h])

theorem roundScaled_zero (m : Nat) (neg : Bool) (k : Nat) (e : Int) {x : ℚ} (h : (k : ℚ) * 2 ^ e = |x|) :
    roundScaled 0 m false neg k e = round32 m neg x := roundScaled_eq 0 m false neg k e h

theorem roundIntScaled_eq (m : Nat) (v : Int) (e : Int) {x : ℚ} (h : (v : ℚ) * 2 ^ e = x) :
    roundIntScaled 0 m v e = round32 m (decide (x < 0)) x := by
  have hpos : (0 : ℚ) < 2 ^ e := by positivity
  have hneg : v < 0 ↔ x < 0 := by
    rw [← h, mul_neg_iff]
    simp [hpos, hpos.not_gt]
  have habs : ((v.natAbs : Nat) : ℚ) * 2 ^ e = |x| := by
    rw [← h, abs_mul, abs_of_pos hpos, Nat.cast_natAbs, Int.cast_abs]
  rw [roundIntScaled, decide_eq_decide.mpr hneg]
  exact roundScaled_zero m _ _ e habs

/-! ## Exact results -/

/-- A number with no more bits than the format, and no bit below its least, is its own quotient's integer. -/
theorem magOf_self {f : Nat} (m : Nat) (neg : Bool) {k : Nat} {e : Int} (hk : 0 < k) (hb : k < 2 ^ ((fmtP f).mb + 1))
    (he : (fmtP f).emin - (fmtP f).mb ≤ e) : magOf f m neg (k * 2 ^ e) = k * 2 ^ e := by
  have hx : (0 : ℚ) < k * 2 ^ e := by positivity
  have hexp : expOf f ((k : ℚ) * 2 ^ e) ≤ e + (fmtP f).mb := by
    unfold expOf
    rw [params_emin]
    refine max_le ?_ (by omega)
    have hlt : (k : ℚ) * 2 ^ e < 2 ^ (e + (fmtP f).mb + 1) := by
      calc (k : ℚ) * 2 ^ e < 2 ^ ((fmtP f).mb + 1) * 2 ^ e := by
            gcongr
            exact_mod_cast hb
        _ = 2 ^ (e + (fmtP f).mb + 1) := by
            rw [← zpow_natCast, ← zpow_add₀ (by norm_num)]
            congr 1
            push_cast
            ring
    have := (Int.lt_zpow_iff_log_lt (b := 2) (by norm_num) hx).mp (by exact_mod_cast hlt)
    omega
  obtain ⟨j, hj⟩ : ∃ j : Nat, e + (fmtP f).mb - expOf f ((k : ℚ) * 2 ^ e) = j := ⟨(e + (fmtP f).mb - expOf f ((k : ℚ) * 2 ^ e)).toNat, by omega⟩
  have hquo : quoOf f ((k : ℚ) * 2 ^ e) = ((k * 2 ^ j : Nat) : Int) := by
    rw [quoOf_eq, mul_assoc, ← zpow_add₀ (by norm_num), show e + (((fmtP f).mb : Int) - expOf f ((k : ℚ) * 2 ^ e)) = j by omega,
      zpow_natCast]
    push_cast
    rfl
  rw [← roundRat_eq_quoOf_iff, hquo, roundRat_intCast]

/-- A magnitude that rounds to itself and is no more than the greatest gives its pattern and no flag. -/
theorem roundFrm_exact {f m : Nat} (hf : f ≤ 4) (sat neg : Bool) {num den : Nat} (hd : 0 < den)
    (hself : (num : ℚ) / den ≠ 0 → magOf f m neg ((num : ℚ) / den) = (num : ℚ) / den) (hmax : (num : ℚ) / den ≤ (params f).maxfin) :
    Encodes f (roundFrm f m sat neg num den).1 neg ((num : ℚ) / den) ∧ (roundFrm f m sat neg num den).2 = 0#5 := by
  by_cases hn : num = 0
  · subst hn
    simpa [roundFrm] using encodes_zero hf neg
  · have hden : (0 : ℚ) < den := by exact_mod_cast hd
    have hnum : (0 : ℚ) < num := by exact_mod_cast Nat.pos_of_ne_zero hn
    have hx : (0 : ℚ) < (num : ℚ) / den := by positivity
    replace hself := hself hx.ne'
    have hsmall : ¬ tooBig f m neg ((num : ℚ) / den) := by
      rw [tooBig_iff m neg hx, hself]
      exact not_lt.mpr hmax
    have hint := (roundRat_eq_quoOf_iff (f := f) (x := (num : ℚ) / den) m neg).mpr hself
    rw [roundFrm_eq f m sat neg hn hd, frmOfRat]
    refine ⟨?_, ?_⟩
    · rw [if_neg hsmall]
      simpa [hself] using encodes_roundRat hf hx hsmall
    · simp [flagsOf, hsmall, hint]

/-! ## Conversions (05:R133) -/

/-- F32 holds every number of the other formats. -/
theorem narrower_le_maxfin {f k : Nat} {e : Int} (h1 : 1 ≤ f) (hk : k < 2 ^ ((fmtP f).mb + 1)) (he : e ≤ (fmtP f).emax - (fmtP f).mb) :
    (k : ℚ) * 2 ^ e ≤ (params 0).maxfin := by
  have hmost : (k : ℚ) * 2 ^ e ≤ (2 ^ ((fmtP f).mb + 1) - 1) * 2 ^ ((fmtP f).emax - (fmtP f).mb) := by
    have hk' : (k : ℚ) ≤ 2 ^ ((fmtP f).mb + 1) - 1 := by
      have : (k : ℚ) + 1 ≤ 2 ^ ((fmtP f).mb + 1) := by exact_mod_cast hk
      linarith
    gcongr
    · exact (Nat.cast_nonneg k).trans hk'
    · norm_num
  refine hmost.trans ?_
  have hcase : ∀ g : Nat, 1 ≤ g → g < 5 →
      ((2 : ℚ) ^ ((fmtP g).mb + 1) - 1) * 2 ^ ((fmtP g).emax - (fmtP g).mb) ≤ (params 0).maxfin := by
    intro g h1 h5
    interval_cases g <;> norm_num [fmtP, params, zpow_neg, zpow_ofNat]
  rcases lt_or_ge f 5 with h5 | h5
  · exact hcase f h1 h5
  · have hfmt : fmtP f = fmtP 4 := by
      obtain ⟨j, rfl⟩ := Nat.exists_eq_add_of_le' h5
      rfl
    rw [hfmt]
    exact hcase 4 (by norm_num) (by norm_num)

theorem widen_fin {f x : Nat} (h1 : 1 ≤ f) (h : (unpack f x).isFin = true) :
    Encodes 0 (widen f x).1 (unpack f x).sign |(unpack f x).val| ∧ (widen f x).2 = 0#5 := by
  unfold widen
  cases hu : unpack f x with
  | inf n => rw [hu] at h; simp [FVal.isFin] at h
  | nan n => rw [hu] at h; simp [FVal.isFin] at h
  | fin neg k e =>
    obtain ⟨hk, hlow, hhigh⟩ := unpack_fin hu
    have hwide : (fmtP f).mb ≤ (fmtP 0).mb ∧ (fmtP 0).emin - (fmtP 0).mb ≤ (fmtP f).emin - (fmtP f).mb := by
      obtain ⟨g, hg, hfmt, -⟩ := exists_format f
      rw [hfmt]
      interval_cases g <;> decide
    have hk24 : k < 2 ^ ((fmtP 0).mb + 1) := hk.trans_le (Nat.pow_le_pow_right (by norm_num) (Nat.succ_le_succ hwide.1))
    have hexact := roundFrm_exact (f := 0) (m := 0) (by norm_num) false neg (scaleDen_pos e) (num := scaleNum k e)
      (fun hne => by
        rw [scale_eq] at hne ⊢
        have hk0 : 0 < k := Nat.pos_of_ne_zero (by rintro rfl; simp at hne)
        exact magOf_self 0 neg hk0 hk24 (hwide.2.trans hlow))
      (by rw [scale_eq]; exact narrower_le_maxfin h1 hk hhigh)
    rw [scale_eq] at hexact
    rw [FVal.abs_val_fin]
    exact ⟨hexact.1, rfl⟩

theorem f32ToInt_fin {m x : Nat} (lo hi : Int) (h : (unpack 0 x).isFin = true) :
    let y := unpack 0 x
    let k : Int := (if y.sign then -1 else 1) * roundRat m y.sign |y.val|
    f32ToInt m lo hi x = if k < lo then (lo, 16#5) else if hi < k then (hi, 16#5) else (k, if (k : ℚ) = y.val then 0#5 else 1#5) := by
  dsimp only
  unfold f32ToInt
  cases hu : unpack 0 x with
  | inf n => rw [hu] at h; simp [FVal.isFin] at h
  | nan n => rw [hu] at h; simp [FVal.isFin] at h
  | fin neg k e =>
    have hden : (scaleDen e : ℚ) ≠ 0 := by exact_mod_cast (scaleDen_pos e).ne'
    have hround := roundInt_eq m neg (scaleNum k e) (scaleDen_pos e)
    rw [scale_eq] at hround
    have hv : (if neg then -((roundInt m neg (scaleNum k e) (scaleDen e) : Nat) : Int)
          else ((roundInt m neg (scaleNum k e) (scaleDen e) : Nat) : Int)) =
        (if neg then -1 else 1) * roundRat m neg |(FVal.fin neg k e).val| := by
      rw [FVal.abs_val_fin, ← hround]
      cases neg <;> simp
    have hexact : (roundInt m neg (scaleNum k e) (scaleDen e) * scaleDen e == scaleNum k e) =
        decide ((((if neg then -1 else 1) * roundRat m neg |(FVal.fin neg k e).val| : Int) : ℚ) = (FVal.fin neg k e).val) := by
      rw [FVal.abs_val_fin, FVal.val_fin, ← hround, ← scale_eq, Bool.eq_iff_iff, beq_iff_eq, decide_eq_true_eq,
        ← Nat.cast_inj (R := ℚ), Nat.cast_mul, ← eq_div_iff hden]
      cases neg <;> simp
    dsimp only [FVal.sign]
    rw [hv, hexact]
    simp only [decide_eq_true_eq, gt_iff_lt]
    rfl

/-- Settles O18: a finite number is a fraction of its value, which the target format holds or rounds once. -/
theorem conversionsFollowTheTable : Obligations.ConversionsFollowTheTable := by
  intro f m x sat v lo hi h1 h4 hm hlo hhi
  dsimp only
  refine ⟨widen_fin h1, ?_, ?_, ?_, ?_, ?_, ?_, f32ToInt_fin lo hi, ?_, ?_⟩
  · intro n hn
    rw [widen, hn]
    exact ⟨unpack_infF (by norm_num) (by norm_num) n, rfl⟩
  · intro n hn
    rw [widen, hn]
    rfl
  · intro hy
    unfold narrow
    cases hu : unpack 0 x with
    | inf n => rw [hu] at hy; simp [FVal.isFin] at hy
    | nan n => rw [hu] at hy; simp [FVal.isFin] at hy
    | fin neg k e => exact roundScaled_eq f m sat neg k e (FVal.abs_val_fin neg k e).symm
  · intro n hn
    rw [narrow, hn]
  · intro n hn
    rw [narrow, hn, params_nan]
    rfl
  · have := roundIntScaled_eq m v 0 (x := v) (by simp)
    rw [intToF32, this]
    simp
  · intro n hn
    rw [f32ToInt, hn]
    rfl
  · intro n hn
    rw [f32ToInt, hn]
    rfl

end Sys2Proof.Machine
end

section
/-!
Sums that are exact before they are rounded: `fredadd` (05:R147).
-/

namespace Sys2Proof.Machine

/-- A finite F32 value, or a product of two, in units of 2^-320. -/
theorem acc640Of_eq (neg : Bool) (k : Nat) {e : Int} (he : -320 ≤ e) :
    (acc640Of neg k e : ℚ) = (FVal.fin neg k e).val * 2 ^ 320 := by
  have hpow : ((2 ^ (e + 320).toNat : Nat) : ℚ) = 2 ^ e * 2 ^ 320 := by
    obtain ⟨j, hj⟩ : ∃ j : Nat, e + 320 = j := ⟨(e + 320).toNat, by omega⟩
    rw [hj, Int.toNat_natCast, show e = j - 320 by omega, zpow_sub₀ (by norm_num), zpow_natCast]
    norm_num
  have hmag : ((k * 2 ^ (e + 320).toNat : Nat) : ℚ) = k * 2 ^ e * 2 ^ 320 := by
    rw [Nat.cast_mul, hpow, mul_assoc]
  rw [FVal.val_fin, acc640Of]
  cases neg
  · simpa using hmag
  · simp only [if_true, Int.cast_neg, Int.cast_natCast, hmag, neg_mul]

/-- What one value adds to the sum of the lanes, in units of 2^-320. -/
def laneTerm (v : FVal) : Int :=
  match v with
  | .fin neg k e => acc640Of neg k e
  | _ => 0

theorem laneTerm_eq (x : Nat) : (laneTerm (unpack 0 x) : ℚ) = (unpack 0 x).val * 2 ^ 320 := by
  cases hu : unpack 0 x with
  | fin neg k e =>
    have := (unpack_fin hu).2.1
    exact acc640Of_eq neg k ((by decide : (-320 : Int) ≤ (fmtP 0).emin - (fmtP 0).mb).trans this)
  | inf n => simp [laneTerm, FVal.val]
  | nan n => simp [laneTerm, FVal.val]

theorem sum_laneTerm (xs : List Nat) :
    ((((xs.map (unpack 0)).map laneTerm).sum : Int) : ℚ) = ((xs.map (unpack 0)).map FVal.val).sum * 2 ^ 320 := by
  induction xs with
  | nil => simp
  | cons x xs ih =>
    simp only [List.map_cons, List.sum_cons, Int.cast_add, ih, laneTerm_eq, add_mul]

/-! ## What a list of values holds -/

theorem any_isNan (vs : List FVal) : vs.any FVal.isNan = true ↔ ∃ n, FVal.nan n ∈ vs := by
  rw [List.any_eq_true]
  constructor
  · rintro ⟨v, hv, hn⟩
    cases v with
    | nan n => exact ⟨n, hv⟩
    | inf n => simp [FVal.isNan] at hn
    | fin neg k e => simp [FVal.isNan] at hn
  · rintro ⟨n, hn⟩
    exact ⟨_, hn, rfl⟩

theorem any_isSnan (vs : List FVal) : vs.any FVal.isSnan = true ↔ FVal.nan true ∈ vs := by
  rw [List.any_eq_true]
  constructor
  · rintro ⟨v, hv, hn⟩
    cases v with
    | nan n =>
      obtain rfl : n = true := hn
      exact hv
    | inf n => simp [FVal.isSnan] at hn
    | fin neg k e => simp [FVal.isSnan] at hn
  · intro hn
    exact ⟨_, hn, rfl⟩

theorem any_beq_inf (vs : List FVal) (n : Bool) : vs.any (fun v => v == .inf n) = true ↔ FVal.inf n ∈ vs := by
  simp [List.any_eq_true]

theorem foldl_laneTerm {g : Int → FVal → Int} (hg : ∀ a v, g a v = a + laneTerm v) (vs : List FVal) (a : Int) :
    vs.foldl g a = a + (vs.map laneTerm).sum := by
  induction vs generalizing a with
  | nil => simp
  | cons v vs ih => rw [List.foldl_cons, ih, hg, List.map_cons, List.sum_cons, add_assoc]

/-- `fredadd` in terms of what the list of values holds and of the sum of its terms. -/
theorem fRedAdd_eq (m : Nat) (xs : List Nat) :
    fRedAdd m xs =
      let vs := xs.map (unpack 0)
      if ∃ n, FVal.nan n ∈ vs then (0x7fc0_0000, if FVal.nan true ∈ vs ∨ (FVal.inf false ∈ vs ∧ FVal.inf true ∈ vs) then 16#5 else 0#5)
      else if FVal.inf false ∈ vs ∧ FVal.inf true ∈ vs then (0x7fc0_0000, 16#5)
      else if FVal.inf false ∈ vs then (0x7f80_0000, 0#5)
      else if FVal.inf true ∈ vs then (0xff80_0000, 0#5)
      else if (vs.map laneTerm).sum = 0 then
        (if m = 3 ∨ (∀ v ∈ vs, v.isZero = true ∧ v.sign = true) then 0x8000_0000 else 0, 0#5)
      else roundIntScaled 0 m (vs.map laneTerm).sum (-320) := by
  have hallneg : ∀ vs : List FVal, (vs.all (fun v => v.isZero && v.sign) || m == 3) = true ↔
      m = 3 ∨ ∀ v ∈ vs, v.isZero = true ∧ v.sign = true := by
    intro vs
    simp only [Bool.or_eq_true, List.all_eq_true, Bool.and_eq_true, beq_iff_eq, or_comm]
  unfold fRedAdd invIf
  dsimp only
  rw [foldl_laneTerm, zero_add]
  · simp only [Bool.or_eq_true, Bool.and_eq_true, any_isNan, any_isSnan, any_beq_inf]
    simp only [← Bool.or_eq_true, hallneg]
    rfl
  · intro a v
    cases v with
    | fin neg k e => rfl
    | inf n => exact (add_zero a).symm
    | nan n => exact (add_zero a).symm

/-- Settles O19: the sum of the lanes is an integer in units of 2^-320, whatever their order. -/
theorem laneSumIsExactAndUnordered : Obligations.LaneSumIsExactAndUnordered := by
  intro m xs hm hne
  dsimp only
  have hsum : (xs.map (unpack 0) |>.map laneTerm).sum = 0 ↔ ((xs.map (unpack 0)).map FVal.val).sum = 0 := by
    have h := sum_laneTerm xs
    rw [← Int.cast_eq_zero (α := ℚ), h, mul_eq_zero]
    norm_num
  have hround : roundIntScaled 0 m (xs.map (unpack 0) |>.map laneTerm).sum (-320) =
      round32 m (decide (((xs.map (unpack 0)).map FVal.val).sum < 0)) ((xs.map (unpack 0)).map FVal.val).sum := by
    refine roundIntScaled_eq m _ _ ?_
    rw [sum_laneTerm, mul_assoc]
    norm_num [zpow_neg, zpow_ofNat]
  refine ⟨?_, ?_, ?_, ?_, ?_, ?_, ?_⟩
  · intro hn
    rw [fRedAdd_eq]
    exact if_pos hn
  · intro hn hp hm
    rw [fRedAdd_eq]
    exact (if_neg hn).trans (if_pos ⟨hp, hm⟩)
  · intro hn hp hm
    rw [fRedAdd_eq]
    exact (if_neg hn).trans ((if_neg fun h => hm h.2).trans (if_pos hp))
  · intro hn hp hm
    rw [fRedAdd_eq]
    exact (if_neg hn).trans ((if_neg fun h => hp h.1).trans ((if_neg hp).trans (if_pos hm)))
  · intro hn hp hm hs
    rw [fRedAdd_eq, ← hround]
    exact (if_neg hn).trans ((if_neg fun h => hp h.1).trans ((if_neg hp).trans ((if_neg hm).trans (if_neg (hsum.not.mpr hs)))))
  · intro hn hp hm hs
    rw [fRedAdd_eq]
    exact (if_neg hn).trans ((if_neg fun h => hp h.1).trans ((if_neg hp).trans ((if_neg hm).trans (if_pos (hsum.mpr hs)))))
  · intro ys hperm
    have hvs : (ys.map (unpack 0)).Perm (xs.map (unpack 0)) := hperm.map _
    have hterms := (hvs.map laneTerm).sum_eq
    rw [fRedAdd_eq, fRedAdd_eq]
    simp only [hvs.mem_iff, hterms]

end Sys2Proof.Machine
end

section
/-!
Division and the functions where the exact value does not decide (05:R146).
-/

namespace Sys2Proof.Machine

theorem infF_zero (neg : Bool) : infF 0 neg = if neg then 0xff80_0000 else 0x7f80_0000 := by cases neg <;> rfl

/-! ## Values taken apart -/

theorem FVal.isFin_iff {v : FVal} : v.isFin = true ↔ ∃ neg k e, v = .fin neg k e := by
  cases v <;> simp [FVal.isFin]

theorem FVal.isZero_iff {v : FVal} : v.isZero = true ↔ ∃ neg e, v = .fin neg 0 e := by
  cases v <;> simp [FVal.isZero]

theorem FVal.isInf_iff {v : FVal} : v.isInf = true ↔ ∃ neg, v = .inf neg := by
  cases v <;> simp [FVal.isInf]

theorem FVal.isNan_iff {v : FVal} : v.isNan = true ↔ ∃ sig, v = .nan sig := by
  cases v <;> simp [FVal.isNan]

/-! ## Division -/

section
variable (m : Nat) {a b : Nat}

theorem fDiv_nan (h : (unpack 0 a).isNan = true ∨ (unpack 0 b).isNan = true) :
    fDiv m a b = (nan32, invIf ((unpack 0 a).isSnan || (unpack 0 b).isSnan)) := by
  unfold fDiv
  exact if_pos (Bool.or_eq_true _ _ ▸ h)

theorem fDiv_invalid (h : ((unpack 0 a).isZero = true ∧ (unpack 0 b).isZero = true) ∨ ((unpack 0 a).isInf = true ∧ (unpack 0 b).isInf = true)) :
    fDiv m a b = (nan32, flInvalid) := by
  unfold fDiv
  rcases h with ⟨ha, hb⟩ | ⟨ha, hb⟩
  · obtain ⟨n, e, ha⟩ := FVal.isZero_iff.mp ha
    obtain ⟨n', e', hb⟩ := FVal.isZero_iff.mp hb
    rw [ha, hb]
    rfl
  · obtain ⟨n, ha⟩ := FVal.isInf_iff.mp ha
    obtain ⟨n', hb⟩ := FVal.isInf_iff.mp hb
    rw [ha, hb]
    rfl

theorem fDiv_by_zero (ha : (unpack 0 a).isFin = true) (hz : (unpack 0 a).isZero = false) (hb : (unpack 0 b).isZero = true) :
    fDiv m a b = (infF 0 ((unpack 0 a).sign != (unpack 0 b).sign), flDivzero) := by
  obtain ⟨n, k, e, ha⟩ := FVal.isFin_iff.mp ha
  obtain ⟨n', e', hb⟩ := FVal.isZero_iff.mp hb
  rw [ha] at hz
  have hk : (k == 0) = false := hz
  unfold fDiv
  rw [ha, hb]
  simp [FVal.isNan, FVal.isZero, FVal.isInf, hk, FVal.sign]

theorem fDiv_of_inf {n : Bool} (ha : unpack 0 a = .inf n) (hb : (unpack 0 b).isFin = true) :
    fDiv m a b = (infF 0 (n != (unpack 0 b).sign), 0#5) := by
  obtain ⟨n', k, e, hb⟩ := FVal.isFin_iff.mp hb
  unfold fDiv
  rw [ha, hb]
  rfl

theorem fDiv_by_inf {n : Bool} (ha : (unpack 0 a).isFin = true) (hb : unpack 0 b = .inf n) :
    fDiv m a b = (if (unpack 0 a).sign != n then 2 ^ 31 else 0, 0#5) := by
  obtain ⟨n', k, e, ha⟩ := FVal.isFin_iff.mp ha
  unfold fDiv
  rw [ha, hb]
  simp [FVal.isNan, FVal.isZero, FVal.isInf, FVal.sign]

end

/-! ## Sines of whole numbers and halves -/

/-- A finite F32 value in units of 2^-320, as `fSinPi` and `fCosPi` have it. -/
def fxOf (neg : Bool) (k : Nat) (e : Int) : Int :=
  let mag : Int := (k * 2 ^ (e + fxP).toNat : Nat)
  if neg then -mag else mag

theorem fxOf_eq {x : Nat} {neg : Bool} {k : Nat} {e : Int} (h : unpack 0 x = .fin neg k e) :
    (fxOf neg k e : ℚ) = (unpack 0 x).val * 2 ^ fxP := by
  have he := (unpack_fin h).2.1
  rw [h]
  exact acc640Of_eq neg k ((by decide : (-320 : Int) ≤ (fmtP 0).emin - (fmtP 0).mb).trans he)

/-- A value with denominator 1 or 2 is a whole number of halves. -/
theorem halves_of_den {q : ℚ} {z : Int} (hz : (z : ℚ) = q * 2 ^ fxP) {n : Int} (hq : q = n / 2) : z = n * 2 ^ (fxP - 1) := by
  have : (z : ℚ) = ((n * 2 ^ (fxP - 1) : Int) : ℚ) := by
    rw [hz, hq, show fxP = fxP - 1 + 1 from rfl, pow_succ, Int.cast_mul, Int.cast_pow, Int.cast_ofNat, Nat.add_sub_cancel]
    ring
  exact_mod_cast this

theorem val_of_den_one {q : ℚ} (h : q.den = 1) : q = ((2 * q.num : Int) : ℚ) / 2 := by
  conv_lhs => rw [← Rat.num_div_den q, h]
  push_cast
  ring

theorem val_of_den_two {q : ℚ} (h : q.den = 2) : q = (q.num : ℚ) / 2 ∧ q.num % 2 = 1 := by
  constructor
  · conv_lhs => rw [← Rat.num_div_den q, h]
    norm_num
  · have := q.reduced
    rw [h, Nat.coprime_two_right] at this
    exact Int.odd_iff.mp (Int.natAbs_odd.mp this)

theorem fSinPi_halves (m : Nat) {a : Nat} {neg : Bool} {k : Nat} {e : Int} (h : unpack 0 a = .fin neg k e) {n : Int}
    (hn : fxOf neg k e = n * 2 ^ (fxP - 1)) :
    fSinPi m a = if n % 4 = 1 then (0x3f80_0000, 0#5) else if n % 4 = 3 then (0xbf80_0000, 0#5) else (if neg then 2 ^ 31 else 0, 0#5) := by
  have hmod : (fxOf neg k e).emod ((2 ^ (fxP - 1) : Nat) : Int) = 0 := by
    rw [hn]
    rw [Nat.cast_pow, Nat.cast_ofNat]
    exact Int.mul_emod_left _ _
  have hdiv : (fxOf neg k e / ((2 ^ (fxP - 1) : Nat) : Int)).emod 4 = n % 4 := by
    rw [hn]
    congr 1
    rw [Nat.cast_pow, Nat.cast_ofNat]
    exact Int.mul_ediv_cancel _ (by positivity)
  unfold fSinPi
  rw [h]
  refine (if_pos hmod).trans ?_
  rw [← hdiv]
  rfl

theorem fCosPi_halves (m : Nat) {a : Nat} {neg : Bool} {k : Nat} {e : Int} (h : unpack 0 a = .fin neg k e) {n : Int}
    (hn : fxOf neg k e = n * 2 ^ (fxP - 1)) :
    fCosPi m a = if n % 4 = 0 then (0x3f80_0000, 0#5) else if n % 4 = 2 then (0xbf80_0000, 0#5) else (0, 0#5) := by
  have hmod : (fxOf neg k e).emod ((2 ^ (fxP - 1) : Nat) : Int) = 0 := by
    rw [hn]
    rw [Nat.cast_pow, Nat.cast_ofNat]
    exact Int.mul_emod_left _ _
  have hdiv : (fxOf neg k e / ((2 ^ (fxP - 1) : Nat) : Int)).emod 4 = n % 4 := by
    rw [hn]
    congr 1
    rw [Nat.cast_pow, Nat.cast_ofNat]
    exact Int.mul_ediv_cancel _ (by positivity)
  unfold fCosPi
  rw [h]
  refine (if_pos hmod).trans ?_
  rw [← hdiv]
  rfl

theorem functionSpecialCases : Says.FunctionSpecialCases := by
  intro m a b hm ha
  dsimp only
  simp only [← infF_zero]
  refine ⟨fDiv_by_zero m, fDiv_invalid m, ?_, fun n => fDiv_of_inf m, fun n => fDiv_by_inf m, ?_, ?_, ?_, ?_, ?_, ?_, ?_, ?_, ?_, ?_, ?_⟩
  · intro h
    rw [fDiv_nan m h, invIf]
    simp only [Bool.or_eq_true]
    rfl
  · intro n h
    rw [fRcp, h]
    rfl
  · intro h
    rw [fSqrt, fLog2, h]
    exact ⟨rfl, rfl⟩
  · intro h
    obtain ⟨n, e, h⟩ := FVal.isZero_iff.mp h
    have hsin := fSinPi_halves m h (n := 0) (by simp [fxOf])
    rw [fRcp, fRsq, fLog2, fSqrt, hsin, h]
    exact ⟨rfl, rfl, rfl, rfl, rfl⟩
  · rintro (h | ⟨hfin, hz, hneg⟩)
    · rw [fRsq, fLog2, fSqrt, h]
      exact ⟨rfl, rfl, rfl⟩
    · obtain ⟨n, k, e, h⟩ := FVal.isFin_iff.mp hfin
      rw [h] at hz hneg
      obtain rfl : n = true := hneg
      have hk : k ≠ 0 := by simpa [FVal.isZero] using hz
      rw [fRsq, fLog2, fSqrt, h]
      simp [hk, nan32, flInvalid]
  · intro h
    rw [fRsq, fExp2, h]
    exact ⟨rfl, rfl⟩
  · intro h
    rw [fExp2, h]
    rfl
  · rintro rfl
    rw [fLog2, show unpack 0 1065353216 = .fin false (2 ^ 23) (-23) by decide]
    simp only [log2N, Nat.log2_two_pow]
    simp [roundIntScaled, roundScaled, scaleNum, roundFrm]
  · intro h
    obtain ⟨n, h⟩ := FVal.isInf_iff.mp h
    rw [fSinPi, fCosPi, h]
    exact ⟨rfl, rfl⟩
  · intro hfin hden
    obtain ⟨n, k, e, h⟩ := FVal.isFin_iff.mp hfin
    have hhalf := halves_of_den (fxOf_eq h) (val_of_den_one hden)
    rw [fSinPi_halves m h hhalf, if_neg (by omega), if_neg (by omega), h]
    rfl
  · intro hfin hden
    obtain ⟨n, k, e, h⟩ := FVal.isFin_iff.mp hfin
    obtain ⟨hval, hodd⟩ := val_of_den_two hden
    rw [fCosPi_halves m h (halves_of_den (fxOf_eq h) hval), if_neg (by omega), if_neg (by omega)]
  · intro h
    obtain ⟨sig, h⟩ := FVal.isNan_iff.mp h
    rw [fSqrt, fRcp, fRsq, fExp2, fLog2, fSinPi, fCosPi, h]
    exact ⟨rfl, rfl, rfl, rfl, rfl, rfl, rfl⟩

end Sys2Proof.Machine
end

section
/-!
What a rounded value says of the values around it: between two values that round alike everything inexact rounds so, and the values between
two neighbours of a fine grid round alike (05:R132, R146).
-/

namespace Sys2Proof.Machine

theorem flagsOf_inj {a b c d e a' b' c' d' e' : Prop} [Decidable a] [Decidable b] [Decidable c] [Decidable d] [Decidable e]
    [Decidable a'] [Decidable b'] [Decidable c'] [Decidable d'] [Decidable e'] (h : flagsOf a b c d e = flagsOf a' b' c' d' e') :
    (c ↔ c') ∧ (d ↔ d') ∧ (e ↔ e') := by
  have hbit : ∀ (a b c d e : Prop) [Decidable a] [Decidable b] [Decidable c] [Decidable d] [Decidable e],
      ((flagsOf a b c d e).getLsbD 2 = true ↔ c) ∧ ((flagsOf a b c d e).getLsbD 1 = true ↔ d) ∧ ((flagsOf a b c d e).getLsbD 0 = true ↔ e) := by
    intro a b c d e _ _ _ _ _
    unfold flagsOf
    simp only [BitVec.getLsbD_or, Bool.or_eq_true]
    refine ⟨?_, ?_, ?_⟩
    · split_ifs <;> simp_all
    · split_ifs <;> simp_all
    · split_ifs <;> simp_all
  obtain ⟨h1, h2, h3⟩ := hbit a b c d e
  obtain ⟨h1', h2', h3'⟩ := hbit a' b' c' d' e'
  rw [h] at h1 h2 h3
  exact ⟨h1.symm.trans h1', h2.symm.trans h2', h3.symm.trans h3'⟩

section
variable {f m : Nat} {sat neg : Bool} {x y z : ℚ}

/-- What is beyond the greatest number is not below the least normal one. -/
theorem not_tiny_of_tooBig (hx : 0 < x) (h : tooBig f m neg x) : ¬ x < 2 ^ (params f).emin := by
  intro htiny
  have hlog := (lt_zpow_emin_iff hx).mp htiny
  have hexp : expOf f x = (fmtP f).emin := by
    unfold expOf
    rw [params_emin]
    omega
  have := (fmtP_shape f).2.2.1
  unfold tooBig at h
  omega

/-- Between two values that round alike, a value that is no number of the format rounds as they do. -/
theorem frmOfRat_between (hf : f ≤ 4) (hx : 0 < x) (hxy : x < y) (hyz : y < z) (h : frmOfRat f m sat neg x = frmOfRat f m sat neg z)
    (hy : magOf f m neg y ≠ y) : frmOfRat f m sat neg y = frmOfRat f m sat neg x := by
  classical
  have hy0 := hx.trans hxy
  have hz0 := hy0.trans hyz
  have hmxy := magOf_mono (f := f) m neg hx hxy.le
  have hmyz := magOf_mono (f := f) m neg hy0 hyz.le
  obtain ⟨hpat, hflags⟩ := Prod.ext_iff.mp h
  simp only [frmOfRat] at hpat hflags
  obtain ⟨hbig, htiny, hexact⟩ := flagsOf_inj hflags
  have hny := (roundRat_eq_quoOf_iff (f := f) (x := y) m neg).not.mpr hy
  by_cases hbx : tooBig f m neg x
  · have hbz := hbig.mp hbx
    have hby : tooBig f m neg y := (tooBig_iff m neg hy0).mpr (((tooBig_iff m neg hx).mp hbx).trans_le hmxy)
    have htx := not_tiny_of_tooBig hx hbx
    have hty := not_tiny_of_tooBig hy0 hby
    unfold frmOfRat
    rw [if_pos hbx, if_pos hby]
    refine Prod.ext rfl (flagsOf_congr ?_ Iff.rfl ?_ ?_ ?_)
    · simp [hbx, hby]
    · simp [hbx, hby]
    · simp [htx, hty]
    · simp [hbx, hby]
  · have hbz := hbig.not.mp hbx
    have hby : ¬ tooBig f m neg y := by
      rw [tooBig_iff m neg hy0, not_lt]
      exact hmyz.trans (not_lt.mp ((tooBig_iff m neg hz0).not.mp hbz))
    rw [if_neg hbx, if_neg hbz] at hpat
    have hmag : magOf f m neg x = magOf f m neg z := by
      have ex := (encodes_roundRat hf hx hbx).2.2.2
      have ez := (encodes_roundRat hf hz0 hbz).2.2.2
      rw [hpat, ez] at ex
      cases neg
      · exact ex.symm
      · exact neg_inj.mp ex.symm
    have hmag' : magOf f m neg y = magOf f m neg x := le_antisymm (hmag ▸ hmyz) hmxy
    have hnx : (roundRat m neg (quoOf f x) : ℚ) ≠ quoOf f x := by
      intro hx'
      have hz' : (roundRat m neg (quoOf f z) : ℚ) = quoOf f z := by
        by_contra hne
        exact (hexact.mpr (.inl hne)).elim (fun h => h hx') hbx
      rw [roundRat_eq_quoOf_iff] at hx' hz'
      exact (hxy.trans hyz).ne (hx' ▸ hmag ▸ hz')
    have hnz : (roundRat m neg (quoOf f z) : ℚ) ≠ quoOf f z := (hexact.mp (.inl hnx)).resolve_right hbz
    have hpaty : encodeF f neg (roundRat m neg (quoOf f y)).toNat (expOf f y) = encodeF f neg (roundRat m neg (quoOf f x)).toNat (expOf f x) := by
      refine encodeF_congr neg (representable_of_not_tooBig hy0 hby) (representable_of_not_tooBig hx hbx) ?_
      have hcast : ∀ w : ℚ, 0 < w → (((roundRat m neg (quoOf f w)).toNat : Nat) : ℚ) = (roundRat m neg (quoOf f w) : ℚ) := by
        intro w hw
        have := Int.toNat_of_nonneg (roundRat_quoOf_nonneg (f := f) m neg hw)
        exact_mod_cast this
      rw [hcast y hy0, hcast x hx, ← magOf_eq, ← magOf_eq, hmag']
    unfold frmOfRat
    rw [if_neg hbx, if_neg hby, hpaty]
    refine Prod.ext rfl (flagsOf_congr ?_ Iff.rfl ?_ ?_ ?_)
    · simp [hbx, hby]
    · simp [hbx, hby]
    · simp only [hny, hnx, not_false_eq_true, and_true, ne_eq]
      exact ⟨fun hlt => hxy.trans hlt, fun hlt => hyz.trans (htiny.mp ⟨hlt, hnx⟩).1⟩
    · simp [hny, hnx]

/-- Values between two neighbours of the grid of step 2^-j that is so fine that the lower one is `r` steps up, with two bits more than the format. -/
structure SameCell (f : Nat) (r : Nat) (j : Int) (x : ℚ) : Prop where
  fine : 2 ^ ((fmtP f).mb + 2) ≤ r
  above : (r : ℚ) * 2 ^ (-j) < x
  below : x < (r + 1) * 2 ^ (-j)

theorem SameCell.pos {r : Nat} {j : Int} (h : SameCell f r j x) : 0 < x := lt_of_le_of_lt (by positivity) h.above

/-- Every multiple of a multiple of the step lies on one side of the whole cell. -/
theorem SameCell.le_iff {r : Nat} {j : Int} (hx : SameCell f r j x) (hy : SameCell f r j y) (i : Int) (d : Nat) :
    (i : ℚ) * 2 ^ (d - j) ≤ x → (i : ℚ) * 2 ^ (d - j) < y := by
  intro h
  have hpos : (0 : ℚ) < 2 ^ (-j) := by positivity
  have hsplit : (i : ℚ) * 2 ^ (d - j) = ((i * 2 ^ d : Int) : ℚ) * 2 ^ (-j) := by
    rw [sub_eq_add_neg, zpow_add₀ (by norm_num), zpow_natCast]
    push_cast
    ring
  rw [hsplit] at h ⊢
  have hlt : ((i * 2 ^ d : Int) : ℚ) < ((r : Int) : ℚ) + 1 := by
    have := h.trans_lt hx.below
    rw [mul_lt_mul_iff_left₀ hpos] at this
    exact_mod_cast this
  have hle : i * 2 ^ d ≤ (r : Int) := by
    have : i * 2 ^ d < (r : Int) + 1 := by exact_mod_cast hlt
    omega
  refine lt_of_le_of_lt ?_ hy.above
  rw [mul_le_mul_iff_left₀ hpos]
  exact_mod_cast hle

theorem SameCell.log_le {r : Nat} {j : Int} (hx : SameCell f r j x) (hy : SameCell f r j y) : Int.log 2 x ≤ Int.log 2 y := by
  have hlog := Int.zpow_log_le_self (b := 2) (by norm_num) hx.pos
  rw [← Int.zpow_le_iff_le_log (by norm_num) hy.pos]
  rcases le_total 0 (Int.log 2 x + j) with h | h
  · obtain ⟨d, hd⟩ := Int.eq_ofNat_of_zero_le h
    have := hx.le_iff hy 1 d
    rw [show (d : Int) - j = Int.log 2 x by omega, Int.cast_one, one_mul] at this
    exact_mod_cast (this (by exact_mod_cast hlog)).le
  · have h1 : ((2 : Nat) : ℚ) ^ Int.log 2 x ≤ 2 ^ (-j) := by
      rw [Nat.cast_ofNat]
      exact zpow_le_zpow_right₀ (by norm_num) (by omega)
    refine h1.trans (le_of_lt (lt_of_le_of_lt ?_ hy.above))
    have hr : (1 : ℚ) ≤ r := by exact_mod_cast (Nat.one_le_two_pow).trans hx.fine
    have hpos : (0 : ℚ) < 2 ^ (-j) := by positivity
    nlinarith

theorem SameCell.log_eq {r : Nat} {j : Int} (hx : SameCell f r j x) (hy : SameCell f r j y) : Int.log 2 x = Int.log 2 y :=
  le_antisymm (hx.log_le hy) (hy.log_le hx)

theorem SameCell.expOf_eq {r : Nat} {j : Int} (hx : SameCell f r j x) (hy : SameCell f r j y) : expOf f x = expOf f y := by
  rw [expOf, expOf, hx.log_eq hy]

/-- The exponent leaves a half of the last place on the grid. -/
theorem SameCell.le_expOf {r : Nat} {j : Int} (hx : SameCell f r j x) : (fmtP f).mb + 2 ≤ expOf f x + j := by
  have h : (2 : ℚ) ^ ((fmtP f).mb + 2 - j) ≤ x := by
    refine le_of_lt (lt_of_le_of_lt ?_ hx.above)
    have hr : (2 : ℚ) ^ ((fmtP f).mb + 2) ≤ r := by exact_mod_cast hx.fine
    rw [sub_eq_add_neg, zpow_add₀ (by norm_num)]
    gcongr
    exact_mod_cast hr
  have := (Int.zpow_le_iff_le_log (b := 2) (by norm_num) hx.pos).mp (by exact_mod_cast h)
  have : Int.log 2 x ≤ expOf f x := le_max_left _ _
  omega

theorem SameCell.half_lt {r : Nat} {j : Int} (hx : SameCell f r j x) (hy : SameCell f r j y) {i : Int} (h : (i : ℚ) / 2 ≤ quoOf f x) :
    (i : ℚ) / 2 < quoOf f y := by
  obtain ⟨d, hd⟩ : ∃ d : Nat, expOf f x - (fmtP f).mb - 1 + j = d :=
    ⟨(expOf f x - (fmtP f).mb - 1 + j).toNat, by have := hx.le_expOf; omega⟩
  have hpos : (0 : ℚ) < 2 ^ (((fmtP f).mb : Int) - expOf f x) := by positivity
  have hhalf : (i : ℚ) / 2 = i * 2 ^ (d - j) * 2 ^ (((fmtP f).mb : Int) - expOf f x) := by
    rw [mul_assoc, ← zpow_add₀ (by norm_num), show (d : Int) - j + ((fmtP f).mb - expOf f x) = -1 by omega]
    norm_num
    ring
  rw [quoOf_eq, hhalf, mul_le_mul_iff_left₀ hpos] at h
  rw [quoOf_eq, ← hx.expOf_eq hy, hhalf, mul_lt_mul_iff_left₀ hpos]
  exact hx.le_iff hy i d h

theorem SameCell.half_iff {r : Nat} {j : Int} (hx : SameCell f r j x) (hy : SameCell f r j y) (i : Int) :
    (i : ℚ) / 2 ≤ quoOf f x ↔ (i : ℚ) / 2 ≤ quoOf f y := ⟨fun h => (hx.half_lt hy h).le, fun h => (hy.half_lt hx h).le⟩

theorem SameCell.ne_half {r : Nat} {j : Int} (hx : SameCell f r j x) (i : Int) : quoOf f x ≠ (i : ℚ) / 2 :=
  fun h => (hx.half_lt hx h.ge).ne h.symm

theorem SameCell.floor_eq {r : Nat} {j : Int} (hx : SameCell f r j x) (hy : SameCell f r j y) : ⌊quoOf f x⌋ = ⌊quoOf f y⌋ := by
  have h : ∀ i : Int, i ≤ ⌊quoOf f x⌋ ↔ i ≤ ⌊quoOf f y⌋ := by
    intro i
    have := hx.half_iff hy (2 * i)
    rw [Int.cast_mul, Int.cast_ofNat, mul_div_cancel_left₀ _ (by norm_num)] at this
    rw [Int.le_floor, Int.le_floor, this]
  exact le_antisymm ((h _).mp le_rfl) ((h _).mpr le_rfl)

theorem SameCell.roundRat_eq {r : Nat} {j : Int} (hx : SameCell f r j x) (hy : SameCell f r j y) (m : Nat) (neg : Bool) :
    roundRat m neg (quoOf f x) = roundRat m neg (quoOf f y) := by
  have hfl := hx.floor_eq hy
  have hne : ∀ w, SameCell f r j w → Int.fract (quoOf f w) ≠ 0 ∧ Int.fract (quoOf f w) ≠ 1 / 2 := by
    intro w hw
    constructor
    · intro h0
      have := hw.ne_half (2 * ⌊quoOf f w⌋)
      rw [Int.cast_mul, Int.cast_ofNat, mul_div_cancel_left₀ _ (by norm_num)] at this
      exact this (by rw [← sub_eq_zero, Int.self_sub_floor, h0])
    · intro h0
      refine hw.ne_half (2 * ⌊quoOf f w⌋ + 1) ?_
      rw [← Int.self_sub_floor] at h0
      push_cast
      linarith
  have hge : 1 / 2 ≤ Int.fract (quoOf f x) ↔ 1 / 2 ≤ Int.fract (quoOf f y) := by
    have := hx.half_iff hy (2 * ⌊quoOf f x⌋ + 1)
    rw [← Int.self_sub_floor, ← Int.self_sub_floor, ← hfl]
    push_cast at this
    constructor <;> intro h
    · have := this.mp (by linarith)
      linarith
    · have := this.mpr (by linarith)
      linarith
  obtain ⟨hx0, hx1⟩ := hne x hx
  obtain ⟨hy0, hy1⟩ := hne y hy
  have hgt : 1 / 2 < Int.fract (quoOf f x) ↔ 1 / 2 < Int.fract (quoOf f y) := by
    rw [lt_iff_le_and_ne, lt_iff_le_and_ne, hge]
    simp only [ne_eq, hx1.symm, hy1.symm]
  rw [Sys2Proof.Machine.roundRat_eq, Sys2Proof.Machine.roundRat_eq, hfl]
  congr 2
  unfold roundsUp
  simp only [ne_eq, hx0, hx1, hy0, hy1, hge, hgt]

/-- No number of the format lies inside a cell. -/
theorem SameCell.inexact {r : Nat} {j : Int} (hx : SameCell f r j x) (m : Nat) (neg : Bool) : magOf f m neg x ≠ x := by
  rw [ne_eq, ← roundRat_eq_quoOf_iff]
  intro h
  refine hx.ne_half (2 * roundRat m neg (quoOf f x)) ?_
  push_cast
  rw [mul_div_cancel_left₀ _ (by norm_num), h]

theorem SameCell.frmOfRat_eq {r : Nat} {j : Int} (hx : SameCell f r j x) (hy : SameCell f r j y) : frmOfRat f m sat neg x = frmOfRat f m sat neg y := by
  classical
  have hexp := hx.expOf_eq hy
  have hround := hx.roundRat_eq hy m neg
  have hbig : tooBig f m neg x ↔ tooBig f m neg y := by
    unfold tooBig
    rw [hexp, hround]
  have htiny : x < 2 ^ (params f).emin ↔ y < 2 ^ (params f).emin := by
    rw [lt_zpow_emin_iff hx.pos, lt_zpow_emin_iff hy.pos, hx.log_eq hy]
  have hne : (roundRat m neg (quoOf f x) : ℚ) ≠ quoOf f x ↔ (roundRat m neg (quoOf f y) : ℚ) ≠ quoOf f y :=
    iff_of_true ((roundRat_eq_quoOf_iff m neg).not.mpr (hx.inexact m neg)) ((roundRat_eq_quoOf_iff m neg).not.mpr (hy.inexact m neg))
  unfold frmOfRat
  refine Prod.ext ?_ (flagsOf_congr (and_congr_left' hbig) Iff.rfl hbig (and_congr htiny hne) (or_congr hne hbig))
  simp only [hbig, hexp, hround]

end

end Sys2Proof.Machine
end

section
/-!
When a pattern is a real number rounded once (05:R146).
-/

namespace Sys2Proof.Machine

variable {m : Nat} {neg : Bool}

theorem round32_eq {q : ℚ} (hq : 0 < q) : round32 m neg q = frmOfRat 0 m false neg q := by
  rw [round32, roundFrm_eq 0 m false neg (by simpa using hq.ne') q.den_pos, natAbs_div_den, abs_of_pos hq]

/-- A rational is rounded as itself. -/
theorem Rounds32.of_rat {eps q : ℚ} {x : ℝ} (h : (q : ℝ) = x) : Rounds32 m neg eps x (round32 m neg q) := by
  constructor
  · intro q' hq'
    rw [show q' = q by exact_mod_cast hq'.trans h.symm]
  · exact fun hirr => absurd ⟨q, h⟩ hirr

/-- An irrational is rounded as a rational close to it, unless that is a number of the format. -/
theorem Rounds32.of_near {eps y : ℚ} {x : ℝ} (hirr : Irrational x) (hlow : (1 - eps) * x ≤ y) (hhigh : (y : ℝ) ≤ (1 + eps) * x)
    (hy : magOf 0 m neg y ≠ y) : Rounds32 m neg eps x (round32 m neg y) := by
  constructor
  · exact fun q hq => absurd ⟨q, hq⟩ hirr
  · intro _ lo hi hlo hlox hxhi hsame
    have hloy : lo < y := by exact_mod_cast hlox.trans_le hlow
    have hyhi : y < hi := by exact_mod_cast hhigh.trans_lt hxhi
    have hy0 := hlo.trans hloy
    rw [round32_eq hlo, round32_eq (hy0.trans hyhi)] at hsame
    rw [round32_eq hlo, round32_eq hy0]
    exact frmOfRat_between (by norm_num) hlo hloy hyhi hsame hy

/-- A real inside a cell of a fine grid is rounded as any rational there, however close the rationals that it is compared with. -/
theorem Rounds32.of_cell {y : ℚ} {x : ℝ} {r : Nat} {j : Int} (hy : SameCell 0 r j y) (hlow : (((r : ℚ) * 2 ^ (-j) : ℚ) : ℝ) < x)
    (hhigh : x < ((((r : ℚ) + 1) * 2 ^ (-j) : ℚ) : ℝ)) : Rounds32 m neg 0 x (round32 m neg y) := by
  have hcell : ∀ z : ℚ, (((r : ℚ) * 2 ^ (-j) : ℚ) : ℝ) < z → (z : ℝ) < ((((r : ℚ) + 1) * 2 ^ (-j) : ℚ) : ℝ) → SameCell 0 r j z :=
    fun z h1 h2 => ⟨hy.fine, by exact_mod_cast h1, by exact_mod_cast h2⟩
  have hround : ∀ z : ℚ, SameCell 0 r j z → round32 m neg y = round32 m neg z := by
    intro z hz
    rw [round32_eq hy.pos, round32_eq hz.pos]
    exact hy.frmOfRat_eq hz
  constructor
  · intro q hq
    exact hround q (hcell q (hq ▸ hlow) (hq ▸ hhigh))
  · intro _ lo hi hlo hlox hxhi hsame
    rw [Rat.cast_zero, sub_zero, one_mul] at hlox
    rw [Rat.cast_zero, add_zero, one_mul] at hxhi
    obtain ⟨z, hz1, hz2⟩ := exists_rat_btwn (max_lt hlow hlox |>.trans (lt_min hhigh hxhi))
    obtain ⟨hz3, hz4⟩ := max_lt_iff.mp hz1
    obtain ⟨hz5, hz6⟩ := lt_min_iff.mp hz2
    have hz := hcell z hz3 hz5
    have hloz : lo < z := by exact_mod_cast hz4
    have hzhi : z < hi := by exact_mod_cast hz6
    rw [hround z hz, round32_eq hz.pos, round32_eq hlo]
    rw [round32_eq hlo, round32_eq (hz.pos.trans hzhi)] at hsame
    exact frmOfRat_between (by norm_num) hlo hloz hzhi hsame (hz.inexact m neg)

/-! ## The value between two neighbours of a grid -/

/-- The middle of the cell above `v`. -/
def midOf (v : Nat) (j : Int) : ℚ := (2 * v + 1 : Nat) * 2 ^ (-j - 1)

theorem midOf_eq (v : Nat) (j : Int) : midOf v j = (v + 1 / 2) * 2 ^ (-j) := by
  rw [midOf, zpow_sub₀ (by norm_num)]
  push_cast
  ring

theorem sameCell_midOf {f v : Nat} (j : Int) (h : 2 ^ ((fmtP f).mb + 2) ≤ v) : SameCell f v j (midOf v j) where
  fine := h
  above := by
    rw [midOf_eq]
    gcongr
    linarith
  below := by
    rw [midOf_eq]
    gcongr
    norm_num

theorem roundSticky_eq (m : Nat) (neg : Bool) (v : Nat) (j : Int) : roundSticky m neg v j = round32 m neg (midOf v j) := by
  rw [roundSticky]
  refine roundScaled_zero m neg _ _ ?_
  rw [abs_of_pos (by unfold midOf; positivity)]
  rfl

end Sys2Proof.Machine
end

section
/-!
Square roots and their reciprocals (05:R146): the integer root leaves the exact value in a cell, or is it.
-/

namespace Sys2Proof.Machine

/-! ## The integer root -/

theorem isqrtGo_spec (v n r : Nat) (hle : r * r ≤ v) (hlt : v < (r + 2 ^ n) * (r + 2 ^ n)) :
    isqrtGo v n r * isqrtGo v n r ≤ v ∧ v < (isqrtGo v n r + 1) * (isqrtGo v n r + 1) := by
  induction n generalizing r with
  | zero => exact ⟨hle, hlt⟩
  | succ n ih =>
    rw [isqrtGo]
    split
    · next h => exact ih _ h (by rwa [add_assoc, ← two_mul, ← pow_succ'])
    · next h => exact ih _ hle (not_le.mp h)

theorem isqrt_eq {v : Nat} (h : v < 2 ^ 512 * 2 ^ 512) : isqrt v = Nat.sqrt v := by
  obtain ⟨h1, h2⟩ := isqrtGo_spec v 512 0 (Nat.zero_le _) (by rwa [zero_add])
  exact Nat.eq_sqrt.mpr ⟨h1, h2⟩

theorem zpow_two_mul_self (j : Int) : (2 : ℝ) ^ j * 2 ^ j = 2 ^ (2 * j) := by
  rw [← zpow_add₀ (by norm_num), two_mul]

/-- The root of a value that is scaled by an even power. -/
theorem sqrt_scaled (v : ℝ) (j : Int) : Real.sqrt (v * 2 ^ (2 * j)) = Real.sqrt v * 2 ^ j := by
  rw [← zpow_two_mul_self, Real.sqrt_mul' _ (by positivity), Real.sqrt_mul_self (by positivity)]

/-! ## Square roots -/

section
variable (m : Nat) {k : Nat}

/-- The exponent made even. -/
def evenExp (k : Nat) (e : Int) : Nat × Int := if e.emod 2 = 1 then (2 * k, e - 1) else (k, e)

theorem evenExp_spec (k : Nat) (e : Int) : ∃ k' h, evenExp k e = (k', 2 * h) ∧ (k' : ℝ) * 2 ^ (2 * h) = k * 2 ^ e ∧ k ≤ k' ∧ k' ≤ 2 * k := by
  unfold evenExp
  split
  · next h =>
    have hmod : e % 2 = 1 := h
    obtain ⟨j, rfl⟩ : ∃ j, e = 2 * j + 1 := ⟨e / 2, by omega⟩
    refine ⟨2 * k, j, by simp, ?_, by omega, le_rfl⟩
    rw [zpow_add₀ (by norm_num)]
    push_cast
    ring
  · next h =>
    have hmod : ¬ e % 2 = 1 := h
    obtain ⟨j, rfl⟩ : ∃ j, e = 2 * j := ⟨e / 2, by omega⟩
    exact ⟨k, j, rfl, rfl, le_rfl, by omega⟩

/-- The root of an integer at an even exponent, rounded through its integer root. -/
theorem sqrt_rounds {v : Nat} {j : Int} {x : ℝ} (hx : x = v * 2 ^ (2 * j)) (hfine : 2 ^ 50 ≤ v) :
    Rounds32 m false 0 (Real.sqrt x) (if Nat.sqrt v * Nat.sqrt v = v then roundScaled 0 m false false (Nat.sqrt v) j
      else roundSticky m false (Nat.sqrt v) (-j)) := by
  have hpos : (0 : ℝ) < 2 ^ j := by positivity
  rw [hx, sqrt_scaled]
  split
  · next hsq =>
    rw [roundScaled_zero m false (x := Nat.sqrt v * 2 ^ j) _ _ (by rw [abs_of_nonneg (by positivity)])]
    refine Rounds32.of_rat ?_
    have : Real.sqrt (v : ℝ) = Nat.sqrt v := by
      conv_lhs => rw [← hsq]
      rw [Nat.cast_mul, Real.sqrt_mul_self (by positivity)]
    rw [this]
    push_cast
    rfl
  · next hsq =>
    rw [roundSticky_eq]
    have hlow : (Nat.sqrt v : ℝ) < Real.sqrt v := by
      refine lt_of_le_of_ne Real.nat_sqrt_le_real_sqrt fun heq => hsq ?_
      have : ((Nat.sqrt v : ℝ)) * Nat.sqrt v = v := by rw [heq, Real.mul_self_sqrt (by positivity)]
      exact_mod_cast this
    have hhigh : Real.sqrt v < Nat.sqrt v + 1 := Real.real_sqrt_lt_nat_sqrt_succ
    refine Rounds32.of_cell (sameCell_midOf _ (Nat.le_sqrt.mpr hfine : 2 ^ 25 ≤ Nat.sqrt v)) ?_ ?_
    · push_cast
      rw [neg_neg]
      exact mul_lt_mul_of_pos_right hlow hpos
    · push_cast
      rw [neg_neg]
      exact mul_lt_mul_of_pos_right hhigh hpos

theorem scaled_lt {a n N : Nat} (hk : k < 2 ^ a) (ha : a ≤ N) (hn : n < N) : k * 2 ^ n < 2 ^ N * 2 ^ N :=
  Nat.mul_lt_mul'' (hk.trans_le (Nat.pow_le_pow_right two_pos ha)) (Nat.pow_lt_pow_right one_lt_two hn)

theorem div_pow_lt {n N : Nat} (hn : n < N + N) : 2 ^ n / k < 2 ^ N * 2 ^ N := by
  rw [← pow_add]
  exact (Nat.div_le_self _ _).trans_lt (Nat.pow_lt_pow_right one_lt_two hn)

theorem pow_le_scaled {c n : Nat} (hk : 0 < k) (hn : c ≤ n) : 2 ^ c ≤ k * 2 ^ n :=
  (Nat.pow_le_pow_right two_pos hn).trans (Nat.le_mul_of_pos_left _ hk)

theorem sqrtPos_rounds {e : Int} (hk : 0 < k) (hb : k < 2 ^ 24) : Rounds32 m false 0 (Real.sqrt (k * 2 ^ e)) (sqrtPos m k e) := by
  obtain ⟨k', h, heven, hval, hle, hle'⟩ := evenExp_spec k e
  have hfine : 2 ^ 50 ≤ k' * 2 ^ 256 := pow_le_scaled (by omega) (by decide)
  have hsize : k' * 2 ^ 256 < 2 ^ 512 * 2 ^ 512 := scaled_lt (a := 25) (by omega) (by decide) (by decide)
  have hdef : sqrtPos m k e =
      if isqrt (k' * 2 ^ 256) * isqrt (k' * 2 ^ 256) = k' * 2 ^ 256 then
        roundScaled 0 m false false (isqrt (k' * 2 ^ 256)) ((2 * h) / 2 - 128)
      else roundSticky m false (isqrt (k' * 2 ^ 256)) (128 - (2 * h) / 2) := by
    unfold sqrtPos
    rw [show (if e.emod 2 = 1 then (2 * k, e - 1) else (k, e)) = (k', 2 * h) from heven]
  rw [hdef, Int.mul_ediv_cancel_left _ (by norm_num), isqrt_eq hsize, ← neg_sub h 128]
  have hx : (k : ℝ) * 2 ^ e = ((k' * 2 ^ 256 : Nat) : ℝ) * 2 ^ (2 * (h - 128)) := by
    rw [← hval, Nat.cast_mul, Nat.cast_pow, Nat.cast_ofNat, mul_assoc, ← zpow_natCast (2 : ℝ) 256, ← zpow_add₀ (by norm_num)]
    rw [show ((256 : Nat) : Int) + 2 * (h - 128) = 2 * h by push_cast; ring]
  generalize k' * 2 ^ 256 = v at hx hfine ⊢
  exact sqrt_rounds m hx hfine

/-! ## Reciprocals of square roots -/

/-- Stripping factors of two keeps the value and leaves an odd number. -/
theorem oddPart_spec (fuel : Nat) {k : Nat} (e : Int) (hk : 0 < k) (hb : k < 2 ^ fuel) :
    ∃ o j, oddPart fuel k e = (o, j) ∧ (o : ℝ) * 2 ^ j = k * 2 ^ e ∧ o % 2 = 1 ∧ o ≤ k := by
  induction fuel generalizing k e with
  | zero => omega
  | succ n ih =>
    rw [oddPart]
    split
    · next h =>
      obtain ⟨o, j, ho, hval, hodd, hle⟩ := ih (k := k / 2) (e + 1) (by omega) (by rw [pow_succ] at hb; omega)
      refine ⟨o, j, ho, ?_, hodd, by omega⟩
      obtain ⟨i, rfl⟩ : ∃ i, k = 2 * i := ⟨k / 2, by omega⟩
      rw [hval, Nat.mul_div_cancel_left _ (by norm_num), zpow_add₀ (by norm_num)]
      push_cast
      ring
    · next h => exact ⟨k, e, rfl, rfl, by omega, le_rfl⟩

/-- The integer root of a power of two over k lies below the real one, unless that is whole. -/
theorem sqrt_div_bounds {k : Nat} (hk : 0 < k) (n : Nat) (hne : Nat.sqrt (2 ^ (2 * n) / k) * Nat.sqrt (2 ^ (2 * n) / k) * k ≠ 2 ^ (2 * n)) :
    (Nat.sqrt (2 ^ (2 * n) / k) : ℝ) < 2 ^ n * (1 / Real.sqrt k) ∧
    2 ^ n * (1 / Real.sqrt k) < (Nat.sqrt (2 ^ (2 * n) / k) : ℝ) + 1 := by
  have hk' : (0 : ℝ) < k := by exact_mod_cast hk
  have hsq : ((2 : ℝ) ^ n * (1 / Real.sqrt k)) * (2 ^ n * (1 / Real.sqrt k)) = ((2 ^ (2 * n) : Nat) : ℝ) / k := by
    rw [two_mul, pow_add]
    push_cast
    have := Real.mul_self_sqrt hk'.le
    field_simp
    rw [Real.sq_sqrt hk'.le]
  have hpos : (0 : ℝ) ≤ 2 ^ n * (1 / Real.sqrt k) := by positivity
  generalize (2 : ℝ) ^ n * (1 / Real.sqrt k) = x at hsq hpos
  have hr1 := Nat.sqrt_le (2 ^ (2 * n) / k)
  have hr2 := Nat.lt_succ_sqrt (2 ^ (2 * n) / k)
  generalize Nat.sqrt (2 ^ (2 * n) / k) = r at *
  constructor
  · have h1 : r * r * k ≤ 2 ^ (2 * n) := (Nat.le_div_iff_mul_le hk).mp hr1
    have h2 : r * r * k < 2 ^ (2 * n) := lt_of_le_of_ne h1 hne
    have h3 : (r : ℝ) * r < x * x := by
      rw [hsq, lt_div_iff₀ hk']
      exact_mod_cast h2
    exact lt_of_mul_self_lt_mul_self₀ hpos h3
  · have h2 : 2 ^ (2 * n) < (r + 1) * (r + 1) * k := (Nat.div_lt_iff_lt_mul hk).mp hr2
    have h3 : x * x < ((r : ℝ) + 1) * (r + 1) := by
      rw [hsq, div_lt_iff₀ hk']
      exact_mod_cast h2
    exact lt_of_mul_self_lt_mul_self₀ (by positivity) h3

/-- What a square times it is an even power of two is one, or divisible by four. -/
theorem eq_one_of_sq_mul {r k n : Nat} (h : r * r * k = 2 ^ (2 * n)) (h4 : k % 4 ≠ 0) : k = 1 := by
  obtain ⟨i, -, rfl⟩ := (Nat.dvd_prime_pow Nat.prime_two).mp (⟨r * k, by rw [← h]; ring⟩ : r ∣ 2 ^ (2 * n))
  obtain ⟨j, -, rfl⟩ := (Nat.dvd_prime_pow Nat.prime_two).mp (⟨2 ^ i * 2 ^ i, by rw [← h]; ring⟩ : k ∣ 2 ^ (2 * n))
  rw [← pow_add, ← pow_add] at h
  have hexp := Nat.pow_right_injective le_rfl h
  rcases Nat.lt_or_ge j 2 with hj | hj
  · obtain rfl : j = 0 := by omega
    rfl
  · obtain ⟨l, rfl⟩ := Nat.exists_eq_add_of_le' hj
    rw [pow_add] at h4
    omega

/-- The reciprocal of a root that is not whole, rounded through the integer root of a power of two over the operand. -/
theorem rsqrt_rounds (hk : 0 < k) (hb : k < 2 ^ 25) (hne : Nat.sqrt (2 ^ (2 * 200) / k) * Nat.sqrt (2 ^ (2 * 200) / k) * k ≠ 2 ^ (2 * 200)) (h : Int) :
    Rounds32 m false 0 (1 / Real.sqrt k * 2 ^ (-h)) (roundSticky m false (isqrt (2 ^ 400 / k)) (200 + h)) := by
  have hsize : 2 ^ (2 * 200) / k < 2 ^ 512 * 2 ^ 512 := div_pow_lt (by decide)
  have hfine : 2 ^ 50 ≤ 2 ^ (2 * 200) / k := by
    refine (Nat.le_div_iff_mul_le hk).mpr ?_
    calc 2 ^ 50 * k ≤ 2 ^ 50 * 2 ^ 25 := Nat.mul_le_mul_left _ hb.le
      _ = 2 ^ (50 + 25) := (pow_add 2 50 25).symm
      _ ≤ 2 ^ (2 * 200) := Nat.pow_le_pow_right two_pos (by decide)
  obtain ⟨hlow, hhigh⟩ := sqrt_div_bounds hk 200 hne
  rw [show (400 : Nat) = 2 * 200 from rfl, isqrt_eq hsize, roundSticky_eq]
  have hpos : (0 : ℝ) < 2 ^ (-h - 200) := by positivity
  have hx : 1 / Real.sqrt k * 2 ^ (-h) = (2 ^ 200 * (1 / Real.sqrt k)) * (2 : ℝ) ^ (-h - 200) := by
    rw [zpow_sub₀ (by norm_num)]
    field_simp
  rw [hx]
  generalize (2 : ℝ) ^ 200 * (1 / Real.sqrt k) = y at hlow hhigh
  generalize 2 ^ (2 * 200) / k = v at hlow hhigh hfine
  refine Rounds32.of_cell (sameCell_midOf _ (Nat.le_sqrt.mpr hfine : 2 ^ 25 ≤ Nat.sqrt v)) ?_ ?_
  · push_cast
    rw [show -(200 + h) = -h - 200 by ring]
    exact mul_lt_mul_of_pos_right hlow hpos
  · push_cast
    rw [show -(200 + h) = -h - 200 by ring]
    exact mul_lt_mul_of_pos_right hhigh hpos

theorem rsqrtPos_rounds {e : Int} (hk : 0 < k) (hb : k < 2 ^ 24) : Rounds32 m false 0 (1 / Real.sqrt (k * 2 ^ e)) (rsqrtPos m k e) := by
  obtain ⟨o, j, hstrip, hval, hodd, hle⟩ := oddPart_spec 32 e hk (hb.trans (by norm_num))
  obtain ⟨k', h, heven, hval', hle1, hle2⟩ := evenExp_spec o j
  have hdef : rsqrtPos m k e = if (o = 1 && j.emod 2 = 0) = true then roundScaled 0 m false false 1 (-(j / 2))
      else roundSticky m false (isqrt (2 ^ 400 / k')) (200 + 2 * h / 2) := by
    unfold rsqrtPos
    rw [hstrip]
    dsimp only
    rw [show (if j.emod 2 = 1 then (2 * o, j - 1) else (o, j)) = (k', 2 * h) from heven]
  have hsplit : k' = o ∧ j = 2 * h ∨ k' = 2 * o ∧ j % 2 = 1 := by
    unfold evenExp at heven
    split at heven
    · next hj => exact .inr ⟨(Prod.ext_iff.mp heven).1.symm, hj⟩
    · next hj => exact .inl ⟨(Prod.ext_iff.mp heven).1.symm, (Prod.ext_iff.mp heven).2⟩
  have hx : 1 / Real.sqrt (k * 2 ^ e) = 1 / Real.sqrt k' * 2 ^ (-h) := by
    rw [← hval, ← hval', sqrt_scaled, zpow_neg]
    field_simp
  rw [hdef, hx, Int.mul_ediv_cancel_left _ (by norm_num)]
  split
  · next hone =>
    obtain ⟨rfl, hj⟩ : o = 1 ∧ j.emod 2 = 0 := by simpa using hone
    have hj' : j % 2 = 0 := hj
    obtain ⟨rfl, rfl⟩ := hsplit.resolve_right (by omega)
    rw [Int.mul_ediv_cancel_left _ (by norm_num),
      roundScaled_zero m false (x := 2 ^ (-h)) _ _ (by rw [abs_of_nonneg (by positivity)]; simp)]
    exact Rounds32.of_rat (by simp)
  · next hone =>
    have hone' : ¬ (o = 1 ∧ j % 2 = 0) := fun hh => hone (by rw [Bool.and_eq_true, decide_eq_true_eq, decide_eq_true_eq]; exact hh)
    have hk' : k' % 4 ≠ 0 ∧ k' ≠ 1 ∧ 0 < k' ∧ k' < 2 ^ 25 := by omega
    exact rsqrt_rounds m hk'.2.2.1 hk'.2.2.2 (fun hsq => hk'.2.1 (eq_one_of_sq_mul hsq hk'.1)) h

end

end Sys2Proof.Machine
end

section
/-!
`fexp2` (05:R146): the series stays within a few units of 2^-320 of the exact value, and ln 2 is read off the series itself.
-/

namespace Sys2Proof.Machine

variable {m : Nat} {neg : Bool}

/-- An irrational within `c` units of `v` on the grid of step 2^-j is rounded as the middle of the cell there when `v` is large enough. -/
theorem Rounds32.of_sticky {v c : Nat} {j : Int} {x : ℝ} (hirr : Irrational x) (hlow : (v : ℝ) - c ≤ x * 2 ^ j) (hhigh : x * 2 ^ j ≤ v + c)
    (hfine : (c + 1) * 2 ^ 150 + c ≤ v) : Rounds32 m neg (1 / 2 ^ 150) x (roundSticky m neg v j) := by
  have hfine' : ((c : ℝ) + 1) * 2 ^ 150 + c ≤ v := by exact_mod_cast hfine
  have hpos : (0 : ℝ) < 2 ^ (-j) := by positivity
  have hx : x = x * 2 ^ j * 2 ^ (-j) := by
    rw [mul_assoc, ← zpow_add₀ (by norm_num), add_neg_cancel, zpow_zero, mul_one]
  have hmid : ((midOf v j : ℚ) : ℝ) = (v + 1 / 2) * 2 ^ (-j) := by
    rw [midOf_eq]
    push_cast
    rfl
  generalize x * 2 ^ j = z at hlow hhigh hx
  have hc : (0 : ℝ) ≤ c := Nat.cast_nonneg c
  have heps : (c : ℝ) + 1 ≤ 1 / 2 ^ 150 * z := by
    rw [div_mul_eq_mul_div, one_mul, le_div_iff₀ (by positivity)]
    linarith
  rw [roundSticky_eq]
  refine Rounds32.of_near hirr ?_ ?_ ((sameCell_midOf j ?_).inexact m neg)
  · rw [hmid, hx, ← mul_assoc]
    push_cast
    exact mul_le_mul_of_nonneg_right (by linarith) hpos.le
  · rw [hmid, hx, ← mul_assoc]
    push_cast
    exact mul_le_mul_of_nonneg_right (by linarith) hpos.le
  · have : (c + 1) * 2 ^ 150 ≥ 1 * 2 ^ 150 := Nat.mul_le_mul_right _ (by omega)
    have h25 : 2 ^ ((fmtP 0).mb + 2) ≤ 1 * 2 ^ 150 := by decide
    omega

/-! ## The series -/

/-- The fixed-point term falls behind the exact one by fewer than four units, as long as the ratio stays below 3/4. -/
theorem expTerm_step {S t term d : Nat} {τ : ℝ} (hS : 0 < S) (ht : 4 * t ≤ 3 * S) (hd : 0 < d) (h0 : (term : ℝ) ≤ τ) (h4 : τ ≤ term + 4) :
    ((term * t / S / d : Nat) : ℝ) ≤ τ * (t / S) / d ∧ τ * (t / S) / d ≤ ((term * t / S / d : Nat) : ℝ) + 4 := by
  have hS' : (0 : ℝ) < S := by exact_mod_cast hS
  have hd' : (1 : ℝ) ≤ d := by exact_mod_cast hd
  have hx0 : (0 : ℝ) ≤ t / S := by positivity
  have hx : (t : ℝ) / S ≤ 3 / 4 := by
    rw [div_le_div_iff₀ hS' (by norm_num)]
    have : ((4 * t : Nat) : ℝ) ≤ (3 * S : Nat) := by exact_mod_cast ht
    push_cast at this
    linarith
  have hquo : (term : ℝ) * (t / S) / d = (term * t : Nat) / (S * d : Nat) := by
    push_cast
    field_simp
  have hnat : term * t / S / d = ⌊(term : ℝ) * (t / S) / d⌋₊ := by
    rw [hquo, Nat.floor_div_eq_div, Nat.div_div_eq_div_mul]
  rw [hnat]
  constructor
  · refine (Nat.floor_le (by positivity)).trans ?_
    gcongr
  · have hlt := Nat.lt_floor_add_one ((term : ℝ) * (t / S) / d)
    have hgrow : τ * (t / S) / d ≤ (term + 4) * (t / S) / d := by gcongr
    have hsplit : ((term : ℝ) + 4) * (t / S) / d = term * (t / S) / d + 4 * (t / S) / d := by ring
    have hsmall : 4 * ((t : ℝ) / S) / d ≤ 3 := by
      rw [div_le_iff₀ (by linarith)]
      nlinarith
    linarith

theorem expSeries_near {t : Nat} (ht : 4 * t ≤ 3 * 2 ^ fxP) (fuel : Nat) :
    ∀ n term : Nat, (term : ℝ) ≤ 2 ^ fxP * (((t : ℝ) / 2 ^ fxP) ^ n / n.factorial) → 2 ^ fxP * (((t : ℝ) / 2 ^ fxP) ^ n / n.factorial) ≤ term + 4 →
    (expSeries t fuel n term : ℝ) ≤ 2 ^ fxP * ∑ i ∈ Finset.range fuel, ((t : ℝ) / 2 ^ fxP) ^ (n + i) / (n + i).factorial ∧
    2 ^ fxP * ∑ i ∈ Finset.range fuel, ((t : ℝ) / 2 ^ fxP) ^ (n + i) / (n + i).factorial ≤ expSeries t fuel n term + 4 * fuel := by
  induction fuel with
  | zero => intro n term _ _; simp [expSeries]
  | succ fuel ih =>
    intro n term h0 h4
    have hnext : ∀ x : ℝ, 2 ^ fxP * (x ^ n / n.factorial) * x / ((n + 1 : Nat) : ℝ) = 2 ^ fxP * (x ^ (n + 1) / (n + 1).factorial) := by
      intro x
      rw [Nat.factorial_succ]
      push_cast
      field_simp
      ring
    have hstep := expTerm_step (by positivity) ht (Nat.succ_pos n) h0 h4
    rw [Nat.cast_pow, Nat.cast_ofNat, Nat.succ_eq_add_one, hnext] at hstep
    obtain ⟨hlow, hhigh⟩ := ih (n + 1) _ hstep.1 hstep.2
    have hsum : ∀ x : ℝ, ∑ i ∈ Finset.range (fuel + 1), x ^ (n + i) / (n + i).factorial =
        (∑ i ∈ Finset.range fuel, x ^ (n + 1 + i) / (n + 1 + i).factorial) + x ^ n / n.factorial := by
      intro x
      rw [Finset.sum_range_succ', add_zero]
      simp only [add_assoc, add_comm 1]
    rw [expSeries, hsum, mul_add]
    rw [Nat.cast_add, Nat.cast_succ]
    constructor <;> linarith

/-- What is left out after 90 terms is less than a unit. -/
theorem exp_near_sum {x : ℝ} (h0 : 0 ≤ x) (h1 : x ≤ 1) :
    |2 ^ fxP * Real.exp x - 2 ^ fxP * ∑ i ∈ Finset.range 90, x ^ i / i.factorial| ≤ 1 := by
  have hbound := Real.exp_bound (abs_le.mpr ⟨by linarith, h1⟩) (n := 90) (by norm_num)
  have hpow : |x| ^ 90 ≤ 1 := pow_le_one₀ (abs_nonneg x) (abs_le.mpr ⟨by linarith, h1⟩)
  have hfact : 2 ^ fxP * 91 ≤ Nat.factorial 90 * 90 := by decide +kernel
  have hfact' : (2 : ℝ) ^ fxP * 91 ≤ (Nat.factorial 90 : Nat) * 90 := by exact_mod_cast hfact
  generalize Nat.factorial 90 = F at hbound hfact'
  have hF : (0 : ℝ) < F * (90 : Nat) := by
    have : (0 : ℝ) < 2 ^ fxP := by positivity
    push_cast
    linarith
  rw [← mul_sub, abs_mul, abs_of_pos (by positivity : (0 : ℝ) < 2 ^ fxP)]
  calc (2 : ℝ) ^ fxP * _ ≤ 2 ^ fxP * (1 * (((90 : Nat).succ : ℝ) / (F * (90 : Nat)))) := by gcongr; exact hbound.trans (by gcongr)
    _ ≤ 1 := by
      rw [one_mul, mul_div_assoc', div_le_one hF]
      push_cast
      linarith

theorem expSeries_near_exp {t : Nat} (ht : 4 * t ≤ 3 * 2 ^ fxP) :
    |2 ^ fxP * Real.exp (t / 2 ^ fxP) - expSeries t 90 0 (2 ^ fxP)| ≤ 361 := by
  have hpos : (0 : ℝ) < 2 ^ fxP := by positivity
  obtain ⟨hlow, hhigh⟩ := expSeries_near ht 90 0 (2 ^ fxP) (by simp) (by simp)
  have hx : (t : ℝ) / 2 ^ fxP ≤ 1 := by
    rw [div_le_one hpos]
    have : t ≤ 2 ^ fxP := by omega
    exact_mod_cast this
  have hsum := abs_le.mp (exp_near_sum (x := t / 2 ^ fxP) (by positivity) hx)
  simp only [zero_add] at hlow hhigh
  push_cast at hhigh
  rw [abs_le]
  constructor <;> linarith [hsum.1, hsum.2]

/-! ## ln 2 -/

theorem sub_le_exp_sub {a b : ℝ} (hb : 0 ≤ b) (hab : b ≤ a) : a - b ≤ Real.exp a - Real.exp b := by
  have h1 := Real.add_one_le_exp (a - b)
  have h2 : Real.exp a = Real.exp (a - b) * Real.exp b := by rw [← Real.exp_add, sub_add_cancel]
  have h3 := Real.one_le_exp hb
  nlinarith

theorem exp_sub_le (a b : ℝ) : Real.exp a - Real.exp b ≤ Real.exp a * (a - b) := by
  have h1 := Real.add_one_le_exp (b - a)
  have h2 : Real.exp b = Real.exp (b - a) * Real.exp a := by rw [← Real.exp_add, sub_add_cancel]
  have h3 := Real.exp_pos a
  nlinarith

theorem abs_exp_sub_le {a b : ℝ} (ha : a ≤ 1) (hb : b ≤ 1) : |Real.exp a - Real.exp b| ≤ 3 * |a - b| := by
  wlog hab : b ≤ a generalizing a b with h
  · rw [abs_sub_comm, abs_sub_comm a]
    exact h hb ha (by linarith)
  have h1 : Real.exp a ≤ 3 := ((Real.exp_le_exp.mpr ha).trans_lt Real.exp_one_lt_d9).le.trans (by norm_num)
  have h2 := exp_sub_le a b
  have h3 := Real.exp_le_exp.mpr hab
  rw [abs_of_nonneg (by linarith), abs_of_nonneg (by linarith)]
  nlinarith

theorem abs_sub_le_exp {a b : ℝ} (ha : 0 ≤ a) (hb : 0 ≤ b) : |a - b| ≤ |Real.exp a - Real.exp b| := by
  wlog hab : b ≤ a generalizing a b with h
  · rw [abs_sub_comm, abs_sub_comm (Real.exp a)]
    exact h hb ha (by linarith)
  have h1 := sub_le_exp_sub hb hab
  rw [abs_of_nonneg (by linarith)]
  exact h1.trans (le_abs_self _)

theorem fxLn2_le : 4 * fxLn2 ≤ 3 * 2 ^ fxP := by decide +kernel

/-- The series evaluated at the constant gives 2. -/
theorem expSeries_fxLn2 : expSeries fxLn2 90 0 (2 ^ fxP) ≤ 2 * 2 ^ fxP ∧ 2 * 2 ^ fxP ≤ expSeries fxLn2 90 0 (2 ^ fxP) + 40 := by decide +kernel

theorem fxLn2_near : |(fxLn2 : ℝ) - 2 ^ fxP * Real.log 2| ≤ 401 := by
  have hpos : (0 : ℝ) < 2 ^ fxP := by positivity
  have hexp := abs_le.mp (expSeries_near_exp fxLn2_le)
  obtain ⟨h1, h2⟩ := expSeries_fxLn2
  have h1' : (expSeries fxLn2 90 0 (2 ^ fxP) : ℝ) ≤ 2 * 2 ^ fxP := by exact_mod_cast h1
  have h2' : 2 * (2 : ℝ) ^ fxP ≤ expSeries fxLn2 90 0 (2 ^ fxP) + 40 := by exact_mod_cast h2
  have hle := abs_sub_le_exp (a := fxLn2 / 2 ^ fxP) (b := Real.log 2) (by positivity) (Real.log_nonneg (by norm_num))
  rw [Real.exp_log (by norm_num)] at hle
  have hscale : |(fxLn2 : ℝ) - 2 ^ fxP * Real.log 2| = 2 ^ fxP * |fxLn2 / 2 ^ fxP - Real.log 2| := by
    rw [← abs_of_pos hpos, ← abs_mul, abs_of_pos hpos, mul_sub, mul_div_cancel₀ _ hpos.ne']
  rw [hscale]
  refine (mul_le_mul_of_nonneg_left hle hpos.le).trans ?_
  rw [← abs_of_pos hpos, ← abs_mul, abs_of_pos hpos, abs_le]
  constructor <;> linarith [hexp.1, hexp.2]

/-! ## Powers of 2 -/

theorem fxExp2_near {frac : Nat} (h : frac < 2 ^ fxP) : |2 ^ fxP * (2 : ℝ) ^ ((frac : ℝ) / 2 ^ fxP) - fxExp2 frac| ≤ 2000 := by
  have hpos : (0 : ℝ) < 2 ^ fxP := by positivity
  have hfrac : (frac : ℝ) / 2 ^ fxP ≤ 1 := by
    rw [div_le_one hpos]
    exact_mod_cast h.le
  set t := frac * fxLn2 / 2 ^ fxP with ht
  have htle : t ≤ fxLn2 := Nat.div_le_of_le_mul (Nat.mul_le_mul_right _ h.le)
  have hexp := expSeries_near_exp (t := t) ((Nat.mul_le_mul_left 4 htle).trans fxLn2_le)
  have hfloor : (t : ℝ) ≤ frac * fxLn2 / 2 ^ fxP ∧ (frac : ℝ) * fxLn2 / 2 ^ fxP ≤ t + 1 := by
    have hcast : (frac : ℝ) * fxLn2 / 2 ^ fxP = ((frac * fxLn2 : Nat) : ℝ) / ((2 ^ fxP : Nat) : ℝ) := by push_cast; rfl
    rw [hcast, ht]
    refine ⟨Nat.cast_div_le, ?_⟩
    rw [← Nat.floor_div_eq_div (K := ℝ)]
    exact (Nat.lt_floor_add_one _).le
  have hln := abs_le.mp fxLn2_near
  have hlog0 : 0 ≤ Real.log 2 := Real.log_nonneg (by norm_num)
  have hlog1 : Real.log 2 ≤ 1 := (Real.log_le_sub_one_of_pos (by norm_num)).trans (by norm_num)
  have hdiff : |(t : ℝ) - 2 ^ fxP * (frac / 2 ^ fxP * Real.log 2)| ≤ 402 := by
    have hfx0 : (0 : ℝ) ≤ frac / 2 ^ fxP := by positivity
    have hprod : |frac / 2 ^ fxP * ((fxLn2 : ℝ) - 2 ^ fxP * Real.log 2)| ≤ 401 := by
      rw [abs_mul, abs_of_nonneg hfx0]
      calc _ ≤ 1 * 401 := mul_le_mul hfrac fxLn2_near (abs_nonneg _) zero_le_one
        _ = (401 : ℝ) := one_mul _
    have hsplit : 2 ^ fxP * ((frac : ℝ) / 2 ^ fxP * Real.log 2) =
        frac * fxLn2 / 2 ^ fxP - frac / 2 ^ fxP * (fxLn2 - 2 ^ fxP * Real.log 2) := by
      field_simp
      ring
    rw [hsplit, abs_le]
    obtain ⟨h1, h2⟩ := abs_le.mp hprod
    constructor <;> linarith [hfloor.1, hfloor.2]
  have hlip := abs_exp_sub_le (a := frac / 2 ^ fxP * Real.log 2) (b := t / 2 ^ fxP) (by nlinarith) (by
    rw [div_le_one hpos]
    have : t ≤ 2 ^ fxP := by have := fxLn2_le; omega
    exact_mod_cast this)
  have hlip' : |2 ^ fxP * Real.exp (frac / 2 ^ fxP * Real.log 2) - 2 ^ fxP * Real.exp (t / 2 ^ fxP)| ≤ 3 * 402 := by
    rw [← mul_sub, abs_mul, abs_of_pos hpos]
    refine (mul_le_mul_of_nonneg_left hlip hpos.le).trans ?_
    have : 2 ^ fxP * |frac / 2 ^ fxP * Real.log 2 - t / 2 ^ fxP| = |(t : ℝ) - 2 ^ fxP * (frac / 2 ^ fxP * Real.log 2)| := by
      rw [← abs_of_pos hpos, ← abs_mul, abs_of_pos hpos, abs_sub_comm, mul_sub, mul_div_cancel₀ _ hpos.ne']
    linarith
  rw [Real.rpow_def_of_pos (by norm_num), mul_comm (Real.log 2), fxExp2, ← ht]
  have h1 := abs_le.mp hlip'
  have h2 := abs_le.mp hexp
  rw [abs_le]
  constructor <;> linarith [h1.1, h1.2, h2.1, h2.2]

/-- A power of 2 with a broken exponent is irrational. -/
theorem irrational_two_rpow {D : Nat} {N : Int} (hD : 0 < D) (h : ¬ (D : Int) ∣ N) : Irrational ((2 : ℝ) ^ ((N : ℝ) / D)) := by
  rintro ⟨q, hq⟩
  have hpow : q ^ D = (2 : ℚ) ^ N := by
    have : ((q ^ D : ℚ) : ℝ) = ((2 ^ N : ℚ) : ℝ) := by
      push_cast
      rw [hq, ← Real.rpow_natCast, ← Real.rpow_mul (by norm_num), div_mul_cancel₀ _ (by positivity), Real.rpow_intCast]
    exact_mod_cast this
  have hq0 : q ≠ 0 := by
    rintro rfl
    rw [zero_pow hD.ne'] at hpow
    exact absurd hpow.symm (by positivity)
  have : Fact (Nat.Prime 2) := ⟨Nat.prime_two⟩
  have hval := congrArg (padicValRat 2) hpow
  rw [padicValRat.pow, padicValRat.zpow] at hval
  have h2 : padicValRat 2 (2 : ℚ) = 1 := padicValRat.self (p := 2) (by norm_num)
  rw [h2, mul_one] at hval
  exact h ⟨_, hval.symm⟩

end Sys2Proof.Machine
end

section
/-!
`fexp2` (05:R146), put together.
-/

namespace Sys2Proof.Machine

variable {m : Nat} {neg : Bool}

theorem round32_one (hm : m ≤ 4) (neg : Bool) : round32 m neg 1 = (if neg then 0xbf80_0000 else 0x3f80_0000, 0#5) := by
  have hdef : round32 m neg 1 = roundFrm 0 m false neg 1 1 := rfl
  rw [hdef]
  interval_cases m <;> cases neg <;> decide

/-! ## Values so large or so small that the mode alone decides -/

theorem tooBig_of_le {q : ℚ} (h : (2 : ℚ) ^ (130 : Int) ≤ q) : tooBig 0 m neg q := by
  have hlog := (Int.zpow_le_iff_le_log (b := 2) (x := 130) (by norm_num) (lt_of_lt_of_le (by norm_num) h)).mp (by rwa [Nat.cast_ofNat])
  left
  exact lt_of_lt_of_le (by decide) (hlog.trans (le_max_left _ _))

/-- From 2^130 on, everything overflows alike. -/
theorem round32_huge {q r : ℚ} (hq : (2 : ℚ) ^ (130 : Int) ≤ q) (hr : (2 : ℚ) ^ (130 : Int) ≤ r) : round32 m neg q = round32 m neg r := by
  classical
  have hq0 : 0 < q := lt_of_lt_of_le (by norm_num) hq
  have hr0 : 0 < r := lt_of_lt_of_le (by norm_num) hr
  have hbq := tooBig_of_le (m := m) (neg := neg) hq
  have hbr := tooBig_of_le (m := m) (neg := neg) hr
  rw [round32_eq hq0, round32_eq hr0]
  unfold frmOfRat
  rw [if_pos hbq, if_pos hbr]
  refine Prod.ext rfl (flagsOf_congr ?_ Iff.rfl ?_ ?_ ?_)
  · simp [hbq, hbr]
  · simp [hbq, hbr]
  · simp [not_tiny_of_tooBig hq0 hbq, not_tiny_of_tooBig hr0 hbr]
  · simp [hbq, hbr]

/-- A value below a quarter of the least one: its quotient by the last place lies strictly between 0 and 1/2. -/
theorem quoOf_tiny {q : ℚ} (hq : 0 < q) (h : q ≤ 2 ^ (-160 : Int)) : expOf 0 q = (fmtP 0).emin ∧ 0 < quoOf 0 q ∧ quoOf 0 q < 1 / 2 := by
  have hlog : Int.log 2 q < (fmtP 0).emin := by
    refine (Int.lt_zpow_iff_log_lt (b := 2) (by norm_num) hq).mp (h.trans_lt ?_)
    rw [Nat.cast_ofNat]
    exact zpow_lt_zpow_right₀ (by norm_num) (by decide)
  have hexp : expOf 0 q = (fmtP 0).emin := by
    unfold expOf
    rw [params_emin]
    omega
  refine ⟨hexp, quoOf_pos hq, ?_⟩
  rw [quoOf_eq, hexp]
  calc q * 2 ^ (((fmtP 0).mb : Int) - (fmtP 0).emin) ≤ 2 ^ (-160 : Int) * 2 ^ (149 : Int) := by
        gcongr
        · norm_num
        · decide
    _ < 1 / 2 := by norm_num

theorem round32_tiny {q r : ℚ} (hq0 : 0 < q) (hr0 : 0 < r) (hq : q ≤ 2 ^ (-160 : Int)) (hr : r ≤ 2 ^ (-160 : Int)) :
    round32 m neg q = round32 m neg r := by
  classical
  obtain ⟨heq, hq1, hq2⟩ := quoOf_tiny hq0 hq
  obtain ⟨her, hr1, hr2⟩ := quoOf_tiny hr0 hr
  have hfloor : ∀ w : ℚ, 0 < w → w < 1 / 2 → ⌊w⌋ = 0 ∧ Int.fract w = w := by
    intro w h1 h2
    have h0 : ⌊w⌋ = 0 := Int.floor_eq_zero_iff.mpr ⟨h1.le, by linarith⟩
    exact ⟨h0, by rw [← Int.self_sub_floor, h0, Int.cast_zero, sub_zero]⟩
  have hround : roundRat m neg (quoOf 0 q) = roundRat m neg (quoOf 0 r) := by
    rw [roundRat_eq, roundRat_eq, (hfloor _ hq1 hq2).1, (hfloor _ hq1 hq2).2, (hfloor _ hr1 hr2).1, (hfloor _ hr1 hr2).2]
    unfold roundsUp
    simp only [hq1.ne', hr1.ne', hq2.ne, hr2.ne, hq2.not_gt, hr2.not_gt, hq2.not_ge, hr2.not_ge, ne_eq]
  have hne : ∀ w : ℚ, 0 < w → w < 1 / 2 → (roundRat m neg w : ℚ) ≠ w := by
    intro w h1 h2 h
    have hlt : (roundRat m neg w : ℚ) < 1 := by rw [h]; linarith
    have hgt : (0 : ℚ) < roundRat m neg w := by rw [h]; exact h1
    have hlt' : roundRat m neg w < 1 := by exact_mod_cast hlt
    have hgt' : 0 < roundRat m neg w := by exact_mod_cast hgt
    omega
  have hbig : tooBig 0 m neg q ↔ tooBig 0 m neg r := by
    unfold tooBig
    rw [heq, her, hround]
  have htiny : ∀ w : ℚ, w ≤ 2 ^ (-160 : Int) → w < 2 ^ (params 0).emin := by
    intro w hw
    refine hw.trans_lt ?_
    rw [params_emin]
    exact zpow_lt_zpow_right₀ (by norm_num) (by decide)
  rw [round32_eq hq0, round32_eq hr0]
  unfold frmOfRat
  refine Prod.ext ?_ (flagsOf_congr (and_congr_left' hbig) Iff.rfl hbig ?_ ?_)
  · simp only [hbig, heq, her, hround]
  · exact iff_of_true ⟨htiny q hq, hne _ hq1 hq2⟩ ⟨htiny r hr, hne _ hr1 hr2⟩
  · exact iff_of_true (.inl (hne _ hq1 hq2)) (.inl (hne _ hr1 hr2))

/-! ## `fexp2` -/

theorem Rounds32.of_huge {q : ℚ} {x : ℝ} (hx : (2 : ℝ) ^ (131 : Int) ≤ x) (hq : (2 : ℚ) ^ (130 : Int) ≤ q) :
    Rounds32 m neg (1 / 2 ^ 150) x (round32 m neg q) := by
  constructor
  · intro r hr
    refine round32_huge hq ?_
    have : ((2 ^ (130 : Int) : ℚ) : ℝ) ≤ r := by
      rw [hr]
      refine le_trans ?_ hx
      rw [Rat.cast_zpow, Rat.cast_ofNat]
      exact zpow_le_zpow_right₀ (by norm_num) (by norm_num)
    exact_mod_cast this
  · intro _ lo hi _ _ hxhi hsame
    rw [hsame]
    refine round32_huge hq ?_
    have : ((2 ^ (130 : Int) : ℚ) : ℝ) ≤ hi := by
      refine le_trans ?_ hxhi.le
      push_cast
      have hpos : (0 : ℝ) ≤ 1 / 2 ^ 150 := by positivity
      have : (2 : ℝ) ^ (130 : Int) ≤ 2 ^ (131 : Int) := zpow_le_zpow_right₀ (by norm_num) (by norm_num)
      nlinarith
    exact_mod_cast this

theorem Rounds32.of_tiny {q : ℚ} {x : ℝ} (hx0 : 0 < x) (hx : x ≤ (2 : ℝ) ^ (-160 : Int)) (hq0 : 0 < q) (hq : q ≤ (2 : ℚ) ^ (-160 : Int)) :
    Rounds32 m neg (1 / 2 ^ 150) x (round32 m neg q) := by
  constructor
  · intro r hr
    have h1 : ((0 : ℚ) : ℝ) < r := by rw [hr, Rat.cast_zero]; exact hx0
    have h2 : (r : ℝ) ≤ ((2 ^ (-160 : Int) : ℚ) : ℝ) := by rw [hr]; push_cast; exact_mod_cast hx
    exact round32_tiny hq0 (by exact_mod_cast h1) hq (by exact_mod_cast h2)
  · intro _ lo hi hlo hlox _ _
    have h2 : (lo : ℝ) ≤ ((2 ^ (-160 : Int) : ℚ) : ℝ) := by
      refine le_trans hlox.le ?_
      push_cast
      have hpos : (0 : ℝ) ≤ 1 / 2 ^ 150 := by positivity
      have : (1 - 1 / 2 ^ 150) * x ≤ x := by nlinarith
      exact this.trans (by exact_mod_cast hx)
    exact round32_tiny hq0 hlo hq (by exact_mod_cast h2)

theorem two_rpow_rounds (z : Int) : Rounds32 m false (1 / 2 ^ 150) ((2 : ℝ) ^ ((z : ℝ) / 2 ^ fxP))
    (if (z.emod (2 ^ fxP : Nat)).toNat = 0 then roundScaled 0 m false false 1 (z / 2 ^ fxP)
      else roundSticky m false (fxExp2 (z.emod (2 ^ fxP : Nat)).toNat) (fxP - z / 2 ^ fxP)) := by
  have hpos : (0 : ℝ) < 2 ^ fxP := by positivity
  have hposZ : (0 : Int) < (2 ^ fxP : Nat) := by positivity
  obtain ⟨frac, hfrac⟩ := Int.eq_ofNat_of_zero_le (Int.emod_nonneg z hposZ.ne')
  have hlt : frac < 2 ^ fxP := by
    have := Int.emod_lt_of_pos z hposZ
    rw [hfrac] at this
    exact_mod_cast this
  have hsplit : z = z / 2 ^ fxP * 2 ^ fxP + frac := by
    have := Int.mul_ediv_add_emod z (2 ^ fxP : Nat)
    rw [hfrac, Nat.cast_pow, Nat.cast_ofNat, mul_comm] at this
    exact this.symm
  rw [show z.emod (2 ^ fxP : Nat) = frac from hfrac, Int.toNat_natCast]
  generalize hn : z / 2 ^ fxP = n at hsplit
  have hquo : (z : ℝ) / 2 ^ fxP = n + frac / 2 ^ fxP := by
    rw [hsplit]
    push_cast
    field_simp
  split
  · next h0 =>
    rw [roundScaled_zero m false 1 n (x := 2 ^ n) (by rw [abs_of_pos (by positivity), Nat.cast_one, one_mul])]
    refine Rounds32.of_rat ?_
    rw [hquo, h0, Nat.cast_zero, zero_div, add_zero, Real.rpow_intCast]
    push_cast
    rfl
  · next h0 =>
    have hirr : Irrational ((2 : ℝ) ^ ((z : ℝ) / (2 ^ fxP : Nat))) := by
      refine irrational_two_rpow (by positivity) ?_
      rw [Int.dvd_iff_emod_eq_zero, hfrac]
      exact_mod_cast h0
    rw [Nat.cast_pow, Nat.cast_ofNat] at hirr
    have hnear := abs_le.mp (fxExp2_near hlt)
    have hone : (1 : ℝ) ≤ 2 ^ ((frac : ℝ) / 2 ^ fxP) := Real.one_le_rpow (by norm_num) (by positivity)
    have hscale : (2 : ℝ) ^ ((z : ℝ) / 2 ^ fxP) * 2 ^ ((fxP : Int) - n) = 2 ^ fxP * 2 ^ ((frac : ℝ) / 2 ^ fxP) := by
      rw [hquo, Real.rpow_add (by norm_num), Real.rpow_intCast, zpow_sub₀ (by norm_num), zpow_natCast]
      field_simp
    refine Rounds32.of_sticky (c := 2000) hirr ?_ ?_ ?_
    · rw [hscale]
      push_cast
      linarith [hnear.1]
    · rw [hscale]
      push_cast
      linarith [hnear.2]
    · have hbig : (2000 + 1) * 2 ^ 150 + 4000 ≤ 2 ^ fxP := by decide +kernel
      have hbig' : ((2000 : ℝ) + 1) * 2 ^ 150 + 4000 ≤ 2 ^ fxP := by exact_mod_cast hbig
      have : ((2000 : ℝ) + 1) * 2 ^ 150 + 2000 ≤ fxExp2 frac := by nlinarith [hnear.2]
      exact_mod_cast this

theorem fExp2_eq {a : Nat} {s : Bool} {p : Nat} {e : Int} (h : unpack 0 a = .fin s p e) (hp : p ≠ 0) :
    fExp2 m a = if scaleNum p e > 200 * scaleDen e then roundScaled 0 m false false 1 (if s then -200 else 200)
      else if ((fxOf s p e).emod (2 ^ fxP : Nat)).toNat = 0 then roundScaled 0 m false false 1 (fxOf s p e / 2 ^ fxP)
      else roundSticky m false (fxExp2 ((fxOf s p e).emod (2 ^ fxP : Nat)).toNat) (fxP - fxOf s p e / 2 ^ fxP) := by
  unfold fExp2
  rw [h]
  exact if_neg hp

theorem fExp2_rounds (hm : m ≤ 4) {a : Nat} {s : Bool} {p : Nat} {e : Int} (h : unpack 0 a = .fin s p e) :
    Rounds32 m false (1 / 2 ^ 150) ((2 : ℝ) ^ (((unpack 0 a).val : ℚ) : ℝ)) (fExp2 m a) := by
  by_cases hp : p = 0
  · have hval : (unpack 0 a).val = 0 := by
      rw [h, FVal.val_fin, hp]
      simp
    have hdef : fExp2 m a = round32 m false 1 := by
      rw [round32_one hm, fExp2, h]
      exact if_pos hp
    rw [hval, hdef]
    refine Rounds32.of_rat ?_
    simp
  rw [fExp2_eq h hp]
  have hval : ((unpack 0 a).val : ℝ) = fxOf s p e / 2 ^ fxP := by
    have := fxOf_eq h
    rw [eq_div_iff (by positivity)]
    exact_mod_cast this.symm
  split
  · next hbig =>
    have habs : (200 : ℚ) < |(unpack 0 a).val| := by
      rw [h, FVal.abs_val_fin, ← scale_eq]
      rw [lt_div_iff₀ (by exact_mod_cast scaleDen_pos e)]
      exact_mod_cast hbig
    cases s with
    | false =>
      have hx : (200 : ℚ) < (unpack 0 a).val := by
        rwa [abs_of_nonneg (by rw [h, FVal.val_fin]; simp; positivity)] at habs
      have hx' : (200 : ℝ) < ((unpack 0 a).val : ℝ) := by exact_mod_cast hx
      rw [roundScaled_zero m false 1 _ (x := 2 ^ (200 : Int)) (by rw [abs_of_pos (by positivity)]; simp)]
      refine Rounds32.of_huge ?_ (zpow_le_zpow_right₀ (by norm_num) (by norm_num))
      rw [← Real.rpow_intCast]
      exact Real.rpow_le_rpow_of_exponent_le (by norm_num) (by push_cast; linarith)
    | true =>
      have hx : (unpack 0 a).val < -200 := by
        rw [abs_of_nonpos (by rw [h, FVal.val_fin]; simp; positivity)] at habs
        linarith
      have hx' : ((unpack 0 a).val : ℝ) < -200 := by exact_mod_cast hx
      rw [roundScaled_zero m false 1 _ (x := 2 ^ (-200 : Int)) (by rw [abs_of_pos (by positivity)]; simp)]
      refine Rounds32.of_tiny (by positivity) ?_ (by positivity) (zpow_le_zpow_right₀ (by norm_num) (by norm_num))
      rw [← Real.rpow_intCast]
      exact Real.rpow_le_rpow_of_exponent_le (by norm_num) (by push_cast; linarith)
  · rw [hval]
    exact two_rpow_rounds _

end Sys2Proof.Machine
end

section
/-!
`flog2` (05:R146): repeated squaring brings out the bits of the logarithm, and a logarithm that is no whole number is far from one.
-/

namespace Sys2Proof.Machine

variable {m : Nat} {neg : Bool}

/-! ## The loop -/

/-- A value loses at most three times its relative error in the base-2 logarithm. -/
theorem logb_sub_le {x y u : ℝ} (hx : 0 < x) (hu0 : 0 ≤ u) (hu : u ≤ 1 / 2) (hy : x * (1 - u) ≤ y) : Real.logb 2 x - 3 * u ≤ Real.logb 2 y := by
  have hfac : 0 < 1 - u := by linarith
  have hlog2 : 2 / 3 < Real.log 2 := by linarith [Real.log_two_gt_d9]
  have hle : Real.logb 2 (x * (1 - u)) ≤ Real.logb 2 y := Real.logb_le_logb_of_le (by norm_num) (by positivity) hy
  rw [Real.logb_mul hx.ne' hfac.ne'] at hle
  have hln : -(2 * u) ≤ Real.log (1 - u) := by
    have h := Real.one_sub_inv_le_log_of_pos hfac
    refine le_trans ?_ h
    have hinv : (1 - u)⁻¹ ≤ 1 + 2 * u := by
      rw [inv_eq_one_div, div_le_iff₀ hfac]
      nlinarith
    linarith
  have hfrac : -(3 * u) ≤ Real.logb 2 (1 - u) := by
    rw [Real.logb, le_div_iff₀ (by linarith)]
    nlinarith
  linarith

/-- The bit that one squaring brings out, on the grid of step 1 / S. -/
def log2Bit (S v : Nat) : Nat := if v * v / S ≥ 2 * S then 1 else 0

/-- The value in [1, 2) that one squaring leaves. -/
def log2Next (S v : Nat) : Nat := if v * v / S ≥ 2 * S then v * v / S / 2 else v * v / S

theorem fxLog2Go_succ (fuel v acc : Nat) :
    fxLog2Go (fuel + 1) v acc = fxLog2Go fuel (log2Next (2 ^ fxP) v) (2 * acc + log2Bit (2 ^ fxP) v) := by
  rw [fxLog2Go, log2Next, log2Bit, ← pow_succ']
  split <;> rfl

theorem log2Next_bounds {S v : Nat} (hS : 4 ≤ S) (h1 : S ≤ v) (h2 : v < 2 * S) :
    S ≤ log2Next S v ∧ log2Next S v < 2 * S ∧
    (log2Next S v : ℝ) * 2 ^ log2Bit S v ≤ v * v / S ∧ (v : ℝ) * v / S * (1 - 2 / S) ≤ log2Next S v * 2 ^ log2Bit S v := by
  have hS' : (4 : ℝ) ≤ S := by exact_mod_cast hS
  have hS0 : (0 : ℝ) < S := by linarith
  have hv : (S : ℝ) ≤ v := by exact_mod_cast h1
  have hw1 : S ≤ v * v / S := (Nat.le_div_iff_mul_le (by omega)).mpr (Nat.mul_le_mul h1 h1)
  have hw2 : v * v / S < 4 * S := by
    rw [Nat.div_lt_iff_lt_mul (by omega)]
    calc v * v < 2 * S * (2 * S) := Nat.mul_lt_mul'' h2 h2
      _ = 4 * S * S := by ring
  have hle : ((v * v / S : Nat) : ℝ) ≤ v * v / S := by
    have := Nat.cast_div_le (α := ℝ) (m := v * v) (n := S)
    rwa [Nat.cast_mul] at this
  have hge : (v : ℝ) * v / S < (v * v / S : Nat) + 1 := by
    have := Nat.lt_floor_add_one ((v * v : Nat) / (S : Nat) : ℝ)
    rwa [Nat.floor_div_eq_div, Nat.cast_mul] at this
  have hsq : (S : ℝ) ≤ v * v / S := by
    rw [le_div_iff₀ hS0]
    nlinarith
  unfold log2Next log2Bit
  generalize v * v / S = w at hw1 hw2 hle hge ⊢
  generalize (v : ℝ) * v / S = z at hle hge hsq ⊢
  have hloss : z * (1 - 2 / S) ≤ z - 2 := by
    have : 2 ≤ z * (2 / S) := by
      rw [mul_div_assoc', le_div_iff₀ hS0]
      nlinarith
    linarith
  split
  · next h =>
    have hhalf : ((w / 2 : Nat) : ℝ) * 2 ≤ w := by exact_mod_cast Nat.div_mul_le_self w 2
    have hhalf' : (w : ℝ) ≤ (w / 2 : Nat) * 2 + 1 := by
      have : w ≤ w / 2 * 2 + 1 := by omega
      exact_mod_cast this
    refine ⟨by omega, by omega, ?_, ?_⟩
    · rw [pow_one]
      linarith
    · rw [pow_one]
      linarith
  · next h =>
    refine ⟨hw1, by omega, ?_, ?_⟩
    · rw [pow_zero, mul_one]
      exact hle
    · rw [pow_zero, mul_one]
      linarith

/-- The logarithm of a value in [1, 2) on the grid of step 1 / S. -/
noncomputable def gridLog (S v : Nat) : ℝ := Real.logb 2 (v / S)

/-- One squaring: the bit and the value that stays have twice the logarithm, but for a few steps of the grid. -/
theorem log2Next_gridLog {S v : Nat} (hS : 4 ≤ S) (h1 : S ≤ v) (h2 : v < 2 * S) :
    gridLog S (log2Next S v) + log2Bit S v ≤ 2 * gridLog S v ∧ 2 * gridLog S v - 6 / S ≤ gridLog S (log2Next S v) + log2Bit S v := by
  have hS' : (4 : ℝ) ≤ S := by exact_mod_cast hS
  have hS0 : (0 : ℝ) < S := by linarith
  have hv : (0 : ℝ) < v := lt_of_lt_of_le hS0 (by exact_mod_cast h1)
  obtain ⟨hlow, -, hle, hge⟩ := log2Next_bounds hS h1 h2
  have hn : (0 : ℝ) < log2Next S v := lt_of_lt_of_le hS0 (by exact_mod_cast hlow)
  generalize log2Next S v = v' at *
  generalize log2Bit S v = b at *
  have hsum : gridLog S v' + b = Real.logb 2 ((v' : ℝ) * 2 ^ b / S) := by
    rw [gridLog, mul_div_right_comm, Real.logb_mul (by positivity) (by positivity), Real.logb_pow, Real.logb_self_eq_one (by norm_num), mul_one]
  have hdouble : 2 * gridLog S v = Real.logb 2 ((v : ℝ) * v / S / S) := by
    rw [gridLog, two_mul, ← Real.logb_mul (by positivity) (by positivity)]
    congr 1
    field_simp
  rw [hsum, hdouble]
  constructor
  · exact Real.logb_le_logb_of_le (by norm_num) (by positivity) (by gcongr)
  · have := logb_sub_le (x := (v : ℝ) * v / S / S) (y := (v' : ℝ) * 2 ^ b / S) (u := 2 / S) (by positivity) (by positivity)
      (by rw [div_le_div_iff₀ hS0 (by norm_num)]; linarith) (by rw [div_mul_eq_mul_div]; gcongr)
    rwa [show 3 * (2 / (S : ℝ)) = 6 / S by ring] at this

theorem gridLog_mem {S v : Nat} (hS : 0 < S) (h1 : S ≤ v) (h2 : v < 2 * S) : 0 ≤ gridLog S v ∧ gridLog S v ≤ 1 := by
  have hS0 : (0 : ℝ) < S := by exact_mod_cast hS
  have h1' : (S : ℝ) ≤ v := by exact_mod_cast h1
  have h2' : (v : ℝ) ≤ 2 * S := by exact_mod_cast h2.le
  constructor
  · exact Real.logb_nonneg (by norm_num) (by rwa [le_div_iff₀ hS0, one_mul])
  · rw [gridLog, ← Real.logb_self_eq_one (b := 2) (by norm_num)]
    exact Real.logb_le_logb_of_le (by norm_num) (div_pos (hS0.trans_le h1') hS0) (by rwa [div_le_iff₀ hS0])

theorem fxLog2Go_bounds (fuel : Nat) : ∀ v acc : Nat, 2 ^ fxP ≤ v → v < 2 * 2 ^ fxP →
    (fxLog2Go fuel v acc : ℝ) ≤ 2 ^ fuel * (acc + gridLog (2 ^ fxP) v) ∧
    2 ^ fuel * (acc + gridLog (2 ^ fxP) v) ≤ fxLog2Go fuel v acc + 1 + (2 ^ fuel - 1) * (6 / (2 ^ fxP : Nat)) := by
  induction fuel with
  | zero =>
    intro v acc h1 h2
    have := gridLog_mem (by positivity) h1 h2
    simp only [fxLog2Go, pow_zero, sub_self, zero_mul]
    constructor <;> linarith [this.1, this.2]
  | succ fuel ih =>
    intro v acc h1 h2
    have hS : 4 ≤ 2 ^ fxP := by decide +kernel
    obtain ⟨hlow, hhigh, -, -⟩ := log2Next_bounds hS h1 h2
    obtain ⟨hle, hge⟩ := log2Next_gridLog hS h1 h2
    rw [fxLog2Go_succ]
    obtain ⟨ih1, ih2⟩ := ih _ (2 * acc + log2Bit (2 ^ fxP) v) hlow hhigh
    have hpow : (0 : ℝ) < 2 ^ fuel := by positivity
    rw [Nat.cast_add, Nat.cast_mul, Nat.cast_ofNat] at ih1 ih2
    generalize (6 : ℝ) / (2 ^ fxP : Nat) = u at *
    generalize gridLog (2 ^ fxP) (log2Next (2 ^ fxP) v) = g' at *
    generalize gridLog (2 ^ fxP) v = g at *
    generalize (log2Bit (2 ^ fxP) v : ℝ) = b at *
    rw [pow_succ]
    have hmul : 2 ^ fuel * (g' + b) ≤ 2 ^ fuel * (2 * g) := mul_le_mul_of_nonneg_left hle hpow.le
    have hmul' : 2 ^ fuel * (2 * g - u) ≤ 2 ^ fuel * (g' + b) := mul_le_mul_of_nonneg_left hge hpow.le
    constructor <;> nlinarith

end Sys2Proof.Machine
end

section
/-!
`flog2` (05:R146), put together.
-/

namespace Sys2Proof.Machine

variable {m : Nat}

theorem irrational_logb_two {p : Nat} (hp : 0 < p) (h : ∀ j, p ≠ 2 ^ j) : Irrational (Real.logb 2 p) := by
  rintro ⟨q, hq⟩
  have hp1 : (1 : ℝ) < p := by
    have : 1 < p := by have := h 0; omega
    exact_mod_cast this
  have hq0 : 0 < q := by
    have : (0 : ℝ) < q := hq ▸ Real.logb_pos (by norm_num) hp1
    exact_mod_cast this
  obtain ⟨n, hn⟩ := Int.eq_ofNat_of_zero_le (Rat.num_nonneg.mpr hq0.le)
  have hpow : p ^ q.den = 2 ^ n := by
    have hden : (q : ℝ) * q.den = n := by
      have : q * q.den = n := by rw [Rat.mul_den_eq_num, hn]; rfl
      exact_mod_cast this
    have : (p : ℝ) ^ q.den = 2 ^ n := by
      rw [← Real.rpow_logb (b := 2) (x := p) (by norm_num) (by norm_num) (by linarith), ← hq, ← Real.rpow_natCast, ← Real.rpow_mul (by norm_num),
        hden, Real.rpow_natCast]
    exact_mod_cast this
  obtain ⟨j, -, hj⟩ := (Nat.dvd_prime_pow Nat.prime_two).mp (hpow ▸ dvd_pow_self p q.den_pos.ne')
  exact h j hj

theorem round32_neg (m : Nat) (neg : Bool) (q : ℚ) : round32 m neg (-q) = round32 m neg q := by
  rw [round32, round32, Rat.num_neg_eq_neg_num, Rat.den_neg_eq_den, Int.natAbs_neg]

theorem round32_abs (m : Nat) (neg : Bool) (q : ℚ) : round32 m neg |q| = round32 m neg q := by
  rcases abs_choice q with h | h
  · rw [h]
  · rw [h, round32_neg]

/-- The middle of a cell of the signed grid, rounded by its own sign. -/
theorem roundIntScaled_mid (m : Nat) (K : Int) (j : Nat) :
    roundIntScaled 0 m (2 * K + 1) (-(j : Int) - 1) = roundSticky m (decide (K < 0)) (if K < 0 then (-K - 1).toNat else K.toNat) j := by
  have hpos : (0 : ℚ) < 2 ^ (-(j : Int) - 1) := by positivity
  have hsign : ((2 * K + 1 : Int) : ℚ) * 2 ^ (-(j : Int) - 1) < 0 ↔ K < 0 := by
    rw [← neg_pos, ← neg_mul, mul_pos_iff_of_pos_right hpos, neg_pos, Int.cast_lt_zero]
    omega
  rw [roundIntScaled_eq m _ _ rfl, roundSticky_eq]
  simp only [hsign]
  split
  · next h =>
    obtain ⟨v, hv⟩ := Int.eq_ofNat_of_zero_le (by omega : 0 ≤ -K - 1)
    rw [hv, Int.toNat_natCast, midOf, ← round32_neg, ← neg_mul, show 2 * K + 1 = -((2 * v + 1 : Nat) : Int) by push_cast; omega]
    push_cast
    rw [neg_neg]
  · next h =>
    obtain ⟨v, rfl⟩ := Int.eq_ofNat_of_zero_le (not_lt.mp h)
    rw [Int.toNat_natCast, midOf]
    push_cast
    rfl

/-- A logarithm that is not small, within two cells of the grid of step 2^-200. -/
theorem Rounds32.of_log_cell {neg : Bool} {v : Nat} {x : ℝ} (hirr : Irrational x) (hfar : 1 / 2 ^ 24 ≤ x) (hlow : v ≤ x * 2 ^ 200 + 2)
    (hhigh : x * 2 ^ 200 ≤ v + 2) : Rounds32 m neg (1 / 2 ^ 150) x (roundSticky m neg v (200 : Nat)) := by
  refine Rounds32.of_sticky (c := 2) hirr ?_ ?_ ?_
  · rw [zpow_natCast]
    push_cast
    linarith
  · rw [zpow_natCast]
    push_cast
    linarith
  · have hnum : (2 + 1) * (2 : ℝ) ^ 150 + 4 ≤ 1 / 2 ^ 24 * 2 ^ 200 := by norm_num
    have : ((2 : ℝ) + 1) * 2 ^ 150 + 2 ≤ v := by linarith [mul_le_mul_of_nonneg_right hfar (by positivity : (0 : ℝ) ≤ 2 ^ 200)]
    exact_mod_cast this

/-! ## The logarithm of a value that is no power of 2 -/

section
variable {p : Nat} (hp : 0 < p) (hb : p < 2 ^ 24) (hne : p ≠ 2 ^ Nat.log2 p)
include hp

theorem log2_spec : 2 ^ Nat.log2 p ≤ p ∧ p < 2 * 2 ^ Nat.log2 p := by
  rw [← pow_succ']
  exact ⟨Nat.log2_self_le hp.ne', Nat.lt_log2_self⟩

theorem gridLog_scaled (hlg : Nat.log2 p ≤ fxP) : gridLog (2 ^ fxP) (p * 2 ^ (fxP - Nat.log2 p)) = Real.logb 2 p - Nat.log2 p := by
  have hpos : (p : ℝ) ≠ 0 := by positivity
  rw [gridLog, Nat.cast_mul, Nat.cast_pow, Nat.cast_pow, Nat.cast_ofNat, mul_div_assoc, Real.logb_mul hpos (by positivity),
    Real.logb_div (by positivity) (by positivity), Real.logb_pow, Real.logb_pow, Real.logb_self_eq_one (by norm_num), Nat.cast_sub hlg]
  ring

include hb hne

/-- The logarithm of a 24-bit value that is no power of 2 stays away from the whole numbers. -/
theorem logb_fract_bounds : 1 / 2 ^ 24 ≤ Real.logb 2 p - Nat.log2 p ∧ Real.logb 2 p - Nat.log2 p ≤ 1 - 1 / 2 ^ 24 := by
  obtain ⟨h1, h2⟩ := log2_spec hp
  have hlg : Nat.log2 p < 24 := (Nat.log2_lt hp.ne').mpr hb
  have hD : (2 : ℝ) ^ Nat.log2 p ≤ 2 ^ 23 := pow_le_pow_right₀ (by norm_num) (by omega)
  have h1' : (2 : ℝ) ^ Nat.log2 p + 1 ≤ p := by
    have : 2 ^ Nat.log2 p + 1 ≤ p := by omega
    exact_mod_cast this
  have h2' : (p : ℝ) + 1 ≤ 2 * 2 ^ Nat.log2 p := by exact_mod_cast h2
  have hpow : (Nat.log2 p : ℝ) = Real.logb 2 (2 ^ Nat.log2 p) := by
    rw [Real.logb_pow, Real.logb_self_eq_one (by norm_num), mul_one]
  have hlog2 : 0 < Real.log 2 := Real.log_pos (by norm_num)
  have hlog2' : Real.log 2 ≤ 1 := (Real.log_le_sub_one_of_pos (by norm_num)).trans (by norm_num)
  generalize (2 : ℝ) ^ Nat.log2 p = D at *
  have hD0 : 0 < D := by linarith
  have hp0 : (0 : ℝ) < p := by linarith
  have hfrom : ∀ {y u : ℝ}, 0 ≤ u → u ≤ Real.log y → u ≤ Real.logb 2 y := by
    intro y u hu hy
    rw [Real.logb, le_div_iff₀ hlog2]
    nlinarith
  constructor
  · rw [hpow, ← Real.logb_div hp0.ne' hD0.ne']
    refine hfrom (by positivity) (le_trans ?_ (Real.one_sub_inv_le_log_of_pos (by positivity)))
    rw [inv_div, le_sub_iff_add_le, ← le_sub_iff_add_le', div_le_iff₀ hp0]
    nlinarith
  · have hone : Real.logb 2 p - Nat.log2 p = 1 - Real.logb 2 (2 * D / p) := by
      rw [hpow, Real.logb_div (by positivity) hp0.ne', Real.logb_mul (by norm_num) hD0.ne', Real.logb_self_eq_one (by norm_num)]
      ring
    rw [hone, sub_le_sub_iff_left]
    refine hfrom (by positivity) (le_trans ?_ (Real.one_sub_inv_le_log_of_pos (by positivity)))
    rw [inv_div, le_sub_iff_add_le, ← le_sub_iff_add_le', div_le_iff₀ (by positivity)]
    nlinarith

theorem log2_rounds (e : Int) : Rounds32 m (decide (Real.logb 2 p + e < 0)) (1 / 2 ^ 150) |Real.logb 2 p + e|
    (roundIntScaled 0 m (2 * ((e + Nat.log2 p) * 2 ^ 200 + (fxLog2Go 200 (p * 2 ^ (fxP - Nat.log2 p)) 0 : Int)) + 1) (-201)) := by
  obtain ⟨hlow, hhigh⟩ := logb_fract_bounds hp hb hne
  obtain ⟨h1, h2⟩ := log2_spec hp
  have hlg : Nat.log2 p < 24 := (Nat.log2_lt hp.ne').mpr hb
  have hlgP : Nat.log2 p ≤ fxP := hlg.le.trans (by decide)
  have hsplit : 2 ^ fxP = 2 ^ Nat.log2 p * 2 ^ (fxP - Nat.log2 p) := by rw [← pow_add, Nat.add_sub_cancel' hlgP]
  obtain ⟨hgo1, hgo2⟩ := fxLog2Go_bounds 200 (p * 2 ^ (fxP - Nat.log2 p)) 0 (hsplit ▸ Nat.mul_le_mul_right _ h1)
    (by rw [hsplit, ← mul_assoc]; exact Nat.mul_lt_mul_of_pos_right h2 (by positivity))
  have hirr : Irrational (Real.logb 2 p + e) := by
    refine (irrational_logb_two hp ?_).add_intCast e
    rintro j rfl
    rw [Nat.log2_two_pow] at hne
    exact hne rfl
  rw [gridLog_scaled hp hlgP, Nat.cast_zero, zero_add] at hgo1 hgo2
  generalize fxLog2Go 200 (p * 2 ^ (fxP - Nat.log2 p)) 0 = f at *
  have hsmall : ((2 : ℝ) ^ 200 - 1) * (6 / (2 ^ fxP : Nat)) ≤ 1 := by
    have : 2 ^ 200 * 6 ≤ 2 ^ fxP := by decide +kernel
    have : (2 : ℝ) ^ 200 * 6 ≤ (2 ^ fxP : Nat) := by exact_mod_cast this
    rw [mul_div_assoc', div_le_one (by positivity)]
    linarith
  generalize hg : Real.logb 2 p - Nat.log2 p = g at *
  have hval : Real.logb 2 p + e = (e + Nat.log2 p : Int) + g := by
    rw [← hg]
    push_cast
    ring
  rw [hval] at hirr ⊢
  generalize e + Nat.log2 p = k at *
  have hf : (f : Int) < 2 ^ 200 := by
    have : (f : ℝ) < 2 ^ 200 := by nlinarith
    exact_mod_cast this
  have hK : k * 2 ^ 200 + (f : Int) < 0 ↔ k < 0 := by
    constructor <;> intro h <;> omega
  have hsign : ((k : ℝ) + g < 0) ↔ k < 0 := by
    constructor
    · intro h
      have : (k : ℝ) < 0 := by linarith [show (0 : ℝ) < 1 / 2 ^ 24 by positivity]
      exact_mod_cast this
    · intro h
      have : (k : ℝ) ≤ -1 := by exact_mod_cast (by omega : k ≤ -1)
      linarith [show (0 : ℝ) < 1 / 2 ^ 24 by positivity]
  rw [show (-201 : Int) = -((200 : Nat) : Int) - 1 by norm_num, roundIntScaled_mid]
  simp only [hK, hsign]
  split
  · next h =>
    obtain ⟨v, hv⟩ := Int.eq_ofNat_of_zero_le (by omega : 0 ≤ -(k * 2 ^ 200 + (f : Int)) - 1)
    have hvR : (v : ℝ) = -((k : ℝ) * 2 ^ 200 + f) - 1 := by exact_mod_cast hv.symm
    have hk1 : (k : ℝ) ≤ -1 := by exact_mod_cast (by omega : k ≤ -1)
    rw [hv, Int.toNat_natCast, abs_of_neg (hsign.mpr h)]
    exact Rounds32.of_log_cell hirr.neg (by linarith) (by rw [hvR]; linarith) (by rw [hvR]; linarith)
  · next h =>
    obtain ⟨v, hv⟩ := Int.eq_ofNat_of_zero_le (by omega : 0 ≤ k * 2 ^ 200 + (f : Int))
    have hvR : (v : ℝ) = (k : ℝ) * 2 ^ 200 + f := by exact_mod_cast hv.symm
    have hk0 : (0 : ℝ) ≤ k := by exact_mod_cast not_lt.mp h
    rw [hv, Int.toNat_natCast, abs_of_nonneg (not_lt.mp (hsign.not.mpr h))]
    exact Rounds32.of_log_cell hirr (by linarith) (by rw [hvR]; linarith) (by rw [hvR]; linarith)

end

theorem fLog2_rounds {a p : Nat} {e : Int} (h : unpack 0 a = .fin false p e) (hp : 0 < p) :
    Rounds32 m (decide ((unpack 0 a).val < 1)) (1 / 2 ^ 150) |Real.logb 2 (((unpack 0 a).val : ℚ) : ℝ)| (fLog2 m a) := by
  have hb : p < 2 ^ 24 := (unpack_fin h).1
  have hp' : (0 : ℝ) < p := by exact_mod_cast hp
  have hval : (((unpack 0 a).val : ℚ) : ℝ) = p * 2 ^ e := by
    rw [h, FVal.val_fin]
    push_cast
    rfl
  have hlog : Real.logb 2 ((p : ℝ) * 2 ^ e) = Real.logb 2 p + e := by
    rw [Real.logb_mul hp'.ne' (by positivity), ← Real.rpow_intCast, Real.logb_rpow (by norm_num) (by norm_num)]
  have hsign : (unpack 0 a).val < 1 ↔ Real.logb 2 p + e < 0 := by
    rw [← hlog, Real.logb_neg_iff (by norm_num) (by positivity), ← hval]
    exact_mod_cast Iff.rfl
  have hdef : fLog2 m a = if p = 2 ^ Nat.log2 p then roundIntScaled 0 m (e + Nat.log2 p) 0
      else roundIntScaled 0 m (2 * ((e + Nat.log2 p) * 2 ^ 200 + (fxLog2Go 200 (p * 2 ^ (fxP - Nat.log2 p)) 0 : Int)) + 1) (-201) := by
    unfold fLog2
    rw [h]
    exact if_neg hp.ne'
  rw [hdef, hval, hlog]
  simp only [hsign]
  split
  · next hpow =>
    have hint : Real.logb 2 p + e = ((e + Nat.log2 p : Int) : ℚ) := by
      conv_lhs => rw [hpow]
      push_cast
      rw [Real.logb_pow, Real.logb_self_eq_one (by norm_num), mul_one, add_comm]
    rw [roundIntScaled_eq m _ 0 (x := ((e + Nat.log2 p : Int) : ℚ)) (by rw [zpow_zero, mul_one]), hint, ← round32_abs]
    simp only [Rat.cast_lt_zero]
    exact Rounds32.of_rat (Rat.cast_abs _)
  · next hne => exact log2_rounds hp hb hne e

end Sys2Proof.Machine
end

section
/-!
The sine series of `fsinpi` and `fcospi` (05:R146): it stays within a few units of 2^-320 of the exact value, and pi is read off the sine of a sixth of it.
-/

namespace Sys2Proof.Machine

/-! ## The series -/

/-- The terms of the sine series, without their signs. -/
noncomputable def sinTerm (x : ℝ) (n : Nat) : ℝ := x ^ (2 * n + 1) / (2 * n + 1).factorial

theorem sinTerm_succ (x : ℝ) (n : Nat) : sinTerm x (n + 1) = sinTerm x n * x ^ 2 / ((2 * n + 2) * (2 * n + 3) : Nat) := by
  have hfact : (2 * (n + 1) + 1).factorial = (2 * n + 3) * ((2 * n + 2) * (2 * n + 1).factorial) := rfl
  rw [sinTerm, sinTerm, hfact, show 2 * (n + 1) + 1 = (2 * n + 1) + 2 by ring, pow_add]
  push_cast
  field_simp

section
variable {x : ℝ} (h0 : 0 ≤ x) (h1 : x ≤ 8 / 5)
include h0

theorem sinTerm_nonneg (n : Nat) : 0 ≤ sinTerm x n := by
  unfold sinTerm
  positivity

include h1

theorem sinTerm_antitone : Antitone (sinTerm x) := by
  refine antitone_nat_of_succ_le fun n => ?_
  have hD : (6 : ℝ) ≤ ((2 * n + 2) * (2 * n + 3) : Nat) := by
    have : 6 ≤ (2 * n + 2) * (2 * n + 3) := by nlinarith
    exact_mod_cast this
  have hpos := sinTerm_nonneg h0 n
  rw [sinTerm_succ, div_le_iff₀ (by linarith)]
  exact mul_le_mul_of_nonneg_left (by nlinarith) hpos

theorem sinTerm_le_two (n : Nat) : sinTerm x n ≤ 2 := by
  refine (sinTerm_antitone h0 h1 (Nat.zero_le n)).trans ?_
  simp only [sinTerm, mul_zero, zero_add, pow_one, Nat.factorial_one, Nat.cast_one, div_one]
  linarith

/-- What is left out after 50 terms is less than a unit. -/
theorem sin_near_sum : |2 ^ fxP * Real.sin x - 2 ^ fxP * ∑ i ∈ Finset.range 50, (-1) ^ i * sinTerm x i| ≤ 1 := by
  have hlim : Filter.Tendsto (fun n => ∑ i ∈ Finset.range n, (-1) ^ i * sinTerm x i) Filter.atTop (nhds (Real.sin x)) := by
    have := (Real.hasSum_sin x).tendsto_sum_nat
    simp only [mul_div_assoc] at this
    exact this
  have hlow := (sinTerm_antitone h0 h1).alternating_series_le_tendsto hlim 25
  have hhigh := (sinTerm_antitone h0 h1).tendsto_le_alternating_series hlim 25
  rw [show 2 * 25 + 1 = 50 + 1 by norm_num, Finset.sum_range_succ, Even.neg_one_pow (by decide), one_mul] at hhigh
  rw [show 2 * 25 = 50 by norm_num] at hlow
  have hlast : 2 ^ fxP * sinTerm x 50 ≤ 1 := by
    have hfact : 2 ^ fxP * 2 ^ 101 ≤ Nat.factorial 101 := by decide +kernel
    have hfact' : (2 : ℝ) ^ fxP * 2 ^ 101 ≤ (Nat.factorial 101 : Nat) := by exact_mod_cast hfact
    have hpow : x ^ 101 ≤ 2 ^ 101 := pow_le_pow_left₀ h0 (by linarith) 101
    rw [sinTerm, show 2 * 50 + 1 = 101 by norm_num]
    generalize Nat.factorial 101 = F at *
    have hF : (0 : ℝ) < F := lt_of_lt_of_le (by positivity) hfact'
    rw [mul_div_assoc', div_le_one hF]
    exact (mul_le_mul_of_nonneg_left hpow (by positivity)).trans hfact'
  have hS : (0 : ℝ) < 2 ^ fxP := by positivity
  rw [← mul_sub, abs_mul, abs_of_pos hS, abs_of_nonneg (by linarith)]
  refine le_trans (mul_le_mul_of_nonneg_left ?_ hS.le) hlast
  linarith

end

/-- The fixed-point term falls behind the exact one by fewer than three units. -/
theorem sinTerm_step {S t term D : Nat} {τ : ℝ} (hS : 0 < S) (ht : 5 * t ≤ 8 * S) (hD : 6 ≤ D) (h0 : (term : ℝ) ≤ τ) (h3 : τ ≤ term + 3)
    (h2 : τ ≤ 2 * S) : ((term * (t * t / S) / S / D : Nat) : ℝ) ≤ τ * (t / S) ^ 2 / D ∧
      τ * (t / S) ^ 2 / D ≤ ((term * (t * t / S) / S / D : Nat) : ℝ) + 3 := by
  have hS' : (0 : ℝ) < S := by exact_mod_cast hS
  have hD' : (6 : ℝ) ≤ D := by exact_mod_cast hD
  have hDpos : (0 : ℝ) < D := by linarith
  have hx : (t : ℝ) / S ≤ 8 / 5 := by
    rw [div_le_div_iff₀ hS' (by norm_num)]
    have : ((5 * t : Nat) : ℝ) ≤ (8 * S : Nat) := by exact_mod_cast ht
    push_cast at this
    linarith
  have hx0 : (0 : ℝ) ≤ t / S := by positivity
  have hsq : (t : ℝ) * t / S = (t / S) ^ 2 * S := by field_simp
  have hle : ((t * t / S : Nat) : ℝ) / S ≤ (t / S) ^ 2 := by
    have := Nat.cast_div_le (α := ℝ) (m := t * t) (n := S)
    rw [Nat.cast_mul, hsq] at this
    rwa [div_le_iff₀ hS']
  have hge : ((t : ℝ) / S) ^ 2 ≤ ((t * t / S : Nat) : ℝ) / S + 1 / S := by
    have := Nat.lt_floor_add_one ((t * t : Nat) / (S : Nat) : ℝ)
    rw [Nat.floor_div_eq_div, Nat.cast_mul, hsq] at this
    rw [← add_div, le_div_iff₀ hS']
    exact this.le
  generalize hy : ((t * t / S : Nat) : ℝ) / S = y at hle hge
  have hy0 : 0 ≤ y := hy ▸ by positivity
  have hquo : (term : ℝ) * y / D = (term * (t * t / S) : Nat) / (S * D : Nat) := by
    rw [← hy, Nat.cast_mul, Nat.cast_mul]
    field_simp
  have hnat : term * (t * t / S) / S / D = ⌊(term : ℝ) * y / D⌋₊ := by
    rw [hquo, Nat.floor_div_eq_div, Nat.div_div_eq_div_mul]
  rw [hnat]
  constructor
  · have hτ : 0 ≤ τ := le_trans (Nat.cast_nonneg term) h0
    refine (Nat.floor_le (by positivity)).trans ?_
    gcongr
  · have hlt := Nat.lt_floor_add_one ((term : ℝ) * y / D)
    have hgrow : τ * (t / S) ^ 2 ≤ term * y + 2 + 3 * (8 / 5) ^ 2 := by
      have h1 : τ * ((t : ℝ) / S) ^ 2 ≤ (term + 3) * (t / S) ^ 2 := mul_le_mul_of_nonneg_right h3 (by positivity)
      have h2 : (term : ℝ) * (t / S) ^ 2 ≤ term * (y + 1 / S) := mul_le_mul_of_nonneg_left hge (by positivity)
      have h3 : (term : ℝ) * (1 / S) ≤ 2 := by
        rw [mul_one_div, div_le_iff₀ hS']
        linarith
      have h4 : ((t : ℝ) / S) ^ 2 ≤ (8 / 5) ^ 2 := pow_le_pow_left₀ hx0 hx 2
      linarith
    have hdiv : τ * ((t : ℝ) / S) ^ 2 / D ≤ term * y / D + (2 + 3 * (8 / 5) ^ 2) / D := by
      rw [← add_div]
      gcongr
      linarith
    have hsmall : (2 + 3 * (8 / 5) ^ 2 : ℝ) / D ≤ 2 := by
      rw [div_le_iff₀ hDpos]
      norm_num
      linarith
    linarith

theorem sinSeries_near {t : Nat} (ht : 5 * t ≤ 8 * 2 ^ fxP) (fuel : Nat) :
    ∀ n term : Nat, (term : ℝ) ≤ 2 ^ fxP * sinTerm (t / 2 ^ fxP) n → 2 ^ fxP * sinTerm (t / 2 ^ fxP) n ≤ term + 3 →
    |2 ^ fxP * (∑ i ∈ Finset.range fuel, (-1) ^ (n + i) * sinTerm (t / 2 ^ fxP) (n + i)) - sinSeries (t * t / 2 ^ fxP) fuel n term| ≤ 3 * fuel := by
  have hx0 : (0 : ℝ) ≤ t / 2 ^ fxP := by positivity
  have hx1 : (t : ℝ) / 2 ^ fxP ≤ 8 / 5 := by
    rw [div_le_div_iff₀ (by positivity) (by norm_num)]
    have : ((5 * t : Nat) : ℝ) ≤ (8 * 2 ^ fxP : Nat) := by exact_mod_cast ht
    rw [Nat.cast_mul, Nat.cast_mul, Nat.cast_pow, Nat.cast_ofNat, Nat.cast_ofNat, Nat.cast_ofNat] at this
    linarith
  induction fuel with
  | zero => intro n term _ _; simp [sinSeries]
  | succ fuel ih =>
    intro n term h0 h3
    have htwo := sinTerm_le_two hx0 hx1 n
    have hstep := sinTerm_step (D := (2 * n + 2) * (2 * n + 3)) (by positivity) ht (by nlinarith) h0 h3 (by
      rw [Nat.cast_pow, Nat.cast_ofNat]
      nlinarith [show (0 : ℝ) < 2 ^ fxP by positivity])
    rw [Nat.cast_pow, Nat.cast_ofNat, mul_assoc, mul_div_assoc, ← sinTerm_succ] at hstep
    have hih := abs_le.mp (ih (n + 1) _ hstep.1 hstep.2)
    have hsum : ∀ f : Nat → ℝ, ∑ i ∈ Finset.range (fuel + 1), (-1 : ℝ) ^ (n + i) * f (n + i) =
        (∑ i ∈ Finset.range fuel, (-1) ^ (n + 1 + i) * f (n + 1 + i)) + (-1) ^ n * f n := by
      intro f
      rw [Finset.sum_range_succ', add_zero]
      simp only [add_assoc, add_comm 1]
    rw [sinSeries, hsum, mul_add, Int.cast_add]
    have hfirst : |2 ^ fxP * ((-1) ^ n * sinTerm (t / 2 ^ fxP) n) - ((if n % 2 = 0 then (term : Int) else -(term : Int) : Int) : ℝ)| ≤ 3 := by
      split
      · next hn =>
        rw [Even.neg_one_pow (Nat.even_iff.mpr hn), one_mul, Int.cast_natCast, abs_le]
        constructor <;> linarith
      · next hn =>
        rw [Odd.neg_one_pow (Nat.not_even_iff_odd.mp (by rwa [Nat.even_iff])), neg_one_mul, Int.cast_neg, Int.cast_natCast, abs_le]
        constructor <;> linarith
    have hf := abs_le.mp hfirst
    rw [abs_le, Nat.cast_succ]
    constructor <;> linarith [hih.1, hih.2, hf.1, hf.2]

theorem sinSeries_near_sin {t : Nat} (ht : 5 * t ≤ 8 * 2 ^ fxP) :
    |2 ^ fxP * Real.sin (t / 2 ^ fxP) - sinSeries (t * t / 2 ^ fxP) 50 0 t| ≤ 151 := by
  have hone : 2 ^ fxP * sinTerm ((t : ℝ) / 2 ^ fxP) 0 = t := by
    simp only [sinTerm, mul_zero, zero_add, pow_one, Nat.factorial_one, Nat.cast_one, div_one]
    rw [mul_div_cancel₀ _ (by positivity)]
  have hseries := abs_le.mp (sinSeries_near ht 50 0 t hone.ge (by linarith))
  have hx1 : (t : ℝ) / 2 ^ fxP ≤ 8 / 5 := by
    rw [div_le_div_iff₀ (by positivity) (by norm_num)]
    have : ((5 * t : Nat) : ℝ) ≤ (8 * 2 ^ fxP : Nat) := by exact_mod_cast ht
    rw [Nat.cast_mul, Nat.cast_mul, Nat.cast_pow, Nat.cast_ofNat, Nat.cast_ofNat, Nat.cast_ofNat] at this
    linarith
  have hsum := abs_le.mp (sin_near_sum (x := t / 2 ^ fxP) (by positivity) hx1)
  simp only [zero_add] at hseries
  rw [Nat.cast_ofNat] at hseries
  rw [abs_le]
  constructor <;> linarith [hseries.1, hseries.2, hsum.1, hsum.2]

/-! ## pi -/

/-- Between 0.4 and 0.6 the sine grows by at least a third of its argument. -/
theorem abs_sub_le_sin {a b : ℝ} (ha : 2 / 5 ≤ a ∧ a ≤ 3 / 5) (hb : 2 / 5 ≤ b ∧ b ≤ 3 / 5) : |a - b| ≤ 3 * |Real.sin a - Real.sin b| := by
  wlog hab : b ≤ a generalizing a b with h
  · rw [abs_sub_comm, abs_sub_comm (Real.sin a)]
    exact h hb ha (by linarith)
  have hpi := Real.pi_lt_d2
  have hpi3 := Real.pi_gt_three
  have hsin : 3 / 5 * ((a - b) / 2) ≤ Real.sin ((a - b) / 2) := by
    refine le_trans (mul_le_mul_of_nonneg_right ?_ (by linarith)) (Real.mul_le_sin (by linarith) (by linarith [ha.2, hb.1]))
    rw [le_div_iff₀ Real.pi_pos]
    linarith
  have hcos : 4 / 5 ≤ Real.cos ((a + b) / 2) := by
    refine le_trans ?_ (Real.one_sub_sq_div_two_le_cos)
    nlinarith [ha.1, ha.2, hb.1, hb.2]
  have hgrow : 2 * (3 / 5 * ((a - b) / 2)) * (4 / 5) ≤ Real.sin a - Real.sin b := by
    rw [Real.sin_sub_sin]
    have h0 : 0 ≤ 3 / 5 * ((a - b) / 2) := by linarith
    exact mul_le_mul (by linarith) hcos (by norm_num) (by linarith)
  rw [abs_of_nonneg (by linarith), abs_of_nonneg (by linarith)]
  linarith

theorem fxPi_le : 5 * (fxPi / 2 + 1) ≤ 8 * 2 ^ fxP := by decide +kernel

theorem fxPi_sixth : 5 * (fxPi / 6) ≤ 3 * 2 ^ fxP ∧ 2 * 2 ^ fxP ≤ 5 * (fxPi / 6) := by decide +kernel

/-- The series evaluated at a sixth of the constant gives 1/2. -/
theorem sinSeries_fxPi_sixth : sinSeries (fxPi / 6 * (fxPi / 6) / 2 ^ fxP) 50 0 (fxPi / 6) * 2 ≤ ((2 ^ fxP : Nat) : Int) ∧
    ((2 ^ fxP : Nat) : Int) ≤ (sinSeries (fxPi / 6 * (fxPi / 6) / 2 ^ fxP) 50 0 (fxPi / 6) + 9) * 2 := by decide +kernel

theorem fxPi_near : |(fxPi : ℝ) - 2 ^ fxP * Real.pi| ≤ 2900 := by
  have hS : (0 : ℝ) < 2 ^ fxP := by positivity
  obtain ⟨hr1, hr2⟩ := fxPi_sixth
  have hr1' : 5 * ((fxPi / 6 : Nat) : ℝ) ≤ 3 * 2 ^ fxP := by exact_mod_cast hr1
  have hr2' : 2 * 2 ^ fxP ≤ 5 * ((fxPi / 6 : Nat) : ℝ) := by exact_mod_cast hr2
  have hsix : ((fxPi / 6 : Nat) : ℝ) * 6 ≤ fxPi ∧ (fxPi : ℝ) ≤ (fxPi / 6 : Nat) * 6 + 6 := by
    have h1 : fxPi / 6 * 6 ≤ fxPi := Nat.div_mul_le_self _ _
    have h2 : fxPi ≤ fxPi / 6 * 6 + 6 := by omega
    exact ⟨by exact_mod_cast h1, by exact_mod_cast h2⟩
  have hseries := abs_le.mp (sinSeries_near_sin (t := fxPi / 6) (by omega))
  obtain ⟨hs1, hs2⟩ := sinSeries_fxPi_sixth
  generalize sinSeries (fxPi / 6 * (fxPi / 6) / 2 ^ fxP) 50 0 (fxPi / 6) = s at *
  have hs1' : (s : ℝ) * 2 ≤ 2 ^ fxP := by exact_mod_cast hs1
  have hs2' : 2 ^ fxP ≤ ((s : ℝ) + 9) * 2 := by exact_mod_cast hs2
  generalize fxPi / 6 = n at *
  have hlip := abs_sub_le_sin (a := n / 2 ^ fxP) (b := Real.pi / 6)
    ⟨by rw [div_le_div_iff₀ (by norm_num) hS]; linarith, by rw [div_le_div_iff₀ hS (by norm_num)]; linarith⟩
    ⟨by linarith [Real.pi_gt_three], by linarith [Real.pi_lt_d2]⟩
  rw [Real.sin_pi_div_six] at hlip
  have hscale : |(n : ℝ) - 2 ^ fxP * (Real.pi / 6)| ≤ 3 * |2 ^ fxP * Real.sin (n / 2 ^ fxP) - 2 ^ fxP * (1 / 2)| := by
    have h1 : |(n : ℝ) - 2 ^ fxP * (Real.pi / 6)| = 2 ^ fxP * |n / 2 ^ fxP - Real.pi / 6| := by
      rw [← abs_of_pos hS, ← abs_mul, abs_of_pos hS, mul_sub, mul_div_cancel₀ _ hS.ne']
    rw [h1, ← mul_sub, abs_mul, abs_of_pos hS]
    calc _ ≤ 2 ^ fxP * (3 * |Real.sin (n / 2 ^ fxP) - 1 / 2|) := mul_le_mul_of_nonneg_left hlip hS.le
      _ = _ := by ring
  have hnear : |2 ^ fxP * Real.sin (n / 2 ^ fxP) - 2 ^ fxP * (1 / 2)| ≤ 160 := by
    rw [abs_le]
    constructor <;> linarith [hseries.1, hseries.2]
  have h := abs_le.mp (hscale.trans (mul_le_mul_of_nonneg_left hnear (by norm_num)))
  rw [abs_le]
  constructor <;> linarith [h.1, h.2, hsix.1, hsix.2]

end Sys2Proof.Machine
end

section
/-!
`fsinpi` and `fcospi` (05:R146), put together; then every function.
-/

namespace Sys2Proof.Machine

variable {m : Nat}

theorem fxSinPi_near {r : Nat} (h : 2 * r ≤ 2 ^ fxP) : |2 ^ fxP * Real.sin (Real.pi * (r / 2 ^ fxP)) - fxSinPi r| ≤ 1700 := by
  have hS : (0 : ℝ) < 2 ^ fxP := by positivity
  have hr : (r : ℝ) / 2 ^ fxP ≤ 1 / 2 := by
    rw [div_le_div_iff₀ hS (by norm_num)]
    have : ((2 * r : Nat) : ℝ) ≤ (2 ^ fxP : Nat) := by exact_mod_cast h
    rw [Nat.cast_mul, Nat.cast_pow, Nat.cast_ofNat] at this
    linarith
  have hr0 : (0 : ℝ) ≤ r / 2 ^ fxP := by positivity
  set t := fxPi * r / 2 ^ fxP with ht
  have htle : t ≤ fxPi / 2 := by
    rw [Nat.le_div_iff_mul_le two_pos, mul_comm]
    refine (Nat.mul_div_le_mul_div_assoc 2 _ _).trans (Nat.div_le_of_le_mul ?_)
    calc 2 * (fxPi * r) = fxPi * (2 * r) := by ring
      _ ≤ fxPi * 2 ^ fxP := Nat.mul_le_mul_left _ h
      _ = 2 ^ fxP * fxPi := mul_comm _ _
  have hseries := abs_le.mp (sinSeries_near_sin (t := t) (by have := fxPi_le; omega))
  have hfloor : (t : ℝ) ≤ fxPi * (r / 2 ^ fxP) ∧ (fxPi : ℝ) * (r / 2 ^ fxP) ≤ t + 1 := by
    have hcast : (fxPi : ℝ) * (r / 2 ^ fxP) = ((fxPi * r : Nat) : ℝ) / ((2 ^ fxP : Nat) : ℝ) := by
      rw [Nat.cast_mul, Nat.cast_pow, Nat.cast_ofNat, mul_div_assoc]
    rw [hcast, ht]
    refine ⟨Nat.cast_div_le, ?_⟩
    rw [← Nat.floor_div_eq_div (K := ℝ)]
    exact (Nat.lt_floor_add_one _).le
  have hprod : |((fxPi : ℝ) - 2 ^ fxP * Real.pi) * (r / 2 ^ fxP)| ≤ 2900 * (1 / 2) := by
    rw [abs_mul, abs_of_nonneg hr0]
    exact mul_le_mul fxPi_near hr hr0 (by norm_num)
  have hp := abs_le.mp hprod
  have harg : |(t : ℝ) - 2 ^ fxP * (Real.pi * (r / 2 ^ fxP))| ≤ 1451 := by
    rw [abs_le]
    constructor <;> linarith [hp.1, hp.2, hfloor.1, hfloor.2]
  have hlip : |2 ^ fxP * Real.sin (t / 2 ^ fxP) - 2 ^ fxP * Real.sin (Real.pi * (r / 2 ^ fxP))| ≤ 1451 := by
    have h1 : 2 ^ fxP * |t / 2 ^ fxP - Real.pi * (r / 2 ^ fxP)| = |(t : ℝ) - 2 ^ fxP * (Real.pi * (r / 2 ^ fxP))| := by
      rw [← abs_of_pos hS, ← abs_mul, abs_of_pos hS, mul_sub, mul_div_cancel₀ _ hS.ne']
    rw [← mul_sub, abs_mul, abs_of_pos hS]
    refine (mul_le_mul_of_nonneg_left (Real.abs_sin_sub_sin_le _ _) hS.le).trans ?_
    rw [h1]
    exact harg
  have hl := abs_le.mp hlip
  have hsin : 0 ≤ 2 ^ fxP * Real.sin (Real.pi * (r / 2 ^ fxP)) :=
    mul_nonneg hS.le (Real.sin_nonneg_of_nonneg_of_le_pi (by positivity) (by nlinarith [Real.pi_pos]))
  have hdef : fxSinPi r = (sinSeries (t * t / 2 ^ fxP) 50 0 t).toNat := rfl
  rw [hdef]
  generalize sinSeries (t * t / 2 ^ fxP) 50 0 t = s at *
  rcases le_total 0 s with hs | hs
  · obtain ⟨n, rfl⟩ := Int.eq_ofNat_of_zero_le hs
    rw [Int.toNat_natCast]
    rw [Int.cast_natCast] at hseries
    rw [abs_le]
    constructor <;> linarith [hseries.1, hseries.2, hl.1, hl.2]
  · have hs' : (s : ℝ) ≤ 0 := by exact_mod_cast hs
    rw [Int.toNat_of_nonpos hs, Nat.cast_zero, abs_le]
    constructor <;> linarith [hseries.1, hseries.2, hl.1, hl.2]

/-! ## Which sines are irrational -/

/-- A fraction of a power of 2 that is no whole number of halves has a denominator of at least 4. -/
theorem den_gt_three {q : ℚ} {n : Nat} {z : Int} (hq : q * 2 ^ n = z) (h : ∀ i : Int, q ≠ i / 2) : 3 < q.den := by
  have hdvd : q.den ∣ 2 ^ n := by
    have hq' : q = Rat.divInt z (2 ^ n : Nat) := by
      rw [Rat.divInt_eq_div, ← hq]
      push_cast
      field_simp
    have := Rat.den_dvd z (2 ^ n : Nat)
    rw [← hq'] at this
    exact_mod_cast this
  obtain ⟨j, -, hj⟩ := (Nat.dvd_prime_pow Nat.prime_two).mp hdvd
  rcases j with _ | _ | j
  · exact absurd (val_of_den_one hj) (h _)
  · exact absurd (val_of_den_two hj).1 (h _)
  · rw [hj]
    calc 3 < 2 ^ 2 := by norm_num
      _ ≤ 2 ^ (j + 1 + 1) := Nat.pow_le_pow_right two_pos (by omega)

theorem irrational_sin_pi {q : ℚ} {n : Nat} {z : Int} (hq : q * 2 ^ (n + 1) = z) (h : ∀ i : Int, q ≠ i / 2) : Irrational (Real.sin (Real.pi * q)) := by
  have hden : 3 < (1 / 2 - q).den := by
    refine den_gt_three (n := n + 1) (z := 2 ^ n - z) ?_ ?_
    · push_cast
      rw [← hq, pow_succ]
      ring
    · intro i hi
      refine h (1 - i) ?_
      push_cast
      linarith
  have hcos := irrational_cos_rat_mul_pi hden
  have harg : ((1 / 2 - q : ℚ) : ℝ) * Real.pi = Real.pi / 2 - Real.pi * q := by
    push_cast
    ring
  rwa [harg, Real.cos_pi_div_two_sub] at hcos

/-! ## Bringing the argument into the first quarter -/

/-- The argument within (0, 1/2), and whether the sine is negative, for an argument that is no whole number of halves. -/
structure SinReduced (S : Nat) (z : Int) (neg : Bool) (r : Nat) : Prop where
  pos : 0 < r
  le : 2 * r ≤ S
  grid : ∀ d : Nat, (d : Int) ∣ S → (d : Int) ∣ z → d ∣ r
  sin : ∃ t : ℝ, t = Real.sin (Real.pi * (r / S)) ∧ Real.sin (Real.pi * (z / S)) = if neg then -t else t

/-- As `sinPiDyadic` reduces its argument. -/
def sinPiArg (S : Nat) (z : Int) : Bool × Nat :=
  let r := (z.emod (2 * S : Nat)).toNat
  let neg : Bool := r ≥ S
  let r := if neg then r - S else r
  (neg, if 2 * r > S then S - r else r)

theorem sin_pi_whole_turns {S r : Nat} {z q : Int} (hS : 0 < S) (hz : z = q * (2 * S : Nat) + r) :
    Real.sin (Real.pi * (z / S)) = Real.sin (Real.pi * (r / S)) := by
  have hS' : (0 : ℝ) < S := by exact_mod_cast hS
  have harg : Real.pi * ((z : ℝ) / S) = Real.pi * (r / S) + q * (2 * Real.pi) := by
    rw [hz]
    push_cast
    field_simp
    ring
  rw [harg, Real.sin_add_int_mul_two_pi]

theorem sin_pi_half_turn {S r : Nat} (hS : 0 < S) (hge : S ≤ r) :
    Real.sin (Real.pi * (r / S)) = -Real.sin (Real.pi * ((r - S : Nat) / S)) := by
  have hS' : (0 : ℝ) < S := by exact_mod_cast hS
  have harg : Real.pi * ((r : ℝ) / S) = Real.pi * (((r - S : Nat) : ℝ) / S) + Real.pi := by
    rw [Nat.cast_sub hge]
    field_simp
    ring
  rw [harg, Real.sin_add_pi]

theorem sin_pi_mirror {S r : Nat} (hS : 0 < S) (hle : r ≤ S) : Real.sin (Real.pi * ((S - r : Nat) / S)) = Real.sin (Real.pi * (r / S)) := by
  have hS' : (0 : ℝ) < S := by exact_mod_cast hS
  have harg : Real.pi * (((S - r : Nat) : ℝ) / S) = Real.pi - Real.pi * (r / S) := by
    rw [Nat.cast_sub hle]
    field_simp
  rw [harg, Real.sin_pi_sub]

/-- An argument in the first half turn is brought into the first quarter. -/
theorem mirror_reduced {S r : Nat} {z : Int} {neg : Bool} (hS : 0 < S) (hr : 0 < r) (hlt : r < S)
    (hgrid : ∀ d : Nat, (d : Int) ∣ S → (d : Int) ∣ z → d ∣ r)
    (hsin : Real.sin (Real.pi * (z / S)) = if neg then -Real.sin (Real.pi * (r / S)) else Real.sin (Real.pi * (r / S))) :
    SinReduced S z neg (if 2 * r > S then S - r else r) := by
  split
  · exact ⟨by omega, by omega, fun d hdS hdz => Nat.dvd_sub (by exact_mod_cast hdS) (hgrid d hdS hdz), _, rfl, by rw [sin_pi_mirror hS hlt.le, hsin]⟩
  · exact ⟨hr, by omega, hgrid, _, rfl, hsin⟩

theorem sinPiArg_reduced {S : Nat} {z : Int} (hS : 0 < S) (h : ∀ i : Int, 2 * z ≠ i * S) : SinReduced S z (sinPiArg S z).1 (sinPiArg S z).2 := by
  obtain ⟨r, hr⟩ := Int.eq_ofNat_of_zero_le (Int.emod_nonneg z (by omega : ((2 * S : Nat) : Int) ≠ 0))
  have hlt : r < 2 * S := by
    have := Int.emod_lt_of_pos z (by omega : (0 : Int) < (2 * S : Nat))
    omega
  have hz : z = z / (2 * S : Nat) * (2 * S : Nat) + r := by
    have := Int.mul_ediv_add_emod z (2 * S : Nat)
    rw [hr, mul_comm] at this
    exact this.symm
  generalize z / (2 * S : Nat) = q at hz
  have hhalf : ∀ i : Nat, 2 * r ≠ i * S := by
    intro i hi
    refine h (i + 4 * q) ?_
    have : ((2 * r : Nat) : Int) = (i * S : Nat) := by rw [hi]
    push_cast at this
    rw [hz]
    push_cast
    linarith
  have hgrid : ∀ d : Nat, (d : Int) ∣ S → (d : Int) ∣ z → d ∣ r := by
    intro d hdS hdz
    have h1 : (d : Int) ∣ q * (2 * S : Nat) := by
      push_cast
      exact (hdS.mul_left 2).mul_left q
    have h2 : (d : Int) ∣ r := (dvd_add_right h1).mp (hz ▸ hdz)
    exact_mod_cast h2
  have hsin := sin_pi_whole_turns hS hz
  have h0 := hhalf 0
  have h2 := hhalf 2
  unfold sinPiArg
  rw [show z.emod (2 * S : Nat) = r from hr, Int.toNat_natCast]
  dsimp only
  by_cases hge : r ≥ S
  · rw [decide_eq_true hge, if_pos rfl]
    refine mirror_reduced hS (by omega) (by omega) (fun d hdS hdz => Nat.dvd_sub (hgrid d hdS hdz) (by exact_mod_cast hdS)) ?_
    rw [hsin, sin_pi_half_turn hS hge, if_pos rfl]
  · rw [decide_eq_false hge, if_neg Bool.false_ne_true]
    exact mirror_reduced hS (by omega) (by omega) hgrid (hsin.trans (if_neg Bool.false_ne_true).symm)

theorem sinPiDyadic_eq (m : Nat) (z : Int) :
    sinPiDyadic m z = roundSticky m (sinPiArg (2 ^ fxP) z).1 (fxSinPi (sinPiArg (2 ^ fxP) z).2) fxP := by
  have hhalf : ∀ r : Nat, r > 2 ^ (fxP - 1) ↔ 2 * r > 2 ^ fxP := by
    intro r
    rw [show fxP = fxP - 1 + 1 from rfl, pow_succ', Nat.add_sub_cancel]
    omega
  unfold sinPiDyadic sinPiArg
  rw [pow_succ']
  simp only [hhalf, decide_eq_true_eq]

theorem sinPiDyadic_rounds {z : Int} {q : ℚ} (hq : q * 2 ^ fxP = z) (h : ∀ i : Int, q ≠ i / 2) (hgrid : ((2 ^ 171 : Nat) : Int) ∣ z) (neg : Bool)
    (hneg : neg = true ↔ Real.sin (Real.pi * q) < 0) : Rounds32 m neg (1 / 2 ^ 150) |Real.sin (Real.pi * q)| (sinPiDyadic m z) := by
  have hS : (0 : ℝ) < 2 ^ fxP := by positivity
  have hirr : Irrational (Real.sin (Real.pi * q)) := irrational_sin_pi (n := fxP - 1) hq h
  have hqz : (q : ℝ) = z / (2 ^ fxP : Nat) := by
    rw [Nat.cast_pow, Nat.cast_ofNat, eq_div_iff hS.ne']
    exact_mod_cast hq
  have hred := sinPiArg_reduced (S := 2 ^ fxP) (z := z) (by positivity) (by
    intro i hi
    refine h i ?_
    have : (2 : ℚ) * z = i * 2 ^ fxP := by exact_mod_cast hi
    rw [← hq, ← mul_assoc, mul_left_inj' (by positivity)] at this
    linarith)
  rw [sinPiDyadic_eq]
  generalize (sinPiArg (2 ^ fxP) z).1 = neg' at *
  generalize (sinPiArg (2 ^ fxP) z).2 = r at *
  obtain ⟨t, ht, hsin⟩ := hred.sin
  rw [← hqz] at hsin
  have hnear := fxSinPi_near hred.le
  rw [Nat.cast_pow, Nat.cast_ofNat] at ht
  rw [← ht] at hnear
  have hr : 2 ^ 171 ≤ r := Nat.le_of_dvd hred.pos (hred.grid _ (by exact_mod_cast pow_dvd_pow 2 (by decide)) hgrid)
  have hr' : (2 : ℝ) ^ 171 ≤ r := by exact_mod_cast hr
  have hle : (r : ℝ) / 2 ^ fxP ≤ 1 / 2 := by
    rw [div_le_div_iff₀ hS (by norm_num)]
    have : ((2 * r : Nat) : ℝ) ≤ (2 ^ fxP : Nat) := by exact_mod_cast hred.le
    rw [Nat.cast_mul, Nat.cast_pow, Nat.cast_ofNat] at this
    linarith
  -- Jordan: the sine is at least twice its argument in half turns
  have hjordan : 2 * (r : ℝ) ≤ 2 ^ fxP * t := by
    have := Real.mul_le_sin (x := Real.pi * (r / 2 ^ fxP)) (by positivity) (by nlinarith [Real.pi_pos])
    rw [← ht] at this
    calc 2 * (r : ℝ) = 2 ^ fxP * (2 / Real.pi * (Real.pi * (r / 2 ^ fxP))) := by field_simp
      _ ≤ 2 ^ fxP * t := mul_le_mul_of_nonneg_left this hS.le
  have htpos : 0 < t := by
    by_contra hnot
    have : 2 ^ fxP * t ≤ 0 := mul_nonpos_of_nonneg_of_nonpos hS.le (not_lt.mp hnot)
    linarith [show (0 : ℝ) < 2 ^ 171 by positivity]
  have hsign : neg = neg' ∧ |Real.sin (Real.pi * q)| = t ∧ Irrational t := by
    rw [hsin] at hneg hirr ⊢
    cases neg' with
    | true =>
      rw [if_pos rfl] at *
      exact ⟨hneg.mpr (by linarith), by rw [abs_neg, abs_of_pos htpos], by simpa using hirr.neg⟩
    | false =>
      rw [if_neg (by simp)] at *
      refine ⟨?_, abs_of_pos htpos, hirr⟩
      rw [← Bool.not_eq_true, hneg]
      exact not_lt.mpr htpos.le
  obtain ⟨rfl, habs, hirrt⟩ := hsign
  rw [habs]
  have hn := abs_le.mp hnear
  refine Rounds32.of_sticky (c := 1700) hirrt ?_ ?_ ?_
  · rw [zpow_natCast]
    push_cast
    linarith [hn.1]
  · rw [zpow_natCast]
    push_cast
    linarith [hn.2]
  · have hnum : ((1700 : ℝ) + 1) * 2 ^ 150 + 3400 ≤ 2 * 2 ^ 171 := by norm_num
    have : ((1700 : ℝ) + 1) * 2 ^ 150 + 1700 ≤ fxSinPi r := by linarith [hn.2]
    exact_mod_cast this

/-! ## The functions -/

theorem fxOf_grid {a : Nat} {s : Bool} {p : Nat} {e : Int} (h : unpack 0 a = .fin s p e) : ((2 ^ 171 : Nat) : Int) ∣ fxOf s p e := by
  have he : -149 ≤ e := ((by decide : (-149 : Int) ≤ (fmtP 0).emin - (fmtP 0).mb)).trans (unpack_fin h).2.1
  have hexp : 171 ≤ (e + fxP).toNat := by
    have : (fxP : Int) = 320 := rfl
    omega
  have hdvd : ((2 ^ 171 : Nat) : Int) ∣ (p * 2 ^ (e + fxP).toNat : Nat) := by
    exact_mod_cast (pow_dvd_pow 2 hexp).mul_left p
  unfold fxOf
  dsimp only
  split
  · exact (dvd_neg).mpr hdvd
  · exact hdvd

theorem fSinPi_dyadic {a : Nat} {s : Bool} {p : Nat} {e : Int} (h : unpack 0 a = .fin s p e) (hz : (fxOf s p e).emod ((2 ^ (fxP - 1) : Nat) : Int) ≠ 0) :
    fSinPi m a = sinPiDyadic m (fxOf s p e) := by
  unfold fSinPi
  rw [h]
  exact if_neg hz

theorem fCosPi_dyadic {a : Nat} {s : Bool} {p : Nat} {e : Int} (h : unpack 0 a = .fin s p e) (hz : (fxOf s p e).emod ((2 ^ (fxP - 1) : Nat) : Int) ≠ 0) :
    fCosPi m a = sinPiDyadic m (fxOf s p e + (2 ^ (fxP - 1) : Nat)) := by
  unfold fCosPi
  rw [h]
  exact if_neg hz

/-- The value is no whole number of halves when its fixed-point integer is no multiple of a half. -/
theorem ne_halves {q : ℚ} {z : Int} (hz : (z : ℚ) = q * 2 ^ fxP) (h : z.emod ((2 ^ (fxP - 1) : Nat) : Int) ≠ 0) (i : Int) : q ≠ i / 2 := by
  intro hq
  refine h ?_
  rw [halves_of_den hz hq, Nat.cast_pow, Nat.cast_ofNat]
  exact Int.mul_emod_left _ _

theorem halves_of_emod {q : ℚ} {z : Int} (hz : (z : ℚ) = q * 2 ^ fxP) (h : z.emod ((2 ^ (fxP - 1) : Nat) : Int) = 0) :
    ∃ n : Int, z = n * 2 ^ (fxP - 1) ∧ q = n / 2 := by
  obtain ⟨n, hn⟩ := Int.dvd_of_emod_eq_zero h
  rw [Nat.cast_pow, Nat.cast_ofNat, mul_comm] at hn
  refine ⟨n, hn, ?_⟩
  rw [hn, show fxP = fxP - 1 + 1 from rfl, pow_succ, Nat.add_sub_cancel] at hz
  push_cast at hz
  have hpos : (2 : ℚ) ^ (fxP - 1) ≠ 0 := by positivity
  rw [eq_div_iff (by norm_num), ← mul_left_inj' hpos, hz]
  ring

theorem Rounds32.of_one (hm : m ≤ 4) {neg : Bool} {x : ℝ} {eps : ℚ} (hx : x = 1 ∨ x = -1) (hneg : neg = true ↔ x < 0) :
    Rounds32 m neg eps |x| (if neg then 0xbf80_0000 else 0x3f80_0000, 0#5) := by
  rw [← round32_one hm]
  refine Rounds32.of_rat ?_
  rcases hx with rfl | rfl <;> simp

theorem cos_pi_halves {n : Int} (h : n % 2 = 0) : Real.cos (Real.pi * (n / 2)) = if n % 4 = 0 then 1 else -1 := by
  split
  · next h4 =>
    obtain ⟨k, rfl⟩ : ∃ k, n = 4 * k := ⟨n / 4, by omega⟩
    rw [← Real.cos_int_mul_two_pi k]
    congr 1
    push_cast
    ring
  · next h4 =>
    obtain ⟨k, rfl⟩ : ∃ k, n = 4 * k + 2 := ⟨n / 4, by omega⟩
    rw [← Real.cos_pi, ← Real.cos_add_int_mul_two_pi Real.pi k]
    congr 1
    push_cast
    ring

theorem sin_pi_halves {n : Int} (h : n % 2 = 1) : Real.sin (Real.pi * (n / 2)) = if n % 4 = 1 then 1 else -1 := by
  have harg : Real.pi * ((n : ℝ) / 2) = Real.pi * (((n - 1 : Int) : ℝ) / 2) + Real.pi / 2 := by
    push_cast
    ring
  rw [harg, Real.sin_add_pi_div_two, cos_pi_halves (by omega)]
  congr 1
  exact propext (by omega)

theorem fSinPi_rounds (hm : m ≤ 4) {a : Nat} (hfin : (unpack 0 a).isFin = true) (hden : (unpack 0 a).val.den ≠ 1) (neg : Bool)
    (hneg : neg = true ↔ Real.sin (Real.pi * ((unpack 0 a).val : ℚ)) < 0) :
    Rounds32 m neg (1 / 2 ^ 150) |Real.sin (Real.pi * ((unpack 0 a).val : ℚ))| (fSinPi m a) := by
  obtain ⟨s, p, e, h⟩ := FVal.isFin_iff.mp hfin
  have hz := fxOf_eq h
  by_cases hhalf : (fxOf s p e).emod ((2 ^ (fxP - 1) : Nat) : Int) = 0
  · obtain ⟨n, hn, hq⟩ := halves_of_emod hz hhalf
    have hodd : n % 2 = 1 := by
      by_contra heven
      obtain ⟨j, rfl⟩ : ∃ j, n = 2 * j := ⟨n / 2, by omega⟩
      refine hden ?_
      rw [hq, Int.cast_mul, Int.cast_ofNat, mul_div_cancel_left₀ _ (by norm_num), Rat.den_intCast]
    have hsin : Real.sin (Real.pi * ((unpack 0 a).val : ℚ)) = if n % 4 = 1 then 1 else -1 := by
      rw [← sin_pi_halves hodd, hq]
      push_cast
      rfl
    have hdef : fSinPi m a = (if neg then 0xbf80_0000 else 0x3f80_0000, 0#5) := by
      rw [fSinPi_halves m h hn]
      rw [hsin] at hneg
      by_cases h1 : n % 4 = 1
      · rw [if_pos h1] at hneg ⊢
        rw [if_neg (by rw [hneg]; norm_num)]
      · rw [if_neg h1] at hneg ⊢
        rw [if_pos (by omega), if_pos (hneg.mpr (by norm_num))]
    rw [hdef]
    refine Rounds32.of_one hm ?_ hneg
    rw [hsin]
    split <;> simp
  · rw [fSinPi_dyadic h hhalf]
    exact sinPiDyadic_rounds hz.symm (ne_halves hz hhalf) (fxOf_grid h) neg hneg

theorem fCosPi_rounds (hm : m ≤ 4) {a : Nat} (hfin : (unpack 0 a).isFin = true) (hden : (unpack 0 a).val.den ≠ 2) (neg : Bool)
    (hneg : neg = true ↔ Real.cos (Real.pi * ((unpack 0 a).val : ℚ)) < 0) :
    Rounds32 m neg (1 / 2 ^ 150) |Real.cos (Real.pi * ((unpack 0 a).val : ℚ))| (fCosPi m a) := by
  obtain ⟨s, p, e, h⟩ := FVal.isFin_iff.mp hfin
  have hz := fxOf_eq h
  by_cases hhalf : (fxOf s p e).emod ((2 ^ (fxP - 1) : Nat) : Int) = 0
  · obtain ⟨n, hn, hq⟩ := halves_of_emod hz hhalf
    have heven : n % 2 = 0 := by
      by_contra hodd
      refine hden ?_
      rw [hq]
      have hodd' : n % 2 = 1 := by omega
      have hden2 := Rat.den_div_eq_of_coprime (a := n) (b := 2) (by norm_num) (Nat.coprime_two_right.mpr (Int.natAbs_odd.mpr (Int.odd_iff.mpr hodd')))
      exact_mod_cast hden2
    have hcos : Real.cos (Real.pi * ((unpack 0 a).val : ℚ)) = if n % 4 = 0 then 1 else -1 := by
      rw [← cos_pi_halves heven, hq]
      push_cast
      rfl
    have hdef : fCosPi m a = (if neg then 0xbf80_0000 else 0x3f80_0000, 0#5) := by
      rw [fCosPi_halves m h hn]
      rw [hcos] at hneg
      by_cases h1 : n % 4 = 0
      · rw [if_pos h1] at hneg ⊢
        rw [if_neg (by rw [hneg]; norm_num)]
      · rw [if_neg h1] at hneg ⊢
        rw [if_pos (by omega), if_pos (hneg.mpr (by norm_num))]
    rw [hdef]
    refine Rounds32.of_one hm ?_ hneg
    rw [hcos]
    split <;> simp
  · have hcos : Real.cos (Real.pi * ((unpack 0 a).val : ℚ)) = Real.sin (Real.pi * (((unpack 0 a).val + 1 / 2 : ℚ) : ℝ)) := by
      push_cast
      rw [mul_add, mul_one_div, Real.sin_add_pi_div_two]
    rw [hcos] at hneg ⊢
    rw [fCosPi_dyadic h hhalf]
    refine sinPiDyadic_rounds ?_ ?_ ?_ neg hneg
    · rw [Int.cast_add, hz, add_mul, show fxP = fxP - 1 + 1 from rfl, pow_succ, Nat.add_sub_cancel]
      push_cast
      ring
    · intro i hi
      refine ne_halves hz hhalf (i - 1) ?_
      push_cast
      linarith
    · exact dvd_add (fxOf_grid h) (by exact_mod_cast pow_dvd_pow 2 (by decide))

theorem fSqrt_rounds {a p : Nat} {e : Int} (h : unpack 0 a = .fin false p e) (hp : 0 < p) :
    Rounds32 m false 0 (Real.sqrt ((unpack 0 a).val : ℚ)) (fSqrt m a) ∧ Rounds32 m false 0 (1 / Real.sqrt ((unpack 0 a).val : ℚ)) (fRsq m a) := by
  have hb : p < 2 ^ 24 := (unpack_fin h).1
  have hval : (((unpack 0 a).val : ℚ) : ℝ) = p * 2 ^ e := by
    rw [h, FVal.val_fin]
    push_cast
    rfl
  have hsqrt : fSqrt m a = sqrtPos m p e := by
    unfold fSqrt
    rw [h]
    exact (if_neg hp.ne').trans (if_neg Bool.false_ne_true)
  have hrsq : fRsq m a = rsqrtPos m p e := by
    unfold fRsq
    rw [h]
    exact (if_neg hp.ne').trans (if_neg Bool.false_ne_true)
  rw [hval, hsqrt, hrsq]
  exact ⟨sqrtPos_rounds m hp hb, rsqrtPos_rounds m hp hb⟩

/-- A positive finite value has the sign clear and a mantissa. -/
theorem unpack_of_val_pos {a : Nat} (hfin : (unpack 0 a).isFin = true) (hpos : 0 < (unpack 0 a).val) : ∃ p e, unpack 0 a = .fin false p e ∧ 0 < p := by
  obtain ⟨s, p, e, h⟩ := FVal.isFin_iff.mp hfin
  rw [h, FVal.val_fin] at hpos
  cases s with
  | true =>
    rw [if_pos rfl] at hpos
    exact absurd hpos (not_lt.mpr (neg_nonpos.mpr (by positivity)))
  | false =>
    refine ⟨p, e, h, Nat.pos_of_ne_zero ?_⟩
    rintro rfl
    simp at hpos

theorem functionsAreRoundedOnce : Says.FunctionsAreRoundedOnce := by
  intro m a hm hfin
  dsimp only
  obtain ⟨s, p, e, h⟩ := FVal.isFin_iff.mp hfin
  refine ⟨fun hpos => ?_, fExp2_rounds hm h, fun hpos _ => ?_, fSinPi_rounds hm hfin, fCosPi_rounds hm hfin⟩
  · obtain ⟨p, e, h, hp⟩ := unpack_of_val_pos hfin hpos
    exact fSqrt_rounds h hp
  · obtain ⟨p, e, h, hp⟩ := unpack_of_val_pos hfin hpos
    exact fLog2_rounds h hp

/-- Settles O17: each fixed-point computation stays within a few units of 2^-320 of the exact value, so it rounds as that value does. -/
theorem functionsAreTheExactValueRounded : Obligations.FunctionsAreTheExactValueRounded :=
  ⟨functionsAreRoundedOnce, functionSpecialCases⟩

end Sys2Proof.Machine
end

section
/-!
Wide accumulators (05:R143 to R145, 11:R294): what the words on a slot do to the bytes that the gang's chunk reads, lane after lane.
-/

namespace Sys2Proof.Machine

/-! ## Checks that pass -/

theorem verdict_pass {cs : List LaneChk} (h : ∀ c ∈ cs, ∃ p, c.chk = .ok p) : verdict cs = .pass := by
  unfold verdict
  cases hm : minBy (fun c : LaneChk => c.chk.row) cs with
  | none => rfl
  | some c =>
    obtain ⟨p, hp⟩ := h c (minBy_mem hm)
    simp only [hp]

theorem checked_pass {s : State} {cs : List LaneChk} (h : ∀ c ∈ cs, ∃ p, c.chk = .ok p) (wr : Bool) (k : State → State) :
    s.checked cs wr k = k s := by
  unfold State.checked
  rw [verdict_pass h]

section
variable {s : State} {lanes : List Nat} {va : Nat → Nat} {size : Nat} {wr : Bool} {kind : AccKind} {pl : Nat → Place}
  (h : ∀ l ∈ lanes, s.check (ckOfGk s.cur) (va l) size wr kind s.regs.tr.tlvl = .ok (pl l))
include h

theorem laneChks_ok : ∀ c ∈ s.laneChks lanes va size wr kind, ∃ p, c.chk = .ok p := by
  intro c hc
  obtain ⟨l, hl, rfl⟩ := List.mem_map.mp hc
  exact ⟨pl l, h l hl⟩

theorem placesOf_laneChks : placesOf (s.laneChks lanes va size wr kind) = lanes.map (fun l => (l, va l, pl l)) := by
  unfold placesOf State.laneChks
  rw [List.filterMap_map, ← List.filterMap_eq_map]
  refine List.filterMap_congr fun l hl => ?_
  simp only [Function.comp_apply, h l hl]

end

/-! ## Room in the chunk -/

theorem addSet_nodup (ys : List Nat) : ∀ xs : List Nat, xs.Nodup → (addSet xs ys).Nodup := by
  induction ys with
  | nil => exact fun xs h => h
  | cons y ys ih =>
    intro xs h
    refine ih _ ?_
    split
    · exact h
    · next hc => exact List.nodup_append.mpr ⟨h, List.nodup_singleton y, by simpa using fun a ha e => hc (by simpa [← e] using ha)⟩

theorem mem_foldl_addSet {α : Type} (f : α → List Nat) (es : List α) (acc : List Nat) (m : Nat) :
    m ∈ es.foldl (fun acc e => addSet acc (f e)) acc ↔ m ∈ acc ∨ ∃ e ∈ es, m ∈ f e := by
  induction es generalizing acc with
  | nil => simp
  | cons e es ih =>
    rw [List.foldl_cons, ih, mem_addSet]
    simp only [List.mem_cons, exists_eq_or_imp, or_assoc]

theorem sectorRoom_of_few {s : State} {secs all : List Nat} (hn : (s.gang s.cur).ch.wsec.Nodup) (hsub : ∀ m ∈ secs, m ∈ all)
    (hlen : (all ++ s.wrote).dedup.length ≤ 64) (k : State → State) : s.sectorRoom secs k = k s := by
  have hroom : (s.gang s.cur).ch.room secs = true := by
    unfold Chunk.room Chunk.written
    rw [decide_eq_true_eq]
    refine le_trans (List.Subperm.length_le (List.subperm_of_subset (addSet_nodup _ _ (addSet_nodup _ _ hn)) ?_)) hlen
    intro m hm
    rw [mem_addSet, mem_addSet] at hm
    unfold State.wrote
    simp only [List.mem_dedup, List.mem_append]
    rcases hm with (h | h) | h
    · exact .inr (.inl h)
    · exact .inr (.inr h)
    · exact .inl (hsub m h)
  unfold State.sectorRoom
  exact if_pos hroom

/-! ## Bytes of a slot -/

theorem leBytes_eq_map (n : Nat) : ∀ v : Nat, leBytes n v = (List.range n).map (fun k => BitVec.ofNat 8 (v / 2 ^ (8 * k))) := by
  induction n with
  | zero => exact fun v => rfl
  | succ n ih =>
    intro v
    rw [leBytes, ih, List.range_succ_eq_map, List.map_cons, List.map_map]
    refine congrArg₂ _ (by simp) (List.map_congr_left fun k _ => ?_)
    rw [Function.comp_apply, Nat.succ_eq_add_one, Nat.mul_succ, Nat.add_comm, Nat.pow_add, Nat.div_div_eq_div_mul]

/-- The bytes that an update writes are those that the specification's slot has. -/
theorem putSlot_eq (rd : Nat → Byte) (loc : Nat) (a : Acc) :
    putSlot rd loc (a.v, a.st) = wroteBytes rd (((List.range 96).zip a.bytes).map (fun b => (loc + b.1, b.2))) := by
  have hr : List.range 96 = (List.range 80).map (fun k => k) ++ (List.range 16).map (fun k => 80 + k) := by
    rw [List.map_id', show 96 = 80 + 16 from rfl, List.range_add]
  have hst : a.st.toNat < 2 ^ 4 := a.st.isLt
  unfold putSlot Acc.bytes
  rw [leBytes_eq_map, leBytes_eq_map, hr, List.zip_append (by simp), List.zip_map', List.zip_map', List.map_append, List.map_map, List.map_map]
  refine congrArg _ (congrArg₂ _ (List.map_congr_left fun k _ => ?_) (List.map_congr_left fun k _ => ?_))
  · refine Prod.ext rfl (BitVec.eq_of_toNat_eq ?_)
    simp [Nat.shiftRight_eq_div_pow]
  · refine Prod.ext (by simp [Nat.add_assoc]) (BitVec.eq_of_toNat_eq ?_)
    by_cases hk : k = 0
    · simp [hk]
    · have h0 : a.st.toNat / 2 ^ (8 * k) = 0 :=
        Nat.div_eq_of_lt (hst.trans_le (Nat.pow_le_pow_right two_pos (by omega)))
      simp [hk, h0]

/-! ## What the chunk reads -/

theorem chByte_eq (s : State) (gk loc : Nat) : s.chByte gk loc = ((s.gang gk).ch.byte loc).getD (s.rdByte (s.keyNo (s.gangCx gk)) loc) := by
  unfold State.chByte
  cases (s.gang gk).ch.byte loc <;> rfl

/-- Buffered writes are seen one after the other, before what was there. -/
theorem find_buffered (ws buf : List (Nat × Byte)) (rd : Nat → Byte) (loc : Nat) :
    (((ws.reverse ++ buf).find? (fun e => e.1 == loc)).map (fun e => e.2)).getD (rd loc) =
      wroteBytes (fun a => ((buf.find? (fun e => e.1 == a)).map (fun e => e.2)).getD (rd a)) ws loc := by
  induction ws generalizing buf with
  | nil => rfl
  | cons w ws ih =>
    rw [List.reverse_cons, List.append_assoc, List.singleton_append, ih]
    unfold wroteBytes
    rw [List.foldl_cons]
    refine congrFun (congrArg (fun m => ws.foldl _ m) (funext fun a => ?_)) loc
    rw [List.find?_cons]
    by_cases h : a = w.1
    · simp [h]
    · rw [if_neg h, show (w.1 == a) = false by simpa using Ne.symm h]

theorem accRead_eq (s : State) (loc : Nat) : ((s.accRead loc).v, (s.accRead loc).st) = slotAt (s.chByte s.cur) loc := rfl

/-! ## The state after some words on slots -/

/-- A state that only words on wide accumulators have changed: the bytes that the chunk reads, and flags of lanes. -/
structure AccAt (s t : State) (m : Nat → Byte) (fs : List (Nat × Flags5)) : Prop where
  frame : ∃ gangs cores, t = { s with gangs := gangs, cores := cores }
  count : (t.gang s.cur).ch.count = (s.gang s.cur).ch.count
  bytes : t.chByte s.cur = m
  regs : t.regs = s.regs.raise fs

theorem AccAt.refl (s : State) : AccAt s s (s.chByte s.cur) [] := ⟨⟨_, _, rfl⟩, rfl, rfl, rfl⟩

section
variable {s t : State} {m : Nat → Byte} {fs : List (Nat × Flags5)} (h : AccAt s t m fs)
include h

theorem AccAt.cur : t.cur = s.cur := by
  obtain ⟨_, _, ht⟩ := h.frame
  rw [ht]

theorem AccAt.mem : t.mem = s.mem := by
  obtain ⟨_, _, ht⟩ := h.frame
  rw [ht]

theorem AccAt.rdW (l n : Nat) : t.regs.rdW l n = s.regs.rdW l n := by
  rw [h.regs, Regs.rdW, raise_lane]
  rfl

/-- The unit takes on more work. -/
theorem AccAt.accBusy (n : Nat) : AccAt s (t.accBusy n) m fs := by
  obtain ⟨gangs, cores, rfl⟩ := h.frame
  exact ⟨⟨gangs, (State.accBusy _ n).cores, rfl⟩, h.count, h.bytes, h.regs⟩

/-- The gang's chunk is changed: its writes by what is buffered, and flags of lanes are raised. -/
theorem AccAt.modGang {u : Gang → Gang} {ws : List (Nat × Byte)} {fl : List (Nat × Flags5)}
    (hc : ∀ g, (u g).ch.count = g.ch.count) (hw : ∀ g, (u g).ch.wbuf = ws.reverse ++ g.ch.wbuf) (hr : ∀ g, (u g).r = g.r.raise fl) :
    AccAt s (t.modGang t.cur u) (wroteBytes m ws) (fs ++ fl) := by
  have hcur := h.cur
  obtain ⟨gangs, cores, ht⟩ := h.frame
  refine ⟨⟨tput t.gangs t.cur (u (t.gang t.cur)), cores, ?_⟩, ?_, ?_, ?_⟩
  · rw [State.modGang, State.setGang, ht]
  · rw [hcur, modGang_gang_same, hc, h.count]
  · funext loc
    rw [chByte_eq, hcur, modGang_gang_same, Chunk.byte, hw, ← h.bytes]
    refine (find_buffered ws _ (fun a => t.rdByte (t.keyNo (t.gangCx s.cur)) a) loc).trans ?_
    refine congrFun (congrArg (fun m => wroteBytes m ws) (funext fun a => ?_)) loc
    rw [chByte_eq, Chunk.byte]
  · have hregs := h.regs
    unfold State.regs at hregs ⊢
    rw [modGang_cur, modGang_gang_same, hr, hregs, Regs.raise, Regs.raise, Regs.raise, List.foldl_append]

theorem AccAt.noteRead (secs : List Nat) : AccAt s (t.modGang t.cur (fun g => g.noteRead secs)) m fs := by
  have := h.modGang (u := fun g => g.noteRead secs) (ws := []) (fl := []) (fun _ => rfl) (fun _ => rfl) (fun _ => rfl)
  rwa [List.append_nil] at this

/-- One lane's update of its slot. -/
theorem AccAt.accLane (clr : Bool) {f : AccOp} {l va : Nat} {p : Place} {z : BitVec 640 × BitVec 4} {fl : Flags5}
    (hf : ∀ a : Acc, (a.v, a.st) = slotAt m p.loc → ((f t.regs l a).1.v, (f t.regs l a).1.st) = z ∧ (f t.regs l a).2.2 = fl) :
    AccAt s (t.accLane clr f (l, va, p)) (putSlot m p.loc z) (fs ++ [(l, fl)]) := by
  obtain ⟨hz, hfl⟩ := hf (t.accRead p.loc) (by rw [accRead_eq, h.cur, h.bytes])
  unfold State.accLane
  refine AccAt.accBusy ?_ _
  rw [← hz, putSlot_eq, ← hfl]
  exact h.modGang (fun _ => rfl) (fun _ => rfl) (fun _ => rfl)

end

/-- The lanes one after the other, each of which updates its slot. -/
theorem AccAt.foldl {s : State} {α : Type} {step : State → α → State} {lane : α → Nat} {loc : α → Nat}
    {f : (Nat → Byte) → α → BitVec 640 × BitVec 4 → BitVec 640 × BitVec 4} {fl : α → Flags5} (es : List α)
    (hstep : ∀ t m fs, AccAt s t m fs → ∀ e ∈ es, AccAt s (step t e) (putSlot m (loc e) (f m e (slotAt m (loc e)))) (fs ++ [(lane e, fl e)])) :
    ∀ t m fs, AccAt s t m fs →
      AccAt s (es.foldl step t) (es.foldl (fun m e => putSlot m (loc e) (f m e (slotAt m (loc e)))) m) (fs ++ es.map (fun e => (lane e, fl e))) := by
  induction es with
  | nil => intro t m fs h; simpa using h
  | cons e es ih =>
    intro t m fs h
    have h1 := hstep t m fs h e List.mem_cons_self
    have h2 := ih (fun t m fs h e he => hstep t m fs h e (List.mem_cons_of_mem _ he)) _ _ _ h1
    rwa [List.append_assoc] at h2

/-- The word ends and the gang goes on. -/
theorem finish_early {t : State} (ht : t.early) (st : BitVec 3) :
    (t.finish st).mem = t.mem ∧ (t.finish st).regs = t.regs.next ∧ (t.finish st).chByte t.cur = t.chByte t.cur ∧ (t.finish st).cur = t.cur := by
  unfold State.finish
  rw [retire_early _ _ _ ht]
  refine ⟨rfl, ?_, ?_, rfl⟩
  · unfold State.regs
    rw [modGang_cur, modCore_cur, modGang_gang_same]
  · funext loc
    rw [chByte_eq, chByte_eq, modGang_gang_same]
    rfl

theorem AccAt.early {s t : State} {m : Nat → Byte} {fs : List (Nat × Flags5)} (h : AccAt s t m fs) (he : s.early) : t.early := by
  have hcount := h.count
  unfold State.early at he ⊢
  rw [h.cur]
  omega

end Sys2Proof.Machine
end

section
/-!
The updates of wide accumulators (11:R294).
-/

namespace Sys2Proof.Machine

/-! ## The arithmetic of a slot (05:R144) -/

theorem accAdd_eq (n : Nat) (v : BitVec n) (x : Int) : accAdd n v x = accSum n v x := by
  have hlim : (0 : Int) ≤ 2 ^ (n - 1) - 1 := by
    have : (0 : Int) < 2 ^ (n - 1) := by positivity
    omega
  unfold accAdd accSum
  dsimp only
  generalize (2 : Int) ^ (n - 1) - 1 = lim at hlim
  generalize v.toInt + x = s
  by_cases h1 : s > lim
  · rw [if_pos h1, min_eq_left h1.le, max_eq_right (by omega), decide_eq_true h1, Bool.true_or]
  · rw [if_neg h1, min_eq_right (by omega), decide_eq_false h1, Bool.false_or]
    by_cases h2 : s < -lim
    · rw [if_pos h2, max_eq_left h2.le, decide_eq_true h2]
    · rw [if_neg h2, max_eq_right (by omega), decide_eq_false h2]

theorem Acc.add_eq (a : Acc) (x : Int) : ((a.add x).v, (a.add x).st) = slotAdd x (a.v, a.st) := by
  unfold Acc.add slotAdd
  rw [accAdd_eq]
  dsimp only
  split
  · rfl
  · rw [BitVec.or_zero]

theorem floor_val_fin (neg : Bool) (k : Nat) {e : Int} (he : -320 ≤ e) : ⌊(FVal.fin neg k e).val * 2 ^ 320⌋ = acc640Of neg k e := by
  rw [← acc640Of_eq neg k he, Int.floor_intCast]

theorem Acc.addF_eq (a : Acc) {x : FVal} (hx : ∀ neg k e, x = .fin neg k e → -320 ≤ e) :
    ((a.addF x).v, (a.addF x).st) = slotAddF x (a.v, a.st) := by
  cases x with
  | fin neg k e =>
    have := floor_val_fin neg k (hx neg k e rfl)
    unfold Acc.addF slotAddF
    dsimp only
    rw [this]
    exact Acc.add_eq a _
  | inf neg => rfl
  | nan sig => rfl

theorem unpack_grid {p : Nat} (neg : Bool) (k : Nat) (e : Int) (h : unpack 0 p = .fin neg k e) : -149 ≤ e :=
  ((by decide : (-149 : Int) ≤ (fmtP 0).emin - (fmtP 0).mb)).trans (unpack_fin h).2.1

/-! ## What an update leaves -/

/-- The word has left these bytes to its chunk, raised invalid in the lanes named, and goes on. -/
structure AccDone (s t : State) (lanes : List Nat) (invalid : Nat → Bool) (m : Nat → Byte) : Prop where
  mem : t.mem = s.mem
  pc : t.regs.pc = s.regs.next.pc
  regs : ∀ l n, t.regs.rdW l n = s.regs.rdW l n
  flags : ∀ l, (t.regs.lane l).fflags = (s.regs.lane l).fflags ||| if l ∈ lanes ∧ invalid l = true then 16#5 else 0#5
  bytes : ∀ loc, t.chByte s.cur loc = m loc

theorem next_lane (r : Regs) (l : Nat) : r.next.lane l = r.lane l := by rw [Regs.lane, Regs.lane, next_lanes]

theorem next_raise_pc (r : Regs) (fs : List (Nat × Flags5)) : (r.raise fs).next.pc = r.next.pc := by
  rw [raise_rest, next_withLanes]

theorem AccAt.done {s t : State} {m : Nat → Byte} {lanes : List Nat} {invalid : Nat → Bool}
    (h : AccAt s t m (lanes.map (fun l => (l, invIf (invalid l))))) (hn : lanes.Nodup) (he : s.early) (st : BitVec 3) :
    AccDone s (t.finish st) lanes invalid m := by
  obtain ⟨hmem, hregs, hbytes, -⟩ := finish_early (h.early he) st
  rw [h.cur, h.bytes] at hbytes
  rw [h.regs] at hregs
  refine ⟨hmem.trans h.mem, by rw [hregs, next_raise_pc], fun l n => ?_, fun l => ?_, fun loc => congrFun hbytes loc⟩
  · rw [Regs.rdW, hregs, next_lane, raise_lane]
    rfl
  · rw [hregs, next_lane, raise_lane, raised_map _ _ hn]
    by_cases hl : l ∈ lanes <;> simp [hl, invIf, flInvalid]

section
variable {s : State} {a : BitVec 5} {g : BitVec 4} {pl : Nat → Place}
  (hpl : ∀ l ∈ s.regs.selected g, s.check (ckOfGk s.cur) (s.regs.rdW l a.toNat).toNat 128 true .accw s.regs.tr.tlvl = .ok (pl l))
  (hroom : ((s.regs.selected g).flatMap (fun l => sectorsOf (pl l).loc 96) ++ s.wrote).dedup.length ≤ 64)
  (hsec : (s.gang s.cur).ch.wsec.Nodup) (he : s.early)
include hroom hsec

theorem sectorRoom_slots (va : Nat → Nat) (k : State → State) :
    s.sectorRoom (((s.regs.selected g).map (fun l => (l, va l, pl l))).foldl (fun acc e => addSet acc (sectorsOf e.2.2.loc 96)) []) k = k s := by
  refine sectorRoom_of_few hsec (fun m hm => ?_) hroom k
  rw [mem_foldl_addSet (fun e : Nat × Nat × Place => sectorsOf e.2.2.loc 96)] at hm
  obtain ⟨e, he, hme⟩ := hm.resolve_left (List.not_mem_nil)
  obtain ⟨l, hl, rfl⟩ := List.mem_map.mp he
  exact List.mem_flatMap.mpr ⟨l, hl, hme⟩

include hpl he

/-- An update of the slots of the selected lanes by an operation that reads registers alone. -/
theorem accUpdate_done (st : BitVec 3) (clr : Bool) {f : AccOp} {z : Nat → BitVec 640 × BitVec 4 → BitVec 640 × BitVec 4} {invalid : Nat → Bool}
    (hf : ∀ r : Regs, (∀ l n, r.rdW l n = s.regs.rdW l n) → ∀ l x, ((f r l x).1.v, (f r l x).1.st) = z l (x.v, x.st) ∧
      (f r l x).2.2 = invIf (invalid l)) :
    AccDone s (s.accUpdate st a g clr f) (s.regs.selected g) invalid
      ((s.regs.selected g).foldl (fun m l => putSlot m (pl l).loc (z l (slotAt m (pl l).loc))) (s.chByte s.cur)) := by
  unfold State.accUpdate State.accChks
  dsimp only
  rw [checked_pass (laneChks_ok hpl), placesOf_laneChks hpl, sectorRoom_slots hroom hsec, List.foldl_map]
  refine AccAt.done ?_ (selected_nodup _ _) he st
  have := AccAt.foldl (s := s) (step := fun t l => t.accLane clr f (l, (s.regs.rdW l a.toNat).toNat, pl l)) (lane := fun l => l)
    (loc := fun l => (pl l).loc) (f := fun _ l => z l) (fl := fun l => invIf (invalid l)) (s.regs.selected g) ?_ s _ [] (AccAt.refl s)
  · exact this
  · intro t m fs h l _
    refine h.accLane clr fun x hx => ?_
    rw [← hx]
    exact hf t.regs h.rdW l x

end

theorem lo_eq_f32 {s : State} {r : Regs} (h : ∀ l n, r.rdW l n = s.regs.rdW l n) (l : Nat) (b : BitVec 5) : r.lo l b = s.f32 l b := by
  rw [Regs.lo, State.f32, h, BitVec.toNat_setWidth]

/-! ## The product of two numbers (11:R294) -/

/-- What `maddw` makes of a slot, for the two factors. -/
def productInto (x y : FVal) (z : BitVec 640 × BitVec 4) : BitVec 640 × BitVec 4 :=
  if (x.isNan || y.isNan) = true ∨ ((x.isZero && y.isInf) || (x.isInf && y.isZero)) = true then (z.1, z.2 ||| 1#4)
  else if x.isInf = true ∨ y.isInf = true then (z.1, z.2 ||| if x.sign != y.sign then 4#4 else 2#4)
  else slotAdd ⌊x.val * y.val * 2 ^ 320⌋ z

theorem opMaddw_eq (d b : BitVec 5) (r : Regs) (l : Nat) (a : Acc) :
    let x := unpack 0 (r.lo l b)
    let y := unpack 0 (r.lo l d)
    ((opMaddw d b r l a).1.v, (opMaddw d b r l a).1.st) = productInto x y (a.v, a.st) ∧
    (opMaddw d b r l a).2.2 = invIf (x.isSnan || y.isSnan || (!(x.isNan || y.isNan) && ((x.isZero && y.isInf) || (x.isInf && y.isZero)))) := by
  have hx := unpack_grid (p := r.lo l b)
  have hy := unpack_grid (p := r.lo l d)
  unfold opMaddw productInto
  dsimp only
  generalize unpack 0 (r.lo l b) = x at *
  generalize unpack 0 (r.lo l d) = y at *
  cases x with
  | nan sx => cases y <;> simp [FVal.isNan, FVal.isSnan, FVal.isInf, FVal.isZero, Bool.or_comm]
  | inf sx =>
    cases y with
    | nan sy => simp [FVal.isNan, FVal.isSnan, FVal.isInf, FVal.isZero]
    | inf sy => cases sx <;> cases sy <;> simp [FVal.isNan, FVal.isSnan, FVal.isInf, FVal.isZero, FVal.sign, prodF, invIf, Acc.addF]
    | fin sy ky ey =>
      by_cases hk : ky = 0
      · simp [FVal.isNan, FVal.isSnan, FVal.isInf, FVal.isZero, prodF, hk, invIf]
      · cases sx <;> cases sy <;> simp [FVal.isNan, FVal.isSnan, FVal.isInf, FVal.isZero, FVal.sign, prodF, hk, invIf, Acc.addF]
  | fin sx kx ex =>
    cases y with
    | nan sy => simp [FVal.isNan, FVal.isSnan, FVal.isInf, FVal.isZero]
    | inf sy =>
      by_cases hk : kx = 0
      · simp [FVal.isNan, FVal.isSnan, FVal.isInf, FVal.isZero, prodF, hk, invIf]
      · cases sx <;> cases sy <;> simp [FVal.isNan, FVal.isSnan, FVal.isInf, FVal.isZero, FVal.sign, prodF, hk, invIf, Acc.addF]
    | fin sy ky ey =>
      have hval : (FVal.fin (sy != sx) (ky * kx) (ey + ex)).val = (FVal.fin sx kx ex).val * (FVal.fin sy ky ey).val := by
        rw [FVal.val_fin, FVal.val_fin, FVal.val_fin, zpow_add₀ (by norm_num)]
        push_cast
        cases sx <;> cases sy <;> simp <;> ring
      have hfin : ∀ s' k' e', FVal.fin (sy != sx) (ky * kx) (ey + ex) = .fin s' k' e' → -320 ≤ e' := by
        intro s' k' e' h
        have := hx _ _ _ rfl
        have := hy _ _ _ rfl
        obtain ⟨-, -, rfl⟩ := FVal.fin.inj h
        omega
      have hadd := Acc.addF_eq a hfin
      unfold slotAddF at hadd
      dsimp only at hadd
      rw [hval] at hadd
      simpa [FVal.isNan, FVal.isSnan, FVal.isInf, FVal.isZero, prodF, invIf] using hadd

end Sys2Proof.Machine
end

section
/-!
The updates of wide accumulators (11:R294), put together.
-/

namespace Sys2Proof.Machine

section
variable {s : State} {a b : BitVec 5} {g : BitVec 4} {pl pb : Nat → Place}
  (hpl : ∀ l ∈ s.regs.selected g, s.check (ckOfGk s.cur) (s.regs.rdW l a.toNat).toNat 128 true .accw s.regs.tr.tlvl = .ok (pl l))
  (hpb : ∀ l ∈ s.regs.selected g, s.check (ckOfGk s.cur) (s.regs.rdW l b.toNat).toNat 128 false .accw s.regs.tr.tlvl = .ok (pb l))
  (hroom : ((s.regs.selected g).flatMap (fun l => sectorsOf (pl l).loc 96) ++ s.wrote).dedup.length ≤ 64)
  (hsec : (s.gang s.cur).ch.wsec.Nodup) (he : s.early)
include hpl hpb hroom hsec he

/-- What `addww` makes of a slot, for the slot that it reads. -/
def slotJoin (src z : BitVec 640 × BitVec 4) : BitVec 640 × BitVec 4 := ((slotAdd src.1.toInt z).1, (slotAdd src.1.toInt z).2 ||| src.2)

theorem addww_done (st : BitVec 3) : ∃ t, execAddww st a b g s = .next t ∧ AccDone s t (s.regs.selected g) (fun _ => false)
    ((s.regs.selected g).foldl (fun m l => putSlot m (pl l).loc (slotJoin (slotAt m (pb l).loc) (slotAt m (pl l).loc))) (s.chByte s.cur)) := by
  refine ⟨_, rfl, ?_⟩
  unfold State.accChks
  rw [checked_pass]
  · rw [placesOf_laneChks hpl, placesOf_laneChks hpb, List.zip_map', sectorRoom_slots hroom hsec, List.foldl_map]
    refine AccAt.done ?_ (selected_nodup _ _) he st
    refine AccAt.foldl (lane := fun l => l) (loc := fun l => (pl l).loc) (f := fun m l => slotJoin (slotAt m (pb l).loc)) (fl := fun _ => 0#5)
      (s.regs.selected g) (fun t m fs h l _ => ?_) s _ [] (AccAt.refl s)
    have hsrc := accRead_eq t (pb l).loc
    rw [h.cur, h.bytes] at hsrc
    refine (h.noteRead _).accLane false fun x hx => ⟨?_, rfl⟩
    have hadd := Acc.add_eq x (t.accRead (pb l).loc).v.toInt
    rw [← hsrc, ← hx]
    unfold slotJoin
    rw [← hadd]
  · intro c hc
    obtain ⟨e, hez, hce⟩ := List.mem_flatMap.mp hc
    obtain ⟨h1, h2⟩ := List.of_mem_zip hez
    rcases List.mem_pair.mp hce with rfl | rfl
    · exact laneChks_ok hpl _ h1
    · exact laneChks_ok hpb _ h2

end

theorem accumulatorUpdates : Says.AccumulatorUpdates := by
  intro s st d a b g pl pb he
  dsimp only
  intro hpl hroom hsec
  have hdone : ∀ {t lanes invalid m}, AccDone s t lanes invalid m → t.mem = s.mem ∧ t.regs.pc = s.regs.next.pc ∧ (∀ l n, t.regs.rdW l n = s.regs.rdW l n) ∧
      (∀ l, (t.regs.lane l).fflags = (s.regs.lane l).fflags ||| if l ∈ lanes ∧ invalid l = true then 16#5 else 0#5) ∧ ∀ loc, t.chByte s.cur loc = m loc :=
    fun h => ⟨h.mem, h.pc, h.regs, h.flags, h.bytes⟩
  refine ⟨⟨_, rfl, hdone ?_⟩, ⟨_, rfl, hdone ?_⟩, ⟨_, rfl, hdone ?_⟩, ⟨_, rfl, hdone ?_⟩, fun hpb => ?_⟩
  · exact accUpdate_done hpl hroom hsec he st true (z := fun _ _ => (0#640, 0#4)) (fun r _ l x => ⟨rfl, rfl⟩)
  · refine accUpdate_done hpl hroom hsec he st false (z := fun l => slotAddF (unpack 0 (s.f32 l b))) (fun r hr l x => ?_)
    unfold opAddwf
    dsimp only
    rw [lo_eq_f32 hr]
    exact ⟨Acc.addF_eq x (fun neg k e h => by have := unpack_grid neg k e h; omega), rfl⟩
  · refine accUpdate_done hpl hroom hsec he st false (z := fun l => slotAdd ((s.regs.rdW l b.toNat).toInt * 2 ^ 320)) (fun r hr l x => ?_)
    unfold opAddwi
    dsimp only
    rw [hr]
    exact ⟨Acc.add_eq x _, rfl⟩
  · refine accUpdate_done hpl hroom hsec he st false (z := fun l => productInto (unpack 0 (s.f32 l b)) (unpack 0 (s.f32 l d))) (fun r hr l x => ?_)
    rw [← lo_eq_f32 hr, ← lo_eq_f32 hr]
    exact opMaddw_eq d b r l x
  · obtain ⟨t, ht, hd⟩ := addww_done hpl hpb hroom hsec he st
    exact ⟨t, ht, hdone hd⟩

end Sys2Proof.Machine
end

section
/-!
The rounding reads of wide accumulators (11:R294, 05:R145).
-/

namespace Sys2Proof.Machine

theorem sext_eq_signed (x : Nat) (f : Flags5) : sext x 32 = (signed32 (x, f)).1 := by
  have hint : sintN x 32 = (BitVec.ofNat 32 x).toInt := by
    rw [BitVec.toInt_eq_toNat_cond, BitVec.toNat_ofNat]
    rfl
  unfold sext signed32 patN
  rw [hint, BitVec.signExtend]
  apply BitVec.eq_of_toNat_eq
  rw [BitVec.toNat_ofNat, BitVec.toNat_ofInt]
  exact Nat.mod_eq_of_lt ((Int.toNat_lt (Int.emod_nonneg _ (by norm_num))).mpr (Int.emod_lt_of_pos _ (by norm_num)))

/-! ## The rounded value and remainder (05:R145) -/

/-- A slot's value rounded: what R145 makes of value and status. -/
def roundedHi (m : Nat) (z : BitVec 640 × BitVec 4) : Nat × Flags5 :=
  let v : ℚ := z.1.toInt / 2 ^ 320
  if !z.2.getLsbD 0 && !z.2.getLsbD 1 && !z.2.getLsbD 2 then
    ((round32 m (decide (v < 0)) v).1, (round32 m (decide (v < 0)) v).2 ||| if z.2.getLsbD 3 then 4#5 else 0#5)
  else if z.2.getLsbD 0 || (z.2.getLsbD 1 && z.2.getLsbD 2) then (0x7fc0_0000, 16#5)
  else if z.2.getLsbD 1 then (0x7f80_0000, 0#5) else (0xff80_0000, 0#5)

/-- The remainder that the rounded value leaves, rounded. -/
def roundedLo (m : Nat) (z : BitVec 640 × BitVec 4) : Nat × Flags5 :=
  let v : ℚ := z.1.toInt / 2 ^ 320
  let r : ℚ := v - (unpack 0 (roundedHi m z).1).val
  if (!z.2.getLsbD 0 && !z.2.getLsbD 1 && !z.2.getLsbD 2) = true ∧ (unpack 0 (roundedHi m z).1).isFin = true then round32 m (decide (r < 0)) r
  else (0, 0#5)

theorem grid_div (k : Int) : (k : ℚ) * 2 ^ (-320 : Int) = k / 2 ^ 320 := by
  rw [zpow_neg, ← div_eq_mul_inv]
  rfl

/-- The status of a slot that holds a number. -/
def isNumber (st : BitVec 4) : Bool := !st.getLsbD 0 && !st.getLsbD 1 && !st.getLsbD 2

theorem rnd640Hi_eq (m : Nat) (v : BitVec 640) (st : BitVec 4) : rnd640Hi m v st = roundedHi m (v, st) := by
  unfold rnd640Hi roundedHi
  dsimp only
  rw [roundIntScaled_eq m _ _ (grid_div v.toInt)]
  cases st.getLsbD 0 <;> cases st.getLsbD 1 <;> cases st.getLsbD 2 <;> try rfl
  cases st.getLsbD 3
  · exact Prod.ext rfl (BitVec.or_zero).symm
  · rfl

/-- The remainder of a number that a rounded value leaves, as the machine rounds it. -/
def rnd640Lo (m : Nat) (v : BitVec 640) (hi : Nat) : Nat × Flags5 :=
  match unpack 0 hi with
  | .fin s a e => roundIntScaled 0 m (v.toInt - acc640Of s a e) (-320)
  | _ => (0, 0#5)

theorem rnd640_parts (m : Nat) (v : BitVec 640) (st : BitVec 4) :
    let hi := rnd640Hi m v st
    let lo := if isNumber st then rnd640Lo m v hi.1 else (0, 0#5)
    rnd640 m v st = (hi.1, lo.1, hi.2 ||| lo.2) := by
  unfold rnd640 rnd640Hi rnd640Lo isNumber
  dsimp only
  generalize v.toInt = i
  generalize roundIntScaled 0 m i (-320) = r
  cases st.getLsbD 0 <;> cases st.getLsbD 1 <;> cases st.getLsbD 2 <;>
    simp only [Bool.or_false, Bool.or_true, Bool.and_false, Bool.and_true, Bool.not_false, Bool.not_true, Bool.false_eq_true, if_false,
      if_true, BitVec.or_zero]
  cases unpack 0 r.1 with
  | fin s a e => rfl
  | inf s => exact congrArg (fun f => (r.1, (0, f))) (BitVec.or_zero).symm
  | nan s => exact congrArg (fun f => (r.1, (0, f))) (BitVec.or_zero).symm

theorem rnd640Lo_eq (m : Nat) (v : BitVec 640) (st : BitVec 4) :
    (if isNumber st then rnd640Lo m v (rnd640Hi m v st).1 else (0, 0#5)) = roundedLo m (v, st) := by
  have hgrid := unpack_grid (p := (roundedHi m (v, st)).1)
  rw [rnd640Hi_eq]
  unfold roundedLo rnd640Lo
  dsimp only
  by_cases hn : isNumber st = true
  · rw [if_pos hn]
    unfold isNumber at hn
    simp only [hn, true_and]
    cases hu : unpack 0 (roundedHi m (v, st)).1 with
    | fin s a e =>
      refine (roundIntScaled_eq m _ _ ?_).trans (if_pos rfl).symm
      have := hgrid s a e hu
      rw [grid_div, Int.cast_sub, acc640Of_eq s a (by omega), sub_div, mul_div_cancel_right₀ _ (by positivity)]
    | inf s => rfl
    | nan s => rfl
  · rw [if_neg hn, if_neg (fun h => hn h.1)]

theorem rnd640_eq (m : Nat) (v : BitVec 640) (st : BitVec 4) :
    rnd640 m v st = ((roundedHi m (v, st)).1, (roundedLo m (v, st)).1, (roundedHi m (v, st)).2 ||| (roundedLo m (v, st)).2) := by
  rw [rnd640_parts, rnd640Lo_eq, rnd640Hi_eq]

end Sys2Proof.Machine
end

section
/-!
The rounding reads of wide accumulators (11:R294), put together.
-/

namespace Sys2Proof.Machine

/-- Registers of lanes that are written, each with its value `val`; a write that is ignored leaves its register. -/
def intoRegs (ws : List (Nat × Nat)) (val : Nat → Nat → Word) (l n : Nat) : Option Word :=
  if (l, n) ∈ ws ∧ n ≠ 24 ∧ n ≠ 25 ∧ n ≠ 31 then some (val l n) else none

/-- A state that a rounding read has changed so far: registers and flags of lanes, and what the chunk notes. -/
structure RoundAt (s t : State) (w : Nat → Nat → Option Word) (fs : List (Nat × Flags5)) : Prop where
  frame : ∃ gangs cores, t = { s with gangs := gangs, cores := cores }
  count : (t.gang s.cur).ch.count = (s.gang s.cur).ch.count
  bytes : t.chByte s.cur = s.chByte s.cur
  rest : t.regs = { s.regs with lanes := t.regs.lanes }
  flags : ∀ l, (t.regs.lane l).fflags = (s.regs.lane l).fflags ||| raised fs l
  regs : ∀ l n, n < 32 → t.regs.rdW l n = (w l n).getD (s.regs.rdW l n)

theorem AccAt.roundAt {s t : State} {fs : List (Nat × Flags5)} (h : AccAt s t (s.chByte s.cur) fs) : RoundAt s t (fun _ _ => none) fs where
  frame := h.frame
  count := h.count
  bytes := h.bytes
  rest := by rw [h.regs]; exact raise_rest _ _
  flags := fun l => by rw [h.regs, raise_lane]
  regs := fun l n _ => h.rdW l n

section
variable {s t : State} {w : Nat → Nat → Option Word} {fs : List (Nat × Flags5)} (h : RoundAt s t w fs)
include h

theorem RoundAt.cur : t.cur = s.cur := by
  obtain ⟨_, _, rfl⟩ := h.frame
  rfl

theorem RoundAt.mem : t.mem = s.mem := by
  obtain ⟨_, _, rfl⟩ := h.frame
  rfl

theorem RoundAt.early (he : s.early) : t.early := by
  have hcount := h.count
  unfold State.early at he ⊢
  rw [h.cur]
  omega

/-- One register of one lane is written at once. -/
theorem RoundAt.holdW {d : Nat} (hd : d < 32) (k : Nat) (v : Word) :
    RoundAt s (t.holdW d [(k, v)]) (fun l n => (intoW d [k] (fun _ => v) l n).or (w l n)) fs := by
  have hcur := h.cur
  have hregs : (t.holdW d [(k, v)]).regs = t.regs.landAll (t.regs.destsW d [(k, v)]).1 (t.regs.destsW d [(k, v)]).2 := (holdW_regs t d _).1
  refine ⟨?_, ?_, ?_, ?_, ?_, ?_⟩
  · obtain ⟨_, cores, rfl⟩ := h.frame
    exact ⟨_, cores, rfl⟩
  · rw [← h.count, State.holdW, hcur, modGang_gang_same]
  · rw [← h.bytes]
    funext loc
    rw [chByte_eq, chByte_eq, State.holdW, hcur, modGang_gang_same]
    rfl
  · have h1 := landAll_rest t.regs (t.regs.destsW d [(k, v)]).1 (t.regs.destsW d [(k, v)]).2
    rw [hregs]
    generalize t.regs.landAll (t.regs.destsW d [(k, v)]).1 (t.regs.destsW d [(k, v)]).2 = r at *
    have h2 : r = { t.regs with lanes := r.lanes } := by rw [← h1]
    rw [h2, h.rest]
  · intro l
    rw [hregs, landAll_keeps Lane.fflags put_fflags, h.flags]
  · intro l n hn
    have := landAll_destsW t.regs d hd [k] (fun _ => v) l n hn
    rw [List.map_singleton] at this
    rw [hregs, this, h.regs l n hn]
    cases intoW d [k] (fun _ => v) l n <;> rfl

end

/-- One register of one lane more. -/
theorem intoRegs_append (ws : List (Nat × Nat)) (val : Nat → Nat → Word) (k d : Nat) :
    (fun l n => (intoW d [k] (fun _ => val k d) l n).or (intoRegs ws val l n)) = intoRegs (ws ++ [(k, d)]) val := by
  funext l n
  unfold intoW intoRegs
  by_cases hn : n ≠ 24 ∧ n ≠ 25 ∧ n ≠ 31
  · by_cases hk : n = d ∧ l = k
    · obtain ⟨rfl, rfl⟩ := hk
      simp [hn]
    · have h1 : ¬ (n = d ∧ n ≠ 24 ∧ n ≠ 25 ∧ n ≠ 31 ∧ l ∈ [k]) := fun h => hk ⟨h.1, List.mem_singleton.mp h.2.2.2.2⟩
      have h2 : (l, n) ∈ ws ++ [(k, d)] ↔ (l, n) ∈ ws := by
        simp only [List.mem_append, List.mem_singleton, Prod.mk.injEq, or_iff_left_iff_imp]
        exact fun h => absurd ⟨h.2, h.1⟩ hk
      rw [if_neg h1]
      simp only [h2, Option.none_or]
  · rw [if_neg (fun h => hn ⟨h.2.1, h.2.2.1, h.2.2.2.1⟩), if_neg (fun h => hn h.2), if_neg (fun h => hn h.2)]
    rfl

/-- Registers of lanes, written one after the other. -/
theorem RoundAt.holdAll {s : State} {val : Nat → Nat → Word} {fs : List (Nat × Flags5)} (ws : List (Nat × Nat)) (hd : ∀ x ∈ ws, x.2 < 32) :
    ∀ (t : State) (done : List (Nat × Nat)), RoundAt s t (intoRegs done val) fs →
      RoundAt s (ws.foldl (fun t x => t.holdW x.2 [(x.1, val x.1 x.2)]) t) (intoRegs (done ++ ws) val) fs := by
  induction ws with
  | nil => intro t done h; simpa using h
  | cons x ws ih =>
    intro t done h
    have h1 := h.holdW (hd x List.mem_cons_self) x.1 (val x.1 x.2)
    rw [intoRegs_append] at h1
    have h2 := ih (fun y hy => hd y (List.mem_cons_of_mem _ hy)) _ _ h1
    rwa [List.append_assoc] at h2

/-! ## Waiting for the unit (11:R295) -/

/-- The hold of a rounding read changes neither registers nor memory. -/
theorem accHold_at (t : State) (n : Nat) : AccAt t (t.accHold n) (t.chByte t.cur) [] := by
  unfold State.accHold
  split
  · exact AccAt.refl t
  · have hbusy : ∀ (es : List Nat) (u : State), AccAt t u (t.chByte t.cur) [] → AccAt t (es.foldl (fun u _ => u.accBusy 20) u) (t.chByte t.cur) [] := by
      intro es
      induction es with
      | nil => exact fun u h => h
      | cons e es ih => exact fun u h => ih _ (h.accBusy 20)
    exact (hbusy (List.range n) t (AccAt.refl t)).modGang (ws := []) (fl := []) (fun _ => rfl) (fun _ => rfl) (fun _ => rfl)

/-! ## The words -/

/-- The word has written these registers and raised these flags, and goes on; what its chunk reads stays. -/
structure RoundDone (s t : State) (w : Nat → Nat → Option Word) (fl : Nat → Flags5) : Prop where
  mem : t.mem = s.mem
  pc : t.regs.pc = s.regs.next.pc
  bytes : ∀ loc, t.chByte s.cur loc = s.chByte s.cur loc
  regs : ∀ l n, n < 32 → t.regs.rdW l n = (w l n).getD (s.regs.rdW l n)
  flags : ∀ l, (t.regs.lane l).fflags = (s.regs.lane l).fflags ||| fl l

theorem RoundAt.done {s t : State} {w : Nat → Nat → Option Word} {fs : List (Nat × Flags5)} (h : RoundAt s t w fs) (he : s.early) (st : BitVec 3)
    (n : Nat) : RoundDone s ((t.finish st).accHold n) w (raised fs) := by
  obtain ⟨hmem, hregs, hbytes, hcur⟩ := finish_early (h.early he) st
  have hold := accHold_at (t.finish st) n
  have hregs' : ((t.finish st).accHold n).regs = t.regs.next := hold.regs.trans hregs
  refine ⟨hold.mem.trans (hmem.trans h.mem), ?_, ?_, ?_, ?_⟩
  · rw [hregs', h.rest, next_withLanes]
  · intro loc
    rw [h.cur] at hcur hbytes
    have := hold.bytes
    rw [hcur, hbytes, h.bytes] at this
    rw [this]
  · intro l k hk
    rw [← h.regs l k hk, Regs.rdW, hregs', next_lane]
    rfl
  · intro l
    rw [hregs', next_lane, h.flags]

section
variable {s : State} {a : BitVec 5} {g : BitVec 4} {pl : Nat → Place}
  (hpl : ∀ l ∈ s.regs.selected g, s.check (ckOfGk s.cur) (s.regs.rdW l a.toNat).toNat 128 false .accw s.regs.tr.tlvl = .ok (pl l))
  (he : s.early)
include hpl he

theorem accRound_done (st : BitVec 3) (f : Nat → Acc → List (Nat × Word) × Flags5) {val : Nat → Nat → Word} {ds : List Nat} {fl : Nat → Flags5}
    (hd : ∀ d ∈ ds, d < 32)
    (hf : ∀ l, f (s.regs.lane l).mode (s.accRead (pl l).loc) = (ds.map (fun d => (d, val l d)), fl l)) :
    RoundDone s (s.accRound st a g f) (intoRegs ((s.regs.selected g).flatMap (fun l => ds.map (fun d => (l, d)))) val)
      (fun l => if l ∈ s.regs.selected g then fl l else 0#5) := by
  unfold State.accRound State.accChks
  dsimp only
  rw [checked_pass (laneChks_ok hpl), placesOf_laneChks hpl]
  simp only [List.map_map, Function.comp_def, hf, List.foldl_map]
  generalize (s.regs.selected g).foldl (fun x y => addSet x (sectorsOf (pl y).loc 96)) [] = secs
  have hread := (AccAt.refl s).noteRead secs
  have hflags : AccAt s ((s.modGang s.cur (fun g => g.noteRead secs)).flagLanes ((s.regs.selected g).map (fun l => (l, fl l)))) (s.chByte s.cur)
      ([] ++ (s.regs.selected g).map (fun l => (l, fl l))) :=
    hread.modGang (ws := []) (fun _ => rfl) (fun _ => rfl) (fun _ => rfl)
  have hnone : (fun _ _ => none) = intoRegs [] val := by
    funext l n
    exact (if_neg (fun h => List.not_mem_nil h.1)).symm
  have hround := hflags.roundAt
  rw [List.nil_append, hnone] at hround
  have hall := RoundAt.holdAll ((s.regs.selected g).flatMap (fun l => ds.map (fun d => (l, d)))) (fun x hx => by
    obtain ⟨l, -, hxl⟩ := List.mem_flatMap.mp hx
    obtain ⟨d, hdm, rfl⟩ := List.mem_map.mp hxl
    exact hd d hdm) _ _ hround
  rw [List.nil_append, List.foldl_flatMap] at hall
  simp only [List.foldl_map] at hall
  have hdone := hall.done he st ((s.regs.selected g).map (fun l => (l, (s.regs.rdW l a.toNat).toNat, pl l))).length
  have hraised : raised ((s.regs.selected g).map (fun l => (l, fl l))) = fun l => if l ∈ s.regs.selected g then fl l else 0#5 :=
    funext (raised_map _ fl (selected_nodup _ _))
  rwa [hraised] at hdone

end

theorem mem_flatMap_pairs (lanes ds : List Nat) (l n : Nat) : (l, n) ∈ lanes.flatMap (fun l => ds.map (fun d => (l, d))) ↔ l ∈ lanes ∧ n ∈ ds := by
  simp [List.mem_flatMap]

theorem intoRegs_one (lanes : List Nat) (d : Nat) (f : Nat → Word) :
    intoRegs (lanes.flatMap (fun l => [d].map (fun d => (l, d)))) (fun l _ => f l) = intoW d lanes f := by
  funext l n
  unfold intoRegs intoW
  simp only [mem_flatMap_pairs, List.mem_singleton]
  exact if_congr (by tauto) rfl rfl

theorem intoRegs_two (lanes : List Nat) (d : Nat) (f f' : Nat → Word) :
    intoRegs (lanes.flatMap (fun l => [d, d + 1].map (fun d => (l, d)))) (fun l n => if n = d then f l else f' l) =
      fun l n => (intoW d lanes f l n).or (intoW (d + 1) lanes f' l n) := by
  funext l n
  unfold intoRegs intoW
  simp only [mem_flatMap_pairs, List.mem_pair]
  by_cases h1 : n = d
  · subst h1
    simp only [true_or, and_true, if_true, true_and, Nat.left_eq_add, one_ne_zero, false_and, if_false, Option.or_none]
    exact if_congr (by tauto) rfl rfl
  · simp only [h1, false_or, false_and, if_false, Option.none_or]
    exact if_congr (by tauto) rfl rfl

theorem accumulatorRounding : Says.AccumulatorRounding := by
  intro s st d a e g pl he
  dsimp only
  intro hpl
  have hdone : ∀ {t w fl}, RoundDone s t w fl → t.mem = s.mem ∧ t.regs.pc = s.regs.next.pc ∧ (∀ loc, t.chByte s.cur loc = s.chByte s.cur loc) ∧
      (∀ l n, n < 32 → t.regs.rdW l n = (w l n).getD (s.regs.rdW l n)) ∧ ∀ l, (t.regs.lane l).fflags = (s.regs.lane l).fflags ||| fl l :=
    fun h => ⟨h.mem, h.pc, h.bytes, h.regs, h.flags⟩
  let slot (l : Nat) := slotAt (s.chByte s.cur) (pl l).loc
  let hi (l : Nat) := roundedHi (s.regs.lane l).frm.toNat (slot l)
  let lo (l : Nat) := roundedLo (s.regs.lane l).frm.toNat (slot l)
  refine ⟨⟨_, rfl, hdone ?_⟩, ⟨_, rfl, hdone ?_⟩⟩
  · have h := accRound_done hpl he st (fun m x => let (hi, f) := rnd640Hi m x.v x.st; ([(d.toNat, sext hi 32)], f)) (ds := [d.toNat])
      (val := fun l _ => (signed32 (hi l)).1) (fl := fun l => (hi l).2) (by simp; omega) (fun l => ?_)
    · rw [intoRegs_one] at h
      exact h
    · dsimp only
      rw [rnd640Hi_eq, sext_eq_signed _ (hi l).2]
      rfl
  · have h := accRound_done hpl he st
      (fun m x => let (hi, lo, f) := rnd640 m x.v x.st; ([(2 * e.toNat, sext hi 32), (2 * e.toNat + 1, sext lo 32)], f))
      (ds := [2 * e.toNat, 2 * e.toNat + 1]) (val := fun l n => if n = 2 * e.toNat then (signed32 (hi l)).1 else (signed32 (lo l)).1)
      (fl := fun l => (hi l).2 ||| (lo l).2) (by simp; omega) (fun l => ?_)
    · rw [intoRegs_two] at h
      exact h
    · dsimp only
      rw [rnd640_eq, sext_eq_signed _ (hi l).2, sext_eq_signed _ (lo l).2]
      simp only [List.map_cons, List.map_nil, if_true, Nat.add_eq_left, one_ne_zero, if_false]
      rfl

/-- Settles O43: for the updates by induction over the lanes, each of which reads and writes its slot in the chunk; for the rounding reads since
the unit's integers are the exact values in units of 2^-320. -/
theorem accumulatorWordsAreExact : Obligations.AccumulatorWordsAreExact := ⟨accumulatorUpdates, accumulatorRounding⟩

end Sys2Proof.Machine
end

section
/-!
Contributions and steps of the matrix unit (05:R138 to R140).
-/

namespace Sys2Proof.Machine

/-! ## A contribution (05:R138) -/

theorem roundRat_nearest (neg : Bool) (q : ℚ) : |q - roundRat 0 neg q| ≤ 1 / 2 ∧ (|q - roundRat 0 neg q| = 1 / 2 → roundRat 0 neg q % 2 = 0) := by
  have h0 := Int.floor_le q
  have h1 := Int.lt_floor_add_one q
  have hdef : roundRat 0 neg q = if q - ⌊q⌋ < 1 / 2 then ⌊q⌋ else if 1 / 2 < q - ⌊q⌋ then ⌊q⌋ + 1 else if ⌊q⌋ % 2 = 0 then ⌊q⌋ else ⌊q⌋ + 1 := rfl
  rw [hdef]
  split
  · next h =>
    rw [abs_of_nonneg (by linarith)]
    exact ⟨h.le, fun he => absurd he h.ne⟩
  · next h =>
    split
    · next h' =>
      have habs : |q - ((⌊q⌋ + 1 : Int) : ℚ)| = ⌊q⌋ + 1 - q := by
        rw [abs_sub_comm, Int.cast_add, Int.cast_one, abs_of_nonneg (by linarith)]
      rw [habs]
      exact ⟨by linarith, fun he => by linarith⟩
    · next h' =>
      have hhalf : q - ⌊q⌋ = 1 / 2 := le_antisymm (not_lt.mp h') (not_lt.mp h)
      split
      · next heven =>
        rw [hhalf, abs_of_pos (by norm_num)]
        exact ⟨le_rfl, fun _ => heven⟩
      · next hodd =>
        have habs : |q - ((⌊q⌋ + 1 : Int) : ℚ)| = 1 / 2 := by
          rw [abs_sub_comm, Int.cast_add, Int.cast_one, abs_of_nonneg (by linarith)]
          linarith
        rw [habs]
        exact ⟨le_rfl, fun _ => by omega⟩

theorem rneScaled_nearest {v e : Int} {x : ℚ} (hx : (v : ℚ) * 2 ^ e = x) :
    |x - rneScaled v e| ≤ 1 / 2 ∧ (|x - rneScaled v e| = 1 / 2 → rneScaled v e % 2 = 0) := by
  have hpos : (0 : ℚ) < 2 ^ e := by positivity
  have habs : |x| = (v.natAbs : ℚ) * 2 ^ e := by rw [← hx, abs_mul, abs_of_pos hpos, Nat.cast_natAbs, Int.cast_abs]
  have hsign : v < 0 ↔ x < 0 := by
    rw [← hx, ← neg_pos (a := (v : ℚ) * 2 ^ e), ← neg_mul, mul_pos_iff_of_pos_right hpos, neg_pos, Int.cast_lt_zero]
  have hround : (roundInt 0 (decide (v < 0)) (scaleNum v.natAbs e) (scaleDen e) : Int) = roundRat 0 (decide (v < 0)) |x| := by
    rw [roundInt_eq 0 _ _ (scaleDen_pos e), scale_eq, habs]
  obtain ⟨h1, h2⟩ := roundRat_nearest (decide (v < 0)) |x|
  unfold rneScaled rneInt
  dsimp only
  rw [hround]
  by_cases hneg : v < 0
  · rw [decide_eq_true hneg] at *
    rw [if_pos rfl, Int.cast_neg]
    rw [abs_of_neg (hsign.mp hneg)] at *
    rw [show x - -(roundRat 0 true (-x) : ℚ) = -(-x - roundRat 0 true (-x)) by ring, abs_neg]
    exact ⟨h1, fun h => by rw [Int.neg_emod_two]; exact h2 h⟩
  · rw [decide_eq_false hneg] at *
    rw [if_neg Bool.false_ne_true]
    rw [abs_of_nonneg (not_lt.mp (hsign.not.mp hneg))] at *
    exact ⟨h1, h2⟩

theorem contribution_nearest (p e ez : Int) (sc : BitVec 16) (h : (unpack 1 sc.toNat).isFin = true) :
    |p * (unpack 1 sc.toNat).val * 2 ^ (e - ez) - contribution p e sc ez| ≤ 1 / 2 ∧
    (|p * (unpack 1 sc.toNat).val * 2 ^ (e - ez) - contribution p e sc ez| = 1 / 2 → contribution p e sc ez % 2 = 0) := by
  obtain ⟨s, m, g, hu⟩ := FVal.isFin_iff.mp h
  unfold contribution
  rw [hu, FVal.val_fin]
  refine rneScaled_nearest ?_
  rw [show e + g - ez = g + (e - ez) by ring, zpow_add₀ (by norm_num)]
  cases s
  · rw [if_neg Bool.false_ne_true, if_neg Bool.false_ne_true]
    push_cast
    ring
  · rw [if_pos rfl, if_pos rfl]
    push_cast
    ring

/-! ## An element of a step (05:R139, R140) -/

/-- A saturated sum is never the pattern of a NaN. -/
theorem accSum_ne_nan (v : BitVec 96) (x : Int) : (accSum 96 v x).1 ≠ acc96Nan := by
  have hnan : acc96Nan.toInt = -2 ^ 95 := by decide
  have hclamp : ∀ y lim : Int, 0 ≤ lim → -lim ≤ max (-lim) (min lim y) ∧ max (-lim) (min lim y) ≤ lim := by
    intro y lim h
    omega
  obtain ⟨h1, h2⟩ := hclamp (v.toInt + x) (2 ^ (96 - 1) - 1) (by norm_num)
  intro h
  have hint := congrArg BitVec.toInt h
  unfold accSum at hint
  dsimp only at hint
  generalize max (-(2 ^ (96 - 1) - 1)) (min (2 ^ (96 - 1) - 1) (v.toInt + x)) = y at *
  rw [hnan, BitVec.toInt_ofInt, Int.bmod_eq_of_le (by norm_num at *; omega) (by norm_num at *; omega)] at hint
  norm_num at *
  omega

/-- What one block adds to an element. -/
def blockAdds (ez : Int) (col : BankCol) (b : Nat × List Int × Int) : Int :=
  contribution (((b.2.1.zip (col.q.getD b.1 [])).map (fun e => e.1 * e.2)).foldl (· + ·) 0) (b.2.2 + col.eb.getD b.1 0)
    (col.scale.getD b.1 0x3f80#16) ez

/-- One block's step of an element, with its flags. -/
def blockStep (ez : Int) (nan : Bool) (col : BankCol) (acc : BitVec 96 × Bool × Bool) (b : Nat × List Int × Int) : BitVec 96 × Bool × Bool :=
  if nan then (acc96Nan, true, acc.2.2)
  else if acc.1 = acc96Nan then acc
  else ((accSum 96 acc.1 (blockAdds ez col b)).1, acc.2.1, acc.2.2 || (accSum 96 acc.1 (blockAdds ez col b)).2)

theorem contribute_eq (ez : Int) (nan : Bool) (col : BankCol) (blks : List (Nat × List Int × Int)) (z : BitVec 96) :
    contribute ez nan col blks z = blks.foldl (blockStep ez nan col) (z, false, false) := by
  unfold contribute blockStep blockAdds
  simp only [accAdd_eq]

section
variable (ez : Int) (col : BankCol) (blks : List (Nat × List Int × Int))

/-- A NaN of the row or the column fills the element. -/
theorem contribute_bad (hne : blks ≠ []) (z : BitVec 96) : (contribute ez true col blks z).1 = acc96Nan ∧ (contribute ez true col blks z).2.1 = true := by
  have hfill : ∀ (blks : List (Nat × List Int × Int)) (acc : BitVec 96 × Bool × Bool), acc.1 = acc96Nan ∧ acc.2.1 = true →
      (blks.foldl (blockStep ez true col) acc).1 = acc96Nan ∧ (blks.foldl (blockStep ez true col) acc).2.1 = true := by
    intro blks
    induction blks with
    | nil => exact fun acc h => h
    | cons b t ih => exact fun acc _ => ih _ ⟨rfl, rfl⟩
  rw [contribute_eq]
  cases blks with
  | nil => exact absurd rfl hne
  | cons b t => exact hfill t _ ⟨rfl, rfl⟩

/-- An element that is a NaN stays one. -/
theorem contribute_nan : (contribute ez false col blks acc96Nan).1 = acc96Nan := by
  have hstay : ∀ (blks : List (Nat × List Int × Int)) (acc : BitVec 96 × Bool × Bool), acc.1 = acc96Nan →
      (blks.foldl (blockStep ez false col) acc).1 = acc96Nan := by
    intro blks
    induction blks with
    | nil => exact fun acc h => h
    | cons b t ih =>
      intro acc h
      have hstep : blockStep ez false col acc b = acc := (if_neg Bool.false_ne_true).trans (if_pos h)
      rw [List.foldl_cons, hstep]
      exact ih acc h
  rw [contribute_eq]
  exact hstay blks _ rfl

/-- Any other element gets the contributions one after the other. -/
theorem contribute_number (z : BitVec 96) (hz : z ≠ acc96Nan) :
    (contribute ez false col blks z).1 = blks.foldl (fun a b => (accSum 96 a (blockAdds ez col b)).1) z := by
  have hsum : ∀ (blks : List (Nat × List Int × Int)) (acc : BitVec 96 × Bool × Bool), acc.1 ≠ acc96Nan →
      (blks.foldl (blockStep ez false col) acc).1 = blks.foldl (fun a b => (accSum 96 a (blockAdds ez col b)).1) acc.1 := by
    intro blks
    induction blks with
    | nil => exact fun acc _ => rfl
    | cons b t ih =>
      intro acc h
      have hstep : blockStep ez false col acc b = ((accSum 96 acc.1 (blockAdds ez col b)).1, acc.2.1, acc.2.2 || (accSum 96 acc.1 (blockAdds ez col b)).2) :=
        (if_neg Bool.false_ne_true).trans (if_neg h)
      rw [List.foldl_cons, List.foldl_cons, hstep]
      exact ih _ (accSum_ne_nan _ _)
  rw [contribute_eq]
  exact hsum blks _ hz

end

/-! ## A step of a tile (11:R300) -/

/-- The elements of a tile after a step, with their flags. -/
def stepElem (z : ZTile) (bank : Bank) (rows : Nat) (arow : Nat → List (Nat × List Int × Int) × Bool) (m n : Nat) : BitVec 96 × Bool × Bool :=
  if m < rows then contribute z.ez ((arow m).2 || (bank.cols.getD n {}).nan) (bank.cols.getD n {}) (arow m).1 (z.get m n) else (z.get m n, false, false)

section
variable (z : ZTile) (bank : Bank) (rows : Nat) (arow : Nat → List (Nat × List Int × Int) × Bool)

theorem step_eq : z.step bank rows arow =
    let new := (List.range 16).map (fun m => (List.range 256).map (stepElem z bank rows arow m))
    { z with rows := new.map (fun r => r.map (fun x => x.1))
             nan := z.nan || new.any (fun r => r.any (fun x => x.2.1))
             ovf := z.ovf || new.any (fun r => r.any (fun x => x.2.2)) } := by
  have hrow : ∀ m, (if m < rows then
      let a := arow m
      (List.range 256).map (fun n =>
        let col := bank.cols.getD n {}
        contribute z.ez (a.2 || col.nan) col a.1 (z.get m n))
    else (List.range 256).map (fun n => (z.get m n, false, false))) = (List.range 256).map (stepElem z bank rows arow m) := by
    intro m
    unfold stepElem
    split <;> rfl
  unfold ZTile.step
  simp only [← hrow]

theorem step_get {m n : Nat} (hm : m < 16) (hn : n < 256) : (z.step bank rows arow).get m n = (stepElem z bank rows arow m n).1 := by
  rw [step_eq, ZTile.get]
  simp [List.getD, List.getElem?_map, List.getElem?_range hm, List.getElem?_range hn]

theorem step_nan {m n : Nat} (hm : m < 16) (hn : n < 256) (h : (stepElem z bank rows arow m n).2.1 = true) : (z.step bank rows arow).nan = true := by
  rw [step_eq]
  dsimp only
  rw [Bool.or_eq_true]
  refine .inr (List.any_eq_true.mpr ⟨_, List.mem_map.mpr ⟨m, List.mem_range.mpr hm, rfl⟩, List.any_eq_true.mpr ⟨_, List.mem_map.mpr ⟨n, List.mem_range.mpr hn, rfl⟩, h⟩⟩)

end

theorem matrixStepsAddContributions : Says.MatrixStepsAddContributions := by
  refine ⟨fun p e ez sc h => contribution_nearest p e ez sc h, ?_⟩
  intro z bank rows m n blks nan hm hn
  dsimp only
  have hget := step_get z bank rows (fun i => (blks i, nan i)) hm hn
  have helem : m < rows → stepElem z bank rows (fun i => (blks i, nan i)) m n =
      contribute z.ez (nan m || (bank.cols.getD n {}).nan) (bank.cols.getD n {}) (blks m) (z.get m n) := fun h => if_pos h
  refine ⟨fun h => ?_, fun h hbad hne => ?_, fun h hbad hz => ?_, fun h hbad hz => ?_, rfl, fun h => ?_, fun h => ?_⟩
  · rw [hget]
    exact congrArg Prod.fst (if_neg (not_lt.mpr h))
  · have hfill := contribute_bad z.ez (bank.cols.getD n {}) (blks m) hne (z.get m n)
    have he := helem h
    rw [hbad] at he
    rw [← he] at hfill
    exact ⟨hget.trans hfill.1, step_nan z bank rows _ hm hn hfill.2⟩
  · rw [hget, helem h, hbad, hz]
    exact contribute_nan z.ez _ _
  · rw [hget, helem h, hbad]
    exact contribute_number z.ez _ _ _ hz
  · exact Bool.or_eq_true _ _ ▸ .inl h
  · exact Bool.or_eq_true _ _ ▸ .inl h

end Sys2Proof.Machine
end

section
/-!
The queues of the matrix unit (07:R203) and what starting a command leaves of its cluster (11:R297 to R304).
-/

namespace Sys2Proof.Machine

/-! ## Commands that pass into the unit's queue -/

/-- The commands `mv` have passed from a core's queue into the unit's queue of the core, and nothing else has changed. -/
structure MxMoved (s t : State) (ck : Nat) (mv : List MxCmd) : Prop where
  frame : ∃ cores clus, t = { s with cores := cores, clus := clus }
  cluster : t.cluster (clkOfCk ck) = { s.cluster (clkOfCk ck) with mxqs := (t.cluster (clkOfCk ck)).mxqs }
  queue : tget [] (t.cluster (clkOfCk ck)).mxqs (ck % 8) = tget [] (s.cluster (clkOfCk ck)).mxqs (ck % 8) ++ mv
  core : (s.core ck).mxq = mv ++ (t.core ck).mxq
  queues : ∀ j, j ≠ ck % 8 → tget [] (t.cluster (clkOfCk ck)).mxqs j = tget [] (s.cluster (clkOfCk ck)).mxqs j
  cores : ∀ k, k ≠ ck → t.core k = s.core k

theorem MxMoved.refl (s : State) (ck : Nat) : MxMoved s s ck [] where
  frame := ⟨_, _, rfl⟩
  cluster := rfl
  queue := (List.append_nil _).symm
  core := rfl
  queues := fun _ _ => rfl
  cores := fun _ _ => rfl

theorem MxMoved.trans {s t u : State} {ck : Nat} {mv mv' : List MxCmd} (h : MxMoved s t ck mv) (k : MxMoved t u ck mv') : MxMoved s u ck (mv ++ mv') where
  frame := by
    obtain ⟨_, _, rfl⟩ := h.frame
    obtain ⟨cores, clus, rfl⟩ := k.frame
    exact ⟨cores, clus, rfl⟩
  cluster := by rw [k.cluster, h.cluster]
  queue := by rw [k.queue, h.queue, List.append_assoc]
  core := by rw [h.core, k.core, List.append_assoc]
  queues := fun j hj => (k.queues j hj).trans (h.queues j hj)
  cores := fun j hj => (k.cores j hj).trans (h.cores j hj)

/-- The head of a core's queue passes. -/
def State.mxPass (s : State) (ck : Nat) (x : MxCmd) (t : List MxCmd) : State :=
  (s.setCore ck { s.core ck with mxq := t }).setCluster (clkOfCk ck)
    { s.cluster (clkOfCk ck) with mxqs := tput (s.cluster (clkOfCk ck)).mxqs (ck % 8) (tget [] (s.cluster (clkOfCk ck)).mxqs (ck % 8) ++ [x]) }

theorem mxPass_moved {s : State} {ck : Nat} {x : MxCmd} {t : List MxCmd} (h : (s.core ck).mxq = x :: t) : MxMoved s (s.mxPass ck x t) ck [x] where
  frame := ⟨_, _, rfl⟩
  cluster := by
    unfold State.mxPass
    rw [setCluster_cluster_same]
  queue := by
    unfold State.mxPass
    rw [setCluster_cluster_same, tget_tput_same]
  core := by
    unfold State.mxPass
    rw [setCluster_core, setCore_core_same, h]
    rfl
  queues := fun j hj => by
    unfold State.mxPass
    rw [setCluster_cluster_same, tget_tput_other _ _ _ hj]
  cores := fun k hk => by
    unfold State.mxPass
    rw [setCluster_core, setCore_core_other _ _ _ _ hk]

theorem mxMove_nil {s : State} {ck n : Nat} (h : (s.core ck).mxq = []) : s.mxMove ck n = s := by
  cases n with
  | zero => rfl
  | succ n =>
    unfold State.mxMove
    simp only [h]

theorem mxMove_cons {s : State} {ck n : Nat} {x : MxCmd} {t : List MxCmd} (h : (s.core ck).mxq = x :: t) :
    s.mxMove ck (n + 1) = if 4 ≤ (tget [] (s.cluster (clkOfCk ck)).mxqs (ck % 8)).length ∨ s.frozen (slOfCk ck) then s else (s.mxPass ck x t).mxMove ck n := by
  rw [State.mxMove]
  simp only [h]
  rfl

theorem mxMove_moved (ck n : Nat) (s : State) : ∃ mv, MxMoved s (s.mxMove ck n) ck mv := by
  induction n generalizing s with
  | zero => exact ⟨[], MxMoved.refl s ck⟩
  | succ n ih =>
    cases hq : (s.core ck).mxq with
    | nil => exact ⟨[], by rw [mxMove_nil hq]; exact MxMoved.refl s ck⟩
    | cons x t =>
      rw [mxMove_cons hq]
      split
      · exact ⟨[], MxMoved.refl s ck⟩
      · obtain ⟨mv, h⟩ := ih (s.mxPass ck x t)
        exact ⟨_, (mxPass_moved hq).trans h⟩

theorem MxMoved.frozen {s t : State} {ck : Nat} {mv : List MxCmd} (h : MxMoved s t ck mv) (sl : Nat) : t.frozen sl = s.frozen sl := by
  obtain ⟨_, _, rfl⟩ := h.frame
  rfl

/-- Commands pass until the core's queue is empty or the unit's is full. -/
theorem mxMove_full (ck n : Nat) (s : State) (hn : (s.core ck).mxq.length ≤ n) (hf : s.frozen (slOfCk ck) = false) :
    ((s.mxMove ck n).core ck).mxq = [] ∨ 4 ≤ (tget [] ((s.mxMove ck n).cluster (clkOfCk ck)).mxqs (ck % 8)).length := by
  induction n generalizing s with
  | zero => exact .inl (List.length_eq_zero_iff.mp (Nat.le_zero.mp hn))
  | succ n ih =>
    cases hq : (s.core ck).mxq with
    | nil =>
      rw [mxMove_nil hq]
      exact .inl hq
    | cons x t =>
      rw [mxMove_cons hq]
      split
      · next h =>
        rw [hf] at h
        exact .inr (h.resolve_right Bool.false_ne_true)
      · have hp := mxPass_moved hq
        have hcore := hp.core
        rw [hq] at hcore
        refine ih _ ?_ ((hp.frozen _).trans hf)
        have ht : t = ((s.mxPass ck x t).core ck).mxq := (List.cons.inj hcore).2
        rw [← ht]
        rw [hq, List.length_cons] at hn
        omega

/-! ## The cores of a cluster, one after the other -/

theorem ckOfClk_cluster {clk j : Nat} (hj : j < 8) : clkOfCk (ckOfClk clk j) = clk ∧ ckOfClk clk j % 8 = j := by
  unfold clkOfCk ckOfClk
  omega

/-- Commands of the first `n` cores of a cluster have passed into the unit's queues. -/
structure MxMovedAll (s t : State) (clk n : Nat) : Prop where
  frame : ∃ cores clus, t = { s with cores := cores, clus := clus }
  cluster : t.cluster clk = { s.cluster clk with mxqs := (t.cluster clk).mxqs }
  queue : ∀ j, j < 8 → tget [] (t.cluster clk).mxqs j ++ (t.core (ckOfClk clk j)).mxq = tget [] (s.cluster clk).mxqs j ++ (s.core (ckOfClk clk j)).mxq
  full : ∀ j, j < n → (s.core (ckOfClk clk j)).mxq.length ≤ 2 → s.frozen (slOfCk (ckOfClk clk j)) = false →
    (t.core (ckOfClk clk j)).mxq = [] ∨ 4 ≤ (tget [] (t.cluster clk).mxqs j).length
  later : ∀ j, n ≤ j → j < 8 → tget [] (t.cluster clk).mxqs j = tget [] (s.cluster clk).mxqs j ∧ t.core (ckOfClk clk j) = s.core (ckOfClk clk j)

theorem MxMovedAll.next {s t : State} {clk n : Nat} (h : MxMovedAll s t clk n) (hn : n < 8) : MxMovedAll s (t.mxMove (ckOfClk clk n) 2) clk (n + 1) := by
  obtain ⟨hclk, hmod⟩ := ckOfClk_cluster (clk := clk) hn
  obtain ⟨mv, hm⟩ := mxMove_moved (ckOfClk clk n) 2 t
  have hfull := mxMove_full (ckOfClk clk n) 2 t
  have hfr : t.frozen (slOfCk (ckOfClk clk n)) = s.frozen (slOfCk (ckOfClk clk n)) := by
    obtain ⟨_, _, rfl⟩ := h.frame
    rfl
  have hne : ∀ j, j ≠ n → ckOfClk clk j ≠ ckOfClk clk n := by
    intro j hj
    unfold ckOfClk
    omega
  have hq := hm.queue
  have hqs := hm.queues
  have hcl := hm.cluster
  rw [hclk] at hq hqs hcl hfull
  rw [hmod] at hq hqs hfull
  generalize t.mxMove (ckOfClk clk n) 2 = u at *
  refine ⟨?_, ?_, fun j hj => ?_, fun j hj => ?_, fun j hj hj8 => ?_⟩
  · obtain ⟨_, _, rfl⟩ := h.frame
    obtain ⟨cores, clus, rfl⟩ := hm.frame
    exact ⟨cores, clus, rfl⟩
  · rw [hcl, h.cluster]
  · rw [← h.queue j hj]
    by_cases hjn : j = n
    · subst hjn
      rw [hq, hm.core, List.append_assoc]
    · rw [hqs j hjn, hm.cores _ (hne j hjn)]
  · by_cases hjn : j = n
    · subst hjn
      rw [← (h.later j le_rfl hn).2, ← hfr]
      exact hfull
    · rw [hqs j hjn, hm.cores _ (hne j hjn)]
      exact h.full j (by omega)
  · rw [hqs j (by omega), hm.cores _ (hne j (by omega))]
    exact h.later j (by omega) hj8

theorem mxMoveAll_moved (s : State) (clk : Nat) : MxMovedAll s (s.mxMoveAll clk) clk 8 := by
  have hrange : ∀ n, n ≤ 8 → MxMovedAll s ((List.range n).foldl (fun t j => t.mxMove (ckOfClk clk j) 2) s) clk n := by
    intro n
    induction n with
    | zero => exact fun _ => ⟨⟨_, _, rfl⟩, rfl, fun _ _ => rfl, fun j hj => absurd hj (Nat.not_lt_zero j), fun _ _ _ => ⟨rfl, rfl⟩⟩
    | succ n ih =>
      intro hn
      rw [List.range_succ, List.foldl_append]
      exact (ih (by omega)).next hn
  exact hrange 8 le_rfl

end Sys2Proof.Machine
end

section
/-!
What starting a command of the matrix unit leaves of its cluster, and the first visit of the unit's round (11:R297 to R304, 07:R203).
-/

namespace Sys2Proof.Machine

/-! ## What noting an access leaves of the clusters -/

/-- The clock and the clusters, but for what their TLBs hold, are as before. -/
structure ClustersKept (s t : State) : Prop where
  now : t.now = s.now
  cluster : ∀ k, t.cluster k = { s.cluster k with tlb := (t.cluster k).tlb }

theorem ClustersKept.of_eq {s t : State} (hc : t.clus = s.clus) (hn : t.now = s.now) : ClustersKept s t where
  now := hn
  cluster := fun k => by
    unfold State.cluster
    rw [hc]

theorem ClustersKept.trans {s t u : State} (h : ClustersKept s t) (k : ClustersKept t u) : ClustersKept s u where
  now := k.now.trans h.now
  cluster := fun n => by rw [k.cluster, h.cluster]

theorem event_kept (s : State) (kind sl cx vf detail value : Nat) : ClustersKept s (s.event kind sl cx vf detail value) := by
  unfold State.event
  dsimp only
  split <;> exact .of_eq rfl rfl

theorem dirtyLog_kept (s : State) (cx p : Nat) : ClustersKept s (s.dirtyLog cx p) := by
  unfold State.dirtyLog
  dsimp only
  split
  · exact .of_eq rfl rfl
  split
  · exact .of_eq rfl rfl
  · exact ClustersKept.trans (t := s.setVf _ _) (.of_eq rfl rfl) (event_kept _ _ _ _ _ _ _)

theorem wrByte_kept (s : State) (key pa : Nat) (v : Byte) : ClustersKept s (s.wrByte key pa v) := by
  obtain ⟨m, ks, h⟩ := putAll_shape key [(pa, v)] s
  have h' : s.wrByte key pa v = { s with mem := m, keyOf := ks } := h
  rw [h']
  exact .of_eq rfl rfl

theorem setD_kept (s : State) (cx ipa : Nat) : ClustersKept s (s.setD cx ipa) := by
  unfold State.setD
  split
  · split
    · exact (dirtyLog_kept s cx _).trans (wrByte_kept _ _ _ _)
    · exact .of_eq rfl rfl
  · exact .of_eq rfl rfl

theorem modCluster_tlb_kept (s : State) (k : Nat) (f : List TlbEnt → List TlbEnt) : ClustersKept s (s.modCluster k (fun c => { c with tlb := f c.tlb })) where
  now := rfl
  cluster := fun n => by
    by_cases h : n = k
    · rw [h, modCluster_cluster_same]
    · rw [modCluster_cluster_other _ _ _ _ h]

theorem noteAccess_kept (s : State) (qk cx va : Nat) (wr : Bool) : ClustersKept s (s.noteAccess qk cx va wr) := by
  unfold State.noteAccess
  split
  · next e _ =>
    refine ClustersKept.trans ?_ (modCluster_tlb_kept _ _ (fun l => tlbPut 1024 l _))
    refine ClustersKept.trans (t := if (wr && !e.d) = true then s.setD cx (e.ipage * 65536 + va % 65536) else s) ?_ (.of_eq rfl rfl)
    split
    · exact setD_kept s _ _
    · exact .of_eq rfl rfl
  · exact .of_eq rfl rfl

theorem engNote_kept (s : State) (ck : Nat) (wr : Bool) (ps : List (Nat × Nat × Place)) : ClustersKept s (s.engNote ck wr ps) := by
  unfold State.engNote
  induction ps generalizing s with
  | nil => exact .of_eq rfl rfl
  | cons e ps ih =>
    refine ClustersKept.trans ?_ (ih _)
    have hacc : ClustersKept s (if e.2.2.global then s.noteAccess (qkOfCk ck) (s.runCx (slOfCk ck)) e.1 wr else s) := by
      split
      · exact noteAccess_kept s _ _ _ _
      · exact .of_eq rfl rfl
    dsimp only
    generalize (if e.2.2.global = true then _ else s) = t at hacc ⊢
    refine hacc.trans ?_
    · split
      · exact event_kept _ _ _ _ _ _ _
      · exact .of_eq rfl rfl

/-! ## What a command's start leaves of its unit -/

/-- The started commands and the queues of a cluster's unit, and the clock, are as before. -/
structure UnitKept (s t : State) (clk : Nat) : Prop where
  now : t.now = s.now
  runs : (t.cluster clk).runs = (s.cluster clk).runs
  mxqs : (t.cluster clk).mxqs = (s.cluster clk).mxqs

theorem UnitKept.refl (s : State) (clk : Nat) : UnitKept s s clk := ⟨rfl, rfl, rfl⟩

theorem ClustersKept.unit {s t : State} (h : ClustersKept s t) (clk : Nat) : UnitKept s t clk := by
  refine ⟨h.now, ?_, ?_⟩ <;> rw [h.cluster]

theorem UnitKept.modCluster {s t : State} {clk : Nat} (h : UnitKept s t clk) (f : Cluster → Cluster) (hr : ∀ u, (f u).runs = u.runs)
    (hq : ∀ u, (f u).mxqs = u.mxqs) : UnitKept s (t.modCluster clk f) clk where
  now := h.now
  runs := by rw [modCluster_cluster_same, hr, h.runs]
  mxqs := by rw [modCluster_cluster_same, hq, h.mxqs]

theorem mxFail_ne_run (d : Nat) (wr : Bool) (e : EngChk) (t : State) (n : Nat) (bs : List (Nat × Byte)) : mxFail d wr e ≠ .run t n bs := by
  cases e <;> exact fun h => nomatch h

theorem startBload_unit {s t : State} {ck n : Nat} {c : MxCmd} {bs : List (Nat × Byte)} (h : s.startBload ck c = .run t n bs) : UnitKept s t (clkOfCk ck) := by
  unfold State.startBload at h
  dsimp only at h
  split at h
  · exact absurd h (mxFail_ne_run _ _ _ _ _ _)
  split at h
  · exact absurd h (mxFail_ne_run _ _ _ _ _ _)
  · cases h
    exact ((engNote_kept _ _ _ _).unit _).modCluster _ (fun _ => rfl) (fun _ => rfl)

theorem startMma_unit {s t : State} {ck n mask : Nat} {c : MxCmd} {bs : List (Nat × Byte)} (h : s.startMma ck c mask = .run t n bs) :
    UnitKept s t (clkOfCk ck) := by
  unfold State.startMma at h
  dsimp only at h
  split at h
  · exact absurd h (mxFail_ne_run _ _ _ _ _ _)
  · cases h
    exact ((engNote_kept _ _ _ _).unit _).modCluster _ (fun _ => rfl) (fun _ => rfl)

theorem startMrd_unit {s t : State} {ck n : Nat} {c : MxCmd} {bs : List (Nat × Byte)} (h : s.startMrd ck c = .run t n bs) : UnitKept s t (clkOfCk ck) := by
  unfold State.startMrd at h
  dsimp only at h
  split at h
  · exact absurd h (mxFail_ne_run _ _ _ _ _ _)
  · cases h
    exact (engNote_kept _ _ _ _).unit _

theorem startMwt_unit {s t : State} {ck n : Nat} {c : MxCmd} {bs : List (Nat × Byte)} (h : s.startMwt ck c = .run t n bs) : UnitKept s t (clkOfCk ck) := by
  unfold State.startMwt at h
  dsimp only at h
  split at h
  · exact absurd h (mxFail_ne_run _ _ _ _ _ _)
  · cases h
    exact ((engNote_kept _ _ _ _).unit _).modCluster _ (fun _ => rfl) (fun _ => rfl)

/-- A command that starts leaves the unit's queues and what it has started. -/
theorem mxStartCmd_unit {s t : State} {ck n : Nat} {c : MxCmd} {bs : List (Nat × Byte)} (h : s.mxStartCmd ck c = .run t n bs) :
    UnitKept s t (clkOfCk ck) := by
  unfold State.mxStartCmd at h
  split at h
  · exact startBload_unit h
  · cases h
    exact (UnitKept.refl s _).modCluster _ (fun _ => rfl) (fun _ => rfl)
  · exact startMma_unit h
  · exact startMma_unit h
  · exact startMrd_unit h
  · exact startMwt_unit h
  · cases h
    exact UnitKept.refl s _

/-! ## Taking the head of a queue -/

/-- The head of a core's queue at the unit has been taken: its cluster changes only in the queues and in the turn. -/
structure MxTaken (s t : State) (ck : Nat) : Prop where
  now : t.now = s.now
  cluster : t.cluster (clkOfCk ck) = { s.cluster (clkOfCk ck) with mxqs := (t.cluster (clkOfCk ck)).mxqs, turn := (t.cluster (clkOfCk ck)).turn }
  queue : ∃ more, tget [] (t.cluster (clkOfCk ck)).mxqs (ck % 8) = (tget [] (s.cluster (clkOfCk ck)).mxqs (ck % 8)).drop 1 ++ more

theorem MxTaken.then_moved {s t u : State} {ck : Nat} {mv : List MxCmd} (h : MxTaken s t ck) (k : MxMoved t u ck mv) : MxTaken s u ck where
  now := by
    obtain ⟨_, _, rfl⟩ := k.frame
    exact h.now
  cluster := by rw [k.cluster, h.cluster]
  queue := by
    obtain ⟨more, hq⟩ := h.queue
    exact ⟨more ++ mv, by rw [k.queue, hq, List.append_assoc]⟩

theorem MxTaken.modCore {s t : State} {ck : Nat} (h : MxTaken s t ck) (k : Nat) (f : Core → Core) : MxTaken s (t.modCore k f) ck where
  now := h.now
  cluster := h.cluster
  queue := h.queue

theorem MxTaken.turn {s t : State} {ck : Nat} (h : MxTaken s t ck) (n : Nat) : MxTaken s (t.modCluster (clkOfCk ck) (fun u => { u with turn := n })) ck where
  now := h.now
  cluster := by rw [modCluster_cluster_same, h.cluster]
  queue := by
    rw [modCluster_cluster_same]
    exact h.queue

theorem mxTake_taken (s : State) (ck : Nat) (c : MxCmd) : MxTaken s (s.mxTake ck c) ck := by
  have hdrop : MxTaken s (s.modCluster (clkOfCk ck) (fun u =>
      { u with mxqs := tput u.mxqs (ck % 8) ((tget [] u.mxqs (ck % 8)).drop 1), turn := u.turn - 1 })) ck := by
    refine ⟨rfl, ?_, [], ?_⟩ <;> rw [modCluster_cluster_same]
    rw [tget_tput_same, List.append_nil]
  unfold State.mxTake
  dsimp only
  generalize s.modCluster (clkOfCk ck) _ = t at hdrop ⊢
  have hspq : MxTaken s (if c.kind = 3 then t.modCore ck (fun x => { x with spq := x.spq.drop 1 }) else t) ck := by
    split
    · exact hdrop.modCore _ _
    · exact hdrop
  generalize (if c.kind = 3 then _ else t) = t' at hspq ⊢
  obtain ⟨mv, hm⟩ := mxMove_moved ck 2 t'
  have hmv := hspq.then_moved hm
  split
  · exact hmv.turn _
  · exact hmv

theorem mxMove_gangs (s : State) (ck n : Nat) : (s.mxMove ck n).gangs = s.gangs := by
  obtain ⟨_, h⟩ := mxMove_moved ck n s
  obtain ⟨_, _, heq⟩ := h.frame
  rw [heq]

theorem mxTake_gangs (s : State) (ck : Nat) (c : MxCmd) : (s.mxTake ck c).gangs = s.gangs := by
  unfold State.mxTake
  dsimp only
  split <;> split <;> exact mxMove_gangs _ _ _

end Sys2Proof.Machine
end

section
/-!
Starting a command (11:R297 to R304, 24:R470).
-/

namespace Sys2Proof.Machine

/-- The run that starting a command adds to its unit (11:R302, R305, R307). -/
def MxCmd.started (c : MxCmd) (core now cycles status : Nat) (bytes : List (Nat × Byte)) (fl : Nat) : MxRun :=
  { core := core, cmd := c, cycles := cycles, free := now + cycles, done := now + cycles + 24, status := status, bytes := bytes,
    flags := fl % 4, seen := BitVec.ofNat 64 fl }

/-- A command has left its queue and runs. -/
structure MxStarted (s t : State) (ck : Nat) (c : MxCmd) (cycles status : Nat) (bytes : List (Nat × Byte)) : Prop where
  arrayFree : (t.cluster (clkOfCk ck)).arrayFree = s.now + cycles
  runs : (t.cluster (clkOfCk ck)).runs = (s.cluster (clkOfCk ck)).runs ++
    [c.started (ck % 8) s.now cycles status bytes (tget {} (t.cluster (clkOfCk ck)).z c.reg).flags]
  queue : ∃ more, tget [] (t.cluster (clkOfCk ck)).mxqs (ck % 8) = (tget [] (s.cluster (clkOfCk ck)).mxqs (ck % 8)).drop 1 ++ more
  z : (t.cluster (clkOfCk ck)).z = (s.cluster (clkOfCk ck)).z
  banks : (t.cluster (clkOfCk ck)).banks = (s.cluster (clkOfCk ck)).banks

theorem mxRun_started {s t : State} {ck : Nat} (h : MxTaken s t ck) (c : MxCmd) (cycles status : Nat) (bytes : List (Nat × Byte)) :
    MxStarted s (t.mxRun ck c cycles status bytes) ck c cycles status bytes := by
  obtain ⟨more, hq⟩ := h.queue
  have hcl := h.cluster
  refine ⟨?_, ?_, ⟨more, ?_⟩, ?_, ?_⟩ <;> unfold State.mxRun <;> rw [modCluster_cluster_same]
  · rw [h.now]
  · rw [← h.now, hcl]
    rfl
  · exact hq
  · rw [hcl]
  · rw [hcl]

/-! ## A fault of an engine -/

theorem recordFault_clus (s : State) (who : Pusher) (cause detail : Nat) (flt : W32) (va : Word) : (s.recordFault who cause detail flt va).clus = s.clus := by
  unfold State.recordFault
  dsimp only
  split <;> rfl

theorem recordFault_now (s : State) (who : Pusher) (cause detail : Nat) (flt : W32) (va : Word) : (s.recordFault who cause detail flt va).now = s.now := by
  unfold State.recordFault
  dsimp only
  split <;> rfl

theorem recordFault_taken {s t : State} {ck : Nat} (h : MxTaken s t ck) (who : Pusher) (cause detail : Nat) (flt : W32) (va : Word) :
    MxTaken s (t.recordFault who cause detail flt va) ck := by
  have hcl : (t.recordFault who cause detail flt va).cluster (clkOfCk ck) = t.cluster (clkOfCk ck) := by
    unfold State.cluster
    rw [recordFault_clus]
  refine ⟨(recordFault_now _ _ _ _ _ _).trans h.now, ?_, ?_⟩ <;> rw [hcl]
  · exact h.cluster
  · exact h.queue

theorem recordFault_faulted (s : State) (who : Pusher) (cause detail : Nat) (flt : W32) (va : Word) :
    Faulted s (s.recordFault who cause detail flt va) who cause detail flt va := by
  intro hlive hact hlen
  have hmine : ((s.gang who.gk).live && (s.gang who.gk).actId == who.actId && decide ((s.gang who.gk).efaults.length < 4)) = true := by
    rw [hlive, hact, beq_self_eq_true, decide_eq_true hlen]
    rfl
  unfold State.recordFault
  dsimp only
  rw [if_pos hmine, modGang_gang_same]

/-! ## Starting the head -/

theorem countMx_zero (s : State) (ck : Nat) : s.countMx ck 0 = s := rfl

/-- The state that a start has led to, once the mismatch count of a step is clear. -/
def State.mxClear (t : State) (ck : Nat) (c : MxCmd) : State :=
  if c.kind = 2 ∨ c.kind = 3 then t.modCluster (clkOfCk ck) (fun u => { u with mxErr := 0 }) else t

theorem mxClear_unit (t : State) (ck : Nat) (c : MxCmd) : UnitKept t (t.mxClear ck c) (clkOfCk ck) ∧
    ((t.mxClear ck c).cluster (clkOfCk ck)).z = (t.cluster (clkOfCk ck)).z ∧ ((t.mxClear ck c).cluster (clkOfCk ck)).banks = (t.cluster (clkOfCk ck)).banks := by
  unfold State.mxClear
  split
  · refine ⟨(UnitKept.refl t _).modCluster _ (fun _ => rfl) (fun _ => rfl), ?_, ?_⟩ <;> rw [modCluster_cluster_same]
  · exact ⟨UnitKept.refl t _, rfl, rfl⟩

theorem mxGo_run {s t : State} {ck cycles : Nat} {c : MxCmd} {bytes : List (Nat × Byte)} (h : s.mxStartCmd ck c = .run t cycles bytes)
    (he : (s.cluster (clkOfCk ck)).mxErr = 0) : (s.mxGo ck c).1 = some (((t.mxClear ck c).mxTake ck c).mxRun ck c cycles 0 bytes) := by
  unfold State.mxGo
  simp only [h, he]
  rw [if_neg (fun h => absurd h.2 (by decide))]
  simp only [countMx_zero]
  rfl

theorem mxGo_fail {s : State} {ck d cause va : Nat} {c : MxCmd} (h : s.mxStartCmd ck c = .fail d cause va) :
    (s.mxGo ck c).1 = some (((s.mxTake ck c).recordFault c.who cause d c.who.act (BitVec.ofNat 64 va)).mxRun ck c 1 (d * 256 + cause) []) := by
  unfold State.mxGo
  simp only [h]

theorem mxVisit_head {s t : State} {clk n : Nat} {x : MxCmd} {rest : List MxCmd} (hq : tget [] (s.cluster clk).mxqs (s.cluster clk).rr = x :: rest)
    (hturn : (s.cluster clk).turn ≠ 0) (hready : s.mxReady (ckOfClk clk (s.cluster clk).rr) x = true)
    (hheld : s.s2Held (slOfCk (ckOfClk clk (s.cluster clk).rr)) (.matrix (ckOfClk clk (s.cluster clk).rr)) = false)
    (hinj : (s.injOff (slOfCk (ckOfClk clk (s.cluster clk).rr)) && x.beyond) = false)
    (hgo : (s.mxGo (ckOfClk clk (s.cluster clk).rr) x).1 = some t) : s.mxVisit clk (n + 1) = t := by
  have hskip : ¬ ((s.cluster clk).turn = 0 ∨ s.mxReady (ckOfClk clk (s.cluster clk).rr) x = false ∨
      s.s2Held (slOfCk (ckOfClk clk (s.cluster clk).rr)) (.matrix (ckOfClk clk (s.cluster clk).rr)) = true ∨
      (s.injOff (slOfCk (ckOfClk clk (s.cluster clk).rr)) && x.beyond) = true) := by
    rw [hready, hheld, hinj]
    simpa using hturn
  unfold State.mxVisit
  simp only [hq]
  rw [if_neg hskip]
  cases hs : s.mxGo (ckOfClk clk (s.cluster clk).rr) x with
  | mk o t' =>
    rw [hs] at hgo
    subst hgo
    rfl

theorem any_of_tget {q : Tab (List MxCmd)} {j : Nat} {x : MxCmd} {rest : List MxCmd} (h : tget [] q j = x :: rest) :
    q.any (fun e => !e.2.isEmpty) = true := by
  induction q with
  | nil => cases h
  | cons e q ih =>
    obtain ⟨k, v⟩ := e
    rw [tget] at h
    rw [List.any_cons]
    split at h
    · rw [h]
      rfl
    · rw [ih h, Bool.or_true]

/-! ## The step -/

theorem execMxCommandStart_idle {s : State} {sl clus : Nat}
    (h : s.now < (s.cluster (clkOf sl clus)).arrayFree ∨ s.preempted sl = true ∨ s.gateOpen = false) :
    exec (.mxCommandStart sl clus) s = .next (s.mxMoveAll (clkOf sl clus)) := by
  have hm := mxMoveAll_moved s (clkOf sl clus)
  show execMxCommandStart sl clus s = _
  unfold execMxCommandStart
  dsimp only
  rw [hm.cluster]
  obtain ⟨cores, clus', heq⟩ := hm.frame
  rw [if_neg]
  rintro ⟨hfree, -, hpre, hgate⟩
  rw [heq] at hfree hpre hgate
  rcases h with h | h | h
  · exact absurd hfree (Nat.not_le.mpr h)
  · exact absurd (hpre.symm.trans h) Bool.false_ne_true
  · exact absurd (h.symm.trans hgate) Bool.false_ne_true

theorem execMxCommandStart_visit {s : State} {sl clus j : Nat} {x : MxCmd} {rest : List MxCmd}
    (hq : tget [] ((s.mxMoveAll (clkOf sl clus)).cluster (clkOf sl clus)).mxqs j = x :: rest)
    (hfree : (s.cluster (clkOf sl clus)).arrayFree ≤ s.now) (hpre : s.preempted sl = false) (hgate : s.gateOpen = true) :
    exec (.mxCommandStart sl clus) s = .next ((s.mxMoveAll (clkOf sl clus)).mxVisit (clkOf sl clus) 9) := by
  have hm := mxMoveAll_moved s (clkOf sl clus)
  obtain ⟨cores, clus', heq⟩ := hm.frame
  have hfree' : ((s.mxMoveAll (clkOf sl clus)).cluster (clkOf sl clus)).arrayFree ≤ (s.mxMoveAll (clkOf sl clus)).now := by
    rw [hm.cluster, heq]
    exact hfree
  have hpre' : (s.mxMoveAll (clkOf sl clus)).preempted sl = false := by
    rw [heq]
    exact hpre
  have hgate' : (s.mxMoveAll (clkOf sl clus)).gateOpen = true := by
    rw [heq]
    exact hgate
  show execMxCommandStart sl clus s = _
  unfold execMxCommandStart
  dsimp only
  rw [if_pos ⟨hfree', any_of_tget hq, hpre', hgate'⟩]

/-- The step starts the head of the core it visits, where nothing holds it. -/
theorem execMxCommandStart_head {s t : State} {sl clus : Nat} {x : MxCmd} {rest : List MxCmd} {u : Cluster} {ck : Nat}
    (hu : u = s.cluster (clkOf sl clus)) (hck : ck = ckOfClk (clkOf sl clus) u.rr)
    (hq : tget [] ((s.mxMoveAll (clkOf sl clus)).cluster (clkOf sl clus)).mxqs u.rr = x :: rest) (hfree : u.arrayFree ≤ s.now)
    (hpre : s.preempted sl = false) (hgate : s.gateOpen = true) (hturn : u.turn ≠ 0) (hready : (s.mxMoveAll (clkOf sl clus)).mxReady ck x = true)
    (hheld : (s.mxMoveAll (clkOf sl clus)).s2Held (slOfCk ck) (.matrix ck) = false)
    (hinj : ((s.mxMoveAll (clkOf sl clus)).injOff (slOfCk ck) && x.beyond) = false)
    (hgo : ((s.mxMoveAll (clkOf sl clus)).mxGo ck x).1 = some t) : exec (.mxCommandStart sl clus) s = .next t := by
  subst hu hck
  have hm := mxMoveAll_moved s (clkOf sl clus)
  have hrr : ((s.mxMoveAll (clkOf sl clus)).cluster (clkOf sl clus)).rr = (s.cluster (clkOf sl clus)).rr := by rw [hm.cluster]
  refine (execMxCommandStart_visit hq hfree hpre hgate).trans (congrArg Host.Outcome.next ?_)
  refine mxVisit_head (x := x) (rest := rest) (by rw [hrr]; exact hq) (by rw [hm.cluster]; exact hturn) ?_ ?_ ?_ ?_ <;> rw [hrr]
  · exact hready
  · exact hheld
  · exact hinj
  · exact hgo

theorem theUnitStartsAReadyCommand : Says.TheUnitStartsAReadyCommand := by
  intro s sl clus x rest clk u ck i m run
  have hm : MxMovedAll s m clk 8 := mxMoveAll_moved s clk
  refine ⟨⟨by rw [hm.cluster], by rw [hm.cluster], by rw [hm.cluster], by rw [hm.cluster], fun j hj => ⟨hm.queue j hj, hm.full j hj⟩⟩,
    execMxCommandStart_idle, ?_⟩
  intro hlt hq hfree hpre hgate hturn hready herr hheld hinj
  obtain ⟨hclk, hmod⟩ : clkOfCk ck = clk ∧ ck % 8 = u.rr := ckOfClk_cluster hlt
  have hruns : (m.cluster clk).runs = u.runs := by rw [hm.cluster]
  have hnow : m.now = s.now := by
    obtain ⟨_, _, heq⟩ := hm.frame
    rw [heq]
  have herr' : (m.cluster (clkOfCk ck)).mxErr = 0 := by
    rw [hclk, hm.cluster]
    exact herr
  have hstep : ∀ t, (m.mxGo ck x).1 = some t → exec i s = .next t := fun _ =>
    execMxCommandStart_head (u := u) rfl rfl hq hfree hpre hgate hturn hready hheld hinj
  -- what a start in a state with the unit's queues and runs as they were leaves is what is stated of the run
  have hrun : ∀ (a t : State) (cycles status : Nat) (bytes : List (Nat × Byte)), UnitKept m a clk → MxStarted a t ck x cycles status bytes →
      run t cycles status bytes := by
    intro a t cycles status bytes hk ht
    have h1 := ht.arrayFree
    have h2 := ht.runs
    obtain ⟨more, h3⟩ := ht.queue
    rw [hclk, hk.now, hnow] at h1
    rw [hclk, hmod, hk.now, hnow, hk.runs, hruns] at h2
    rw [hclk, hmod, hk.mxqs, hq] at h3
    exact ⟨h1, h2, more, h3⟩
  have hrunning : ∀ t0 cycles bytes, m.mxStartCmd ck x = .run t0 cycles bytes → ∃ t, exec i s = .next t ∧ run t cycles 0 bytes ∧
      (t.cluster clk).z = (t0.cluster clk).z ∧ (t.cluster clk).banks = (t0.cluster clk).banks := by
    intro t0 cycles bytes h
    have h0 := mxStartCmd_unit h
    obtain ⟨h1, hz, hb⟩ := mxClear_unit t0 ck x
    have hst := mxRun_started (mxTake_taken (t0.mxClear ck x) ck x) x cycles 0 bytes
    rw [hclk] at h0 h1 hz hb
    refine ⟨_, hstep _ (mxGo_run h herr'), hrun _ _ _ _ _ ⟨h1.now.trans h0.now, h1.runs.trans h0.runs, h1.mxqs.trans h0.mxqs⟩ hst, ?_, ?_⟩
    · rw [← hz, ← hclk]
      exact hst.z
    · rw [← hb, ← hclk]
      exact hst.banks
  refine ⟨hrunning, fun hkind => ?_, fun d cause va h => ?_⟩
  · have h : m.mxStartCmd ck x = .run (m.modCluster (clkOfCk ck) (fun u => { u with z := tput u.z x.reg { ez := x.opnd.toInt } })) 16 [] := by
      unfold State.mxStartCmd
      simp only [hkind]
    obtain ⟨t, hex, hr, hz, -⟩ := hrunning _ _ _ h
    refine ⟨t, hex, hr, ?_⟩
    rw [hz, hclk, modCluster_cluster_same, tget_tput_same]
  · have hgang : (m.mxTake ck x).gang x.who.gk = s.gang x.who.gk := by
      obtain ⟨_, _, heq⟩ := hm.frame
      have hgangs : (m.mxTake ck x).gangs = s.gangs := by rw [mxTake_gangs, heq]
      unfold State.gang
      rw [hgangs]
    have hst := mxRun_started (recordFault_taken (mxTake_taken m ck x) x.who cause d x.who.act (BitVec.ofNat 64 va)) x 1 (d * 256 + cause) []
    have hfault := recordFault_faulted (m.mxTake ck x) x.who cause d x.who.act (BitVec.ofNat 64 va)
    refine ⟨_, hstep _ (mxGo_fail h), hrun m _ _ _ _ ⟨rfl, rfl, rfl⟩ hst, ?_, ?_⟩
    · unfold Faulted at hfault ⊢
      rw [hgang] at hfault
      exact hfault
    · rw [← hclk, hst.z, hclk, hm.cluster]

end Sys2Proof.Machine
end

section
/-!
What an engine's writes leave (06:R175, 19:R408, 09:R259).
-/

namespace Sys2Proof.Machine

/-! ## Bytes written one after the other -/

theorem wrByte_links (s : State) (key loc : Nat) (b : Byte) : (s.wrByte key loc b).links = s.links := by
  obtain ⟨m, ks, h⟩ := putAll_shape key [(loc, b)] s
  have h' : s.wrByte key loc b = { s with mem := m, keyOf := ks } := h
  rw [h']

/-- A byte that no write's location shows reads as before. -/
theorem rdByte_putAll_other (key a : Nat) (ws : List (Nat × Byte)) (s : State) (hm : s.MemOk) (ha : ∀ e ∈ ws, s.links.home a ≠ s.links.home e.1) :
    (s.putAll key ws).rdByte key a = s.rdByte key a := by
  induction ws generalizing s with
  | nil => rfl
  | cons w ws ih =>
    refine (ih (s.wrByte key w.1 w.2) (wf_wrByte s key w.1 w.2 hm) fun e he => ?_).trans ?_
    · rw [wrByte_links]
      exact ha e (List.mem_cons_of_mem _ he)
    · rw [rdByte_wrByte hm, if_neg (ha w List.mem_cons_self)]

/-- Bytes written at locations that no two of them share read back. -/
theorem rdByte_putAll (key : Nat) (ws : List (Nat × Byte)) (s : State) (hm : s.MemOk) (hnd : (ws.map (fun e => s.links.home e.1)).Nodup)
    (e : Nat × Byte) (he : e ∈ ws) : (s.putAll key ws).rdByte key e.1 = e.2 := by
  induction ws generalizing s with
  | nil => cases he
  | cons w ws ih =>
    have hm' : (s.wrByte key w.1 w.2).MemOk := wf_wrByte s key w.1 w.2 hm
    rw [List.map_cons, List.nodup_cons] at hnd
    rcases List.mem_cons.mp he with rfl | he
    · refine (rdByte_putAll_other key e.1 ws (s.wrByte key e.1 e.2) hm' fun x hx => ?_).trans ?_
      · rw [wrByte_links]
        exact fun h => hnd.1 (List.mem_map.mpr ⟨x, hx, h.symm⟩)
      · rw [rdByte_wrByte hm, if_pos rfl]
    · refine ih (s.wrByte key w.1 w.2) hm' ?_ he
      rw [wrByte_links]
      exact hnd.2

/-! ## What a squash leaves -/

/-- What the end of a command asks of a gang, as it was; its completion queues too where its chunk has popped nothing. -/
structure GangKept (g h : Gang) : Prop where
  live : h.live = g.live
  actId : h.actId = g.actId
  owed : h.owed = g.owed
  cqHeld : h.cqHeld = g.cqHeld
  log : h.ch.log = g.ch.log
  task : h.task = g.task
  cq : g.ch.pops = [] → h.cq = g.cq ∧ h.ch.pops = []

theorem GangKept.refl (g : Gang) : GangKept g g := ⟨rfl, rfl, rfl, rfl, rfl, rfl, fun h => ⟨rfl, h⟩⟩

theorem GangKept.trans {g h k : Gang} (a : GangKept g h) (b : GangKept h k) : GangKept g k where
  live := b.live.trans a.live
  actId := b.actId.trans a.actId
  owed := b.owed.trans a.owed
  cqHeld := b.cqHeld.trans a.cqHeld
  log := b.log.trans a.log
  task := b.task.trans a.task
  cq := fun hp => by
    obtain ⟨hcq, hpops⟩ := a.cq hp
    obtain ⟨hcq', hpops'⟩ := b.cq hpops
    exact ⟨hcq'.trans hcq, hpops'⟩

theorem squash_gangKept (g : Gang) : GangKept g g.squash := by
  unfold Gang.squash
  split
  · exact .refl g
  · exact ⟨rfl, rfl, rfl, rfl, rfl, rfl, fun h => ⟨by rw [h]; rfl, rfl⟩⟩

/-- Memory, links, clusters and what the ends of commands ask of gangs are as before. -/
structure Squashed (s t : State) : Prop where
  mem : t.mem = s.mem
  keyOf : t.keyOf = s.keyOf
  links : t.links = s.links
  clus : t.clus = s.clus
  gang : ∀ k, GangKept (s.gang k) (t.gang k)

theorem Squashed.refl (s : State) : Squashed s s := ⟨rfl, rfl, rfl, rfl, fun _ => .refl _⟩

theorem Squashed.trans {s t u : State} (a : Squashed s t) (b : Squashed t u) : Squashed s u where
  mem := b.mem.trans a.mem
  keyOf := b.keyOf.trans a.keyOf
  links := b.links.trans a.links
  clus := b.clus.trans a.clus
  gang := fun k => (a.gang k).trans (b.gang k)

theorem modGang_squash_squashed (s : State) (gk : Nat) : Squashed s (s.modGang gk Gang.squash) where
  mem := rfl
  keyOf := rfl
  links := rfl
  clus := rfl
  gang := fun k => by
    by_cases h : k = gk
    · rw [h, modGang_gang_same]
      exact squash_gangKept _
    · rw [modGang_gang_other _ _ _ _ h]
      exact .refl _

theorem squashChunk_squashed (s : State) (gk : Nat) : Squashed s (s.squashChunk gk) := by
  have hgang := modGang_squash_squashed s gk
  unfold State.squashChunk
  dsimp only
  split
  · exact hgang.trans ⟨rfl, rfl, rfl, rfl, fun _ => .refl _⟩
  split
  · split <;> exact hgang.trans ⟨rfl, rfl, rfl, rfl, fun _ => .refl _⟩
  · exact hgang.trans ⟨rfl, rfl, rfl, rfl, fun _ => .refl _⟩

theorem squashGang_squashed (s : State) (gk : Nat) (ht : (s.gang gk).task = none) : Squashed s (s.squashGang gk) := by
  unfold State.squashGang
  dsimp only
  split
  · exact .refl s
  · next h => exact absurd (ht.symm.trans h) nofun
  · exact squashChunk_squashed s gk

theorem squashList_squashed (gks : List Nat) (s : State) (ht : ∀ k, (s.gang k).task = none) : Squashed s (s.squashList gks) := by
  induction gks generalizing s with
  | nil => exact .refl s
  | cons gk gks ih =>
    have h := squashGang_squashed s gk (ht gk)
    exact h.trans (ih _ fun k => (h.gang k).task.trans (ht k))

theorem gang_task_of_noTasks {s : State} (h : s.NoTasks none) (k : Nat) : (s.gang k).task = none := by
  unfold State.NoTasks at h
  unfold State.gang
  generalize s.gangs = gangs at h
  induction gangs with
  | nil => rfl
  | cons e gs ih =>
    obtain ⟨j, g⟩ := e
    rw [tget]
    split
    · exact h (j, g) List.mem_cons_self nofun
    · exact ih fun e he => h e (List.mem_cons_of_mem _ he)

/-! ## An engine's writes -/

/-- An engine's writes, without tasks, change memory as they say and leave the clusters and what the ends of commands ask of gangs. -/
theorem engWrite_kept (s : State) (sl : Nat) (ws : List (Nat × Byte)) (ht : s.NoTasks none) :
    (s.engWrite sl ws).clus = s.clus ∧ (∀ k, GangKept (s.gang k) ((s.engWrite sl ws).gang k)) ∧
      ∀ a, (s.engWrite sl ws).rdByte (s.keyNo (s.runCx sl)) a = ((s.wrAll (s.keyNo (s.runCx sl)) ws).rdByte (s.keyNo (s.runCx sl)) a) := by
  obtain ⟨m, k, hshape⟩ := putAll_shape (s.keyNo (s.runCx sl)) ws (s.remember (s.keyNo (s.runCx sl)) (ws.map (fun e => e.1)))
  have hw : s.wrAll (s.keyNo (s.runCx sl)) ws = _ := hshape
  unfold State.engWrite
  generalize s.wrAll (s.keyNo (s.runCx sl)) ws = t at hw ⊢
  have hgangs : t.gangs = s.gangs := by rw [hw]; rfl
  have hgang : ∀ k, t.gang k = s.gang k := fun k => by
    unfold State.gang
    rw [hgangs]
  have hsq : Squashed t (t.squashUsers (secsOf (ws.filter (fun e => spaceOfLoc e.1 != 1)))) :=
    squashList_squashed _ t fun k => by rw [hgang, gang_task_of_noTasks ht]
  refine ⟨hsq.clus.trans (by rw [hw]; rfl), fun k => hgang k ▸ hsq.gang k, fun a => ?_⟩
  unfold State.rdByte
  rw [hsq.mem, hsq.keyOf, hsq.links]

/-- What an engine has written reads back, where no two of its locations show one byte. -/
theorem rdByte_engWrite (s : State) (sl : Nat) (ws : List (Nat × Byte)) (ht : s.NoTasks none) (hm : s.MemOk)
    (hnd : (ws.map (fun e => s.links.home e.1)).Nodup) (e : Nat × Byte) (he : e ∈ ws) :
    (s.engWrite sl ws).rdByte (s.keyNo (s.runCx sl)) e.1 = e.2 := by
  obtain ⟨-, -, hrd⟩ := engWrite_kept s sl ws ht
  rw [hrd]
  exact rdByte_putAll _ ws (s.remember _ _) hm hnd e he

/-! ## The end of a command -/

theorem Recorded.of_kept {s s' t : State} {who : Pusher} {e : Nat} {r : Rec} (hk : GangKept (s.gang who.gk) (s'.gang who.gk))
    (hp : (s.gang who.gk).ch.pops = []) (h : Recorded s' t who e r) : Recorded s t who e r := by
  obtain ⟨hcq, hpops⟩ := hk.cq hp
  have hused : (s'.gang who.gk).cqUsed e = (s.gang who.gk).cqUsed e := by
    unfold Gang.cqUsed
    rw [hcq, hpops, hp]
  obtain ⟨hmine, hover⟩ := h
  rw [hk.live, hk.actId, hcq, hk.cqHeld] at hmine hover
  rw [hk.owed, hused] at hmine
  exact ⟨hmine, hover⟩

theorem writeRec_recorded (s : State) (who : Pusher) (e : Nat) (r : Rec) : Recorded s (s.writeRec who e r) who e r := by
  unfold State.writeRec
  constructor
  · intro hlive hact
    have hmine : ¬ (!((s.gang who.gk).live && (s.gang who.gk).actId == who.actId)) = true := by
      rw [hlive, hact, beq_self_eq_true]
      decide
    rw [modGang_gang_same]
    dsimp only
    rw [if_neg hmine]
    by_cases hroom : (s.gang who.gk).cqUsed e < 8 ∧ tget [] (s.gang who.gk).cqHeld e = []
    · rw [if_pos hroom, if_pos ⟨hroom.1, by rw [hroom.2]; rfl⟩]
      exact ⟨tget_tput_same _ _ _ _, tget_tput_same _ _ _ _, hroom.2⟩
    · rw [if_neg hroom, if_neg fun h => hroom ⟨h.1, List.isEmpty_iff.mp h.2⟩]
      exact ⟨tget_tput_same _ _ _ _, rfl, tget_tput_same _ _ _ _⟩
  · intro hover
    have hnot : (!((s.gang who.gk).live && (s.gang who.gk).actId == who.actId)) = true := by
      rw [Bool.not_eq_true', ← Bool.not_eq_true, Bool.and_eq_true, beq_iff_eq]
      exact hover
    rw [modGang_gang_same, if_pos hnot]
    exact ⟨rfl, rfl⟩

theorem answer_log {s : State} {who : Pusher} (res : List Nat) (hlive : (s.gang who.gk).live = true) (hact : (s.gang who.gk).actId = who.actId) :
    ((s.answer who res).gang who.gk).ch.log = answerIn who res (s.gang who.gk).ch.log := by
  have hmine : ¬ (!((s.gang who.gk).live && (s.gang who.gk).actId == who.actId)) = true := by
    rw [hlive, hact, beq_self_eq_true]
    decide
  unfold State.answer
  rw [modGang_gang_same, if_neg hmine]

theorem fields_two (a b i j : Nat) : fields [(a, i), (b, j)] = BitVec.ofNat 64 (a * 2 ^ i + b * 2 ^ j) := by
  unfold fields
  simp only [List.map_cons, List.map_nil, List.foldl_cons, List.foldl_nil, Nat.zero_add]

theorem fields_four (a b c d i j k l : Nat) :
    fields [(a, i), (b, j), (c, k), (d, l)] = BitVec.ofNat 64 (a * 2 ^ i + b * 2 ^ j + c * 2 ^ k + d * 2 ^ l) := by
  unfold fields
  simp only [List.map_cons, List.map_nil, List.foldl_cons, List.foldl_nil, Nat.zero_add]

theorem mxRec_fields (r : MxRun) (fl : Nat) : mxRec r fl =
    { lo := fields [(r.cmd.seq % 2 ^ 32, 0), (r.cmd.kind, 32), (r.cmd.reg, 40), (fl, 48)], hi := fields [(r.cycles % 2 ^ 32, 0), (r.status, 48)] } := by
  rw [fields_two, fields_four, pow_zero, Nat.mul_one, Nat.mul_one]
  rfl

/-! ## Completing a command (11:R302, R303, R305, R307) -/

/-- What the completion of a run leaves before its record or its answer. -/
def State.mxWritten (s : State) (sl clk : Nat) (r : MxRun) (rest : List MxRun) : State :=
  (s.setCluster clk { s.cluster clk with runs := rest }).engWrite sl r.bytes

/-- What a completed command gives: a record or the answer of `mflag`. -/
def State.mxGive (s : State) (r : MxRun) : State :=
  if r.cmd.kind = 0 then s.writeRec r.cmd.who 1 (mxRec r 0)
  else if r.cmd.kind = 4 ∨ r.cmd.kind = 5 then s.writeRec r.cmd.who 1 (mxRec r r.flags)
  else if r.cmd.kind = 6 then s.answer r.cmd.who [r.seen.toNat]
  else s

/-- A command gives what it gives to a gang only. -/
theorem mxGive_kept (s : State) (r : MxRun) : ∃ gs, s.mxGive r = { s with gangs := gs } := by
  unfold State.mxGive
  split_ifs <;> exact ⟨_, rfl⟩

theorem execMxCommandComplete_waits {s : State} {sl clus : Nat} {r : MxRun} {rest : List MxRun} (hruns : (s.cluster (clkOf sl clus)).runs = r :: rest)
    (h : s.now < r.done ∨ (s.injOff sl && r.cmd.beyond) = true) : exec (.mxCommandComplete sl clus) s = .next s := by
  show execMxCommandComplete sl clus s = _
  unfold execMxCommandComplete
  simp only [hruns]
  rw [if_pos (by tauto)]

theorem execMxCommandComplete_completes {s : State} {sl clus : Nat} {r : MxRun} {rest : List MxRun}
    (hruns : (s.cluster (clkOf sl clus)).runs = r :: rest) (hdone : r.done ≤ s.now) (hinj : (s.injOff sl && r.cmd.beyond) = false)
    (hheld : s.engHeld r.cmd.who (secsOf r.bytes) = false) :
    exec (.mxCommandComplete sl clus) s = .next ((s.mxWritten sl (clkOf sl clus) r rest).mxGive r) := by
  have hgo : ¬ (s.now < r.done ∨ s.engHeld r.cmd.who (secsOf r.bytes) = true ∨ (s.injOff sl && r.cmd.beyond) = true) := by
    rw [hinj, hheld]
    simpa using hdone
  show execMxCommandComplete sl clus s = _
  unfold execMxCommandComplete
  simp only [hruns]
  rw [if_neg hgo]
  rfl

theorem theUnitCompletesInOrder : Says.TheUnitCompletesInOrder := by
  intro s sl clus r rest clk g i record hruns
  refine ⟨execMxCommandComplete_waits hruns, fun hdone hinj hheld ht hpops => ⟨_, execMxCommandComplete_completes hruns hdone hinj hheld, ?_⟩⟩
  obtain ⟨hclus, hgang, -⟩ := engWrite_kept (s.setCluster clk { s.cluster clk with runs := rest }) sl r.bytes ht
  have hback := rdByte_engWrite (s.setCluster clk { s.cluster clk with runs := rest }) sl r.bytes ht
  have hcl : (s.mxWritten sl clk r rest).cluster clk = { s.cluster clk with runs := rest } := by
    unfold State.cluster State.mxWritten
    rw [hclus]
    exact tget_tput_same _ _ _ _
  have hkept : GangKept g ((s.mxWritten sl clk r rest).gang r.cmd.who.gk) := hgang r.cmd.who.gk
  change s.MemOk → (r.bytes.map (fun e => s.links.home e.1)).Nodup → ∀ e ∈ r.bytes,
    (s.mxWritten sl clk r rest).rdByte (s.keyNo (s.runCx sl)) e.1 = e.2 at hback
  change (((s.mxWritten sl clk r rest).mxGive r).cluster clk).runs = rest ∧ (((s.mxWritten sl clk r rest).mxGive r).cluster clk).z = _ ∧ _
  generalize s.mxWritten sl clk r rest = w at hcl hkept hback ⊢
  have hgive : (w.mxGive r).cluster clk = w.cluster clk ∧ ∀ key a, (w.mxGive r).rdByte key a = w.rdByte key a := by
    obtain ⟨_, h⟩ := mxGive_kept w r
    rw [h]
    exact ⟨rfl, fun _ _ => rfl⟩
  refine ⟨by rw [hgive.1, hcl], by rw [hgive.1, hcl], fun hm hnd e he => (hgive.2 _ _).trans (hback hm hnd e he), fun hkind => ?_, fun hkind => ?_, ?_⟩
  · have hrec := writeRec_recorded w r.cmd.who 1 (mxRec r 0)
    rw [mxRec_fields] at hrec
    unfold State.mxGive
    rw [if_pos hkind, mxRec_fields]
    exact hrec.of_kept hkept hpops
  · have hrec := writeRec_recorded w r.cmd.who 1 (mxRec r r.flags)
    rw [mxRec_fields] at hrec
    unfold State.mxGive
    rw [if_neg (by omega), if_pos hkind, mxRec_fields]
    exact hrec.of_kept hkept hpops
  · intro hkind hlive hact e more hlog hnew hword hact'
    unfold State.mxGive
    rw [if_neg (by omega), if_neg (by omega), if_pos hkind, answer_log _ (hkept.live.trans hlive) (hkept.actId.trans hact), hkept.log, hlog, answerIn,
      if_pos ⟨hnew, hword, hact'⟩]

/-- Settles O55: the queues pass by an invariant over the cores of the cluster; a start leaves the unit's queues and runs, so the run it adds is the one
said; a completion writes its bytes, and without tasks the squashes it causes leave what its record or answer needs; steps of the tile are exact
sums with one rounding per contribution. -/
theorem theMatrixUnitCarriesOut : Obligations.TheMatrixUnitCarriesOut :=
  ⟨theUnitStartsAReadyCommand, theUnitCompletesInOrder, matrixStepsAddContributions⟩

end Sys2Proof.Machine
end

section
/-!
A task's commit on a core whose number no slice has (03:R78, 03:R86, log 4): why the statement on commits, which takes any gang key, fails.
-/

namespace Sys2Proof.Machine

/-- A core number whose TCM lies at the locations of peer memory: the TCM of core `ck` begins at `2 ^ 52 + 2 ^ 15 * ck`, and the memory of peer 0
at `2 ^ 80` (log 4). -/
def peerCore : Nat := 2 ^ 65 - 2 ^ 37

theorem tcmLoc_peerCore {off : Nat} (h : off < 2 ^ 64) : tcmLoc peerCore off = peerLoc 0 off := by
  unfold tcmLoc peerLoc peerCore
  omega

/-- A finished task on that core has held one record back. The core's deque holds 64 records, so that the 65th spills the oldest one, to offset
0x7400 of the TCM. Aperture 0 shows the memory of peer 0 from there on. -/
def spillsOntoPeer : State :=
  { State.reset with
    gangs := [(gkOf peerCore 0, { live := true
                                  task := some { stamp := 0#64, spec := true, aborts := 0, held := [[(true, 0, {})]], carried := [],
                                                 finished := true, waitLow := false } })]
    cores := [(peerCore, { deque := List.replicate 64 { entry := 1#64 } })]
    links := { apertures := [(0, (0, 0x7400))] } }

/-- The first location of aperture 0. -/
def aperture0 : Nat := 2 ^ 47 + 2 ^ 46

theorem home_aperture0 : spillsOntoPeer.links.home aperture0 = tcmLoc peerCore 0x7400 := by decide

set_option maxRecDepth 4000 in
/-- The commit spills the oldest record onto the byte that the aperture shows. -/
theorem taskCommit_spillsOntoPeer : ∃ t, exec (.taskCommit (gkOf peerCore 0)) spillsOntoPeer = .next t ∧
    t.seen (gkOf peerCore 0) aperture0 = 1#8 := ⟨_, rfl, by decide⟩

/-- The task's chunk has written nothing. -/
theorem published_spillsOntoPeer : spillsOntoPeer.published (gkOf peerCore 0) aperture0 = 0#8 := by decide

theorem not_commitsPublishTheChunk : ¬ Says.CommitsPublishTheChunk := by
  intro h
  obtain ⟨t, ht, hspilled⟩ := taskCommit_spillsOntoPeer
  obtain ⟨-, htask⟩ := h spillsOntoPeer (gkOf peerCore 0) rfl rfl rfl rfl (by decide) (by unfold State.NoTasks; decide)
    (by unfold State.ExtsOk; decide) (by decide)
  obtain ⟨u, hu, -, hkept, -⟩ := htask _ rfl rfl rfl (by decide) (by decide) (by decide)
  obtain rfl : t = u := by simpa [ht] using hu
  have hsame := hkept aperture0 (.inl (by decide))
  rw [hspilled, published_spillsOntoPeer] at hsame
  exact absurd hsame (by decide)

/-- Refutes O46: in `spillsOntoPeer` the commit of a task changes what an aperture outside the TCM system area reads as, since the statement takes
every number as a gang key. -/
theorem not_commitsAndResultsLand : ¬ Obligations.CommitsAndResultsLand := fun h => not_commitsPublishTheChunk h.1

end Sys2Proof.Machine
end

section
/-!
Trains on their way: what sends packets leaves of every quad (07:R198 to R200, 09:R249, 19:R412).
-/

namespace Sys2Proof.Machine

/-! ## Trains that are appended -/

/-- Trains appended to quads, one after the other: every quad gains those that go to it, in order. -/
theorem foldl_addTrain_quad {α : Type} (dest : α → Nat) (train : α → Train) (es : List α) (s : State) (qk : Nat) :
    (es.foldl (fun t e => t.modQuad (dest e) (fun q => { q with trains := q.trains ++ [train e] })) s).quad qk =
      { s.quad qk with trains := (s.quad qk).trains ++ (es.filter (fun e => dest e == qk)).map train } := by
  induction es generalizing s with
  | nil => simp
  | cons e es ih =>
    rw [List.foldl_cons, ih]
    by_cases h : dest e = qk
    · subst h
      simp
    · rw [modQuad_quad_other _ _ _ _ (Ne.symm h), List.filter_cons_of_neg (by simpa using h)]

/-- Appending trains changes quads only. -/
theorem foldl_addTrain_shape {α : Type} (dest : α → Nat) (train : α → Train) (es : List α) (s : State) :
    ∃ qs, es.foldl (fun t e => t.modQuad (dest e) (fun q => { q with trains := q.trains ++ [train e] })) s = { s with quads := qs } := by
  induction es generalizing s with
  | nil => exact ⟨s.quads, rfl⟩
  | cons e es ih =>
    obtain ⟨qs, h⟩ := ih (s.modQuad (dest e) (fun q => { q with trains := q.trains ++ [train e] }))
    exact ⟨qs, h⟩

/-! ## Injected trains (15:R376) -/

/-- The packets of a list that go to one destination, in order. -/
def packetsTo (ps : List (Nat × Packet)) (q : Nat) : List Packet := (ps.filter (fun e => e.1 == q)).map (fun e => e.2)

theorem filter_groupDest (ps : List (Nat × Packet)) (q : Nat) :
    (groupDest ps).filter (fun e => e.1 == q) = if packetsTo ps q = [] then [] else [(q, packetsTo ps q)] := by
  induction ps with
  | nil => rfl
  | cons e ps ih =>
    obtain ⟨d, p⟩ := e
    by_cases h : d = q
    · subst h
      have hmine : packetsTo ((d, p) :: ps) d = p :: packetsTo ps d := by simp [packetsTo]
      have hgot : (((groupDest ps).find? (fun e => e.1 == d)).map (fun e => e.2)).getD [] = packetsTo ps d := by
        rw [← List.head?_filter, ih]
        split_ifs with h0
        · exact h0.symm
        · rfl
      have hrest : ((groupDest ps).filter (fun e => e.1 != d)).filter (fun e => e.1 == d) = [] := by
        simp [List.filter_filter]
      rw [groupDest, List.filter_cons_of_pos (by simp), hgot, hrest, hmine, if_neg (by simp)]
    · have hmine : packetsTo ((d, p) :: ps) q = packetsTo ps q := by simp [packetsTo, h]
      have hrest : ((groupDest ps).filter (fun e => e.1 != d)).filter (fun e => e.1 == q) = (groupDest ps).filter (fun e => e.1 == q) := by
        rw [List.filter_filter]
        refine List.filter_congr fun e _ => ?_
        by_cases he : e.1 = q <;> simp [he, Ne.symm h]
      rw [groupDest, List.filter_cons_of_neg (by simpa using h), hrest, hmine, ih]

theorem qkOf_beq (sl a b : Nat) : (qkOf sl a == qkOf sl b) = (a == b) := by
  simp [qkOf]

/-- The injected train that a quad gets of some packets: one, if any goes to it. -/
def injectedTrain (n : Nat) (ps : List (Nat × Packet)) (q : Nat) : List Train :=
  if packetsTo ps q = [] then [] else [{ injected := true, src := 0, launch := n, packets := packetsTo ps q }]

theorem injectTrains_trains (s : State) (sl n : Nat) (ps : List (Nat × Packet)) (q : Nat) :
    ((s.injectTrains sl n ps).quad (qkOf sl q)).trains = (s.quad (qkOf sl q)).trains ++ injectedTrain n ps q := by
  have hfilter : (groupDest ps).filter (fun e => qkOf sl e.1 == qkOf sl q) = (groupDest ps).filter (fun e => e.1 == q) := by
    simp only [qkOf_beq]
  rw [State.injectTrains, foldl_addTrain_quad (fun e : Nat × List Packet => qkOf sl e.1), hfilter, filter_groupDest, injectedTrain]
  split_ifs <;> rfl

theorem injectTrains_shape (s : State) (sl n : Nat) (ps : List (Nat × Packet)) : ∃ qs, s.injectTrains sl n ps = { s with quads := qs } :=
  foldl_addTrain_shape _ _ _ _

/-! ## The launch that a change names -/

theorem find_modLaunch {s : State} {sl n : Nat} {l : Launch} (h : (s.slice sl).launches.find? (fun l => l.num == n) = some l)
    {f : Launch → Launch} (hf : ∀ m, (f m).num = m.num) :
    ((s.modLaunch sl n f).slice sl).launches.find? (fun l => l.num == n) = some (f l) := by
  have hcomp : ∀ m : Launch, ((fun l : Launch => l.num == n) ∘ fun l => if l.num = n then f l else l) m = (m.num == n) := fun m => by
    by_cases hm : m.num = n <;> simp [hm, hf]
  have hl : l.num = n := by simpa using List.find?_some h
  rw [State.modLaunch, modSlice_slice_same, List.find?_map, funext hcomp, h, Option.map_some, if_pos hl]

/-! ## Injection (07:R198) -/

/-- The members of a set that a thread probes, in order. -/
def probed (set : List Nat) (i : Nat) : List Nat :=
  (List.range (min set.length 4)).map (fun j => set.getD ((i % set.length + j) % set.length) 0)

/-- A quad has room for one more first packet beside those given out before. -/
def State.RoomAt (s : State) (sl : Nat) (ps : List (Nat × Packet)) (q : Nat) : Prop :=
  (s.quad (qkOf sl q)).annAbove = false ∧ s.unacked sl q + (ps.filter (fun e => e.1 == q)).length + 1 + s.hwm sl ≤ 256

/-- A table counts the packets given out to each quad. -/
def Counts (extra : Tab Nat) (ps : List (Nat × Packet)) : Prop := ∀ q, tget 0 extra q = (ps.filter (fun e => e.1 == q)).length

theorem Counts.snoc {extra : Tab Nat} {ps : List (Nat × Packet)} (h : Counts extra ps) (q : Nat) (p : Packet) :
    Counts (tput extra q (tget 0 extra q + 1)) (ps ++ [(q, p)]) := by
  intro k
  rw [tget_tput]
  by_cases hk : k = q
  · subst hk
    simp [h k]
  · rw [if_neg hk, h k]
    simp [Ne.symm hk]

theorem injectQuad_some {s : State} {sl i q : Nat} {set : List Nat} {extra : Tab Nat} {ps : List (Nat × Packet)} (hc : Counts extra ps)
    (h : s.injectQuad sl set extra i = some q) :
    ∃ a b, probed set i = a ++ q :: b ∧ s.RoomAt sl ps q ∧ ∀ x ∈ a, ¬ s.RoomAt sl ps x := by
  obtain ⟨hq, a, b, hab, ha⟩ := List.find?_eq_some_iff_append.mp h
  refine ⟨a, b, hab, ?_, fun x hx hroom => ?_⟩
  · simpa [State.RoomAt, ← hc q] using hq
  · have := ha x hx
    rw [State.RoomAt, ← hc x] at hroom
    simp [hroom.1] at this
    omega

theorem injectQuad_none {s : State} {sl i : Nat} {set : List Nat} {extra : Tab Nat} {ps : List (Nat × Packet)} (hc : Counts extra ps)
    (h : s.injectQuad sl set extra i = none) : ∀ q ∈ probed set i, ¬ s.RoomAt sl ps q := by
  intro q hq hroom
  have := List.find?_eq_none.mp h q hq
  rw [State.RoomAt, ← hc q] at hroom
  simp [hroom.1] at this
  omega

/-- Threads from one index on are given out in order, each to the first probed member with room, until one finds none. -/
theorem injectFrom_fills {s : State} {sl : Nat} {l : Launch} {n i : Nat} {extra : Tab Nat} {before : List (Nat × Packet)}
    (hc : Counts extra before) :
    let ps := s.injectFrom sl l n i extra
    ps.length ≤ n ∧
    (∀ j, j < ps.length → ∃ q a b, ps[j]? = some (q, l.packet (i + j) none) ∧ probed l.set (i + j) = a ++ q :: b ∧
      s.RoomAt sl (before ++ ps.take j) q ∧ ∀ x ∈ a, ¬ s.RoomAt sl (before ++ ps.take j) x) ∧
    (ps.length < n → ∀ q ∈ probed l.set (i + ps.length), ¬ s.RoomAt sl (before ++ ps) q) := by
  induction n generalizing i extra before with
  | zero => simp [State.injectFrom]
  | succ n ih =>
    unfold State.injectFrom
    split
    · next h => exact ⟨by simp, by simp, fun _ => by simpa using injectQuad_none hc h⟩
    · next q h =>
      obtain ⟨a, b, hab, hroom, hfull⟩ := injectQuad_some hc h
      obtain ⟨hlen, hin, hend⟩ := ih (i := i + 1) (hc.snoc q (l.packet i none))
      refine ⟨by simpa using hlen, fun j hj => ?_, fun hlt => ?_⟩
      · cases j with
        | zero => exact ⟨q, a, b, by simp, hab, by simpa using hroom, by simpa using hfull⟩
        | succ j =>
          have := hin j (by simpa using hj)
          simpa [Nat.add_assoc, Nat.add_comm 1 j] using this
      · have := hend (by simpa using hlt)
        simpa [Nat.add_assoc, Nat.add_comm 1] using this

theorem tget_countUp (ps : List (Nat × Packet)) (u : Tab Nat) (q : Nat) :
    tget 0 (ps.foldl (fun u e => tput u e.1 (tget 0 u e.1 + 1)) u) q = tget 0 u q + (packetsTo ps q).length := by
  induction ps generalizing u with
  | nil => rfl
  | cons e ps ih =>
    rw [List.foldl_cons, ih, tget_tput]
    by_cases h : q = e.1
    · subst h
      simp [packetsTo]
      omega
    · simp [packetsTo, h, Ne.symm h]

/-- The launch once some of its first packets have been given out. -/
def Launch.gave (l : Launch) (ps : List (Nat × Packet)) : Launch :=
  { l with injected := l.injected + ps.length, unack := ps.foldl (fun u e => tput u e.1 (tget 0 u e.1 + 1)) l.unack }

theorem execInjection_gives {s : State} {sl n : Nat} {l : Launch} (h : (s.slice sl).launches.find? (fun l => l.num == n) = some l)
    (hi : s.injects sl = true) (hc : l.desc.crewsz = 0) (hs : l.set ≠ []) :
    let ps := s.injectFrom sl l (l.desc.count - l.injected) l.injected []
    execInjection sl n s = .next ((s.injectTrains sl n ps).modLaunch sl n (fun m => m.gave ps)) := by
  unfold execInjection
  simp only [h]
  rw [if_neg (by simp [hi, hc, hs])]
  rfl

theorem injectionFillsProbedReplicas : Says.InjectionFillsProbedReplicas := by
  intro s sl n l hl
  refine ⟨fun hi hc hs => ?_, fun q => ?_⟩
  · obtain ⟨hlen, hin, hend⟩ := injectFrom_fills (s := s) (sl := sl) (l := l) (n := l.desc.count - l.injected) (i := l.injected)
      (extra := []) (before := []) (fun _ => rfl)
    have hexec := execInjection_gives hl hi hc hs
    generalize s.injectFrom sl l (l.desc.count - l.injected) l.injected [] = ps at hlen hin hend hexec
    have hfind : ((s.injectTrains sl n ps).slice sl).launches.find? (fun l => l.num == n) = some l := by
      obtain ⟨qs, hq⟩ := injectTrains_shape s sl n ps
      rw [hq]
      exact hl
    refine ⟨_, l.gave ps, ps, hexec, hlen, hin, hend, find_modLaunch hfind fun _ => rfl, rfl, rfl, fun q => ⟨tget_countUp _ _ _, ?_⟩⟩
    exact injectTrains_trains s sl n ps q
  · refine ⟨_, _, rfl, find_modLaunch hl fun _ => rfl, tget_tput_same _ _ _ _, tget_tput_same _ _ _ _, rfl, fun k hk => ?_, rfl⟩
    exact ⟨tget_tput_other _ _ _ hk, tget_tput_other _ _ _ hk⟩

end Sys2Proof.Machine
end

section
/-!
Crews that are placed, trains that leave, and rings that refill (07:R199, R200, 03:R69, R88, 09:R249, 19:R412).
-/

namespace Sys2Proof.Machine

/-! ## Crews (07:R199, R200, 03:R88) -/

/-- The cluster that a launch's round begins at for its next crew. -/
def State.crewStart (s : State) (sl : Nat) (l : Launch) : Nat :=
  if l.injected = 0 then ((s.slice sl).lastCrewClus.map (· + 1)).getD 0 else l.lastClus + 1

/-- A cluster holds the whole object of a launch and has room for one of its crews. -/
def State.CrewFits (s : State) (sl : Nat) (l : Launch) (slot : Nat) (o : Obj) (c : Nat) : Prop :=
  c ∈ s.crewClusters sl l.desc slot o ∧ (((s.cluster (clkOf sl c)).crews.map CrewRes.size).foldl (· + ·) 0) + l.desc.crewsz ≤ 1024

/-- The first cluster of the round that fits gets the crew. -/
theorem crewCluster_eq {s : State} {sl slot k : Nat} {l : Launch} {o : Obj} (ho : s.launchObj sl l = some (slot, o)) (hk : k < (s.slice sl).nclus)
    (hfit : s.CrewFits sl l slot o ((s.crewStart sl l + k) % (s.slice sl).nclus))
    (hno : ∀ j, j < k → ¬ s.CrewFits sl l slot o ((s.crewStart sl l + j) % (s.slice sl).nclus)) :
    s.crewCluster sl l = some ((s.crewStart sl l + k) % (s.slice sl).nclus) := by
  have hdec : ∀ c, ((s.crewClusters sl l.desc slot o).contains c && s.crewRoom sl l.desc.crewsz c) = true ↔ s.CrewFits sl l slot o c := fun c => by
    simp [State.CrewFits, State.crewRoom]
  have hround : s.crewCluster sl l = ((List.range (s.slice sl).nclus).map (fun k => (s.crewStart sl l + k) % (s.slice sl).nclus)).find?
      (fun c => (s.crewClusters sl l.desc slot o).contains c && s.crewRoom sl l.desc.crewsz c) := by
    unfold State.crewCluster State.crewStart
    simp only [ho]
    cases (s.slice sl).lastCrewClus <;> rfl
  rw [hround, List.find?_map, List.find?_range_eq_some.mpr ⟨(hdec _).mpr hfit, List.mem_range.mpr hk, fun j hj => ?_⟩]
  · rfl
  · exact (Bool.not_eq_true' _).mpr (Bool.eq_false_iff.mpr fun h => hno j hj ((hdec _).mp h))

/-- The packets of a launch's next crew with their quads in a cluster (02:R32). -/
def State.crewPackets (s : State) (sl c : Nat) (l : Launch) : List (Nat × Packet) :=
  let set := l.set.filter (fun q => q / 2 == c)
  (List.range l.desc.crewsz).map (fun i => (pickQuad (set.filter (fun q => (s.quad (qkOf sl q)).annAbove)) set (l.injected * l.desc.crewsz + i),
    l.packet (l.injected * l.desc.crewsz + i) (some l.injected)))

/-- What a cluster holds once a crew has been placed there. -/
def Cluster.reserve (x : Cluster) (n crew size : Nat) : Cluster :=
  { x with crews := x.crews ++ [{ launch := n, crew := crew, size := size, slots := x.freeCrewSlots size, alive := size, packets := [] }] }

/-- A crew of a launch placed in a cluster: its reservation, its packets on their way, and the launch's place in its round. -/
def State.placeCrew (s : State) (sl n c : Nat) (l : Launch) : State :=
  (((s.modCluster (clkOf sl c) (fun x => x.reserve n l.injected l.desc.crewsz)).injectTrains sl n (s.crewPackets sl c l)).modSlice sl
    (fun x => { x with lastCrewClus := some c })).modLaunch sl n (fun m => { m with injected := l.injected + 1, lastClus := c })

theorem execCrewPlacement_places {s : State} {sl n c : Nat} {l : Launch} (h : (s.slice sl).launches.find? (fun l => l.num == n) = some l)
    (hi : s.injects sl = true) (hleft : l.crewLeft = true) (hc : s.crewCluster sl l = some c)
    (hwait : ∀ m ∈ (s.slice sl).launches, m.num ≠ n → m.crewLeft = true → l.prio ≤ m.prio → (s.crewCluster sl m).isSome = true) :
    exec (.crewPlacement sl n) s = .next (s.placeCrew sl n c l) := by
  have hnone : (s.slice sl).launches.any (fun m => m.num != n && m.crewLeft && decide (l.prio ≤ m.prio) && (s.crewCluster sl m).isNone) = false := by
    simp only [List.any_eq_false, Bool.and_eq_true, bne_iff_ne, decide_eq_true_eq, Option.isNone_iff_eq_none, not_and]
    intro m hm ⟨⟨hne, hml⟩, hp⟩ hnot
    simpa [hnot] using hwait m hm hne hml hp
  show execCrewPlacement sl n s = _
  unfold execCrewPlacement
  simp only [h]
  rw [hnone, hi, hleft, if_neg (by decide), hc]
  rfl

theorem placeCrew_launch {s : State} {sl n : Nat} {l : Launch} (h : (s.slice sl).launches.find? (fun l => l.num == n) = some l) (c : Nat) :
    ((s.placeCrew sl n c l).slice sl).launches.find? (fun l => l.num == n) = some { l with injected := l.injected + 1, lastClus := c } := by
  refine find_modLaunch ?_ fun _ => rfl
  obtain ⟨qs, hq⟩ := injectTrains_shape (s.modCluster (clkOf sl c) (fun x => x.reserve n l.injected l.desc.crewsz)) sl n (s.crewPackets sl c l)
  rw [hq, modSlice_slice_same]
  exact h

theorem placeCrew_crews (s : State) (sl n c : Nat) (l : Launch) :
    (s.placeCrew sl n c l).cluster (clkOf sl c) = (s.cluster (clkOf sl c)).reserve n l.injected l.desc.crewsz := by
  obtain ⟨qs, hq⟩ := injectTrains_shape (s.modCluster (clkOf sl c) (fun x => x.reserve n l.injected l.desc.crewsz)) sl n (s.crewPackets sl c l)
  rw [State.placeCrew, hq]
  exact modCluster_cluster_same s (clkOf sl c) (fun x => x.reserve n l.injected l.desc.crewsz)

theorem placeCrew_lastCrewClus (s : State) (sl n c : Nat) (l : Launch) : ((s.placeCrew sl n c l).slice sl).lastCrewClus = some c := by
  rw [State.placeCrew, State.modLaunch, modSlice_slice_same, modSlice_slice_same]

theorem crewsGoToTheNextClusterWithRoom : Says.CrewsGoToTheNextClusterWithRoom := by
  intro s sl n slot k l o x start size fits c set ps hl hi hsize hcount ho hk hfit hno hwait
  have hleft : l.crewLeft = true := by simp [Launch.crewLeft, hcount, show l.desc.crewsz ≠ 0 from hsize]
  exact ⟨_, _, execCrewPlacement_places hl hi hleft (crewCluster_eq ho hk hfit hno) hwait, placeCrew_launch hl c, rfl, rfl,
    placeCrew_lastCrewClus s sl n c l, congrArg Cluster.crews (placeCrew_crews s sl n c l),
    injectTrains_trains (s.modCluster (clkOf sl c) (fun x => x.reserve n l.injected l.desc.crewsz)) sl n ps⟩

/-! ## Trains that leave a quad (09:R249) -/

theorem injOff_eq_true {s : State} {sl : Nat} (h : (s.slice sl).draining = true ∨ (s.slice sl).injStopped = true) : s.injOff sl = true := by
  simpa [State.injOff] using h

theorem injOff_eq_false {s : State} {sl : Nat} (hd : (s.slice sl).draining = false) (hi : (s.slice sl).injStopped = false) : s.injOff sl = false := by
  simp [State.injOff, hd, hi]

theorem execPacketSend_stays {s : State} {gk : Nat} (h : s.injOff (slOfGk gk) = true) : exec (.packetSend gk) s = .next s := by
  show execPacketSend gk s = _
  unfold execPacketSend
  dsimp only
  rw [if_pos h]

/-- A quad without the trains that a gang has made, and its next number beyond theirs. -/
def Quad.sent (q : Quad) (gk : Nat) : Quad :=
  { q with outs := q.outs.filter (fun o => o.1 != gk), sendNo := q.sendNo + (q.outs.filter (fun o => o.1 == gk)).length }

theorem execPacketSend_sends {s : State} {gk : Nat} (h : s.injOff (slOfGk gk) = false) :
    exec (.packetSend gk) s = .next (((((s.quad (qkOfGk gk)).outs.filter (fun o => o.1 == gk)).zipIdx (s.quad (qkOfGk gk)).sendNo).foldl
      (fun t o => t.modQuad o.1.2.1 (fun q => { q with trains := q.trains ++ [{ o.1.2.2 with no := o.2 }] }))
      (s.modQuad (qkOfGk gk) (fun q => q.sent gk)))) := by
  show execPacketSend gk s = _
  unfold execPacketSend
  dsimp only
  rw [if_neg (by simp [h]), List.zipIdx_eq_map_add (i := (s.quad (qkOfGk gk)).sendNo), List.foldl_map]
  rfl

theorem trainsLeaveTheQuad : Says.TrainsLeaveTheQuad := by
  intro s gk sl outs
  refine ⟨fun h => execPacketSend_stays (injOff_eq_true h), fun hd hi => ⟨_, execPacketSend_sends (injOff_eq_false hd hi), ?_⟩⟩
  have hquad := foldl_addTrain_quad (fun o : (Nat × Nat × Train) × Nat => o.1.2.1) (fun o => { o.1.2.2 with no := o.2 })
    ((outs.filter (fun o => o.1 == gk)).zipIdx (s.quad (qkOfGk gk)).sendNo) (s.modQuad (qkOfGk gk) (fun q => q.sent gk))
  refine ⟨?_, ?_, fun qk => ?_⟩
  · exact (congrArg Quad.outs (hquad (qkOfGk gk))).trans (congrArg Quad.outs (modQuad_quad_same _ _ _))
  · exact (congrArg Quad.sendNo (hquad (qkOfGk gk))).trans (congrArg Quad.sendNo (modQuad_quad_same _ _ _))
  · refine (congrArg Quad.trains (hquad qk)).trans (congrArg (· ++ _) ?_)
    by_cases h : qk = qkOfGk gk
    · rw [h, modQuad_quad_same]
      rfl
    · rw [modQuad_quad_other _ _ _ _ h]

/-! ## Queues in order of age (03:R66) -/

theorem insertBy_of_le {α : Type} (key : α → Nat) (x : α) (l : List α) (h : ∀ y ∈ l, key y ≤ key x) : insertBy key x l = l ++ [x] := by
  induction l with
  | nil => rfl
  | cons y l ih =>
    have hy := h y List.mem_cons_self
    rw [insertBy, if_neg (by omega), ih fun z hz => h z (List.mem_cons_of_mem _ hz)]
    rfl

/-- Packets in order of age enter behind older ones in that order. -/
theorem foldl_byAge (now : Nat) (ps aq : List Packet) (h : (aq ++ ps).Pairwise (fun a b : Packet => a.seq < b.seq)) :
    ps.foldl (fun a p => byAge { p with qAt := now } a) aq = aq ++ ps.map (fun p => { p with qAt := now }) := by
  induction ps generalizing aq with
  | nil => simp
  | cons p ps ih =>
    have hend : byAge { p with qAt := now } aq = aq ++ [{ p with qAt := now }] := insertBy_of_le _ _ _ fun y hy =>
      (((List.pairwise_append.mp h).2.2 y hy p List.mem_cons_self).le)
    have hnext : ((aq ++ [{ p with qAt := now }]) ++ ps).Pairwise (fun a b : Packet => a.seq < b.seq) := by
      rw [List.append_assoc]
      simpa [List.pairwise_append, List.pairwise_cons] using h
    rw [List.foldl_cons, hend, ih _ hnext]
    simp

/-! ## The settled quad (02:R32, 19:R412) -/

theorem noteRing_still (x : Quad) (run : Nat) : (x.noteRing run).aq = x.aq ∧ (x.noteRing run).ring = x.ring ∧
    (x.noteRing run).resend = x.resend ∧ (x.noteRing run).trains = x.trains ∧ (x.noteRing run).entered = x.entered ∧
    (x.noteRing run).entrySeq = x.entrySeq ∧ (x.noteRing run).annAbove = x.annAbove := by
  unfold Quad.noteRing
  split <;> exact ⟨rfl, rfl, rfl, rfl, rfl, rfl, rfl⟩

/-- Settling leaves a quad's packets alone and announces whether its queue stands above the mark. -/
structure Settled (x y : Quad) (hwm : Nat) : Prop where
  aq : y.aq = x.aq
  ring : y.ring = x.ring
  resend : y.resend = x.resend
  trains : y.trains = x.trains
  entered : y.entered = x.entered
  entrySeq : y.entrySeq = x.entrySeq
  annAbove : y.annAbove = decide (hwm < x.aq.length)

theorem settleQuad_settled (s : State) (sl q : Nat) : Settled (s.quad (qkOf sl q)) ((s.settleQuad sl q).quad (qkOf sl q)) (s.hwm sl) := by
  rw [State.settleQuad, modQuad_quad_same]
  obtain ⟨h1, h2, h3, h4, h5, h6, h7⟩ := noteRing_still ((s.quad (qkOf sl q)).announce (s.hwm sl)) s.clock.run
  exact ⟨h1, h2, h3, h4, h5, h6, h7⟩

/-! ## Rings and resends (03:R69, 19:R412) -/

theorem refill_aq (x : Quad) (now : Nat) (h : (x.aq ++ x.ring).Pairwise (fun a b => a.seq < b.seq)) :
    (x.refill now).aq = x.aq ++ (x.ring.take (256 - x.aq.length)).map (fun p => { p with qAt := now }) :=
  foldl_byAge now _ _ (h.sublist (List.Sublist.append_left (List.take_sublist _ _) _))

/-- A refused packet of a quad's store on its way again, as a train of its own (19:R412). -/
def againTrain (q : Nat) (e : Nat × Packet) (no : Nat) : Train :=
  { injected := false, src := q, launch := e.2.launch, packets := [e.2], no := no, again := true }

/-- What sending some packets of a quad's resend store again leaves. -/
structure SentAgain (s t : State) (sl q : Nat) (es : List (Nat × Packet)) : Prop where
  mem : t.mem = s.mem
  resend : (t.quad (qkOf sl q)).resend = (s.quad (qkOf sl q)).resend
  sendNo : (t.quad (qkOf sl q)).sendNo = (s.quad (qkOf sl q)).sendNo + es.length
  aq : ∀ d, (t.quad (qkOf sl d)).aq = (s.quad (qkOf sl d)).aq
  trains : ∀ d, (t.quad (qkOf sl d)).trains = (s.quad (qkOf sl d)).trains ++
    ((es.zipIdx (s.quad (qkOf sl q)).sendNo).filter (fun o => qkOf sl o.1.1 == qkOf sl d)).map (fun o => againTrain q o.1 o.2)

theorem resendOne_quad (s : State) (sl q k : Nat) (e : Nat × Packet) : (s.resendOne sl q e).quad k =
    { s.quad k with
      sendNo := (s.quad k).sendNo + (if k = qkOf sl q then 1 else 0)
      trains := (s.quad k).trains ++ (if k = qkOf sl e.1 then [againTrain q e (s.quad (qkOf sl q)).sendNo] else []) } := by
  unfold State.resendOne
  dsimp only
  by_cases h : k = qkOf sl e.1 <;> by_cases h' : k = qkOf sl q
  · subst h
    rw [modQuad_quad_same, h', modQuad_quad_same]
    simp [againTrain]
  · subst h
    rw [modQuad_quad_same, modQuad_quad_other _ _ _ _ h', if_pos rfl, if_neg h']
    rfl
  · rw [modQuad_quad_other _ _ _ _ h, h', modQuad_quad_same, if_pos rfl, if_neg (h' ▸ h), List.append_nil]
  · rw [modQuad_quad_other _ _ _ _ h, modQuad_quad_other _ _ _ _ h', if_neg h, if_neg h', List.append_nil]
    rfl

theorem foldl_resendOne (sl q : Nat) (es : List (Nat × Packet)) (s : State) : SentAgain s (es.foldl (fun t e => t.resendOne sl q e) s) sl q es := by
  induction es generalizing s with
  | nil => exact ⟨rfl, rfl, rfl, fun _ => rfl, fun _ => by simp⟩
  | cons e es ih =>
    obtain ⟨hmem, hre, hno, haq, htr⟩ := ih (s.resendOne sl q e)
    refine ⟨hmem, ?_, ?_, fun d => ?_, fun d => ?_⟩
    · rw [List.foldl_cons, hre, resendOne_quad]
    · rw [List.foldl_cons, hno, resendOne_quad, if_pos rfl, List.length_cons]
      exact Nat.add_right_comm _ _ _
    · rw [List.foldl_cons, haq, resendOne_quad]
    · rw [List.foldl_cons, htr, resendOne_quad, resendOne_quad, if_pos rfl, List.zipIdx_cons]
      by_cases h : qkOf sl d = qkOf sl e.1
      · rw [if_pos h, List.filter_cons_of_pos (by simpa using h.symm), List.append_assoc]
        rfl
      · rw [if_neg h, List.filter_cons_of_neg (by simpa using Ne.symm h), List.append_nil]

theorem again_eq (p : Packet) (now : Nat) : p.again now = decide (p.away = false ∧ p.due ≤ now) := by
  cases h : p.away <;> simp [Packet.again, h]

/-- The packets of a quad's store that are due (19:R412). -/
def Quad.dueAgain (x : Quad) (now : Nat) : List (Nat × Packet) := x.resend.filter (fun e => decide (e.2.away = false ∧ e.2.due ≤ now))

/-- A quad whose due packets are on their way again. -/
def Quad.sendsAgain (x : Quad) (now : Nat) : Quad :=
  { x with resend := x.resend.map (fun e => if e.2.away = false ∧ e.2.due ≤ now then (e.1, { e.2 with away := true }) else e) }

theorem execResend_sends {s : State} {sl q : Nat} (h : s.injOff sl = false) : exec (.resend sl q) s =
    .next (((s.quad (qkOf sl q)).dueAgain s.now).foldl (fun t e => t.resendOne sl q e)
      (s.modQuad (qkOf sl q) (fun x => x.sendsAgain s.now))) := by
  show execResend sl q s = _
  unfold execResend Quad.dueAgain Quad.sendsAgain
  simp only [again_eq, decide_eq_true_eq]
  rw [if_neg (by simp [h])]

theorem execResend_stays {s : State} {sl q : Nat} (h : s.injOff sl = true) : exec (.resend sl q) s = .next s := by
  show execResend sl q s = _
  unfold execResend
  dsimp only
  rw [if_pos h]

theorem modQuad_sendsAgain (s : State) (sl q k : Nat) : let y := (s.modQuad (qkOf sl q) (fun x => x.sendsAgain s.now)).quad k
    y.sendNo = (s.quad k).sendNo ∧ y.aq = (s.quad k).aq ∧ y.trains = (s.quad k).trains := by
  by_cases h : k = qkOf sl q
  · subst h
    rw [modQuad_quad_same]
    exact ⟨rfl, rfl, rfl⟩
  · rw [modQuad_quad_other _ _ _ _ h]
    exact ⟨rfl, rfl, rfl⟩

theorem execRingFullNotification_full {s : State} {sl q since : Nat} (h : (s.quad (qkOf sl q)).ringFull = some since) :
    exec (.ringFullNotification sl q) s = .next (if (s.quad (qkOf sl q)).ringTold = true ∨ s.clock.run < since + 1000000 then s
      else (s.modQuad (qkOf sl q) (fun x => { x with ringTold := true })).note 1 (qkOf sl q)) := by
  show execRingFullNotification sl q s = _
  unfold execRingFullNotification
  simp only [h]

theorem ringsRefillAndResend : Says.RingsRefillAndResend := by
  intro s sl q d x y n still
  refine ⟨fun hage => ⟨_, rfl, ?_⟩, fun hstill => ?_, fun hstill => ?_, fun since hfull htold hdue => ?_, fun since hfull hno => ?_⟩
  · have hset := settleQuad_settled (s.modQuad (qkOf sl q) (fun x => x.refill s.now)) sl q
    rw [modQuad_quad_same] at hset
    exact ⟨hset.aq.trans (refill_aq x s.now hage), hset.ring, hset.aq ▸ hset.annAbove⟩
  · obtain ⟨hmem, hre, hno, haq, htr⟩ := foldl_resendOne sl q (x.dueAgain s.now) (s.modQuad (qkOf sl q) (fun x => x.sendsAgain s.now))
    obtain ⟨hqno, -, -⟩ := modQuad_sendsAgain s sl q (qkOf sl q)
    obtain ⟨-, hdaq, hdtr⟩ := modQuad_sendsAgain s sl q (qkOf sl d)
    rw [modQuad_quad_same] at hre
    rw [hqno] at hno htr
    exact ⟨_, execResend_sends (injOff_eq_false hstill.1 hstill.2), hmem, hre, hno, (haq d).trans hdaq, (htr d).trans (congrArg (· ++ _) hdtr)⟩
  · refine execResend_stays (injOff_eq_true ?_)
    by_contra h
    rw [not_or, Bool.not_eq_true, Bool.not_eq_true] at h
    exact hstill h
  · have hno : ¬ (x.ringTold = true ∨ s.clock.run < since + 1000000) := by
      rw [htold]
      simpa using hdue
    refine ⟨(s.modQuad (qkOf sl q) (fun x => { x with ringTold := true })).note 1 (qkOf sl q), ?_, rfl, ?_⟩
    · rw [execRingFullNotification_full hfull, if_neg hno]
    · exact congrArg Quad.ringTold (modQuad_quad_same s (qkOf sl q) (fun x => { x with ringTold := true }))
  · rw [execRingFullNotification_full hfull, if_pos hno]

end Sys2Proof.Machine
end

section
/-!
Trains that reach their quad (15:R376, 03:R66, R69, R89, 04:R124, 19:R412).
-/

namespace Sys2Proof.Machine

/-! ## What writing memory leaves -/

/-- All but memory, its history, the functions' records and the management space is as before. -/
def MemoryWritten (s t : State) : Prop := ∃ m k h v g, t = { s with mem := m, keyOf := k, farHist := h, vfs := v, mgmt := g }

theorem MemoryWritten.refl (s : State) : MemoryWritten s s := ⟨_, _, _, _, _, rfl⟩

theorem MemoryWritten.trans {s t u : State} (a : MemoryWritten s t) (b : MemoryWritten t u) : MemoryWritten s u := by
  obtain ⟨_, _, _, _, _, rfl⟩ := a
  obtain ⟨_, _, _, _, _, rfl⟩ := b
  exact ⟨_, _, _, _, _, rfl⟩

theorem event_written (s : State) (kind sl cx vf detail value : Nat) : MemoryWritten s (s.event kind sl cx vf detail value) := by
  unfold State.event
  dsimp only
  split <;> exact ⟨_, _, _, _, _, rfl⟩

theorem dirtyLog_written (s : State) (cx p : Nat) : MemoryWritten s (s.dirtyLog cx p) := by
  unfold State.dirtyLog
  dsimp only
  split
  · exact .refl s
  split
  · exact ⟨_, _, _, _, _, rfl⟩
  · exact MemoryWritten.trans (t := s.setVf _ _) ⟨_, _, _, _, _, rfl⟩ (event_written _ _ _ _ _ _ _)

theorem putAll_written (s : State) (key : Nat) (ws : List (Nat × Byte)) : MemoryWritten s (s.putAll key ws) := by
  obtain ⟨m, k, h⟩ := putAll_shape key ws s
  exact ⟨m, k, _, _, _, h⟩

theorem wrBytes_written (s : State) (key loc : Nat) (bs : List Byte) : MemoryWritten s (s.wrBytes key loc bs) :=
  MemoryWritten.trans (t := s.remember key _) ⟨_, _, _, _, _, rfl⟩ (putAll_written _ _ _)

theorem setD_written (s : State) (cx ipa : Nat) : MemoryWritten s (s.setD cx ipa) := by
  unfold State.setD
  split
  · split
    · exact (dirtyLog_written s cx _).trans (putAll_written _ _ [(_, _)])
    · exact .refl s
  · exact .refl s

theorem putRing_written (s : State) (cx ipa : Nat) (p : Packet) : MemoryWritten s (s.putRing cx ipa p) := by
  unfold State.putRing
  split
  · exact .refl s
  · exact (setD_written s _ _).trans (wrBytes_written _ _ _ _)

theorem MemoryWritten.foldl {α : Type} {f : State → α → State} (hf : ∀ t x, MemoryWritten t (f t x)) (xs : List α) (s : State) :
    MemoryWritten s (xs.foldl f s) := by
  induction xs generalizing s with
  | nil => exact .refl s
  | cons x xs ih => exact (hf s x).trans (ih _)

theorem storeRing_written (s : State) (qk : Nat) (old : List Packet) : MemoryWritten s (s.storeRing qk old) :=
  .foldl (fun _ _ => putRing_written _ _ _ _) _ _

/-! ## A packet's first arrival (03:R66) -/

/-- A packet as a quad counts it: unless it has reached the quad before, its age begins now. -/
def Quad.aged (x : Quad) (now : Nat) (p : Packet) : Packet :=
  if p.came then p else { p with at_ := now, seq := x.entrySeq, came := true, due := now }

/-- A quad once it has counted a packet. -/
def Quad.counted (x : Quad) (p : Packet) : Quad := { x with entrySeq := x.entrySeq + if p.came then 0 else 1 }

theorem stamp_eq (x : Quad) (now : Nat) (p : Packet) : x.stamp now p = (x.aged now p, x.counted p) := by
  cases h : p.came <;> simp [Quad.stamp, Quad.aged, Quad.counted, h]

theorem aged_crew (x : Quad) (now : Nat) (p : Packet) :
    (x.aged now p).crew = p.crew ∧ (x.aged now p).launch = p.launch ∧ (x.aged now p).crewNo = p.crewNo := by
  unfold Quad.aged
  split <;> exact ⟨rfl, rfl, rfl⟩

/-! ## One packet of a train -/

/-- A quad that has counted a packet. -/
def State.counting (s : State) (sl q : Nat) (p : Packet) : State := s.setQuad (qkOf sl q) ((s.quad (qkOf sl q)).counted p)

theorem counting_quad (s : State) (sl q k : Nat) (p : Packet) : (s.counting sl q p).quad k =
    { s.quad k with entrySeq := (s.quad k).entrySeq + if k = qkOf sl q ∧ p.came = false then 1 else 0 } := by
  unfold State.counting
  by_cases h : k = qkOf sl q
  · rw [h, setQuad_quad_same]
    cases hc : p.came <;> simp [Quad.counted, hc]
  · rw [setQuad_quad_other _ _ _ _ h, if_neg fun hk => h hk.1]
    rfl

/-- A refused packet, to be sent again 1,024 mesh cycles after the time before (19:R412). -/
def Packet.putOff (p : Packet) : Packet := { p with due := p.due + 512 }

/-- One packet of a train reaches its quad: whether it stays on its way, and what is then. -/
def State.enterOne (s : State) (sl q : Nat) (t : Train) (p : Packet) : Bool × State :=
  let x := s.quad (qkOf sl q)
  if (x.aged s.now p).crew then (false, (s.counting sl q p).crewArrive sl q (x.aged s.now p))
  else
    match (x.counted p).take s.now (x.aged s.now p) with
    | some y => (false, (((s.counting sl q p).setQuad (qkOf sl q) y).storeRing (qkOf sl q) x.ring).accepted sl q t (x.aged s.now p))
    | none =>
      if !t.injected && !t.again && 32 ≤ (s.quad (qkOf sl t.src)).resend.length then (true, s.counting sl q p)
      else (t.injected, (s.counting sl q p).refuse sl q t (x.aged s.now p).putOff)

/-- A packet that stays on its way; an injected one waits until it is due again. -/
def State.keptOnItsWay (s : State) (sl q : Nat) (t : Train) (p : Packet) : Packet :=
  if t.injected then ((s.quad (qkOf sl q)).aged s.now p).putOff else (s.quad (qkOf sl q)).aged s.now p

theorem enterAll_cons (s : State) (sl q : Nat) (t : Train) (p : Packet) (rest : List Packet) : s.enterAll sl q t (p :: rest) =
    (if (s.enterOne sl q t p).1 then s.keptOnItsWay sl q t p :: ((s.enterOne sl q t p).2.enterAll sl q t rest).1
      else ((s.enterOne sl q t p).2.enterAll sl q t rest).1, ((s.enterOne sl q t p).2.enterAll sl q t rest).2) := by
  have hstore : ((s.counting sl q p).quad (qkOf sl t.src)).resend = (s.quad (qkOf sl t.src)).resend := by rw [counting_quad]
  rw [State.enterAll, State.enterOne, ← hstore]
  simp only [stamp_eq]
  rfl

theorem enterAll_single (s : State) (sl q : Nat) (t : Train) (p : Packet) : s.enterAll sl q t [p] =
    (if (s.enterOne sl q t p).1 then [s.keptOnItsWay sl q t p] else [], (s.enterOne sl q t p).2) := enterAll_cons _ _ _ _ _ _

/-- A packet that its quad takes. -/
theorem enterOne_takes {s : State} {sl q : Nat} {p : Packet} {y : Quad} (t : Train) (hcrew : p.crew = false)
    (hy : ((s.quad (qkOf sl q)).counted p).take s.now ((s.quad (qkOf sl q)).aged s.now p) = some y) :
    s.enterOne sl q t p = (false, (((s.counting sl q p).setQuad (qkOf sl q) y).storeRing (qkOf sl q) (s.quad (qkOf sl q)).ring).accepted sl q t
      ((s.quad (qkOf sl q)).aged s.now p)) := by
  simp [State.enterOne, (aged_crew _ _ _).1, hcrew, hy]

/-- A packet of a crew waits in its reservation. -/
theorem enterOne_crew {s : State} {sl q : Nat} {p : Packet} (t : Train) (hcrew : p.crew = true) :
    s.enterOne sl q t p = (false, (s.counting sl q p).crewArrive sl q ((s.quad (qkOf sl q)).aged s.now p)) := by
  simp [State.enterOne, (aged_crew _ _ _).1, hcrew]

/-- A refused packet waits before the quad while its sender's store is full, else the store keeps it (19:R412; log 29). -/
theorem enterOne_refused {s : State} {sl q : Nat} {t : Train} {p : Packet} (hcrew : p.crew = false) (hinj : t.injected = false)
    (hy : ((s.quad (qkOf sl q)).counted p).take s.now ((s.quad (qkOf sl q)).aged s.now p) = none) :
    s.enterOne sl q t p =
      if t.again = false ∧ 32 ≤ (s.quad (qkOf sl t.src)).resend.length then (true, s.counting sl q p)
      else (false, (s.counting sl q p).refuse sl q t ((s.quad (qkOf sl q)).aged s.now p).putOff) := by
  simp [State.enterOne, (aged_crew _ _ _).1, hcrew, hinj, hy]

/-! ## A train that enters whole -/

/-- Before the first packet of a train enters, the train is off its way, and the quad notes its sender. -/
def State.opensTrain (s : State) (sl q key : Nat) (rest : List Train) : State :=
  s.modQuad (qkOf sl q) (fun x => { x with trains := rest, entered := some (s.now, key) })

/-- What follows the packets of a train: the quad settles, packets that stay on their way stand first, and an injected train is acknowledged. -/
def State.closesTrain (u : State) (sl q : Nat) (t : Train) (left : List Packet) : State :=
  let v := if left.isEmpty then u.settleQuad sl q
    else (u.settleQuad sl q).modQuad (qkOf sl q) (fun x => { x with trains := { t with packets := left } :: x.trains })
  if t.injected then v.modLaunch sl t.launch (fun l =>
    if l.desc.crewsz = 0 then { l with entered := tput l.entered q (tget 0 l.entered q + (t.packets.length - left.length)) } else l)
  else v

/-- A train of a sender enters: no train of a higher key has entered in this cycle, and nothing was sent before it. -/
def State.MayEnter (s : State) (sl q : Nat) (t : Train) : Prop :=
  (s.quad (qkOf sl q)).mayEnter s.now (trainKey t) = true ∧ (t.injected = false → s.sentBefore (qkOf sl q) t.src t.no = false) ∧ t.waits s.now = false

theorem trainIn_waits {s : State} {sl q key : Nat} {t : Train} (hf : (s.quad (qkOf sl q)).firstTrain key = some t)
    (h : (s.quad (qkOf sl q)).mayEnter s.now key = false ∨ t.injected = false ∧ s.sentBefore (qkOf sl q) t.src t.no = true) :
    s.trainIn sl q key = s := by
  unfold State.trainIn
  simp only [hf]
  refine if_pos ?_
  rcases h with h | ⟨h, h'⟩
  · simp [h]
  · simp [h, h']

theorem trainIn_enters {s : State} {sl q key : Nat} {t : Train} {rest : List Train} (hf : (s.quad (qkOf sl q)).firstTrain key = some t)
    (hkey : trainKey t = key) (hrest : (s.quad (qkOf sl q)).trains.erase t = rest) (hm : s.MayEnter sl q t) :
    s.trainIn sl q key = ((s.opensTrain sl q key rest).enterAll sl q t t.packets).2.closesTrain sl q t
      ((s.opensTrain sl q key rest).enterAll sl q t t.packets).1 := by
  obtain ⟨hmay, hsent, hwaits⟩ := hm
  subst hkey
  have hopen : s.modQuad (qkOf sl q) (fun x => { x with trains := x.trains.erase t, entered := some (s.now, trainKey t) }) =
      s.opensTrain sl q (trainKey t) rest := by
    rw [← hrest]
    rfl
  have hgo : ¬ (!(s.quad (qkOf sl q)).mayEnter s.now (trainKey t) || (!t.injected && s.sentBefore (qkOf sl q) t.src t.no) || t.waits s.now) = true := by
    cases hi : t.injected
    · simp [hmay, hsent hi, hwaits]
    · simp [hmay, hwaits]
  unfold State.trainIn
  simp only [hf]
  rw [if_neg hgo, hopen]
  rfl

/-! ## The train sent first (04:R124, 15:R376) -/

/-- The least of a list whose head has no greater key than any other is its head. -/
theorem minBy_cons_of_le {α : Type} {key : α → Nat} {x : α} {l : List α} (h : ∀ y ∈ l, key x ≤ key y) : minBy key (x :: l) = some x := by
  rw [minBy]
  cases hm : minBy key l with
  | none => rfl
  | some y =>
    have hy := h y (minBy_mem hm)
    exact if_neg (by omega)

/-- The train of a sender at which its trains begin, and what stands without it. -/
theorem firstTrain_eq {x : Quad} {a b : List Train} {tr : Train} (hx : x.trains = a ++ tr :: b) (ha : ∀ y ∈ a, trainKey y ≠ trainKey tr)
    (hb : ∀ y ∈ b, trainKey y = trainKey tr → tr.no ≤ y.no) :
    x.firstTrain (trainKey tr) = some tr ∧ x.trains.erase tr = a ++ b := by
  have hmine : x.trains.filter (fun t => trainKey t == trainKey tr) = tr :: b.filter (fun t => trainKey t == trainKey tr) := by
    rw [hx, List.filter_append, List.filter_eq_nil_iff.mpr fun y hy => by simpa using ha y hy, List.nil_append,
      List.filter_cons_of_pos (by simp)]
  constructor
  · rw [Quad.firstTrain, hmine]
    refine minBy_cons_of_le fun y hy => ?_
    obtain ⟨hyb, hk⟩ := List.mem_filter.mp hy
    exact hb y hyb (by simpa using hk)
  · rw [hx, List.erase_append_right _ fun h => ha tr h rfl, List.erase_cons_head]

theorem exec_trainEntry {q : Nat} (sl key : Nat) (s : State) (hq : q < 2048) : exec (.trainEntry sl (2048 * key + q)) s = .next (s.trainIn sl q key) := by
  have hmod : (2048 * key + q) % 2048 = q := by omega
  have hdiv : (2048 * key + q) / 2048 = key := by omega
  exact congrArg₂ (fun n k => Host.Outcome.next (s.trainIn sl n k)) hmod hdiv

theorem mayEnter_eq_false {x : Quad} {now key : Nat} : x.mayEnter now key = false ↔ ∃ k, x.entered = some (now, k) ∧ key < k := by
  unfold Quad.mayEnter
  cases h : x.entered with
  | none => simp
  | some e =>
    obtain ⟨t, k⟩ := e
    simp

/-! ## What follows the packets of a train -/

theorem accepted_quad (s : State) (sl q k : Nat) (t : Train) (p : Packet) : ((s.accepted sl q t p).quad k) =
    if t.again = true ∧ k = qkOf sl t.src then { s.quad k with resend := (s.quad k).resend.filter (fun e => !sameSent q p e) } else s.quad k := by
  unfold State.accepted
  by_cases ht : t.again = true
  · rw [if_pos ht]
    by_cases hk : k = qkOf sl t.src
    · subst hk
      rw [modQuad_quad_same, if_pos ⟨ht, rfl⟩]
    · rw [modQuad_quad_other _ _ _ _ hk, if_neg fun h => hk h.2]
  · rw [if_neg ht, if_neg fun h => ht h.1]

/-- What a packet that its sender takes back becomes in the sender's store (19:R412). -/
def Train.takesBack (t : Train) (q : Nat) (p : Packet) (store : List (Nat × Packet)) : List (Nat × Packet) :=
  if t.again then store.map (fun e => if sameSent q p e then (q, { p with away := false }) else e) else store ++ [(q, { p with away := false })]

theorem refuse_sends {s : State} {t : Train} (sl q k : Nat) (p : Packet) (hinj : t.injected = false) :
    (s.refuse sl q t p).quad k =
        { s.quad k with resend := if k = qkOf sl t.src then t.takesBack q p (s.quad k).resend else (s.quad k).resend } ∧
      ((s.refuse sl q t p).slice sl).ctrs.refuse = (s.slice sl).ctrs.refuse + 1 := by
  unfold State.refuse
  simp only [hinj, Bool.false_eq_true, if_false]
  constructor
  · by_cases hk : k = qkOf sl t.src
    · subst hk
      rw [modQuad_quad_same, if_pos rfl, Train.takesBack]
      split <;> rfl
    · rw [modQuad_quad_other _ _ _ _ hk, if_neg hk]
      rfl
  · rw [modQuad_slice, modSlice_slice_same]

/-- A crew packet joins the packets of its reservation (03:R89). -/
theorem crewArrive_places (s : State) (sl q : Nat) (p : Packet) : (s.crewArrive sl q p).quads = s.quads ∧
    ((s.crewArrive sl q p).cluster (clkOf sl (q / 2))).crews = (s.cluster (clkOf sl (q / 2))).crews.map (fun r =>
      if r.launch = p.launch ∧ r.crew = p.crewNo then { r with packets := r.packets ++ [(q, { p with qAt := s.now })] } else r) := by
  unfold State.crewArrive
  dsimp only
  split
  case h_1 hfind =>
    refine ⟨rfl, ?_⟩
    conv_lhs => rw [← List.map_id (s.cluster (clkOf sl (q / 2))).crews]
    refine List.map_congr_left fun r hr => ?_
    rw [if_neg (by simpa using List.find?_eq_none.mp hfind r hr)]
    rfl
  case h_2 r hfind =>
    obtain ⟨m, k, h, v, g, hw⟩ := wrBytes_written s 0 (r.slotLoc (clkOf sl (q / 2)) p) p.bytes
    rw [hw]
    refine ⟨rfl, ?_⟩
    rw [modCluster_cluster_same]
    simp only [Bool.and_eq_true, beq_iff_eq]
    rfl

/-! ## Fresh packets (03:R66, R69) -/

theorem MemoryWritten.still {s t : State} (h : MemoryWritten s t) : t.quads = s.quads ∧ t.slices = s.slices ∧ t.ctxs = s.ctxs ∧ t.now = s.now := by
  obtain ⟨_, _, _, _, _, rfl⟩ := h
  exact ⟨rfl, rfl, rfl, rfl⟩

/-- A packet that first reaches its quad now, as the one of a number there. -/
def Packet.arrived (p : Packet) (now seq : Nat) : Packet := { p with at_ := now, seq := seq, came := true, due := now }

/-- Packets that first reach their quad now, numbered in their order. -/
def arrivals (now seq : Nat) (ps : List Packet) : List Packet := (ps.zipIdx seq).map (fun e => e.1.arrived now e.2)

/-- The place in a quad's queue and in its ring of packets that reach it in order (03:R69). -/
structure EnteredAs (s u : State) (sl q : Nat) (aq ring : List Packet) (count : Nat) : Prop where
  aq : (u.quad (qkOf sl q)).aq = (s.quad (qkOf sl q)).aq ++ aq
  ring : (u.quad (qkOf sl q)).ring = (s.quad (qkOf sl q)).ring ++ ring
  entrySeq : (u.quad (qkOf sl q)).entrySeq = (s.quad (qkOf sl q)).entrySeq + count
  trains : (u.quad (qkOf sl q)).trains = (s.quad (qkOf sl q)).trains
  entered : (u.quad (qkOf sl q)).entered = (s.quad (qkOf sl q)).entered
  slices : u.slices = s.slices
  ctxs : u.ctxs = s.ctxs
  now : u.now = s.now

theorem EnteredAs.refl (s : State) (sl q : Nat) : EnteredAs s s sl q [] [] 0 :=
  ⟨(List.append_nil _).symm, (List.append_nil _).symm, rfl, rfl, rfl, rfl, rfl, rfl⟩

theorem EnteredAs.trans {s u v : State} {sl q m n : Nat} {a a' r r' : List Packet} (h : EnteredAs s u sl q a r m) (h' : EnteredAs u v sl q a' r' n) :
    EnteredAs s v sl q (a ++ a') (r ++ r') (m + n) where
  aq := by rw [h'.aq, h.aq, List.append_assoc]
  ring := by rw [h'.ring, h.ring, List.append_assoc]
  entrySeq := by rw [h'.entrySeq, h.entrySeq, Nat.add_assoc]
  trains := h'.trains.trans h.trains
  entered := h'.entered.trans h.entered
  slices := h'.slices.trans h.slices
  ctxs := h'.ctxs.trans h.ctxs
  now := h'.now.trans h.now

/-- A quad that has taken a packet, its ring written. -/
def State.holding (s : State) (sl q : Nat) (p : Packet) (y : Quad) : State :=
  ((s.counting sl q p).setQuad (qkOf sl q) y).storeRing (qkOf sl q) (s.quad (qkOf sl q)).ring

theorem holding_still (s : State) (sl q : Nat) (p : Packet) (y : Quad) : (s.holding sl q p y).quad (qkOf sl q) = y ∧
    (∀ k, ((s.holding sl q p y).quad k).resend = if k = qkOf sl q then y.resend else (s.quad k).resend) ∧
    (s.holding sl q p y).slices = s.slices ∧ (s.holding sl q p y).ctxs = s.ctxs ∧ (s.holding sl q p y).now = s.now := by
  obtain ⟨hq, hs, hc, hn⟩ := (storeRing_written ((s.counting sl q p).setQuad (qkOf sl q) y) (qkOf sl q) (s.quad (qkOf sl q)).ring).still
  have hquad : ∀ k, (s.holding sl q p y).quad k = ((s.counting sl q p).setQuad (qkOf sl q) y).quad k := fun k => by
    unfold State.quad
    rw [State.holding, hq]
  refine ⟨by rw [hquad, setQuad_quad_same], fun k => ?_, hs, hc, hn⟩
  rw [hquad]
  by_cases hk : k = qkOf sl q
  · rw [hk, setQuad_quad_same, if_pos rfl]
  · rw [setQuad_quad_other _ _ _ _ hk, counting_quad, if_neg hk]

theorem accepted_still (s : State) (sl q : Nat) (t : Train) (p : Packet) : (s.accepted sl q t p).slices = s.slices ∧
    (s.accepted sl q t p).ctxs = s.ctxs ∧ (s.accepted sl q t p).now = s.now := by
  unfold State.accepted
  split <;> exact ⟨rfl, rfl, rfl⟩

/-- A quad that took a packet keeps it whether or not its sender hears of it. -/
theorem accepted_holding_enteredAs {s : State} {sl q n : Nat} {p p' : Packet} {y : Quad} {a r : List Packet} (t : Train)
    (haq : y.aq = (s.quad (qkOf sl q)).aq ++ a) (hring : y.ring = (s.quad (qkOf sl q)).ring ++ r)
    (hseq : y.entrySeq = (s.quad (qkOf sl q)).entrySeq + n) (htr : y.trains = (s.quad (qkOf sl q)).trains)
    (hen : y.entered = (s.quad (qkOf sl q)).entered) : EnteredAs s ((s.holding sl q p y).accepted sl q t p') sl q a r n := by
  obtain ⟨hy, -, hs, hc, hn⟩ := holding_still s sl q p y
  obtain ⟨hs', hc', hn'⟩ := accepted_still (s.holding sl q p y) sl q t p'
  refine ⟨?_, ?_, ?_, ?_, ?_, hs'.trans hs, hc'.trans hc, hn'.trans hn⟩ <;> rw [accepted_quad, hy] <;> split <;> assumption

/-- A fresh packet enters the queue while it has room and the ring is empty. -/
theorem enterOne_queue {s : State} {sl q : Nat} {p : Packet} (t : Train) (hcrew : p.crew = false) (hcame : p.came = false)
    (hold : ∀ y ∈ (s.quad (qkOf sl q)).aq ++ (s.quad (qkOf sl q)).ring, y.seq < (s.quad (qkOf sl q)).entrySeq)
    (hring : (s.quad (qkOf sl q)).ring = []) (hroom : (s.quad (qkOf sl q)).aq.length < 256) :
    ∃ u, s.enterOne sl q t p = (false, u) ∧
      EnteredAs s u sl q [{ p.arrived s.now (s.quad (qkOf sl q)).entrySeq with qAt := s.now }] [] 1 := by
  have haged : (s.quad (qkOf sl q)).aged s.now p = p.arrived s.now (s.quad (qkOf sl q)).entrySeq := if_neg (by simp [hcame])
  have htake : ((s.quad (qkOf sl q)).counted p).take s.now ((s.quad (qkOf sl q)).aged s.now p) =
      some { (s.quad (qkOf sl q)).counted p with
        aq := byAge { p.arrived s.now (s.quad (qkOf sl q)).entrySeq with qAt := s.now } (s.quad (qkOf sl q)).aq } := by
    rw [haged]
    exact if_pos ⟨hroom, by simp [Quad.counted, hring]⟩
  refine ⟨_, enterOne_takes t hcrew htake, accepted_holding_enteredAs t ?_ (List.append_nil _).symm ?_ rfl rfl⟩
  · exact insertBy_of_le _ _ _ fun y hy => (hold y (List.mem_append_left _ hy)).le
  · simp [Quad.counted, hcame]

/-- A fresh packet enters the ring while the queue has no room or the ring holds packets. -/
theorem enterOne_ring {s : State} {sl q : Nat} {p : Packet} (t : Train) (hcrew : p.crew = false) (hcame : p.came = false)
    (hold : ∀ y ∈ (s.quad (qkOf sl q)).aq ++ (s.quad (qkOf sl q)).ring, y.seq < (s.quad (qkOf sl q)).entrySeq)
    (hfull : (s.quad (qkOf sl q)).ring = [] → 256 ≤ (s.quad (qkOf sl q)).aq.length) (hroom : (s.quad (qkOf sl q)).ring.length < 8192) :
    ∃ u, s.enterOne sl q t p = (false, u) ∧ EnteredAs s u sl q [] [p.arrived s.now (s.quad (qkOf sl q)).entrySeq] 1 := by
  have haged : (s.quad (qkOf sl q)).aged s.now p = p.arrived s.now (s.quad (qkOf sl q)).entrySeq := if_neg (by simp [hcame])
  have htake : ((s.quad (qkOf sl q)).counted p).take s.now ((s.quad (qkOf sl q)).aged s.now p) =
      some { (s.quad (qkOf sl q)).counted p with ring := byAge (p.arrived s.now (s.quad (qkOf sl q)).entrySeq) (s.quad (qkOf sl q)).ring } := by
    rw [haged]
    refine (if_neg fun h => ?_).trans (if_pos hroom)
    obtain ⟨hlt, hnil⟩ := h
    exact absurd hlt (Nat.not_lt.mpr (hfull (List.isEmpty_iff.mp hnil)))
  refine ⟨_, enterOne_takes t hcrew htake, accepted_holding_enteredAs t (List.append_nil _).symm ?_ ?_ rfl rfl⟩
  · exact insertBy_of_le _ _ _ fun y hy => (hold y (List.mem_append_right _ hy)).le
  · simp [Quad.counted, hcame]

/-- How many of some packets a queue takes: none while the ring holds packets (03:R69). -/
def Quad.room (x : Quad) (len : Nat) : Nat := if x.ring = [] then min len (256 - x.aq.length) else 0

theorem arrived_old {s u : State} {sl q n : Nat} {a r : List Packet} (h : EnteredAs s u sl q a r n)
    (hold : ∀ y ∈ (s.quad (qkOf sl q)).aq ++ (s.quad (qkOf sl q)).ring, y.seq < (s.quad (qkOf sl q)).entrySeq)
    (hnew : ∀ y ∈ a ++ r, y.seq < (s.quad (qkOf sl q)).entrySeq + n) :
    ∀ y ∈ (u.quad (qkOf sl q)).aq ++ (u.quad (qkOf sl q)).ring, y.seq < (u.quad (qkOf sl q)).entrySeq := by
  intro y hy
  rw [h.aq, h.ring] at hy
  rw [h.entrySeq]
  have hcases : y ∈ (s.quad (qkOf sl q)).aq ++ (s.quad (qkOf sl q)).ring ∨ y ∈ a ++ r := by
    simp only [List.mem_append] at hy ⊢
    tauto
  rcases hcases with hy | hy
  · exact Nat.lt_of_lt_of_le (hold y hy) (Nat.le_add_right _ _)
  · exact hnew y hy

theorem arrivals_cons (now seq : Nat) (p : Packet) (ps : List Packet) :
    arrivals now seq (p :: ps) = p.arrived now seq :: arrivals now (seq + 1) ps := by
  simp [arrivals, List.zipIdx_cons]

/-- A queue that has taken one packet of some has room for one less. -/
theorem EnteredAs.room_queue {s u : State} {sl q n : Nat} {p : Packet} (h : EnteredAs s u sl q [p] [] n) (hring : (s.quad (qkOf sl q)).ring = [])
    (hroom : (s.quad (qkOf sl q)).aq.length < 256) (len : Nat) :
    (s.quad (qkOf sl q)).room (len + 1) = (u.quad (qkOf sl q)).room len + 1 := by
  have hring' : (u.quad (qkOf sl q)).ring = [] := by rw [h.ring, hring, List.append_nil]
  rw [Quad.room, Quad.room, if_pos hring, if_pos hring', h.aq, List.length_append, List.length_singleton]
  omega

/-- A queue takes none while its ring holds packets or it is full. -/
theorem room_eq_zero {x : Quad} (h : x.ring = [] → 256 ≤ x.aq.length) (len : Nat) : x.room len = 0 := by
  unfold Quad.room
  split
  case isTrue hring =>
    have := h hring
    omega
  case isFalse => rfl

/-- Fresh packets all enter, in their order: those that the queue has room for there, the others in the ring. -/
theorem enterAll_fresh {sl q : Nat} (t : Train) (ps : List Packet) {s : State} (hps : ∀ p ∈ ps, p.crew = false ∧ p.came = false)
    (hold : ∀ y ∈ (s.quad (qkOf sl q)).aq ++ (s.quad (qkOf sl q)).ring, y.seq < (s.quad (qkOf sl q)).entrySeq)
    (hfit : (s.quad (qkOf sl q)).ring.length + (ps.length - (s.quad (qkOf sl q)).room ps.length) ≤ 8192) :
    ∃ u, s.enterAll sl q t ps = ([], u) ∧ EnteredAs s u sl q
      (((arrivals s.now (s.quad (qkOf sl q)).entrySeq ps).take ((s.quad (qkOf sl q)).room ps.length)).map (fun p => { p with qAt := s.now }))
      ((arrivals s.now (s.quad (qkOf sl q)).entrySeq ps).drop ((s.quad (qkOf sl q)).room ps.length)) ps.length := by
  induction ps generalizing s with
  | nil => exact ⟨s, rfl, by simpa [arrivals] using EnteredAs.refl s sl q⟩
  | cons p ps ih =>
    obtain ⟨hcrew, hcame⟩ := hps p List.mem_cons_self
    have hrest : ∀ p ∈ ps, p.crew = false ∧ p.came = false := fun p hp => hps p (List.mem_cons_of_mem _ hp)
    rw [List.length_cons] at hfit
    rw [arrivals_cons, List.length_cons, Nat.add_comm ps.length 1]
    by_cases hq : (s.quad (qkOf sl q)).ring = [] ∧ (s.quad (qkOf sl q)).aq.length < 256
    · obtain ⟨hring, hroom⟩ := hq
      obtain ⟨u, hu, hin⟩ := enterOne_queue t hcrew hcame hold hring hroom
      have hless := hin.room_queue hring hroom ps.length
      have hring' : (u.quad (qkOf sl q)).ring = [] := by rw [hin.ring, hring, List.append_nil]
      obtain ⟨v, hv, hin'⟩ := ih hrest (arrived_old hin hold (by simp [Packet.arrived])) (by
        rw [hring, hless] at hfit
        rw [hring']
        omega)
      refine ⟨v, by rw [enterAll_cons, hu, hv]; rfl, ?_⟩
      rw [hin.now, hin.entrySeq] at hin'
      rw [Nat.add_comm 1 ps.length, hless, List.take_succ_cons, List.drop_succ_cons, Nat.add_comm ps.length 1]
      exact hin.trans hin'
    · have hfull : (s.quad (qkOf sl q)).ring = [] → 256 ≤ (s.quad (qkOf sl q)).aq.length := fun h => Nat.not_lt.mp fun h' => hq ⟨h, h'⟩
      rw [room_eq_zero hfull] at hfit ⊢
      obtain ⟨u, hu, hin⟩ := enterOne_ring t hcrew hcame hold hfull (by omega)
      have hfull' : (u.quad (qkOf sl q)).ring = [] → 256 ≤ (u.quad (qkOf sl q)).aq.length := fun h => by simp [hin.ring] at h
      obtain ⟨v, hv, hin'⟩ := ih hrest (arrived_old hin hold (by simp [Packet.arrived])) (by
        rw [room_eq_zero hfull', hin.ring, List.length_append, List.length_singleton]
        omega)
      rw [room_eq_zero hfull', hin.now, hin.entrySeq] at hin'
      exact ⟨v, by rw [enterAll_cons, hu, hv]; rfl, hin.trans hin'⟩

theorem mem_insertBy_iff {α : Type} (key : α → Nat) (x y : α) (l : List α) : y ∈ insertBy key x l ↔ y = x ∨ y ∈ l := by
  induction l with
  | nil => simp [insertBy]
  | cons z l ih =>
    rw [insertBy]
    split
    · exact List.mem_cons
    · rw [List.mem_cons, ih, List.mem_cons]
      tauto

theorem sameSent_eq (q : Nat) (p : Packet) (e : Nat × Packet) : sameSent q p e = decide (e.1 = q ∧ e.2.seq = p.seq) := by
  rw [sameSent, Bool.decide_and]
  rfl

/-! ## What a train leaves when it has entered -/

theorem closesTrain_quad (u : State) (sl q k : Nat) (t : Train) (left : List Packet) : (u.closesTrain sl q t left).quad k =
    if k = qkOf sl q ∧ left ≠ [] then
      { (u.settleQuad sl q).quad k with trains := { t with packets := left } :: ((u.settleQuad sl q).quad k).trains }
    else (u.settleQuad sl q).quad k := by
  have hquad : (u.closesTrain sl q t left).quad k = (if left.isEmpty then u.settleQuad sl q
      else (u.settleQuad sl q).modQuad (qkOf sl q) (fun x => { x with trains := { t with packets := left } :: x.trains })).quad k := by
    unfold State.closesTrain
    dsimp only
    split <;> rfl
  rw [hquad]
  cases left with
  | nil => simp
  | cons p ps =>
    by_cases hk : k = qkOf sl q
    · subst hk
      simp
    · simp [hk, modQuad_quad_other]

/-- Settling and closing leave every resend store alone. -/
theorem closesTrain_resend (u : State) (sl q k : Nat) (t : Train) (left : List Packet) :
    ((u.closesTrain sl q t left).quad k).resend = (u.quad k).resend := by
  have hsettle : ((u.settleQuad sl q).quad k).resend = (u.quad k).resend := by
    by_cases hk : k = qkOf sl q
    · rw [hk, (settleQuad_settled u sl q).resend]
    · rw [State.settleQuad, modQuad_quad_other _ _ _ _ hk]
  rw [closesTrain_quad]
  split <;> exact hsettle

theorem closesTrain_settled (u : State) (sl q : Nat) (t : Train) :
    Settled (u.quad (qkOf sl q)) ((u.closesTrain sl q t []).quad (qkOf sl q)) (u.hwm sl) := by
  rw [closesTrain_quad, if_neg (by simp)]
  exact settleQuad_settled u sl q

/-- Packets that stay on their way stand first; queue and ring are as they were. -/
theorem closesTrain_packets (u : State) (sl q : Nat) (t : Train) (left : List Packet) : let y := (u.closesTrain sl q t left).quad (qkOf sl q)
    y.aq = (u.quad (qkOf sl q)).aq ∧ y.ring = (u.quad (qkOf sl q)).ring ∧
      (left ≠ [] → y.trains = { t with packets := left } :: (u.quad (qkOf sl q)).trains) := by
  have h := settleQuad_settled u sl q
  rw [closesTrain_quad]
  split
  case isTrue => exact ⟨h.aq, h.ring, fun _ => congrArg _ h.trains⟩
  case isFalse hn => exact ⟨h.aq, h.ring, fun hl => absurd ⟨rfl, hl⟩ hn⟩

theorem closesTrain_clus (u : State) (sl q : Nat) (t : Train) (left : List Packet) : (u.closesTrain sl q t left).clus = u.clus := by
  unfold State.closesTrain
  dsimp only
  split <;> split <;> rfl

theorem closesTrain_slices {t : Train} (hinj : t.injected = false) (u : State) (sl q : Nat) (left : List Packet) :
    (u.closesTrain sl q t left).slices = u.slices := by
  unfold State.closesTrain
  simp only [hinj, Bool.false_eq_true, if_false]
  split <;> rfl

/-- The launch of an injected train counts the packets that have entered a quad. -/
theorem closesTrain_launch {u : State} {sl : Nat} {t : Train} {l : Launch} (hinj : t.injected = true)
    (h : (u.slice sl).launches.find? (fun l => l.num == t.launch) = some l) (hc : l.desc.crewsz = 0) (q : Nat) :
    ∃ m, ((u.closesTrain sl q t []).slice sl).launches.find? (fun l => l.num == t.launch) = some m ∧
      tget 0 m.entered q = tget 0 l.entered q + t.packets.length := by
  have hclose : u.closesTrain sl q t [] = (u.settleQuad sl q).modLaunch sl t.launch (fun l =>
      if l.desc.crewsz = 0 then { l with entered := tput l.entered q (tget 0 l.entered q + t.packets.length) } else l) := by
    simp [State.closesTrain, hinj]
  refine ⟨_, (congrArg (fun v : State => (v.slice sl).launches.find? (fun l => l.num == t.launch)) hclose).trans
    (find_modLaunch (s := u.settleQuad sl q) h fun m => ?_), ?_⟩
  · split <;> rfl
  · rw [if_pos hc]
    exact tget_tput_same _ _ _ _

/-! ## The quad at the start of a train -/

theorem opensTrain_quad (s : State) (sl q key : Nat) (rest : List Train) :
    (s.opensTrain sl q key rest).quad (qkOf sl q) = { s.quad (qkOf sl q) with trains := rest, entered := some (s.now, key) } :=
  modQuad_quad_same _ _ _

theorem opensTrain_resend (s : State) (sl q key k : Nat) (rest : List Train) :
    ((s.opensTrain sl q key rest).quad k).resend = (s.quad k).resend := by
  by_cases hk : k = qkOf sl q
  · rw [hk, opensTrain_quad]
  · rw [State.opensTrain, modQuad_quad_other _ _ _ _ hk]

theorem hwm_congr {s t : State} (hs : t.slices = s.slices) (hc : t.ctxs = s.ctxs) (sl : Nat) : t.hwm sl = s.hwm sl := by
  have hrun : t.runCx sl = s.runCx sl := by
    unfold State.runCx State.slice
    rw [hs]
  unfold State.hwm State.ctx
  rw [hrun, hc]

/-! ## Trains that enter: the cases -/

/-- The packet of a train of one, as the quad receives it. -/
def State.received (s : State) (sl q : Nat) (p : Packet) : Packet := (s.quad (qkOf sl q)).aged s.now p

theorem opensTrain_received (s : State) (sl q key : Nat) (rest : List Train) (p : Packet) :
    ((s.opensTrain sl q key rest).quad (qkOf sl q)).aged (s.opensTrain sl q key rest).now p = s.received sl q p := by
  rw [opensTrain_quad]
  rfl

/-- A train of fresh packets enters queue and ring. -/
theorem freshTrain_enters {s : State} {sl q : Nat} {tr : Train} (rest : List Train) (hps : ∀ p ∈ tr.packets, p.crew = false ∧ p.came = false)
    (hold : ∀ y ∈ (s.quad (qkOf sl q)).aq ++ (s.quad (qkOf sl q)).ring, y.seq < (s.quad (qkOf sl q)).entrySeq)
    (hfit : (s.quad (qkOf sl q)).ring.length + (tr.packets.length - (s.quad (qkOf sl q)).room tr.packets.length) ≤ 8192) :
    ∃ u, (s.opensTrain sl q (trainKey tr) rest).enterAll sl q tr tr.packets = ([], u) ∧
      EnteredAs (s.opensTrain sl q (trainKey tr) rest) u sl q
        (((arrivals s.now (s.quad (qkOf sl q)).entrySeq tr.packets).take ((s.quad (qkOf sl q)).room tr.packets.length)).map
          (fun p => { p with qAt := s.now }))
        ((arrivals s.now (s.quad (qkOf sl q)).entrySeq tr.packets).drop ((s.quad (qkOf sl q)).room tr.packets.length)) tr.packets.length := by
  have h := enterAll_fresh (s := s.opensTrain sl q (trainKey tr) rest) (sl := sl) (q := q) tr tr.packets hps
  rw [opensTrain_quad] at h
  exact h hold hfit

/-- A packet that came before and that its quad now takes leaves its sender's store. -/
theorem sentAgain_accepted {s : State} {sl q : Nat} {t : Train} {p : Packet} (hcrew : p.crew = false) (hcame : p.came = true)
    (hagain : t.again = true) (hring : (s.quad (qkOf sl q)).ring = []) (hroom : (s.quad (qkOf sl q)).aq.length < 256) :
    ∃ u, s.enterAll sl q t [p] = ([], u) ∧ (u.quad (qkOf sl q)).aq = byAge { p with qAt := s.now } (s.quad (qkOf sl q)).aq ∧
      (u.quad (qkOf sl t.src)).resend = (s.quad (qkOf sl t.src)).resend.filter (fun e => !sameSent q p e) := by
  have haged : (s.quad (qkOf sl q)).aged s.now p = p := if_pos hcame
  have htake : ((s.quad (qkOf sl q)).counted p).take s.now ((s.quad (qkOf sl q)).aged s.now p) =
      some { (s.quad (qkOf sl q)).counted p with aq := byAge { p with qAt := s.now } (s.quad (qkOf sl q)).aq } := by
    rw [haged]
    exact if_pos ⟨hroom, by simp [Quad.counted, hring]⟩
  obtain ⟨hy, hre, -⟩ := holding_still s sl q p
    { (s.quad (qkOf sl q)).counted p with aq := byAge { p with qAt := s.now } (s.quad (qkOf sl q)).aq }
  refine ⟨_, by rw [enterAll_single, enterOne_takes t hcrew htake]; rfl, ?_, ?_⟩
  · refine (congrArg Quad.aq (accepted_quad (s.holding sl q p _) sl q (qkOf sl q) t _)).trans ?_
    rw [hy]
    split <;> rfl
  · refine (congrArg Quad.resend (accepted_quad (s.holding sl q p _) sl q (qkOf sl t.src) t _)).trans ?_
    rw [if_pos ⟨hagain, rfl⟩, hre, haged]
    split
    case isTrue hk => rw [hk]; rfl
    case isFalse => rfl

/-- A quad whose ring is full takes nothing. -/
theorem take_full {x : Quad} (p p' : Packet) (now : Nat) (h : 8192 ≤ x.ring.length) : (x.counted p).take now p' = none := by
  have hring : (x.counted p).ring = x.ring := rfl
  unfold Quad.take
  rw [hring, if_neg, if_neg (by omega)]
  rintro ⟨-, hnil⟩
  rw [List.isEmpty_iff.mp hnil] at h
  exact absurd h (by decide)

/-- A refused packet of a transfer leaves queue and ring as they are, and waits before the quad or in its sender's store. -/
theorem single_refused {s : State} {sl q : Nat} {t : Train} {p : Packet} (hcrew : p.crew = false) (hinj : t.injected = false)
    (hfull : 8192 ≤ (s.quad (qkOf sl q)).ring.length) : ∃ u left, s.enterAll sl q t [p] = (left, u) ∧
      (u.quad (qkOf sl q)).aq = (s.quad (qkOf sl q)).aq ∧ (u.quad (qkOf sl q)).ring = (s.quad (qkOf sl q)).ring ∧
      (u.quad (qkOf sl q)).trains = (s.quad (qkOf sl q)).trains ∧
      if t.again = false ∧ 32 ≤ (s.quad (qkOf sl t.src)).resend.length then
        left = [s.received sl q p] ∧ (u.quad (qkOf sl t.src)).resend = (s.quad (qkOf sl t.src)).resend
      else
        (u.quad (qkOf sl t.src)).resend = t.takesBack q (s.received sl q p).putOff (s.quad (qkOf sl t.src)).resend ∧
          (u.slice sl).ctrs.refuse = (s.slice sl).ctrs.refuse + 1 := by
  have hone := enterOne_refused (s := s) (sl := sl) (q := q) hcrew hinj (take_full p _ _ hfull)
  rw [enterAll_single, hone]
  split
  case isTrue =>
    exact ⟨_, _, rfl, by rw [counting_quad], by rw [counting_quad], by rw [counting_quad],
      by simp [State.keptOnItsWay, hinj, State.received], by rw [counting_quad]⟩
  case isFalse =>
    obtain ⟨hquad, hctr⟩ := refuse_sends (s := s.counting sl q p) sl q (qkOf sl q) (s.received sl q p).putOff hinj
    obtain ⟨hquad', -⟩ := refuse_sends (s := s.counting sl q p) sl q (qkOf sl t.src) (s.received sl q p).putOff hinj
    refine ⟨_, _, rfl, ?_, ?_, ?_, ?_, hctr⟩
    · exact (congrArg Quad.aq hquad).trans (by rw [counting_quad])
    · exact (congrArg Quad.ring hquad).trans (by rw [counting_quad])
    · exact (congrArg Quad.trains hquad).trans (by rw [counting_quad])
    · exact (congrArg Quad.resend hquad').trans (by rw [if_pos rfl, counting_quad])

/-- A crew's packet waits in its reservation; queue and ring are as they were. -/
theorem single_crew {s : State} (sl q : Nat) (t : Train) {p : Packet} (hcrew : p.crew = true) : ∃ u, s.enterAll sl q t [p] = ([], u) ∧
    (u.quad (qkOf sl q)).aq = (s.quad (qkOf sl q)).aq ∧ (u.quad (qkOf sl q)).ring = (s.quad (qkOf sl q)).ring ∧
    (u.cluster (clkOf sl (q / 2))).crews = (s.cluster (clkOf sl (q / 2))).crews.map (fun r =>
      if r.launch = p.launch ∧ r.crew = p.crewNo then { r with packets := r.packets ++ [(q, { s.received sl q p with qAt := s.now })] } else r) := by
  obtain ⟨-, hlaunch, hno⟩ := aged_crew (s.quad (qkOf sl q)) s.now p
  obtain ⟨hquads, hcrews⟩ := crewArrive_places (s.counting sl q p) sl q (s.received sl q p)
  have hquad : ((s.counting sl q p).crewArrive sl q (s.received sl q p)).quad (qkOf sl q) = (s.counting sl q p).quad (qkOf sl q) := by
    unfold State.quad
    rw [hquads]
  refine ⟨_, by rw [enterAll_single, enterOne_crew t hcrew]; rfl, ?_, ?_, ?_⟩
  · exact (congrArg Quad.aq hquad).trans (by rw [counting_quad])
  · exact (congrArg Quad.ring hquad).trans (by rw [counting_quad])
  · refine hcrews.trans (List.map_congr_left fun r _ => if_congr ?_ rfl rfl)
    exact and_congr (Eq.congr_right hlaunch) (Eq.congr_right hno)

theorem trainsEnterWhole : Says.TrainsEnterWhole := by
  intro s sl q a b tr x key i stamp stamped store behind n hq hx ha hb hwaits
  obtain ⟨hfirst, hrest⟩ := firstTrain_eq (tr := tr) hx ha hb
  have hexec : exec i s = .next (s.trainIn sl q (trainKey tr)) := exec_trainEntry sl (trainKey tr) s hq
  refine ⟨fun h => ?_, fun hbehind hsent => ?_⟩
  · rw [hexec, trainIn_waits hfirst (h.imp_left mayEnter_eq_false.mpr)]
  have hmay : x.mayEnter s.now key = true := by
    by_contra h
    exact hbehind (mayEnter_eq_false.mp (by simpa using h))
  let o := s.opensTrain sl q (trainKey tr) (a ++ b)
  have hopen : o.quad (qkOf sl q) = { x with trains := a ++ b, entered := some (s.now, key) } := opensTrain_quad s sl q _ _
  have hoaq : (o.quad (qkOf sl q)).aq = x.aq := by rw [hopen]
  have horing : (o.quad (qkOf sl q)).ring = x.ring := by rw [hopen]
  have hotrains : (o.quad (qkOf sl q)).trains = a ++ b := by rw [hopen]
  have hstore : store o = store s := opensTrain_resend s sl q _ _ _
  have hnext : ∀ {left u}, o.enterAll sl q tr tr.packets = (left, u) → exec i s = .next (u.closesTrain sl q tr left) := fun hu => by
    rw [hexec, trainIn_enters hfirst rfl hrest ⟨hmay, hsent, hwaits⟩, hu]
  refine ⟨fun hps hold hfit => ?fresh, fun p hp hcrew hinj hfull => ?refused, fun p hp hcrew hinj hcame hagain hring hroom => ?again,
    fun p hp hcrew => ?crew⟩
  case fresh =>
    obtain ⟨u, hu, hent⟩ := freshTrain_enters (a ++ b) hps hold hfit
    have hstamped : arrivals s.now x.entrySeq tr.packets = stamped := by
      simp [arrivals, stamped, List.zipIdx_eq_map_add (i := x.entrySeq), Packet.arrived, Nat.add_comm]
    have hclose := closesTrain_settled u sl q tr
    refine ⟨u.closesTrain sl q tr [], hnext hu, ?_, ?_, ?_, ?_, ?_, ?_, fun hinj l hl hc => ?_⟩
    · exact (hclose.trains.trans hent.trains).trans hotrains
    · exact (hclose.entered.trans hent.entered).trans (by rw [hopen])
    · rw [← hstamped]
      exact (hclose.aq.trans hent.aq).trans (congrArg (· ++ _) hoaq)
    · rw [← hstamped]
      exact (hclose.ring.trans hent.ring).trans (congrArg (· ++ _) horing)
    · exact (hclose.entrySeq.trans hent.entrySeq).trans (by rw [hopen])
    · rw [hclose.annAbove, hclose.aq, hwm_congr (s := s) hent.slices hent.ctxs]
    · refine closesTrain_launch hinj (l := l) ?_ hc q
      unfold State.slice
      rw [hent.slices]
      exact hl
  case refused =>
    have hfull' : 8192 ≤ (o.quad (qkOf sl q)).ring.length := by rwa [hopen]
    obtain ⟨u, left, hu, haq, hring, htr, hback⟩ := single_refused hcrew hinj hfull'
    obtain ⟨haq', hring', htr'⟩ := closesTrain_packets u sl q tr left
    have hreceived : o.received sl q p = stamp p := opensTrain_received s sl q _ _ p
    have hstore' : store (u.closesTrain sl q tr left) = (u.quad (qkOf sl tr.src)).resend := closesTrain_resend u sl q _ tr left
    rw [← hp] at hu
    refine ⟨_, hnext hu, ?_, ?_, ?_⟩
    · exact (haq'.trans haq).trans hoaq
    · exact (hring'.trans hring).trans horing
    rw [hstore', ← hstore]
    split at hback
    case isTrue hw =>
      obtain ⟨hleft, hre⟩ := hback
      refine (if_pos hw).mpr ⟨hre, ?_⟩
      rw [htr' (by simp [hleft]), htr, hotrains, hleft, hreceived]
    case isFalse hw =>
      obtain ⟨hre, hctr⟩ := hback
      refine (if_neg hw).mpr ⟨?_, ?_⟩
      · rw [hre, hreceived]
        simp [Train.takesBack, sameSent_eq, Packet.putOff, store]
      · unfold State.slice at hctr ⊢
        rw [closesTrain_slices hinj, hctr]
        rfl
  case again =>
    obtain ⟨u, hu, haq, hre⟩ := sentAgain_accepted (s := o) (sl := sl) (q := q) hcrew hcame hagain (by rw [hopen]; exact hring) (by rw [hopen]; exact hroom)
    obtain ⟨haq', -, -⟩ := closesTrain_packets u sl q tr []
    rw [← hp] at hu
    refine ⟨_, hnext hu, fun y => ?_, ?_⟩
    · rw [haq', haq, hopen, byAge, mem_insertBy_iff, or_comm]
      rfl
    · refine ((closesTrain_resend u sl q _ tr []).trans hre).trans ?_
      rw [show (o.quad (qkOf sl tr.src)).resend = store s from hstore]
      exact List.filter_congr fun e _ => congrArg not (sameSent_eq q p e)
  case crew =>
    obtain ⟨u, hu, haq, hring, hcrews⟩ := single_crew (s := o) sl q tr hcrew
    obtain ⟨haq', hring', -⟩ := closesTrain_packets u sl q tr []
    have hreceived : o.received sl q p = stamp p := opensTrain_received s sl q _ _ p
    rw [← hp] at hu
    refine ⟨_, hnext hu, ?_, ?_, ?_⟩
    · exact (haq'.trans haq).trans hoaq
    · exact (hring'.trans hring).trans horing
    · unfold State.cluster at hcrews ⊢
      rw [closesTrain_clus, hcrews, hreceived]
      rfl

/-- Settles O48: each part by its own theorem, the entry of a train by induction on its packets. -/
theorem packetsTravelAndEnterWhole : Obligations.PacketsTravelAndEnterWhole :=
  ⟨injectionFillsProbedReplicas, crewsGoToTheNextClusterWithRoom, trainsLeaveTheQuad, trainsEnterWhole, ringsRefillAndResend⟩

end Sys2Proof.Machine
end

section
/-!
What the launch arbiter leaves of a slice and of memory while it reads heads, changes tiles and writes records (07:R183 to R201).
-/

namespace Sys2Proof.Machine

/-! ## The part of a unit that the arbiter leaves (07:R183, R197, R201) -/

/-- A slice apart from its heads, its counters, the records that wait, its device queue and the cycle of its last selection. -/
def Slice.still (x : Slice) : Slice := { x with heads := [], ctrs := {}, dones := [], devq := [], selBy := 0 }

/-- A context apart from its heads. -/
def Ctx.still (x : Ctx) : Ctx := { x with heads := [] }

/-- A function apart from its stage-2 faults, its dirty log and the completions that failed. -/
def Vf.still (x : Vf) : Vf := { x with s2q := [], s2next := 0, s2over := [], dlog := [], dovf := false, doneFail := 0 }

/-- Time, links and keys are as before, and slices, contexts and functions apart from what the arbiter's work changes; no task has begun. -/
structure Kept (s t : State) : Prop where
  now : t.now = s.now
  clock : t.clock = s.clock
  links : t.links = s.links
  ochre : t.ochre = s.ochre
  slice : ∀ k, (t.slice k).still = (s.slice k).still
  ctx : ∀ k, (t.ctx k).still = (s.ctx k).still
  vf : ∀ k, (t.vf k).still = (s.vf k).still
  tasks : (∀ k, (s.gang k).task = none) → ∀ k, (t.gang k).task = none

/-- Memory and the keys of its sectors are as before too. -/
structure Quiet (s t : State) : Prop extends Kept s t where
  mem : t.mem = s.mem
  keyOf : t.keyOf = s.keyOf

theorem Kept.refl (s : State) : Kept s s := ⟨rfl, rfl, rfl, rfl, fun _ => rfl, fun _ => rfl, fun _ => rfl, id⟩

theorem Kept.trans {s t u : State} (a : Kept s t) (b : Kept t u) : Kept s u where
  now := b.now.trans a.now
  clock := b.clock.trans a.clock
  links := b.links.trans a.links
  ochre := b.ochre.trans a.ochre
  slice := fun k => (b.slice k).trans (a.slice k)
  ctx := fun k => (b.ctx k).trans (a.ctx k)
  vf := fun k => (b.vf k).trans (a.vf k)
  tasks := fun h => b.tasks (a.tasks h)

theorem Quiet.refl (s : State) : Quiet s s := ⟨.refl s, rfl, rfl⟩

theorem Quiet.trans {s t u : State} (a : Quiet s t) (b : Quiet t u) : Quiet s u :=
  ⟨a.toKept.trans b.toKept, b.mem.trans a.mem, b.keyOf.trans a.keyOf⟩

theorem Quiet.foldl {α : Type} {f : State → α → State} (hf : ∀ t x, Quiet t (f t x)) (xs : List α) (s : State) : Quiet s (xs.foldl f s) := by
  induction xs generalizing s with
  | nil => exact .refl s
  | cons x xs ih => exact (hf s x).trans (ih _)

variable {s t : State}

namespace Kept

theorem launches (h : Kept s t) (sl : Nat) : (t.slice sl).launches = (s.slice sl).launches := (congrArg Slice.launches (h.slice sl) :)
theorem submits (h : Kept s t) (cx : Nat) : (t.ctx cx).submits = (s.ctx cx).submits := (congrArg Ctx.submits (h.ctx cx) :)
theorem refused (h : Kept s t) (v : Nat) : (t.vf v).refused = (s.vf v).refused := (congrArg Vf.refused (h.vf v) :)
theorem tilePa (h : Kept s t) (cx : Nat) : (t.ctx cx).tilePa = (s.ctx cx).tilePa := (congrArg Ctx.tilePa (h.ctx cx) :)

theorem keyNo (h : Kept s t) (cx : Nat) : t.keyNo cx = s.keyNo cx := (congrArg (fun x : Ctx => x.key.getD 0) (h.ctx cx) :)

theorem runCx (h : Kept s t) (sl : Nat) : t.runCx sl = s.runCx sl := (congrArg (fun x : Slice => cxOf sl (x.running.getD 0)) (h.slice sl) :)

theorem dtc (h : Kept s t) : t.dtc = s.dtc := congrArg Clock.ns h.clock

end Kept

/-- Memory reads as before. -/
theorem Quiet.rdByte (h : Quiet s t) (key loc : Nat) : t.rdByte key loc = s.rdByte key loc := by
  unfold State.rdByte
  rw [h.mem, h.keyOf, h.links]

/-! ## Changes of one unit -/

theorem modSlice_quiet (s : State) (sl : Nat) {f : Slice → Slice} (hf : ∀ x, (f x).still = x.still) : Quiet s (s.modSlice sl f) := by
  refine ⟨⟨rfl, rfl, rfl, rfl, fun k => ?_, fun _ => rfl, fun _ => rfl, id⟩, rfl, rfl⟩
  by_cases hk : k = sl
  · rw [hk, modSlice_slice_same, hf]
  · rw [modSlice_slice_other _ _ _ _ hk]

theorem modCtx_quiet (s : State) (cx : Nat) {f : Ctx → Ctx} (hf : ∀ x, (f x).still = x.still) : Quiet s (s.modCtx cx f) := by
  refine ⟨⟨rfl, rfl, rfl, rfl, fun _ => rfl, fun k => ?_, fun _ => rfl, id⟩, rfl, rfl⟩
  by_cases hk : k = cx
  · rw [hk, modCtx_ctx_same, hf]
  · rw [modCtx_ctx_other _ _ _ _ hk]

theorem modVf_quiet (s : State) (v : Nat) {f : Vf → Vf} (hf : ∀ x, (f x).still = x.still) : Quiet s (s.modVf v f) := by
  refine ⟨⟨rfl, rfl, rfl, rfl, fun _ => rfl, fun _ => rfl, fun k => ?_, id⟩, rfl, rfl⟩
  by_cases hk : k = v
  · rw [hk, modVf_vf_same, hf]
  · rw [modVf_vf_other _ _ _ _ hk]

/-- The management space is no part of it. -/
theorem mgmt_quiet (s : State) (m : Mgmt) : Quiet s { s with mgmt := m } :=
  ⟨⟨rfl, rfl, rfl, rfl, fun _ => rfl, fun _ => rfl, fun _ => rfl, id⟩, rfl, rfl⟩

/-- Functions whose stage-2 faults alone differ, with a slice's counters. -/
theorem vfs_quiet (s : State) {vfs : Tab Vf} (h : ∀ k, (tget {} vfs k).still = (s.vf k).still) : Quiet s { s with vfs := vfs } :=
  ⟨⟨rfl, rfl, rfl, rfl, fun _ => rfl, fun _ => rfl, h, id⟩, rfl, rfl⟩

theorem event_quiet (s : State) (kind sl cx vf detail value : Nat) : Quiet s (s.event kind sl cx vf detail value) := by
  unfold State.event
  dsimp only
  split <;> exact mgmt_quiet s _

theorem refreshHeads_quiet (s : State) (sl : Nat) : Quiet s (s.refreshHeads sl) := modSlice_quiet s sl fun _ => rfl

/-! ## Stage-2 faults of the selector (19:R406) -/

theorem s2Enter_quiet (s : State) (v sl : Nat) (r : S2Rec) : Quiet s (s.s2Enter v sl r) := by
  unfold State.s2Enter
  split
  · exact modVf_quiet s v fun _ => rfl
  split
  · exact modVf_quiet s v fun _ => rfl
  · unfold State.s2Append
    refine Quiet.trans ?_ (modSlice_quiet _ sl fun _ => rfl)
    exact modVf_quiet s v fun _ => rfl

theorem selFault_quiet (s : State) (u : S2User) (sl va ipa : Nat) (wr table perm : Bool) : Quiet s (s.selFault u sl va ipa wr table perm) := by
  unfold State.selFault State.stage2Record
  refine Quiet.trans ?_ (s2Enter_quiet _ _ _ _)
  exact modVf_quiet s _ fun _ => rfl

/-! ## Heads that are read (07:R183) -/

theorem addHead_quiet (s : State) (sl c : Nat) (h : HeadRec) : Quiet s (s.addHead sl c h) := by
  unfold State.addHead
  split
  · refine Quiet.trans ?_ (refreshHeads_quiet _ sl)
    exact modSlice_quiet s sl fun _ => rfl
  · exact modCtx_quiet s _ fun _ => rfl

theorem readHead_quiet (s : State) (sl c src desc : Nat) (tag : Word) (args : List Word) (flagsBad : Bool) (tabEnt : Option Nat) :
    Quiet s (s.readHead sl c src desc tag args flagsBad tabEnt) := by
  unfold State.readHead
  dsimp only
  split
  · exact .refl s
  split
  · refine Quiet.trans ?_ (modSlice_quiet _ sl fun _ => rfl)
    refine vfs_quiet s fun k => ?_
    refine ((selFault_quiet _ _ _ _ _ _ _ _).vf k).trans ?_
    unfold State.vf
    rw [viewOf_vfs]
  · exact addHead_quiet _ _ _ _

theorem queueHead_quiet (s : State) (sl c n : Nat) (q : WorkQueue) : Quiet s (s.queueHead sl c n q) := by
  unfold State.queueHead
  dsimp only
  split
  · exact .refl s
  · exact readHead_quiet _ _ _ _ _ _ _ _ _

theorem seeQueue_quiet (s : State) (n : Nat) : Quiet s (s.seeQueue n) := by
  unfold State.seeQueue
  dsimp only
  split
  · exact .refl s
  · exact queueHead_quiet _ _ _ _ _

theorem devHead_quiet (s : State) (sl : Nat) : Quiet s (s.devHead sl) := by
  unfold State.devHead
  split
  · exact .refl s
  split
  · exact .refl s
  · exact readHead_quiet _ _ _ _ _ _ _ _ _

theorem tabHead_quiet (s : State) (sl e : Nat) : Quiet s (s.tabHead sl e) := by
  unfold State.tabHead
  dsimp only
  split
  · exact .refl s
  split
  · exact .refl s
  · exact (readHead_quiet _ _ _ _ _ _ _ _ _).trans (mgmt_quiet _ _)

theorem submit_quiet (s : State) (e : Nat) : Quiet s (s.submit e) := (mgmt_quiet s _).trans (tabHead_quiet _ _ _)

theorem instanceEnds_quiet (s : State) (tabEnt : Option Nat) : Quiet s (s.instanceEnds tabEnt) := by
  unfold State.instanceEnds
  split
  · exact .refl s
  · exact (mgmt_quiet s _).trans (.foldl (fun _ _ => submit_quiet _ _) _ _)

/-- A head leaves its queue; the loader of the running context has nothing to submit. -/
theorem popHead_quiet {sl : Nat} (src : Nat) (h : (s.ctx (s.runCx sl)).submits = []) : Quiet s (s.popHead sl src) := by
  have hdrop : Quiet s (s.modSlice sl (fun x => { x with heads := dropHead src x.heads })) := modSlice_quiet s sl fun _ => rfl
  unfold State.popHead
  dsimp only
  split
  · generalize hu : State.queueHead _ _ _ _ _ = u
    have hq : Quiet s u := hdrop.trans ((mgmt_quiet _ _).trans (hu ▸ queueHead_quiet _ _ _ _ _))
    rw [State.loaderSubmits, hq.runCx, hq.submits, h]
    exact hq
  split
  · refine hdrop.trans (.trans ?_ (devHead_quiet _ sl))
    exact modSlice_quiet _ sl fun _ => rfl
  · exact hdrop

/-! ## What memory's changes leave -/

/-- Memory, its keys and its history are no part of what is kept. -/
theorem memory_keeps (s : State) (m : List Host.Cell) (k : Tab Nat) (h : List (List (Nat × Byte))) : Kept s { s with mem := m, keyOf := k, farHist := h } :=
  ⟨rfl, rfl, rfl, rfl, fun _ => rfl, fun _ => rfl, fun _ => rfl, id⟩

theorem putAll_keeps (s : State) (key : Nat) (ws : List (Nat × Byte)) : Kept s (s.putAll key ws) := by
  obtain ⟨m, k, h⟩ := putAll_shape key ws s
  rw [h]
  exact memory_keeps s m k _

theorem wrBytes_keeps (s : State) (key loc : Nat) (bs : List Byte) : Kept s (s.wrBytes key loc bs) :=
  (memory_keeps s _ _ _).trans (putAll_keeps (s.remember key _) _ _)

theorem dirtyLog_quiet (s : State) (cx p : Nat) : Quiet s (s.dirtyLog cx p) := by
  have hlog : ∀ f : Vf → Vf, (∀ x, (f x).still = x.still) → Quiet s (s.setVf (s.ctx cx).vf (f (s.vf (s.ctx cx).vf))) := fun _ hf => modVf_quiet s _ hf
  unfold State.dirtyLog
  dsimp only
  split
  · exact .refl s
  split
  · exact hlog (fun x => { x with dlog := x.dlog ++ [p] }) fun _ => rfl
  · exact (hlog (fun x => { x with dovf := true }) fun _ => rfl).trans (event_quiet _ _ _ _ _ _ _)

theorem setD_keeps (s : State) (cx ipa : Nat) : Kept s (s.setD cx ipa) := by
  unfold State.setD
  split
  · split
    · exact (dirtyLog_quiet s cx _).toKept.trans (putAll_keeps _ _ [(_, _)])
    · exact .refl s
  · exact .refl s

theorem dirtyVa_keeps (s : State) (cx va : Nat) : Kept s (s.dirtyVa cx va) := by
  unfold State.dirtyVa
  split
  · exact setD_keeps s cx _
  · exact .refl s

/-- The TLBs are no part of what is kept. -/
theorem noteAccess_keeps (s : State) (qk cx va : Nat) (wr : Bool) : Kept s (s.noteAccess qk cx va wr) := by
  have htlb : ∀ (u : State) (f : Quad → Quad) (g : Cluster → Cluster), Kept u ((u.modQuad qk f).modCluster (clkOfQk qk) g) := fun u _ _ =>
    ⟨rfl, rfl, rfl, rfl, fun _ => rfl, fun _ => rfl, fun _ => rfl, id⟩
  unfold State.noteAccess
  split
  case h_1 e _ =>
    dsimp only
    split
    · exact (setD_keeps s cx _).trans (htlb _ _ _)
    · exact htlb s _ _
  case h_2 => exact .refl s

/-! ## Squashes and waits that are met -/

theorem sole_quiet (s : State) (x : List SoleReq) : Quiet s { s with sole := x } :=
  ⟨⟨rfl, rfl, rfl, rfl, fun _ => rfl, fun _ => rfl, fun _ => rfl, id⟩, rfl, rfl⟩

theorem modGang_squash_quiet (s : State) (gk : Nat) : Quiet s (s.modGang gk Gang.squash) :=
  ⟨⟨rfl, rfl, rfl, rfl, fun _ => rfl, fun _ => rfl, fun _ => rfl, fun h k => ((modGang_squash_squashed s gk).gang k).task.trans (h k)⟩, rfl, rfl⟩

theorem squashChunk_quiet (s : State) (gk : Nat) : Quiet s (s.squashChunk gk) ∧ (s.squashChunk gk).mgmt = s.mgmt ∧
    (s.squashChunk gk).quads = s.quads := by
  have hcount : ∀ u : State, Quiet u (u.modSlice (slOfGk gk) (fun x => { x with ctrs := { x.ctrs with squash := x.ctrs.squash + 1 } })) :=
    fun u => modSlice_quiet u _ fun _ => rfl
  have hsole : ∀ u : State, Quiet u (u.countSole gk) := fun u => modSlice_quiet u _ fun _ => rfl
  have h := (modGang_squash_quiet s gk).trans (hcount _)
  unfold State.squashChunk
  dsimp only
  split
  · exact ⟨h.trans (sole_quiet _ _), rfl, rfl⟩
  split
  · split
    · exact ⟨(h.trans (sole_quiet _ _)).trans (hsole _), rfl, rfl⟩
    · exact ⟨h.trans (sole_quiet _ _), rfl, rfl⟩
  · exact ⟨h, rfl, rfl⟩

/-- Without tasks, a squash of chunks leaves memory, the management space and the quads. -/
theorem squashList_quiet (gks : List Nat) (s : State) (ht : ∀ k, (s.gang k).task = none) :
    Quiet s (s.squashList gks) ∧ (s.squashList gks).mgmt = s.mgmt ∧ (s.squashList gks).quads = s.quads := by
  induction gks generalizing s with
  | nil => exact ⟨.refl s, rfl, rfl⟩
  | cons gk gks ih =>
    have h : Quiet s (s.squashGang gk) ∧ (s.squashGang gk).mgmt = s.mgmt ∧ (s.squashGang gk).quads = s.quads := by
      unfold State.squashGang
      dsimp only
      split
      · exact ⟨.refl s, rfl, rfl⟩
      · next h => exact absurd ((ht gk).symm.trans h) nofun
      · exact squashChunk_quiet s gk
    obtain ⟨hone, hmone, hqone⟩ := h
    obtain ⟨hrest, hmrest, hqrest⟩ := ih _ (hone.tasks ht)
    exact ⟨hone.trans hrest, hmrest.trans hmone, hqrest.trans hqone⟩

theorem meetAll_quiet (s : State) (mine : Nat → Bool) (p : Awaited → Bool) : Quiet s (s.meetAll mine p) := by
  refine ⟨⟨rfl, rfl, rfl, rfl, fun _ => rfl, fun _ => rfl, fun _ => rfl, fun h k => ?_⟩, rfl, rfl⟩
  have hmap : (s.meetAll mine p).gang k = if mine k then (s.gang k).meet p else s.gang k := by
    have hgangs : (s.meetAll mine p).gangs = s.gangs.map (fun e => (e.1, if mine e.1 then e.2.meet p else e.2)) := by
      refine List.map_congr_left fun e _ => ?_
      split <;> rfl
    rw [State.gang, hgangs]
    exact tget_map {} (fun j x => if mine j then x.meet p else x) s.gangs k (by split <;> rfl)
  rw [hmap]
  split <;> exact h k

/-! ## Tiles that are changed (07:R184) -/

/-- The `state` word of a tile's header. -/
def TileSt.word (x : TileSt) : Nat :=
  let b (x : Bool) : Nat := if x then 1 else 0
  b x.full + 2 * b x.wclaim + 4 * b x.cclaim + 256 * (x.rd % 256)

/-- The bytes of a tile's `state` and `seq` words. -/
def TileSt.bytes (x : TileSt) : List Byte := leBytes 4 x.word ++ leBytes 4 (x.seq % 2 ^ 32)

/-- A tile's header has been written, and its page is dirty. -/
def State.tileWritten (s : State) (cx i : Nat) (x : TileSt) : State :=
  let u := s.wrBytes (s.keyNo cx) (s.tileAt cx i) x.bytes
  u.dirtyVa cx ((u.ctx cx).tilb + 64 * i)

theorem tileWritten_keeps (s : State) (cx i : Nat) (x : TileSt) : Kept s (s.tileWritten cx i x) := by
  have hw := wrBytes_keeps s (s.keyNo cx) (s.tileAt cx i) x.bytes
  unfold State.tileWritten
  generalize s.wrBytes (s.keyNo cx) (s.tileAt cx i) x.bytes = u at hw ⊢
  exact hw.trans (dirtyVa_keeps u cx _)

/-- Once a tile's header has been written, what follows leaves memory alone. -/
theorem setTile_quiet (cx i : Nat) (x : TileSt) (ht : ∀ k, (s.gang k).task = none) : Quiet (s.tileWritten cx i x) (s.setTile cx i x) := by
  have hset : s.setTile cx i x =
      let v := ((s.tileWritten cx i x).squashUsers (sectorsOf (s.tileAt cx i) 8)).meetAll
        (fun gk => ((s.tileWritten cx i x).squashUsers (sectorsOf (s.tileAt cx i) 8)).gangCx gk == cx)
        (fun y => y.tile && y.obj == i && (if y.vs == [1] then x.full else !x.full && !x.wclaim))
      if (v.slice (cx / 8)).running = some (cx % 8) then v.refreshHeads (cx / 8) else v := rfl
  obtain ⟨hsquash, -⟩ := squashList_quiet (((s.tileWritten cx i x).gangs.filter (fun e => e.2.live &&
    (meets e.2.ch.rsec (sectorsOf (s.tileAt cx i) 8) || meets e.2.ch.wsec (sectorsOf (s.tileAt cx i) 8)))).map (fun e => e.1)) _
    ((tileWritten_keeps s cx i x).tasks ht)
  have hmet := hsquash.trans (meetAll_quiet _ (fun gk => ((s.tileWritten cx i x).squashUsers (sectorsOf (s.tileAt cx i) 8)).gangCx gk == cx)
    (fun y => y.tile && y.obj == i && (if y.vs == [1] then x.full else !x.full && !x.wclaim)))
  rw [hset]
  dsimp only
  split
  · exact hmet.trans (refreshHeads_quiet _ _)
  · exact hmet

theorem setTile_keeps (cx i : Nat) (x : TileSt) (ht : ∀ k, (s.gang k).task = none) : Kept s (s.setTile cx i x) :=
  (tileWritten_keeps s cx i x).trans (setTile_quiet cx i x ht).toKept

end Sys2Proof.Machine
end

section
/-!
Records that are appended to a work queue, and appends that are dropped (07:R188, 14:R359, 21:R439).
-/

namespace Sys2Proof.Machine

/-! ## Memory as a reader sees it after some writes -/

/-- Bytes written under a key read under that key as the writes say, one after the other. -/
theorem rdByte_putAll_wroteAt (key : Nat) (ws : List (Nat × Byte)) {s : State} (hm : s.MemOk) (loc : Nat) :
    (s.putAll key ws).rdByte key loc = s.wroteAt (s.rdByte key) ws loc := by
  induction ws generalizing s with
  | nil => rfl
  | cons w ws ih =>
    have hone : (s.wrByte key w.1 w.2).rdByte key = fun a => if s.links.home a = s.links.home w.1 then w.2 else s.rdByte key a :=
      funext fun a => rdByte_wrByte hm key w.1 a w.2
    refine (ih (.wrByte hm)).trans ?_
    rw [hone]
    unfold State.wroteAt
    rw [wrByte_links]
    rfl

/-- The bytes of a write at consecutive locations. -/
theorem zip_range_eq_map (bs : List Byte) (loc : Nat) : ((List.range bs.length).zip bs).map (fun e => (loc + e.1, e.2)) =
    (List.range bs.length).map (fun k => (loc + k, bs.getD k 0#8)) := by
  refine List.ext_getElem (by simp) fun k hk _ => ?_
  have hlt : k < bs.length := by simpa using hk
  simp [hlt]

theorem rdByte_wrBytes_wroteAt (key loc : Nat) (bs : List Byte) {s : State} (hm : s.MemOk) (a : Nat) : (s.wrBytes key loc bs).rdByte key a =
    s.wroteAt (s.rdByte key) ((List.range bs.length).map (fun k => (loc + k, bs.getD k 0#8))) a := by
  rw [← zip_range_eq_map]
  exact rdByte_putAll_wroteAt key _ (s := s.remember key _) hm a

theorem wrBytes_mgmt (s : State) (key loc : Nat) (bs : List Byte) : (s.wrBytes key loc bs).mgmt = s.mgmt := by
  obtain ⟨m, k, h⟩ := putAll_shape key (((List.range bs.length).zip bs).map (fun e => (loc + e.1, e.2)))
    (s.remember key ((((List.range bs.length).zip bs).map (fun e => (loc + e.1, e.2))).map (fun e => e.1)))
  rw [State.wrBytes, State.wrAll, h]
  rfl

/-! ## Heads and the management space -/

theorem readHead_mgmt (s : State) (sl c src desc : Nat) (tag : Word) (args : List Word) (flagsBad : Bool) (tabEnt : Option Nat) :
    (s.readHead sl c src desc tag args flagsBad tabEnt).mgmt = s.mgmt := by
  unfold State.readHead State.addHead
  dsimp only
  split
  · rfl
  split
  · rfl
  · split <;> rfl

theorem queueHead_mgmt (s : State) (sl c n : Nat) (q : WorkQueue) : (s.queueHead sl c n q).mgmt = s.mgmt := by
  unfold State.queueHead
  dsimp only
  split
  · rfl
  · exact readHead_mgmt _ _ _ _ _ _ _ _ _

theorem seeQueue_mgmt (s : State) (n : Nat) : (s.seeQueue n).mgmt = s.mgmt := by
  unfold State.seeQueue
  dsimp only
  split
  · rfl
  · exact queueHead_mgmt _ _ _ _ _

/-! ## Dropped appends (21:R439) -/

/-- A record of the event log stands last; memory, functions and queues are as before. -/
theorem event_last (s : State) (kind sl cx vf detail value : Nat) : let t := s.event kind sl cx vf detail value
    t.vfs = s.vfs ∧ t.mem = s.mem ∧ t.mgmt.queues = s.mgmt.queues ∧
      t.mgmt.events.getLast? = some { dtc := s.dtc, kind := kind, slice := sl, ctx := cx, vf := vf, detail := detail, value := value } := by
  unfold State.event
  dsimp only
  split <;> exact ⟨rfl, rfl, rfl, by simp⟩

/-- A dropped append counts at the queue's function, and the log tells why. -/
structure AppendDropped (s t : State) (n why : Nat) (count : Vf → Nat) : Prop where
  count : count (t.vf (tget {} s.mgmt.queues n).vf) = count (s.vf (tget {} s.mgmt.queues n).vf) + 1
  mem : t.mem = s.mem
  queues : t.mgmt.queues = s.mgmt.queues
  record : t.mgmt.events.getLast? = some { dtc := s.dtc, kind := 1, slice := 0xff, ctx := 0xff, vf := (tget {} s.mgmt.queues n).vf
                                           detail := n, value := why }

theorem dropAppend_dropped {s : State} {n why : Nat} {count : Vf → Nat} (f : Vf → Vf)
    (hf : s.dropAppend n why = (s.modVf (tget {} s.mgmt.queues n).vf f).event 1 0xff 0xff (tget {} s.mgmt.queues n).vf n why)
    (hcount : ∀ x, count (f x) = count x + 1) : AppendDropped s (s.dropAppend n why) n why count := by
  obtain ⟨hvfs, hmem, hqueues, hlast⟩ :=
    event_last (s.modVf (tget {} s.mgmt.queues n).vf f) 1 0xff 0xff (tget {} s.mgmt.queues n).vf n why
  rw [hf]
  refine ⟨?_, hmem, hqueues, hlast⟩
  rw [State.vf, hvfs, ← hcount]
  exact congrArg count (modVf_vf_same _ _ _)

/-! ## Appends that enter their queue (07:R188) -/

/-- An appended record stands in its place of the ring, and the queue's tail has moved on. -/
theorem appendRec_enters {s : State} (n : Nat) (bytes : List Byte) (hm : s.MemOk) (ht : s.NoTasks none) :
    let q := tget {} s.mgmt.queues n
    (s.appendRec n bytes).mgmt.queues = tput s.mgmt.queues n { q with tail := (q.tail + 1) % 2 ^ q.ldep } ∧
      ∀ loc, (s.appendRec n bytes).rdByte s.ochre.devKey loc = s.wroteAt (s.rdByte s.ochre.devKey)
        ((List.range bytes.length).map (fun k => (q.ring + 64 * q.tail + k, bytes.getD k 0#8))) loc := by
  intro q
  have hw := wrBytes_keeps s s.ochre.devKey (q.ring + 64 * q.tail) bytes
  have hmg := wrBytes_mgmt s s.ochre.devKey (q.ring + 64 * q.tail) bytes
  have hrd := rdByte_wrBytes_wroteAt s.ochre.devKey (q.ring + 64 * q.tail) bytes hm
  unfold State.appendRec
  dsimp only
  generalize s.wrBytes s.ochre.devKey (q.ring + 64 * q.tail) bytes = u at hw hmg hrd ⊢
  obtain ⟨hsq, hsm, -⟩ := squashList_quiet ((u.gangs.filter (fun e => e.2.live && some e.1 != none &&
    meets e.2.ch.rsec (sectorsOf (q.ring + 64 * q.tail) 64))).map (fun e => e.1)) u (hw.tasks (gang_task_of_noTasks ht))
  constructor
  · rw [seeQueue_mgmt]
    exact congrArg (fun m : Mgmt => tput m.queues n _) (hsm.trans hmg)
  · intro loc
    rw [← hrd]
    exact ((hsq.trans (mgmt_quiet _ _)).trans (seeQueue_quiet _ n)).rdByte _ _

theorem appendsEnterTheirQueue : Says.AppendsEnterTheirQueue := by
  intro s off vf bytes n q i part foreign next drops hlink hn
  have hdrops : ∀ {why count}, exec i s = .next (s.dropAppend n why) → AppendDropped s (s.dropAppend n why) n why count → drops why count :=
    fun hex h => ⟨_, _, hex, h.count, h.mem, h.queues, h.record, rfl⟩
  have hopen : ¬ (s.links.fjoadDown = true ∨ 65536 ≤ n) := not_or.mpr ⟨by simp [hlink], Nat.not_le.mpr hn⟩
  have hon : q.en = true → ¬ q.en = false := fun h => by
    rw [h]
    decide
  have hisFull : q.isFull = true ↔ next = q.head := beq_iff_eq
  have hexec : exec i s = execHostAppend off vf bytes s := rfl
  unfold execHostAppend at hexec
  dsimp only at hexec
  rw [if_neg hopen] at hexec
  refine ⟨fun hp => ?_, fun hp hf => ?_, fun hp hf hen => ?_, fun hp hf hen hfull => ?_, fun hp hf hen hroom hfree hm ht => ?_⟩
  · rw [if_pos hp] at hexec
    exact hdrops hexec (dropAppend_dropped (fun f => { f with part := f.part + 1 }) rfl fun _ => rfl)
  · rw [if_neg hp, if_pos hf] at hexec
    exact hdrops hexec (dropAppend_dropped (fun f => { f with frgn := f.frgn + 1 }) rfl fun _ => rfl)
  · rw [if_neg hp, if_neg hf, if_pos hen] at hexec
    exact hdrops hexec (dropAppend_dropped (fun f => { f with dis := f.dis + 1 }) rfl fun _ => rfl)
  · rw [if_neg hp, if_neg hf, if_neg (hon hen), if_pos (hisFull.mpr hfull)] at hexec
    exact hdrops hexec (dropAppend_dropped (fun f => { f with full := f.full + 1 }) rfl fun _ => rfl)
  · rw [if_neg hp, if_neg hf, if_neg (hon hen), if_neg (mt hisFull.mp hroom), State.atArbiter, if_pos hfree] at hexec
    obtain ⟨hqueues, hrd⟩ := appendRec_enters (s := s.arbTake) n bytes hm ht
    have hlen : bytes.length = 64 := by
      by_contra h
      exact hp (.inr h)
    refine ⟨_, hexec, ?_, fun m hmn => ?_, fun loc => ?_⟩
    · rw [hqueues]
      exact tget_tput_same _ _ _ _
    · rw [hqueues]
      exact tget_tput_other _ _ _ hmn
    · rw [hlen] at hrd
      exact hrd loc

end Sys2Proof.Machine
end

section
/-!
Slots of the time-triggered table: which fires, what the overrun rule does, and where a switch begins (07:R191 to R194).
-/

namespace Sys2Proof.Machine

/-! ## Slots that a step of the counter passes (07:R192) -/

theorem next_eq {t : TabEntry} {k : Nat} (h : t.next = some k) : (t.fired.map (fun f => f + 1)).getD 0 = k := by
  unfold TabEntry.next at h
  cases hf : t.fired with
  | none => simpa [hf] using h
  | some f =>
    rw [hf] at h
    dsimp only at h
    split at h
    · cases h
    · simpa using h

theorem lt_of_reached {t : TabEntry} {d k m : Nat} (hp : t.period ≠ 0) (hd : d < t.slotTime k) (h : t.reached d = some m) : m < k := by
  unfold TabEntry.reached at h
  unfold TabEntry.slotTime at hd
  split_ifs at h
  cases h
  rw [Nat.div_lt_iff_lt_mul (Nat.pos_of_ne_zero hp)]
  omega

theorem reached_eq {t : TabEntry} {d m : Nat} (hp : t.period ≠ 0) (hlo : t.slotTime m ≤ d) (hhi : d < t.slotTime (m + 1)) : t.reached d = some m := by
  unfold TabEntry.slotTime at hlo hhi
  unfold TabEntry.reached
  rw [if_neg (by omega), if_neg hp, Nat.div_eq_of_lt_le]
  · omega
  · omega

/-- With nothing due before it, a step of the counter fires the latest slot that it passes; those before it count as skipped. -/
theorem stepped_latest {t : TabEntry} {old new run k j : Nat} (hlate : t.late = []) (hnext : t.next = some k) (hp : t.period ≠ 0)
    (hold : old < t.slotTime k) (hlo : t.slotTime (k + j) ≤ new) (hhi : new < t.slotTime (k + j + 1)) :
    t.stepped old new run = { t with fired := some (k + j), late := [run], skips := t.skips + BitVec.ofNat 32 j } := by
  have hmono : t.slotTime k ≤ t.slotTime (k + j) := Nat.add_le_add_left (Nat.mul_le_mul_right _ (Nat.le_add_right _ _)) _
  have hreached := reached_eq hp hlo hhi
  have hlater : ¬ new ≤ old := by omega
  unfold TabEntry.stepped
  dsimp only
  cases hr : t.reached old with
  | none => simp [hreached, next_eq hnext, hlater, hlate, TabEntry.skip]
  | some m => simp [lt_of_reached hp hold hr, hreached, next_eq hnext, hlater, hlate, TabEntry.skip]

/-! ## The slot that reaches the arbiter (07:R192) -/

theorem slotDue_next {s : State} {x : TabEntry} {k : Nat} (hon : s.slotOn x = true) (hlate : x.late = []) (hnext : x.next = some k) :
    s.slotDue x = (if x.slotTime k ≤ s.dtc.toNat then some (s.clock.run - (s.dtc.toNat - x.slotTime k)) else none) ∧
      x.took = { x with fired := some k } := by
  simp [State.slotDue, TabEntry.took, hon, hlate, hnext]

theorem slotDue_late {s : State} {x : TabEntry} {r : Nat} {l : List Nat} (hon : s.slotOn x = true) (hlate : x.late = r :: l) :
    s.slotDue x = some r ∧ x.took = { x with late := l } := by
  simp [State.slotDue, TabEntry.took, hon, hlate]

/-- A slot that is taken leaves the entry's word, counts and instances. -/
theorem took_still (x : TabEntry) : x.took.ctl = x.ctl ∧ x.took.skips = x.skips ∧ x.took.running = x.running ∧ x.took.pending = x.pending ∧
    x.took.slice = x.slice ∧ x.took.vf = x.vf ∧ x.took.target = x.target := by
  unfold TabEntry.took
  split <;> exact ⟨rfl, rfl, rfl, rfl, rfl, rfl, rfl⟩

/-! ## Submissions and switches leave the rest (07:R193, 14:R363) -/

theorem putTab_entry (s : State) (e : Nat) (t : TabEntry) : tget {} (s.putTab e t).mgmt.table e = t := tget_tput_same _ _ _ _

theorem tabHead_entry (s : State) (sl e : Nat) :
    ∃ u, tget {} (s.tabHead sl e).mgmt.table e = { tget {} s.mgmt.table e with unread := u } := by
  unfold State.tabHead
  dsimp only
  split
  · exact ⟨_, rfl⟩
  split
  · exact ⟨_, rfl⟩
  · exact ⟨_, tget_tput_same _ _ _ _⟩

/-- After a submission one more run of its entry is under way. -/
theorem submit_entry (s : State) (e : Nat) : ∃ u, tget {} (s.submit e).mgmt.table e =
    { tget {} s.mgmt.table e with running := (tget {} s.mgmt.table e).running + 1, unread := u } := by
  obtain ⟨u, hu⟩ := tabHead_entry (s.putTab e { tget {} s.mgmt.table e with
    running := (tget {} s.mgmt.table e).running + 1, unread := (tget {} s.mgmt.table e).unread + 1 }) (tget {} s.mgmt.table e).slice e
  rw [putTab_entry] at hu
  exact ⟨u, hu⟩

theorem startSwitch_still (s : State) (sl : Nat) (inn : Option Nat) (hard : Bool) :
    (s.startSwitch sl inn hard).mem = s.mem ∧ (s.startSwitch sl inn hard).mgmt = s.mgmt := by
  unfold State.startSwitch
  dsimp only
  split
  · split <;> exact ⟨rfl, rfl⟩
  · exact ⟨rfl, rfl⟩

/-- A switch that begins stops selection and names the incoming context. -/
theorem startSwitch_begins (s : State) (sl : Nat) (inn : Option Nat) (hard : Bool) :
    ((s.startSwitch sl inn hard).slice sl).selStop = true ∧ ((s.startSwitch sl inn hard).slice sl).sw.inn = inn ∧
      ((s.slice sl).sw.step ≠ .scrubbing → ((s.startSwitch sl inn hard).slice sl).sw.out = (s.slice sl).running) ∧
      ∀ c, (s.slice sl).running = some c → ((s.startSwitch sl inn hard).slice sl).sw.step =
        if (hard || (s.ctx (cxOf sl c)).dbg.hlt) = true then .halting else .soft := by
  unfold State.startSwitch
  dsimp only
  cases hr : (s.slice sl).running with
  | none =>
    dsimp only
    split
    case isTrue h => simp [h]
    case isFalse h => simp [State.afterSave, h]
  | some c => simp [State.pauseColls, State.slice]

/-! ## What becomes of a slot (07:R193) -/

/-- What a slot leaves of memory and of its entry: slots skipped, runs begun, and those that wait. -/
structure SlotTaken (s t : State) (e skips run pend : Nat) : Prop where
  mem : t.mem = s.mem
  fired : (tget {} t.mgmt.table e).fired = (tget {} s.mgmt.table e).took.fired
  late : (tget {} t.mgmt.table e).late = (tget {} s.mgmt.table e).took.late
  skips : (tget {} t.mgmt.table e).skips = (tget {} s.mgmt.table e).skips + BitVec.ofNat 32 skips
  running : (tget {} t.mgmt.table e).running = (tget {} s.mgmt.table e).running + run
  pending : (tget {} t.mgmt.table e).pending = pend

/-- The entry of a slot that the arbiter handles, as taken. -/
def State.slotTaken (s : State) (e : Nat) : State := s.arbTake.putTab e (tget {} s.mgmt.table e).took

theorem submit_taken (s : State) (e : Nat) : SlotTaken s ((s.slotTaken e).submit e) e 0 1 (tget {} s.mgmt.table e).pending := by
  obtain ⟨-, hskips, hrun, hpend, -⟩ := took_still (tget {} s.mgmt.table e)
  obtain ⟨u, hu⟩ := submit_entry (s.slotTaken e) e
  rw [State.slotTaken, putTab_entry] at hu
  refine ⟨(submit_quiet (s.slotTaken e) e).mem, ?_, ?_, ?_, ?_, ?_⟩ <;> rw [State.slotTaken, hu]
  · exact hskips.trans (BitVec.add_zero _).symm
  · exact congrArg (· + 1) hrun
  · exact hpend

/-- A slot of an entry counts as skipped. -/
def State.slotSkipped (s : State) (e : Nat) : State := s.arbTake.putTab e ((tget {} s.mgmt.table e).took.skip 1)

theorem skip_taken (s : State) (e : Nat) : SlotTaken s (s.slotSkipped e) e 1 0 (tget {} s.mgmt.table e).pending := by
  obtain ⟨-, hskips, hrun, hpend, -⟩ := took_still (tget {} s.mgmt.table e)
  refine ⟨rfl, ?_, ?_, ?_, ?_, ?_⟩ <;> rw [State.slotSkipped, putTab_entry]
  · rfl
  · rfl
  · exact congrArg (· + 1#32) hskips
  · exact hrun
  · exact hpend

/-- The entry with some runs that wait. -/
def State.slotPends (s : State) (e n : Nat) : State := (s.slotTaken e).putTab e { (tget {} s.mgmt.table e).took with pending := n }

/-- A slot whose run waits, whatever follows in the slices. -/
theorem pend_taken {s t : State} {e n : Nat} (hmem : t.mem = s.mem) (hmgmt : t.mgmt = (s.slotPends e n).mgmt) : SlotTaken s t e 0 0 n := by
  obtain ⟨-, hskips, hrun, -⟩ := took_still (tget {} s.mgmt.table e)
  refine ⟨hmem, ?_, ?_, ?_, ?_, ?_⟩ <;> rw [hmgmt, State.slotPends, putTab_entry]
  · exact hskips.trans (BitVec.add_zero _).symm
  · exact hrun

/-- The run of a slot waits, and those under way are taken down with their context (log 28). -/
def State.takesDown (s : State) (e : Nat) : State :=
  let t := (tget {} s.mgmt.table e).took
  let u := s.slotPends e (t.pending + 1)
  if (u.slice t.slice).sw.step = .idle ∧ (u.ctx (u.runCx t.slice)).vf = t.vf then u.startSwitch t.slice (u.slice t.slice).running false else u

theorem takesDown_taken (s : State) (e : Nat) : SlotTaken s (s.takesDown e) e 0 0 ((tget {} s.mgmt.table e).pending + 1) := by
  obtain ⟨-, -, -, hpend, -⟩ := took_still (tget {} s.mgmt.table e)
  rw [← hpend]
  unfold State.takesDown
  dsimp only
  split
  · obtain ⟨hmem, hmgmt⟩ := startSwitch_still (s.slotPends e ((tget {} s.mgmt.table e).took.pending + 1)) (tget {} s.mgmt.table e).took.slice
      ((s.slotPends e ((tget {} s.mgmt.table e).took.pending + 1)).slice (tget {} s.mgmt.table e).took.slice).running false
    exact pend_taken hmem hmgmt
  · exact pend_taken rfl rfl

/-- What the arbiter does with a slot of a launch entry. -/
def State.overrun (s : State) (e : Nat) : State :=
  let t := (tget {} s.mgmt.table e).took
  if t.running = 0 then (s.slotTaken e).submit e
  else
    match nbits t.ctl 3 2 with
    | 0 => s.slotSkipped e
    | 1 => if t.pending ≠ 0 then s.slotSkipped e else s.slotPends e 1
    | 2 => s.takesDown e
    | _ => if t.running < 16 then (s.slotTaken e).submit e else s.slotSkipped e

theorem execLaunchSlot_due {s : State} {e r : Nat} (hkind : nbits (tget {} s.mgmt.table e).ctl 1 2 = 0)
    (hdue : s.slotDue (tget {} s.mgmt.table e) = some r) (hbehind : s.slotBehind e r = false) (hfree : s.arbFree = true) :
    exec (.launchSlot e) s = .next (s.overrun e) := by
  show execLaunchSlot e s = _
  unfold execLaunchSlot
  simp only [hkind, hdue, hbehind, State.atArbiter, hfree]
  rfl

section
variable {s : State} {e : Nat}

theorem overrun_submits (h : (tget {} s.mgmt.table e).running = 0 ∨
    nbits (tget {} s.mgmt.table e).ctl 3 2 = 3 ∧ (tget {} s.mgmt.table e).running < 16) : s.overrun e = (s.slotTaken e).submit e := by
  obtain ⟨hctl, -, hrun, -⟩ := took_still (tget {} s.mgmt.table e)
  rw [State.overrun]
  rw [hctl, hrun]
  rcases h with h | ⟨h, hlt⟩
  · exact if_pos h
  · simp only [h, hlt, if_true, ite_self]

theorem overrun_skips (hr : (tget {} s.mgmt.table e).running ≠ 0) (h : nbits (tget {} s.mgmt.table e).ctl 3 2 = 0 ∨
    nbits (tget {} s.mgmt.table e).ctl 3 2 = 3 ∧ 16 ≤ (tget {} s.mgmt.table e).running ∨
    nbits (tget {} s.mgmt.table e).ctl 3 2 = 1 ∧ (tget {} s.mgmt.table e).pending ≠ 0) : s.overrun e = s.slotSkipped e := by
  obtain ⟨hctl, -, hrun, hpend, -⟩ := took_still (tget {} s.mgmt.table e)
  rw [State.overrun]
  rw [hctl, hrun, hpend, if_neg hr]
  rcases h with h | ⟨h, hge⟩ | ⟨h, hp⟩
  · simp only [h]
  · simp only [h, if_neg (Nat.not_lt.mpr hge)]
  · simp only [h, if_pos hp]

theorem overrun_waits (hr : (tget {} s.mgmt.table e).running ≠ 0) (h : nbits (tget {} s.mgmt.table e).ctl 3 2 = 1)
    (hp : (tget {} s.mgmt.table e).pending = 0) : s.overrun e = s.slotPends e 1 := by
  obtain ⟨hctl, -, hrun, hpend, -⟩ := took_still (tget {} s.mgmt.table e)
  rw [State.overrun]
  rw [hctl, hrun, hpend, if_neg hr]
  simp only [h, hp, ne_eq, not_true_eq_false, if_false]

theorem overrun_takesDown (hr : (tget {} s.mgmt.table e).running ≠ 0) (h : nbits (tget {} s.mgmt.table e).ctl 3 2 = 2) :
    s.overrun e = s.takesDown e := by
  obtain ⟨hctl, -, hrun, -⟩ := took_still (tget {} s.mgmt.table e)
  rw [State.overrun]
  rw [hctl, hrun, if_neg hr]
  simp only [h]

/-- Rule 2 asks the slice to switch the running context out and in again. -/
theorem takesDown_switches {c : Nat} (hidle : (s.slice (tget {} s.mgmt.table e).slice).sw.step = .idle)
    (hmine : (s.ctx (s.runCx (tget {} s.mgmt.table e).slice)).vf = (tget {} s.mgmt.table e).vf)
    (hc : (s.slice (tget {} s.mgmt.table e).slice).running = some c) : let y := (s.takesDown e).slice (tget {} s.mgmt.table e).slice
    y.selStop = true ∧ y.sw.step ≠ .idle ∧ y.sw.inn = some c := by
  obtain ⟨-, -, -, -, hslice, hvf, -⟩ := took_still (tget {} s.mgmt.table e)
  obtain ⟨hstop, hinn, -, hstep⟩ := startSwitch_begins (s.slotPends e ((tget {} s.mgmt.table e).took.pending + 1)) (tget {} s.mgmt.table e).slice
    (s.slice (tget {} s.mgmt.table e).slice).running false
  have hgo : s.takesDown e = (s.slotPends e ((tget {} s.mgmt.table e).took.pending + 1)).startSwitch (tget {} s.mgmt.table e).slice
      (s.slice (tget {} s.mgmt.table e).slice).running false := by
    unfold State.takesDown
    dsimp only
    rw [hslice, hvf]
    exact if_pos ⟨hidle, hmine⟩
  rw [hgo]
  refine ⟨hstop, ?_, hinn.trans hc⟩
  rw [hstep c hc]
  split <;> nofun

end

theorem launchSlotsFollowTheOverrunRule : Says.LaunchSlotsFollowTheOverrunRule := by
  intro s e k r l x rule i after
  refine ⟨fun t old new j => stepped_latest, fun hen hkind hsource hfree => ?_⟩
  have hon : s.slotOn x = true := by simp [State.slotOn, hen, hkind, hsource]
  have hafter : ∀ {t skips run pend}, exec i s = .next t → SlotTaken s t e skips run pend → after skips run pend :=
    fun hex h => ⟨_, hex, h.mem, h.fired, h.late, h.skips, h.running, h.pending⟩
  refine ⟨slotDue_next hon, slotDue_late hon, fun hdue => ?_, fun hdue hbehind => ?_⟩
  · show execLaunchSlot e s = _
    unfold execLaunchSlot
    simp only [show s.slotDue (tget {} s.mgmt.table e) = none from hdue, ite_self]
  have hexec : exec i s = .next (s.overrun e) := execLaunchSlot_due hkind hdue hbehind hfree
  refine ⟨fun h => hafter (overrun_submits h ▸ hexec) (submit_taken s e), fun hr h => hafter (overrun_skips hr h ▸ hexec) (skip_taken s e),
    fun hr h => ?_, fun hr h hidle hmine c hc => ⟨_, overrun_takesDown hr h ▸ hexec, takesDown_switches hidle hmine hc⟩⟩
  rcases h with h | ⟨h, hp⟩
  · exact hafter (overrun_takesDown hr h ▸ hexec) (takesDown_taken s e)
  · have hone : x.pending + 1 = 1 := by rw [hp]
    rw [hone]
    exact hafter (overrun_waits hr h hp ▸ hexec) (pend_taken (t := s.slotPends e 1) rfl rfl)

/-! ## Switch slots (07:R194) -/

theorem switchSlotsStartTheLadder : Says.SwitchSlotsStartTheLadder := by
  intro s e r x sw hkind hfree hdue hbehind
  obtain ⟨-, hskips, -, -, hslice, -, htarget⟩ := took_still x
  have hexec : exec (.switchSlot e) s = .next (if (s.slice x.took.slice).sw.busy then s.slotSkipped e
      else (s.slotTaken e).startSwitch x.took.slice (some (x.took.target % 8)) false) := by
    show execSwitchSlot e s = _
    unfold execSwitchSlot
    simp only [show nbits (tget {} s.mgmt.table e).ctl 1 2 = 1 from hkind, show s.slotDue (tget {} s.mgmt.table e) = some r from hdue, hbehind,
      State.atArbiter, hfree]
    rfl
  rw [hslice, htarget] at hexec
  obtain ⟨hstop, hinn, hout, hstep⟩ := startSwitch_begins (s.slotTaken e) x.slice (some (x.target % 8)) false
  refine ⟨_, hexec, fun hbusy => ?_, fun hbusy => ?_⟩
  · rw [if_pos hbusy]
    refine ⟨(putTab_entry _ _ _).trans ?_, rfl⟩
    show x.took.skip 1 = _
    rw [TabEntry.skip, hskips]
  · rw [if_neg (by simp only [sw] at hbusy; rw [hbusy]; decide)]
    refine ⟨?_, hstop, hinn, fun hidle => hout ?_, fun c hc hhlt => (hstep c hc).trans (if_neg ?_)⟩
    · rw [(startSwitch_still _ _ _ _).2]
      exact putTab_entry _ _ _
    · rw [show ((s.slotTaken e).slice x.slice).sw.step = .idle from hidle]
      decide
    · rw [show ((s.slotTaken e).ctx (cxOf x.slice c)).dbg.hlt = false from hhlt]
      decide

end Sys2Proof.Machine
end

section
/-!
Tile headers that the arbiter changes (07:R184 to R186).
-/

namespace Sys2Proof.Machine

variable {s t : State} {cx i : Nat}

/-! ## A write in another sector -/

theorem get_wrByte_other_sector (hm : s.MemOk) (key loc n : Nat) (b : Byte) (h : n / 256 ≠ s.links.home loc / 256) :
    Memory.get (s.wrByte key loc b).mem n = Memory.get s.mem n := by
  have hn : n ≠ s.links.home loc := fun e => h (e ▸ rfl)
  cases hloc : encrypted loc with
  | false =>
    simp only [State.wrByte, hloc, Bool.false_eq_true, if_false]
    exact get_set_other _ _ _ _ hn none hm
  | true =>
    have hhome : s.links.home loc = loc := home_of_encrypted _ hloc
    have hset : (s.wrByte key loc b).mem = Memory.set (s.rekey key (loc / 256)).mem (s.links.home loc) b := by
      simp only [State.wrByte, hloc, if_true, rekey_links]
    rw [hset, get_set_other _ _ _ _ hn none (wf_rekey s _ _ hm), get_rekey hm, if_neg (fun e => h (by rw [hhome]; exact e.1))]

/-- A byte kept in another sector than a write's reads as before, under every key. -/
theorem rdByte_wrByte_other_sector (hm : s.MemOk) (key key' loc a : Nat) (b : Byte) (h : s.links.home a / 256 ≠ s.links.home loc / 256) :
    (s.wrByte key' loc b).rdByte key a = s.rdByte key a := by
  have hget := fun n => get_wrByte_other_sector hm key' loc n b
  cases ha : encrypted a with
  | false => rw [rdByte_raw (.inl ha), rdByte_raw (.inl ha), wrByte_links, hget _ h]
  | true =>
    have hhome : s.links.home a = a := home_of_encrypted _ ha
    have hsec : a / 256 ≠ loc / 256 := fun e => h (by
      rw [hhome, home_of_encrypted s.links ((encrypted_congr_sector e).symm.trans ha), e])
    have hkey : tget 0 (s.wrByte key' loc b).keyOf (a / 256) = tget 0 s.keyOf (a / 256) :=
      (keyOf_wrByte s key' loc (a / 256) b).resolve_right fun e => hsec e.1
    by_cases hraw : encrypted a = false ∨ tget 0 s.keyOf (a / 256) = 0 ∨ tget 0 s.keyOf (a / 256) = key
    · rw [rdByte_raw hraw, rdByte_raw (by rwa [hkey]), wrByte_links, hget _ h]
    · exact rdByte_congr_garbled hraw hkey fun n hn => hget n (by rwa [hn, ← hhome])

/-! ## The eight bytes of a header's words -/

/-- The bytes of an aligned eight are kept apart. -/
theorem home_inj_of_aligned (l : Links) {a j k : Nat} (ha : a % 8 = 0) (hj : j < 8) (hk : k < 8) (h : l.home (a + j) = l.home (a + k)) : j = k := by
  have hap : (2 ^ 47 + 2 ^ 46 ≤ a + j ∧ a + j < 2 ^ 48) ↔ (2 ^ 47 + 2 ^ 46 ≤ a + k ∧ a + k < 2 ^ 48) := by omega
  have hno : nbits (a + j) 36 10 = nbits (a + k) 36 10 := by
    unfold nbits
    omega
  unfold Links.home at h
  rw [hno] at h
  by_cases hin : 2 ^ 47 + 2 ^ 46 ≤ a + k ∧ a + k < 2 ^ 48
  · rw [if_pos (hap.mpr hin), if_pos hin] at h
    unfold peerLoc at h
    dsimp only at h
    omega
  · rw [if_neg (mt hap.mp hin), if_neg hin] at h
    omega

theorem nodup_homes_of_aligned (l : Links) {a : Nat} (ha : a % 8 = 0) {bs : List Byte} (hbs : bs.length = 8) :
    (((List.range bs.length).map (fun k => (a + k, bs.getD k 0#8))).map (fun e => l.home e.1)).Nodup := by
  rw [List.map_map, hbs]
  exact List.Nodup.map_on (fun j hj k hk h => home_inj_of_aligned l ha (List.mem_range.mp hj) (List.mem_range.mp hk) h) List.nodup_range

/-- Bytes at locations that are kept apart read back under the key that they were written under. -/
theorem rdByte_wrBytes_of_nodup (hm : s.MemOk) (key loc : Nat) {bs : List Byte}
    (hnd : (((List.range bs.length).map (fun k => (loc + k, bs.getD k 0#8))).map (fun e => s.links.home e.1)).Nodup) {k : Nat} (hk : k < bs.length) :
    (s.wrBytes key loc bs).rdByte key (loc + k) = bs.getD k 0#8 := by
  rw [← zip_range_eq_map] at hnd
  have hmem : (loc + k, bs.getD k 0#8) ∈ ((List.range bs.length).zip bs).map (fun e => (loc + e.1, e.2)) := by
    rw [zip_range_eq_map]
    exact List.mem_map.mpr ⟨k, List.mem_range.mpr hk, rfl⟩
  exact rdByte_putAll key _ (s.remember key _) hm hnd _ hmem

/-- Setting the dirty bit of a page leaves what is kept in other sectors than the leaf's. -/
theorem rdByte_dirtyVa (hm : s.MemOk) (va key a : Nat) (h : s.leafSector cx va ≠ some (s.links.home a / 256)) :
    (s.dirtyVa cx va).rdByte key a = s.rdByte key a := by
  unfold State.leafSector at h
  unfold State.dirtyVa
  split
  case h_1 e he =>
    rw [he] at h
    dsimp only at h
    unfold State.setD
    split
    case h_1 pa l2 ea hw =>
      rw [hw] at h
      split
      · have hlog := dirtyLog_quiet s cx ((e.ipage * 65536 + va % 65536) / 65536)
        rw [rdByte_wrByte_other_sector (hm.dirtyLog), hlog.rdByte]
        rw [hlog.links]
        exact fun e => h (congrArg some e.symm)
      · rfl
    case h_2 => rfl
  case h_2 => rfl

/-! ## The words of a tile -/

theorem leNat_leBytes (n v : Nat) : leNat (leBytes n v) = v % 256 ^ n := by
  induction n generalizing v with
  | zero => simp [leBytes, leNat, Nat.mod_one]
  | succ n ih =>
    rw [leBytes, leNat, ih, Nat.pow_succ, Nat.mul_comm (256 ^ n), Nat.mod_mul, BitVec.toNat_ofNat]

theorem TileSt.bytes_length (x : TileSt) : x.bytes.length = 8 := by
  simp [TileSt.bytes, leBytes_length]

/-- Bytes that stand one after the other are read as their number. -/
theorem rdNat_of_bytes {key a n : Nat} {bs : List Byte} (hlen : bs.length = n) (h : ∀ k, k < n → s.rdByte key (a + k) = bs.getD k 0#8) :
    s.rdNat key a n = leNat bs := by
  have hbs : s.rdBytes key a n = bs := by
    refine List.ext_getElem (by rw [rdBytes_length, hlen]) fun k hk hk' => ?_
    have hkn : k < n := hlen ▸ hk'
    rw [← List.getD_eq_getElem _ 0#8 hk, ← List.getD_eq_getElem _ 0#8 hk', rdBytes_getD _ _ _ hkn, h k hkn]
  rw [State.rdNat, hbs]

/-- Two numbers that stand one after the other. -/
theorem rdNat_of_append {key a m n : Nat} {u v : List Byte} (hu : u.length = m) (hv : v.length = n)
    (h : ∀ k, k < m + n → s.rdByte key (a + k) = (u ++ v).getD k 0#8) : s.rdNat key a m = leNat u ∧ s.rdNat key (a + m) n = leNat v := by
  refine ⟨rdNat_of_bytes hu fun k hk => ?_, rdNat_of_bytes hv fun k hk => ?_⟩
  · rw [h k (by omega), List.getD_append _ _ _ _ (by omega)]
  · rw [Nat.add_assoc, h (m + k) (by omega), List.getD_append_right _ _ _ _ (by omega), hu, Nat.add_sub_cancel_left]

/-- The `state` word of a tile gives its fields back. -/
theorem fields_of_word {x : TileSt} (hrd : x.rd < 256) : let v := x.word % 256 ^ 4
    (nbits v 0 1 == 1) = x.full ∧ (nbits v 1 1 == 1) = x.wclaim ∧ (nbits v 2 1 == 1) = x.cclaim ∧ nbits v 8 8 = x.rd := by
  have hone : ∀ {n : Nat} {b : Bool}, n = (if b then 1 else 0) → (n == 1) = b := fun {n b} h => by
    rw [h]
    cases b <;> rfl
  unfold nbits TileSt.word
  dsimp only
  refine ⟨hone ?_, hone ?_, hone ?_, ?_⟩ <;> split_ifs <;> omega

/-- A header that shows the bytes of a tile's state is read as that state. -/
theorem tile_of_bytes {x : TileSt} (hrd : x.rd < 256) (hseq : x.seq < 2 ^ 32)
    (h : ∀ k, k < 8 → s.rdByte (s.keyNo cx) (s.tileAt cx i + k) = x.bytes.getD k 0#8) : s.tile cx i = x := by
  obtain ⟨hstate, hno⟩ := rdNat_of_append (leBytes_length 4 x.word) (leBytes_length 4 (x.seq % 2 ^ 32)) h
  obtain ⟨hfull, hwclaim, hcclaim, hread⟩ := fields_of_word hrd
  have hseq' : x.seq % 2 ^ 32 % 256 ^ 4 = x.seq := by omega
  rw [leNat_leBytes] at hstate hno
  unfold State.tile
  dsimp only
  rw [show (s.ctx cx).tilePa + 64 * i = s.tileAt cx i from rfl, hstate, hno, hfull, hwclaim, hcclaim, hread, hseq']

theorem tile_congr (h : Quiet s t) (cx i : Nat) : t.tile cx i = s.tile cx i := by
  have hrd : t.rdNat = s.rdNat := by
    funext key a n
    unfold State.rdNat State.rdBytes
    simp only [h.rdByte]
  unfold State.tile
  rw [hrd, h.tilePa, h.keyNo]

theorem rdByte_tileWritten (hm : s.MemOk) (x : TileSt) (ha : s.TileApart cx i) {k : Nat} (hk : k < 8) :
    (s.tileWritten cx i x).rdByte (s.keyNo cx) (s.tileAt cx i + k) = x.bytes.getD k 0#8 := by
  obtain ⟨halign, hapart⟩ := ha
  have hlen := x.bytes_length
  have hleaf := hapart x.bytes k hlen hk
  have hw := wrBytes_keeps s (s.keyNo cx) (s.tileAt cx i) x.bytes
  have hctx : ((s.wrBytes (s.keyNo cx) (s.tileAt cx i) x.bytes).ctx cx).tilb = (s.ctx cx).tilb := (congrArg Ctx.tilb (hw.ctx cx) :)
  unfold State.tileLeaf at hleaf
  unfold State.tileWritten
  dsimp only
  rw [hctx, rdByte_dirtyVa (.wrBytes hm) _ _ _ (by rwa [hw.links])]
  exact rdByte_wrBytes_of_nodup hm _ _ (nodup_homes_of_aligned _ halign hlen) (by omega)

/-- A tile that is apart from its leaf reads as it was set. -/
theorem tile_setTile (hm : s.MemOk) (ht : ∀ k, (s.gang k).task = none) (ha : s.TileApart cx i) {x : TileSt} (hrd : x.rd < 256)
    (hseq : x.seq < 2 ^ 32) : (s.setTile cx i x).tile cx i = x := by
  have hw := tileWritten_keeps s cx i x
  have hat : (s.tileWritten cx i x).tileAt cx i = s.tileAt cx i := congrArg (· + 64 * i) (hw.tilePa cx)
  rw [tile_congr (setTile_quiet cx i x ht)]
  refine tile_of_bytes hrd hseq fun k hk => ?_
  rw [hw.keyNo, hat]
  exact rdByte_tileWritten hm x ha hk

end Sys2Proof.Machine
end

section
/-!
Translation and tiles in states that agree on memory, its keys and the contexts (04:R108, 07:R184).
-/

namespace Sys2Proof.Machine

variable {s t : State}

/-- Two states agree on what translation reads: memory, its keys, links and contexts. -/
structure Agree (s t : State) : Prop where
  mem : t.mem = s.mem
  keyOf : t.keyOf = s.keyOf
  links : t.links = s.links
  ochre : t.ochre = s.ochre
  ctxs : t.ctxs = s.ctxs

theorem Agree.ctx (h : Agree s t) (cx : Nat) : t.ctx cx = s.ctx cx := by
  unfold State.ctx
  rw [h.ctxs]

theorem Agree.keyNo (h : Agree s t) (cx : Nat) : t.keyNo cx = s.keyNo cx := by
  unfold State.keyNo
  rw [h.ctx]

theorem Agree.rdByte (h : Agree s t) (key loc : Nat) : t.rdByte key loc = s.rdByte key loc := by
  unfold State.rdByte
  rw [h.mem, h.keyOf, h.links]

theorem Agree.rdBytes (h : Agree s t) (key loc n : Nat) : t.rdBytes key loc n = s.rdBytes key loc n := by
  unfold State.rdBytes
  simp only [h.rdByte]

theorem Agree.rdNat (h : Agree s t) (key loc n : Nat) : t.rdNat key loc n = s.rdNat key loc n := by
  unfold State.rdNat
  rw [h.rdBytes]

theorem Agree.s2Go (h : Agree s t) (ipa tab : Nat) (lvls : List Nat) : t.s2Go ipa tab lvls = s.s2Go ipa tab lvls := by
  induction lvls generalizing tab with
  | nil => rfl
  | cons lvl lvls ih =>
    unfold State.s2Go
    simp only [h.ochre, h.rdNat, ih]

theorem Agree.s2Walk (h : Agree s t) (cx ipa : Nat) : t.s2Walk cx ipa = s.s2Walk cx ipa := by
  unfold State.s2Walk
  rw [h.s2Go, h.ctx]

theorem Agree.s1Go (h : Agree s t) (cx va tab : Nat) (lvls : List Nat) : t.s1Go cx va tab lvls = s.s1Go cx va tab lvls := by
  induction lvls generalizing tab with
  | nil => rfl
  | cons lvl lvls ih =>
    unfold State.s1Go
    simp only [h.s2Walk, h.keyNo, h.rdNat, ih]

theorem Agree.walk (h : Agree s t) (cx va : Nat) : t.walk cx va = s.walk cx va := by
  unfold State.walk
  rw [h.s1Go, h.ctx]

theorem Agree.leafSector (h : Agree s t) (cx va : Nat) : t.leafSector cx va = s.leafSector cx va := by
  unfold State.leafSector
  rw [h.walk]
  simp only [h.s2Walk, h.links]

theorem Agree.rekey (h : Agree s t) (key sec : Nat) : Agree (s.rekey key sec) (t.rekey key sec) := by
  have hbs := h.rdBytes key (sec * 256) 256
  unfold State.rekey
  rw [hbs, h.keyOf]
  generalize s.rdBytes key (sec * 256) 256 = bs
  dsimp only
  split
  · exact h
  split
  · exact ⟨h.mem, rfl, h.links, h.ochre, h.ctxs⟩
  · exact ⟨by rw [h.mem], rfl, h.links, h.ochre, h.ctxs⟩

theorem Agree.wrByte (h : Agree s t) (key loc : Nat) (b : Byte) : Agree (s.wrByte key loc b) (t.wrByte key loc b) := by
  have hset : ∀ {u v : State}, Agree u v → Agree { u with mem := Memory.set u.mem (u.links.home loc) b }
      { v with mem := Memory.set v.mem (v.links.home loc) b } := fun h => ⟨by rw [h.mem, h.links], h.keyOf, h.links, h.ochre, h.ctxs⟩
  unfold State.wrByte
  dsimp only
  split
  · exact hset (h.rekey key (loc / 256))
  · exact hset h

theorem Agree.putAll (h : Agree s t) (key : Nat) (ws : List (Nat × Byte)) : Agree (s.putAll key ws) (t.putAll key ws) := by
  induction ws generalizing s t with
  | nil => exact h
  | cons w ws ih => exact ih (h.wrByte key w.1 w.2)

theorem Agree.wrBytes (h : Agree s t) (key loc : Nat) (bs : List Byte) : Agree (s.wrBytes key loc bs) (t.wrBytes key loc bs) :=
  Agree.putAll (s := s.remember key _) (t := t.remember key _) ⟨h.mem, h.keyOf, h.links, h.ochre, h.ctxs⟩ key _

theorem Agree.tile (h : Agree s t) (cx i : Nat) : t.tile cx i = s.tile cx i := by
  unfold State.tile
  simp only [h.rdNat, h.keyNo, h.ctx]

theorem Agree.tileApart (h : Agree s t) {cx i : Nat} (ha : s.TileApart cx i) : t.TileApart cx i := by
  have hat : t.tileAt cx i = s.tileAt cx i := by
    unfold State.tileAt
    rw [h.ctx]
  obtain ⟨halign, hapart⟩ := ha
  refine ⟨hat ▸ halign, fun bs k hbs hk => ?_⟩
  have := hapart bs k hbs hk
  unfold State.tileLeaf at this ⊢
  rw [(h.wrBytes _ _ bs).leafSector, h.links, hat, h.keyNo, h.ctx]
  exact this

theorem arbTake_agree (s : State) : Agree s s.arbTake := ⟨rfl, rfl, rfl, rfl, rfl⟩

end Sys2Proof.Machine
end

section
/-!
The head that is dispatched, and the launch that it becomes (07:R63, R185, R196, R197).
-/

namespace Sys2Proof.Machine

variable {s t : State} {sl : Nat}

/-! ## The head of the highest priority (07:R196, R197) -/

theorem minBy_ne_none {α : Type} (key : α → Nat) (x : α) (l : List α) : minBy key (x :: l) ≠ none := by
  rw [minBy]
  split
  · nofun
  · split <;> nofun

theorem minBy_le {α : Type} {key : α → Nat} {l : List α} {x : α} (h : minBy key l = some x) : ∀ y ∈ l, key x ≤ key y := by
  induction l generalizing x with
  | nil => cases h
  | cons z l ih =>
    rw [minBy] at h
    cases hm : minBy key l with
    | none =>
      have hnil : l = [] := by
        cases l with
        | nil => rfl
        | cons w l => exact absurd hm (minBy_ne_none key w l)
      rw [hm] at h
      cases h
      simp [hnil]
    | some w =>
      rw [hm] at h
      dsimp only at h
      intro y hy
      rcases List.mem_cons.mp hy with rfl | hy
      · split at h <;> cases h <;> omega
      · have := ih hm y hy
        split at h <;> cases h <;> omega

/-- What has the least key of a list, alone, is picked. -/
theorem minBy_of_lt {α : Type} {key : α → Nat} {l : List α} {x : α} (hx : x ∈ l) (h : ∀ y ∈ l, y ≠ x → key x < key y) : minBy key l = some x := by
  cases hm : minBy key l with
  | none =>
    obtain ⟨z, l', rfl⟩ := List.exists_cons_of_ne_nil (List.ne_nil_of_mem hx)
    exact absurd hm (minBy_ne_none key z l')
  | some y =>
    by_contra hne
    have hlt := h y (minBy_mem hm) fun e => hne (e ▸ rfl)
    exact absurd (minBy_le hm x hx) (Nat.not_le.mpr hlt)

/-- The greatest value of a list, which one of its members has. -/
theorem foldl_max_eq {α : Type} {f : α → Nat} {l : List α} {x : α} (hx : x ∈ l) (h : ∀ y ∈ l, f y ≤ f x) : l.foldl (fun m y => max m (f y)) 0 = f x := by
  have hle : ∀ (l : List α) (a : Nat), a ≤ f x → (∀ y ∈ l, f y ≤ f x) → l.foldl (fun m y => max m (f y)) a ≤ f x := by
    intro l
    induction l with
    | nil => exact fun a ha _ => ha
    | cons z l ih => exact fun a ha hl => ih _ (max_le ha (hl z List.mem_cons_self)) fun y hy => hl y (List.mem_cons_of_mem _ hy)
  have hge : ∀ (l : List α) (a : Nat), a ≤ l.foldl (fun m y => max m (f y)) a := by
    intro l
    induction l with
    | nil => exact fun a => le_rfl
    | cons z l ih => exact fun a => (le_max_left a (f z)).trans (ih _)
  have hmem : ∀ (l : List α) (a : Nat), x ∈ l → f x ≤ l.foldl (fun m y => max m (f y)) a := by
    intro l
    induction l with
    | nil => exact fun a hx => absurd hx List.not_mem_nil
    | cons z l ih =>
      intro a hx
      rcases List.mem_cons.mp hx with rfl | hx
      · exact (le_max_right a (f x)).trans (hge l _)
      · exact ih _ hx
  exact le_antisymm (hle l 0 (Nat.zero_le _) h) (hmem l 0 hx)

theorem pickHead_best {h : HeadRec} (hsound : ∀ k ∈ s.frontHeads sl, k.broken = 0) (hh : h ∈ s.frontHeads sl) (hel : h.since.isSome = true)
    (hbest : ∀ k ∈ s.frontHeads sl, k.since.isSome = true → k ≠ h → s.effPrio sl k < s.effPrio sl h ∨ s.effPrio sl k = s.effPrio sl h ∧
      roundPlace (tget (devSrc + 4096) (s.slice sl).lastServed (s.effPrio sl h)) h.src <
        roundPlace (tget (devSrc + 4096) (s.slice sl).lastServed (s.effPrio sl h)) k.src) : s.pickHead sl = some h := by
  have hcand : ∀ k, k ∈ (s.frontHeads sl).filter (fun h => h.broken == 0 && h.since.isSome) ↔ k ∈ s.frontHeads sl ∧ k.since.isSome = true := fun k => by
    rw [List.mem_filter]
    refine and_congr_right fun hk => ?_
    rw [hsound k hk, beq_self_eq_true, Bool.true_and]
  have htop : ((s.frontHeads sl).filter (fun h => h.broken == 0 && h.since.isSome)).foldl (fun m h => max m (s.effPrio sl h)) 0 = s.effPrio sl h :=
    foldl_max_eq ((hcand h).mpr ⟨hh, hel⟩) fun k hk => by
      obtain ⟨hkf, hke⟩ := (hcand k).mp hk
      by_cases hkh : k = h
      · rw [hkh]
      · have := hbest k hkf hke hkh
        omega
  unfold State.pickHead
  dsimp only
  rw [htop]
  refine minBy_of_lt (List.mem_filter.mpr ⟨(hcand h).mpr ⟨hh, hel⟩, by simp⟩) fun k hk hkh => ?_
  obtain ⟨hkc, hkp⟩ := List.mem_filter.mp hk
  obtain ⟨hkf, hke⟩ := (hcand k).mp hkc
  have heq : s.effPrio sl k = s.effPrio sl h := by simpa using hkp
  rcases hbest k hkf hke hkh with hlt | ⟨-, hlt⟩
  · omega
  · exact hlt

/-! ## The launch number (07:R63) -/

/-- The launch number tried at a place of the round from a first one. -/
def tried (n j : Nat) : Nat := if j = 0 then n else (n + j) % 65536

theorem tried_inj {n j k : Nat} (hj : j < 65536) (hk : k < 65536) (h : tried n j = tried n k) : j = k := by
  unfold tried at h
  split_ifs at h <;> omega

/-- A number is held only when every number tried before it is. -/
theorem tried_held {held : List Nat} {k n : Nat} (h : freeLaunch held k n ∈ held) : ∀ j, j < k → tried n j ∈ held := by
  induction k generalizing n with
  | zero => exact fun j hj => absurd hj (Nat.not_lt_zero j)
  | succ k ih =>
    rw [freeLaunch] at h
    split at h
    case isTrue hn =>
      intro j hj
      cases j with
      | zero => simpa [tried] using hn
      | succ j =>
        have hstep : tried ((n + 1) % 65536) j = tried n (j + 1) := by
          cases j with
          | zero => rfl
          | succ j =>
            show ((n + 1) % 65536 + (j + 1)) % 65536 = (n + (j + 1 + 1)) % 65536
            omega
        exact hstep ▸ ih h j (by omega)
    case isFalse hn => exact absurd h (by simpa using hn)

/-- With fewer than 65,536 launches a free number is found. -/
theorem freeLaunch_free {held : List Nat} (hlen : held.length < 65536) (n : Nat) : freeLaunch held 65536 n ∉ held := by
  intro h
  have hsub : (List.range 65536).map (tried n) ⊆ held := fun m hm => by
    obtain ⟨j, hj, rfl⟩ := List.mem_map.mp hm
    exact tried_held h j (List.mem_range.mp hj)
  have hnd : ((List.range 65536).map (tried n)).Nodup :=
    List.Nodup.map_on (fun j hj k hk e => tried_inj (List.mem_range.mp hj) (List.mem_range.mp hk) e) List.nodup_range
  have hle := (hnd.subperm hsub).length_le
  rw [List.length_map, List.length_range] at hle
  omega

/-! ## Claims (07:R185) -/

theorem Kept.foldl {α : Type} {f : State → α → State} (hf : ∀ t x, (∀ k, (t.gang k).task = none) → Kept t (f t x)) (xs : List α) {s : State}
    (ht : ∀ k, (s.gang k).task = none) : Kept s (xs.foldl f s) := by
  induction xs generalizing s with
  | nil => exact .refl s
  | cons x xs ih =>
    have h := hf s x ht
    exact h.trans (ih (h.tasks ht))

theorem claimTiles_keeps (cx : Nat) (d : Desc) (ht : ∀ k, (s.gang k).task = none) : Kept s (s.claimTiles cx d) := by
  have hin : Kept s _ := Kept.foldl (f := fun t i => t.setTile cx (d.tin.getD i 0)
    { t.tile cx (d.tin.getD i 0) with
      rd := (t.tile cx (d.tin.getD i 0)).rd + 1
      cclaim := (t.tile cx (d.tin.getD i 0)).cclaim || nbits d.consume i 1 == 1 })
    (fun _ _ h => setTile_keeps cx _ _ h) (List.range d.tin.length) ht
  exact hin.trans (Kept.foldl (fun _ _ h => setTile_keeps cx _ _ h) d.tout (hin.tasks ht))

theorem leNat_lt (bs : List Byte) : leNat bs < 256 ^ bs.length := by
  induction bs with
  | nil => decide
  | cons b bs ih =>
    have hb : b.toNat < 256 := b.isLt
    rw [leNat, List.length_cons, Nat.pow_succ]
    omega

theorem tile_seq_lt (s : State) (cx i : Nat) : (s.tile cx i).seq < 2 ^ 32 := by
  have h := leNat_lt (s.rdBytes (s.keyNo cx) ((s.ctx cx).tilePa + 64 * i + 4) 4)
  rw [rdBytes_length] at h
  exact h

theorem tile_rd_lt (s : State) (cx i : Nat) : (s.tile cx i).rd < 256 := Nat.mod_lt _ (by decide)

/-- A launch that reads one tile adds a reader, and may claim it for consumption. -/
theorem tile_claimTiles_input {cx i : Nat} {d : Desc} (hm : s.MemOk) (ht : ∀ k, (s.gang k).task = none) (ha : s.TileApart cx i)
    (hin : d.tin = [i]) (hout : d.tout = []) (hrd : (s.tile cx i).rd < 255) : (s.claimTiles cx d).tile cx i =
      { s.tile cx i with rd := (s.tile cx i).rd + 1, cclaim := (s.tile cx i).cclaim || nbits d.consume 0 1 == 1 } := by
  have hone : s.claimTiles cx d = s.setTile cx i
      { s.tile cx i with rd := (s.tile cx i).rd + 1, cclaim := (s.tile cx i).cclaim || nbits d.consume 0 1 == 1 } := by
    simp [State.claimTiles, hin, hout]
  rw [hone]
  exact tile_setTile hm ht ha (by dsimp only; omega) (tile_seq_lt s cx i)

/-- A launch that writes one tile claims it. -/
theorem tile_claimTiles_output {cx i : Nat} {d : Desc} (hm : s.MemOk) (ht : ∀ k, (s.gang k).task = none) (ha : s.TileApart cx i)
    (hin : d.tin = []) (hout : d.tout = [i]) : (s.claimTiles cx d).tile cx i = { s.tile cx i with wclaim := true } := by
  have hone : s.claimTiles cx d = s.setTile cx i { s.tile cx i with wclaim := true } := by
    simp [State.claimTiles, hin, hout]
  rw [hone]
  exact tile_setTile hm ht ha (tile_rd_lt s cx i) (tile_seq_lt s cx i)

/-! ## The dispatch (07:R185, R196) -/

/-- The launch that a dispatched head becomes. -/
def State.dispatched (s : State) (sl : Nat) (h : HeadRec) : Launch :=
  { num := freeLaunch ((s.slice sl).launches.map (fun l => l.num)) 65536 (s.slice sl).nextLaunch
    ctx := s.runCx sl % 8, desc := h.desc, tag := h.tag, tabEnt := h.tabEnt, injected := 0, lastClus := 0, unack := [], entered := []
    prio := s.effPrio sl h, set := (s.launchSet (s.runCx sl) h.desc).1, live := (s.launchSet (s.runCx sl) h.desc).2 }

/-- The slice once a head has been dispatched, its record still in its queue. -/
def State.dispatch (s : State) (sl : Nat) (h : HeadRec) : State :=
  let c := s.claimTiles (s.runCx sl) h.desc
  c.modSlice sl (fun x => { x with
    nextLaunch := ((s.dispatched sl h).num + 1) % 65536, selBy := c.now + 1
    lastServed := tput x.lastServed (s.effPrio sl h) h.src
    launches := x.launches ++ [s.dispatched sl h] })

theorem execSelection_dispatches {h : HeadRec} (hsel : s.selects sl = true) (hsound : ∀ k ∈ s.frontHeads sl, k.broken = 0)
    (hlen : (s.slice sl).launches.length < 65536) (hby : (s.slice sl).selBy ≤ s.now) (hpick : s.pickHead sl = some h) (hfree : s.arbFree = true) :
    exec (.selection sl) s = .next ((s.arbTake.dispatch sl h).popHead sl h.src) := by
  have hgo : ¬ (!s.selects sl || (s.frontHeads sl).any (fun h => h.broken != 0) || decide (65536 ≤ (s.slice sl).launches.length)
      || decide (s.now < (s.slice sl).selBy)) = true := by
    have hany : (s.frontHeads sl).any (fun h => h.broken != 0) = false := List.any_eq_false.mpr fun k hk => by simp [hsound k hk]
    simp [hsel, hany, hlen, hby]
  show execSelection sl s = _
  unfold execSelection
  rw [if_neg hgo, hpick]
  dsimp only
  rw [State.atArbiter, if_pos hfree]
  rfl

theorem dispatch_launches (h : HeadRec) (ht : ∀ k, (s.gang k).task = none) :
    ((s.dispatch sl h).slice sl).launches = (s.slice sl).launches ++ [s.dispatched sl h] := by
  have hc := (claimTiles_keeps (s.runCx sl) h.desc ht).launches sl
  rw [State.dispatch]
  rw [modSlice_slice_same]
  exact congrArg (· ++ _) hc

theorem dispatch_runCx (h : HeadRec) (ht : ∀ k, (s.gang k).task = none) : (s.dispatch sl h).runCx sl = s.runCx sl := by
  rw [State.runCx, State.dispatch, modSlice_slice_same]
  exact (claimTiles_keeps (s.runCx sl) h.desc ht).runCx sl

theorem dispatch_submits (h : HeadRec) (ht : ∀ k, (s.gang k).task = none) (cx : Nat) : ((s.dispatch sl h).ctx cx).submits = (s.ctx cx).submits :=
  (claimTiles_keeps (s.runCx sl) h.desc ht).submits cx

theorem dispatch_tile (h : HeadRec) (cx i : Nat) : (s.dispatch sl h).tile cx i = (s.claimTiles (s.runCx sl) h.desc).tile cx i := rfl

theorem theBestHeadIsDispatched : Says.TheBestHeadIsDispatched := by
  intro s sl h x cx place hm hnt hfree hby hsel hlen hsound hh hel hsub hbest
  have ht : ∀ k, (s.arbTake.gang k).task = none := gang_task_of_noTasks hnt
  have hagree := arbTake_agree s
  have hexec := execSelection_dispatches hsel hsound hlen hby (pickHead_best hsound hh hel hbest) hfree
  have hpop : Quiet (s.arbTake.dispatch sl h) _ := popHead_quiet (sl := sl) h.src (by rw [dispatch_runCx h ht, dispatch_submits h ht]; exact hsub)
  have htile : ∀ i, ((s.arbTake.dispatch sl h).popHead sl h.src).tile cx i = (s.arbTake.claimTiles cx h.desc).tile cx i := fun i =>
    (tile_congr hpop cx i).trans (dispatch_tile h cx i)
  refine ⟨_, s.arbTake.dispatched sl h, hexec, ?_, fun m hmem hnum => ?_, rfl, rfl, rfl, rfl, fun i hin hout ha hrd => ?_, fun i hin hout ha => ?_⟩
  · rw [hpop.launches, dispatch_launches h ht]
    rfl
  · exact freeLaunch_free (by rwa [List.length_map]) _ (List.mem_map.mpr ⟨m, hmem, hnum⟩)
  · rw [htile, tile_claimTiles_input (s := s.arbTake) hm ht (hagree.tileApart ha) hin hout (by rwa [hagree.tile]), hagree.tile]
  · rw [htile, tile_claimTiles_output (s := s.arbTake) hm ht (hagree.tileApart ha) hin hout, hagree.tile]

end Sys2Proof.Machine
end

section
/-!
Completion records (07:R201, 18:R396).
-/

namespace Sys2Proof.Machine

variable {s t : State} {sl a : Nat} {p : Place}

/-! ## Where a record's half lies (10:R262) -/

/-- A half of a record is aligned, lies beyond the quad, and unless in host memory outside the apertures. -/
structure HalfAt (p : Place) : Prop where
  aligned : p.loc % 8 = 0
  space : p.space = .shr ∨ p.space = .glob ∨ p.space = .ms ∨ p.space = .host
  own : p.space ≠ .host → p.loc < 2 ^ 47 ∨ 2 ^ 48 ≤ p.loc

/-- A check that passes has passed its first row. -/
theorem ok_of_ite_bad {c : Prop} [Decidable c] {row cause : Nat} {y : Chk} (h : (if c then Chk.bad row cause else y) = .ok p) : ¬ c ∧ y = .ok p := by
  by_cases hc : c
  · rw [if_pos hc] at h
    cases h
  · rw [if_neg hc] at h
    exact ⟨hc, h⟩

theorem checkIn_shr {ck : Nat} (hr : rangeOf a = 3) (h : s.checkIn ck a 8 true .plain 0 AccKind.plain.reaches = .ok p) : HalfAt p := by
  unfold State.checkIn at h
  dsimp only at h
  rw [hr] at h
  obtain ⟨-, h⟩ := ok_of_ite_bad h
  obtain ⟨hal, h⟩ := ok_of_ite_bad h
  have ha : a % 8 = 0 := by simpa using hal
  rw [if_neg (show ¬ ((3 : Nat) = 0 ∨ (3 : Nat) = 2) by decide), if_neg (show ¬ (3 : Nat) = 1 by decide), if_neg (show ¬ 10 ≤ (3 : Nat) by decide),
    if_pos rfl] at h
  obtain ⟨-, h⟩ := ok_of_ite_bad h
  split at h
  · cases h
  rw [if_pos (show AccKind.plain.reaches .shr = true from rfl)] at h
  cases h
  exact ⟨by unfold shrLoc; dsimp only; omega, .inl rfl, fun _ => .inr (Nat.le_add_right _ _)⟩

theorem checkIn_glob {ck : Nat} (hr : rangeOf a = 4) (h : s.checkIn ck a 8 true .plain 0 AccKind.plain.reaches = .ok p) : HalfAt p := by
  unfold State.checkIn at h
  dsimp only at h
  rw [hr] at h
  obtain ⟨-, h⟩ := ok_of_ite_bad h
  obtain ⟨hal, h⟩ := ok_of_ite_bad h
  have ha : a % 8 = 0 := by simpa using hal
  rw [if_neg (show ¬ ((4 : Nat) = 0 ∨ (4 : Nat) = 2) by decide), if_neg (show ¬ (4 : Nat) = 1 by decide), if_neg (show ¬ 10 ≤ (4 : Nat) by decide),
    if_neg (show ¬ (4 : Nat) = 3 by decide)] at h
  obtain ⟨-, h⟩ := ok_of_ite_bad h
  split at h
  case h_1 => cases h
  case h_2 => split at h <;> cases h
  case h_3 e _ =>
    obtain ⟨-, h⟩ := ok_of_ite_bad h
    obtain ⟨-, h⟩ := ok_of_ite_bad h
    split at h
    · cases h
    · cases h
      refine ⟨by dsimp only; omega, ?_, fun hs => .inl ?_⟩
      · dsimp only
        split_ifs <;> simp
      · by_contra hn
        exact hs (if_pos (by dsimp only at hn; omega))

theorem doneCheck_half (h : s.doneCheck sl a = .ok p) : HalfAt p := by
  unfold State.doneCheck at h
  split at h
  case isTrue hr => exact hr.elim (checkIn_shr · h) (checkIn_glob · h)
  case isFalse => cases h

theorem HalfAt.home (h : HalfAt p) (hs : p.space ≠ .host) (l : Links) {k : Nat} (hk : k < 8) : l.home (p.loc + k) = p.loc + k := by
  have hown := h.own hs
  have hal := h.aligned
  exact if_neg (by omega)

/-! ## A translation that changes no memory (04:R111, R112) -/

theorem translate_ok {qk cx va : Nat} {wr : Bool} {e : TlbEnt} (h : s.translate qk cx va wr = .ok e) : e.ctx = cx ∧ e.vpage = va / 65536 := by
  have hwalk : ∀ {f}, s.walk cx va = .ok f → f.ctx = cx ∧ f.vpage = va / 65536 := fun hw => by
    obtain ⟨hc, hv, -⟩ := walk_ok hw
    exact ⟨hc, hv⟩
  unfold State.translate at h
  split at h
  case h_1 f hf =>
    split at h
    · exact hwalk h
    · cases h
      unfold State.tlbHit at hf
      dsimp only at hf
      split at hf
      case h_1 g hg =>
        cases hf
        simpa using List.find?_some hg
      case h_2 => simpa using List.find?_some hf
  case h_2 => exact hwalk h

/-- A write to a page that is dirty fills the TLBs and nothing else. -/
structure Noted (s u : State) (qk cx va : Nat) : Prop where
  agree : Agree s u
  kept : Kept s u
  hit : ∃ f, u.tlbHit qk cx va = some f ∧ f.d = true

theorem noteAccess_clean {qk cx va : Nat} {e : TlbEnt} (h : s.translate qk cx va true = .ok e) (hd : e.d = true) :
    Noted s (s.noteAccess qk cx va true) qk cx va := by
  obtain ⟨hc, hv⟩ := translate_ok h
  obtain ⟨f, hf, -, -, hfd, -⟩ := noteAccess_fills h hc hv
  refine ⟨?_, noteAccess_keeps s qk cx va true, f, hf, hfd rfl⟩
  unfold State.noteAccess
  simp only [h, hd, Bool.not_true, Bool.and_false, Bool.false_eq_true, if_false]
  exact ⟨rfl, rfl, rfl, rfl, rfl⟩

/-- An access at a page that the TLBs hold as dirty is translated by them. -/
theorem translate_of_hit {qk cx va va' : Nat} {f : TlbEnt} (hf : s.tlbHit qk cx va = some f) (hd : f.d = true) (hpage : va' / 65536 = va / 65536) :
    s.translate qk cx va' true = .ok f := by
  have hf' : s.tlbHit qk cx va' = some f := by
    unfold State.tlbHit at hf ⊢
    rwa [hpage]
  simp [State.translate, hf', hd]

theorem tlbHit_congr {qk cx va : Nat} (hq : t.quads = s.quads) (hc : t.clus = s.clus) : t.tlbHit qk cx va = s.tlbHit qk cx va := by
  unfold State.tlbHit State.quad State.cluster
  rw [hq, hc]

/-! ## Half of a record (07:R201) -/

/-- Half of a record goes to shared SRAM, or to a page that is dirty and not in host memory. -/
def State.HalfClean (s : State) (sl a : Nat) (p : Place) : Prop :=
  p.space = .shr ∨ (p.space = .glob ∨ p.space = .ms) ∧ ∃ e, s.translate (qkOfCk (ckOf sl 0)) (s.runCx sl) a true = .ok e ∧ e.d = true

/-- A half has been written under the running context's key, and the page of its address stays dirty. -/
structure HalfWritten (s u : State) (sl a : Nat) (p : Place) (bs : List Byte) : Prop where
  kept : Kept s u
  rd : ∀ loc, u.rdByte (s.keyNo (s.runCx sl)) loc = (s.wrBytes (s.keyNo (s.runCx sl)) p.loc bs).rdByte (s.keyNo (s.runCx sl)) loc
  clean : ∀ b p', b / 65536 = a / 65536 → p'.space = p.space → u.HalfClean sl b p'

/-- Writing bytes and squashing what used them keeps the TLBs. -/
theorem wrBytes_squashUsers {n : State} (key loc : Nat) (bs : List Byte) (secs : List Nat) (ht : ∀ k, (n.gang k).task = none) :
    let u := (n.wrBytes key loc bs).squashUsers secs
    Kept n u ∧ (∀ k a, u.rdByte k a = (n.wrBytes key loc bs).rdByte k a) ∧ u.quads = n.quads ∧ u.clus = n.clus := by
  have hw := wrBytes_keeps n key loc bs
  obtain ⟨-, -, hquads⟩ := wrBytes_frame n key loc bs
  have hclus : (n.wrBytes key loc bs).clus = n.clus := by
    obtain ⟨_, _, _, _, _, h⟩ := wrBytes_written n key loc bs
    rw [h]
  generalize n.wrBytes key loc bs = w at hw hquads hclus
  obtain ⟨hq, -, hsq⟩ := squashList_quiet ((w.gangs.filter (fun e => e.2.live && (meets e.2.ch.rsec secs || meets e.2.ch.wsec secs))).map (fun e => e.1))
    w (hw.tasks ht)
  have hs := squashList_squashed ((w.gangs.filter (fun e => e.2.live && (meets e.2.ch.rsec secs || meets e.2.ch.wsec secs))).map (fun e => e.1))
    w (hw.tasks ht)
  exact ⟨hw.trans hq.toKept, hq.rdByte, hsq.trans hquads, hs.clus.trans hclus⟩

theorem donePart_writes (bs : List Byte) (ht : ∀ k, (s.gang k).task = none) (hc : s.HalfClean sl a p) :
    HalfWritten s (s.donePart sl a p bs) sl a p bs := by
  rcases hc with hshr | ⟨hspace, e, he, hd⟩
  · have hpart : s.donePart sl a p bs = (s.wrBytes (s.keyNo (s.runCx sl)) p.loc bs).squashUsers (sectorsOf p.loc 8) := by
      simp [State.donePart, hshr]
    obtain ⟨hkept, hrd, -, -⟩ := wrBytes_squashUsers (s.keyNo (s.runCx sl)) p.loc bs (sectorsOf p.loc 8) ht
    rw [hpart]
    exact ⟨hkept, fun loc => hrd _ loc, fun b p' _ hp => .inl (hp.trans hshr)⟩
  · have hnoted := noteAccess_clean he hd
    have hpart : s.donePart sl a p bs = ((s.noteAccess (qkOfCk (ckOf sl 0)) (s.runCx sl) a true).wrBytes (s.keyNo (s.runCx sl)) p.loc bs).squashUsers
        (sectorsOf p.loc 8) := by
      rcases hspace with h | h <;> simp [State.donePart, h, hnoted.kept.keyNo]
    generalize s.noteAccess (qkOfCk (ckOf sl 0)) (s.runCx sl) a true = n at hnoted hpart
    obtain ⟨hagree, hkn, f, hhit, hfd⟩ := hnoted
    obtain ⟨hkept, hrd, hquads, hclus⟩ := wrBytes_squashUsers (s.keyNo (s.runCx sl)) p.loc bs (sectorsOf p.loc 8) (hkn.tasks ht)
    rw [hpart]
    refine ⟨hkn.trans hkept, fun loc => (hrd _ loc).trans ((hagree.wrBytes _ _ _).rdByte _ _), fun b p' hb hp => .inr ⟨hp ▸ hspace, f, ?_, hfd⟩⟩
    rw [(hkn.trans hkept).runCx]
    exact translate_of_hit ((tlbHit_congr hquads hclus).trans hhit) hfd hb

/-! ## The record (07:R201) -/

theorem rdByte_wrBytes_apart (hm : s.MemOk) {key loc b : Nat} {bs : List Byte} (h : ∀ j, j < bs.length → s.links.home b ≠ s.links.home (loc + j)) :
    (s.wrBytes key loc bs).rdByte key b = s.rdByte key b := by
  refine rdByte_putAll_other key b _ (s.remember key _) hm fun e he => ?_
  rw [zip_range_eq_map] at he
  obtain ⟨j, hj, rfl⟩ := List.mem_map.mp he
  exact h j (List.mem_range.mp hj)

theorem RecordPlace.halfClean (hp : s.RecordPlace sl a p) : s.HalfClean sl a p := by
  rcases hp.clean with h | ⟨hhost, he⟩
  · exact .inl h
  · rcases (doneCheck_half hp.low).space with h | h | h | h
    · exact .inl h
    · exact .inr ⟨.inl h, he⟩
    · exact .inr ⟨.inr h, he⟩
    · exact absurd h hhost

theorem HalfClean.ne_host (h : s.HalfClean sl a p) : p.space ≠ .host := by
  rcases h with h | ⟨h | h, -⟩ <;> rw [h] <;> decide

/-- Both halves of a record that has a place stand there one after the other. -/
theorem putDone_writes {bs : List Byte} (counts : Bool) (hm : s.MemOk) (ht : ∀ k, (s.gang k).task = none) (ha : a ≠ 0)
    (hp : s.RecordPlace sl a p) (hbs : bs.length = 16) : Kept s (s.putDone sl a bs counts) ∧
      ∀ k, k < 16 → (s.putDone sl a bs counts).rdByte (s.keyNo (s.runCx sl)) (p.loc + k) = bs.getD k 0#8 := by
  have hclean := RecordPlace.halfClean hp
  have hput : s.putDone sl a bs counts = (s.donePart sl a p (bs.take 8)).donePart sl (a + 8) { p with loc := p.loc + 8 } (bs.drop 8) := by
    simp [State.putDone, ha, State.tryDone, hp.low, hp.high]
  have hlow := (doneCheck_half hp.low).home (HalfClean.ne_host hclean)
  have hhigh : ∀ (l : Links) {k : Nat}, k < 8 → l.home (p.loc + 8 + k) = p.loc + 8 + k := (doneCheck_half hp.high).home (HalfClean.ne_host hclean)
  have halign := (doneCheck_half hp.low).aligned
  have hu := donePart_writes (bs.take 8) ht hclean
  have hm' : (s.donePart sl a p (bs.take 8)).MemOk := .donePart hm
  rw [hput]
  generalize s.donePart sl a p (bs.take 8) = u at hu hm' ⊢
  have hv := donePart_writes (bs.drop 8) (hu.kept.tasks ht) (hu.clean (a + 8) { p with loc := p.loc + 8 } hp.page.symm rfl)
  refine ⟨hu.kept.trans hv.kept, fun k hk => ?_⟩
  have hrd := hv.rd
  rw [hu.kept.runCx, hu.kept.keyNo] at hrd
  have htake : (bs.take 8).length = 8 := by simp [hbs]
  have hdrop : (bs.drop 8).length = 8 := by simp [hbs]
  rw [hrd]
  by_cases hk8 : k < 8
  · rw [rdByte_wrBytes_apart hm' (fun j hj => by
      rw [hlow _ hk8, hhigh _ (hdrop ▸ hj)]
      omega), hu.rd,
      rdByte_wrBytes_of_nodup hm _ _ (nodup_homes_of_aligned _ halign htake) (by omega)]
    simp [List.getD_eq_getElem?_getD, hk8]
  · obtain ⟨j, rfl⟩ : ∃ j, k = 8 + j := ⟨k - 8, by omega⟩
    rw [← Nat.add_assoc, rdByte_wrBytes_of_nodup hm' _ _ (nodup_homes_of_aligned _ (show (p.loc + 8) % 8 = 0 by omega) hdrop) (by omega)]
    simp [List.getD_eq_getElem?_getD]

end Sys2Proof.Machine
end

section
/-!
Heads that are refused and launches that complete (07:R186, R201, 18:R396, R397).
-/

namespace Sys2Proof.Machine

variable {s t : State} {sl a : Nat} {p : Place}

/-! ## What a record leaves of the rest -/

theorem donePart_keeps (sl a : Nat) (p : Place) (bs : List Byte) (ht : ∀ k, (s.gang k).task = none) : Kept s (s.donePart sl a p bs) := by
  unfold State.donePart
  dsimp only
  generalize hn : ite (p.space = .glob ∨ p.space = .ms ∨ p.space = .host) _ _ = n
  have hkn : Kept s n := by
    rw [← hn]
    split
    · exact noteAccess_keeps s _ _ _ _
    · exact .refl s
  split
  · split
    · exact hkn.trans (wrBytes_keeps n _ _ _)
    · exact hkn.trans (event_quiet n _ _ _ _ _ _).toKept
  · exact hkn.trans (wrBytes_squashUsers _ _ _ _ (hkn.tasks ht)).1

theorem putDone_keeps (sl a : Nat) (bs : List Byte) (counts : Bool) (ht : ∀ k, (s.gang k).task = none) : Kept s (s.putDone sl a bs counts) := by
  unfold State.putDone
  split
  · exact .refl s
  split
  case h_1 u hu =>
    unfold State.tryDone at hu
    split at hu <;> cases hu
    next p q _ _ =>
      have hone := donePart_keeps sl a p (bs.take 8) ht
      exact hone.trans (donePart_keeps sl (a + 8) q (bs.drop 8) (hone.tasks ht))
  case h_2 =>
    split
    · have hcount : Quiet s (s.countDoneFail sl) := modVf_quiet s _ fun _ => rfl
      exact hcount.toKept
    · exact .refl s
  case h_3 va ipa t p _ =>
    have hwait : Quiet s _ := (selFault_quiet s (.done (s.runCx sl) a) sl va ipa true t p).trans
      (modSlice_quiet _ sl (f := fun x => { x with dones := x.dones ++ [(a, bs, counts)] }) fun _ => rfl)
    exact hwait.toKept

theorem putDone_zero (s : State) (sl : Nat) (bs : List Byte) (counts : Bool) : s.putDone sl 0 bs counts = s := if_pos rfl

theorem doneBytes_length (tag dtc : Word) (launch status : Nat) : (doneBytes tag dtc launch status).length = 16 := by
  simp [doneBytes, leBytes_length]

/-! ## A record's place in a state that agrees -/

/-- Two states agree on what the checks of a record read. -/
structure AgreeAt (s t : State) : Prop extends Agree s t where
  quads : t.quads = s.quads
  clus : t.clus = s.clus
  running : ∀ k, (t.slice k).running = (s.slice k).running
  units : ∀ k, (t.slice k).units = (s.slice k).units

theorem AgreeAt.runCx (h : AgreeAt s t) (sl : Nat) : t.runCx sl = s.runCx sl := by
  unfold State.runCx
  rw [h.running]

theorem AgreeAt.translate (h : AgreeAt s t) (qk cx va : Nat) (wr : Bool) : t.translate qk cx va wr = s.translate qk cx va wr := by
  unfold State.translate
  rw [tlbHit_congr h.quads h.clus, h.walk]

theorem AgreeAt.doneCheck (h : AgreeAt s t) (sl a : Nat) : t.doneCheck sl a = s.doneCheck sl a := by
  have hclus : ∀ k, t.cluster k = s.cluster k := fun k => by
    unfold State.cluster
    rw [h.clus]
  unfold State.doneCheck State.check State.checkIn
  dsimp only
  rw [h.runCx, h.ctx, h.units, h.translate, hclus]

theorem AgreeAt.recordPlace (h : AgreeAt s t) (hp : s.RecordPlace sl a p) : t.RecordPlace sl a p := by
  obtain ⟨hlow, hhigh, hpage, hclean⟩ := hp
  refine ⟨(h.doneCheck sl a).trans hlow, (h.doneCheck sl (a + 8)).trans hhigh, hpage, ?_⟩
  rw [h.runCx, h.translate]
  exact hclean

/-- A record that a state has written is shown by every state that keeps memory after it. -/
theorem shows_of_quiet {s u t : State} {bs : List Byte} {loc : Nat} (hkept : Kept s u) (hquiet : Quiet u t)
    (h : ∀ k, k < bs.length → u.rdByte (s.keyNo (s.runCx sl)) (loc + k) = bs.getD k 0#8) : t.Shows sl loc bs := by
  intro k hk
  have hall := hkept.trans hquiet.toKept
  rw [hall.runCx, hall.keyNo, hquiet.rdByte, h k hk]

/-! ## Refusals (18:R396, R397) -/

/-- A refusal counts at the function, in the cycle's selection. -/
def State.refusing (s : State) (sl : Nat) : State :=
  (s.arbTake.modSlice sl (fun x => { x with selBy := s.now + 1 })).modVf (s.ctx (s.runCx sl)).vf (fun f => { f with refused := f.refused + 1 })

/-- The record of a refused head, where its descriptor could be read. -/
def State.refusalWritten (s : State) (sl : Nat) (h : HeadRec) : State :=
  if h.unread then s.refusing sl else (s.refusing sl).putDone sl h.desc.done (doneBytes h.tag s.dtc 0xffff h.broken) false

theorem execRefusal_refuses {h : HeadRec} (hsel : s.selects sl = true) (hby : (s.slice sl).selBy ≤ s.now) (hfree : s.arbFree = true)
    (hfirst : minBy (fun h => refusalKey h.src) ((s.frontHeads sl).filter (fun h => h.broken != 0)) = some h) :
    exec (.refusal sl) s = .next (((s.refusalWritten sl h).popHead sl h.src).instanceEnds h.tabEnt) := by
  have hgo : ¬ (!s.selects sl || decide (s.now < (s.slice sl).selBy)) = true := by simp [hsel, hby]
  show execRefusal sl s = _
  unfold execRefusal
  rw [if_neg hgo, hfirst]
  dsimp only
  rw [State.atArbiter, if_pos hfree]
  rfl

theorem execSelection_broken {h : HeadRec} (hh : h ∈ s.frontHeads sl) (hb : h.broken ≠ 0) : exec (.selection sl) s = .next s := by
  have hany : (s.frontHeads sl).any (fun h => h.broken != 0) = true := List.any_eq_true.mpr ⟨h, hh, by simpa using hb⟩
  show execSelection sl s = _
  unfold execSelection
  rw [if_pos (by simp [hany])]

theorem refusing_agree (s : State) (sl : Nat) : AgreeAt s (s.refusing sl) := by
  have hslice : ∀ k, ((s.refusing sl).slice k).still = (s.slice k).still :=
    (modSlice_quiet s.arbTake sl (f := fun x => { x with selBy := s.now + 1 }) fun _ => rfl).slice
  exact ⟨⟨rfl, rfl, rfl, rfl, rfl⟩, rfl, rfl, fun k => (congrArg Slice.running (hslice k) :), fun k => (congrArg Slice.units (hslice k) :)⟩

theorem refusalWritten_keeps (s : State) (sl : Nat) (h : HeadRec) (ht : ∀ k, (s.gang k).task = none) :
    Kept (s.refusing sl) (s.refusalWritten sl h) := by
  unfold State.refusalWritten
  split
  · exact .refl _
  · exact putDone_keeps sl _ _ _ ht

theorem brokenHeadsAreRefused : Says.BrokenHeadsAreRefused := by
  intro s sl h v hm hnt hfree hby hsub hsel hh hb hfirst
  have ht : ∀ k, (s.gang k).task = none := gang_task_of_noTasks hnt
  have hpick : minBy (fun h => refusalKey h.src) ((s.frontHeads sl).filter (fun h => h.broken != 0)) = some h :=
    minBy_of_lt (List.mem_filter.mpr ⟨hh, by simpa using hb⟩) fun k hk hkh => by
      obtain ⟨hkf, hkb⟩ := List.mem_filter.mp hk
      exact hfirst k hkf (by simpa using hkb) hkh
  have hagree := refusing_agree s sl
  have hkept := refusalWritten_keeps s sl h ht
  have hquiet : Quiet (s.refusalWritten sl h) (((s.refusalWritten sl h).popHead sl h.src).instanceEnds h.tabEnt) :=
    (popHead_quiet h.src (by rw [hkept.runCx, hkept.submits, hagree.runCx]; exact hsub)).trans (instanceEnds_quiet _ _)
  have hall := hkept.trans hquiet.toKept
  refine ⟨execSelection_broken hh hb, _, execRefusal_refuses hsel hby hfree hpick, ?_, ?_, fun hun => ?_, fun p hun hdone hp => ?_⟩
  · rw [hall.refused, State.refusing, modVf_vf_same]
    rfl
  · rw [hall.launches, State.refusing]
    exact (congrArg Slice.launches ((modSlice_quiet s.arbTake sl (f := fun x => { x with selBy := s.now + 1 }) fun _ => rfl).slice sl) :)
  · have hsame : s.refusalWritten sl h = s.refusing sl := by
      unfold State.refusalWritten
      rcases hun with hun | hun
      · exact if_pos hun
      · rw [hun, putDone_zero, ite_self]
    rw [hquiet.mem, hsame]
    exact hagree.mem
  · have hwrites := putDone_writes (s := s.refusing sl) false hm ht hdone (hagree.recordPlace hp) (doneBytes_length h.tag s.dtc 0xffff h.broken)
    have hput : s.refusalWritten sl h = (s.refusing sl).putDone sl h.desc.done (doneBytes h.tag s.dtc 0xffff h.broken) false := by
      simp [State.refusalWritten, hun]
    rw [← hput] at hwrites
    exact shows_of_quiet (bs := doneBytes h.tag s.dtc 0xffff h.broken) hkept hquiet fun k hk => hwrites.2 k (by rwa [doneBytes_length] at hk)

/-! ## Tiles that are released (07:R186) -/

/-- An input once one of its readers has gone: a consumed one empties with the last. -/
def TileSt.readOnce (x : TileSt) : TileSt :=
  if x.cclaim ∧ x.rd - 1 = 0 then { x with rd := x.rd - 1, full := false, cclaim := false } else { x with rd := x.rd - 1 }

theorem readOnce_fields (x : TileSt) : x.readOnce.rd = x.rd - 1 ∧ x.readOnce.seq = x.seq ∧
    (x.readOnce.full = true ↔ x.full = true ∧ ¬ (x.cclaim = true ∧ x.rd ≤ 1)) ∧
    (x.readOnce.cclaim = true ↔ x.cclaim = true ∧ ¬ (x.cclaim = true ∧ x.rd ≤ 1)) := by
  have hlast : x.rd - 1 = 0 ↔ x.rd ≤ 1 := Nat.sub_eq_zero_iff_le
  rw [← hlast]
  unfold TileSt.readOnce
  split
  case isTrue h => simp [h]
  case isFalse h => simp [h]

theorem releaseTiles_keeps (cx : Nat) (d : Desc) (ht : ∀ k, (s.gang k).task = none) : Kept s (s.releaseTiles cx d) := by
  have hin : Kept s (d.tin.foldl (fun t i => t.setTile cx i (t.tile cx i).readOnce) s) := Kept.foldl (fun _ _ h => setTile_keeps cx _ _ h) d.tin ht
  exact hin.trans (Kept.foldl (f := fun t i => t.setTile cx i { t.tile cx i with
    full := true, wclaim := false, seq := ((t.tile cx i).seq + 1) % 2 ^ 32 }) (fun _ _ h => setTile_keeps cx _ _ h) d.tout (hin.tasks ht))

/-- The input of a launch that reads one tile loses a reader. -/
theorem tile_releaseTiles_input {cx i : Nat} {d : Desc} (hm : s.MemOk) (ht : ∀ k, (s.gang k).task = none) (ha : s.TileApart cx i)
    (hin : d.tin = [i]) (hout : d.tout = []) : (s.releaseTiles cx d).tile cx i = (s.tile cx i).readOnce := by
  have hone : s.releaseTiles cx d = s.setTile cx i (s.tile cx i).readOnce := by
    simp [State.releaseTiles, hin, hout, TileSt.readOnce]
  obtain ⟨hrd, hseq, -⟩ := readOnce_fields (s.tile cx i)
  have hlt := tile_rd_lt s cx i
  rw [hone]
  exact tile_setTile hm ht ha (by omega) (hseq ▸ tile_seq_lt s cx i)

/-- The output of a launch that writes one tile becomes full. -/
theorem tile_releaseTiles_output {cx i : Nat} {d : Desc} (hm : s.MemOk) (ht : ∀ k, (s.gang k).task = none) (ha : s.TileApart cx i)
    (hin : d.tin = []) (hout : d.tout = [i]) : (s.releaseTiles cx d).tile cx i =
      { s.tile cx i with full := true, wclaim := false, seq := ((s.tile cx i).seq + 1) % 2 ^ 32 } := by
  have hone : s.releaseTiles cx d = s.setTile cx i { s.tile cx i with
      full := true, wclaim := false, seq := ((s.tile cx i).seq + 1) % 2 ^ 32 } := by
    simp [State.releaseTiles, hin, hout]
  rw [hone]
  exact tile_setTile hm ht ha (tile_rd_lt s cx i) (Nat.mod_lt _ (by decide))

/-! ## Completion (07:R201) -/

/-- A launch has released its tiles and given its number back. -/
def State.released (s : State) (sl : Nat) (l : Launch) : State :=
  (s.releaseTiles (s.runCx sl) l.desc).modSlice sl (fun x => { x with launches := x.launches.filter (fun m => m.num != l.num) })

theorem released_keeps (sl : Nat) (l : Launch) (ht : ∀ k, (s.gang k).task = none) :
    (∀ k, ((s.released sl l).gang k).task = none) ∧ (s.released sl l).runCx sl = s.runCx sl ∧ (s.released sl l).dtc = s.dtc ∧
      ((s.released sl l).slice sl).launches = (s.slice sl).launches.filter (fun m => m.num != l.num) := by
  have h := releaseTiles_keeps (s.runCx sl) l.desc ht
  refine ⟨h.tasks ht, ?_, h.dtc, ?_⟩
  · rw [State.runCx, State.released, modSlice_slice_same]
    exact h.runCx sl
  · rw [State.released, modSlice_slice_same]
    exact congrArg (List.filter _) (h.launches sl)

theorem execLaunchCompletion_completes {n : Nat} {l : Launch} (hl : (s.slice sl).launches.find? (fun l => l.num == n) = some l)
    (hdone : s.launchDone sl l = true) (hrun : (s.slice sl).running.isSome = true) (hpre : s.preempted sl = false) (hfree : s.arbFree = true) :
    exec (.launchCompletion sl n) s = .next (((s.arbTake.released sl l).putDone sl l.desc.done
      (doneBytes l.tag (s.arbTake.released sl l).dtc n 0) true).instanceEnds l.tabEnt) := by
  have hnum : l.num = n := by simpa using List.find?_some hl
  have hgo : ¬ (!s.launchDone sl l || (s.slice sl).running.isNone || s.preempted sl) = true := by
    have hsome : (s.slice sl).running.isNone = false := by
      cases h : (s.slice sl).running with
      | none => rw [h] at hrun; cases hrun
      | some c => rfl
    simp [hdone, hsome, hpre]
  show execLaunchCompletion sl n s = _
  unfold execLaunchCompletion
  rw [hl]
  dsimp only
  rw [if_neg hgo, State.atArbiter, if_pos hfree]
  subst hnum
  rfl

/-- A launch without tiles changes no memory before its record is written. -/
theorem released_agree {l : Launch} (hin : l.desc.tin = []) (hout : l.desc.tout = []) (sl : Nat) : AgreeAt s (s.arbTake.released sl l) := by
  have hrel : s.arbTake.released sl l =
      s.arbTake.modSlice sl (fun x => { x with launches := x.launches.filter (fun m => m.num != l.num) }) := by
    simp [State.released, State.releaseTiles, hin, hout]
  rw [hrel]
  refine ⟨⟨rfl, rfl, rfl, rfl, rfl⟩, rfl, rfl, fun k => ?_, fun k => ?_⟩ <;>
  · by_cases hk : k = sl
    · rw [hk, modSlice_slice_same]
      rfl
    · rw [modSlice_slice_other _ _ _ _ hk]
      rfl

theorem finishedLaunchesComplete : Says.FinishedLaunchesComplete := by
  intro s sl n l cx hm hnt hfree hl hdone hrun hpre
  have ht : ∀ k, (s.arbTake.gang k).task = none := gang_task_of_noTasks hnt
  have hnum : l.num = n := by simpa using List.find?_some hl
  have hexec := execLaunchCompletion_completes hl hdone hrun hpre hfree
  obtain ⟨htasks, hcx, hdtc, hlaunches⟩ := released_keeps sl l ht
  have hput := putDone_keeps sl l.desc.done (doneBytes l.tag (s.arbTake.released sl l).dtc n 0) true htasks
  have hends := instanceEnds_quiet ((s.arbTake.released sl l).putDone sl l.desc.done (doneBytes l.tag (s.arbTake.released sl l).dtc n 0) true) l.tabEnt
  have hagree := arbTake_agree s
  have htile : l.desc.done = 0 → ∀ i, (((s.arbTake.released sl l).putDone sl l.desc.done
      (doneBytes l.tag (s.arbTake.released sl l).dtc n 0) true).instanceEnds l.tabEnt).tile cx i = (s.arbTake.releaseTiles cx l.desc).tile cx i := by
    intro h0 i
    rw [tile_congr hends, h0, putDone_zero]
    rfl
  refine ⟨_, hexec, ?_, fun i h0 hin hout ha => ?_, fun i h0 hin hout ha => ?_, fun p hin hout h0 hp => ?_⟩
  · rw [hends.launches, hput.launches, hlaunches, hnum]
    rfl
  · rw [htile h0, tile_releaseTiles_input (s := s.arbTake) hm ht (hagree.tileApart ha) hin hout, hagree.tile]
    obtain ⟨hrd, -, hfull, hcclaim⟩ := readOnce_fields (s.tile cx i)
    exact ⟨hrd, hfull, hcclaim⟩
  · rw [htile h0, tile_releaseTiles_output (s := s.arbTake) hm ht (hagree.tileApart ha) hin hout, hagree.tile]
  · have hbytes : doneBytes l.tag (s.arbTake.released sl l).dtc n 0 = doneBytes l.tag s.dtc n 0 := by
      rw [hdtc]
      rfl
    have hrel := released_agree (s := s) hin hout sl
    have hm' : (s.arbTake.released sl l).MemOk := by
      rw [State.MemOk, hrel.mem]
      exact hm
    obtain ⟨-, hwrites⟩ := putDone_writes true hm' htasks h0 (hrel.recordPlace hp)
      (doneBytes_length l.tag (s.arbTake.released sl l).dtc n 0)
    have hshows := shows_of_quiet (bs := doneBytes l.tag (s.arbTake.released sl l).dtc n 0) hput hends fun k hk =>
      hwrites k (by rwa [doneBytes_length] at hk)
    rw [hbytes] at hshows ⊢
    exact hshows

/-- Settles O47: each part by its own theorem, tiles and records by what the arbiter's work leaves of memory. -/
theorem queuesAndTableSlotsDispatchLaunches : Obligations.QueuesAndTableSlotsDispatchLaunches :=
  ⟨appendsEnterTheirQueue, theBestHeadIsDispatched, brokenHeadsAreRefused, launchSlotsFollowTheOverrunRule, switchSlotsStartTheLadder,
    finishedLaunchesComplete⟩

end Sys2Proof.Machine
end
